-- ==== Sys2Proof/Word.lean ====
section
/-! DEFINITION. The word types of the model and the one container type its state is made of. -/

namespace Sys2Proof

/-- A byte of a register, command, record or memory (R4: little-endian throughout). -/
abbrev Byte := BitVec 8

/-- A 32-bit word: a vector lane, a register of the device. -/
abbrev Word := BitVec 32

/-- A 64-bit word: an accumulator integer, a meridian value. -/
abbrev DWord := BitVec 64

/-- A finite map held as plain data: entries by strictly rising key.  An absent key stands for the default that
its reader names. -/
abbrev Tab (α : Type) := List (Nat × α)

/-- A byte string: a command entry, a record, a buffer. -/
abbrev Bytes := List Byte

end Sys2Proof
end

