-- ==== Sys2Proof/Types.lean ====
section
/-! DEFINITION. The operand types of the commands. -/

namespace Sys2Proof

/-- A command in flight: function index, mailbox and command identifier (R383, R389). -/
structure CmdRef where
  fn : Nat
  mbox : Nat
  cid : Nat
  deriving DecidableEq, Repr

/-- A transfer with the host that its answer names (R373). -/
inductive HostXfer where
  /-- The read of a submission entry: function and mailbox. -/
  | fetch (fn mbox : Nat)
  /-- The write of a completion entry: function and mailbox. -/
  | cq (fn mbox : Nat)
  /-- A read of a host buffer for a command in flight. -/
  | cmd (r : CmdRef)
  /-- The read of a tile from T3: tenant and page. -/
  | t3 (tenant page : Nat)
  /-- The read of a sequence's stream header. -/
  | stream (seq : Nat)
  /-- Data of an NVMe command: queue and command identifier. -/
  | nvme (sq cid : Nat)
  deriving DecidableEq, Repr

/-- A dispatch request that a step's plots have written into the expert area (R260): the sequencer reads its activations and
gate at `off` of the area, and its result goes to `res` (log 25). -/
structure Dispatch where
  layer : Nat
  expert : Nat
  seq : Nat
  off : Nat
  res : Nat
  deriving DecidableEq, Repr

/-- A boundary-scan instruction (R443, R493); the spec gives no codes. -/
inductive TapInstr where
  | extest
  | sample
  | bypass
  | idcode
  /-- Any other instruction, by its 8-bit code. -/
  | other (code : Nat)
  deriving DecidableEq, Repr

/-- A register write of the host (R9): a BAR0 access, or a field of configuration space that the spec names. -/
inductive RegWrite where
  /-- A BAR0 write of `len` bytes at an offset. -/
  | bar0 (off len value : Nat)
  /-- MSI-X Enable and the function mask. -/
  | msixControl (enable fmask : Bool)
  /-- ATS Enable. -/
  | atsEnable (v : Bool)
  /-- PASID Enable. -/
  | pasidEnable (v : Bool)
  deriving DecidableEq, Repr

/-- A fabric message as the module sends or receives it (chapter 12). -/
structure FabMsg where
  /-- OP (Table 12.4). | 8 bits | 12_fabric.md R305 | none -/
  op : Nat := 0
  /-- Service. | 3 bits | 12_fabric.md R317 | none -/
  service : Nat := 0
  /-- Tenant. | 6 bits | 12_fabric.md R318 | none -/
  tenant : Nat := 0
  /-- Destination module. | 17 bits | 12_fabric.md R311 | none -/
  dst : Nat := 0
  /-- Source module. | 17 bits | 12_fabric.md R311 | none -/
  src : Nat := 0
  /-- TXID. | 16 bits | 12_fabric.md R322 | none -/
  txid : Nat := 0
  /-- RETRY. | 1 bit | 12_fabric.md R322 | none -/
  retry : Bool := false
  /-- ESC. | 1 bit | 12_fabric.md R305 | none -/
  esc : Bool := false
  /-- NM. | 1 bit | 12_fabric.md R305 | none -/
  nm : Bool := false
  /-- LOCALHOP. | 1 bit | 12_fabric.md R305 | none -/
  localhop : Bool := false
  /-- HOPS. | 8 bits | 12_fabric.md R305 | none -/
  hops : Nat := 0
  /-- ORD. | 1 bit | 12_fabric.md R319 | none -/
  ord : Bool := false
  /-- OSEQ. | 16 bits | 12_fabric.md R319 | none -/
  oseq : Nat := 0
  /-- ADDR. | 64 bits | 12_fabric.md R305 | none -/
  addr : Nat := 0
  /-- ARG. | 32 bits | 12_fabric.md R305 | none -/
  arg : Nat := 0
  /-- Payload. | up to 983,008 bytes | 12_fabric.md R305 | none -/
  data : Bytes := []
  deriving DecidableEq, Repr

end Sys2Proof
end

