-- ==== Sys2Proof/Syntax.lean ====
section
/-! DEFINITION. The commands and events of the block: one constructor per row of the operation table.
Operands name the unit, the command in flight or the message that the row concerns; numbers are the spec's own. -/

namespace Sys2Proof

/-- A command or event of the Gulpel G18 (opcode_table.json). -/
inductive Instr where
  /-- R92: A core fetches commands of a job's running or next plot into its command queue while the job holds fewer entries than its share. -/
  | commandFetch (c slot : Nat)
  /-- R91: Core command that does nothing. -/
  | nop (c slot : Nat)
  /-- R113: Holds later commands of the job until every earlier command on the core has completed. -/
  | fenceLocal (c slot : Nat)
  /-- R113: Holds later commands until earlier commands complete and all their atlas writes, scatters and atomics are acknowledged. -/
  | fenceAtlas (c slot : Nat)
  /-- R110: Waits until a semaphore count reaches N and subtracts N atomically, in priority then arrival order. -/
  | semWait (c slot : Nat)
  /-- R111: Adds N to a semaphore after the checks of handle, holder and amount, optionally after a release fence. -/
  | semSignal (c slot : Nat)
  /-- R110: A wait not completed after TIMEOUT µs is withdrawn and its job halts with TIMEOUT. -/
  | semWaitTimeout (jobid jcore : Nat)
  /-- R114: Waits until an atlas word satisfies a condition against a comparand, watched by its owning hub. -/
  | memWait (c slot : Nat)
  /-- R114: A wait beyond the hub's 256 watches reads its word every 1 µs. -/
  | memWaitPoll (c slot : Nat)
  /-- R114: A memory wait not satisfied within TIMEOUT µs halts its job with TIMEOUT. -/
  | memWaitTimeout (c slot : Nat)
  /-- R115: Applies one 8-byte atomic to an atlas word, locally or as a fabric ATOMIC, optionally returning the old value. -/
  | memAtomic (c slot : Nat)
  /-- R73: Declares, redeclares or removes a scratchpad region for the rest of the plot. -/
  | spadRegion (c slot : Nat)
  /-- R87: Wakes OFF segments of the job's window, completing when all are ON. -/
  | spadSegmentUp (c slot : Nat)
  /-- R87: Closes selected segments after overlapping entries release, turning them OFF 32 cycles later. -/
  | spadSegmentDown (c slot : Nat)
  /-- R86: After 3,600 cycles of zeroing a WAKING segment turns ON. -/
  | segmentWakeDone (c seg : Nat)
  /-- R87: A CLOSING segment goes OFF 32 cycles after closing and its DOWN command completes. -/
  | segmentOff (c seg : Nat)
  /-- R44: Issues a bit-serial array pass with its weight, activation, scale and accumulation fields after the checks of R46. -/
  | arrayPass (c slot : Nat)
  /-- R34: A pass's first plane enters the array once the previous input phase, weight chain and any drain on its entries allow. -/
  | passFirstPlane (c : Nat)
  /-- R31: The column combiner adds a vector's block products into its accumulator entry. -/
  | accumulatorWrite (c : Nat)
  /-- R47: Issues a drain of accumulator entries to a scratchpad region in an output format. -/
  | arrayDrain (c slot : Nat)
  /-- R42: A drain starts reading once earlier passes on its entries and the previous drain on the core have finished. -/
  | drainStart (c : Nat)
  /-- R84: A drain's last chunk write lands and its scoreboard entries are released. -/
  | drainComplete (c : Nat)
  /-- R99: Moves 4-D strided runs between the atlas and a scratchpad region, with halo fill and packing. -/
  | tmMove (c slot : Nat)
  /-- R101: Gathers table rows indexed from a scratchpad index list into a data region. -/
  | tmGather (c slot : Nat)
  /-- R102: Scatters data rows to indexed table rows by overwrite or C40 add. -/
  | tmScatter (c slot : Nat)
  /-- R98: A tile-mover run is written at its destination and acknowledged, advancing the progress point. -/
  | tmRunDone (c id : Nat)
  /-- R177: Hints pages for promotion to T1, skipping pages it may not displace for. -/
  | tmHintWillneed (c slot : Nat)
  /-- R176: Sets the heat of hinted pages to 0. -/
  | tmHintCold (c slot : Nat)
  /-- R177: Demotes hinted pages now by the demotion order, skipping pinned and Z pages. -/
  | tmHintDemote (c slot : Nat)
  /-- R104: Loads scratchpad elements into a register group, widening exactly, in row or column mode. -/
  | vuLd (c slot : Nat)
  /-- R104: Stores a register group to scratchpad elements, converting and saturating. -/
  | vuSt (c slot : Nat)
  /-- R105: Lane-wise addition. -/
  | vuAdd (c slot : Nat)
  /-- R105: Lane-wise subtraction. -/
  | vuSub (c slot : Nat)
  /-- R105: Lane-wise multiplication. -/
  | vuMul (c slot : Nat)
  /-- R105: Lane-wise fused multiply-add with one rounding. -/
  | vuFma (c slot : Nat)
  /-- R55: Lane-wise minimum, minimumNumber for floats. -/
  | vuMin (c slot : Nat)
  /-- R55: Lane-wise maximum, maximumNumber for floats. -/
  | vuMax (c slot : Nat)
  /-- R105: Lane-wise absolute value. -/
  | vuAbs (c slot : Nat)
  /-- R105: Lane-wise negation. -/
  | vuNeg (c slot : Nat)
  /-- R105: FP32 correctly rounded division. -/
  | vuDiv (c slot : Nat)
  /-- R105: FP32 correctly rounded square root. -/
  | vuSqrt (c slot : Nat)
  /-- R105: Lane-wise bitwise AND. -/
  | vuAnd (c slot : Nat)
  /-- R105: Lane-wise bitwise OR. -/
  | vuOr (c slot : Nat)
  /-- R105: Lane-wise bitwise XOR. -/
  | vuXor (c slot : Nat)
  /-- R105: Lane-wise shift left by B mod 32. -/
  | vuShl (c slot : Nat)
  /-- R105: Lane-wise logical shift right by B mod 32. -/
  | vuShr (c slot : Nat)
  /-- R105: Lane-wise arithmetic shift right by B mod 32. -/
  | vuSar (c slot : Nat)
  /-- R105: Counts set bits of each lane. -/
  | vuPopc (c slot : Nat)
  /-- R105: Counts set bits of A xor B per lane. -/
  | vuHamm (c slot : Nat)
  /-- R55: Converts lanes between types under the conversion rules. -/
  | vuCvt (c slot : Nat)
  /-- R105: Compares lanes under a condition, writing 1 or 0. -/
  | vuCmp (c slot : Nat)
  /-- R105: Selects A where C's lane has any bit set, else B. -/
  | vuSel (c slot : Nat)
  /-- R105: Sums every lane of the group into lane 0, zeroing the others. -/
  | vuRsum (c slot : Nat)
  /-- R105: Takes the maximum of every lane of the group into lane 0. -/
  | vuRmax (c slot : Nat)
  /-- R105: FP32 base-2 exponential within 2 ulp. -/
  | vuExp2 (c slot : Nat)
  /-- R105: FP32 base-2 logarithm within 2 ulp. -/
  | vuLog2 (c slot : Nat)
  /-- R105: FP32 reciprocal square root within 2 ulp. -/
  | vuRsqrt (c slot : Nat)
  /-- R105: FP32 hyperbolic tangent within 2 ulp. -/
  | vuTanh (c slot : Nat)
  /-- R105: Softmax over the group's values. -/
  | vuSoftmax (c slot : Nat)
  /-- R123: Sorts the group's elements under the selection order. -/
  | vuBsort (c slot : Nat)
  /-- R124: Merges two sorted halves, optionally removing duplicate IDs. -/
  | vuBmerge (c slot : Nat)
  /-- R125: Sorts and keeps the best K elements, reporting SHORT and TIE_AT_K. -/
  | vuTopk (c slot : Nat)
  /-- R126: Moves elements passing a threshold to the front. -/
  | vuCompact (c slot : Nat)
  /-- R297: Samples one token from logits under seed, position, temperature, top-k and top-p. -/
  | vuSample (c slot : Nat)
  /-- R106: A plot's commands have completed and its atlas effects are acknowledged, resetting its job's region table and counting the plot. -/
  | plotDone (c slot : Nat)
  /-- R108: An idle core picks a victim from its steal directory and requests a plot. -/
  | stealRequest (c jobid : Nat)
  /-- R109: The victim grants its youngest stealable plot or refuses, at its own queue. -/
  | stealRequestArrival (c jobid : Nat)
  /-- R109: After a refusal the thief retries when RETRY × 16 cycles have passed. -/
  | stealRetry (c jobid : Nat)
  /-- R150: Checks an index image and opens it as version 1 with delta segments. -/
  | searchOpen (r : CmdRef)
  /-- R150: Refuses new work on an index and frees it when its versions are unreferenced. -/
  | searchClose (r : CmdRef)
  /-- R151: Submits queries that join batches and complete when every query has a result. -/
  | searchQuery (r : CmdRef)
  /-- R152: Applies inserts and deletes under one new epoch, or refuses whole. -/
  | searchUpdate (r : CmdRef)
  /-- R153: Starts a background rebuild of an index into a new version, optionally swapped at SWAPT. -/
  | searchResurveyStart (r : CmdRef)
  /-- R153: Aborts a running resurvey, freeing its tiles. -/
  | searchResurveyAbort (r : CmdRef)
  /-- R148: Requests that a built version become current at meridian time T. -/
  | searchSwap (r : CmdRef)
  /-- R139: A batch starts when its oldest query has waited BATCHUS or 512 queries wait, binding version and snapshot epoch. -/
  | searchBatchStart (h : Nat)
  /-- R135: A batch's plots end and each query's result header and entries are written. -/
  | searchBatchEnd (h b : Nat)
  /-- R145: A resurvey finishes building its new version. -/
  | resurveyBuildDone (h : Nat)
  /-- R146: A resurvey pauses or continues as foreground demand on the mask rises or falls. -/
  | resurveyYield (h : Nat)
  /-- R190: Maps pages as Z pages or allocated zeroed T1 frames with permissions. -/
  | atlasMap (r : CmdRef)
  /-- R161: Unmaps pages and frees their storage once caches have dropped them. -/
  | atlasUnmap (r : CmdRef)
  /-- R161: Changes permissions and export of mapped pages. -/
  | atlasProtect (r : CmdRef)
  /-- R190: Pins pages in T1, promoting them and giving Z pages frames. -/
  | atlasPin (r : CmdRef)
  /-- R190: Unpins pages. -/
  | atlasUnpin (r : CmdRef)
  /-- R177: Mailbox hint to promote pages to T1, waiting for completion. -/
  | atlasHintWillneed (r : CmdRef)
  /-- R176: Mailbox hint setting heat of pages to 0. -/
  | atlasHintCold (r : CmdRef)
  /-- R177: Mailbox hint demoting pages by the demotion order. -/
  | atlasHintDemote (r : CmdRef)
  /-- R190: Makes mapped pages Z, freeing storage and clearing poison and pin. -/
  | atlasZero (r : CmdRef)
  /-- R179: Creates a window mapping a peer module's pages of the same tenant. -/
  | atlasPeerCreate (r : CmdRef)
  /-- R161: Removes and unmaps a peer window. -/
  | atlasPeerRemove (r : CmdRef)
  /-- R178: Sets the module's lend pool and borrow peers. -/
  | atlasLend (r : CmdRef)
  /-- R181: Registers a pinned host region into the T3 pool. -/
  | atlasHreg (r : CmdRef)
  /-- R182: Drains a host region's tiles elsewhere and forgets the region. -/
  | atlasHunreg (r : CmdRef)
  /-- R188: Sets or removes the tenant's fault ring. -/
  | atlasFring (r : CmdRef)
  /-- R190: Commits the tenant's heat, promotion, hysteresis and demotion-order policy. -/
  | atlasPolicy (r : CmdRef)
  /-- R190: Writes leaf entries of a page range to a host buffer. -/
  | atlasQueryEntries (r : CmdRef)
  /-- R190: Writes the tenant's tier counts and quotas to a host buffer. -/
  | atlasQueryUsage (r : CmdRef)
  /-- R183: Hub transposers write the transpose of a matrix, destination tile by tile. -/
  | atlasTranspose (r : CmdRef)
  /-- R158: A hub translation service walks the tables for a page and returns its leaf entry. -/
  | translationWalk (c id : Nat)
  /-- R174: A migrated tile's entry switches to its destination, held accesses retranslate and waiting commands resume. -/
  | promotionComplete (t page cause : Nat)
  /-- R168: A demotion's copy ends and its source is released for the waiting allocation. -/
  | demotionComplete (t page res slot : Nat)
  /-- R18: An access arrives at a frame's owning hub and is applied in arrival order. -/
  | hubAccess (c id : Nat)
  /-- R172: Every HEATPER µs each tile's heat is halved. -/
  | heatDecay (t : Nat)
  /-- R376: A released T1 frame finishes zeroing and returns to the free pool. -/
  | frameZeroed (frame : Nat)
  /-- R188: A waiting fault record is written to the ring when room exists, then the producer count. -/
  | faultRingWrite (t : Nat) (ok : Bool)
  /-- R495: The host reports consumption, freeing ring room and retrying failed record writes. -/
  | fringCidxWrite (fn value : Nat)
  /-- R195: Creates a job from its descriptor and places its job-cores. -/
  | jobCreate (r : CmdRef)
  /-- R199: Hands plot descriptors to a job, dealt or targeted to job-cores. -/
  | jobPlots (r : CmdRef)
  /-- R96: Resumes a halted job-core by issuing the faulting command again. -/
  | jobResumeRetry (r : CmdRef)
  /-- R96: Resumes a halted job-core treating the faulting command as complete. -/
  | jobResumeSkip (r : CmdRef)
  /-- R210: Ends a job after all dealt and queued plots run. -/
  | jobAbortFinish (r : CmdRef)
  /-- R210: Ends a job after running plots finish, discarding queued plots. -/
  | jobAbortBoundary (r : CmdRef)
  /-- R211: Aborts a job at once on every core where it is resident, saving or restoring. -/
  | jobAbortImmediate (r : CmdRef)
  /-- R207: Creates a counting or lock semaphore owned by a job. -/
  | jobSemCreate (r : CmdRef)
  /-- R207: Destroys a semaphore, halting its waiters with NOPERM. -/
  | jobSemDestroy (r : CmdRef)
  /-- R194: Changes a job's priority at the next arbitration and placement. -/
  | jobPrio (r : CmdRef)
  /-- R212: Returns a job's state, job-core counts and loss count. -/
  | jobStatus (r : CmdRef)
  /-- R212: Sets the inheritance timeout and the no-pre-emption tenant mask. -/
  | jobPolicy (r : CmdRef)
  /-- R202: A saving job-core's issued commands are complete or parked and SAVE may start. -/
  | saveQuiesceEnd (c slot : Nat)
  /-- R202: A saving job-core's remote operations are all acknowledged or timed out. -/
  | saveDrainEnd (c slot : Nat)
  /-- R202: A save area is fully written and drain has ended; release begins. -/
  | saveEnd (c slot : Nat)
  /-- R202: After 32 cycles the saved job-core's slot, segments and span are freed. -/
  | saveReleaseEnd (c slot : Nat)
  /-- R205: A restored job-core turns RESIDENT and resumes at its saved point. -/
  | restoreEnd (c slot : Nat)
  /-- R209: If the holder is not resident within INHTO the best waiter is parked and its core given to the holder. -/
  | inhtoExpiry (jobid : Nat)
  /-- R214: Checks an image and legend, fit-checks it and applies permissions, pins, windows and jobs. -/
  | modelLoad (r : CmdRef)
  /-- R221: Ends a whole model or one version, freeing each when unreferenced. -/
  | modelUnload (r : CmdRef)
  /-- R220: Requests that a version become current at meridian time T. -/
  | modelSwap (r : CmdRef)
  /-- R232: Gathers, decodes and optionally pools embedding-table rows. -/
  | tableGather (r : CmdRef)
  /-- R233: Checks then applies row overwrites or adds to a writable table. -/
  | tableScatter (r : CmdRef)
  /-- R242: Admits, defers or refuses a new generation or answer sequence. -/
  | seqSubmit (r : CmdRef)
  /-- R269: Cancels a sequence at its next step boundary. -/
  | seqCancelNormal (r : CmdRef)
  /-- R270: Removes a sequence from its step at once. -/
  | seqCancelImmediate (r : CmdRef)
  /-- R275: Returns a sequence's state or the tenant's miss counts. -/
  | seqStatus (r : CmdRef)
  /-- R274: Moves a decode sequence to another module at the next step boundary. -/
  | seqMove (r : CmdRef)
  /-- R273: Writes an image of a sequence while it continues. -/
  | seqExportSnapshot (r : CmdRef)
  /-- R273: Writes an image of a sequence and ends it MOVED. -/
  | seqExportDetach (r : CmdRef)
  /-- R273: Reads a sequence image into a new decoding sequence. -/
  | seqImport (r : CmdRef)
  /-- R256: Sets drafter, beats, pools and dispatch parameters of a served generator at an epoch. -/
  | seqServe (r : CmdRef)
  /-- R268: Sets a tenant's TRACK or ADMIT policy, goals and sequence limit. -/
  | seqPolicy (r : CmdRef)
  /-- R253: When the previous prefill step has ended and prompt tokens remain, a new prefill step is formed and dealt. -/
  | prefillStepForm (h n : Nat)
  /-- R257: At each beat a decode step starts if the previous step's outputs are processed, else the beat is skipped. -/
  | decodeBeat (h n : Nat)
  /-- R243: An answer sequence's encode step runs after tokenisation ends. -/
  | encodeStepForm (h n : Nat)
  /-- R243: A rerank step runs on the candidates after the search ends. -/
  | rerankStepForm (h n : Nat)
  /-- R262: Each draft step of a speculative decode runs after the one before it. -/
  | draftStepForm (h n : Nat)
  /-- R262: The verify step runs on the pending token and drafts after drafting ends. -/
  | verifyStepForm (h n : Nat)
  /-- R244: All plots of a step are DONE and its outputs are processed for its sequences. -/
  | stepEnd (h n kind : Nat) (reqs : List Dispatch)
  /-- R260: At a home, gathered dispatch requests run as an expert step after EXWAIT or 512 tokens. -/
  | expertStepStart (h n : Nat)
  /-- R261: A result missing after DISPDL is resent to the next live home or handled under MISSEXP. -/
  | dispatchDeadline (h n num : Nat)
  /-- R254: Every REBALUS µs the sequencer may move one die share between prefill and decode pools. -/
  | rebalancePeriod (h n : Nat)
  /-- R255: Once the moving share's plots are DONE its job-cores are released and the pool masks change. -/
  | poolMoveRelease (h n : Nat)
  /-- R248: A sequence idle for KVCOLD µs has its KV blocks hinted COLD. -/
  | kvColdTimer (slot : Nat)
  /-- R265: A sequence stalled on a full output ring rereads CONS each beat or every 100 µs. -/
  | streamConsPoll (slot : Nat)
  /-- R283: A text engine tokenises one input by special matching, piece cutting and merging. -/
  | tokeniseUnit
  /-- R289: A text engine packs query and passages into a prompt template. -/
  | packUnit
  /-- R298: A text engine renders a committed token, checks stops and writes the next control record. -/
  | tokenUnit
  /-- R293: A text engine computes the constraint set and control record of a draft position. -/
  | draftPositionUnit
  /-- R290: A text engine checks and copies a text control block and indexes its constraints. -/
  | admissionUnit
  /-- R301: Tokenises input bytes with a model's gazetteer. -/
  | textTokenise (r : CmdRef)
  /-- R301: Renders token IDs to UTF-8 text. -/
  | textDetokenise (r : CmdRef)
  /-- R308: A flit is checked for CRC and sequence, credits are taken and a HEAD is routed or delivered. -/
  | flitReceive (port : Nat) (flit : Bytes) (fecOk : Bool)
  /-- R308: A NAK makes the sender replay go-back-N from the named sequence number. -/
  | nakReceive (port seq : Nat)
  /-- R309: A peer's CTRL FENCED turns the port FENCED. -/
  | fencedReceive (port : Nat)
  /-- R309: Loss of PCS lock takes the port DOWN. -/
  | pcsLockLoss (port : Nat)
  /-- R309: No valid flit for 2 µs takes the port DOWN. -/
  | linkSilenceTimeout (port : Nat)
  /-- R309: Training completes the CTRL exchange and the port turns UP. -/
  | portTrained (port peer peerPort : Nat) (creds : List Nat)
  /-- R320: A remote tile read is executed in the tenant's context and answered with RDATA or ERESP. -/
  | treadReceive
  /-- R320: A remote tile write is applied as one access and acknowledged. -/
  | twriteReceive
  /-- R321: A remote atomic is applied at the owning hub and its old value returned. -/
  | atomicReceive
  /-- R323: A device message is delivered to its endpoint unit, in order for an ordered flow. -/
  | msgReceive (svc : Nat)
  /-- R326: A collective segment is reduced or gathered by the collective engine. -/
  | collReceive
  /-- R322: A read response delivers its data and returns the operation's credit. -/
  | rdataReceive
  /-- R322: A write acknowledgement completes a remote write. -/
  | wackReceive
  /-- R322: An atomic response delivers the old value. -/
  | avalReceive
  /-- R319: Acknowledges ordered messages delivered in order. -/
  | mackReceive
  /-- R320: An error response reports the target's fault, or BUSY for retry. -/
  | erespReceive
  /-- R322: A remote operation without response after RTO is resent once, then fails PEER_LOST. -/
  | remoteOpTimeout (tx : Nat)
  /-- R322: A kept response is dropped 4 × RTO after execution. -/
  | responseTableExpiry
  /-- R323: An ordered flow without MACK for RTO resends, then fails. -/
  | orderedFlowTimeout (dst svc : Nat)
  /-- R342: A request answered BUSY is resent after RTO. -/
  | busyRetry (tx : Nat)
  /-- R328: A probe for a peer across another path is answered. -/
  | mgmtProbe
  /-- R328: No probe reply within PROBETO floods a LOST notice. -/
  | probeTimeout (m : Nat)
  /-- R328: A LOST notice clears the module's reach byte and spreads onward. -/
  | lostNotice
  /-- R328: A JOIN notice restores a module's reach byte. -/
  | joinNotice
  /-- R331: Sets module number, graticule widths, kinds, enable and fabric timers. -/
  | fabConfig (r : CmdRef)
  /-- R315: Writes route entries into shadow tables. -/
  | fabRouteWrite (r : CmdRef)
  /-- R315: Commits every shadow route table at once at EPOCH. -/
  | fabRouteCommit (r : CmdRef)
  /-- R331: Disables a fabric port. -/
  | fabPortDisable (r : CmdRef)
  /-- R331: Enables a fabric port to train. -/
  | fabPortEnable (r : CmdRef)
  /-- R307: Sets a disabled port's adaptive-lane credits. -/
  | fabPortSetcred (r : CmdRef)
  /-- R331: Writes 48 port records to a host buffer. -/
  | fabStatusPorts (r : CmdRef)
  /-- R331: Writes the reach map to a host buffer. -/
  | fabStatusReach (r : CmdRef)
  /-- R330: Fences named services or the whole module. -/
  | fabFence (r : CmdRef)
  /-- R330: Unfences services and sends JOIN. -/
  | fabUnfence (r : CmdRef)
  /-- R324: Creates a collective group over a graticule box. -/
  | fabGroupCreate (r : CmdRef)
  /-- R324: Destroys a collective group. -/
  | fabGroupDestroy (r : CmdRef)
  /-- R325: When NTRIG is taken from TSEM the group reads and runs its next descriptor. -/
  | collectiveTrigger (t g : Nat)
  /-- R325: A descriptor ends, writing status and time and signalling DSEM. -/
  | collectiveDone (t g : Nat)
  /-- R334: At a message boundary the port scheduler picks the next ready queue head and debits its buckets. -/
  | egressSchedule (port : Nat)
  /-- R335: Every 64 ticks each enabled bucket gains RATE × 2 millibytes up to BURST. -/
  | tokenRefill (port : Nat)
  /-- R338: When an entry's duration ends the gate list moves to its next entry. -/
  | gateEntryAdvance (port : Nat)
  /-- R339: A committed gate list takes over at its cycle start at or after T. -/
  | gateTakeover (port : Nat)
  /-- R343: Every INTERVAL µs selected queue depths and delays are written to the host ring. -/
  | queueSample (cons : Nat)
  /-- R337: Commits a shaper or policer's bucket fields. -/
  | fabShaper (r : CmdRef)
  /-- R334: Sets service and subscriber scheduling weights. -/
  | fabSched (r : CmdRef)
  /-- R339: Writes gate entries into a port's gate memory. -/
  | fabGateWrite (r : CmdRef)
  /-- R339: Commits a new gate list to take over at T. -/
  | fabGateCommit (r : CmdRef)
  /-- R343: Starts or stops queue sampling. -/
  | fabSample (r : CmdRef)
  /-- R346: A 64-bit read returns one consistent meridian value. -/
  | meridianRead64 (fn : Nat)
  /-- R346: A 32-bit read of the low word latches the high word for the function. -/
  | meridianLowRead (fn : Nat)
  /-- R346: A 32-bit read of the high word returns and consumes the latch, or the current bits. -/
  | meridianHighRead (fn : Nat)
  /-- R348: A 1PPS edge compares the meridian with the expected second and disciplines it. -/
  | ppsEdge
  /-- R348: No edge for 1.5 s sets PPSLOSS and seeks a parent or enters holdover. -/
  | ppsLossTimeout
  /-- R349: Every SYNCPER µs each UP port sends a TIME message. -/
  | timeSend (port : Nat)
  /-- R350: A TIME message updates parent choice, offset, slew and bound. -/
  | timeReceive (names : Bool)
  /-- R353: A pending scheduled action takes effect at the first unit boundary at or after T. -/
  | scheduledActionApply (num : Nat)
  /-- R348: Sets time source, ARMONLY, SYNCPER, seconds and link asymmetries. -/
  | timeConfig (r : CmdRef)
  /-- R356: Coordinator sends ARM to every participant of a mode change. -/
  | timeArm (r : CmdRef)
  /-- R358: Makes the coordinator send DISARM before T − GUARD. -/
  | timeDisarm (r : CmdRef)
  /-- R361: Writes per-port synchronisation records to a host buffer. -/
  | timeStatus (r : CmdRef)
  /-- R356: A participant binds its actions at T and answers ARMED or NOTARMED. -/
  | armMessage
  /-- R356: The coordinator records a participant's ARMED answer. -/
  | armedMessage
  /-- R356: The coordinator records a participant's refusal. -/
  | notarmedMessage
  /-- R357: A participant records CONFIRM for the change. -/
  | confirmMessage
  /-- R356: A participant drops its bound actions, completing them LATE. -/
  | disarmMessage
  /-- R358: The coordinator counts SWITCHED or FAULTED reports. -/
  | reportMessage
  /-- R356: At T − GUARD the coordinator sends CONFIRM if all armed, else DISARM. -/
  | armDecision (id : Nat)
  /-- R357: At T a participant applies confirmed actions, applies none, or fences its services with MODE_FAULT. -/
  | modeChangeActivate (coord id : Nat)
  /-- R358: At T + GUARD TIME.ARM completes OK or MODE_FAULT. -/
  | reportDeadline (id : Nat)
  /-- R487: 54 V within range starts the COLD reset and ROM start-up. -/
  | powerApplied (cores hbms chans ports : Nat) (ctlFail : Bool)
  /-- R487: Out-of-range input ends every activity as a power removal. -/
  | inputShutdown
  /-- R492: A ROM halted for low flow resumes once flow has been adequate for 1 s. -/
  | coolantWaitEnd (flow cores hbms chans ports : Nat) (ctlFail : Bool)
  /-- R482: PERST# asserted for 100 µs starts the CONV reset. -/
  | perstAssert
  /-- R375: Hot Reset, Link Disable or the link going down starts the CONV reset. -/
  | pcieLinkReset
  /-- R375: FLR of PF0 resets PF0 and every VF. -/
  | flrPf0
  /-- R375: FLR of a VF performs the TENANT reset of its tenant. -/
  | flrVf (t : Nat)
  /-- R375: FLR of PF1 resets the NVMe controller. -/
  | flrPf1
  /-- R364: Setting or clearing VF Enable makes VFs present or resets them. -/
  | vfEnableWrite (v : Bool)
  /-- R364: Changing NumVFs adds VFs or resets those removed. -/
  | numvfsWrite (n : Nat)
  /-- R376: A function's reset ends, READY and LASTRESET are set and IRQ_CAUSE.READY raised. -/
  | resetComplete (fn : Nat)
  /-- R366: A host read through the window is served from the tenant's atlas. -/
  | bar2Read (fn tag off len : Nat)
  /-- R366: A host write through the window is applied at its owning hub. -/
  | bar2Write (fn off : Nat) (bytes : Bytes)
  /-- R367: A BAR2 read still waiting at 8 ms completes with all-ones. -/
  | bar2ReadTimeout (fn : Nat)
  /-- R365: A misaligned or odd-sized BAR0 access has no effect and sets ACCERR. -/
  | bar0BadAccess (fn : Nat) (isRead : Bool)
  /-- R366: Writing the high word commits a new BAR2 window base. -/
  | winBaseWrite (fn : Nat) (wide : Bool) (value : Nat)
  /-- R370: DELAY µs after a counted event the moderated message is sent. -/
  | msixModerationTimer (fn v : Nat)
  /-- R370: Clearing a mask sends one message for a pending PBA bit. -/
  | msixUnmask (fn : Nat) (v : Option Nat)
  /-- R372: An Invalidate Request completes after requests under the entries are sent and reads completed. -/
  | atsInvalidate (fn page n : Nat)
  /-- R373: A completion for a device read arrives, or fails its transfer. -/
  | hostCompletion (x : HostXfer) (code addr : Nat) (data : Bytes)
  /-- R373: A non-posted host request times out and fails its transfer. -/
  | completionTimeout (x : HostXfer) (addr : Nat)
  /-- R374: Writing COMMIT commits a function's ingress bucket fields. -/
  | hostIngressCommit (f word : Nat)
  /-- R382: Makes submission entries up to the tail available or puts the mailbox in ERROR. -/
  | sqTailWrite (fn mbox value : Nat)
  /-- R382: Releases completion slots or puts the mailbox in ERROR. -/
  | cqHeadWrite (fn mbox value : Nat)
  /-- R380: Writing EN = 1 enables an OFF admin mailbox or sets CFGERR. -/
  | mboxEnable (fn : Nat)
  /-- R380: Writing EN = 0 turns the admin mailbox DRAINING. -/
  | mboxDisable (fn : Nat)
  /-- R388: The CP fetches available entries round-robin within flow-control limits. -/
  | mboxFetch (entry : Bytes)
  /-- R394: At expiry an unstarted command completes TIMEOUT and a started X or P command is stopped. -/
  | commandTimeout (r : CmdRef)
  /-- R400: Writes identify data to a host buffer. -/
  | devIdentify (r : CmdRef)
  /-- R401: Creates a work mailbox. -/
  | devMboxCreate (r : CmdRef)
  /-- R397: Drains and removes a work mailbox. -/
  | devMboxRemove (r : CmdRef)
  /-- R402: Completes OK and starts a WARM reset. -/
  | devReset (r : CmdRef)
  /-- R395: Cancels the oldest in-flight command of a mailbox with the given CID. -/
  | devCancel (r : CmdRef)
  /-- R404: Enables a tenant with an empty atlas context. -/
  | tenEnable (r : CmdRef)
  /-- R404: Disables a tenant by the TENANT reset. -/
  | tenDisable (r : CmdRef)
  /-- R405: Commits a tenant's services, limits, core mask and quotas. -/
  | tenConfig (r : CmdRef)
  /-- R406: Writes a tenant's configuration and usage to a host buffer. -/
  | tenQuery (r : CmdRef)
  /-- R407: Moves bytes through the service DMA between host, atlas and namespaces. -/
  | dmaCopy (r : CmdRef)
  /-- R407: A 64 KiB piece's destination writes are acknowledged or sent. -/
  | dmaPieceComplete (r : CmdRef)
  /-- R408: Sets or removes the host log ring, optionally replaying stored records. -/
  | logRing (r : CmdRef)
  /-- R409: Sets the class mask of records passed to the ring. -/
  | logFilter (r : CmdRef)
  /-- R409: Copies stored event records to a host buffer. -/
  | logRead (r : CmdRef)
  /-- R408: The host reports consumed log records, freeing room and retrying failed writes. -/
  | evconsWrite (value : Nat)
  /-- R408: A stored record is written to the host log ring when room exists. -/
  | logRingWrite (ok : Bool)
  /-- R410: Programs a unit's counter event, chaining and tenant filter. -/
  | perfSelect (r : CmdRef)
  /-- R411: Writes unit records of counters to a host buffer. -/
  | perfRead (r : CmdRef)
  /-- R411: Starts or stops periodic counter surveys. -/
  | perfSurvey (r : CmdRef)
  /-- R411: Every PERIOD µs a unit record per unit is written to the survey ring. -/
  | surveyPeriod (cons : Nat)
  /-- R412: A class A command arrives over MCTP and is answered with its completion. -/
  | mctpRequest (entry data : Bytes)
  /-- R416: Creates an I/O submission queue. -/
  | nvmeCreateIoSq (sq cid : Nat) (entry : Bytes)
  /-- R416: Creates an I/O completion queue. -/
  | nvmeCreateIoCq (sq cid : Nat) (entry : Bytes)
  /-- R416: Deletes an I/O submission queue. -/
  | nvmeDeleteIoSq (sq cid : Nat) (entry : Bytes)
  /-- R416: Deletes an I/O completion queue. -/
  | nvmeDeleteIoCq (sq cid : Nat) (entry : Bytes)
  /-- R430: Returns a supported log page. -/
  | nvmeGetLogPage (sq cid : Nat) (entry : Bytes)
  /-- R416: Returns identify data for a supported CNS. -/
  | nvmeIdentify (sq cid : Nat) (entry : Bytes)
  /-- R422: Aborts a command, including one held by a range lock. -/
  | nvmeAbort (sq cid : Nat) (entry : Bytes)
  /-- R416: Sets a supported feature. -/
  | nvmeSetFeatures (sq cid : Nat) (entry : Bytes)
  /-- R416: Returns a supported feature. -/
  | nvmeGetFeatures (sq cid : Nat) (entry : Bytes)
  /-- R416: Posts a request completed when an asynchronous event occurs. -/
  | nvmeAsyncEventRequest (sq cid : Nat) (entry : Bytes)
  /-- R413: Creates or deletes a namespace within namespace capacity. -/
  | nvmeNamespaceManagement (sq cid : Nat) (entry : Bytes)
  /-- R416: Attaches or detaches a namespace to controller 0. -/
  | nvmeNamespaceAttachment (sq cid : Nat) (entry : Bytes)
  /-- R415: Formats namespaces, replacing keys under secure erase. -/
  | nvmeFormatNvm (sq cid : Nat) (entry : Bytes)
  /-- R415: Block or crypto erase of namespaces. -/
  | nvmeSanitize (sq cid : Nat) (entry : Bytes)
  /-- R416: An absent command completes Invalid Command Opcode. -/
  | nvmeAbsentCommand (sq cid : Nat) (entry : Bytes)
  /-- R420: Reads LBAs from a namespace. -/
  | nvmeRead (sq cid : Nat) (entry : Bytes)
  /-- R418: Writes LBAs through the write buffer, or durably with FUA. -/
  | nvmeWrite (sq cid : Nat) (entry : Bytes)
  /-- R418: Completes when earlier completed writes are durable. -/
  | nvmeFlush (sq cid : Nat) (entry : Bytes)
  /-- R426: Zeroes or deallocates LBAs. -/
  | nvmeWriteZeroes (sq cid : Nat) (entry : Bytes)
  /-- R426: Deallocates LBA ranges. -/
  | nvmeDatasetManagement (sq cid : Nat) (entry : Bytes)
  /-- R418: A CC.SHN write makes buffered writes durable, then reports shutdown complete. -/
  | nvmeShutdownNotify (shn : Nat)
  /-- R417: A PF1 doorbell makes queue entries available for NVMe arbitration. -/
  | nvmeDoorbellWrite (off value : Nat)
  /-- R414: Grows or shrinks the T4 pool. -/
  | storeSplit (r : CmdRef)
  /-- R421: Creates an explicit range lock. -/
  | storeLockCreate (r : CmdRef)
  /-- R423: Releases an explicit range lock. -/
  | storeLockRelease (r : CmdRef)
  /-- R432: Writes the range-lock table to a host buffer. -/
  | storeLockList (r : CmdRef)
  /-- R432: Commits channel scheduler weights and GC thresholds. -/
  | storeArb (r : CmdRef)
  /-- R431: Writes the vendor health log to a host buffer. -/
  | storeHealth (r : CmdRef)
  /-- R422: A pending lock turns ACTIVE once overlapping executing commands complete. -/
  | lockActivate (lock : Nat)
  /-- R423: An explicit lock is released at EXPIRES. -/
  | lockExpiry (lock : Nat)
  /-- R417: A flash channel picks its next operation by rung and weight. -/
  | channelSchedule (chan : Nat)
  /-- R418: Buffered write data is programmed and its mapping made durable. -/
  | writeBufferProgram
  /-- R427: A garbage-collection copy is verified, its mappings switched and its source erased. -/
  | gcCopyVerified (chan : Nat) (high : List Nat)
  /-- R428: A program failure abandons a copy or relocates units and retires the block. -/
  | flashProgramFail (chan blk : Nat)
  /-- R428: An erase failure retires the block at once. -/
  | flashEraseFail (chan blk : Nat)
  /-- R428: A read failing every retry reports its error and retires the block after relocation. -/
  | flashReadFail (chan blk place : Nat)
  /-- R425: An APST idle timer expiry moves PF1 to its next power state. -/
  | apstIdleTimer
  /-- R435: An unserviced CP watchdog for 500 ms starts a WARM reset. -/
  | cpWatchdogExpiry
  /-- R435: A silent helper is reloaded (text engine) or causes a WARM reset. -/
  | helperHeartbeatTimeout (src seq : Nat)
  /-- R454: READY not set within 2 s of WARM or 3 s of COLD fails the start. -/
  | startFailureTimeout
  /-- R452: Copies host bytes into the firmware staging area. -/
  | fwDownload (r : CmdRef)
  /-- R452: Verifies the staged image and writes it into a slot. -/
  | fwCommit (r : CmdRef) (fail : Nat)
  /-- R453: Schedules activation of a valid slot at T. -/
  | fwActivate (r : CmdRef)
  /-- R455: Makes the trial slot ACTIVE, optionally raising MINSECVER and revoking keys. -/
  | fwConfirm (r : CmdRef) (fail : Nat)
  /-- R455: Sets trial TRIES to 0 and starts a WARM reset for fall-back. -/
  | fwRevert (r : CmdRef) (fail : Nat)
  /-- R461: Writes slot records and firmware state to a host buffer. -/
  | fwStatus (r : CmdRef)
  /-- R455: Without confirmation CONFIRMS seconds after READY the device reverts. -/
  | confirmsTimeout
  /-- R461: Returns life-cycle, returns left, owner, debug, revocations and MINSECVER. -/
  | secStatus (r : CmdRef)
  /-- R444: Returns a fresh nonce for a transition token. -/
  | secNonce (r : CmdRef)
  /-- R448: Returns the identity and attestation certificate chain. -/
  | secIdentity (r : CmdRef)
  /-- R449: Writes a signed attestation report. -/
  | secAttest (r : CmdRef)
  /-- R444: Checks a transition token and changes the life-cycle state, then restarts. -/
  | secLifecycle (r : CmdRef) (fail : Nat)
  /-- R459: An SMBus recovery request during the poll enters ROM recovery mode. -/
  | recoveryRequest
  /-- R463: Every 10 µs the governor measures power and sets the next period's array allowance. -/
  | governorPeriod (pmeas work : Nat) (flashOver : Bool)
  /-- R468: A power-step record is written to the energy shelf over PMBus. -/
  | planPublish (ack : Bool)
  /-- R468: An unacknowledged publication is retried after 1 ms, then posts PLAN_NAK. -/
  | planPublishRetry (ack : Bool)
  /-- R488: A write that lost arbitration is resent when the bus is free. -/
  | pmbusArbitrationLoss
  /-- R469: Every 1 ms sensors are read and the thermal stage re-evaluated. -/
  | sensorSample (inlet outlet : Int) (flow : Nat) (dies : List Int) (temp : Nat)
  /-- R471: A corrected hardware error is logged and counted. -/
  | correctedError (site unit arg : Nat)
  /-- R471: An uncorrectable error takes its site's contained action. -/
  | uncorrectableError (site unit a b : Nat)
  /-- R476: A coalescing record is posted when its 1 ms closes. -/
  | eventCoalesceClose (src code arg0 : Nat)
  /-- R479: At each window end a port's LAST and MAX byte counts are updated. -/
  | portWindowEnd (port : Nat)
  /-- R480: Commits the power cap, ramp and down-ramp setting. -/
  | pwrCap (r : CmdRef)
  /-- R467: Loads power plan entries. -/
  | pwrPlan (r : CmdRef)
  /-- R480: Writes power and governor status to a host buffer. -/
  | pwrStatus (r : CmdRef)
  /-- R480: Sets the shelf address, publication enable and lead time. -/
  | pwrShelf (r : CmdRef)
  /-- R480: Fences a named unit. -/
  | pwrFence (r : CmdRef)
  /-- R480: Reads a unit status register under its access code. -/
  | pwrUnitregRead (r : CmdRef)
  /-- R480: Writes a unit status register under its access code. -/
  | pwrUnitregWrite (r : CmdRef)
  /-- R443: A TAP instruction is loaded, boundary scan acting and others as BYPASS outside open states. -/
  | jtagInstructionLoad (dev : Nat) (load : TapInstr)
  /-- R9: A write to a register field without its own row acts under its access code. -/
  | registerWrite (fn : Nat) (w : RegWrite)
  /-- R93: A vector-unit command completes when its last result is written to register or scratchpad, releasing its scoreboard entries and satisfying a waiting FENCE. -/
  | vectorUnitComplete (c : Nat)
  /-- R427: A block erase after garbage collection finishes and the block joins the channel's free list. -/
  | eraseComplete (chan blk : Nat)
  /-- R482: Deassertion of PERST# lets PCIe link training start, at the later of that moment and the controller's release 150 ms after power-up. -/
  | perstDeassert
  /-- R376: The PCIe link reaches L0 at the negotiated rate and width, starting the configuration retry window and the 1 s count toward READY after CONV. -/
  | pcieLinkUp (rate width : Nat)
  /-- R345: At the first lock, a meridian that held its value resumes counting once the datum's value reaches it, and the module then turns LOCKED. -/
  | meridianHoldEnd
  /-- R416: The aggregation time of PF1's supported Interrupt Coalescing feature expires and the pending I/O completion interrupt is sent. -/
  | interruptCoalescingTimer (cq : Nat)
  deriving DecidableEq, Repr

end Sys2Proof
end

