-- ==== Sys2Proof/Config.lean ====
section
/-! DEFINITION. What an implementation fixes and what the spec leaves open: free values are opaque constants with no
body, so that no proof can see a value of them. -/

namespace Sys2Proof

/-- The n-th free value of the run, 64 bits wide (assumption log 4). -/
opaque Config.freeValue : Nat → BitVec 64

/-- Where die d's copy of the meridian stands, 2 being level with the meridian time unit: R21 keeps every copy within 2 ticks and
gives no value (log 24). -/
opaque Config.dieSkew : Nat → Fin 5

/-- Set of its hub's tile cache in which a line of a frame lies: frame, line.  R164 gives the number of sets and no index (log 7). -/
opaque Config.tcacheSet : Nat → Nat → BitVec 14

/-- Which line of a full set gives way, of those the set holds from the one used longest ago: tick, frames and lines (R164; log 7). -/
opaque Config.tcacheVictim : Nat → List (Nat × Nat) → Fin 16

/-- T1 frame of the reserve in which the translation table under an entry lies: tenant, level, number of the entry (R156, R166; log
7). -/
opaque Config.tableFrame : Nat → Nat → Nat → BitVec 24

/-- Cycles that a counter of a unit has counted, with its wrap flag as bit 32: free value number, unit, counter (Table 19.7; log 32). -/
opaque Config.cycleCount : Nat → Nat → Nat → BitVec 33

/-- EXP2 of Table 5.7, within 2 ulp, the same bits on every core: which bits is open (log 5). -/
opaque Config.exp2 : BitVec 32 → BitVec 32

/-- LOG2 of Table 5.7 (log 5). -/
opaque Config.log2 : BitVec 32 → BitVec 32

/-- RSQRT of Table 5.7 (log 5). -/
opaque Config.rsqrt : BitVec 32 → BitVec 32

/-- TANH of Table 5.7 (log 5). -/
opaque Config.tanh : BitVec 32 → BitVec 32

/-- SOFTMAX of Table 5.7: lane values of the group to the result at a lane (log 5). -/
opaque Config.softmax : List (BitVec 32) → Nat → BitVec 32

/-- CLEN the hub codec gives a tile with these nonzero bytes, by offset (R165): 0 to 15 (log 6). -/
opaque Config.codecClen : List (Nat × BitVec 8) → Fin 16

/-- What the hub codec stores of a tile with these nonzero bytes (R165: internal; log 6). -/
opaque Config.codecImage : List (Nat × BitVec 8) → List (BitVec 8)

/-- The module's serial number: each module has its own. -/
opaque Config.serial : BitVec 64

/-- Ordering code TZG-18M-48 (48 TB of usable flash), else TZG-18M-24 (Table 0.1). -/
opaque Config.order48 : Bool

/-- ML-DSA-65 verification under a public key: message, signature (R444, R450; log 5). -/
opaque Config.mldsaVerify : List (BitVec 8) → List (BitVec 8) → List (BitVec 8) → Bool

/-- The ROM's vendor public keys 0 to 3 (R446). -/
opaque Config.vendorKey : Nat → List (BitVec 8)

/-- Tiles of an index's delta segments: quads, entries per quad, bytes of an item (R150; log 13). -/
opaque Config.deltaTiles : Nat → Nat → Nat → Nat

/-- Tiles of a version that a resurvey builds, apart from its delta segments: items, quads, bytes of an item (R146;
log 13). -/
opaque Config.versionTiles : Nat → Nat → Nat → Nat

/-- The B8 block (32 mantissas, then the exponent) of 32 FP32 query elements of which one is an infinity or NaN, for which
R134 states no conversion (log 14). -/
opaque Config.queryBlock : List (BitVec 32) → List (BitVec 8)

/-- Is a bound of sqrt(n) / 5 ticks reported rounded up, else down (R351; log 15)? -/
opaque Config.boundUp : Nat → Bool

/-- Class of a code point at or above 0x80 that Table 11.5 gives by its Unicode 15.1 category: LETTER, MARK, DIGIT, SPACE,
OTHER as 0, 1, 2, 3, 5 (log 16). -/
opaque Config.uniClass : Nat → Nat

/-- The tile that holds an exported text state: its layout is internal (R277; log 17), and what is written is what is read again. -/
opaque Config.textCode : Equiv.Perm (BitVec 524288)

/-- The record of a KV block: hash, tokens and predecessor of a published one, or none; its layout is internal (R237; log 17). -/
opaque Config.blockRecord : Option (List (BitVec 8) × List Nat × Option Nat) → BitVec 4096

/-- The body of a CTRL or an IDLE flit: its layout is not in the spec (R305; log 40).  Values: 0 and the SEQ of a NAK; 1, module, port and
the adaptive credits at training; 2 FENCED; 3 IDLE. -/
opaque Config.ctrlBody : List Nat → BitVec 1920

/-- Token IDs beyond those that an exported sequence has (R273; log 17): sequence, position. -/
opaque Config.noToken : Nat → Nat → BitVec 32

/-- The identity certificate, DER (R447; log 5). -/
opaque Config.idCert : List (BitVec 8)

/-- The attestation certificate, DER, that the identity key issues for the measurements of a start (R448; log 5). -/
opaque Config.attCert : List (BitVec 8) → List (BitVec 8)

/-- ML-DSA-65 signature of a message by the attestation key that the measurements give (R448, R449; log 5). -/
opaque Config.attSign : List (BitVec 8) → List (BitVec 8) → List (BitVec 8)

/-- SHAKE256 measurement of the ROM, 32 bytes (Table 18.7). -/
opaque Config.romMeas : List (BitVec 8)

/-- SHAKE256 measurement, 32 bytes, of component k of the image the module was shipped with, whose bytes the model does not
hold (Table 18.7; log 3). -/
opaque Config.shippedMeas : Nat → List (BitVec 8)

/-- CW, nJ per array cycle, as an FP32 and in thousandths of a nanojoule (R465: calibrated per module; log 20). -/
opaque Config.cwFp32 : BitVec 32
opaque Config.cw : Nat

/-- Blocks of a flash channel, and how many of them are its initial spare (R426, R429; log 19). -/
opaque Config.chanBlocks : Nat → Nat
opaque Config.chanSpare : Nat → Nat

/-- Bytes of the Identify Controller data that the maker fixes and the spec does not give: vendor numbers, serial and model
text, firmware revision text, OUI, and what R416 leaves to the controller (log 5). -/
opaque Config.nvmeIdent : Nat → BitVec 8

/-- The two values that a combining step of a collective takes next, of those left: tenant, group, number of the operation,
element, step (R326: the order is unspecified, the same at every member; log 21). -/
opaque Config.collPick : Nat → Nat → Nat → Nat → Nat → Nat × Nat

end Sys2Proof
end

