-- ==== Sys2Proof/Machine/Bits.lean ====
section
/-! DEFINITION. Bit fields, byte order and sign extension (R4, R5). -/

namespace Sys2Proof.Machine

/-- Field [hi:lo] of a value. -/
def bitsOf (v hi lo : Nat) : Nat := v / 2 ^ lo % 2 ^ (hi + 1 - lo)

/-- Bit i of a value. -/
def bitOf (v i : Nat) : Bool := v / 2 ^ i % 2 = 1

/-- 1 or 0. -/
def bit01 (b : Bool) : Nat := if b then 1 else 0

/-- A little-endian quantity (R4). -/
def leVal : Bytes → Nat
  | [] => 0
  | b :: bs => b.toNat + 256 * leVal bs

/-- The little-endian bytes of a quantity, n of them. -/
def leBytes : Nat → Nat → Bytes
  | 0, _ => []
  | n + 1, v => BitVec.ofNat 8 v :: leBytes n (v / 256)

/-- Byte i of a byte string; 0 past its end. -/
def byteAt (bs : Bytes) (i : Nat) : Nat := (bs.getD i 0).toNat

/-- The n-byte little-endian quantity at offset off. -/
def fieldAt (bs : Bytes) (off n : Nat) : Nat := leVal ((bs.drop off).take n)

/-- Field "off [hi:lo]" of a command, descriptor or entry: the bit range counts from byte off (R5). -/
def fld (bs : Bytes) (off hi lo : Nat) : Nat := bitsOf (fieldAt bs off (hi / 8 + 1)) hi lo

/-- Flag "off [i]". -/
def flg (bs : Bytes) (off i : Nat) : Bool := fld bs off i i = 1

/-- Every byte of [from, upto] is 0. -/
def zeroBytes (bs : Bytes) (lo hi : Nat) : Bool := ((bs.drop lo).take (hi + 1 - lo)).all (· = 0)

/-- The two's-complement value of the low n bits. -/
def sext (n v : Nat) : Int :=
  let u := v % 2 ^ n
  if n ≠ 0 ∧ 2 ^ (n - 1) ≤ u then (u : Int) - 2 ^ n else u

/-- The n-bit two's-complement encoding of an integer. -/
def twos (n : Nat) (i : Int) : Nat := (i % (2 ^ n : Nat)).toNat

/-- Clamp to an interval. -/
def clampI (lo hi v : Int) : Int := if v < lo then lo else if hi < v then hi else v

/-- Number of set bits among the low n. -/
def popc : Nat → Nat → Nat
  | 0, _ => 0
  | n + 1, v => v % 2 + popc n (v / 2)

/-- A check of a command: byte offset of the field and whether it is violated.  The first offending field is
the one at the lowest byte offset (Table 5.8, R385). -/
def firstBad : List (Nat × Bool) → Option Nat
  | [] => none
  | (o, true) :: t => match firstBad t with
    | some p => some (min o p)
    | none => some o
  | (_, false) :: t => firstBad t

/-- The number of bytes that hold n units of the given size, rounded up. -/
def ceilDiv (a b : Nat) : Nat := (a + b - 1) / b

/-- Zip with positions. -/
def enumFrom {α : Type} : Nat → List α → List (Nat × α)
  | _, [] => []
  | n, a :: as => (n, a) :: enumFrom (n + 1) as

/-- Replace byte i of a byte string. -/
def setByte (bs : Bytes) (i : Nat) (b : Byte) : Bytes := bs.set i b

/-- Pad or cut a byte string to n bytes. -/
def padTo (n : Nat) (bs : Bytes) : Bytes := (bs ++ List.replicate (n - bs.length) 0).take n

end Sys2Proof.Machine
end

