-- ==== Sys2Proof/Machine/State.lean ====
section
/-! DEFINITION. The state of the module: every piece of state the spec gives it, as plain data.  Each field's
docstring gives, after its description: width | file and rule of the spec | reset value. -/

namespace Sys2Proof.Machine

/-- Where a mapped page's tile is (Tables 7.2, 7.3). -/
inductive Loc where
  /-- Z page: no storage. -/
  | zero
  /-- T1 frame. -/
  | t1 (frame : Nat)
  /-- T2, lent: module and slot of its lend pool. -/
  | lent (module slot : Nat)
  /-- T2, peer window: window number and page index in it. -/
  | win (window : Nat)
  /-- T3: host region and first sector. -/
  | t3 (region sector : Nat)
  /-- T4: first sector in the pool. -/
  | t4 (sector : Nat)
  deriving DecidableEq, Repr

/-! ### The compute core (chapters 2 to 5) -/

/-- A declared scratchpad region (R73, Table 4.2). -/
structure Region where
  /-- First job-relative line. | 12 bits | 04_scratchpad.md R73 | table of the job descriptor -/
  lbase : Nat := 0
  /-- Lines reserved. | 13 bits | 04_scratchpad.md R73 | table of the job descriptor -/
  nlines : Nat := 0
  /-- Row pitch in chunks. | 13 bits | 04_scratchpad.md R73 | table of the job descriptor -/
  pitch : Nat := 0
  /-- Rows. | 16 bits | 04_scratchpad.md R73 | table of the job descriptor -/
  nrows : Nat := 0
  /-- Element size code (1, 2, 4, 8 bytes). | 2 bits | 04_scratchpad.md R73 | table of the job descriptor -/
  esize : Nat := 0
  /-- Software part of the bank hash. | 6 bits | 04_scratchpad.md R73 R74 | table of the job descriptor -/
  skew : Nat := 0
  deriving DecidableEq, Repr

/-- Power state of a scratchpad segment (R86). -/
inductive SegPower where
  | off | waking | on | closing
  deriving DecidableEq, Repr

/-- A plot descriptor (R106, Table 5.11) as the device holds it, with the JOB.PLOTS command that handed it over. -/
structure Plot where
  /-- Atlas address of the first command. | 57 bits | 05_command_streams.md R106 | none held -/
  cmdva : Nat := 0
  /-- Commands in the plot. | 16 bits | 05_command_streams.md R106 | none held -/
  ncmd : Nat := 0
  /-- Never stolen. | 1 bit | 05_command_streams.md R106 R107 | none held -/
  sticky : Bool := false
  /-- Software identifier. | 32 bits | 05_command_streams.md R106 | none held -/
  plotid : Nat := 0
  /-- Semaphore signalled at DONE, 0xFFFF none. | 16 bits | 05_command_streams.md R106 | none held -/
  donesem : Nat := 0xFFFF
  /-- Amount signalled. | 16 bits | 05_command_streams.md R106 | none held -/
  doneinc : Nat := 0
  /-- Number of the JOB.PLOTS command (or sequencer step) that handed the plot over. | - | 08_jobs_preemption.md R199 R212 | none held -/
  batch : Nat := 0
  /-- Place of the plot in the dealing order of its job. | - | 08_jobs_preemption.md R199 | none held -/
  seq : Nat := 0
  /-- Job-core the plot is bound to, if any. | 7 bits | 08_jobs_preemption.md R199 | none held -/
  target : Option Nat := none
  deriving DecidableEq, Repr

/-- A fetched command waiting in a job's stream (R90): its 64 bytes and its index in its plot. -/
structure QCmd where
  /-- Command bytes as fetched. | 512 bits | 05_command_streams.md R90 | queue empty -/
  bytes : Bytes := []
  /-- Index in its plot. | 16 bits | 05_command_streams.md R106 | queue empty -/
  idx : Nat := 0
  deriving DecidableEq, Repr

/-- A plot whose commands the core is fetching or running (R106): FETCHING until its first command issues. -/
structure RunPlot where
  /-- The plot's descriptor. | 32 bytes | 05_command_streams.md R106 | none -/
  plot : Plot := {}
  /-- Commands fetched so far. | 16 bits | 05_command_streams.md R92 | none -/
  fetched : Nat := 0
  /-- Commands issued (or skipped) so far: the issue position. | 16 bits | 05_command_streams.md R106, 08 R203 | none -/
  issued : Nat := 0
  /-- RUNNING from the issue of the first command. | 1 bit | 05_command_streams.md R106 | none -/
  running : Bool := false
  deriving DecidableEq, Repr

/-- Why a job-core's issue on its core waits although no unit is busy (R93, R110, R113, R114). -/
inductive Wait where
  /-- A SEM.WAIT queued at its hub: handle and amount; deadline in meridian-tick time when TIMEOUT is nonzero. -/
  | sem (handle amount : Nat) (deadline : Option Nat) (q : QCmd)
  /-- A FENCE of kind LOCAL (false) or ATLAS (true). -/
  | fence (atlas : Bool) (q : QCmd)
  /-- A MEM.WAIT: address, condition code, comparand, deadline, and the hub that watches it (none: polled). -/
  | mem (va cond value : Nat) (deadline : Option Nat) (hub : Option Nat) (nextPoll : Nat) (q : QCmd)
  deriving DecidableEq, Repr

/-- How a job-core came to be halted on its core (R95, R106, R184). -/
inductive HaltKind where
  /-- A command refused at issue, or a wait that ended in a halt: RETRY issues it again. -/
  | refused (q : QCmd)
  /-- A parked tile-mover command, by its number on the core (R184, R185). -/
  | parked (id : Nat)
  /-- A fetch that faulted (R97). -/
  | fetch
  /-- A DONESEM signal that R111 refused, of a plot that is DONE (R106). -/
  | donesem (p : Plot)
  deriving DecidableEq, Repr

/-- A pending tile-mover command's state within its current run (R98). -/
inductive RunStage where
  /-- The run's tiles are not all translated. -/
  | translate
  /-- Parked on a MISS of the page (R184): it resumes when that promotion ends. -/
  | miss (page : Nat)
  /-- Parked on a fault other than MISS: kind, cause, access code, page (R184). -/
  | fault (kind cause access page : Nat)
  /-- Every tile of the run is translated; its accesses may arrive at their hubs. -/
  | ready
  /-- The run's accesses have been applied at their hubs. -/
  | applied
  /-- The run awaits answers to remote operations of the fabric (R320, R321), by operation number. -/
  | remote (ops : List Nat)
  deriving DecidableEq, Repr

/-- A command in the tile mover (R98 to R102, R115, R176). -/
structure TmCmd where
  /-- Number of the command on its core. | - | 05_command_streams.md R93 | none -/
  id : Nat := 0
  /-- Job slot. | 3 bits | 05_command_streams.md R93 | none -/
  slot : Nat := 0
  /-- The command. | 512 bits | 05_command_streams.md R90 | none -/
  cmd : QCmd := {}
  /-- Progress point: the first run not completed. | 32 bits | 05_command_streams.md R98 | none -/
  progress : Nat := 0
  /-- Stage of the run at the progress point. | - | 05_command_streams.md R98 | none -/
  stage : RunStage := .translate
  /-- Pages the command has touched, for HEAT once per command. | - | 07_atlas.md R172 | none -/
  touched : List Nat := []
  /-- Value an atomic of the command read, or bytes a remote read returned. | 64 bits | 05_command_streams.md R115 | none -/
  got : Bytes := []
  /-- The regions bound at issue. | - | 04_scratchpad.md R73 | none -/
  regs : Tab Region := []
  /-- Meridian at issue. | 64 bits | 09_models_tables.md R227 Table 9.9 | none -/
  at0 : Nat := 0
  deriving DecidableEq, Repr

/-- A scoreboard entry (R81): owner slot, kind, and a range of 256-byte granules of location addresses. -/
structure SbEntry where
  /-- Owning job, by slot. | 3 bits | 04_scratchpad.md R81 | no entry -/
  slot : Nat := 0
  /-- Command that holds it (several for a joined READ range, R83). | - | 04_scratchpad.md R83 R84 | no entry -/
  owners : List Nat := []
  /-- WRITE, else READ. | 1 bit | 04_scratchpad.md R81 | no entry -/
  write : Bool := false
  /-- First granule. | 16 bits | 04_scratchpad.md R81 | no entry -/
  lo : Nat := 0
  /-- Last granule. | 16 bits | 04_scratchpad.md R81 | no entry -/
  hi : Nat := 0
  deriving DecidableEq, Repr

/-- The tag of the active weights and the weights themselves (R45, R35, R37). -/
structure WTag where
  /-- Job of the pass that loaded the weights. | 32 bits | 02_compute_core.md R45 | invalid -/
  jobid : Nat := 0
  /-- WREG. | 8 bits | 02_compute_core.md R45 | invalid -/
  wreg : Nat := 0
  /-- XREG. | 8 bits | 02_compute_core.md R45 | invalid -/
  xreg : Nat := 0
  /-- WROW0. | 16 bits | 02_compute_core.md R45 | invalid -/
  wrow0 : Nat := 0
  /-- WFMT. | 4 bits | 02_compute_core.md R45 | invalid -/
  wfmt : Nat := 0
  /-- THIN. | 1 bit | 02_compute_core.md R45 | invalid -/
  thin : Bool := false
  /-- NWROW. | 10 bits | 02_compute_core.md R45 R35 | invalid -/
  nwrow : Nat := 0
  /-- The active weight registers: one weight row of Table 2.7 per array row. | 512 x 512 x 8 bits | 02_compute_core.md R33 R35 | no weights -/
  wrows : List Bytes := []
  /-- The active thinned indices: one 128-byte index row per array row. | 512 x 512 x 2 bits | 02_compute_core.md R33 R37 | no indices -/
  xrows : List Bytes := []
  deriving DecidableEq, Repr

/-- A pass in the array (R31 to R46). -/
structure Pass where
  /-- Number of the command on its core. | - | 02_compute_core.md R42 | none -/
  id : Nat := 0
  /-- Job slot. | 3 bits | 02_compute_core.md R40 | none -/
  slot : Nat := 0
  /-- The command. | 512 bits | 02_compute_core.md R44 | none -/
  cmd : QCmd := {}
  /-- Core cycle of its issue. | - | 02_compute_core.md R34 R39 | none -/
  issueCyc : Nat := 0
  /-- Core cycle of its first plane, once it has entered. | - | 02_compute_core.md R32 R34 | none -/
  start : Option Nat := none
  /-- The weights the pass works with, once its first plane has entered. | 512 x 512 x 10 bits | 02_compute_core.md R33 R45 | none -/
  weights : Option WTag := none
  /-- Next vector to be written. | 10 bits | 02_compute_core.md R31 | none -/
  nextVec : Nat := 0
  /-- The regions bound at issue. | - | 04_scratchpad.md R73 | none -/
  regs : Tab Region := []
  /-- Core cycle before which it writes no entry: a drain issued before it has not read them yet. | - | 02_compute_core.md R42 | none -/
  hold : Nat := 0
  /-- The feed buffer: the activations of each vector, read while the pass holds its AREG entry. | - | 04_scratchpad.md R79 R84 | none -/
  acts : List (List Int) := []
  /-- Weight exponents of each scale block, one per column, and activation exponents of each vector, one per block. | - | 03_numerics.md R56 | none -/
  wexps : List Bytes := []
  aexps : List Bytes := []
  deriving DecidableEq, Repr

/-- A drain in the drain path (R42, R43). -/
structure Drain where
  /-- Number of the command on its core. | - | 02_compute_core.md R42 | none -/
  id : Nat := 0
  /-- Job slot. | 3 bits | 02_compute_core.md R40 | none -/
  slot : Nat := 0
  /-- The command. | 512 bits | 02_compute_core.md R47 | none -/
  cmd : QCmd := {}
  /-- The accumulator entries have been read. | 1 bit | 02_compute_core.md R42 | none -/
  started : Bool := false
  /-- Core cycle in which it reads its last value. | - | 02_compute_core.md R42 | none -/
  readEnd : Nat := 0
  /-- Converted bytes by physical scratchpad address, waiting to be written (drain combiner, R80). | 32 KiB combiner | 04_scratchpad.md R80 | none -/
  out : List (Nat × Byte) := []
  /-- The regions bound at issue. | - | 04_scratchpad.md R73 | none -/
  regs : Tab Region := []
  deriving DecidableEq, Repr

/-- A SPAD.SEGMENT command under way (R87). -/
structure SegOp where
  /-- Number of the command on its core. | - | 04_scratchpad.md R87 | none -/
  id : Nat := 0
  /-- Job slot. | 3 bits | 04_scratchpad.md R87 | none -/
  slot : Nat := 0
  /-- Physical segments it selects. | 16 bits | 04_scratchpad.md R87 | none -/
  segs : List Nat := []
  /-- UP, else DOWN. | 1 bit | 04_scratchpad.md R87 | none -/
  up : Bool := false
  deriving DecidableEq, Repr

/-- A vector-unit command whose scoreboard entries are not yet released (R93, VECTOR_UNIT_COMPLETE). -/
structure VuCmd where
  /-- Number of the command on its core. | - | 05_command_streams.md R93 | none -/
  id : Nat := 0
  /-- Job slot. | 3 bits | 05_command_streams.md R93 | none -/
  slot : Nat := 0
  deriving DecidableEq, Repr

/-- The context a job-core carries from core to core: what a pre-emption saves (Table 8.4), its place apart. -/
structure Ctx where
  /-- Vector registers V0 to V31, 64 lanes: key register * 64 + lane. | 32 x 64 x 32 bits | 05_command_streams.md R103 | 0 -/
  vregs : Tab Word := []
  /-- Region table, regions 1 to 63. | 63 descriptors | 04_scratchpad.md R72 R73 | job descriptor's table -/
  regions : Tab Region := []
  /-- QUEUED plots, head first. | up to PQDEPTH | 05_command_streams.md R106 | empty -/
  plotq : List Plot := []
  /-- The plot FETCHING or RUNNING. | - | 05_command_streams.md R106 | none -/
  run : Option RunPlot := none
  /-- The next plot, whose commands are fetched early (R92). | - | 05_command_streams.md R92 | none -/
  nextRun : Option RunPlot := none
  /-- Commands fetched and not issued. | up to 256 of 64 bytes, shared | 05_command_streams.md R92 | empty -/
  queue : List QCmd := []
  /-- SEM.WAIT, SEM.SIGNAL release, FENCE or MEM.WAIT that holds later commands. | - | 05_command_streams.md R93 | none -/
  wait : Option Wait := none
  /-- Halt state. | - | 05_command_streams.md R95 | not halted -/
  halt : Option HaltKind := none
  /-- A command or plot fetch parked on a MISS of this page. | 41 bits | 05_command_streams.md R97 | none -/
  fetchMiss : Option Nat := none
  /-- A fetch fault that halts the job once earlier commands have completed: kind, cause, page. | - | 05_command_streams.md R97 | none -/
  fetchFault : Option (Nat × Nat × Nat) := none
  /-- Window losses of the job on this job-core. | 32 bits, saturating | 03_numerics.md R61 | 0 -/
  loss : Nat := 0
  /-- AOVF, DSAT, WLSAT of the job: bits 0, 1, 2. | 3 bits | 08_jobs_preemption.md R203 | 0 -/
  nstat : BitVec 3 := 0
  /-- A JOB.RESUME given while SAVED: skip (true) or retry (false). | 1 bit | 08_jobs_preemption.md R205 | none -/
  resume : Option Bool := none
  deriving DecidableEq, Repr

/-- A slot of a core: a resident job-core. -/
structure Slot where
  /-- Job identifier. | 32 bits | 08_jobs_preemption.md R192 | slot empty -/
  jobid : Nat := 0
  /-- Job-core index. | 7 bits | 08_jobs_preemption.md R193 | slot empty -/
  jcore : Nat := 0
  /-- Physical segments of the scratch window, in window order. | up to 16 | 04_scratchpad.md R72 | slot empty -/
  segs : List Nat := []
  /-- First entry of the accumulator window. | 9 bits | 02_compute_core.md R40 | slot empty -/
  accBase : Nat := 0
  /-- Entries of the accumulator window. | 10 bits | 02_compute_core.md R40 | slot empty -/
  nacc : Nat := 0
  /-- RELEASE of a saved job-core under way: core cycle at which it ends. | - | 08_jobs_preemption.md R202 | none -/
  release : Option Nat := none
  /-- The job-core's context. | - | 08_jobs_preemption.md R203 | slot empty -/
  ctx : Ctx := {}
  deriving DecidableEq, Repr

/-- An accumulator value: X and its anchor (R57). -/
structure AccVal where
  /-- X. | 64 bits | 03_numerics.md R57 | 0 -/
  x : BitVec 64 := 0
  /-- Anchor A. | 10 bits, two's complement | 03_numerics.md R57 | -512 -/
  a : Int := -512
  deriving DecidableEq, Repr

/-- An outstanding steal request of a core (R109). -/
structure Steal where
  /-- Job. | 32 bits | 05_command_streams.md R108 | none -/
  jobid : Nat := 0
  /-- Victim core. | 7 bits | 05_command_streams.md R108 | none -/
  victim : Nat := 0
  /-- Threshold the thief applied. | 4 bits | 05_command_streams.md R109 | none -/
  thresh : Nat := 0
  /-- Core cycle at which the request reaches the victim. | - | 05_command_streams.md R109 | none -/
  due : Nat := 0
  /-- After a refusal: core cycle of the retry. | - | 05_command_streams.md R109 | none -/
  retryAt : Option Nat := none
  deriving DecidableEq, Repr

/-- One compute core (Table 2.1). -/
structure Core where
  /-- Resident job-cores by slot 0 to 7. | 8 slots | 05_command_streams.md R93, 08 R196 | empty -/
  slots : Tab Slot := []
  /-- Order in which slots became resident, oldest first. | - | 08_jobs_preemption.md R201 | empty -/
  order : List Nat := []
  /-- Scratchpad bytes by physical address segment * 2^20 + line * 4096 + bank * 64 + byte. | 16 MiB | 04_scratchpad.md R71 | every segment OFF; a waking segment is zeroed -/
  spad : Tab Byte := []
  /-- Segment power states; absent is OFF (CORE_SPSEG). | 16 x 2 bits | 04_scratchpad.md R86 R89 | OFF -/
  segs : Tab SegPower := []
  /-- Core cycle at which each WAKING segment turns ON or CLOSING segment goes OFF. | - | 04_scratchpad.md R86 R87 | none -/
  segDue : Tab Nat := []
  /-- Accumulator memory: key entry * 512 + column. | 512 x 512 x (64 + 10) bits | 02 R40, 03_numerics.md R57 | X = 0, A = -512 -/
  acc : Tab AccVal := []
  /-- Tag and contents of the active weights. | - | 02_compute_core.md R45 | invalid -/
  wtag : Option WTag := none
  /-- Passes issued and not finished, oldest first. | - | 02_compute_core.md R42 | empty -/
  passes : List Pass := []
  /-- Drains issued and not finished, oldest first. | - | 02_compute_core.md R42 | empty -/
  drains : List Drain := []
  /-- Core cycle after the last plane of the last started pass entered row 0. | - | 02_compute_core.md R34 | 0 -/
  rowFree : Nat := 0
  /-- Core cycle of the last shadow copy in column 0. | - | 02_compute_core.md R34 | none -/
  lastShadow : Option Nat := none
  /-- Core cycle in which the drain path has read the last value of the drains started. | - | 02_compute_core.md R42 | 0 -/
  drainFree : Nat := 0
  /-- Tile-mover commands. | up to 16 | 05_command_streams.md R93 | empty -/
  tm : List TmCmd := []
  /-- Vector-unit commands not complete. | up to 8 | 05_command_streams.md R93 | empty -/
  vu : List VuCmd := []
  /-- SPAD.SEGMENT commands under way. | up to 4 | 05_command_streams.md R93 | empty -/
  spadOps : List SegOp := []
  /-- Scoreboard entries (CORE_SBSTAT.INUSE counts them). | 32 entries | 04_scratchpad.md R81 | empty -/
  sb : List SbEntry := []
  /-- Core cycle at which an owner's entries are released, for those whose release is a time of their pass. | - | 04_scratchpad.md R84 | none -/
  sbDue : Tab Nat := []
  /-- CORE_SBSTAT.HIWAT. | 6 bits, RC | 04_scratchpad.md R89 | 0 -/
  hiwat : Nat := 0
  /-- Slot served last by the issue stage. | 3 bits | 05_command_streams.md R93 | DESIGN CHOICE 7 (log entry 3) -/
  rrSlot : Nat := 7
  /-- Number the next command issued on the core takes. | - | model's own numbering of R93's commands | 0 -/
  nextId : Nat := 0
  /-- CORE_NSTAT: WLSAT, DSAT, AOVF at bits 2, 1, 0. | 3 bits, W1C | 03_numerics.md R70 | 0 -/
  nstat : BitVec 3 := 0
  /-- CORE_WLOSS.COUNT. | 32 bits, RC | 03_numerics.md R70 | 0 -/
  wloss : Nat := 0
  /-- CORE_STEAL.STEAL_EN. | 1 bit, RWL | 05_command_streams.md R116 | 1 -/
  stealEn : Bool := true
  /-- CORE_STEAL.XDIE_EN. | 1 bit, RWL | 05_command_streams.md R116 | 1 -/
  xdieEn : Bool := true
  /-- CORE_STEAL.MIN_LOCAL, committed. | 4 bits, RWS | 05_command_streams.md R116 | 2 -/
  minLocal : Nat := 2
  /-- CORE_STEAL.MIN_REMOTE, committed. | 4 bits, RWS | 05_command_streams.md R116 | 4 -/
  minRemote : Nat := 4
  /-- CORE_STEAL.RETRY, committed. | 8 bits, RWS | 05_command_streams.md R116 | 16 -/
  retry : Nat := 16
  /-- Shadow of MIN_LOCAL. | 4 bits | 05_command_streams.md R116 | 2 -/
  shLocal : Nat := 2
  /-- Shadow of MIN_REMOTE. | 4 bits | 05_command_streams.md R116 | 4 -/
  shRemote : Nat := 4
  /-- Shadow of RETRY. | 8 bits | 05_command_streams.md R116 | 16 -/
  shRetry : Nat := 16
  /-- CORE_STEAL.PQDEPTH code. | 2 bits, RWB | 05_command_streams.md R116 | 0b10 -/
  pqdepth : Nat := 2
  /-- CORE_CSTAT.CBAD. | 1 bit, W1C | 05_command_streams.md R116 | 0 -/
  cbad : Bool := false
  /-- CORE_CSTAT.WREJ. | 1 bit, W1C | 05_command_streams.md R116 | 0 -/
  wrej : Bool := false
  /-- Translation cache: (tenant, page, location it was given), newest last. | 512 entries | 07_atlas.md R159 | empty -/
  tlb : List (Nat × Nat × Loc) := []
  /-- Outstanding steal requests. | at most two | 05_command_streams.md R109 | none -/
  steals : List Steal := []
  /-- Arithmetic-clock cycles since COLD at tick `cycTick`, in eightieths of a cycle. | - | 01_organisation.md R20, 19 R477 | 0 -/
  cyc80 : Nat := 0
  /-- Tick at which the core's clock took its rate. | - | 01_organisation.md R20 | 0 -/
  cycTick : Nat := 0
  /-- Eightieths of an arithmetic cycle per tick: 36 at 1.8 GHz, less under a thermal stage. | - | 01_organisation.md R20, 19 R469 | 36 -/
  rate : Nat := 36
  deriving DecidableEq, Repr

/-! ### The atlas (chapter 7) -/

/-- A leaf entry (R157, Table 7.2): present in the page table when V = 1. -/
structure Leaf where
  /-- TIER, Z and LOC. | 2 + 1 + 41 bits | 07_atlas.md R157 | page not mapped -/
  loc : Loc := .zero
  /-- PIN. | 1 bit | 07_atlas.md R157 | 0 -/
  pin : Bool := false
  /-- PSN. | 1 bit | 07_atlas.md R157 R175 | 0 -/
  psn : Bool := false
  /-- CAUSE of the poison (Table 7.9). | 8 bits | 07_atlas.md R175 | none -/
  cause : Nat := 0
  /-- MIG. | 1 bit | 07_atlas.md R174 | 0 -/
  mig : Bool := false
  /-- E. | 1 bit | 07_atlas.md R157 | 0 -/
  e : Bool := false
  /-- PR. | 1 bit | 07_atlas.md R157 | 0 -/
  pr : Bool := false
  /-- PW. | 1 bit | 07_atlas.md R157 | 0 -/
  pw : Bool := false
  /-- PX. | 1 bit | 07_atlas.md R157 | 0 -/
  px : Bool := false
  /-- HEAT. | 8 bits | 07_atlas.md R157 R172 | 0 -/
  heat : Nat := 0
  /-- CLEN: stored sectors minus 1 in T3 and T4. | 4 bits | 07_atlas.md R157 R165 | 0 -/
  clen : Nat := 0
  deriving DecidableEq, Repr

/-- A peer window (R179). -/
structure PeerWin where
  /-- Local first page. | 41 bits | 07_atlas.md R179 | no window -/
  lpage : Nat := 0
  /-- Peer first page. | 41 bits | 07_atlas.md R179 | no window -/
  rpage : Nat := 0
  /-- Pages. | 27 bits | 07_atlas.md R179 | no window -/
  npages : Nat := 0
  /-- Peer module. | 17 bits | 07_atlas.md R179 | no window -/
  module : Nat := 0
  deriving DecidableEq, Repr

/-- A tenant's fault ring in host memory (R188). -/
structure FaultRing where
  /-- HADDR. | 64 bits | 07_atlas.md R188 | no ring -/
  haddr : Nat := 0
  /-- PADDR. | 64 bits | 07_atlas.md R188 | no ring -/
  paddr : Nat := 0
  /-- LOG2N. | 5 bits | 07_atlas.md R188 | no ring -/
  log2n : Nat := 0
  /-- VECTOR. | 11 bits | 07_atlas.md R188 | no ring -/
  vector : Nat := 0
  deriving DecidableEq, Repr

/-- The unit that a waiting fault record holds (R189). -/
inductive FaultHolder where
  | core (core slot jobid : Nat)
  | cmd (fn mbox cid : Nat)
  | seq (id : Nat)
  | group (tenant group : Nat)
  | window (fn : Nat)
  | port (p : Nat)
  deriving DecidableEq, Repr

/-- A fault record waiting for its ring (R189): 32 bytes and the unit it holds. -/
structure FaultRec where
  /-- The record (Tables 5.8 and 7.8). | 32 bytes | 07_atlas.md R187 | none -/
  bytes : Bytes := []
  /-- The unit it holds. | - | 07_atlas.md R189 | none -/
  holder : FaultHolder := .window 0
  deriving DecidableEq, Repr

/-- One tenant's atlas context and fault ring (R154). -/
structure AtlasCtx where
  /-- Mapped pages by page number: the context's tables. | 2^41 pages | 07_atlas.md R156 R157 | none mapped -/
  pages : Tab Leaf := []
  /-- Peer windows by number. | 4096 windows | 07_atlas.md R179 | none -/
  wins : Tab PeerWin := []
  /-- ATLAS.POLICY HEATPER, µs. | 32 bits, RWS | 07_atlas.md R190 | 1000 -/
  heatper : Nat := 1000
  /-- ATLAS.POLICY PROMOTE. | 8 bits, RWS | 07_atlas.md R190 | 8 -/
  promote : Nat := 8
  /-- ATLAS.POLICY HYST. | 8 bits, RWS | 07_atlas.md R190 | 4 -/
  hyst : Nat := 4
  /-- ATLAS.POLICY DORDER. | 2 bits, RWS | 07_atlas.md R190 | 0b00 -/
  dorder : Nat := 0
  /-- The fault ring. | - | 07_atlas.md R188 | not set -/
  ring : Option FaultRing := none
  /-- Producer count. | 32 bits | 07_atlas.md R188 | 0 -/
  prod : Nat := 0
  /-- FRING_CIDX. | 32 bits, RW | 07_atlas.md R188 | 0 -/
  cidx : Nat := 0
  /-- Records waiting in the device. | - | 07_atlas.md R189 | none -/
  waiting : List FaultRec := []
  /-- FRING_STAT.FULL. | 1 bit, W1C | 07_atlas.md R189 | 0 -/
  full : Bool := false
  /-- FRING_STAT.WERR. | 1 bit, W1C | 07_atlas.md R495 | 0 -/
  werr : Bool := false
  /-- A failed write waits for FRING_CIDX or ATLAS.FRING before it is tried again. | 1 bit | 07_atlas.md R495 | 0 -/
  stalled : Bool := false
  /-- FRING_STAT.WINLOST. | 16 bits, RC | 07_atlas.md R189 | 0 -/
  winlost : Nat := 0
  deriving DecidableEq, Repr

/-- What a T1 frame holds (R160: the frame tag). -/
inductive FrameUse where
  /-- A tile of a tenant: context and page. -/
  | tile (tenant page : Nat)
  /-- Released and being zeroed (R376). -/
  | zeroing
  /-- Retired (R471), or lost with its fenced stack (R473). -/
  | gone
  deriving DecidableEq, Repr

/-- A migration under way (R168, R169, R173, R174). -/
structure Mig where
  /-- Context. | 6 bits | 07_atlas.md R174 | none -/
  tenant : Nat := 0
  /-- Page. | 41 bits | 07_atlas.md R174 | none -/
  page : Nat := 0
  /-- Destination, once allocated. | - | 07_atlas.md R168 | none -/
  dst : Option Loc := none
  /-- Destination tier 0 to 3. | 2 bits | 07_atlas.md R169 | none -/
  tier : Nat := 0
  /-- Foreground. | 1 bit | 07_atlas.md R173 | none -/
  fg : Bool := false
  /-- Hub whose migration engine makes it. | 3 bits | 07_atlas.md R173 | none -/
  hub : Nat := 0
  /-- Page whose demotion must release its source first. | 41 bits | 07_atlas.md R169 | none -/
  waitsOn : Option Nat := none
  /-- Locations a failed write has already tried. | - | 07_atlas.md R175 | none -/
  tried : List Loc := []
  /-- Pin the page when the promotion ends (ATLAS.PIN). | 1 bit | 07_atlas.md R190 | none -/
  pinAfter : Bool := false
  /-- It waits for its tier to have room: every tile it could displace is on the move. | 1 bit | 07_atlas.md R169 R170 | none -/
  needRoom : Bool := false
  /-- An engine's access waits for it. | 1 bit | 07_atlas.md R170 R186 | none -/
  eng : Bool := false
  deriving DecidableEq, Repr

/-- A registered host region (R181, R182). -/
structure HostRegion where
  /-- BUSADDR. | 64 bits | 07_atlas.md R181 | not registered -/
  busaddr : Nat := 0
  /-- LENGTH, bytes. | 46 bits | 07_atlas.md R181 | not registered -/
  length : Nat := 0
  /-- DRAINING. | 1 bit | 07_atlas.md R182 | not registered -/
  draining : Bool := false
  deriving DecidableEq, Repr

/-- A slot of this module's lend pool in use by a borrower (R178). -/
structure LentSlot where
  /-- Borrowing module. | 17 bits | 07_atlas.md R178 | free -/
  module : Nat := 0
  /-- Borrowing tenant. | 6 bits | 07_atlas.md R178 | free -/
  tenant : Nat := 0
  /-- Tile contents written by the borrower. | 64 KiB | 07_atlas.md R178 | 0 -/
  data : Tab Byte := []
  deriving DecidableEq, Repr

/-- A line of a hub's tile cache: its data are those of the frame, as the hub is the point of order (R164). -/
structure TLine where
  /-- Frame. | 24 bits | 07_atlas.md R164 | none -/
  frame : Nat := 0
  /-- Line of the frame, of 256 bytes. | 8 bits | 07_atlas.md R164 | none -/
  line : Nat := 0
  /-- Not yet written back. | 1 bit | 07_atlas.md R164 | 0 -/
  dirty : Bool := false
  deriving DecidableEq, Repr

/-- The atlas of the module: what no tenant owns alone. -/
structure Atlas where
  /-- Contexts by tenant. | 64 | 07_atlas.md R154 | tenant 0 only -/
  ctx : Tab AtlasCtx := []
  /-- Bytes of the tiles by tenant * 2^57 + address; an unlisted byte of a mapped page reads 0. | 64 x 2^57 bytes | 07_atlas.md R155 R162 | nothing listed -/
  mem : List Host.Cell := []
  /-- T1 frames in use, with their frame tags. | 15,728,640 frames | 07_atlas.md R158 R160 | all free -/
  frames : Tab FrameUse := []
  /-- Migrations under way, oldest first. | - | 07_atlas.md R174 | none -/
  migs : List Mig := []
  /-- Host regions by number. | 256 | 07_atlas.md R181 | none -/
  regions : Tab HostRegion := []
  /-- ATLAS.LEND POOL. | 23 bits | 07_atlas.md R178 | 0 -/
  lendPool : Nat := 0
  /-- ATLAS.LEND borrow peers. | up to 8 module numbers | 07_atlas.md R178 | none -/
  borrow : List Nat := []
  /-- Borrow peer used last (index). | 3 bits | 07_atlas.md R178 | DESIGN CHOICE 7 (log entry 3) -/
  lastPeer : Nat := 7
  /-- Lend-pool slots in use by peers. | POOL slots | 07_atlas.md R178 | none -/
  lentSlots : Tab LentSlot := []
  /-- Peers lost (R180): windows onto them fault POISON. | module numbers | 07_atlas.md R180 | none -/
  lostPeers : List Nat := []
  /-- Host region that took a tile last. | 8 bits | 07_atlas.md R181 | DESIGN CHOICE 255 (log entry 3) -/
  lastRegion : Nat := 255
  /-- Tenant whose migration was served last, by 2 * hub + (1 for foreground). | 6 bits each | 07_atlas.md R173 | DESIGN CHOICE 63 (log entry 3) -/
  migTurn : Tab Nat := []
  /-- Translation caches of the control die (0) and the link dies (1 + l): context, page, location, oldest first. | 512 entries each | 07_atlas.md R159 | empty -/
  unitTlbs : Tab (List (Nat × Nat × Loc)) := []
  /-- Lines that the hubs' tile caches hold, the one used last at the end. | 64 MiB a hub: 262,144 lines | 07_atlas.md R164 | empty -/
  tcache : List TLine := []
  /-- Size of the T4 pool in 4 KiB sectors. | 41 bits | 07_atlas.md R158 LOC, 17_storage.md R414 | 0 -/
  t4Pool : Nat := 0
  deriving DecidableEq, Repr

/-! ### Jobs (chapter 8) -/

/-- Job-core states (Table 8.1). -/
inductive JcState where
  | unplaced | resident | saving | saved | restoring
  deriving DecidableEq, Repr

/-- Phases of a save (Table 8.3). -/
inductive SavePhase where
  | quiesce | save | release
  deriving DecidableEq, Repr

/-- A save area (Table 8.4). -/
structure SaveArea where
  /-- Power state of each window segment: ON segments are written. | up to 16 | 08_jobs_preemption.md R203 | none -/
  segOn : List Bool := []
  /-- Bytes of the ON segments by window address. | up to 16 MiB | 08_jobs_preemption.md R203 | none -/
  bytes : Tab Byte := []
  /-- Accumulator entries and anchors, window-relative. | up to 512 x 4,736 bytes | 08_jobs_preemption.md R203 | none -/
  acc : Tab AccVal := []
  /-- The context block. | 16,384 bytes | 08_jobs_preemption.md R203 | none -/
  ctx : Ctx := {}
  /-- Parked tile-mover commands with their progress points. | up to 16 | 08_jobs_preemption.md R203 | none -/
  parked : List TmCmd := []
  /-- Scoreboard ranges of the parked commands. | up to 32 | 08_jobs_preemption.md R203 | none -/
  sb : List SbEntry := []
  /-- Tiles of the save pool taken. | up to 294 | 08_jobs_preemption.md R204 | 0 -/
  tiles : Nat := 0
  deriving DecidableEq, Repr

/-- A job-core (R193). -/
structure JobCore where
  /-- State. | 3 bits | 08_jobs_preemption.md R193 | UNPLACED -/
  st : JcState := .unplaced
  /-- Core it is on. | 7 bits | 08_jobs_preemption.md R193 | none -/
  core : Nat := 0
  /-- Slot it is in. | 3 bits | 08_jobs_preemption.md R193 | none -/
  slot : Nat := 0
  /-- Phase of its save. | 2 bits | 08_jobs_preemption.md R202 | none -/
  phase : SavePhase := .quiesce
  /-- DRAIN has ended. | 1 bit | 08_jobs_preemption.md R202 | none -/
  drained : Bool := false
  /-- Core cycle at which RELEASE ends, or the restored job-core turns RESIDENT. | - | 08_jobs_preemption.md R202 R205 | none -/
  due : Nat := 0
  /-- Core it was saved from. | 7 bits | 08_jobs_preemption.md R197 | none -/
  savedFrom : Nat := 0
  /-- The save area. | - | 08_jobs_preemption.md R204 | none -/
  area : Option SaveArea := none
  /-- Time pending since: creation or the end of the save, ticks. | 64 bits | 08_jobs_preemption.md R197 | 0 -/
  pendingSince : Nat := 0
  /-- Plots that wait for this job-core (TARGET = k). | - | 08_jobs_preemption.md R199 | none -/
  targeted : List Plot := []
  deriving DecidableEq, Repr

/-- Plots handed over together (one JOB.PLOTS, or one step of the sequencer). -/
structure Batch where
  /-- The command that completes when all are DONE: function, mailbox, CID. | - | 08_jobs_preemption.md R212 | none -/
  cmd : Option (Nat × Nat × Nat) := none
  /-- Plots in all. | 16 bits | 08_jobs_preemption.md R212 | none -/
  total : Nat := 0
  /-- Plots DONE. | 16 bits | 08_jobs_preemption.md R212 | 0 -/
  done : Nat := 0
  /-- Plots discarded by an abort. | 16 bits | 08_jobs_preemption.md R210 | 0 -/
  dropped : Nat := 0
  deriving DecidableEq, Repr

/-- A job (R192 to R195). -/
structure Job where
  /-- Tenant. | 6 bits | 08_jobs_preemption.md R192 | no job -/
  tenant : Nat := 0
  /-- PRIO. | 3 bits, RWL | 08_jobs_preemption.md R194 | no job -/
  prio : Nat := 0
  /-- MINCORES. | 7 bits | 08_jobs_preemption.md R194 | no job -/
  mincores : Nat := 1
  /-- MAXCORES. | 7 bits | 08_jobs_preemption.md R194 | no job -/
  maxcores : Nat := 1
  /-- NSEG. | 5 bits | 08_jobs_preemption.md R194 | no job -/
  nseg : Nat := 1
  /-- NACC. | 10 bits | 08_jobs_preemption.md R194 | no job -/
  nacc : Nat := 0
  /-- Starting region table. | up to 63 x 16 bytes | 08_jobs_preemption.md R194 R195 | no job -/
  rtab : Tab Region := []
  /-- JMASK; 0: the tenant's core mask. | 96 bits | 08_jobs_preemption.md R194 | no job -/
  jmask : Nat := 0
  /-- Pool mask the sequencer gives it in place of JMASK. | 96 bits | 10_serving.md R238 R254 | none -/
  pool : Option (BitVec 96) := none
  /-- Job-cores by index. | up to 96 | 08_jobs_preemption.md R193 | no job -/
  jcores : Tab JobCore := []
  /-- ENDING: abort mode 0 FINISH, 1 BOUNDARY, 2 IMMEDIATE. | 2 bits | 08_jobs_preemption.md R193 R210 | ACTIVE -/
  ending : Option Nat := none
  /-- Remote operations of an aborted job that are still outstanding, by TXID. | - | 08_jobs_preemption.md R211 | none -/
  remWait : List Nat := []
  /-- Commands that complete when the job has ended: function, mailbox, CID. | - | 08_jobs_preemption.md R210 R211 | none -/
  endCmds : List (Nat × Nat × Nat) := []
  /-- Undealt plots, in order. | - | 08_jobs_preemption.md R199 | none -/
  undealt : List Plot := []
  /-- Batches of plots by number. | - | 08_jobs_preemption.md R212 | none -/
  batches : Tab Batch := []
  /-- Plots handed over so far, numbering the dealing order. | - | 08_jobs_preemption.md R199 | 0 -/
  nextSeq : Nat := 0
  /-- Plot count. | - | 05_command_streams.md R106 | 0 -/
  plots : Nat := 0
  /-- Window losses of job-cores that have left, so that STATUS sums all. | 32 bits | 08_jobs_preemption.md R212 | 0 -/
  loss : Nat := 0
  /-- Creation time, ticks. | 64 bits | 08_jobs_preemption.md R197 | none -/
  created : Nat := 0
  deriving DecidableEq, Repr

/-- A SEM.WAIT queued at its hub (R110). -/
structure SemWaiter where
  /-- Waiting job. | 32 bits | 05_command_streams.md R110 | none -/
  jobid : Nat := 0
  /-- Waiting job-core. | 7 bits | 05_command_streams.md R110 | none -/
  jcore : Nat := 0
  /-- Amount. | 32 bits | 05_command_streams.md R110 | none -/
  amount : Nat := 0
  /-- Number of its arrival among the waits of all semaphores. | - | 05_command_streams.md R110, 08 R209 | none -/
  num : Nat := 0
  /-- Key of the collective group that waits, in place of a job. | - | 12_fabric.md R325 | none -/
  group : Option Nat := none
  deriving DecidableEq, Repr

/-- A semaphore (R110 to R112, R207). -/
structure Sem where
  /-- Owning job. | 32 bits | 08_jobs_preemption.md R207 | no semaphore -/
  owner : Nat := 0
  /-- LOCK, else COUNTING. | 1 bit | 08_jobs_preemption.md R207 | no semaphore -/
  lock : Bool := false
  /-- Count. | 32 bits | 05_command_streams.md R110 | no semaphore -/
  count : Nat := 0
  /-- Holder of a LOCK: the job whose SEM.WAIT last took it. | 32 bits | 05_command_streams.md R111 | no semaphore -/
  holder : Option Nat := none
  /-- Waiters in arrival order. | - | 05_command_streams.md R110 | none -/
  waiters : List SemWaiter := []
  deriving DecidableEq, Repr

/-- Resources that a pre-emption holds for a job-core (R201, R206, R209). -/
structure Reserve where
  /-- Core. | 7 bits | 08_jobs_preemption.md R201 | none -/
  core : Nat := 0
  /-- Job the core is reserved for. | 32 bits | 08_jobs_preemption.md R201 | none -/
  jobid : Nat := 0
  /-- Job-core the core is reserved for. | 7 bits | 08_jobs_preemption.md R201 | none -/
  jcore : Nat := 0
  /-- Victims whose release has not completed: job and job-core. | - | 08_jobs_preemption.md R201 | none -/
  victims : List (Nat × Nat) := []
  /-- Released segments held for it. | - | 08_jobs_preemption.md R201 | none -/
  segs : List Nat := []
  /-- Released accumulator spans held for it: base and entries. | - | 08_jobs_preemption.md R201 | none -/
  spans : List (Nat × Nat) := []
  /-- Released slots held for it. | - | 08_jobs_preemption.md R201 | 0 -/
  slots : Nat := 0
  deriving DecidableEq, Repr

/-- The jobs layer. -/
structure Jobs where
  /-- Live jobs by JOBID. | at most 4,096 | 08_jobs_preemption.md R192 | none -/
  jobs : Tab Job := []
  /-- Last serial assigned, per tenant. | 26 bits each | 08_jobs_preemption.md R192 | 0 -/
  serial : Tab Nat := []
  /-- Semaphores by handle. | 8,192 | 08_jobs_preemption.md R207 | none -/
  sems : Tab Sem := []
  /-- Pre-emption reservations. | - | 08_jobs_preemption.md R201 | none -/
  reserves : List Reserve := []
  /-- Inheritance in force: holder job and the time it began, ticks; flag: INHTO has been served. | - | 08_jobs_preemption.md R208 R209 | none -/
  inherit : List (Nat × Nat × Bool) := []
  /-- JOB.POLICY INHTO, µs. | 32 bits, RWL | 08_jobs_preemption.md R212 | 500 -/
  inhto : Nat := 500
  /-- INHTO that each inheritance in force began with. | 32 bits | 08_jobs_preemption.md R212 | none -/
  inhtoAt : Tab Nat := []
  /-- JOB.POLICY NOPREEMPT. | 64 bits | 08_jobs_preemption.md R212 | 0 -/
  nopreempt : BitVec 64 := 0
  /-- Number the next batch of plots takes. | - | model's own numbering of R199's hand-overs | 0 -/
  nextBatch : Nat := 0
  /-- Number the next queued wait takes. | - | model's own numbering of R110's arrivals | 0 -/
  nextWait : Nat := 0
  deriving DecidableEq, Repr

/-! ### Clock, units, outputs -/

/-- Time inside the module. -/
structure Clock where
  /-- Quarter-nanosecond ticks of real time since COLD. | 64 bits | 01_organisation.md R20 R21 | 0 -/
  ticks : Nat := 0
  /-- The meridian, as the control die's copy holds it. | 64 bits | 14_meridian.md R345 | 0 -/
  mer : BitVec 64 := 0
  /-- Rate of the thermal stage, which each core's clock takes at its next command boundary: eightieths of an arithmetic cycle per tick. | - | 01_organisation.md R20, 19 R469 | 36 -/
  rate : Nat := 36
  deriving DecidableEq, Repr

/-- A programmable counter (R477). -/
structure Ctr where
  /-- Event selected; 0 none. | 16 bits | 19_power_ras_counters.md R477, 16 R410 | 0 -/
  event : Nat := 0
  /-- CHAIN. | 1 bit | 19_power_ras_counters.md R477 | 0 -/
  chain : Bool := false
  /-- TFILT. | 1 bit | 19_power_ras_counters.md R477 | 0 -/
  tfilt : Bool := false
  /-- TENANT. | 6 bits | 19_power_ras_counters.md R477 | 0 -/
  tenant : Nat := 0
  /-- Count. | 32 bits | 19_power_ras_counters.md R477 | 0 -/
  value : Nat := 0
  deriving DecidableEq, Repr

/-- The part of a unit status block that every unit has (Table 19.6), with its counters. -/
structure UnitStat where
  /-- FENCED. | 1 bit | 19_power_ras_counters.md R473 | 0 -/
  fenced : Bool := false
  /-- CE. | 32 bits, RC | 19_power_ras_counters.md R471 | 0 -/
  ce : Nat := 0
  /-- UE. | 32 bits, RC | 19_power_ras_counters.md R471 | 0 -/
  ue : Nat := 0
  /-- Programmable counters 0 to 7. | 8 x 32 bits | 19_power_ras_counters.md R477 | 0 -/
  ctrs : Tab Ctr := []
  /-- OVF flags since the last record. | 8 bits | 19_power_ras_counters.md R478 | 0 -/
  ovf : Nat := 0
  /-- DROPS: survey records dropped. | 16 bits, saturating | 19_power_ras_counters.md R478 | 0 -/
  drops : Nat := 0
  deriving DecidableEq, Repr

/-- A token bucket (R335 to R337), with a policer's ACTION and count (R341). -/
structure Bucket where
  /-- RATE, Mb/s. | 32 bits, RWS | 13_traffic.md R335 R337 R344 | 0 -/
  rate : Nat := 0
  /-- BURST, bytes. | 24 bits, RWS | 13_traffic.md R335 R337 R344 | 256 -/
  burst : Nat := 256
  /-- ENABLE. | 1 bit, RWS | 13_traffic.md R335 R337 R344 | 0 -/
  enable : Bool := false
  /-- REFILL is EMPTY, else FULL. | 1 bit, RWS | 13_traffic.md R337 R344 | 0 -/
  empty : Bool := false
  /-- OVH. | 8 bits two's complement, RWS | 13_traffic.md R335 R344 | 0 -/
  ovh : Int := 0
  /-- ACTION of a policer: REJECT, else COUNT. | 1 bit, RWS | 13_traffic.md R341 R344 | 0 -/
  reject : Bool := false
  /-- Tokens, millibytes. | 48 bits, signed | 13_traffic.md R335 R344 | 0 -/
  tokens : Int := 0
  /-- Grain (meridian / 64) up to which it has been refilled. | - | 13_traffic.md R335 | 0 -/
  last : Nat := 0
  /-- EXCEEDED of a policer. | 32 bits, RC | 13_traffic.md R341 R344 | 0 -/
  exceeded : Nat := 0
  deriving DecidableEq, Repr

/-- A tenant's configuration (TEN.CONFIG, Table 16.9), by tenant number. -/
structure Tenant where
  /-- TENEN: the tenant is enabled. | 1 bit | 16_mailboxes.md R404 | tenant 0 enabled, others not -/
  enabled : Bool := false
  /-- SVCMASK. | 8 bits, RWS | 16_mailboxes.md R405 | 0xFF for tenant 0, 0x03 otherwise -/
  svcmask : Nat := 3
  /-- JOBLIM. | 13 bits, RWS | 16_mailboxes.md R405 | 4,096 for tenant 0, 0 otherwise -/
  joblim : Nat := 0
  /-- TABLIM. | 32 bits, RWS | 16_mailboxes.md R405 | 131,072 for tenant 0, 0 otherwise -/
  tablim : Nat := 0
  /-- CORES. | 96 bits, RWS | 16_mailboxes.md R405 | all ones for tenant 0, 0 otherwise -/
  cores : BitVec 96 := 0
  /-- QT1. | 32 bits, RWS | 16_mailboxes.md R405 | 15,204,352 for tenant 0, 0 otherwise -/
  qt1 : Nat := 0
  /-- QT2. | 32 bits, RWS | 16_mailboxes.md R405 | 0 -/
  qt2 : Nat := 0
  /-- QT3. | 32 bits, RWS | 16_mailboxes.md R405 | 0 -/
  qt3 : Nat := 0
  /-- QT4. | 32 bits, RWS | 16_mailboxes.md R405 | 0 -/
  qt4 : Nat := 0
  deriving DecidableEq, Repr

/-! ### Event log (chapters 16 and 19) -/

/-- An event record (Table 19.4) before it is laid out. -/
structure EvRec where
  /-- Source number of the unit. | 16 bits | 19_power_ras_counters.md R474 | none -/
  src : Nat := 0
  /-- Meridian at the event (STAMP). | 64 bits | 19_power_ras_counters.md R474 | none -/
  mer : Nat := 0
  /-- SYNC state and bound of the stamp. | 64 bits | 14_meridian.md R359 | none -/
  stamp : Nat := 0
  /-- CODE. | 16 bits | 19_power_ras_counters.md R474 | none -/
  code : Nat := 0
  /-- SUBUNIT. | 8 bits | 19_power_ras_counters.md R474 | none -/
  subunit : Nat := 0
  /-- TENANT, 0xFF none. | 8 bits | 19_power_ras_counters.md R474 | none -/
  tenant : Nat := 0xFF
  /-- COUNT. | 32 bits | 19_power_ras_counters.md R476 | none -/
  count : Nat := 1
  /-- ARG0. | 64 bits | 19_power_ras_counters.md R474 | none -/
  arg0 : Nat := 0
  /-- ARG1. | 64 bits | 19_power_ras_counters.md R474 | none -/
  arg1 : Nat := 0
  /-- ARG2. | 64 bits | 19_power_ras_counters.md R474 | none -/
  arg2 : Nat := 0
  /-- LAST. | 64 bits | 19_power_ras_counters.md R476 | none -/
  last : Nat := 0
  /-- Tick at which an open record closes. | - | 19_power_ras_counters.md R476 | none -/
  closeAt : Nat := 0
  deriving DecidableEq, Repr

/-- A posted event record with its number and posting count. -/
structure StoredRec where
  /-- Number of the record since COLD. | - | 16_mailboxes.md R408 | none -/
  num : Nat := 0
  /-- SEQ of the stamp. | 16 bits | 14_meridian.md R359 | none -/
  seq : Nat := 0
  /-- MODULE of the stamp. | 17 bits | 14_meridian.md R359 | none -/
  module : Nat := 0
  /-- The record. | 64 bytes | 19_power_ras_counters.md R474 | none -/
  ev : EvRec := {}
  deriving DecidableEq, Repr

/-- The event log on the control die (R408, R409, R474 to R476). -/
structure EvLog where
  /-- Stored records, oldest first. | up to 65,536 x 64 bytes | 16_mailboxes.md R408 | empty -/
  store : List StoredRec := []
  /-- Records open to coalescing. | - | 19_power_ras_counters.md R476 | none -/
  opened : List EvRec := []
  /-- Posting counts by source. | 16 bits each | 14_meridian.md R359 | 0 -/
  seqs : Tab Nat := []
  /-- Number of the next record. | - | 16_mailboxes.md R408 | 0 -/
  nextNum : Nat := 0
  /-- The host ring: HADDR and LOG2N. | 64 + 5 bits | 16_mailboxes.md R408 | not set -/
  ring : Option (Nat × Nat) := none
  /-- EVPROD. | 32 bits, RO | 15_host_pcie.md R369 Table 15.6 | 0 -/
  prod : Nat := 0
  /-- EVCONS. | 32 bits, RW | 15_host_pcie.md R369 Table 15.6 | 0 -/
  cons : Nat := 0
  /-- Records that wait to reach the ring, by number, oldest first. | - | 16_mailboxes.md R408 | none -/
  waiting : List Nat := []
  /-- A failed write waits for EVCONS or LOG.RING. | 1 bit | 16_mailboxes.md R408, 07 R495 | 0 -/
  stalled : Bool := false
  /-- LOST. | 32 bits, saturating | 16_mailboxes.md R408 R409 | 0 -/
  lost : Nat := 0
  /-- CLASSMASK. | 8 bits, RWL | 16_mailboxes.md R409 | 0xFF -/
  classMask : Nat := 0xFF
  deriving DecidableEq, Repr

/-! ### Remote operations (chapter 12) -/

/-- Who waits for a remote operation's response. -/
inductive RemOwner where
  /-- A tile-mover command: core and number. -/
  | tm (core id : Nat)
  /-- A mailbox command in flight: function, mailbox, CID. -/
  | cmd (fn mbox cid : Nat)
  /-- A host read through a BAR2 window: function and tag. -/
  | host (fn tag : Nat)
  /-- A migration of a page. -/
  | mig (tenant page : Nat)
  /-- A command fetch of a slot. -/
  | fetch (core slot : Nat)
  /-- A polled MEM.WAIT of a slot. -/
  | poll (core slot : Nat)
  /-- An engine (collectives, sequencer, text engines, search) that works in a tenant's context: tenant and page. -/
  | eng (tenant page : Nat)
  deriving DecidableEq, Repr

/-- A remote operation outstanding (R320 to R322). -/
structure RemOp where
  /-- 0 TREAD, 1 TWRITE, 2 ATOMIC. | 2 bits | 12_fabric.md R320 R321 | none -/
  kind : Nat := 0
  /-- Target module. | 17 bits | 12_fabric.md R320 | none -/
  module : Nat := 0
  /-- Service. | 3 bits | 12_fabric.md R322 | none -/
  service : Nat := 5
  /-- Tenant. | 6 bits | 12_fabric.md R320 | none -/
  tenant : Nat := 0
  /-- Address at the target. | 57 bits | 12_fabric.md R320 | none -/
  va : Nat := 0
  /-- Bytes. | 17 bits | 12_fabric.md R320 | none -/
  len : Nat := 0
  /-- Data of a write, or the operands of an atomic. | - | 12_fabric.md R320 R321 | none -/
  data : Bytes := []
  /-- How a TWRITE applies: 0 plain, 1 an OVERWRITE under its stamp, 2 and 3 an ADD of C40 elements of 8 and of 5 bytes. | 2 bits | 09_models_tables.md R227 R228, 05_command_streams.md R102 (carrier: log 27) | none -/
  mode : Nat := 0
  /-- The stamp of an OVERWRITE. | 16 bytes | 09_models_tables.md R227 (carrier: log 27) | none -/
  stamp : Bytes := []
  /-- ATOMIC kind. | 3 bits | 12_fabric.md R321 | none -/
  akind : Nat := 0
  /-- Who waits. | - | 12_fabric.md R322 | none -/
  owner : RemOwner := .eng 0 0
  /-- Byte offset of the operation in its owner's run. | - | 05_command_streams.md R98 | none -/
  off : Nat := 0
  /-- Tick at which RTO expires. | - | 12_fabric.md R322 | none -/
  deadline : Nat := 0
  /-- It has been resent once. | 1 bit | 12_fabric.md R322 | none -/
  resent : Bool := false
  /-- Tick at which a request answered BUSY is resent. | - | 13_traffic.md R342 | none -/
  busyAt : Option Nat := none
  deriving DecidableEq, Repr

/-! ### The fabric (chapters 12 and 13) -/

/-- A route table entry (Table 12.6). -/
structure RouteEnt where
  /-- MINPORTS. | 48 bits, RWS | 12_fabric.md R312 | 0 -/
  minports : Nat := 0
  /-- V. | 1 bit, RWS | 12_fabric.md R312 | 0 -/
  v : Bool := false
  /-- NMV. | 1 bit, RWS | 12_fabric.md R312 | 0 -/
  nmv : Bool := false
  /-- NMPORT. | 6 bits, RWS | 12_fabric.md R312 | 0 -/
  nmport : Nat := 0
  /-- EAV. | 1 bit, RWS | 12_fabric.md R312 | 0 -/
  eav : Bool := false
  /-- ESCPORT. | 6 bits, RWS | 12_fabric.md R312 | 0 -/
  escport : Nat := 0
  /-- ESCALT. | 6 bits, RWS | 12_fabric.md R312 | 0 -/
  escalt : Nat := 0
  deriving DecidableEq, Repr

/-- A message inside the module: waiting for its route choice, or in an egress queue, or delivered here. -/
structure RMsg where
  /-- The message. | - | 12_fabric.md R305 | none -/
  m : FabMsg := {}
  /-- Port it came in by. | 6 bits | 12_fabric.md R306 | none -/
  inPort : Option Nat := none
  /-- It holds escape-lane credits of that port. | 1 bit | 12_fabric.md R306 | none -/
  inEsc : Bool := false
  /-- Tick at which it came to wait here. | - | 12_fabric.md R313, 13_traffic.md R343 | none -/
  since : Nat := 0
  /-- Port it must leave by, of a LOCALHOP message of this module. | 6 bits | 12_fabric.md R305 | none -/
  out : Option Nat := none
  /-- Debited already from its policer. | 1 bit | 13_traffic.md R341 | 0 -/
  policed : Bool := false
  /-- It waits for the promotion of its page. | 1 bit | 07_atlas.md R170 R179 | 0 -/
  missed : Bool := false
  /-- That promotion could not be made: the QUOTA cause. | 8 bits | 07_atlas.md R170 | none -/
  qfail : Option Nat := none
  /-- It has left its receive buffer, whose credits have been returned: it waits in the reorder store, or its link has trained anew. | 1 bit | 12_fabric.md R306 R319 | 0 -/
  freed : Bool := false
  deriving DecidableEq, Repr

/-- STATE of a port record (R331). -/
inductive PortState where
  | disabled | training | up | down | fenced
  deriving DecidableEq, Repr

/-- Flits in a replay buffer that left together: of one message, or CTRL flits (R308). -/
structure Replay where
  /-- SEQ of the first. | 16 bits | 12_fabric.md R304 R308 | none -/
  seq : Nat := 0
  /-- Flits. | 1 to 4,096 | 12_fabric.md R308 | none -/
  n : Nat := 1
  /-- Flits acknowledged. | 12 bits | 12_fabric.md R308 R328 | 0 -/
  acked : Nat := 0
  /-- The message whose HEAD is the first of them. | - | 12_fabric.md R308 R328 | none -/
  msg : Option RMsg := none
  /-- The flits as sent, without their CRC. | 248 bytes each | 12_fabric.md R304 R308 | none -/
  flits : List Bytes := []
  deriving DecidableEq, Repr

/-- A message of which not all flits have arrived (R305). -/
structure RxMsg where
  /-- Body bytes so far: route header, then payload. | - | 12_fabric.md R305 | none -/
  body : Bytes := []
  /-- BODY flits still to come. | 12 bits | 12_fabric.md R305 | none -/
  left : Nat := 0
  /-- Service of its lane. | 3 bits | 12_fabric.md R305 | none -/
  svc : Nat := 0
  /-- It holds escape-lane buffers. | 1 bit | 12_fabric.md R305 R306 | none -/
  esc : Bool := false
  /-- Flits so far. | 12 bits | 12_fabric.md R305 | none -/
  n : Nat := 0
  deriving DecidableEq, Repr

/-- A gate list (R338, R339). -/
structure GateList where
  /-- BASE. | 9 bits, RWS | 13_traffic.md R338 | none -/
  base : Nat := 0
  /-- LEN; 0: no list. | 9 bits, RWS | 13_traffic.md R338 R344 | none -/
  len : Nat := 0
  /-- Meridian of the start of its first cycle. | 64 bits | 13_traffic.md R339 | none -/
  start : Nat := 0
  deriving DecidableEq, Repr

/-- A message being sent by a port (R334, R340). -/
structure Sending where
  /-- Service. | 3 bits | 13_traffic.md R340 | none -/
  svc : Nat := 0
  /-- On the escape lane. | 1 bit | 12_fabric.md R306 | none -/
  esc : Bool := false
  /-- The message. | - | 12_fabric.md R305 | none -/
  msg : RMsg := {}
  /-- Its flits that have not left, byte 245 and body: they wait for credits or for room to replay them. | up to 4,096 | 12_fabric.md R306 R308 | none -/
  rest : List (Nat × Bytes) := []
  /-- 25ths of a tick since COLD at which the last flit that has left is out. | - | 13_traffic.md R340, 12 R304 | none -/
  till : Nat := 0
  /-- Its overrun has been counted. | 1 bit | 13_traffic.md R340 | 0 -/
  counted : Bool := false
  deriving DecidableEq, Repr

/-- A fabric port; port 48 uses the scheduling part only. -/
structure Port where
  /-- STATE. | 8 bits, RO | 12_fabric.md R331 | DISABLED -/
  st : PortState := .disabled
  /-- FAB.PORT DISABLE has been given, and no ENABLE since. | 1 bit | 12_fabric.md R331 | DESIGN CHOICE 0 (log entry 3) -/
  off : Bool := false
  /-- The peer's module, from training. | 17 bits | 12_fabric.md R331 | 0 -/
  peer : Nat := 0
  /-- The peer's port. | 8 bits | 12_fabric.md R331 | 0 -/
  peerPort : Nat := 0
  /-- CRED0 to CRED7: adaptive credits of this receiver. | 8 x 16 bits, RWB | 12_fabric.md R307 Table 12.5 | 128, 64, 1536, 1536, 1024, 2048, 1024, 576 -/
  creds : List Nat := [128, 64, 1536, 1536, 1024, 2048, 1024, 576]
  /-- Corrected FEC codewords. | 32 bits, RC | 12_fabric.md R331 | 0 -/
  fecCorr : Nat := 0
  /-- Uncorrectable codewords. | 32 bits, RC | 12_fabric.md R331 | 0 -/
  fecBad : Nat := 0
  /-- NAKs. | 32 bits, RC | 12_fabric.md R331 | 0 -/
  naks : Nat := 0
  /-- DOWN events. | 32 bits, RC | 12_fabric.md R331 | 0 -/
  downs : Nat := 0
  /-- Ticks of the last DOWN events, newest first. | 16 | 19_power_ras_counters.md R471 | none -/
  downAt : List Nat := []
  /-- Meridian of the last change of STATE. | 64 bits | 12_fabric.md R331 | 0 -/
  changed : Nat := 0
  /-- CRED0 to CRED7 of the peer, as training gave them. | 8 x 16 bits | 12_fabric.md R307 R309 | none before training -/
  peerCreds : List Nat := []
  /-- Credits held at the peer by lane svc * 2 + escape. | 16 lanes | 12_fabric.md R306 | none before training -/
  txCred : Tab Nat := []
  /-- Credits to return to the peer, by lane. | 16 lanes | 12_fabric.md R306 | none -/
  crOut : Tab Nat := []
  /-- CTRL flits that wait for room in the replay buffer: what each holds. | - | 12_fabric.md R305 R308 | none -/
  ctrlq : List (List Nat) := []
  /-- Ticks of the uncorrectable codewords of the last 1 ms, newest first. | - | 12_fabric.md R309 | none -/
  fecAt : List Nat := []
  /-- SEQ of the next flit sent. | 16 bits | 12_fabric.md R304 | DESIGN CHOICE 0 (log entry 3) -/
  txSeq : Nat := 0
  /-- SEQ expected next. | 16 bits | 12_fabric.md R308 | DESIGN CHOICE 0 (log entry 3) -/
  rxSeq : Nat := 0
  /-- The flits since the last bad one are discarded until rxSeq arrives. | 1 bit | 12_fabric.md R308 | 0 -/
  gap : Bool := false
  /-- Replay buffer, oldest first. | 8,192 flits | 12_fabric.md R308 | empty -/
  replay : List Replay := []
  /-- SEQ named by the last NAK and how often in a row. | 16 bits, 0 to 16 | 12_fabric.md R309 | none -/
  nakRun : Nat × Nat := (0, 0)
  /-- Message arriving. | - | 12_fabric.md R305 | none -/
  rx : Option RxMsg := none
  /-- Receive buffer in use by lane, flits. | 8,192 flits | 12_fabric.md R306 | 0 -/
  rxBuf : Tab Nat := []
  /-- Tick of the last valid flit. | - | 12_fabric.md R309 | 0 -/
  lastRx : Nat := 0
  /-- Message being sent. | - | 13_traffic.md R334 | none -/
  sending : Option Sending := none
  /-- WGT of services 2 to 7. | 6 x 8 bits, RWL | 13_traffic.md R344 | 1 each -/
  wgt : List Nat := [1, 1, 1, 1, 1, 1]
  /-- Deficits of services, bytes. | - | 13_traffic.md R334 | DESIGN CHOICE 0 (log entry 3) -/
  sdef : Tab Nat := []
  /-- Service whose turn it is. | 3 bits | 13_traffic.md R334 | DESIGN CHOICE 2 (log entry 3) -/
  sturn : Nat := 2
  /-- The service in turn has had its quantum. | 1 bit | 13_traffic.md R334 | DESIGN CHOICE 0 (log entry 3) -/
  sgiven : Bool := false
  /-- Deficits of subscribers, bytes: key service * 64 + tenant. | - | 13_traffic.md R334 | DESIGN CHOICE 0 (log entry 3) -/
  tdef : Tab Nat := []
  /-- Subscriber whose turn it is, by service; given: key 8 + service. | 6 bits | 13_traffic.md R334 | DESIGN CHOICE 0 (log entry 3) -/
  tturn : Tab Nat := []
  /-- Shapers: subscriber t at t, service s at 64 + s, the port at 72. | 73 | 13_traffic.md R333 R344 | disabled -/
  shapers : Tab Bucket := []
  /-- Gate memory: entry to GATES and DUR. | 512 x 8 bytes, RWS | 13_traffic.md R338 Table 13.2 | GATES 0xFF, DUR DESIGN CHOICE 0 (log entry 3) -/
  gmem : Tab (Nat × Nat) := []
  /-- List in force. | - | 13_traffic.md R338 | none -/
  gate : GateList := {}
  /-- Pending takeover. | - | 13_traffic.md R339 | none -/
  gpend : Option GateList := none
  /-- Longest wait of a message that started in the sampling interval, by queue service * 64 + tenant. | 32 bits | 13_traffic.md R343 | 0 -/
  maxdly : Tab Nat := []
  /-- WINLEN, µs, in force and as written. | 20 bits, RWL | 19_power_ras_counters.md R479 Table 19.9 | 1,000 -/
  winlen : Nat := 1000
  winlenNew : Nat := 1000
  /-- Bytes sent in the current window. | 64 bits | 19_power_ras_counters.md R479 | 0 -/
  tx : Nat := 0
  /-- TXLAST. | 64 bits, RO | 19_power_ras_counters.md R479 | 0 -/
  txlast : Nat := 0
  /-- TXMAX. | 64 bits, RC | 19_power_ras_counters.md R479 | 0 -/
  txmax : Nat := 0
  /-- Bytes received in the current window. | 64 bits | 19_power_ras_counters.md R479 | 0 -/
  rxw : Nat := 0
  /-- RXLAST. | 64 bits, RO | 19_power_ras_counters.md R479 | 0 -/
  rxlast : Nat := 0
  /-- RXMAX. | 64 bits, RC | 19_power_ras_counters.md R479 | 0 -/
  rxmax : Nat := 0
  deriving DecidableEq, Repr

/-- An ordered flow at its source (R319, R323). -/
structure TxFlow where
  /-- OSEQ of the next message. | 16 bits | 12_fabric.md R319 | DESIGN CHOICE 0 (log entry 3) -/
  next : Nat := 0
  /-- Messages sent and not acknowledged. | up to 64 | 12_fabric.md R319 | none -/
  unacked : List FabMsg := []
  /-- Messages that wait for room. | - | 12_fabric.md R319 | none -/
  waiting : List FabMsg := []
  /-- Tick at which RTO without MACK ends. | - | 12_fabric.md R323 | none -/
  deadline : Option Nat := none
  /-- It has been sent once more. | 1 bit | 12_fabric.md R323 | 0 -/
  resent : Bool := false
  deriving DecidableEq, Repr

/-- An ordered flow at its destination (R319). -/
structure RxFlow where
  /-- OSEQ expected next. | 16 bits | 12_fabric.md R319 | DESIGN CHOICE 0 (log entry 3) -/
  next : Nat := 0
  /-- Early arrivals. | 4,096 messages per module | 12_fabric.md R319 | none -/
  early : List RMsg := []
  deriving DecidableEq, Repr

/-- A kept response (R322). -/
structure KeptResp where
  /-- Source module. | 17 bits | 12_fabric.md R322 | none -/
  src : Nat := 0
  /-- TXID. | 16 bits | 12_fabric.md R322 | none -/
  txid : Nat := 0
  /-- The response. | - | 12_fabric.md R322 | none -/
  msg : FabMsg := {}
  /-- Tick at which it is dropped. | - | 12_fabric.md R322 | none -/
  due : Nat := 0
  deriving DecidableEq, Repr

/-- A collective operation under way (R325, R326). -/
structure CollRun where
  /-- The descriptor as read. | 64 bytes | 12_fabric.md R325 Table 12.8 | none -/
  d : Bytes := []
  /-- Contributions by rank: packed C40, or bytes of the input. | - | 12_fabric.md R326 | none -/
  parts : Tab Bytes := []
  /-- Status with which it ends, once it must end without a result. | 16 bits | 12_fabric.md R325 R327 | none -/
  bad : Option Nat := none
  deriving DecidableEq, Repr

/-- A collective group of a tenant (R324). -/
structure Group where
  /-- LO. | 17 bits | 12_fabric.md R324 | no group -/
  lo : Nat := 0
  /-- HI. | 17 bits | 12_fabric.md R324 | no group -/
  hi : Nat := 0
  /-- Widths of the dimensions at its creation. | 5 x 5 bits | 12_fabric.md R311 R324 | no group -/
  widths : List Nat := []
  /-- TSEM. | 13 bits | 12_fabric.md R324 | no group -/
  tsem : Nat := 0
  /-- DSEM. | 13 bits | 12_fabric.md R324 | no group -/
  dsem : Nat := 0
  /-- NTRIG. | 32 bits | 12_fabric.md R324 | no group -/
  ntrig : Nat := 1
  /-- RINGVA. | 57 bits | 12_fabric.md R324 | no group -/
  ringva : Nat := 0
  /-- LOG2N. | 5 bits | 12_fabric.md R324 | no group -/
  log2n : Nat := 0
  /-- Descriptors run. | - | 12_fabric.md R325 | 0 -/
  count : Nat := 0
  /-- NTRIG has been taken and the descriptor has not been read. | 1 bit | 12_fabric.md R325 | 0 -/
  taken : Bool := false
  /-- The operation under way. | - | 12_fabric.md R325 | none -/
  run : Option CollRun := none
  /-- Segments that came before this member began their operation: number of the operation, rank, bytes. | - | 12_fabric.md R326 | none -/
  early : List (Nat × Nat × Bytes) := []
  /-- Aborts received before this member began their operation. | - | 12_fabric.md R327 | none -/
  earlyAbort : List Nat := []
  deriving DecidableEq, Repr

/-- Queue sampling (R343). -/
structure Sampling where
  /-- HADDR. | 64 bits | 13_traffic.md R343 | sampling off -/
  haddr : Nat := 0
  /-- PADDR. | 64 bits | 13_traffic.md R343 | sampling off -/
  paddr : Nat := 0
  /-- LOG2N. | 5 bits | 13_traffic.md R343 | sampling off -/
  log2n : Nat := 6
  /-- INTERVAL, µs. | 32 bits | 13_traffic.md R343 | sampling off -/
  interval : Nat := 10
  /-- PORTMASK. | 49 bits | 13_traffic.md R343 | sampling off -/
  ports : Nat := 0
  /-- SVCMASK. | 8 bits | 13_traffic.md R343 | sampling off -/
  svcs : Nat := 0
  /-- TENMASK. | 64 bits | 13_traffic.md R343 | sampling off -/
  tens : Nat := 0
  /-- Producer count. | 32 bits | 13_traffic.md R343 | 0 -/
  prod : Nat := 0
  /-- Records dropped since the last MARK. | 8 bits, saturating | 13_traffic.md R343 | 0 -/
  dropped : Nat := 0
  deriving DecidableEq, Repr

/-- The fabric side of the module. -/
structure Fabric where
  /-- Module number. | 17 bits, RWB | 12_fabric.md R331 | 0 -/
  module : Nat := 0
  /-- FENCED: the module is fenced. | 1 bit, RO | 12_fabric.md R330, 15 Table 15.4 | 0 -/
  fenced : Bool := false
  /-- Services fenced. | 8 bits | 12_fabric.md R330 | 0 -/
  fencedSvc : Nat := 0
  /-- MVALID: the module number has been set. | 1 bit, RO | 12_fabric.md R331, 15 Table 15.4 | 0 -/
  mvalid : Bool := false
  /-- NDIM. | 3 bits, RWB | 12_fabric.md R331 | 1 -/
  ndim : Nat := 1
  /-- W0 to W4. | 5 x 5 bits, RWB | 12_fabric.md R331 | 17, 0, 0, 0, 0 -/
  widths : List Nat := [17, 0, 0, 0, 0]
  /-- KINDS. | 5 bits, RWB | 12_fabric.md R331 | 0 -/
  kinds : Nat := 0
  /-- ENABLE. | 1 bit, RW | 12_fabric.md R331 | 0 -/
  enable : Bool := false
  /-- FAB.CONFIG RTO, µs. | 32 bits, RWL | 12_fabric.md R331 | 100 -/
  rto : Nat := 100
  /-- NMWAIT, ns. | 16 bits, RWL | 12_fabric.md R331 | 200 -/
  nmwait : Nat := 200
  /-- PROBETO, µs. | 16 bits, RWL | 12_fabric.md R331 | 20 -/
  probeto : Nat := 20
  /-- Shadow route entries: key dimension * 2^17 + coordinate. | 5 x 2^17 x 16 bytes | 12_fabric.md R312 R315 | 0 -/
  shadow : Tab RouteEnt := []
  /-- Committed route entries. | 5 x 2^17 x 16 bytes, RWS | 12_fabric.md R312 R315 | 0 -/
  routes : Tab RouteEnt := []
  /-- A set has been committed; until then only LOCALHOP MGMT and TIME messages are carried. | 1 bit | 12_fabric.md R315 | 0 -/
  routed : Bool := false
  /-- Ports 0 to 48. | 49 | 12_fabric.md R302, 13_traffic.md R332 | as each field -/
  ports : Tab Port := []
  /-- Egress queues: key (port * 8 + service) * 64 + tenant, head first. | 48 x 512 queues | 13_traffic.md R332 | empty -/
  queues : Tab (List RMsg) := []
  /-- SWGT by subscriber. | 64 x 8 bits, RWL | 13_traffic.md R344 | 1 each -/
  swgt : Tab Nat := []
  /-- Policers by subscriber. | 64 | 13_traffic.md R341 R344 | disabled -/
  policers : Tab Bucket := []
  /-- Queue sampling. | - | 13_traffic.md R343 | off -/
  sampling : Option Sampling := none
  /-- Remote operations outstanding, by TXID. | at most 32,768 | 12_fabric.md R322 | none -/
  rem : Tab RemOp := []
  /-- TXID the next operation tries first. | 16 bits | 12_fabric.md R305 | DESIGN CHOICE 0 (log entry 3) -/
  nextTx : Nat := 0
  /-- Messages of this module's units that wait for the router. | - | 12_fabric.md R313 | none -/
  sendq : List FabMsg := []
  /-- Messages that wait for a route choice. | - | 12_fabric.md R313 | none -/
  routeq : List RMsg := []
  /-- Messages delivered to this module and not acted on, oldest first. | - | 12_fabric.md R313 | none -/
  inbox : List RMsg := []
  /-- Tiles that peers have read for engines: tenant, local page and bytes. | - | 12_fabric.md R320 | none -/
  got : List (Nat × Nat × Bytes) := []
  /-- Reads for engines that have failed: tenant, local page, kind and cause. | - | 12_fabric.md R321 | none -/
  failed : List (Nat × Nat × Nat × Nat) := []
  /-- Kept responses. | 65,536 | 12_fabric.md R322 | none -/
  kept : List KeptResp := []
  /-- Adaptive credits of services 5 and 7 withheld while the response table is full: port, service, flits. | - | 12_fabric.md R322 | none -/
  withheld : List (Nat × Nat × Nat) := []
  /-- Ordered flows at this source: key destination * 8 + service. | - | 12_fabric.md R319 | none -/
  txFlows : Tab TxFlow := []
  /-- Ordered flows at this destination: key source * 8 + service. | - | 12_fabric.md R319 | none -/
  rxFlows : Tab RxFlow := []
  /-- Reach map: byte by module; an absent entry is 0xFF. | 131,072 x 8 bits | 12_fabric.md R328 | DESIGN CHOICE 0xFF (log entry 3) -/
  reach : Tab Nat := []
  /-- Probes without a reply: module and tick of PROBETO. | - | 12_fabric.md R328 | none -/
  probes : List (Nat × Nat) := []
  /-- Collective groups: key tenant * 256 + GROUP. | 64 x 256 | 12_fabric.md R324 | none -/
  groups : Tab Group := []
  deriving DecidableEq, Repr

/-! ### Mailboxes (chapter 16) -/

/-- STATE of a mailbox (Table 16.1). -/
inductive MboxState where
  | off | enabled | error | draining
  deriving DecidableEq, Repr

/-- A mailbox and its doorbell page (R379 to R382, Table 16.1). -/
structure Mbox where
  /-- STATE. | 3 bits | 16_mailboxes.md R379 | OFF -/
  st : MboxState := .off
  /-- SQ_TAIL. | 16 bits, RW | 16_mailboxes.md R382 | 0 -/
  sqTail : Nat := 0
  /-- CQ_HEAD: the device's consumed position. | 16 bits, RW | 16_mailboxes.md R382 | 0 -/
  cqHead : Nat := 0
  /-- SQ_BASE. | 52 bits, RWB | 16_mailboxes.md R379 | 0 -/
  sqBase : Nat := 0
  /-- CQ_BASE. | 52 bits, RWB | 16_mailboxes.md R379 | 0 -/
  cqBase : Nat := 0
  /-- VECTOR. | 11 bits, RWB | 16_mailboxes.md R379 | 0 -/
  vector : Nat := 0
  /-- CQLOG2. | 5 bits, RWB | 16_mailboxes.md R379 | 0 -/
  cqLog2 : Nat := 0
  /-- SQLOG2. | 5 bits, RWB | 16_mailboxes.md R379 | 0 -/
  sqLog2 : Nat := 0
  /-- DEFTO, ms. | 32 bits, RWL | 16_mailboxes.md R379 R394 | 30,000 -/
  defto : Nat := 30000
  /-- PV of a work mailbox. | 1 bit | 16_mailboxes.md R379 | 0 -/
  pv : Bool := false
  /-- PASID of a work mailbox. | 20 bits | 16_mailboxes.md R379 | 0 -/
  pasid : Nat := 0
  /-- Fetch position. | 16 bits | 16_mailboxes.md R380 | 0 -/
  fetchPos : Nat := 0
  /-- Posting position. | 16 bits | 16_mailboxes.md R380 | 0 -/
  postPos : Nat := 0
  /-- Phase of the current pass. | 1 bit | 16_mailboxes.md R384 | 1 -/
  phase : Bool := true
  /-- Completion slots written and not released. | 16 bits | 16_mailboxes.md R382 | 0 -/
  posted : Nat := 0
  /-- CFGERR. | 1 bit, W1C | 16_mailboxes.md R380 | 0 -/
  cfgerr : Bool := false
  /-- CQERR. | 1 bit, W1C | 16_mailboxes.md R379, 15 R373 | 0 -/
  cqerr : Bool := false
  /-- FETCHERR. | 1 bit, W1C | 16_mailboxes.md R379, 15 R373 | 0 -/
  fetcherr : Bool := false
  /-- DBERR. | 1 bit, W1C | 16_mailboxes.md R382 | 0 -/
  dberr : Bool := false
  /-- WREJ. | 1 bit, W1C | 16_mailboxes.md R379 | 0 -/
  wrej : Bool := false
  /-- The mailbox was in ERROR when its removal began. | 1 bit | 16_mailboxes.md R397 | none -/
  wasError : Bool := false
  /-- The DEV.MBOX removal that waits for it: function, mailbox, CID. | - | 16_mailboxes.md R397 | none -/
  remover : Option (Nat × Nat × Nat) := none
  deriving DecidableEq, Repr

/-- A command fetched and not yet completed (R386, R387). -/
structure Inflight where
  /-- Function, mailbox, CID. | - | 16_mailboxes.md R383 | none -/
  ref : CmdRef := ⟨0, 0, 0⟩
  /-- The submission entry. | 64 bytes | 16_mailboxes.md R383 | none -/
  entry : Bytes := []
  /-- Over MCTP, not from a ring. | 1 bit | 16_mailboxes.md R412 | none -/
  mctp : Bool := false
  /-- Tick at which TIMEOUT expires. | - | 16_mailboxes.md R394 | none -/
  deadline : Option Nat := none
  /-- Meridian at its fetch. | 64 bits | 10_serving.md R267 | none -/
  at0 : Nat := 0
  /-- Its work has started. | 1 bit | 16_mailboxes.md R393 R394 | 0 -/
  started : Bool := false
  /-- Units of work done: tiles, pieces, pages, tokens. | - | 16_mailboxes.md R393 | 0 -/
  done : Nat := 0
  /-- Data read from the host for the command, once they have arrived. | - | 15_host_pcie.md R373 | none -/
  hdata : Option Bytes := none
  /-- Parameter block, once read. | 64 bytes | 16_mailboxes.md R392 | none -/
  block : Option Bytes := none
  /-- Tiles read for the command, from peers or while it waits for others: page and bytes. | - | 07_atlas.md R186, 12_fabric.md R320 | none -/
  got : List (Nat × Bytes) := []
  /-- Remote writes of the command not acknowledged, by TXID. | - | 12_fabric.md R320 | none -/
  sent : List Nat := []
  /-- The first write of the command that was lost to poison: kind, cause, page. | 8 + 8 + 41 bits | 09_models_tables.md R233 | none -/
  lost : Option (Nat × Nat × Nat) := none
  /-- Write-buffer number that must be durable before its piece is complete. | - | 17_storage.md R420 | none -/
  after : Option Nat := none
  /-- Pages on which the command has acted: tenant and page. | - | 16_mailboxes.md R393 | none -/
  acted : List (Nat × Nat) := []
  /-- Pages of a scatter's destination that have been checked. | - | 09_models_tables.md R233 | none -/
  checked : List Nat := []
  /-- Token units of a TEXT.DETOKENISE that have run. | 20 bits | 11_text.md R301 | 0 -/
  toks : Nat := 0
  /-- Stopped: the status it will complete with at its next piece boundary. | 16 bits | 16_mailboxes.md R393 | none -/
  stopped : Option Nat := none
  /-- Page whose promotion the command waits for: tenant and page. | - | 07_atlas.md R170 R186 | none -/
  missOn : Option (Nat × Nat) := none
  /-- A promotion it waited for could not be made: tenant, page, QUOTA cause. | - | 07_atlas.md R170 | none -/
  qfail : Option (Nat × Nat × Nat) := none
  /-- Pages of the command's accesses that have gained HEAT from it: tenant and page. | - | 07_atlas.md R172 | none -/
  touched : List (Nat × Nat) := []
  /-- A fault record of the command waits in the device (R189). | 1 bit | 07_atlas.md R189 | 0 -/
  faulted : Bool := false
  /-- Status, result and DETAIL with which it completes once its fault record is written. | 16 + 64 + 32 bits | 07_atlas.md R189, 16 R385 | none -/
  status : Option (Nat × Nat × Nat) := none
  deriving DecidableEq, Repr

/-- The CP's turn in fetching (R388). -/
structure CpTurn where
  /-- Function served. | 7 bits | 16_mailboxes.md R388 | DESIGN CHOICE 63: PF0 is served first (log entry 3) -/
  fn : Nat := 63
  /-- Mailboxes left in its turn, the one being served first. | - | 16_mailboxes.md R388 | none -/
  left : List Nat := []
  /-- Entries taken from the mailbox being served. | 0 to 8 | 16_mailboxes.md R388 | 0 -/
  taken : Nat := 0
  /-- Work mailbox served last, by function. | 7 bits each | 16_mailboxes.md R388 | DESIGN CHOICE 64 (log entry 3) -/
  last : Tab Nat := []
  deriving DecidableEq, Repr

/-! ### Host attachment (chapter 15) -/

/-- An MSI-X vector of a function. -/
structure Vec where
  /-- Message address. | 64 bits | 15_host_pcie.md R363 R370 | DESIGN CHOICE 0 (log entry 3) -/
  addr : Nat := 0
  /-- Message data. | 32 bits | 15_host_pcie.md R363 R370 | DESIGN CHOICE 0 (log entry 3) -/
  data : Nat := 0
  /-- Mask. | 1 bit | 15_host_pcie.md R376 | 1 -/
  mask : Bool := true
  /-- PBA bit. | 1 bit | 15_host_pcie.md R370 | 0 -/
  pba : Bool := false
  /-- PROF: moderation profile. | 4 bits, RWL | 15_host_pcie.md R370 | 0 -/
  prof : Nat := 0
  /-- Events counted since the last message. | 8 bits | 15_host_pcie.md R370 | 0 -/
  count : Nat := 0
  /-- Tick at which DELAY after the first counted event ends. | - | 15_host_pcie.md R370 | none -/
  due : Option Nat := none
  deriving DecidableEq, Repr

/-- A moderation profile (Table 15.7). -/
structure Profile where
  /-- DELAY, µs. | 16 bits, RWL | 15_host_pcie.md R370 | 0 -/
  delay : Nat := 0
  /-- COUNT. | 8 bits, RWL | 15_host_pcie.md R370 | 1 -/
  count : Nat := 1
  deriving DecidableEq, Repr

/-- A request of a function in the ingress buffer (R366, R368, R374), and the doorbells behind it. -/
inductive BarReq where
  /-- A write: atlas address under the WIN_BASE of its arrival, bytes, and whether it has been sent to a peer. -/
  | wr (va : Nat) (bytes : Bytes) (sent : Bool)
  /-- A read: tag, atlas address under the WIN_BASE of its arrival, bytes, tick at which 8 ms end, and what a peer
  answered. -/
  | rd (tag va len deadline : Nat) (sent : Bool) (got : Option Bytes)
  /-- A write of SQ_TAIL of a mailbox. -/
  | sq (mbox value : Nat)
  /-- A write of CQ_HEAD of a mailbox. -/
  | cq (mbox value : Nat)
  deriving DecidableEq, Repr

/-- One function: PF0 (0), VFt (t), PF1 (64). -/
structure Func where
  /-- READY. | 1 bit, RO | 15_host_pcie.md R376 Table 15.4 | 0 -/
  ready : Bool := false
  /-- LASTRESET. | 4 bits, RO | 15_host_pcie.md R376 Table 15.4 | 0x0 COLD -/
  lastReset : Nat := 0
  /-- IRQ_CAUSE. | 8 bits, W1C | 15_host_pcie.md R369 Table 15.5 | 0 -/
  irqCause : Nat := 0
  /-- IRQ_ENABLE. | 8 bits, RW | 15_host_pcie.md R369 | 0 -/
  irqEnable : Nat := 0
  /-- IRQ_VEC. | 11 bits, RW | 15_host_pcie.md R369 | 0 -/
  irqVec : Nat := 0
  /-- WIN_BASE, committed: a page number. | 41 bits, RWS | 15_host_pcie.md R366 Table 15.4 | 0 -/
  winBase : Nat := 0
  /-- WIN_BASE low word as written and not committed. | 16 bits | 15_host_pcie.md R366 | 0 -/
  winLow : Nat := 0
  /-- Moderation profiles 0 to 15. | 16 x 24 bits | 15_host_pcie.md R370 Table 15.7 | COUNT 1, DELAY 0 -/
  profiles : Tab Profile := []
  /-- MSI-X table, PBA and moderation state by vector. | 2,048, 64 or 129 vectors | 15_host_pcie.md R363 R370 | masked -/
  vecs : Tab Vec := []
  /-- MSI-X Enable. | 1 bit | 15_host_pcie.md R363 R376 | PRESUMED 0 (PCI Express; log entry 11) -/
  msixEn : Bool := false
  /-- MSI-X function mask. | 1 bit | 15_host_pcie.md R363 R376 | PRESUMED 0 (PCI Express; log entry 11) -/
  msixMask : Bool := false
  /-- ATS Enable. | 1 bit | 15_host_pcie.md R363 R372 | PRESUMED 0 (PCI Express; log entry 11) -/
  atsEn : Bool := false
  /-- PASID Enable. | 1 bit | 15_host_pcie.md R363 R371 | PRESUMED 0 (PCI Express; log entry 11) -/
  pasidEn : Bool := false
  /-- BAR2 requests and doorbells waiting, oldest first. | 1 MiB buffer, shared | 15_host_pcie.md R367 R368 R374 | empty -/
  barq : List BarReq := []
  /-- Page whose promotion the oldest request waits for. | 41 bits | 07_atlas.md R170 R186 | none -/
  barMiss : Option Nat := none
  /-- A promotion that the oldest request waited for could not be made: page and QUOTA cause. | - | 07_atlas.md R170 | none -/
  barFail : Option (Nat × Nat) := none
  /-- The VF has been present since cold start. | 1 bit | 15_host_pcie.md R364 | 0 -/
  wasPresent : Bool := false
  deriving DecidableEq, Repr

/-- A host ingress entry (Table 15.9). -/
structure Ingress where
  /-- CAP, 8 KiB units. | 8 bits, RWL | 15_host_pcie.md R374 Table 15.9 | 16 -/
  cap : Nat := 16
  /-- WGT. | 8 bits, RWL | 15_host_pcie.md R374 Table 15.9 | 1 -/
  wgt : Nat := 1
  /-- RATE as written. | 32 bits, RWS | 15_host_pcie.md R374 Table 15.9 | 0 -/
  shRate : Nat := 0
  /-- Word +8 as written: BURST, ENABLE, REFILL. | 31 bits, RWS | 15_host_pcie.md R374 Table 15.9 | BURST 256 -/
  shWord : Nat := 256
  /-- The committed bucket. -/
  bucket : Bucket := {}
  /-- Deficit of the round-robin, bytes. | - | 15_host_pcie.md R374 | DESIGN CHOICE 0 (log entry 3) -/
  deficit : Nat := 0
  /-- STALLS. | 32 bits, RC | 15_host_pcie.md R374 Table 15.9 | 0 -/
  stalls : Nat := 0
  deriving DecidableEq, Repr

/-- Resets by rank (R377), then those that run apart. -/
inductive ResetKind where
  | cold | conv | warm | flr0 | tenant | flr1 | fence
  deriving DecidableEq, Repr

/-- A function's reset under way (R376, R377). -/
structure FnReset where
  /-- Highest-ranking reset that reached it. | - | 15_host_pcie.md R377 | none -/
  kind : ResetKind := .cold
  /-- Code LASTRESET will take. | 4 bits | 15_host_pcie.md R376 | none -/
  code : Nat := 0
  deriving DecidableEq, Repr

/-- The funnel of the service DMA (R436). -/
structure Funnel where
  /-- DMA.COPY commands whose next piece holds a transfer context. | up to 64 | 18_control_security.md R436 | none -/
  held : List CmdRef := []
  /-- Function that the deficit round-robin of class BULK served last. | 7 bits | 18_control_security.md R436 | DESIGN CHOICE 63 (log entry 3) -/
  turn : Nat := 63
  /-- Deficits of functions, bytes. | - | 18_control_security.md R436 | 0 -/
  deficit : Tab Nat := []
  deriving DecidableEq, Repr

/-- The host attachment. -/
structure HostIf where
  /-- Functions by index. | 65 | 15_host_pcie.md R364 Table 15.2 | as each field -/
  funcs : Tab Func := []
  /-- VF Enable. | 1 bit | 15_host_pcie.md R364 | PRESUMED 0 (PCI Express; log entry 11) -/
  vfEnable : Bool := false
  /-- NumVFs. | 16 bits | 15_host_pcie.md R364 | PRESUMED 0 (PCI Express; log entry 11) -/
  numVfs : Nat := 0
  /-- The PCIe link is up (L0). | 1 bit | 15_host_pcie.md R376 | 0 -/
  linkUp : Bool := false
  /-- Negotiated rate, GT/s (2 stands for 2.5), and width. | - | 15_host_pcie.md R362 | none: link down -/
  link : Option (Nat × Nat) := none
  /-- Tick at which the link last reached L0. | - | 15_host_pcie.md R376 | 0 -/
  linkAt : Nat := 0
  /-- PERST# is asserted. | 1 bit | 20_electrical_mechanical.md R482 | 0 -/
  perst : Bool := false
  /-- Function resets under way, by function index. | - | 15_host_pcie.md R376 R377 | COLD under way in PF0 and PF1 -/
  resets : Tab FnReset := []
  /-- Host ingress entries by function index. | 65 | 15_host_pcie.md R374 Table 15.9 | as each field -/
  ingress : Tab Ingress := []
  /-- HQ_STAT.CBAD. | 1 bit, W1C | 15_host_pcie.md R374 | 0 -/
  hqCbad : Bool := false
  /-- Functions over CAP in the ingress buffer: credits are withheld. | 65 bits | 15_host_pcie.md R374 | none -/
  overCap : List Nat := []
  /-- Non-posted requests outstanding to the host. | up to 1,024 | 15_host_pcie.md R363 R373 | none -/
  reads : List HostXfer := []
  /-- Address translation cache: function, PASID + 1 (0: none) and page. | 8,192 entries | 15_host_pcie.md R372 | empty -/
  atc : List (Nat × Nat × Nat) := []
  /-- Invalidate Requests not completed: function, first 4 KiB page and pages. | up to 32 a function | 15_host_pcie.md R363 R372 | none -/
  inval : List (Nat × Nat × Nat) := []
  /-- The funnel of the service DMA. | - | 18_control_security.md R436 Table 18.2 | as each field -/
  funnel : Funnel := {}
  deriving DecidableEq, Repr

/-! ### Control die, life cycle and firmware (chapter 18) -/

/-- A firmware slot of the boot partition (Table 18.11). -/
structure FwSlot where
  /-- STATE. | 8 bits | 18_control_security.md R452 Table 18.11 | EMPTY; slot A DESIGN CHOICE ACTIVE (log entry 3) -/
  st : Nat := 0
  /-- TRIES. | 8 bits | 18_control_security.md R453 R454 | 0 -/
  tries : Nat := 0
  /-- VERSION. | 32 bits | 18_control_security.md R452 | DESIGN CHOICE 0 (log entry 3) -/
  version : Nat := 0
  /-- SECVER. | 32 bits | 18_control_security.md R452 | DESIGN CHOICE 0 (log entry 3) -/
  secver : Nat := 0
  /-- CFGFMT. | 32 bits | 18_control_security.md R452 | DESIGN CHOICE 0 (log entry 3) -/
  cfgfmt : Nat := 0
  /-- KEYIDX of the image. | 8 bits | 18_control_security.md R450 | DESIGN CHOICE 0 (log entry 3) -/
  keyidx : Nat := 0
  /-- The image. | up to 1 GiB | 18_control_security.md R452 | DESIGN CHOICE no bytes held (log entry 3) -/
  image : Bytes := []
  deriving DecidableEq, Repr

/-- A pending firmware activation (R453). -/
structure FwAct where
  /-- SLOT. | 1 bit | 18_control_security.md R453 | none -/
  slot : Nat := 0
  /-- CONFIRMS, s. | 32 bits | 18_control_security.md R453 | none -/
  confirms : Nat := 0
  /-- T. | 64 bits | 18_control_security.md R453 | none -/
  t : Nat := 0
  /-- The command that waits for it. | - | 18_control_security.md R453 | none -/
  cmd : CmdRef := ⟨0, 0, 0⟩
  deriving DecidableEq, Repr

/-- Where a start stands (R440, R454). -/
inductive StartState where
  /-- No power. -/
  | off
  /-- Starting since a tick, COLD (true) or WARM. -/
  | starting (since : Nat) (cold : Bool)
  /-- Halted for low coolant flow (R492). -/
  | coolant (since : Nat)
  /-- Started. -/
  | up
  deriving DecidableEq, Repr

/-- The control die. -/
structure Control where
  /-- Start-up. | - | 18_control_security.md R440 R454 | COLD start under way -/
  start : StartState := .starting 0 true
  /-- LIFECYCLE. | 3 bits | 18_control_security.md R442 | VENDOR (as shipped) -/
  lifecycle : Nat := 1
  /-- The ROM has chosen its image in this start. | 1 bit | 18_control_security.md R440 R454 | 0 -/
  chosen : Bool := false
  /-- Slot A. -/
  slotA : FwSlot := { st := 2 }
  /-- Slot B. -/
  slotB : FwSlot := {}
  /-- RUNNING: 0 A, 1 B. | 1 bit | 18_control_security.md R454 | 0 -/
  running : Nat := 0
  /-- The staging area. | 1 GiB | 18_control_security.md R452 | empty -/
  staging : List Host.Cell := []
  /-- Bytes staged: the end of the last piece staged. | 31 bits | 18_control_security.md R450 R452 | 0 -/
  staged : Nat := 0
  /-- MINSECVER. | 32 bits | 18_control_security.md R458 | DESIGN CHOICE 0 (log entry 3) -/
  minSecver : Nat := 0
  /-- Raises of MINSECVER made. | 0 to 64 | 18_control_security.md R458 | 0 -/
  raises : Nat := 0
  /-- Revoked vendor keys. | 4 bits | 18_control_security.md R446 | 0 -/
  revoked : Nat := 0
  /-- Passes through RETURN made. | 0 to 8 | 18_control_security.md R444 | 0 -/
  returns : Nat := 0
  /-- The owner key. | 1,952 bytes | 18_control_security.md R444 | none -/
  owner : Option Bytes := none
  /-- The identity key pair exists. | - | 18_control_security.md R447 | made (shipped in VENDOR) -/
  identity : Bool := true
  /-- Generation of the media key. | - | 18_control_security.md R444 | 0 -/
  mediaKey : Nat := 0
  /-- NONCE given and not spent. | 256 bits | 18_control_security.md R444 | none -/
  nonce : Option Bytes := none
  /-- Confirmed format of the configuration store. | 32 bits | 18_control_security.md R456 | DESIGN CHOICE 0 (log entry 3) -/
  cfgFmt : Nat := 0
  /-- Format of the second copy a trial start made. | 32 bits | 18_control_security.md R456 | none -/
  trialFmt : Option Nat := none
  /-- The pending activation. | - | 18_control_security.md R453 | none -/
  act : Option FwAct := none
  /-- CONFIRMS of the trial, s, and the tick of READY, 0 before it. | 32 bits | 18_control_security.md R455 | none -/
  confirms : Option (Nat × Nat) := none
  /-- ROM recovery mode. | 1 bit | 18_control_security.md R459 | 0 -/
  recovery : Bool := false
  /-- A recovery request arrived in the poll. | 1 bit | 18_control_security.md R440 R459 | 0 -/
  recReq : Bool := false
  /-- A fall-back to report after READY: version left. | 32 bits | 18_control_security.md R455 | none -/
  fallback : Option Nat := none
  /-- A WARM start to report after READY: cause. | - | 19_power_ras_counters.md R474 | none -/
  warmCause : Option Nat := none
  /-- Transition the ROM finishes at the next start: from, to, NEWKEY. | - | 18_control_security.md R445 | none -/
  erase : Option (Nat × Nat × Bytes) := none
  /-- Instruction in each boundary-scan device's register; IDCODE where none is loaded. | 20 x 8 bits | 18_control_security.md R443, 20 R493 | PRESUMED IDCODE (IEEE 1149.1; log entry 11) -/
  tap : Tab TapInstr := []
  deriving DecidableEq, Repr

/-! ### Vector search (chapter 6) -/

/-- An item of an index: its attribute word, vector and sketch (R131). -/
structure SItem where
  /-- ID. | 32 bits | 06_selection_and_search.md R131 | no item -/
  id : Nat := 0
  /-- Attribute word. | 32 bits | 06_selection_and_search.md R131 | no item -/
  attr : Nat := 0
  /-- Vector in VFMT: mantissas, then (B8) exponents. | D or D + D / 32 bytes | 06_selection_and_search.md R131 | no item -/
  vec : Bytes := []
  /-- Sketch: bit i is bit i of the number. | 128, 256 or 512 bits | 06_selection_and_search.md R132 | no item -/
  sk : Nat := 0
  deriving DecidableEq, Repr

/-- An entry of a quad's delta segment (R141). -/
structure SDelta where
  /-- Quad. | 16 bits | 06_selection_and_search.md R141 | segment empty -/
  quad : Nat := 0
  /-- Epoch. | 64 bits | 06_selection_and_search.md R140 R141 | segment empty -/
  epoch : Nat := 0
  /-- Tombstone, else insert. | 1 bit | 06_selection_and_search.md R141 | segment empty -/
  tomb : Bool := false
  /-- The item, or the ID a tombstone names. | - | 06_selection_and_search.md R141 | segment empty -/
  item : SItem := {}
  deriving DecidableEq, Repr

/-- A version of an index (R144). -/
structure SVer where
  /-- The opened image: its quads and centroids lie in the atlas. | 1 bit | 06_selection_and_search.md R144 R150 | no version -/
  image : Bool := false
  /-- Base items by quad, of a version that a resurvey built. | - | 06_selection_and_search.md R145 | no version -/
  quads : List (List SItem) := []
  /-- Centroids by quad, of a version that a resurvey built: B8 rows. | - | 06_selection_and_search.md R145 | no version -/
  cents : List Bytes := []
  /-- Delta entries in arrival order. | DELTACAP per quad | 06_selection_and_search.md R141 R143 | no version -/
  deltas : List SDelta := []
  /-- Tiles that the version and its delta segments hold. | - | 06_selection_and_search.md R145 R150 | no version -/
  tiles : Nat := 0
  /-- Epoch it was built from. | 64 bits | 06_selection_and_search.md R145 | no version -/
  epoch0 : Nat := 0
  /-- Epoch that was current when a newer version took over. | 64 bits | 06_selection_and_search.md R139 R144 | none -/
  last : Option Nat := none
  deriving DecidableEq, Repr

/-- Who asked a query. -/
inductive QOwner where
  /-- A SEARCH.QUERY in flight. -/
  | cmd (r : CmdRef)
  /-- An ANSWER sequence, by slot, with its query vector. -/
  | seq (slot : Nat) (vec : Bytes)
  deriving DecidableEq, Repr

/-- A query that waits for its batch's end (R139). -/
structure SQuery where
  /-- Owner. | - | 06_selection_and_search.md R151 | none -/
  owner : QOwner := .seq 0 []
  /-- Query entry. | 64 bytes | 06_selection_and_search.md R151 | none -/
  entry : Bytes := []
  /-- Pinned version; 0 current. | 32 bits | 06_selection_and_search.md R139 R144 | none -/
  pin : Nat := 0
  /-- PRIO. | 3 bits | 06_selection_and_search.md R139 | none -/
  prio : Nat := 0
  /-- Tick since which it waits. | - | 06_selection_and_search.md R139 | none -/
  since : Nat := 0
  deriving DecidableEq, Repr

/-- A batch (R139). -/
structure SBatch where
  /-- Version bound. | 32 bits | 06_selection_and_search.md R139 | none -/
  ver : Nat := 0
  /-- Snapshot epoch. | 64 bits | 06_selection_and_search.md R139 | none -/
  snap : Nat := 0
  /-- Best priority of its queries. | 3 bits | 06_selection_and_search.md R139 | none -/
  prio : Nat := 0
  /-- Queries that have no result yet. | up to 512 | 06_selection_and_search.md R139 | none -/
  queries : List SQuery := []
  /-- Pages that its plots have read. | - | 06_selection_and_search.md R139, 07_atlas.md R172 | none -/
  seen : List Nat := []
  deriving DecidableEq, Repr

/-- A resurvey under way (R145, R146). -/
structure Resurvey where
  /-- Its command. | - | 06_selection_and_search.md R153 | none -/
  cmd : CmdRef := ⟨0, 0, 0⟩
  /-- E0. | 64 bits | 06_selection_and_search.md R145 | none -/
  e0 : Nat := 0
  /-- ITERS. | 8 bits | 06_selection_and_search.md R145 | none -/
  iters : Nat := 0
  /-- RCORES. | 16 bits | 06_selection_and_search.md R146 | none -/
  rcores : Nat := 0
  /-- SWAPT. | 64 bits | 06_selection_and_search.md R153 | none -/
  swapt : Nat := 0
  /-- Number the version will take. | 32 bits | 06_selection_and_search.md R153 | none -/
  num : Nat := 0
  /-- Tiles reserved for it. | - | 06_selection_and_search.md R146 | none -/
  tiles : Nat := 0
  /-- Paused for the foreground. | 1 bit | 06_selection_and_search.md R146 | 0 -/
  paused : Bool := false
  /-- The job of priority 7 that it runs as. | 32 bits | 06_selection_and_search.md R146 | none -/
  job : Nat := 0
  deriving DecidableEq, Repr

/-- An index (R131). -/
structure Index where
  /-- Tenant. | 6 bits | 06_selection_and_search.md R131 | no index -/
  tenant : Nat := 0
  /-- IMGVA. | 57 bits | 06_selection_and_search.md R150 | no index -/
  imgva : Nat := 0
  /-- D. | 16 bits | 06_selection_and_search.md R131 | no index -/
  d : Nat := 32
  /-- VFMT is B8, else I8. | 1 bit | 06_selection_and_search.md R131 | no index -/
  b8 : Bool := false
  /-- SKBITS. | 10 bits | 06_selection_and_search.md R131 | no index -/
  skbits : Nat := 128
  /-- NQUAD. | 17 bits | 06_selection_and_search.md R131 | no index -/
  nquad : Nat := 1
  /-- SPILL. | 1 bit | 06_selection_and_search.md R131 | no index -/
  spill : Bool := false
  /-- PROJOFF. | 64 bits | 06_selection_and_search.md R133 | no index -/
  projoff : Nat := 0
  /-- CENTOFF. | 64 bits | 06_selection_and_search.md R133 | no index -/
  centoff : Nat := 0
  /-- DIROFF. | 64 bits | 06_selection_and_search.md R133 | no index -/
  diroff : Nat := 0
  /-- DELTACAP. | 17 bits | 06_selection_and_search.md R143 R150 | no index -/
  deltacap : Nat := 256
  /-- BATCHUS. | 16 bits | 06_selection_and_search.md R139 R150 | no index -/
  batchus : Nat := 0
  /-- Epoch counter: the last epoch taken. | 64 bits | 06_selection_and_search.md R140 | no index -/
  epoch : Nat := 0
  /-- Items present. | 32 bits | 06_selection_and_search.md R131 R143 | no index -/
  nitems : Nat := 0
  /-- Live versions. | - | 06_selection_and_search.md R144 | no index -/
  vers : Tab SVer := []
  /-- Current version. | 32 bits | 06_selection_and_search.md R144 | no index -/
  cur : Nat := 1
  /-- Number of the newest version made. | 32 bits | 06_selection_and_search.md R144 | no index -/
  lastVer : Nat := 1
  /-- A built version not yet swapped in. | 32 bits | 06_selection_and_search.md R148 | none -/
  built : Option Nat := none
  /-- Its swap is scheduled. | 1 bit | 06_selection_and_search.md R148 | 0 -/
  swapping : Bool := false
  /-- SEARCH.CLOSE has been given. | 1 bit | 06_selection_and_search.md R150 | 0 -/
  closing : Bool := false
  /-- Queries waiting for a batch, oldest first. | - | 06_selection_and_search.md R139 | none -/
  waiting : List SQuery := []
  /-- Batches by number. | - | 06_selection_and_search.md R139 | none -/
  batches : Tab SBatch := []
  /-- Number the next batch takes. | - | model's own numbering of R139's batches | 0 -/
  nextBatch : Nat := 0
  /-- The resurvey under way. | - | 06_selection_and_search.md R145 | none -/
  resurvey : Option Resurvey := none
  /-- Updates accepted after E0: epoch and entries (delete, item). | - | 06_selection_and_search.md R147 | none -/
  ulog : List (Nat × List (Bool × SItem)) := []
  deriving DecidableEq, Repr

/-- What a SEARCH.QUERY in flight has had so far (R151). -/
structure SQCmd where
  /-- Queries without a result. | 13 bits | 06_selection_and_search.md R151 | none -/
  left : Nat := 0
  /-- NSHORT. | 16 bits | 06_selection_and_search.md R151 | 0 -/
  nshort : Nat := 0
  /-- Queries ended POISON. | 16 bits | 06_selection_and_search.md R151 | 0 -/
  npoison : Nat := 0
  /-- Queries ended FAULT. | 16 bits | 06_selection_and_search.md R151 | 0 -/
  nfault : Nat := 0
  /-- Faults of its query table that are still to be reported: kind, CAUSE, page. | - | 06_selection_and_search.md R138, 07_atlas.md R189 | none -/
  faults : List (Nat × Nat × Nat) := []
  /-- The version it pins was freed while queries waited. | 1 bit | 06_selection_and_search.md R144 R151 | 0 -/
  stale : Bool := false
  deriving DecidableEq, Repr

/-- The search layer. -/
structure Search where
  /-- Indexes by handle. | - | 06_selection_and_search.md R149 R150 | none -/
  ixs : Tab Index := []
  /-- SEARCH.QUERY commands with queries outstanding. | - | 06_selection_and_search.md R151 | none -/
  cmds : List (CmdRef × SQCmd) := []
  /-- Image pages that plots have read and hold while others are fetched: tenant, page, bytes. | - | 06_selection_and_search.md R138 R139 | none -/
  held : List (Nat × Nat × Bytes) := []
  deriving DecidableEq, Repr


/-! ### Time and scheduled actions (chapter 14) -/

/-- What a scheduled action does at its time (R353). -/
inductive SchedKind where
  /-- A FAB.ROUTE commit. -/
  | route
  /-- A gate list takeover of a port. -/
  | gate (port : Nat)
  /-- A FAB.SHAPER commit with its entry. -/
  | shaper (entry : Bytes)
  /-- A SEQ.SERVE commit with its block. -/
  | serve (tenant : Nat) (block : Bytes)
  /-- A model swap: handle and version. -/
  | model (handle version : Nat)
  /-- An index swap: handle and version. -/
  | index (handle version : Nat)
  /-- A firmware activation. -/
  | firmware
  /-- A PWR.CAP commit with its entry. -/
  | cap (entry : Bytes)
  deriving DecidableEq, Repr

/-- A pending scheduled action (R353). -/
structure SchedAct where
  /-- Number of the action. | - | 14_meridian.md R353 | none -/
  num : Nat := 0
  /-- T. | 64 bits | 14_meridian.md R353 | none -/
  t : Nat := 0
  /-- What it does. | - | 14_meridian.md R353 | none -/
  kind : SchedKind := .route
  /-- The command that completes when it has taken effect; none when it has completed already. | - | 14_meridian.md R353 | none -/
  cmd : Option CmdRef := none
  /-- The armed change it is bound to: coordinator and CHANGEID. | 17 + 32 bits | 14_meridian.md R354 R355 | none -/
  change : Option (Nat × Nat) := none
  deriving DecidableEq, Repr

/-- An armed change at a participant (R354, R356, R357). -/
structure PartChange where
  /-- Coordinator. | 17 bits | 14_meridian.md R356 | none -/
  coord : Nat := 0
  /-- CHANGEID. | 32 bits | 14_meridian.md R356 | none -/
  id : Nat := 0
  /-- T. | 64 bits | 14_meridian.md R356 | none -/
  t : Nat := 0
  /-- SVCMASK. | 8 bits | 14_meridian.md R356 | none -/
  svcmask : Nat := 0
  /-- A bound action has been dropped, so that the change cannot be applied. | 1 bit | 16_mailboxes.md R396, 14 R357 | 0 -/
  broken : Bool := false
  /-- CONFIRM (true) or DISARM (false) received. | - | 14_meridian.md R357 | none -/
  verdict : Option Bool := none
  deriving DecidableEq, Repr

/-- A change that this module coordinates (R356, R358). -/
structure CoordChange where
  /-- CHANGEID. | 32 bits | 14_meridian.md R356 | none -/
  id : Nat := 0
  /-- T. | 64 bits | 14_meridian.md R356 | none -/
  t : Nat := 0
  /-- GUARD, ticks. | - | 14_meridian.md R356 | none -/
  guard : Nat := 0
  /-- SVCMASK. | 8 bits | 14_meridian.md R356 | none -/
  svcmask : Nat := 0
  /-- The TIME.ARM. | - | 14_meridian.md R358 | none -/
  cmd : CmdRef := ⟨0, 0, 0⟩
  /-- Participants. | 131,072 | 14_meridian.md R356 | none -/
  parts : List Nat := []
  /-- Participants that have answered ARMED. | - | 14_meridian.md R356 | none -/
  armed : List Nat := []
  /-- Decision: CONFIRM (true) or DISARM (false). | - | 14_meridian.md R356 | none -/
  decided : Option Bool := none
  /-- Participants that have reported SWITCHED. | - | 14_meridian.md R358 | none -/
  switched : List Nat := []
  /-- Participants that have reported FAULTED. | - | 14_meridian.md R358 | none -/
  faulted : List Nat := []
  deriving DecidableEq, Repr

/-- Synchronisation states (Table 14.4). -/
inductive SyncState where
  | free | acquiring | locked | holdover
  deriving DecidableEq, Repr

/-- What the time unit keeps per port (R349, R350). -/
structure TimePort where
  /-- ASYM, ticks. | 16 bits, two's complement | 14_meridian.md R350 | DESIGN CHOICE 0 (log entry 3) -/
  asym : Int := 0
  /-- STRATUM last announced; 31 none. | 5 bits | 14_meridian.md R349 | 31 -/
  stratum : Nat := 31
  /-- BOUND last announced. | 32 bits | 14_meridian.md R349 | 0xFFFFFFFF -/
  bound : Nat := 0xFFFFFFFF
  /-- The peer names this module as its parent. | 1 bit | 14_meridian.md R349 | 0 -/
  child : Bool := false
  /-- Last OFFSET of R350. | 32 bits, two's complement | 14_meridian.md R361 | 0 -/
  offset : Int := 0
  /-- Last d of R350. | 32 bits, two's complement | 14_meridian.md R361 | 0 -/
  delay : Int := 0
  /-- Samples discarded since the last read. | 32 bits | 14_meridian.md R361 | 0 -/
  discarded : Nat := 0
  /-- Delays of the last 8 samples. | 8 | 14_meridian.md R350 | none -/
  delays : List Int := []
  /-- Offsets of the last 8 kept samples. | 8 | 14_meridian.md R350 | none -/
  kept : List Int := []
  /-- TX of the last TIME message received. | 64 bits | 14_meridian.md R349 | 0 -/
  rxTx : Nat := 0
  /-- Meridian at which it arrived. | 64 bits | 14_meridian.md R349 | 0 -/
  rxAt : Nat := 0
  /-- Tick of the last TIME message sent. | - | 14_meridian.md R349 | none -/
  sentAt : Option Nat := none
  deriving DecidableEq, Repr

/-- The time unit (chapter 14). -/
structure TimeUnit where
  /-- STATE. | 3 bits, RO | 14_meridian.md R346 Table 14.4 | FREE -/
  st : SyncState := .free
  /-- SOURCE. | 2 bits, RWB | 14_meridian.md R361 | 0b01 FABRIC -/
  source : Nat := 1
  /-- ARMONLY. | 1 bit, RWL | 14_meridian.md R355 R361 | 0 -/
  armonly : Bool := false
  /-- SYNCPER, µs. | 16 bits, RWL | 14_meridian.md R361 | 10 -/
  syncper : Nat := 10
  /-- Second count of the next 1PPS edge. | 64 bits | 14_meridian.md R348 | none -/
  seconds : Option Nat := none
  /-- Tick of the last 1PPS edge, while the host input is live. | - | 14_meridian.md R348 | none -/
  ppsAt : Option Nat := none
  /-- STRATUM. | 5 bits, RO | 14_meridian.md R349 Table 14.2 | 31 -/
  stratum : Nat := 31
  /-- PARENT. | 6 bits, RO | 14_meridian.md R349 Table 14.2 | 0x3F -/
  parent : Nat := 0x3F
  /-- PPSLOSS. | 1 bit, W1C | 14_meridian.md R348 Table 14.2 | 0 -/
  ppsloss : Bool := false
  /-- SLEWMAX. | 1 bit, W1C | 14_meridian.md R352 Table 14.2 | 0 -/
  slewmax : Bool := false
  /-- OFFSET. | 32 bits, RO | 14_meridian.md R350 Table 14.3 | 0 -/
  offset : Int := 0
  /-- BOUND while LOCKED, or at the start of HOLDOVER; none: 0xFFFFFFFF. | 32 bits, RO | 14_meridian.md R351 Table 14.3 | none -/
  bound : Option Nat := none
  /-- Tick at which HOLDOVER began. | - | 14_meridian.md R352 | none -/
  holdSince : Nat := 0
  /-- Ticks by which the meridian still has to be slewed: positive ahead. | - | 14_meridian.md R350 | 0 -/
  slew : Int := 0
  /-- Ticks of slewing budget carried, below 10,000. | - | 14_meridian.md R345 | 0 -/
  slewCarry : Nat := 0
  /-- Ticks the meridian still holds at its first lock. | - | 14_meridian.md R345 | 0 -/
  hold : Nat := 0
  /-- It has been locked once since cold start. | 1 bit | 14_meridian.md R345 | 0 -/
  lockedOnce : Bool := false
  /-- Latched high words of MERIDIAN by function. | 32 bits each | 14_meridian.md R346 | none -/
  latches : Tab Nat := []
  /-- Ports. | 48 | 14_meridian.md R349 | as each field -/
  ports : Tab TimePort := []
  /-- Pending scheduled actions, oldest first. | up to 256 | 14_meridian.md R353 | none -/
  acts : List SchedAct := []
  /-- Number the next action takes. | - | model's own numbering of R353's actions | 0 -/
  nextAct : Nat := 0
  /-- Armed changes held as a participant. | up to 64 | 14_meridian.md R354 | none -/
  changes : List PartChange := []
  /-- Changes coordinated here. | - | 14_meridian.md R356 | none -/
  coords : List CoordChange := []
  deriving DecidableEq, Repr


/-! ### Models, tables and serving (chapters 9 to 11) -/

/-- A table of a loaded version (R222). -/
structure Table where
  /-- Its descriptor, Table 9.7. | 64 bytes | 09_models_tables.md R222 | none -/
  d : Bytes := []
  /-- Atlas address of its ROWS section. | 57 bits | 09_models_tables.md R222 | none -/
  rows : Nat := 0
  /-- Atlas address of its REMAP section. | 57 bits | 09_models_tables.md R224 | none -/
  remap : Option Nat := none
  /-- Atlas address of its STAMPS section. | 57 bits | 09_models_tables.md R227 | none -/
  stamps : Option Nat := none
  /-- Atlas address of its SHARDMAP section. | 57 bits | 09_models_tables.md R225 | none -/
  shmap : Option Nat := none
  /-- Atlas address of its DEFROW section. | 57 bits | 09_models_tables.md R224 | none -/
  defrow : Option Nat := none
  deriving DecidableEq, Repr

/-- A KV block (R246, R247, R251). -/
structure KvBlock where
  /-- Prefix hash under which it is published. | 16 bytes | 10_serving.md R250 R251 | not published -/
  hash : Option Bytes := none
  /-- Its 64 tokens, when published. | 64 x 32 bits | 10_serving.md R251 | none -/
  toks : List Nat := []
  /-- The published block before it. | 32 bits | 10_serving.md R251 | none -/
  pred : Option Nat := none
  /-- Place in the order of release or hit: higher later. | - | 10_serving.md R247 | 0 -/
  used : Nat := 0
  deriving DecidableEq, Repr

/-- Kinds of step (Table 10.6). -/
inductive StepKind where
  | prefill | decode | verify | draft | encode | rerank | expert
  deriving DecidableEq, Repr

/-- A request to an expert, at its origin or its home (R260). -/
structure ExpReq where
  /-- Layer. | 16 bits | 10_serving.md R259 | none -/
  layer : Nat := 0
  /-- Expert. | 16 bits | 10_serving.md R259 | none -/
  expert : Nat := 0
  /-- SEQID at the origin. | 32 bits | 10_serving.md R260 | none -/
  seq : Nat := 0
  /-- Origin module. | 17 bits | 10_serving.md R260 | none -/
  origin : Nat := 0
  /-- Number of the request at its origin. | - | 10_serving.md R260 | none -/
  num : Nat := 0
  /-- Activations and gate. | DMODEL elements + 32 bits | 10_serving.md R260 | none -/
  data : Bytes := []
  /-- Origin: offset of its result in the expert area. | 32 bits | 10_serving.md R260 (layout: log 25) | none -/
  res : Nat := 0
  /-- Origin: kind code of the step that asked. | 8 bits | 10_serving.md R260 | none -/
  kind : Nat := 0
  /-- Origin: times it has been sent. | 1 or 2 | 10_serving.md R261 | 0 -/
  sent : Nat := 0
  /-- Origin: place in the list of homes used last. | 2 bits | 10_serving.md R261 | none -/
  home : Nat := 0
  /-- Origin: tick of DISPDL; home: tick of arrival. | - | 10_serving.md R260 R261 | none -/
  due : Nat := 0
  deriving DecidableEq, Repr

/-- An entry of a step block (Table 10.6). -/
structure StepEnt where
  /-- SEQ: the SEQID. | 32 bits | 10_serving.md R244 | none -/
  seq : Nat := 0
  /-- POS. | 32 bits | 10_serving.md R244 | none -/
  pos : Nat := 0
  /-- NTOK. | 32 bits | 10_serving.md R244 | none -/
  ntok : Nat := 0
  /-- NOUT. | 32 bits | 10_serving.md R244 | none -/
  nout : Nat := 0
  /-- OUTOFF. | 32 bits | 10_serving.md R244 | none -/
  outoff : Nat := 0
  deriving DecidableEq, Repr

/-- A step dealt and not ended (R244). -/
structure StepRun where
  /-- KIND. | 8 bits | 10_serving.md R244 | none -/
  kind : StepKind := .prefill
  /-- Slot of the step area. | 2 bits | 10_serving.md R244 | none -/
  slot : Nat := 0
  /-- STEP. | 64 bits | 10_serving.md R244 | none -/
  num : Nat := 0
  /-- START. | 64 bits | 10_serving.md R244 | none -/
  start : Nat := 0
  /-- Meridian of its beat. | 64 bits | 10_serving.md R257 | none -/
  beat : Option Nat := none
  /-- Entries. | NENT | 10_serving.md R244 | none -/
  ents : List StepEnt := []
  /-- It has been dealt; a VERIFY step waits for its drafts first. | 1 bit | 10_serving.md R262 | none -/
  dealt : Bool := true
  /-- Job it was handed to. | 32 bits | 10_serving.md R244 | none -/
  job : Nat := 0
  /-- Batch of plots it was handed over as. | - | 10_serving.md R244 | none -/
  batch : Nat := 0
  /-- OUTVA. | 57 bits | 10_serving.md R244 | none -/
  outva : Nat := 0
  /-- Every plot was DONE when its job ended. | 1 bit | 10_serving.md R244 R271 | none -/
  fin : Bool := false
  /-- Requests of an EXPERT step. | - | 10_serving.md R260 | none -/
  reqs : List ExpReq := []
  deriving DecidableEq, Repr

/-- Figures of one rebalance period (R254, R268). -/
structure Period where
  /-- Tick at which it began. | - | 10_serving.md R254 | 0 -/
  since : Nat := 0
  /-- Prefill tokens committed. | - | 10_serving.md R254 | 0 -/
  ptoks : Nat := 0
  /-- A prefill step ran. | 1 bit | 10_serving.md R254 | 0 -/
  pran : Bool := false
  /-- Decode steps. | - | 10_serving.md R254 | 0 -/
  dsteps : Nat := 0
  /-- Sum of step end - beat start (or start), ticks. | - | 10_serving.md R254 | 0 -/
  dtime : Nat := 0
  /-- KV blocks freed. | - | 10_serving.md R268 | 0 -/
  freed : Nat := 0
  /-- Sequences ended. | - | 10_serving.md R268 | 0 -/
  ended : Nat := 0
  /-- Sum of their lifetimes, ticks. | - | 10_serving.md R268 | 0 -/
  life : Nat := 0
  deriving DecidableEq, Repr

/-- What the sequencer keeps of a version in service. -/
structure VerServe where
  /-- Die shares of the prefill pool. | 8 bits | 10_serving.md R254 | PFINIT lowest shares -/
  pf : List Nat := []
  /-- Die shares of the decode pool. | 8 bits | 10_serving.md R254 | the rest -/
  dc : List Nat := []
  /-- A move under way: die, and to the decode pool. | - | 10_serving.md R255 | none -/
  moving : Option (Nat × Bool) := none
  /-- KV blocks that are published or have been used, by number. | KVBLOCKS | 10_serving.md R246 R251 | none published -/
  blocks : Tab KvBlock := []
  /-- Order number of the next release or hit. | - | 10_serving.md R247 | 0 -/
  clock : Nat := 0
  /-- Steps running. | at most 4 | 10_serving.md R244 | none -/
  steps : List StepRun := []
  /-- Number of the next step. | 64 bits | 10_serving.md R244 | 0 -/
  nextStep : Nat := 0
  /-- Number of the next beat. | 64 bits | 10_serving.md R256 | 0 -/
  nextBeat : Nat := 0
  /-- OVERRUN. | - | 10_serving.md R257 | 0 -/
  overrun : Nat := 0
  /-- The current period. | - | 10_serving.md R254 | zeros -/
  per : Period := {}
  /-- The last whole period. | - | 10_serving.md R254 R268 | zeros -/
  last : Period := {}
  /-- Origin: dispatch requests without a result. | - | 10_serving.md R260 R261 | none -/
  sent : List ExpReq := []
  /-- Home: requests gathered for an EXPERT step. | - | 10_serving.md R260 | none -/
  gathered : List ExpReq := []
  /-- Sequences of the last decode or verify step, by SEQID. | DCBATCH | 10_serving.md R257 | none -/
  lastDec : List Nat := []
  /-- Number of the next dispatch request. | - | 10_serving.md R260 | 0 -/
  nextReq : Nat := 0
  /-- Writes of block tables and block records that wait for their page: slot of a sequence (16,384: of none), address, bytes. | - |
  10_serving.md R237 R246 | none -/
  pend : List (Nat × Nat × Bytes) := []
  deriving DecidableEq, Repr

/-- A version of a model (R219). -/
structure ModelVer where
  /-- Base address of the image. | 57 bits | 09_models_tables.md R213 | none -/
  imgva : Nat := 0
  /-- Pages of the image. | 41 bits | 09_models_tables.md R213 | none -/
  pages : Nat := 0
  /-- MODELID. | 32 bits | 09_models_tables.md R213 Table 9.2 | none -/
  modelid : Nat := 0
  /-- BUILD. | 32 bits | 09_models_tables.md R213 Table 9.2 | none -/
  build : Nat := 0
  /-- SVCMASK of the legend. | 8 bits | 09_models_tables.md R214 Table 9.3 | none -/
  svcmask : Nat := 0
  /-- RETAIN. | 1 bit | 09_models_tables.md R219 | none -/
  retain : Bool := false
  /-- It has been neither current nor bound yet, so that its count has not reached 0. | 1 bit | 09_models_tables.md R219 | 1 -/
  fresh : Bool := true
  /-- Job descriptors. | up to 16 x 64 bytes | 09_models_tables.md R213 | none -/
  descs : List Bytes := []
  /-- Jobs made from them. | up to 16 x 32 bits | 09_models_tables.md R218 | none -/
  jobs : List Nat := []
  /-- Semaphore handles the legend asks for (R216). | 16 bits | 09_models_tables.md R216 | none -/
  nsem : Nat := 0
  /-- Windows made. | up to 4,096 numbers | 09_models_tables.md R218 R225 | none -/
  wins : List Nat := []
  /-- Pages the load pinned. | PINT1 | 09_models_tables.md R218 | none -/
  pins : List Nat := []
  /-- First workspace page. | 41 bits | 09_models_tables.md R218 | none -/
  wspage : Nat := 0
  /-- WSPAGES. | 27 bits | 09_models_tables.md R218 | none -/
  wspages : Nat := 0
  /-- Tables. | up to 64 | 09_models_tables.md R222 | none -/
  tables : List Table := []
  /-- Sections: kind and flags byte, first page, pages. | up to 1,024 | 09_models_tables.md R213 Table 9.4 | none -/
  secs : List (Nat × Nat × Nat × Nat) := []
  /-- Serving descriptor. | 256 bytes | 10_serving.md R235 | none -/
  serv : Option Bytes := none
  /-- Atlas address and length of the TEXT section. | 57 bits | 11_text.md R278 | none -/
  text : Option (Nat × Nat) := none
  /-- Plot table entries of the serving descriptor. | 8 x 16 bytes | 10_serving.md R235 | none -/
  plots : Bytes := []
  /-- What the sequencer keeps of it. -/
  sv : VerServe := {}
  deriving DecidableEq, Repr

/-- The committed set of SEQ.SERVE (Table 10.11). -/
structure ServeSet where
  /-- Served. | 1 bit | 10_serving.md R256 | 0 -/
  served : Bool := false
  /-- DRAFT. | 32 bits, RWS | 10_serving.md R275 | 0 -/
  draft : Nat := 0
  /-- ORIGIN. | 64 bits, RWS | 10_serving.md R275 | 0 -/
  origin : Nat := 0
  /-- BEAT. | 32 bits, RWS | 10_serving.md R275 | 0 -/
  beat : Nat := 0
  /-- PFMIN. | 8 bits, RWS | 10_serving.md R275 | 1 -/
  pfmin : Nat := 1
  /-- DCMIN. | 8 bits, RWS | 10_serving.md R275 | 1 -/
  dcmin : Nat := 1
  /-- PFINIT. | 8 bits, RWS | 10_serving.md R275 | 1 -/
  pfinit : Nat := 1
  /-- MISSEXP. | 1 bit, RWS | 10_serving.md R275 | 0 -/
  missexp : Bool := false
  /-- REBALUS, µs. | 32 bits, RWS | 10_serving.md R275 | 1,000 -/
  rebalus : Nat := 1000
  /-- DISPDL, ticks. | 32 bits, RWS | 10_serving.md R275 | 400,000 -/
  dispdl : Nat := 400000
  /-- EXWAIT, ticks. | 32 bits, RWS | 10_serving.md R275 | 40,000 -/
  exwait : Nat := 40000
  /-- KVCOLD, µs. | 32 bits, RWS | 10_serving.md R275 | 100,000 -/
  kvcold : Nat := 100000
  deriving DecidableEq, Repr

/-- A model (R219). -/
structure Model where
  /-- Tenant. | 6 bits | 09_models_tables.md R219 | no model -/
  tenant : Nat := 0
  /-- Live versions. | up to 8 | 09_models_tables.md R219 | none -/
  vers : Tab ModelVer := []
  /-- Current version. | 32 bits | 09_models_tables.md R219 | none -/
  cur : Nat := 1
  /-- Number of the newest version. | 32 bits | 09_models_tables.md R219 | none -/
  lastVer : Nat := 0
  /-- MODEL.UNLOAD of the whole model has been given. | 1 bit | 09_models_tables.md R221 | 0 -/
  ended : Bool := false
  /-- Versions that MODEL.UNLOAD has ended. | - | 09_models_tables.md R221 | none -/
  endedVers : List Nat := []
  /-- SEQ.SERVE's committed set. -/
  serve : ServeSet := {}
  deriving DecidableEq, Repr

/-- A MODEL.LOAD under way, past its checks (R217, R218). -/
structure LoadRun where
  /-- Its command. | - | 09_models_tables.md R218 | none -/
  cmd : CmdRef := ⟨0, 0, 0⟩
  /-- Handle: the model that gains a version, or 0. | 32 bits | 09_models_tables.md R219 | none -/
  base : Nat := 0
  /-- The version in the making. | - | 09_models_tables.md R218 | none -/
  ver : ModelVer := {}
  /-- Pages still to be pinned. | - | 09_models_tables.md R218 | none -/
  toPin : List Nat := []
  /-- Permissions of section pages before the load: page and leaf. | - | 09_models_tables.md R217 | none -/
  before : List (Nat × Leaf) := []
  /-- Remote shards of its tables: module, first page, pages. | - | 09_models_tables.md R225 | none -/
  shards : List (Nat × Nat × Nat) := []
  /-- Jobs it is to make, in descriptor order. | - | 09_models_tables.md R218 | none -/
  jobs : List Job := []
  deriving DecidableEq, Repr

/-- The models layer. -/
structure Models where
  /-- Models by handle. | - | 09_models_tables.md R219 | none -/
  models : Tab Model := []
  /-- Loads under way. | - | 09_models_tables.md R217 | none -/
  loads : List LoadRun := []
  /-- TABLE and TEXT commands bound: command, handle and version. | - | 09_models_tables.md R219, 11_text.md R301 | none -/
  binds : List (CmdRef × Nat × Nat) := []
  /-- Transient jobs of TABLE commands: command and JOBID. | - | 09_models_tables.md R231 | none -/
  tjobs : List (CmdRef × Nat) := []
  /-- Meridian at which each TABLE command started. | 64 bits | 09_models_tables.md R227 R233 | none -/
  starts : List (CmdRef × Nat) := []
  /-- Meridian at which the last TABLE.SCATTER of a function started. | 64 bits | 09_models_tables.md R227 | none -/
  lastScat : Tab Nat := []
  deriving DecidableEq, Repr

/-! ### Sequences (chapter 10) and text (chapter 11) -/

/-- States of a sequence (Table 10.2).  HELD is read from the job-cores of its step; ENDED is a slot freed. -/
inductive SeqState where
  | queued | retrieving | prefill | decode | moved
  deriving DecidableEq, Repr

/-- Stages of a sequence's input (Table 10.5). -/
inductive SeqStage where
  | admission | tokenise | encode | search | rerank | pack | run
  deriving DecidableEq, Repr

/-- The text state of a sequence (R277, R290). -/
structure TextState where
  /-- The text control block as copied. | 128 bytes | 11_text.md R290 | Reset column of Table 11.8 -/
  tcb : Bytes := []
  /-- Stop strings. | up to 16 of 64 bytes | 11_text.md R290 | none -/
  stops : List Bytes := []
  /-- UTF-8 assembly bytes. | up to 3 bytes | 11_text.md R298 | none -/
  asm : Bytes := []
  /-- Held-back text. | up to 64 bytes | 11_text.md R299 | empty -/
  held : Bytes := []
  deriving DecidableEq, Repr

/-- A sequence (R239 to R241). -/
structure Seq where
  /-- Generation of its slot. | 12 bits | 10_serving.md R239 | none -/
  gen : Nat := 0
  /-- Tenant. | 6 bits | 10_serving.md R239 | none -/
  tenant : Nat := 0
  /-- Function that submitted it. | 7 bits | 10_serving.md R242 | none -/
  fn : Nat := 0
  /-- PASID of the mailbox that submitted it. | 20 bits | 15_host_pcie.md R371, 16_mailboxes.md R401 | none -/
  pasid : Option Nat := none
  /-- The parameter block. | 64 bytes | 10_serving.md R242 | none -/
  blk : Bytes := []
  /-- The ANSWER parameter block. | 64 bytes | 10_serving.md R243 | none -/
  ablk : Bytes := []
  /-- State. | 3 bits | 10_serving.md R240 | none -/
  st : SeqState := .queued
  /-- Stage. | 3 bits | 10_serving.md R243 | none -/
  stage : SeqStage := .admission
  /-- Generator: handle and version bound. | 32 + 32 bits | 10_serving.md R241 | none -/
  gen0 : Nat × Nat := (0, 0)
  /-- Drafter bound. | 32 + 32 bits | 10_serving.md R241 | none -/
  drafter : Option (Nat × Nat) := none
  /-- Encoder bound. | 32 + 32 bits | 10_serving.md R241 | none -/
  encoder : Option (Nat × Nat) := none
  /-- Re-ranker bound. | 32 + 32 bits | 10_serving.md R241 | none -/
  rerank : Option (Nat × Nat) := none
  /-- Input bytes as read. | up to 1 MiB | 10_serving.md R242 | none -/
  inp : Bytes := []
  /-- Query tokens for the encoder. | - | 11_text.md R281 | none -/
  qenc : List Nat := []
  /-- Query tokens for packing. | - | 11_text.md R281 | none -/
  qgen : List Nat := []
  /-- Candidates of the search: ID, in rank order. | up to 4,096 | 10_serving.md R243 | none -/
  cands : List Nat := []
  /-- Passages chosen, in rank order. | up to 64 | 10_serving.md R243 | none -/
  passages : List Nat := []
  /-- Prompt and generated tokens; the last is the pending token. | up to MAXCTX | 10_serving.md R244 R263 | none -/
  toks : List Nat := []
  /-- L, once known. | 32 bits | 10_serving.md R249 | none -/
  plen : Option Nat := none
  /-- C. | 32 bits | 10_serving.md R245 | 0 -/
  c : Nat := 0
  /-- Drafter's committed length. | 32 bits | 10_serving.md R263 | 0 -/
  cd : Nat := 0
  /-- Tokens emitted. | 32 bits | 10_serving.md R265 | 0 -/
  ngen : Nat := 0
  /-- CACHED. | 32 bits | 10_serving.md R252 | 0 -/
  cached : Nat := 0
  /-- Block table. | up to 16,384 x 32 bits | 10_serving.md R246 | none allocated -/
  btab : List Nat := []
  /-- Drafter's block table. | up to 16,384 x 32 bits | 10_serving.md R246 | none allocated -/
  dtab : List Nat := []
  /-- Place of its block table among SEQMAX pages, in the generator's and the drafter's workspace. | 14 bits each | 10_serving.md R244 Table 10.1 | none -/
  bt : Nat := 0
  dbt : Nat := 0
  /-- Text engine that ran its last unit. | 3 bits | 11_text.md R276 | 0 -/
  eng : Nat := 0
  /-- Blocks reserved under ADMIT. | - | 10_serving.md R249 | 0 -/
  resv : Nat := 0
  /-- FLAGS. | 16 bits | 10_serving.md R265 Table 10.7 | 0 -/
  flags : Nat := 0
  /-- Draft length. | 5 bits | 10_serving.md R262 | NDRAFT -/
  k : Nat := 0
  /-- Drafts proposed for the next verify step. | up to 16 | 10_serving.md R262 | none -/
  drafts : List Nat := []
  /-- Drafting of this decode step has stopped, or has all its drafts. | 1 bit | 10_serving.md R262 R296 | 0 -/
  drafted : Bool := false
  /-- The control record of the next draft position is there. | 1 bit | 11_text.md R276 R294 | 0 -/
  dready : Bool := false
  /-- Scores of the re-ranker so far: FP32, candidate by candidate. | up to 4,096 x 32 bits | 10_serving.md R243 | none -/
  scores : List Nat := []
  /-- Order of admission. | - | 10_serving.md R249 | none -/
  order : Nat := 0
  /-- SUBMITT. | 64 bits | 10_serving.md R267 | none -/
  submitt : Nat := 0
  /-- Tick of its admission. | - | 10_serving.md R268 | none -/
  since : Nat := 0
  /-- TTFT, ticks, once text has been released. | - | 10_serving.md R267 | none -/
  ttft : Option Nat := none
  /-- Commit meridians of the first and the last emitting step. | 64 + 64 bits | 10_serving.md R267 | none -/
  commits : Option (Nat × Nat) := none
  /-- Tokens emitted after the first emitting step. | 32 bits | 10_serving.md R267 | 0 -/
  after : Nat := 0
  /-- TBTMAX, ticks. | - | 10_serving.md R267 | 0 -/
  tbtmax : Nat := 0
  /-- PROD. | 64 bits | 10_serving.md R265 | 0 -/
  prod : Nat := 0
  /-- CONS as last read. | 64 bits | 10_serving.md R265 | 0 -/
  cons : Nat := 0
  /-- Released text that waits for room in the ring. | - | 10_serving.md R265 | none -/
  outq : Bytes := []
  /-- NPASS. | 32 bits | 10_serving.md R243 | 0 -/
  npass : Nat := 0
  /-- End that takes effect once the text released is written: reason, status, detail. | - | 10_serving.md R265 R266 | none -/
  ending : Option (Nat × Nat × Nat) := none
  /-- Tokens of the last step that wait for their token units: token, constraint set decided. | - | 11_text.md R298 | none -/
  emit : List Nat := []
  /-- An EMPTY output follows the tokens that wait. | 1 bit | 10_serving.md R264 | 0 -/
  emptyNext : Bool := false
  /-- Cancelled at its next step boundary. | 1 bit | 10_serving.md R269 | 0 -/
  cancelled : Bool := false
  /-- Export or move at its next step boundary: command. | - | 10_serving.md R273 R274 | none -/
  xport : Option CmdRef := none
  /-- Module and SEQID that run it after a move. | 17 + 32 bits | 10_serving.md R274 | none -/
  movedTo : Option (Nat × Nat) := none
  /-- Module and SEQID of the stub it forwards its text to. | 17 + 32 bits | 10_serving.md R274 | none -/
  stub : Option (Nat × Nat) := none
  /-- Tick of the last step it was in. | - | 10_serving.md R248 | none -/
  lastStep : Nat := 0
  /-- COLD has been hinted since. | 1 bit | 10_serving.md R248 | 0 -/
  coldDone : Bool := false
  /-- Tick of the next read of CONS while stalled. | - | 10_serving.md R265 | none -/
  pollAt : Option Nat := none
  /-- Text state. -/
  ts : TextState := {}
  deriving DecidableEq, Repr

/-- A unit of work for the text engines (Table 11.1). -/
inductive TextUnit where
  /-- Admission of a sequence, by slot. -/
  | admission (seq : Nat)
  /-- Tokenisation of a sequence's input. -/
  | tokenise (seq : Nat)
  /-- Packing of an ANSWER prompt. -/
  | pack (seq : Nat)
  /-- The next committed token of a sequence. -/
  | token (seq : Nat)
  /-- A draft position of a sequence. -/
  | draft (seq : Nat)
  /-- The tokenisation of a TEXT.TOKENISE. -/
  | cmdTok (r : CmdRef)
  /-- The next token of a TEXT.DETOKENISE. -/
  | cmdDetok (r : CmdRef)
  deriving DecidableEq, Repr

/-- A line of a text engine's gazetteer cache (R282). -/
structure GazLine where
  /-- Tenant of its tag. | 6 bits | 11_text.md R282 | no line -/
  tenant : Nat := 0
  /-- Model handle of its tag. | 32 bits | 11_text.md R282 | no line -/
  handle : Nat := 0
  /-- Version of its tag. | 32 bits | 11_text.md R282 | no line -/
  ver : Nat := 0
  /-- Number of the line in the TEXT section. | - | 11_text.md R282 | no line -/
  line : Nat := 0
  /-- Its bytes. | 256 bytes | 11_text.md R282 | no line -/
  bytes : Bytes := []
  deriving DecidableEq, Repr

/-- A sequence that is arriving from another module (R274). -/
structure MoveIn where
  /-- Origin module. | 17 bits | 10_serving.md R274 | none -/
  origin : Nat := 0
  /-- SEQID at the origin. | 32 bits | 10_serving.md R274 | none -/
  id : Nat := 0
  /-- Image bytes that have arrived. | - | 10_serving.md R273 R274 | none -/
  got : Bytes := []
  deriving DecidableEq, Repr

/-- SEQ.POLICY of a tenant (R268, Table 10.11). -/
structure SeqPolicy where
  /-- ADMIT, else TRACK. | 1 bit, RWS | 10_serving.md R268 | 0 -/
  admitOn : Bool := false
  /-- TTFTGOAL, µs. | 32 bits, RWS | 10_serving.md R268 | 50,000 -/
  ttftgoal : Nat := 50000
  /-- TBTGOAL, µs. | 32 bits, RWS | 10_serving.md R268 | 50,000 -/
  tbtgoal : Nat := 50000
  /-- SEQLIM. | 15 bits, RWS | 10_serving.md R268 | 256 -/
  seqlim : Nat := 256
  /-- TTFTMISS. | 32 bits, RC | 10_serving.md R267 | 0 -/
  ttftmiss : Nat := 0
  /-- TBTMISS. | 32 bits, RC | 10_serving.md R267 | 0 -/
  tbtmiss : Nat := 0
  deriving DecidableEq, Repr

/-- The sequencer and the text engines. -/
structure Serving where
  /-- Sequences by slot. | 16,384 | 10_serving.md R239 | none -/
  seqs : Tab Seq := []
  /-- Generation counts of slots. | 12 bits each | 10_serving.md R239 | DESIGN CHOICE 1, so that no SEQID is 0 (log entry 3) -/
  gens : Tab Nat := []
  /-- Order number of the next admission. | - | 10_serving.md R249 | 0 -/
  nextOrder : Nat := 0
  /-- Policies by tenant. | 64 | 10_serving.md R268 | as each field -/
  pols : Tab SeqPolicy := []
  /-- Units that wait for a text engine: tenant and unit, in arrival order. | - | 11_text.md R276 | none -/
  units : List (Nat × TextUnit) := []
  /-- Text engines at work: engine, and the tenant and unit it has. | 8 | 11_text.md R276 | none: all idle -/
  engines : Tab (Nat × TextUnit) := []
  /-- Text engine that worked last; the model's own turn among the engines. | 3 bits | 11_text.md R276 | DESIGN CHOICE 7 (log entry 3) -/
  lastEngine : Nat := 7
  /-- Gazetteer caches by engine, the oldest line of each first. | 8 x 1,024 lines | 11_text.md R282 | none -/
  gaz : Tab (List GazLine) := []
  /-- Sequences that are arriving from other modules. | - | 10_serving.md R274 | none -/
  arriving : List MoveIn := []
  /-- Tenant a text engine served last. | 6 bits | 11_text.md R276 | DESIGN CHOICE 63 (log entry 3) -/
  lastTenant : Nat := 63
  deriving DecidableEq, Repr


/-! ### Flash and NVMe (chapter 17) -/

/-- What an open block is filled with (R426). -/
inductive BlkUse where
  | host | t4 | copy
  deriving DecidableEq, Repr

/-- A block that holds units (R426). -/
structure Blk where
  /-- What has filled it. | - | 17_storage.md R426 | free -/
  use : BlkUse := .host
  /-- Units programmed: the next place. | 0 to 8,192 | 17_storage.md R426 | 0 -/
  used : Nat := 0
  /-- Valid units: place and unit (namespace * 2^48 + unit; the T4 pool is namespace 0). | up to 8,192 | 17_storage.md R426 R427 | none -/
  valid : Tab Nat := []
  /-- It is written no more. | 1 bit | 17_storage.md R427 | 0 -/
  closed : Bool := false
  /-- It is to be retired when its valid units have moved: 1 program failure, 3 read failure; 0 not. | 2 bits | 17_storage.md R428 | 0 -/
  failed : Nat := 0
  /-- Its corrected bit count exceeds the refresh threshold. | 1 bit | 17_storage.md R427 | 0 -/
  refresh : Bool := false
  deriving DecidableEq, Repr

/-- A garbage-collection copy on a channel (R427). -/
structure GcRun where
  /-- Source block. | - | 17_storage.md R427 | none -/
  src : Nat := 0
  /-- Copy block. | - | 17_storage.md R427 | none -/
  dst : Nat := 0
  /-- Units copied: place at the source, place in the copy block, unit. | - | 17_storage.md R427 | none -/
  copied : List (Nat × Nat × Nat) := []
  deriving DecidableEq, Repr

/-- Classes of the channel scheduler (Table 17.4) whose reads wait at a channel; the garbage collector's classes follow from
the channel's free blocks, and T4 accesses are made by their migration's rows (log 19). -/
inductive ChanClass where
  | urgent | high | medium | low | dma
  deriving DecidableEq, Repr

/-- A read of a unit that waits at a channel (R417). -/
inductive ChanOp where
  /-- For an NVMe command: queue and CID. -/
  | nvme (sq cid unit : Nat)
  /-- For a DMA.COPY. -/
  | dma (r : CmdRef) (unit : Nat)
  deriving DecidableEq, Repr

/-- A flash channel. -/
structure Chan where
  /-- Blocks that are not on the free list, retired ones included. | - | 17_storage.md R426 | DESIGN CHOICE none: every block free (log entry 19) -/
  taken : List Nat := []
  /-- Blocks that hold units. | - | 17_storage.md R426 | none -/
  blocks : Tab Blk := []
  /-- Open blocks for host writes, T4 writes and copies. | - | 17_storage.md R426 | none -/
  openHost : Option Nat := none
  openT4 : Option Nat := none
  openCopy : Option Nat := none
  /-- The copy under way. | - | 17_storage.md R427 | none -/
  gc : Option GcRun := none
  /-- Blocks being erased. | - | 17_storage.md R427 | none -/
  erasing : List Nat := []
  /-- Retired blocks. | - | 17_storage.md R428 R429 | none -/
  retired : List Nat := []
  /-- Blocks erased since manufacture. | - | 17_storage.md R430 | DESIGN CHOICE 0 (log entry 3) -/
  erases : Nat := 0
  /-- Spare blocks used up. | - | 17_storage.md R429 | 0 -/
  spareUsed : Nat := 0
  /-- Reads waiting, in order, with their class. | - | 17_storage.md R417 | none -/
  ops : List (ChanClass × ChanOp) := []
  /-- Deficits of HIGH, MEDIUM, LOW, DMA, GC: keys 0 to 4, bytes. | - | 17_storage.md R417 | DESIGN CHOICE 0 (log entry 3) -/
  deficit : Tab Nat := []
  /-- Weighted class in turn, 0 to 4, and whether it has had its quantum. | - | 17_storage.md R417 | DESIGN CHOICE 0 (log entry 3) -/
  turn : Nat := 0
  given : Bool := false
  deriving DecidableEq, Repr

/-- A namespace. -/
structure Ns where
  /-- LBAs. | 64 bits | 17_storage.md R416 | no namespace -/
  nsze : Nat := 0
  /-- LBA format 1: 4,096 bytes, else 512. | 1 bit | 17_storage.md R416 Table 17.3 | no namespace -/
  big : Bool := false
  /-- Attached to controller 0. | 1 bit | 17_storage.md R416 | 0 -/
  attached : Bool := false
  /-- Generation of its key. | - | 17_storage.md R415 | 0 -/
  key : Nat := 0
  /-- Durable contents; an unlisted byte reads 0. | nsze x LBA bytes | 17_storage.md R416 R426 | 0 -/
  data : List Host.Cell := []
  deriving DecidableEq, Repr

/-- A write in the write buffer (R418). -/
structure WbEnt where
  /-- Number, in the order of arrival at the FTL. | - | 17_storage.md R419 | none -/
  num : Nat := 0
  /-- Namespace. | 32 bits | 17_storage.md R418 | none -/
  nsid : Nat := 0
  /-- Byte offset in the namespace. | - | 17_storage.md R418 | none -/
  off : Nat := 0
  /-- Bytes. | - | 17_storage.md R418 | none -/
  len : Nat := 0
  /-- Data; bytes past them are 0. | up to 2 MiB | 17_storage.md R418 R426 | none -/
  data : Bytes := []
  /-- The units wholly covered are unmapped. | 1 bit | 17_storage.md R426 | none -/
  drop : Bool := false
  deriving DecidableEq, Repr

/-- An I/O submission queue (or the admin queue). -/
structure NvSq where
  /-- PRP1. | 64 bits | 17_storage.md R416 | none -/
  base : Nat := 0
  /-- Entries. | 17 bits | 17_storage.md R416 Table 17.3 | none -/
  size : Nat := 0
  /-- Completion queue. | 16 bits | 17_storage.md R416 | none -/
  cq : Nat := 0
  /-- QPRIO: 0 urgent, 1 high, 2 medium, 3 low. | 2 bits | 17_storage.md R416 R417 | none -/
  prio : Nat := 2
  /-- Head. | 16 bits | 17_storage.md R416 | 0 -/
  head : Nat := 0
  /-- Tail, as the doorbell gave it. | 16 bits | 17_storage.md R416 | 0 -/
  tail : Nat := 0
  deriving DecidableEq, Repr

/-- A completion queue. -/
structure NvCq where
  /-- PRP1. | 64 bits | 17_storage.md R416 | none -/
  base : Nat := 0
  /-- Entries. | 17 bits | 17_storage.md R416 Table 17.3 | none -/
  size : Nat := 0
  /-- Interrupt vector. | 16 bits | 17_storage.md R416 | none -/
  vector : Nat := 0
  /-- Interrupts enabled. | 1 bit | 17_storage.md R416 | none -/
  ien : Bool := false
  /-- Head, as the doorbell gave it. | 16 bits | 17_storage.md R416 | 0 -/
  head : Nat := 0
  /-- Tail. | 16 bits | 17_storage.md R416 | 0 -/
  tail : Nat := 0
  /-- Phase. | 1 bit | 17_storage.md R416 | PRESUMED 1 (NVM Express; log entry 11) -/
  phase : Bool := true
  /-- Completions not signalled yet (Interrupt Coalescing), and the tick of the first. | - | 17_storage.md R416 | 0 -/
  held : Nat := 0
  heldAt : Nat := 0
  deriving DecidableEq, Repr

/-- An NVMe command taken and not completed. -/
structure NvCmd where
  /-- Queue. | 16 bits | 17_storage.md R416 | none -/
  sq : Nat := 0
  /-- CID. | 16 bits | 17_storage.md R416 | none -/
  cid : Nat := 0
  /-- Submission entry. | 64 bytes | 17_storage.md R416 | none -/
  e : Bytes := []
  /-- The host read under way for it is of its PRP list. | - | 17_storage.md R416 | none -/
  askList : Bool := false
  /-- PRP list read from the host. | - | 17_storage.md R416 | none -/
  prps : Option Bytes := none
  /-- Data read from the host. | - | 17_storage.md R416 | none -/
  hdata : Option Bytes := none
  /-- Its work has begun. | 1 bit | 17_storage.md R422 | 0 -/
  started : Bool := false
  /-- Held by a range lock. | 1 bit | 17_storage.md R422 | 0 -/
  held : Bool := false
  /-- Abort has been given for it while held. | 1 bit | 17_storage.md R422 | 0 -/
  aborted : Bool := false
  /-- A unit read for it failed. | 1 bit | 17_storage.md R420 | 0 -/
  failed : Bool := false
  /-- A host transfer for it failed. | 1 bit | 17_storage.md R416, 15 R373 | 0 -/
  xfer : Bool := false
  /-- Write-buffer number that must be durable before it completes. | - | 17_storage.md R418 | none -/
  after : Option Nat := none
  deriving DecidableEq, Repr

/-- A range-lock entry (Table 17.5). -/
structure RLock where
  /-- ACTIVE, else PENDING. | 8 bits, RO | 17_storage.md R421 R422 | free -/
  active : Bool := false
  /-- ACTION is DENY, else HOLD. | 1 bit, RO | 17_storage.md R421 | 0 -/
  deny : Bool := false
  /-- MODE is EXCL, else SHARED. | 1 bit, RO | 17_storage.md R421 | 0 -/
  excl : Bool := false
  /-- The DMA.COPY that owns it; none: STORE.LOCK. | 8 bits, RO | 17_storage.md R421 | 0 -/
  dma : Option CmdRef := none
  /-- The STORE.LOCK that waits for ACTIVE. | - | 17_storage.md R422 | none -/
  cmd : Option CmdRef := none
  /-- NSID. | 32 bits, RO | 17_storage.md R421 | 0 -/
  nsid : Nat := 0
  /-- SLBA. | 64 bits, RO | 17_storage.md R421 | 0 -/
  slba : Nat := 0
  /-- NLB. | 64 bits, RO | 17_storage.md R421 | 0 -/
  nlb : Nat := 0
  /-- EXPIRES. | 64 bits, RO | 17_storage.md R421 R423 | 0 -/
  expires : Nat := 0
  deriving DecidableEq, Repr

/-- An Error Information log entry (Table 17.3). -/
structure NvErr where
  /-- Error count. | 64 bits | 17_storage.md R416 | none -/
  count : Nat := 0
  /-- SQID. | 16 bits | 17_storage.md R416 | none -/
  sq : Nat := 0
  /-- CID. | 16 bits | 17_storage.md R416 | none -/
  cid : Nat := 0
  /-- Status field. | 16 bits | 17_storage.md R416 | none -/
  status : Nat := 0
  /-- LBA. | 64 bits | 17_storage.md R416 | none -/
  lba : Nat := 0
  /-- NSID. | 32 bits | 17_storage.md R416 | none -/
  nsid : Nat := 0
  deriving DecidableEq, Repr

/-- The storage function. -/
structure Store where
  /-- CC. | 32 bits, RW | 17_storage.md R416 | PRESUMED 0 (NVM Express; log entry 11) -/
  cc : Nat := 0
  /-- CSTS: RDY at 0, CFS at 1, SHST at 3:2. | 32 bits, RO | 17_storage.md R416 R418 | PRESUMED 0 (NVM Express; log entry 11) -/
  csts : Nat := 0
  /-- AQA, ASQ, ACQ. | 32 + 64 + 64 bits, RW | 17_storage.md R416 | PRESUMED 0 (NVM Express; log entry 11) -/
  aqa : Nat := 0
  asq : Nat := 0
  acq : Nat := 0
  /-- INTMS/INTMC mask. | 32 bits, W1S/W1C | 17_storage.md R416 | PRESUMED 0 (NVM Express; log entry 11) -/
  intm : Nat := 0
  /-- Submission queues; 0 is the admin queue. | 129 | 17_storage.md R416 Table 17.3 | none -/
  sqs : Tab NvSq := []
  /-- Completion queues; 0 is the admin queue. | 129 | 17_storage.md R416 Table 17.3 | none -/
  cqs : Tab NvCq := []
  /-- Queue served last and commands left of its burst. | - | 17_storage.md R417 | PRESUMED 0 (NVM Express; log entry 11) -/
  turn : Nat := 0
  burst : Nat := 0
  /-- Commands of the weighted classes left in the round: high, medium, low. | 3 x 8 bits | 17_storage.md R417 | PRESUMED 0 (NVM Express; log entry 11) -/
  credit : Nat × Nat × Nat := (0, 0, 0)
  /-- Commands taken, oldest first. | - | 17_storage.md R416 | none -/
  cmds : List NvCmd := []
  /-- Asynchronous Event Requests outstanding: CIDs. | up to 8 | 17_storage.md R416 Table 17.3 | none -/
  aers : List Nat := []
  /-- Events that wait for a request: type, info, log page. | - | 17_storage.md R416 R429 | none -/
  events : List (Nat × Nat × Nat) := []
  /-- Event types masked until their log is read. | - | 17_storage.md R416 | none -/
  evMasked : List Nat := []
  /-- Namespaces by NSID. | 32 | 17_storage.md R416 Table 17.3 | none -/
  nss : Tab Ns := []
  /-- Features by identifier, as CDW11 set them. | 32 bits each | 17_storage.md R416 Table 17.3 R430 | PRESUMED NVM Express defaults where no rule gives one (log entry 11) -/
  feats : Tab Nat := []
  /-- The APST table. | 32 x 64 bits | 17_storage.md R425 | PRESUMED 0 (NVM Express; log entry 11) -/
  apst : Tab Nat := []
  /-- Timestamp: value set and tick of its setting. | 48 bits | 17_storage.md R416 | PRESUMED 0 (NVM Express; log entry 11) -/
  stamp : Nat × Nat := (0, 0)
  /-- Power state that the host set. | 5 bits | 17_storage.md R424 | 0 -/
  ps : Nat := 0
  /-- Power state in force. | 5 bits | 17_storage.md R424 R465 R469 | 0 -/
  psNow : Nat := 0
  /-- Tick of PF1's last I/O completion. | - | 17_storage.md R425 | 0 -/
  lastIo : Nat := 0
  /-- Write buffer, oldest first. | 1 GiB | 17_storage.md R418 | empty -/
  wb : List WbEnt := []
  /-- Number of the next write. | - | 17_storage.md R419 | 0 -/
  nextWb : Nat := 0
  /-- Range locks by entry. | 64 | 17_storage.md R421 Table 17.5 | free -/
  locks : Tab RLock := []
  /-- Channels. | 40 | 17_storage.md R426 | as each field -/
  chans : Tab Chan := []
  /-- Location of units: channel, block, place. | - | 17_storage.md R426 R427 | unmapped -/
  map : Tab (Nat × Nat × Nat) := []
  /-- Units whose data were lost to a failed read, until they are written again. | - | 17_storage.md R420 R428 | none -/
  lostUnits : List Nat := []
  /-- DMAW. | 8 bits, RWS | 17_storage.md R432 | 8 -/
  dmaw : Nat := 8
  /-- T4W. | 8 bits, RWS | 17_storage.md R432 | 8 -/
  t4w : Nat := 8
  /-- GCW. | 8 bits, RWS | 17_storage.md R432 | 16 -/
  gcw : Nat := 16
  /-- GCLOW. | 16 bits, RWS | 17_storage.md R432 | 400 -/
  gclow : Nat := 400
  /-- GCCRIT. | 16 bits, RWS | 17_storage.md R432 | 64 -/
  gccrit : Nat := 64
  /-- First sector of the T4 pool that is DRAINING. | 41 bits | 17_storage.md R414 | none -/
  t4Drain : Option Nat := none
  /-- NANDNS, NANDT4, NANDGC. | 3 x 64 bits, saturating | 17_storage.md R431 | DESIGN CHOICE 0 (log entry 3) -/
  nandNs : Nat := 0
  nandT4 : Nat := 0
  nandGc : Nat := 0
  /-- RETPROG, RETERASE, RETREAD. | 3 x 32 bits, saturating | 17_storage.md R431 | DESIGN CHOICE 0 (log entry 3) -/
  retProg : Nat := 0
  retErase : Nat := 0
  retRead : Nat := 0
  /-- GCABANDON. | 32 bits, saturating | 17_storage.md R431 | DESIGN CHOICE 0 (log entry 3) -/
  gcAbandon : Nat := 0
  /-- GCRUNS. | 64 bits, saturating | 17_storage.md R431 | DESIGN CHOICE 0 (log entry 3) -/
  gcRuns : Nat := 0
  /-- REFRESH. | 64 bits, saturating | 17_storage.md R431 | DESIGN CHOICE 0 (log entry 3) -/
  refresh : Nat := 0
  /-- LOCKHOLDS. | 64 bits, saturating | 17_storage.md R431 | DESIGN CHOICE 0 (log entry 3) -/
  lockHolds : Nat := 0
  /-- UNSAFE. | 64 bits, saturating | 17_storage.md R419 R431 | DESIGN CHOICE 0 (log entry 3) -/
  badShut : Nat := 0
  /-- COLD starts. | 128 bits | 17_storage.md R430 | DESIGN CHOICE 0 (log entry 3) -/
  powerCycles : Nat := 0
  /-- Ticks of power before the last COLD. | - | 17_storage.md R430 | DESIGN CHOICE 0 (log entry 3) -/
  powerOn : Nat := 0
  /-- Data Units Read and Written: bytes of PF1 I/O. | 128 bits | 17_storage.md R430 | DESIGN CHOICE 0 (log entry 3) -/
  bytesRead : Nat := 0
  bytesWritten : Nat := 0
  /-- Host Read and Write Commands. | 128 bits | 17_storage.md R430 | DESIGN CHOICE 0 (log entry 3) -/
  reads : Nat := 0
  writes : Nat := 0
  /-- Media and Data Integrity Errors. | 128 bits | 17_storage.md R430 | DESIGN CHOICE 0 (log entry 3) -/
  mediaErrors : Nat := 0
  /-- Error Information Log entries, newest first. | 64 | 17_storage.md R416 Table 17.3 | none -/
  errs : List NvErr := []
  /-- Number of Error Information Log Entries since manufacture. | 128 bits | 17_storage.md R430 | DESIGN CHOICE 0 (log entry 3) -/
  errCount : Nat := 0
  /-- Ticks with PF1 I/O outstanding, and the tick at which it became so. | - | 17_storage.md R430 | DESIGN CHOICE 0 (log entry 3) -/
  busyTicks : Nat := 0
  busySince : Option Nat := none
  /-- Hottest flash package, K. | 16 bits | 17_storage.md R430 | DESIGN CHOICE 0 (log entry 3) -/
  temp : Nat := 0
  /-- Ticks at or above the warning and the critical threshold. | - | 17_storage.md R430 | DESIGN CHOICE 0 (log entry 3) -/
  warmTicks : Nat := 0
  hotTicks : Nat := 0
  deriving DecidableEq, Repr

/-! ### Power, cooling and error containment (chapters 19 and 20) -/

/-- A plan entry (R467). -/
structure PlanEnt where
  /-- T. | 64 bits | 19_power_ras_counters.md R467 | none -/
  t : Nat := 0
  /-- PT, W. | 16 bits | 19_power_ras_counters.md R467 | none -/
  pt : Nat := 0
  /-- Level at the start of its ramp, W. | 16 bits | 19_power_ras_counters.md R467 | none -/
  start : Nat := 0
  deriving DecidableEq, Repr

/-- A publication to the energy shelf that has not been acknowledged (R468). -/
structure Pub where
  /-- The record. | 16 bytes | 19_power_ras_counters.md R468 Table 19.1 | none -/
  bytes : Bytes := []
  /-- Its T. | 64 bits | 19_power_ras_counters.md R468 | none -/
  t : Nat := 0
  /-- Writes not acknowledged. | 0 to 2 | 19_power_ras_counters.md R468 | 0 -/
  nak : Nat := 0
  /-- Tick before which it is not written again. | - | 19_power_ras_counters.md R468 | 0 -/
  due : Nat := 0
  /-- Its write lost arbitration: it is sent again as soon as the bus is free. | 1 bit | 20_electrical_mechanical.md R488 | 0 -/
  again : Bool := false
  deriving DecidableEq, Repr

/-- Power, thermal and error state. -/
structure Power where
  /-- CAP, W. | 16 bits, RWS | 19_power_ras_counters.md R480 | 2,800 -/
  cap : Nat := 2800
  /-- RAMP, W/ms. | 16 bits, RWS | 19_power_ras_counters.md R480 | 200 -/
  ramp : Nat := 200
  /-- DOWNRAMP. | 1 bit, RWS | 19_power_ras_counters.md R480 | 1 -/
  downramp : Bool := true
  /-- Plan entries, in T order. | up to 64 | 19_power_ras_counters.md R467 | none -/
  plan : List PlanEnt := []
  /-- Level of the last plan entry that has ended, W. | 16 bits | 19_power_ras_counters.md R467 | none -/
  planLevel : Option Nat := none
  /-- SHELFADDR. | 7 bits, RW | 19_power_ras_counters.md R480 | 0x40 -/
  shelf : Nat := 0x40
  /-- PUBEN. | 1 bit, RW | 19_power_ras_counters.md R480 | 1 -/
  puben : Bool := true
  /-- PUBLEAD, ms. | 32 bits, RW | 19_power_ras_counters.md R480 | 50 -/
  publead : Nat := 50
  /-- Publications waiting, oldest first. | - | 19_power_ras_counters.md R468 | none -/
  pubs : List Pub := []
  /-- Inlet temperature, 0.1 °C. | 16 bits, two's complement | 19_power_ras_counters.md R469 | DESIGN CHOICE 0 (log entry 3) -/
  inlet : Int := 0
  /-- Outlet temperature, 0.1 °C. | 16 bits, two's complement | 19_power_ras_counters.md R469 | DESIGN CHOICE 0 (log entry 3) -/
  outlet : Int := 0
  /-- Flow, 0.01 L/min. | 16 bits | 19_power_ras_counters.md R469 | DESIGN CHOICE 450 (log entry 3) -/
  flow : Nat := 450
  /-- Temperature of the 40 dies, 0.1 °C. | 40 x 16 bits | 19_power_ras_counters.md R469 | DESIGN CHOICE 0 (log entry 3) -/
  dies : List Int := []
  /-- Thermal stage. | 0 to 4 | 19_power_ras_counters.md R469 | 0 -/
  stage : Nat := 0
  /-- Tick since which every condition of the stage has been clear. | - | 19_power_ras_counters.md R469 | none -/
  clearSince : Option Nat := none
  /-- Tick since which the flow has been below 1.0 L/min. | - | 19_power_ras_counters.md R469 | none -/
  lowSince : Option Nat := none
  /-- Pmeas of the last period, W. | 32 bits | 19_power_ras_counters.md R463 | DESIGN CHOICE 0 (log entry 3) -/
  pmeas : Nat := 0
  /-- Sum and number of the Pmeas values since the last refresh of the management shadow. | - | 15_host_pcie.md Table 15.8 | 0 -/
  psum : Nat := 0
  pcount : Nat := 0
  /-- PWRNOW, W. | 32 bits, RO | 15_host_pcie.md Table 15.8 | 0 -/
  pwrnow : Nat := 0
  /-- PWRCAP, W. | 32 bits, RO | 15_host_pcie.md Table 15.8 | 2,800 -/
  pwrcap : Nat := 2800
  /-- TINLET, 0.1 °C. | 16 bits, RO | 15_host_pcie.md Table 15.8 | 0 -/
  tinlet : Int := 0
  /-- TDIEMAX, 0.1 °C. | 16 bits, RO | 15_host_pcie.md Table 15.8 | 0 -/
  tdiemax : Int := 0
  /-- STAGE of the management shadow. | 8 bits, RO | 15_host_pcie.md Table 15.8 | 0 -/
  shStage : Nat := 0
  /-- UPDATED. | 64 bits, RO | 15_host_pcie.md Table 15.8 | 0 -/
  updated : Nat := 0
  /-- Allowance of the running period, array cycles. | 21 bits | 19_power_ras_counters.md R463 | DESIGN CHOICE 1,728,000 (log entry 3) -/
  allow : Nat := 1728000
  /-- Allowance of each compute die. | 8 x 18 bits | 19_power_ras_counters.md R463 | DESIGN CHOICE 216,000 each (log entry 3) -/
  dieAllow : List Nat := [216000, 216000, 216000, 216000, 216000, 216000, 216000, 216000]
  /-- Cost issued by each die in the running period. | 8 | 19_power_ras_counters.md R464 | 0 -/
  dieUsed : List Nat := [0, 0, 0, 0, 0, 0, 0, 0]
  /-- Ballast quota of the running period, array cycles. | - | 19_power_ras_counters.md R466 | 0 -/
  ballast : Nat := 0
  /-- Ballast cycles of the last period. | 32 bits | 19_power_ras_counters.md R466 R480 | 0 -/
  ballastLast : Nat := 0
  /-- The flash is held in PS1 by R465. | 1 bit | 19_power_ras_counters.md R465 | 0 -/
  flashHeld : Bool := false
  /-- Corrected errors of HBM frames: frame and ticks of the last 24 h. | - | 19_power_ras_counters.md R471 | none -/
  frameCe : Tab (List Nat) := []
  /-- Frames that are retired once their tile has migrated. | - | 19_power_ras_counters.md R471 | none -/
  retiring : List Nat := []
  /-- Frames retired: stack and tick. | - | 19_power_ras_counters.md R471 | none -/
  retired : List (Nat × Nat) := []
  /-- Boundary-scan devices on which EXTEST has been loaded since the last COLD: their I/O is disconnected. | 20 bits | 20_electrical_mechanical.md R493 | none -/
  extest : List Nat := []
  deriving DecidableEq, Repr

/-! ### Surveys (chapter 16) -/

/-- A counter survey (R411). -/
structure Survey where
  /-- HADDR. | 64 bits | 16_mailboxes.md R411 | no survey -/
  haddr : Nat := 0
  /-- PADDR. | 64 bits | 16_mailboxes.md R411 | no survey -/
  paddr : Nat := 0
  /-- LOG2N. | 5 bits | 16_mailboxes.md R411 | no survey -/
  log2n : Nat := 6
  /-- PERIOD, µs. | 32 bits | 16_mailboxes.md R411 | no survey -/
  period : Nat := 10
  /-- FIRST. | 16 bits | 16_mailboxes.md R411 | no survey -/
  first : Nat := 0
  /-- LAST. | 16 bits | 16_mailboxes.md R411 | no survey -/
  last : Nat := 0
  /-- Producer count. | 32 bits | 16_mailboxes.md R411 | 0 -/
  prod : Nat := 0
  deriving DecidableEq, Repr

/-! ### What leaves the module -/

/-- An output of the block, in the order in which outputs leave (assumption log 2). -/
inductive Out where
  /-- A write of the device to host memory under a function's requester ID and a PASID (R371), for a tenant, in a service of
  Table 13.1.  The owner is a number for the command, stream or ring it belongs to, 0 for none: a later write of the same owner,
  such as a completion entry, is sent after it (R391). -/
  | hostWrite (owner fn : Nat) (pasid : Option Nat) (tenant svc addr : Nat) (bytes : Bytes)
  /-- A read request of the device to the host: PASID, tenant and service of Table 13.1. -/
  | hostRead (pasid : Option Nat) (tenant svc : Nat) (x : HostXfer)
  /-- An MSI-X message: function, vector, address and data of its table entry. -/
  | msix (fn vector addr data : Nat)
  /-- The completion of a host read: function, tag and bytes. -/
  | hostData (fn tag : Nat) (bytes : Bytes)
  /-- The completion of a host read of a register: function and value. -/
  | regData (fn value : Nat)
  /-- An Invalidate Completion of a function (R372). -/
  | invalidated (fn page : Nat)
  /-- The answer to a class A command over MCTP: its completion entry. -/
  | mctp (cid : Nat) (entry : Bytes)
  /-- A flit leaves a fabric port: its 256 bytes. -/
  | flit (port : Nat) (bytes : Bytes)
  /-- A PMBus block write to the energy shelf (R468): address and bytes. -/
  | pmbus (addr : Nat) (bytes : Bytes)
  deriving DecidableEq, Repr

/-! ### The whole machine -/

/-- The state of one Gulpel G18 module. -/
structure State where
  /-- Clock. -/
  clk : Clock := {}
  /-- Compute cores 0 to 95; an absent core is as at reset. -/
  cores : Tab Core := []
  /-- Enable mask of cores (R17). | 96 bits | 01_organisation.md R17 | all ones -/
  enCores : BitVec 96 := BitVec.allOnes 96
  /-- Enable mask of HBM stacks (R17). | 20 bits | 01_organisation.md R17 | all ones -/
  enStacks : BitVec 20 := BitVec.allOnes 20
  /-- Enable mask of flash channels (R17). | 40 bits | 01_organisation.md R17 | all ones -/
  enChans : BitVec 40 := BitVec.allOnes 40
  /-- Enable mask of fabric ports (R17). | 48 bits | 01_organisation.md R17 | all ones -/
  enPorts : BitVec 48 := BitVec.allOnes 48
  /-- The atlas. -/
  atlas : Atlas := {}
  /-- The jobs layer. -/
  jobs : Jobs := {}
  /-- The fabric. -/
  fab : Fabric := {}
  /-- The event log. -/
  log : EvLog := {}
  /-- The control die. -/
  ctl : Control := {}
  /-- The CP's turn in fetching. -/
  cp : CpTurn := {}
  /-- The host attachment. -/
  host : HostIf := {}
  /-- The time unit. -/
  time : TimeUnit := {}
  /-- The search layer. -/
  search : Search := {}
  /-- The models layer. -/
  models : Models := {}
  /-- The sequencer and the text engines. -/
  serving : Serving := {}
  /-- Unit status by source number. -/
  units : Tab UnitStat := []
  /-- Tenants' configuration. -/
  tens : Tab Tenant := []
  /-- Mailboxes: key function * 128 + mailbox. | 64 functions x 65 | 16_mailboxes.md R379 | OFF -/
  mboxes : Tab Mbox := []
  /-- Commands in flight, in fetch order. | at most 16,384 | 16_mailboxes.md R387 R388 | none -/
  inflight : List Inflight := []
  /-- The flash and the NVMe controller. -/
  store : Store := {}
  /-- Power, cooling and error containment. -/
  power : Power := {}
  /-- The counter survey. | - | 16_mailboxes.md R411 | none -/
  survey : Option Survey := none
  /-- Outputs of the block, oldest first, each with the tick at which it came: TLPs at the egress queues of port 48 and what other interfaces send. | - | model's own (log 2), 13_traffic.md R332 | empty -/
  out : List (Nat × Out) := []
  /-- TLPs that have left by port 48, oldest first. | - | model's own (log 2), 13_traffic.md R334 | empty -/
  left : List Out := []
  /-- How many free values the run has drawn. | - | model's own (log 4) | DESIGN CHOICE 0 -/
  freeCtr : Nat := 0
  /-- Commands waiting, first in, first out. | - | model's own | empty -/
  pending : List Instr := []
  deriving DecidableEq, Repr

/-- Why a step stops the machine. -/
inductive Fault where
  /-- A unit of the module that the spec names without giving its behaviour was driven: safe. -/
  | undescribedUnit
  deriving DecidableEq, Repr

/-- Why a command has no meaning in the model. -/
inductive Refusal where
  /-- Dispatch: the command has no meaning yet; safe. -/
  | notModelled (mnemonic : String)
  deriving DecidableEq, Repr

/-- Tenant 0 at cold start (Table 16.9). -/
def Tenant.zero : Tenant :=
  { enabled := true, svcmask := 0xFF, joblim := 4096, tablim := 131072, cores := BitVec.allOnes 96, qt1 := 15204352 }

/-- The machine right after reset (COLD, before any command): every field at the value the spec states, and where
it states none at the value the assumption log names. -/
def State.reset : State :=
  { tens := [(0, Tenant.zero)], atlas := { ctx := [(0, {})] },
    host := { resets := [(0, {}), (64, {})] } }

end Sys2Proof.Machine
end

