-- ==== Sys2Proof/Machine/Tab.lean ====
section
/-! DEFINITION. The finite map that the state is made of, and the canonical byte memory over it. -/

namespace Sys2Proof.Machine

/-- The entry of a key. -/
def tabFind {α : Type} : Tab α → Nat → Option α
  | [], _ => none
  | (k, v) :: t, n => if k = n then some v else tabFind t n

/-- The entry of a key, or the default for an absent key. -/
def tabGet {α : Type} (t : Tab α) (n : Nat) (d : α) : α := (tabFind t n).getD d

/-- Set the entry of a key, keeping keys in rising order. -/
def tabPut {α : Type} : Tab α → Nat → α → Tab α
  | [], n, v => [(n, v)]
  | (k, w) :: t, n, v =>
    if k = n then (n, v) :: t else if n < k then (n, v) :: (k, w) :: t else (k, w) :: tabPut t n v

/-- Remove a key. -/
def tabDel {α : Type} (t : Tab α) (n : Nat) : Tab α := t.filter fun p => p.1 ≠ n

/-- Change the entry of a key, starting from the default when absent. -/
def tabMod {α : Type} (t : Tab α) (n : Nat) (d : α) (f : α → α) : Tab α := tabPut t n (f (tabGet t n d))

/-- Change the entry of a key that is present. -/
def tabUpd {α : Type} (t : Tab α) (n : Nat) (f : α → α) : Tab α :=
  match tabFind t n with
  | some v => tabPut t n (f v)
  | none => t

/-- Is the key present? -/
def tabHas {α : Type} (t : Tab α) (n : Nat) : Bool := (tabFind t n).isSome

/-- The lowest number from `n` on, within `fuel` steps, that is no key of the table. -/
def tabFreeFrom {α : Type} (t : Tab α) : Nat → Nat → Option Nat
  | 0, _ => none
  | fuel + 1, n => if tabHas t n then tabFreeFrom t fuel (n + 1) else some n

/-- The lowest number in [lo, hi) that is no key of a table with rising keys. -/
def tabGap {α : Type} : Tab α → Nat → Nat → Option Nat
  | [], lo, hi => if lo < hi then some lo else none
  | (k, _) :: t, lo, hi =>
    if k < lo then tabGap t lo hi
    else if k = lo then tabGap t (lo + 1) hi
    else if lo < hi then some lo else none

/-! ### Canonical byte memory: unlisted bytes read 0 -/

/-- Read one byte. -/
def cellRead (m : List Host.Cell) (a : Nat) : Byte := tabGet m a 0

/-- Write one byte, keeping the canonical form: keys rising, no entry 0. -/
def cellWrite : List Host.Cell → Nat → Byte → List Host.Cell
  | [], n, v => if v = 0 then [] else [(n, v)]
  | (k, w) :: t, n, v =>
    if k = n then (if v = 0 then t else (n, v) :: t)
    else if n < k then (if v = 0 then (k, w) :: t else (n, v) :: (k, w) :: t)
    else (k, w) :: cellWrite t n v

/-- Read a run of bytes. -/
def cellReads (m : List Host.Cell) (a : Nat) : Nat → Bytes
  | 0 => []
  | n + 1 => cellRead m a :: cellReads m (a + 1) n

/-- Write a run of bytes. -/
def cellWrites (m : List Host.Cell) (a : Nat) : Bytes → List Host.Cell
  | [] => m
  | b :: bs => cellWrites (cellWrite m a b) (a + 1) bs

/-- Set a run of bytes to 0: drop the listed bytes of the range. -/
def cellClear (m : List Host.Cell) (a n : Nat) : List Host.Cell :=
  m.filter fun p => p.1 < a || a + n ≤ p.1

/-- The canonical form: addresses strictly rising, no entry equal to what an unlisted address reads as. -/
def Memory.wf : List Host.Cell → Bool
  | [] => true
  | [(_, v)] => v ≠ 0
  | (k, v) :: (k', v') :: t => decide (v ≠ 0) && decide (k < k') && Memory.wf ((k', v') :: t)

end Sys2Proof.Machine
end

