-- ==== Sys2Proof/Machine/Ops.lean ====
section
/-! DEFINITION. Named operations over the state: units, time, outputs, counters, free values. -/

namespace Sys2Proof.Machine

/-- The answer of a meaning. -/
abbrev Res := Host.Outcome State Fault Refusal

/-! ### Source numbers (Table 1.6) -/

def srcHub (h : Nat) : Nat := 0x100 + h
def srcLink (l : Nat) : Nat := 0x200 + l
def srcPort (p : Nat) : Nat := 0x300 + p
def srcText (t : Nat) : Nat := 0x480 + t
def srcSeq : Nat := 0x500
def srcCp : Nat := 0x600
def srcDma : Nat := 0x680
def srcChan (c : Nat) : Nat := 0x700 + c
def srcFn (f : Nat) : Nat := 0x800 + f

/-- Compute die of a core (R16). -/
def dieOf (c : Nat) : Nat := c / 12

/-- Is the core enabled (R17)? -/
def coreEnabled (s : State) (c : Nat) : Bool := s.enCores.getLsbD c

/-! ### Completion statuses (Table 16.5) -/

def stOk : Nat := 0x0000
def stPending : Nat := 0x0001
def stBadCmd : Nat := 0x0101
def stBadParam : Nat := 0x0102
def stNoPerm : Nat := 0x0103
def stBusy : Nat := 0x0104
def stNoFit : Nat := 0x0105
def stQuota : Nat := 0x0106
def stNotFound : Nat := 0x0107
def stStale : Nat := 0x0108
def stCancelled : Nat := 0x0109
def stTimeout : Nat := 0x010A
def stLate : Nat := 0x010B
def stShort : Nat := 0x010C
def stConstraint : Nat := 0x010D
def stMedia : Nat := 0x010E
def stFault : Nat := 0x010F
def stPoison : Nat := 0x0110
def stLifecycle : Nat := 0x0111
def stAuth : Nat := 0x0112
def stAborted : Nat := 0x0113
def stDeferred : Nat := 0x0114
def stScratchOff : Nat := 0x0115
def stModeFault : Nat := 0x0116
def stWrej : Nat := 0x0117

/-! ### Time -/

/-- What dt ticks of real time do to the meridian and its time unit: it holds, runs, and slews by at most 1 tick in
10,000 (R345). -/
def merPass (t : TimeUnit) (mer : BitVec 64) (dt : Nat) : BitVec 64 × TimeUnit :=
  let d := dt - min dt t.hold
  let budget := t.slewCarry + d
  let lim : Int := (budget / 10000 : Nat)
  let adj := clampI (-lim) lim t.slew
  (mer + BitVec.ofInt 64 ((d : Int) - adj),
   { t with hold := t.hold - min dt t.hold, slew := t.slew - adj, slewCarry := if adj = t.slew then 0 else budget % 10000 })

/-- Let dt ticks pass. -/
def advance (s : State) (dt : Nat) : State :=
  let m := merPass s.time s.clk.mer dt
  { s with clk := { s.clk with ticks := s.clk.ticks + dt, mer := m.1 }, time := m.2 }

/-- The meridian as a number, as the meridian time unit's and the control die's copy hold it. -/
def merNow (s : State) : Nat := s.clk.mer.toNat

/-- Die on which a source number's unit sits (R16, Table 1.6): 0 the control die, from 1 the compute dies, from 9 the hubs, from 14
the link dies. -/
def dieOfSrc (src : Nat) : Nat :=
  if src < 0x60 then 1 + src / 12
  else if 0x100 ≤ src ∧ src < 0x105 then 9 + (src - 0x100)
  else if 0x200 ≤ src ∧ src < 0x206 then 14 + (src - 0x200)
  else if 0x300 ≤ src ∧ src < 0x330 then 14 + (src - 0x300) / 8
  else if 0x700 ≤ src ∧ src < 0x728 then 9 + (src - 0x700) / 8
  else 0

/-- How far the copy of a unit's die stands from 2 ticks behind the meridian time unit (R21). -/
def skewOf (src : Nat) : Nat := if dieOfSrc src = 0 then 2 else (Config.dieSkew (dieOfSrc src)).val

/-- The meridian as the copy of a unit's die holds it, which every stamp and comparison of that unit uses (R21). -/
def merAt (s : State) (src : Nat) : Nat := (merNow s + skewOf src - 2) % 2 ^ 64

/-- What the meridian time unit reads when the copy of a unit's die reads m. -/
def merWhen (src m : Nat) : Nat := m + 2 - skewOf src

/-- Let time pass up to tick t at least. -/
def advanceTo (s : State) (t : Nat) : State := advance s (t - s.clk.ticks)

/-- Ticks in a microsecond and a millisecond. -/
def usTicks : Nat := 4000
def msTicks : Nat := 4000000

/-! ### Outputs and free values -/

/-- An output leaves the module. -/
def emit (s : State) (o : Out) : State := { s with out := s.out ++ [(s.clk.ticks, o)] }

/-- Pieces of a host write: no TLP crosses a 4 KiB boundary of the bus address (R340; PRESUMED PCI Express, log 11). -/
def tlpCut : Nat → Nat → Bytes → List (Nat × Bytes)
  | 0, _, _ => []
  | fuel + 1, a, bs =>
    if bs = [] then [] else
    let n := 4096 - a % 4096
    (a, bs.take n) :: tlpCut fuel (a + n) (bs.drop n)

/-- A translation that a function's request uses enters the address translation cache; the oldest of 8,192 leaves (R372).
T3 traffic is untranslated, and PF1 has no ATS. -/
def noteAtc (h : HostIf) (fn svc addr : Nat) (pasid : Option Nat) : HostIf :=
  let e := (fn, (match pasid with | some p => p + 1 | none => 0), addr / 4096)
  if 64 ≤ fn ∨ svc = 5 ∨ !(tabGet h.funcs fn {}).atsEn ∨ h.atc.contains e then h
  else { h with atc := (if 8192 ≤ h.atc.length then h.atc.drop 1 else h.atc) ++ [e] }

/-- Owners of host writes (R391, R370): a command, a sequence, a sampling or survey ring, an NVMe command. -/
def ownCmd (r : CmdRef) : Nat := 1 + (r.fn * 128 + r.mbox) * 65536 + r.cid
def ownSeq (i : Nat) : Nat := 2 ^ 40 + i
def ownRing : Nat := 2 ^ 41
def ownNv (sq cid : Nat) : Nat := 2 ^ 42 + sq * 65536 + cid

/-- A write of the device to host memory, for an owner, with the PASID it carries (R371), joins the egress queues of port 48 (R332). -/
def hostPutP (s : State) (owner fn : Nat) (pasid : Option Nat) (tenant svc addr : Nat) (bs : Bytes) : State :=
  let cut := tlpCut (bs.length / 4096 + 2) addr bs
  { s with
    out := s.out ++ cut.map fun q => (s.clk.ticks, Out.hostWrite owner fn pasid tenant svc q.1 q.2)
    host := cut.foldl (fun h q => noteAtc h fn svc q.1 pasid) s.host }

/-- The same without a PASID. -/
def hostPutS (s : State) (owner fn tenant svc addr : Nat) (bs : Bytes) : State := hostPutP s owner fn none tenant svc addr bs

/-- A read request of the device to the host, with the PASID it carries. -/
def addReadP (s : State) (pasid : Option Nat) (tenant svc : Nat) (x : HostXfer) : State :=
  { emit s (.hostRead pasid tenant svc x) with host := { s.host with reads := s.host.reads ++ [x] } }

/-- The same without a PASID. -/
def addRead (s : State) (tenant svc : Nat) (x : HostXfer) : State := addReadP s none tenant svc x

/-- The next free value of the run. -/
def freeNow (s : State) : BitVec 64 := Config.freeValue s.freeCtr

/-- Count one free value as drawn. -/
def freeTick (s : State) : State := { s with freeCtr := s.freeCtr + 1 }

/-! ### Counters (R477) -/

/-- Add 1 to counter k of a unit, with the chain of R477. -/
def ctrBump (u : UnitStat) (k : Nat) : UnitStat :=
  let c := tabGet u.ctrs k {}
  let w := (c.value + 1) % 2 ^ 32
  let u1 := { u with ctrs := tabPut u.ctrs k { c with value := w } }
  if w ≠ 0 then u1 else
  let d := tabGet u1.ctrs (k + 1) {}
  if k % 2 = 0 ∧ d.chain then
    let w2 := (d.value + 1) % 2 ^ 32
    let u2 := { u1 with ctrs := tabPut u1.ctrs (k + 1) { d with value := w2 } }
    if w2 = 0 then { u2 with ovf := u2.ovf ||| 2 ^ (k + 1) } else u2
  else { u1 with ovf := u1.ovf ||| 2 ^ k }

/-- Does counter k of the unit count this event? -/
def ctrCounts (u : UnitStat) (ev tenant k : Nat) : Bool :=
  let c := tabGet u.ctrs k {}
  decide (c.event = ev) && decide (ev ≠ 0) && !c.chain && (!c.tfilt || decide (c.tenant = tenant))

/-- One occurrence of an event at a unit, on behalf of a tenant. -/
def countEv (s : State) (unit ev tenant : Nat) : State :=
  let u := tabGet s.units unit {}
  let ks := [0, 1, 2, 3, 4, 5, 6, 7].filter (ctrCounts u ev tenant)
  if ks = [] then s else { s with units := tabPut s.units unit (ks.foldl ctrBump u) }

/-- Several occurrences of an event at a unit. -/
def countEvs (s : State) (unit ev tenant n : Nat) : State :=
  if (tabGet s.units unit {}).ctrs = [] then s else (List.range n).foldl (fun st _ => countEv st unit ev tenant) s

/-! ### Tenants, cores, slots -/

/-- A tenant's configuration. -/
def tenAt (s : State) (t : Nat) : Tenant := tabGet s.tens t {}

/-- The tenant of a JOBID (R192). -/
def jobTenant (jobid : Nat) : Nat := jobid / 2 ^ 26 % 64

/-- A core's state. -/
def coreAt (s : State) (c : Nat) : Core := tabGet s.cores c {}

/-- Arithmetic-clock cycles of a core since COLD, in eightieths of a cycle (R20). -/
def coreCyc80 (s : State) (k : Core) : Nat := k.cyc80 + (s.clk.ticks - k.cycTick) * k.rate

/-- Arithmetic-clock cycles of a core since COLD. -/
def cycNow (s : State) (c : Nat) : Nat := coreCyc80 s (coreAt s c) / 80

/-- Let time pass up to a core's arithmetic cycle n at least. -/
def advanceToCyc (s : State) (c n : Nat) : State :=
  let k := coreAt s c
  if k.rate = 0 then s else advance s (ceilDiv (n * 80 - coreCyc80 s k) k.rate)

/-- Replace a core's state. -/
def setCore (s : State) (c : Nat) (k : Core) : State := { s with cores := tabPut s.cores c k }

/-- Change a core's state. -/
def modCore (s : State) (c : Nat) (f : Core → Core) : State := setCore s c (f (coreAt s c))

/-- The job-core in a slot. -/
def slotAt (s : State) (c i : Nat) : Option Slot := tabFind (coreAt s c).slots i

/-- Change the job-core in a slot, if there is one. -/
def modSlot (s : State) (c i : Nat) (f : Slot → Slot) : State :=
  modCore s c fun k => { k with slots := tabUpd k.slots i f }

/-- Change the context of the job-core in a slot. -/
def modCtx (s : State) (c i : Nat) (f : Ctx → Ctx) : State :=
  modSlot s c i fun sl => { sl with ctx := f sl.ctx }

/-- A live job. -/
def jobAt (s : State) (j : Nat) : Option Job := tabFind s.jobs.jobs j

/-- Change a live job. -/
def modJob (s : State) (j : Nat) (f : Job → Job) : State :=
  { s with jobs := { s.jobs with jobs := tabUpd s.jobs.jobs j f } }

/-- Change a job-core of a live job. -/
def modJc (s : State) (j i : Nat) (f : JobCore → JobCore) : State :=
  modJob s j fun jb => { jb with jcores := tabUpd jb.jcores i f }

/-- Is no command of a core under way whose cycles its clock counts: no pass or drain started, no segment waking or closing,
no vector operation? -/
def coreQuiet (k : Core) : Bool :=
  k.passes.all (fun p => p.start.isNone) && k.drains.all (fun d => !d.started) && decide (k.segDue = []) && decide (k.vu = [])

/-- A core's clock takes the rate of the thermal stage at a command boundary, never inside a command (R20). -/
def takeRate (s : State) (c : Nat) : State :=
  let k := coreAt s c
  if k.rate = s.clk.rate ∨ !coreQuiet k then s
  else setCore s c { k with cyc80 := coreCyc80 s k, cycTick := s.clk.ticks, rate := s.clk.rate }

/-- Number of resident job-cores on a core: of every state that holds a slot, SAVING, RESTORING and releasing ones too (DESIGN
CHOICE, log 43: R83 and Table 8.1 do not say which states count as resident here). -/
def nResident (k : Core) : Nat := k.slots.length

end Sys2Proof.Machine
end

