-- ==== Sys2Proof/Machine/HostOps.lean ====
section
/-! DEFINITION. Interrupts, event records and writes to the host (chapters 15, 16 and 19). -/

namespace Sys2Proof.Machine

/-! ### Functions -/

/-- A function's state. -/
def funcAt (s : State) (fn : Nat) : Func := tabGet s.host.funcs fn {}

/-- Change a function. -/
def modFunc (s : State) (fn : Nat) (f : Func → Func) : State :=
  { s with host := { s.host with funcs := tabPut s.host.funcs fn (f (funcAt s fn)) } }

/-- Is the function present (R364)?  ROM recovery mode presents PF0 alone (R459). -/
def fnPresent (s : State) (fn : Nat) : Bool :=
  if s.ctl.recovery then decide (fn = 0) else
  decide (fn = 0 ∨ fn = 64) || (decide (1 ≤ fn ∧ fn ≤ 63 ∧ fn ≤ s.host.numVfs) && s.host.vfEnable)

/-- MSI-X vectors of a function (Table 15.2). -/
def vecCount (fn : Nat) : Nat := if fn = 0 then 2048 else if fn = 64 then 129 else 64

/-! ### MSI-X (R370) -/

/-- A vector of a function. -/
def vecAt (f : Func) (v : Nat) : Vec := tabGet f.vecs v {}

/-- Replace a vector. -/
def putVec (s : State) (fn v : Nat) (x : Vec) : State := modFunc s fn fun f => { f with vecs := tabPut f.vecs v x }

/-- Send the message of a vector. -/
def sendMsix (s : State) (fn v : Nat) (x : Vec) : State :=
  countEv (emit (putVec s fn v { x with count := 0, due := none, pba := false }) (.msix fn v x.addr x.data)) (srcFn fn) 0x0803 0

/-- Is a vector masked: by its own mask, the function mask, or MSI-X not being enabled (R376)? -/
def vecMasked (f : Func) (x : Vec) : Bool := x.mask || f.msixMask || !f.msixEn

/-- An event on a vector of a function (R370); none before READY (R376). -/
def msixEvent (s : State) (fn v : Nat) : State :=
  let f := funcAt s fn
  if !f.ready ∨ !fnPresent s fn then s else
  let x := vecAt f v
  if vecMasked f x then putVec s fn v { x with pba := true } else
  let p := tabGet f.profiles x.prof {}
  if p.delay = 0 ∨ p.count ≤ x.count + 1 then sendMsix s fn v x
  else putVec s fn v { x with count := x.count + 1, due := some (x.due.getD (s.clk.ticks + p.delay * usTicks)) }

/-- Set a bit of IRQ_CAUSE (R369). -/
def irqSet (s : State) (fn bit : Nat) : State :=
  if !fnPresent s fn then s else
  let f := funcAt s fn
  let s1 := modFunc s fn fun f => { f with irqCause := f.irqCause ||| 2 ^ bit }
  if bitOf f.irqEnable bit then msixEvent s1 fn f.irqVec else s1

def irqEvlog : Nat := 0
def irqTime : Nat := 1
def irqFence : Nat := 2
def irqTenant : Nat := 3
def irqBar2to : Nat := 4
def irqAccerr : Nat := 5
def irqTherm : Nat := 6
def irqReady : Nat := 7

/-- Set a bit of IRQ_CAUSE in PF0 and every VF. -/
def irqAll (s : State) (bit : Nat) : State := (List.range 64).foldl (fun st f => irqSet st f bit) s

/-- A completion entry, fault record or event record goes to host memory (Table 13.1, service 0). -/
def hostPut (s : State) (fn addr : Nat) (bs : Bytes) : State :=
  hostPutS s 0 fn (if fn < 64 then fn else 0) 0 addr bs

/-! ### Event records (R474 to R476, R408) -/

/-- Is the log ring full (R408)? -/
def logFull (l : EvLog) : Bool :=
  match l.ring with
  | none => true
  | some (_, n) => decide (2 ^ n ≤ (l.prod + 2 ^ 32 - l.cons) % 2 ^ 32)

/-- A record enters the store; the oldest leaves when 65,536 are held, and is lost if it still waits for the ring. -/
def logAdd (l : EvLog) (module : Nat) (e : EvRec) : EvLog :=
  let q := tabGet l.seqs e.src 0
  let r : StoredRec := { num := l.nextNum, seq := q, module := module, ev := e }
  let drop := if 65536 ≤ l.store.length then l.store.head?.map (·.num) else none
  let pass := decide (l.ring ≠ none) && bitOf l.classMask (e.code / 256)
  let w := match drop with
    | some n => l.waiting.filter (· ≠ n)
    | none => l.waiting
  { l with
    store := (if drop.isNone then l.store else l.store.drop 1) ++ [r]
    seqs := tabPut l.seqs e.src ((q + 1) % 65536)
    nextNum := l.nextNum + 1
    waiting := if pass then w ++ [l.nextNum] else w
    lost := if w.length < l.waiting.length then min (2 ^ 32 - 1) (l.lost + 1) else l.lost }

/-- A record enters the store. -/
def logStore (s : State) (e : EvRec) : State := { s with log := logAdd s.log s.fab.module e }

/-- Do two events coalesce: one source, one CODE, one ARG0 (R476)? -/
def sameEvent (a b : EvRec) : Bool := decide (a.src = b.src ∧ a.code = b.code ∧ a.arg0 = b.arg0)

/-- An event posts its record, or opens or joins a coalesced one (R476). -/
def postEvent (s : State) (src code subunit tenant a0 a1 a2 : Nat) : State :=
  let e : EvRec := { src := src, mer := merAt s src, code := code, subunit := subunit, tenant := tenant, arg0 := a0,
                     arg1 := a1, arg2 := a2, last := merAt s src, closeAt := s.clk.ticks + msTicks }
  if code / 256 = 0 ∨ code / 256 = 4 then
    if s.log.opened.any (sameEvent e) then
      let join (o : EvRec) : EvRec := if sameEvent e o then { o with count := o.count + 1, last := merAt s src } else o
      { s with log := { s.log with opened := s.log.opened.map join } }
    else { s with log := { s.log with opened := s.log.opened ++ [e] } }
  else logStore s e

/-- Keep an address of a tenant out of a record (R475). -/
def hideAddr (tenant a : Nat) : Nat := if 1 ≤ tenant ∧ tenant ≤ 63 then 0 else a

/-- The 64-byte record (Tables 14.8 and 19.4). -/
def evBytes (r : StoredRec) : Bytes :=
  let e := r.ev
  leBytes 8 e.mer ++ leBytes 4 r.module ++ leBytes 2 e.src ++ leBytes 2 r.seq ++ leBytes 2 e.code ++ leBytes 1 e.subunit
    ++ leBytes 1 e.tenant ++ leBytes 4 e.count ++ leBytes 8 e.arg0 ++ leBytes 8 e.arg1 ++ leBytes 8 e.arg2
    ++ leBytes 8 e.last ++ leBytes 8 0

/-- A poisoned tile's record (POISON_SET). -/
def poisonEvent (s : State) (src t page cause : Nat) : State :=
  postEvent s src 0x0101 0 t (hideAddr t (page * 65536)) cause 0

end Sys2Proof.Machine
end

