-- ==== Sys2Proof/Machine/Flash.lean ====
section
/-! DEFINITION. The flash translation layer: units, blocks, the write buffer, garbage collection, failures (R413, R418 to R420,
R426 to R429). -/

namespace Sys2Proof.Machine

/-- Change the storage function. -/
def modStore (s : State) (f : Store → Store) : State := { s with store := f s.store }

/-- A flash channel. -/
def chanAt (s : State) (c : Nat) : Chan := tabGet s.store.chans c {}

/-- Change a channel. -/
def modChan (s : State) (c : Nat) (f : Chan → Chan) : State :=
  modStore s fun v => { v with chans := tabMod v.chans c {} f }

/-- Channels that are enabled (R17). -/
def chansOn (s : State) : List Nat := (List.range 40).filter fun c => s.enChans.getLsbD c

/-- Spare blocks that a channel began with. -/
def spareOf (c : Nat) : Nat := Config.chanSpare c + 1

/-- Available spare, percent: the smallest over the channels (R429). -/
def availSpare (s : State) : Nat :=
  ((chansOn s).map fun c => (spareOf c - (chanAt s c).spareUsed) * 100 / spareOf c).foldl min 100

/-- No spare is left: namespaces are read-only and the T4 pool has no room (R429). -/
def spareOut (s : State) : Bool := decide (availSpare s = 0)

/-- Free blocks of a channel: the spare ones replace those retired. -/
def chanFree (s : State) (c : Nat) : Nat :=
  Config.chanBlocks c + min (chanAt s c).retired.length (spareOf c) - (chanAt s c).taken.length

/-- Key of a unit (R426): namespace and number; the T4 pool is namespace 0. -/
def unitKey (nsid u : Nat) : Nat := nsid * 2 ^ 48 + u

/-- The channel on which a unit is written: units go round the enabled channels (log 19). -/
def unitChan (s : State) (k : Nat) : Option Nat :=
  let l := chansOn s
  if l = [] then none else l[k % 2 ^ 48 % l.length]?

/-- The lowest number from n on that is not in a list. -/
def lowestOut (xs : List Nat) : Nat → Nat → Nat
  | 0, n => n
  | fuel + 1, n => if xs.contains n then lowestOut xs fuel (n + 1) else n

/-- Take a block from the free list; a copy may take one although none is counted free, of those that exist. -/
def takeBlk (s : State) (c : Nat) (use : BlkUse) : Option (State × Nat) :=
  let ch := chanAt s c
  let n := lowestOut ch.taken ch.taken.length 0
  if (use ≠ .copy ∧ chanFree s c = 0) ∨ Config.chanBlocks c + spareOf c ≤ n then none
  else some (modChan s c fun x => { x with taken := x.taken ++ [n], blocks := tabPut x.blocks n { use := use } }, n)

/-- The open block of a use. -/
def openOf (ch : Chan) : BlkUse → Option Nat
  | .host => ch.openHost
  | .t4 => ch.openT4
  | .copy => ch.openCopy

/-- Set it. -/
def setOpen (ch : Chan) (use : BlkUse) (b : Option Nat) : Chan :=
  match use with
  | .host => { ch with openHost := b }
  | .t4 => { ch with openT4 := b }
  | .copy => { ch with openCopy := b }

/-- Units of a block: 2,048 pages of four. -/
def blkUnits : Nat := 8192

/-- An open block of a use with room, taking a new one where there is none (R426). -/
def openBlk (s : State) (c : Nat) (use : BlkUse) : Option (State × Nat) :=
  let ch := chanAt s c
  let fresh := (takeBlk s c use).map fun q => (modChan q.1 c fun x => setOpen x use (some q.2), q.2)
  match openOf ch use with
  | some b => if (tabGet ch.blocks b {}).used < blkUnits then some (s, b) else fresh
  | none => fresh

/-- A place of a block is used; a full block is closed. -/
def useBlk (s : State) (c b : Nat) (use : BlkUse) (f : Blk → Blk) : State :=
  modChan s c fun ch =>
    let x := f (tabGet ch.blocks b {})
    let full := decide (blkUnits ≤ x.used)
    let ch1 := { ch with blocks := tabPut ch.blocks b { x with closed := x.closed || full } }
    if full then setOpen ch1 use none else ch1

/-- A unit is unmapped: its place is valid no more. -/
def unmapUnit (s : State) (k : Nat) : State :=
  match tabFind s.store.map k with
  | some (c, b, p) =>
    modStore (modChan s c fun ch => { ch with blocks := tabUpd ch.blocks b fun x => { x with valid := tabDel x.valid p } }) fun v =>
      { v with map := tabDel v.map k }
  | none => s

/-- Count an event once for each page of a block that a run of units begins: a page holds four units (R426, Table 19.7). -/
def countPages (s : State) (src ev base n : Nat) : State :=
  countEvs s src ev 0xFF (ceilDiv (base + n) 4 - ceilDiv base 4)

/-- Program a unit into an open block of a use, and map it; none where its channel has no free block. -/
def placeUnit (use : BlkUse) (os : Option State) (k : Nat) : Option State :=
  match os with
  | none => none
  | some s =>
    match unitChan s k with
    | none => none
    | some c =>
      match openBlk s c use with
      | none => none
      | some (s1, b) =>
        let p := (tabGet (chanAt s1 c).blocks b {}).used
        let s2 := useBlk (unmapUnit s1 k) c b use fun x => { x with used := p + 1, valid := tabPut x.valid p k }
        some (countPages (modStore s2 fun v => { v with map := tabPut v.map k (c, b, p) }) (srcChan c) 0x0702 p 1)

/-- Saturating count. -/
def satAdd (w n d : Nat) : Nat := min (n + d) (2 ^ w - 1)

/-- Sectors of the T4 pool in which a tile may be placed: those below the end a shrinking pool is to have (R414); none where
no spare block is left (R429). -/
def t4Limit (s : State) : Nat :=
  if spareOut s then 0 else
  match s.store.t4Drain with
  | some d => min d s.atlas.t4Pool
  | none => s.atlas.t4Pool

/-! ### Namespaces and the write buffer -/

/-- A namespace that exists. -/
def nsAt (s : State) (n : Nat) : Option Ns := tabFind s.store.nss n

/-- Bytes of an LBA (Table 17.3). -/
def lbaBytes (n : Ns) : Nat := if n.big then 4096 else 512

/-- Bytes of a namespace. -/
def nsBytesOf (n : Ns) : Nat := n.nsze * lbaBytes n

/-- Bytes of namespace capacity in use. -/
def nsCap (s : State) : Nat := (s.store.nss.map fun q => nsBytesOf q.2).sum

/-- The byte the write buffer holds for an address, the newest write first. -/
def wbByte (es : List WbEnt) (nsid a : Nat) : Option Byte :=
  es.reverse.findSome? fun e =>
    if e.nsid = nsid ∧ e.off ≤ a ∧ a < e.off + e.len then some (e.data.getD (a - e.off) 0) else none

/-- A byte of a namespace as a Read returns it (R418). -/
def nsByte (s : State) (nsid a : Nat) : Byte :=
  match wbByte s.store.wb nsid a with
  | some b => b
  | none => match nsAt s nsid with
    | some n => cellRead n.data a
    | none => 0

/-- Bytes of a namespace. -/
def nsReads (s : State) (nsid a n : Nat) : Bytes := (List.range n).map fun i => nsByte s nsid (a + i)

/-- Units that a byte range touches. -/
def unitsOf (off len : Nat) : List Nat :=
  if len = 0 then [] else (List.range ((off + len - 1) / 4096 - off / 4096 + 1)).map fun i => off / 4096 + i

/-- Units that a byte range covers wholly. -/
def unitsIn (off len : Nat) : List Nat := (unitsOf off len).filter fun u => decide (off ≤ u * 4096 ∧ u * 4096 + 4096 ≤ off + len)

/-- Units of a read that must be read from the media: mapped, and not wholly in the write buffer. -/
def mediaUnits (s : State) (nsid off len : Nat) : List Nat :=
  (unitsOf off len).filterMap fun u =>
    let k := unitKey nsid u
    let lo := max off (u * 4096)
    let hi := min (off + len) (u * 4096 + 4096)
    if tabHas s.store.map k ∧ !((List.range (hi - lo)).all fun i => (wbByte s.store.wb nsid (lo + i)).isSome) then some k else none

/-- Has a unit that a read needs lost its data? -/
def readLost (s : State) (nsid off len : Nat) : Bool :=
  (unitsOf off len).any fun u => s.store.lostUnits.contains (unitKey nsid u) &&
    !((List.range 4096).all fun i =>
      let a := u * 4096 + i
      decide (a < off) || decide (off + len ≤ a) || (wbByte s.store.wb nsid a).isSome)

/-- A write enters the write buffer. -/
def wbPush (s : State) (e : WbEnt) : State :=
  modStore s fun v => { v with wb := v.wb ++ [{ e with num := v.nextWb }], nextWb := v.nextWb + 1 }

/-- Is every write up to a number durable? -/
def wbDurable (s : State) (n : Nat) : Bool := s.store.wb.all fun e => decide (n < e.num)

/-- Program one write (R418, R426): the units it touches, merged, or unmapped; none where a channel has no free block. -/
def programEnt (s : State) (e : WbEnt) : Option State :=
  match nsAt s e.nsid with
  | none => some s
  | some n =>
    let whole := unitsIn e.off e.len
    let us := if e.drop then (unitsOf e.off e.len).filter (fun u => !whole.contains u && tabHas s.store.map (unitKey e.nsid u))
      else unitsOf e.off e.len
    let s0 := if e.drop then whole.foldl (fun st u => unmapUnit st (unitKey e.nsid u)) s else s
    match us.foldl (fun os u => placeUnit .host os (unitKey e.nsid u)) (some s0) with
    | none => none
    | some s1 =>
      let d := if e.data = [] then cellClear n.data e.off e.len else cellWrites n.data e.off (padTo e.len e.data)
      some (modStore s1 fun v => { v with
        nss := tabPut v.nss e.nsid { n with data := d },
        nandNs := satAdd 64 v.nandNs (us.length * 4096),
        lostUnits := v.lostUnits.filter fun k => !(whole.any fun u => decide (unitKey e.nsid u = k)) })

/-- Program a tile's sectors into the T4 pool (R426); none where a channel has no free block. -/
def programT4 (s : State) (sec n : Nat) : Option State :=
  (((List.range n).foldl (fun os i => placeUnit .t4 os (unitKey 0 (sec + i))) (some s))).map fun s1 =>
    modStore s1 fun v => { v with
      nandT4 := satAdd 64 v.nandT4 (n * 4096),
      lostUnits := v.lostUnits.filter fun k => decide (k < sec ∨ sec + n ≤ k) }

/-- Drop what a namespace holds: units, buffered writes, contents (R415, R416). -/
def wipeNs (s : State) (nsid : Nat) (gone : Bool) : State :=
  let s1 := (s.store.map.filter fun q => decide (q.1 / 2 ^ 48 = nsid)).foldl (fun st q => unmapUnit st q.1) s
  modStore s1 fun v => { v with
    wb := v.wb.filter fun e => decide (e.nsid ≠ nsid),
    lostUnits := v.lostUnits.filter fun k => decide (k / 2 ^ 48 ≠ nsid),
    nss := if gone then tabDel v.nss nsid else tabUpd v.nss nsid fun n => { n with data := [] } }

/-! ### Garbage collection and failing blocks (R427 to R429) -/

/-- Valid units of a block: a T4 sector that holds no tile any more is not valid. -/
def blkValid (live : Nat → Bool) (b : Blk) : List (Nat × Nat) :=
  b.valid.filter fun q => decide (2 ^ 48 ≤ q.2) || live q.2

/-- The block a channel's garbage collection picks: failed blocks first, then the fewest valid units, the lowest number on a
tie; one that would free nothing is not picked (log 19). -/
def gcSource (live : Nat → Bool) (ch : Chan) : Option Nat :=
  let cand := ch.blocks.filter fun q => q.2.closed &&
    (decide (q.2.failed ≠ 0) || q.2.refresh || decide ((blkValid live q.2).length < q.2.used))
  match cand.find? fun q => decide (q.2.failed ≠ 0) with
  | some q => some q.1
  | none =>
    let m := cand.foldl (fun a q => min a (blkValid live q.2).length) blkUnits
    (cand.find? fun q => decide ((blkValid live q.2).length = m)).map (·.1)

/-- Copy the valid units of a block to an open copy block, as many as it has room for (R427). -/
def gcStart (s : State) (live : Nat → Bool) (c src : Nat) : State :=
  match openBlk s c .copy with
  | none => s
  | some (s1, d) =>
    let base := (tabGet (chanAt s1 c).blocks d {}).used
    let us := (blkValid live (tabGet (chanAt s1 c).blocks src {})).take (blkUnits - base)
    let copied := (enumFrom base us).map fun q => (q.2.1, q.1, q.2.2)
    let s2 := useBlk s1 c d .copy fun x => { x with used := base + us.length }
    let s3 := countPages (countPages s2 (srcChan c) 0x0702 base us.length) (srcChan c) 0x0704 base us.length
    modStore (modChan s3 c fun x => { x with gc := some { src := src, dst := d, copied := copied } }) fun v =>
      { v with nandGc := satAdd 64 v.nandGc (us.length * 4096) }

/-- Switch the mapping of one copied unit, if its entry still names the source (R427). -/
def gcSwitch (c src dst : Nat) (s : State) (q : Nat × Nat × Nat) : State :=
  if tabFind s.store.map q.2.2 = some (c, src, q.1) then
    let s1 := modChan s c fun ch =>
      let bs := tabUpd ch.blocks src fun x => { x with valid := tabDel x.valid q.1 }
      { ch with blocks := tabUpd bs dst fun x => { x with valid := tabPut x.valid q.2.1 q.2.2 } }
    modStore s1 fun v => { v with map := tabPut v.map q.2.2 (c, dst, q.2.1) }
  else s

/-- A block is retired and replaced from spare (R428, R429): cause 1 program, 2 erase, 3 read failure. -/
def retireBlk (s : State) (c b cause : Nat) : State :=
  let s1 := modChan s c fun ch => { ch with
    blocks := tabDel ch.blocks b, erasing := ch.erasing.filter (· ≠ b), retired := ch.retired ++ [b],
    spareUsed := min (ch.spareUsed + 1) (spareOf c),
    openHost := if ch.openHost = some b then none else ch.openHost,
    openT4 := if ch.openT4 = some b then none else ch.openT4,
    openCopy := if ch.openCopy = some b then none else ch.openCopy }
  let s2 := modStore s1 fun v => match cause with
    | 1 => { v with retProg := satAdd 32 v.retProg 1 }
    | 2 => { v with retErase := satAdd 32 v.retErase 1 }
    | _ => { v with retRead := satAdd 32 v.retRead 1 }
  postEvent s2 (srcChan c) 0x0203 0 0xFF b cause 0

/-- A block that has no valid unit left is erased, or retired where it has failed. -/
def gcFinish (s : State) (live : Nat → Bool) (c src : Nat) : State :=
  match tabFind (chanAt s c).blocks src with
  | none => s
  | some b =>
    if blkValid live b ≠ [] then s
    else
      let s1 := b.valid.foldl (fun st q => unmapUnit st q.2) s
      if b.failed ≠ 0 then retireBlk s1 c src b.failed else
      let s2 := modChan s1 c fun ch => { ch with blocks := tabDel ch.blocks src, erasing := ch.erasing ++ [src] }
      modStore s2 fun v => { v with gcRuns := satAdd 64 v.gcRuns 1, refresh := if b.refresh then satAdd 64 v.refresh 1 else v.refresh }

/-- A block takes no more units and is to be retired once its units have moved. -/
def failBlk (s : State) (live : Nat → Bool) (c b cause : Nat) : State :=
  let s1 := modChan s c fun ch => { ch with
    blocks := tabUpd ch.blocks b fun x => { x with closed := true, failed := cause },
    openHost := if ch.openHost = some b then none else ch.openHost,
    openT4 := if ch.openT4 = some b then none else ch.openT4,
    openCopy := if ch.openCopy = some b then none else ch.openCopy }
  if tabHas (chanAt s1 c).blocks b then gcFinish s1 live c b else s1

/-- A garbage-collection copy is abandoned (R428). -/
def gcAbandonRun (s : State) (c : Nat) : State :=
  modStore (modChan s c fun ch => { ch with gc := none }) fun v => { v with gcAbandon := satAdd 32 v.gcAbandon 1 }

end Sys2Proof.Machine
end

