-- ==== Sys2Proof/Machine/Atlas.lean ====
section
/-! DEFINITION. The atlas: translation, access checks, tiers and quotas, migration, fault records (chapter 7). -/

namespace Sys2Proof.Machine

/-! ### Addresses and entries -/

/-- Page number of an atlas address (R155). -/
def pageOf (va : Nat) : Nat := va / 65536 % 2 ^ 41

/-- Key of a tenant's atlas byte in the memory. -/
def memKey (t va : Nat) : Nat := t * 2 ^ 57 + va % 2 ^ 57

/-- A tenant's context. -/
def ctxAt (s : State) (t : Nat) : AtlasCtx := tabGet s.atlas.ctx t {}

/-- Change a tenant's context. -/
def modAtlas (s : State) (f : Atlas → Atlas) : State := { s with atlas := f s.atlas }

/-- Replace a tenant's context. -/
def setCtx (s : State) (t : Nat) (c : AtlasCtx) : State := modAtlas s fun a => { a with ctx := tabPut a.ctx t c }

/-- Change a tenant's context. -/
def updCtx (s : State) (t : Nat) (f : AtlasCtx → AtlasCtx) : State := setCtx s t (f (ctxAt s t))

/-- The leaf entry of a page; none when V = 0. -/
def leafAt (s : State) (t p : Nat) : Option Leaf := tabFind (ctxAt s t).pages p

/-- Write a leaf entry. -/
def setLeaf (s : State) (t p : Nat) (l : Leaf) : State := updCtx s t fun c => { c with pages := tabPut c.pages p l }

/-- Change the leaf entry of a mapped page. -/
def modLeaf (s : State) (t p : Nat) (f : Leaf → Leaf) : State :=
  updCtx s t fun c => { c with pages := tabUpd c.pages p f }

/-- Remove a leaf entry. -/
def delLeaf (s : State) (t p : Nat) : State := updCtx s t fun c => { c with pages := tabDel c.pages p }

/-- Tier number of a location: T1 0 (Z pages too), T2 1, T3 2, T4 3. -/
def locTier : Loc → Nat
  | .zero => 0
  | .t1 _ => 0
  | .lent _ _ => 1
  | .win _ => 1
  | .t3 _ _ => 2
  | .t4 _ => 3

/-- Is the page a peer window's? -/
def isWin : Loc → Bool
  | .win _ => true
  | _ => false

/-- LOC field (Table 7.3). -/
def locBits : Loc → Nat
  | .zero => 0
  | .t1 f => f % 2 ^ 24
  | .lent m sl => m % 2 ^ 17 * 2 ^ 23 + sl % 2 ^ 23
  | .win w => 2 ^ 40 + w % 4096
  | .t3 r sec => r % 256 * 2 ^ 33 + sec % 2 ^ 33
  | .t4 sec => sec % 2 ^ 41

/-- The 64-bit leaf entry (Table 7.2). -/
def leafBits (l : Leaf) : Nat :=
  2 ^ 63 + locTier l.loc * 2 ^ 61 + bit01 (decide (l.loc = .zero)) * 2 ^ 60 + bit01 l.pin * 2 ^ 59
    + bit01 l.psn * 2 ^ 58 + bit01 l.mig * 2 ^ 57 + bit01 l.e * 2 ^ 56 + bit01 l.pr * 2 ^ 55 + bit01 l.pw * 2 ^ 54
    + bit01 l.px * 2 ^ 53 + l.heat % 256 * 2 ^ 45 + l.clen % 16 * 2 ^ 41 + locBits l.loc

/-- Is some mapped page under entry `i` of a table at `level`: 0 the root, 1 the level-2 tables, 2 the level-1 tables (R155, R157)?  The
entries of a level are numbered in page order: entry i covers 2^39, 2^26 or 2^13 pages. -/
def entryUsed (s : State) (t level i : Nat) : Bool :=
  let span := match level with | 0 => 2 ^ 39 | 1 => 2 ^ 26 | _ => 2 ^ 13
  (ctxAt s t).pages.any fun q => decide (q.1 / span = i)

/-- A root or non-leaf entry (R157): V and the frame of the table under it, 0 where it covers no mapped page.  Which reserve frame
the table has is open (log 7). -/
def nonLeafBits (s : State) (t level i : Nat) : Nat :=
  if entryUsed s t level i then 2 ^ 63 + (Config.tableFrame t level i).toNat else 0

/-- Hub that owns a T1 frame (R158). -/
def hubOfFrame (f : Nat) : Nat := f / 3145728

/-- Stack of a T1 frame (R158). -/
def stackOfFrame (f : Nat) : Nat := f / 786432

/-- Hub whose translation service walks for a core, a link die and the control die (R158). -/
def walkHubCore (c : Nat) : Nat := dieOf c % 5
def walkHubLink (l : Nat) : Nat := l % 5
def walkHubControl : Nat := 0

/-- Requesters outside the cores that keep a translation cache (R159): the control die 0, link die l 1 + l; and the hub that walks for
each (R158). -/
def unitLink (l : Nat) : Nat := 1 + l
def unitHub (u : Nat) : Nat := if u = 0 then walkHubControl else walkHubLink (u - 1)

/-! ### Contents -/

/-- Bytes of the atlas as they stand, unchecked. -/
def readMem (s : State) (t va n : Nat) : Bytes := cellReads s.atlas.mem (memKey t va) n

/-- Store bytes, unchecked. -/
def writeMem (s : State) (t va : Nat) (bs : Bytes) : State :=
  modAtlas s fun a => { a with mem := cellWrites a.mem (memKey t va) bs }

/-- Zero the tile of a page. -/
def zeroTile (s : State) (t p : Nat) : State :=
  modAtlas s fun a => { a with mem := cellClear a.mem (memKey t (p * 65536)) 65536 }

/-- Nonzero bytes of a page's tile, by offset. -/
def tileCells (s : State) (t p : Nat) : List (Nat × Byte) :=
  (s.atlas.mem.filter fun q => memKey t (p * 65536) ≤ q.1 ∧ q.1 < memKey t (p * 65536) + 65536).map
    fun q => (q.1 % 65536, q.2)

/-! ### Access check (R162) -/

/-- Kinds of access (Table 7.8, ACCESS). -/
inductive Acc where
  | read | write | fetch | atomic
  deriving DecidableEq, Repr

/-- ACCESS code. -/
def accCode : Acc → Nat
  | .read => 0 | .write => 1 | .fetch => 2 | .atomic => 3

/-- Outcome of an access check. -/
inductive Check where
  /-- Resident in T1, or lent in T2. -/
  | ok (l : Leaf)
  /-- A Z page read or fetched: zeros. -/
  | zeros
  /-- A window page: the peer serves the access. -/
  | remote (w : Nat)
  /-- MISS: the tile must be promoted, or the Z page given a frame. -/
  | miss
  /-- Fault kind and cause (Tables 7.7, 7.9). -/
  | fault (kind cause : Nat)
  deriving DecidableEq, Repr

/-- The permission an access lacks, as a CAUSE code. -/
def permCause (l : Leaf) : Acc → Option Nat
  | .read => if l.pr then none else some 0x10
  | .write => if l.pw then none else some 0x11
  | .atomic => if l.pw then none else some 0x11
  | .fetch => if !l.pr then some 0x10 else if l.px then none else some 0x12

/-- Check one page of an access in R162's order: mapping, permission, poison, residence. -/
def checkPage (s : State) (t p : Nat) (acc : Acc) : Check :=
  match leafAt s t p with
  | none => .fault 0x05 0x30
  | some l =>
    match permCause l acc with
    | some c => .fault 0x03 c
    | none =>
      if l.psn then .fault 0x04 l.cause else
      match l.loc with
      | .zero => if acc = .write ∨ acc = .atomic then .miss else .zeros
      | .t1 _ => .ok l
      | .lent _ _ => .ok l
      | .win w =>
        match tabFind (ctxAt s t).wins w with
        | some pw => if s.atlas.lostPeers.contains pw.module then .fault 0x04 0x24 else .remote w
        | none => .fault 0x05 0x30
      | .t3 _ _ => .miss
      | .t4 _ => .miss

/-- Status of a fault kind (Table 7.7). -/
def faultStatus (kind : Nat) : Nat :=
  match kind with
  | 0x02 => 0x0106 | 0x03 => 0x0103 | 0x04 => 0x0110 | 0x05 => 0x010F
  | _ => 0

/-! ### Quotas and room (R166 to R171) -/

/-- A tenant's quota in a tier. -/
def quota (s : State) (t tier : Nat) : Nat :=
  let x := tenAt s t
  match tier with
  | 0 => x.qt1 | 1 => x.qt2 | 2 => x.qt3 | _ => x.qt4

/-- Does a leaf count in a tier (Table 7.5)? -/
def countsIn (tier : Nat) (l : Leaf) : Bool :=
  match l.loc with
  | .zero => false
  | .win _ => false
  | loc => locTier loc = tier

/-- Tiles that an index holds beside its image: delta segments, built versions, a resurvey's reservation (R145, R146, R150;
counted in T1: log 26). -/
def indexTiles (x : Index) : Nat :=
  (x.vers.map fun v => v.2.tiles).sum + (match x.resurvey with | some r => r.tiles | none => 0)

/-- Is a migrating tile already in the tier it moves to? -/
def movesIn (s : State) (m : Mig) : Bool :=
  match tabFind (ctxAt s m.tenant).pages m.page with
  | some l => countsIn m.tier l
  | none => false

/-- A tenant's count in a tier: its tiles there and its migrations into it, those that wait for a free slot among them (R168); one
that waits for a colder tile to leave takes that tile's place, and one that waits for room has none yet. -/
def tierCount (s : State) (t tier : Nat) : Nat :=
  ((ctxAt s t).pages.filter fun q => countsIn tier q.2).length
    + (s.atlas.migs.filter fun m => m.tenant = t ∧ m.tier = tier ∧ m.waitsOn = none ∧ !m.needRoom ∧ !movesIn s m).length
    + (if tier = 0 then (s.search.ixs.map fun q => if q.2.tenant = t then indexTiles q.2 else 0).sum else 0)

/-- Pinned tiles of a tenant. -/
def pinnedCount (s : State) (t : Nat) : Nat := ((ctxAt s t).pages.filter fun q => q.2.pin).length

/-- Distinct values of a list. -/
def distinctN : List Nat → List Nat
  | [] => []
  | a :: as => let r := distinctN as; if r.contains a then r else a :: r

/-- Table frames of a tenant's context: leaf, level-1 and level-2 tables that cover a mapped page (R156, R157). -/
def tableFrames (pages : List Nat) : Nat :=
  (distinctN (pages.map (· / 2 ^ 13))).length + (distinctN (pages.map (· / 2 ^ 26))).length
    + (distinctN (pages.map (· / 2 ^ 39))).length

/-- Number of enabled HBM stacks. -/
def nStacks (s : State) : Nat := popc 20 s.enStacks.toNat

/-- Tenant frames of the module: the enabled stacks less the reserve and the lend pool (R166, R497). -/
def tenantFrames (s : State) : Nat := nStacks s * 786432 - 524288 - s.atlas.lendPool

/-- Frames in use or being zeroed. -/
def framesUsed (s : State) : Nat := s.atlas.frames.length

/-- Reserve frames in a stack: spread evenly over the enabled stacks, at the top of each (R497, log 7). -/
def reserveIn (s : State) (st : Nat) : Nat :=
  let n := nStacks s
  if n = 0 then 0 else
  let before := popc st s.enStacks.toNat
  524288 / n + (if before < 524288 % n then 1 else 0)

/-- The lowest free tenant frame among a list of stacks. -/
def freeInStacks (s : State) : List Nat → Option Nat
  | [] => none
  | st :: rest =>
    if s.enStacks.getLsbD st then
      match tabGap s.atlas.frames (st * 786432) ((st + 1) * 786432 - reserveIn s st) with
      | some f => some f
      | none => freeInStacks s rest
    else freeInStacks s rest

/-- Stacks of a hub. -/
def hubStacks (h : Nat) : List Nat := [4 * h, 4 * h + 1, 4 * h + 2, 4 * h + 3]

/-- Free tenant frames of a hub. -/
def hubFree (s : State) (h : Nat) : Nat :=
  ((hubStacks h).map fun st =>
    if s.enStacks.getLsbD st then
      786432 - reserveIn s st - (s.atlas.frames.filter fun q => stackOfFrame q.1 = st).length
    else 0).sum

/-- The hub with the most free tenant frames, the lowest on a tie. -/
def freestHub (s : State) : Nat :=
  [1, 2, 3, 4].foldl (fun b h => if hubFree s b < hubFree s h then h else b) 0

/-- A free tenant frame for a promotion of hub h (R173); none when no hub has one. -/
def allocFrame (s : State) (h : Nat) : Option Nat :=
  if tenantFrames s ≤ framesUsed s then none else
  match freeInStacks s (hubStacks h) with
  | some f => some f
  | none => freeInStacks s (hubStacks (freestHub s))

/-- Give a frame a tag; its lines leave the hub's tile cache, written back, before the tag changes (R164). -/
def tagFrame (s : State) (f : Nat) (u : FrameUse) : State :=
  modAtlas s fun a => { a with frames := tabPut a.frames f u, tcache := a.tcache.filter fun x => decide (x.frame ≠ f) }

/-- Release a frame: it is zeroed before it is free again (R376). -/
def releaseFrame (s : State) (f : Nat) : State := tagFrame s f .zeroing

/-- Sectors minus 1 that a tile occupies (R165). -/
def tileClen (s : State) (t p : Nat) : Nat := (Config.codecClen (tileCells s t p)).val

/-- Sectors of T3 in use in a region: first sector and sectors of each stored tile, and of each tile on its way there (R168). -/
def t3Used (s : State) (r : Nat) : Tab Nat :=
  let held := s.atlas.migs.foldl (fun acc m =>
    match m.dst with
    | some (.t3 r' sec) => if r' = r then tabPut acc sec (tileClen s m.tenant m.page + 1) else acc
    | _ => acc) []
  s.atlas.ctx.foldl (fun acc c => c.2.pages.foldl (fun acc q =>
    match q.2.loc with
    | .t3 r' sec => if r' = r then tabPut acc sec (q.2.clen + 1) else acc
    | _ => acc) acc) held

/-- Sectors of T4 in use, likewise. -/
def t4Used (s : State) : Tab Nat :=
  let held := s.atlas.migs.foldl (fun acc m =>
    match m.dst with
    | some (.t4 sec) => tabPut acc sec (tileClen s m.tenant m.page + 1)
    | _ => acc) []
  s.atlas.ctx.foldl (fun acc c => c.2.pages.foldl (fun acc q =>
    match q.2.loc with
    | .t4 sec => tabPut acc sec (q.2.clen + 1)
    | _ => acc) acc) held

/-- The first run of n free sectors in [lo, size), given the runs in use in rising order (log 7: first fit). -/
def firstFit : Tab Nat → Nat → Nat → Nat → Option Nat
  | [], lo, size, n => if lo + n ≤ size then some lo else none
  | (a, len) :: t, lo, size, n => if lo + n ≤ a then some lo else firstFit t (a + len) size n

/-- The runs of n sectors that failed writes have tried in a region of T3 (R175). -/
def tried3 (n r : Nat) (tried : List Loc) (used : Tab Nat) : Tab Nat :=
  tried.foldl (fun acc l => match l with | .t3 r' sec => if r' = r then tabPut acc sec n else acc | _ => acc) used

/-- The runs of n sectors that failed writes have tried in T4. -/
def tried4 (n : Nat) (tried : List Loc) (used : Tab Nat) : Tab Nat :=
  tried.foldl (fun acc l => match l with | .t4 sec => tabPut acc sec n | _ => acc) used

/-- A T3 location with n free sectors in the first of a list of regions that has one, beside those already tried; a DRAINING region
takes none. -/
def t3Place (s : State) (n : Nat) (tried : List Loc) : Tab HostRegion → Option Loc
  | [] => none
  | (r, h) :: t =>
    if h.draining then t3Place s n tried t else
    match firstFit (tried3 n r tried (t3Used s r)) 0 (h.length / 4096) n with
    | some sec => some (.t3 r sec)
    | none => t3Place s n tried t

/-- The host regions in turn, from the one after the region that took a tile last: tiles are spread across the regions (R181; the
order is a DESIGN CHOICE, log 7). -/
def regionsInTurn (s : State) : Tab HostRegion :=
  (s.atlas.regions.filter fun q => decide (s.atlas.lastRegion < q.1)) ++ s.atlas.regions.filter fun q => decide (q.1 ≤ s.atlas.lastRegion)

/-- A T4 location with n free sectors, beside those already tried. -/
def t4Place (s : State) (n : Nat) (tried : List Loc) : Option Loc :=
  if s.atlas.t4Pool = 0 then none else
  (firstFit (tried4 n tried (t4Used s)) 0 (t4Limit s) n).map .t4

/-- Does a sector of the T4 pool hold part of a tile? -/
def t4Live (s : State) (sec : Nat) : Bool :=
  (t4Used s).any fun u => decide (u.1 ≤ sec ∧ sec < u.1 + u.2)

/-- Has the tile at a T4 location lost a sector to a failed read (R420)? -/
def t4Lost (s : State) (l : Leaf) : Bool :=
  match l.loc with
  | .t4 sec => (List.range (l.clen + 1)).any fun i => s.store.lostUnits.contains (unitKey 0 (sec + i))
  | _ => false

/-- Is a location in the flash while thermal stage 4 holds it idle (R425)? -/
def t4Idle (s : State) (loc : Loc) : Bool :=
  match loc with
  | .t4 _ => decide (s.power.stage = 4)
  | _ => false

/-- The peer whose pool takes a tile: the next after the one used last, of those that are not lost and not full (R178). -/
def nextPeer (s : State) (tried : List Loc) : Option (Nat × Nat) :=
  let n := s.atlas.borrow.length
  if n = 0 then none else
  ((List.range n).map fun i => (s.atlas.lastPeer + 1 + i) % n).findSome? fun i =>
    let m := s.atlas.borrow.getD i 0
    if tried.any (fun l => match l with | .lent m' _ => m' = m | _ => false) ∨ s.atlas.lostPeers.contains m then none
    else some (i, m)

/-- Has a tier room for a tile of the tenant (R169)?  T3 and T4 need 16 free sectors; T2 a borrow peer that is not lost: whether its
pool is full shows when it is asked (R178). -/
def hasRoom (s : State) (t tier : Nat) : Bool :=
  decide (tierCount s t tier < quota s t tier) &&
  (match tier with
   | 1 => (nextPeer s []).isSome
   | 2 => (t3Place s 16 [] (regionsInTurn s)).isSome
   | 3 => (t4Place s 16 []).isSome
   | _ => false)

/-- Tiers of a demotion order (Table 7.13, DORDER). -/
def dorderTiers (d : Nat) : List Nat :=
  match d with
  | 0 => [1, 2, 3]
  | 1 => [2, 3]
  | _ => [3, 2]

/-- The tiers after a tier in the order; every tier of the order comes after T1 (R169). -/
def tiersAfter (d tier : Nat) : List Nat :=
  if tier = 0 then dorderTiers d else ((dorderTiers d).dropWhile (· ≠ tier)).drop 1

/-- The coldest of a list of (page, leaf): lowest HEAT, then lowest page (R169). -/
def coldest : List (Nat × Leaf) → Option (Nat × Leaf)
  | [] => none
  | q :: t =>
    match coldest t with
    | none => some q
    | some r => if r.2.heat < q.2.heat then some r else some q

/-- Tiles of a tenant in a tier that a demotion may move: unpinned, unpoisoned, not migrating. -/
def movable (s : State) (t tier : Nat) : List (Nat × Leaf) :=
  (ctxAt s t).pages.filter fun q => countsIn tier q.2 && !q.2.pin && !q.2.psn && !q.2.mig

/-- A tile in T3 is read from the host (R181). -/
def readT3 (s : State) (t p : Nat) : State :=
  match leafAt s t p with
  | some { loc := .t3 _ _, .. } => addRead s t 5 (.t3 t p)
  | _ => s

/-- Where a demotion goes in its tier: the next peer, or sectors of a region or of the T4 pool, beside what failed writes have tried
(R168, R169, R175, R178). -/
def pickDst (s : State) (m : Mig) : Option Loc :=
  let n := tileClen s m.tenant m.page + 1
  match m.tier with
  | 1 => (nextPeer s m.tried).map fun q => .lent q.2 0
  | 2 => t3Place s n m.tried (regionsInTurn s)
  | _ => t4Place s n m.tried

/-- Remember which borrow peer or host region took a tile last. -/
def noteUsed (s : State) (loc : Option Loc) : State :=
  match loc with
  | some (.lent m _) => modAtlas s fun a => { a with lastPeer := (a.borrow.findIdx fun x => decide (x = m)) }
  | some (.t3 r _) => modAtlas s fun a => { a with lastRegion := r }
  | _ => s

/-- A demotion that need not wait takes its destination before it copies (R168). -/
def withDst (s : State) (m : Mig) : Mig :=
  if m.tier ≠ 0 ∧ m.waitsOn = none ∧ m.dst = none then { m with dst := pickDst s m } else m

/-- Start a migration: MIG sets (R174). -/
def addMig (s : State) (m : Mig) : State :=
  let m1 := withDst s m
  modAtlas (modLeaf (readT3 (noteUsed s (if m.tier = 0 then none else m1.dst)) m.tenant m.page) m.tenant m.page fun l =>
    { l with mig := true }) fun a => { a with migs := a.migs ++ [m1] }

/-- Is (heat, page) colder than (heat', page')? -/
def colder (a b : Nat × Leaf) : Bool := decide (a.2.heat < b.2.heat ∨ (a.2.heat = b.2.heat ∧ a.1 < b.1))

/-- Place a tile of t in the first of the tiers that takes it (R169): a tier with room, or a tier whose coldest
tile is colder and can itself be taken by a later tier, which then moves on first. -/
def takeBy (s : State) (t : Nat) (q : Nat × Leaf) (hub : Nat) (fg : Bool) : List Nat → Option State
  | [] => none
  | y :: rest =>
    if quota s t y = 0 then takeBy s t q hub fg rest
    else if hasRoom s t y then
      some (addMig s { tenant := t, page := q.1, tier := y, fg := fg, hub := hub })
    else
      match coldest (movable s t y) with
      | some v =>
        if colder v q then
          match takeBy s t v hub fg rest with
          | some s' => some (addMig s' { tenant := t, page := q.1, tier := y, fg := fg, hub := hub, waitsOn := some v.1 })
          | none => takeBy s t q hub fg rest
        else takeBy s t q hub fg rest
      | none => takeBy s t q hub fg rest

/-- Start the demotion of t's coldest tile of a tier, or the QUOTA cause that R170 gives. -/
def demoteColdest (s : State) (t tier hub : Nat) (fg : Bool) : Except Nat (State × Nat) :=
  match coldest (movable s t tier) with
  | none => .error 0x01
  | some q =>
    match takeBy s t q hub fg (tiersAfter (ctxAt s t).dorder tier) with
    | some s' => .ok (s', q.1)
    | none => .error 0x02

/-- Is a tile of the tenant in T1 that a demotion might move on its way out already? -/
def leaving (s : State) (t : Nat) : Bool :=
  (ctxAt s t).pages.any fun q => countsIn 0 q.2 && !q.2.pin && !q.2.psn && q.2.mig

/-! ### Promotion (R173) -/

/-- Room for a promotion in T1 (R168 to R170): a free frame, or a wait for one while the count is below the quota; else the tenant's
coldest tile must leave first.  The answer is the state and the promotion, or the QUOTA cause; where every tile that could leave is on
its way out already, it waits for room. -/
def makeRoom (s : State) (m : Mig) : Except Nat (State × Mig) :=
  if tierCount s m.tenant 0 < quota s m.tenant 0 then
    match allocFrame s m.hub with
    | some f => .ok (tagFrame s f (.tile m.tenant m.page), { m with dst := some (.t1 f), needRoom := false })
    | none => .ok (s, { m with needRoom := false })
  else
    match demoteColdest s m.tenant 0 m.hub m.fg with
    | .ok (s1, v) => .ok (s1, { m with waitsOn := some v, needRoom := false })
    | .error c => if c = 0x01 ∧ leaving s m.tenant then .ok (s, { m with needRoom := true }) else .error c

/-- Start a promotion of a page to T1 by a hub; a page already migrating is joined.  The error is the QUOTA cause. -/
def startPromotion (s : State) (t p hub : Nat) (fg : Bool) : Except Nat State :=
  match leafAt s t p with
  | none => .ok s
  | some l =>
    if l.mig then .ok s
    else
      match makeRoom s { tenant := t, page := p, tier := 0, fg := fg, hub := hub } with
      | .ok (s1, m) => .ok (countEv (addMig s1 m) (srcHub hub) 0x0102 t)
      | .error c => .error c

/-- A migration of a page, if any. -/
def migOf (s : State) (t p : Nat) : Option Mig := s.atlas.migs.find? fun m => m.tenant = t && m.page = p

/-- Is the tenant's coldest unpinned tile of T1 colder than a heat by HYST at least (R173)? -/
def colderBy (s : State) (t h : Nat) : Bool :=
  match coldest ((ctxAt s t).pages.filter fun q => countsIn 0 q.2 && !q.2.pin) with
  | some q => decide (q.2.heat + (ctxAt s t).hyst ≤ h)
  | none => false

/-- HEAT gains 1; at PROMOTE a tile of T2 to T4 is promoted in the background (R173).  A window page's HEAT counts at the module that
holds the tile (R172). -/
def touchPage (s : State) (t p : Nat) (hub : Nat) : State :=
  match leafAt s t p with
  | none => s
  | some l =>
    if isWin l.loc then s else
    let h := min 255 (l.heat + 1)
    let s1 := setLeaf s t p { l with heat := h }
    if locTier l.loc ≠ 0 ∧ (ctxAt s1 t).promote ≤ h ∧ !l.mig ∧ !l.psn ∧ (tierCount s1 t 0 < quota s1 t 0 ∨ colderBy s1 t h) then
      match startPromotion s1 t p hub false with
      | .ok s2 => s2
      | .error _ => s1
    else s1

/-! ### Fault records (R187 to R189) -/

/-- Records that the ring of a context has room for. -/
def ringRoom (c : AtlasCtx) : Nat :=
  match c.ring with
  | none => 0
  | some g => 2 ^ g.log2n - (c.prod + 2 ^ 32 - c.cidx) % 2 ^ 32

/-- Is the ring full, or not set? -/
def ringNoRoom (c : AtlasCtx) : Bool := decide (ringRoom c = 0)

/-- Post a fault record: it waits in the device until FAULT_RING_WRITE moves it to the ring; FULL sets when the ring has no
room for it (R189). -/
def postFault (s : State) (t : Nat) (r : FaultRec) : State :=
  let c := ctxAt s t
  let put := setCtx s t { c with waiting := c.waiting ++ [r], full := c.full || decide (ringRoom c ≤ c.waiting.length) }
  match r.holder with
  | .window fn =>
    if c.waiting.any fun w => w.holder = .window fn then
      setCtx s t { c with winlost := min 0xFFFF (c.winlost + 1) }
    else put
  | _ => put

/-- The atlas fault record (Table 7.8). -/
def atlasRecord (mer src kind slot jobid acc page tag cmdidx opcode cause : Nat) : Bytes :=
  leBytes 8 mer ++ leBytes 2 src ++ leBytes 1 kind ++ leBytes 1 slot ++ leBytes 4 jobid
    ++ leBytes 8 (acc * 2 ^ 62 + page * 65536) ++ leBytes 2 (faultStatus kind) ++ leBytes 2 tag
    ++ leBytes 2 cmdidx ++ leBytes 1 opcode ++ leBytes 1 cause

/-- The command-fault record (Table 5.8). -/
def commandRecord (mer src slot jobid plotid cmdidx opcode status tag detail : Nat) : Bytes :=
  leBytes 8 mer ++ leBytes 2 src ++ leBytes 1 0x01 ++ leBytes 1 slot ++ leBytes 4 jobid ++ leBytes 4 plotid
    ++ leBytes 2 cmdidx ++ leBytes 1 opcode ++ leBytes 1 0 ++ leBytes 2 status ++ leBytes 2 tag ++ leBytes 4 detail

end Sys2Proof.Machine
end

