-- ==== Sys2Proof/Machine/Numerics.lean ====
section
/-! DEFINITION. Number formats, exact arithmetic and the one rounding (chapter 3, R51 to R67). -/

namespace Sys2Proof.Machine

/-- A floating-point format: exponent bits and fraction bits (Table 3.2). -/
structure FFmt where
  eb : Nat
  fb : Nat
  deriving DecidableEq, Repr

def fmtFp32 : FFmt := ⟨8, 23⟩
def fmtFp16 : FFmt := ⟨5, 10⟩
def fmtBf16 : FFmt := ⟨8, 7⟩
def fmtC40 : FFmt := ⟨8, 31⟩

/-- Exponent bias. -/
def fBias (f : FFmt) : Int := (2 ^ (f.eb - 1) : Nat) - 1

/-- A value before rounding: magnitude m * 2^e, and `st` when a nonzero part below m's last bit was dropped. -/
inductive FVal where
  | nan
  | inf (neg : Bool)
  | num (neg : Bool) (m : Nat) (e : Int) (st : Bool)
  deriving DecidableEq, Repr

/-- Decode an encoding (R53). -/
def fDecode (f : FFmt) (w : Nat) : FVal :=
  let frac := w % 2 ^ f.fb
  let ex := w / 2 ^ f.fb % 2 ^ f.eb
  let neg := decide (w / 2 ^ (f.fb + f.eb) % 2 = 1)
  if ex = 2 ^ f.eb - 1 then (if frac = 0 then .inf neg else .nan)
  else if ex = 0 then .num neg frac (1 - fBias f - f.fb) false
  else .num neg (frac + 2 ^ f.fb) (ex - fBias f - f.fb) false

/-- The encoding of infinity without its sign. -/
def fInfBits (f : FFmt) : Nat := (2 ^ f.eb - 1) * 2 ^ f.fb

/-- The canonical quiet NaN (R53). -/
def fNan (f : FFmt) : Nat := fInfBits f + 2 ^ (f.fb - 1)

/-- Sign bit. -/
def fSign (f : FFmt) (neg : Bool) : Nat := bit01 neg * 2 ^ (f.fb + f.eb)

/-- m * 2^-sh rounded to nearest, ties to even; `st`: a nonzero part lies below m. -/
def rneShift (m sh : Nat) (st : Bool) : Nat :=
  if sh = 0 then m else
  let q := m / 2 ^ sh
  let r := m % 2 ^ sh
  let h := 2 ^ (sh - 1)
  if h < r ∨ (r = h ∧ (st ∨ q % 2 = 1)) then q + 1 else q

/-- m * 2^e rounded to nearest even as a multiple of 2^lsb. -/
def rneAt (m : Nat) (e lsb : Int) (st : Bool) : Nat :=
  if lsb ≤ e then m * 2 ^ (e - lsb).toNat else rneShift m (lsb - e).toNat st

/-- Round once to a format, to nearest even with gradual underflow (R55, R64). -/
def fRound (f : FFmt) : FVal → Nat
  | .nan => fNan f
  | .inf neg => fSign f neg + fInfBits f
  | .num neg m e st =>
    if m = 0 then fSign f neg else
    let top := e + (Nat.log2 m : Int)
    let lsb := max (top - f.fb) (1 - fBias f - f.fb)
    let w := (lsb + fBias f + f.fb - 1).toNat * 2 ^ f.fb + rneAt m e lsb st
    fSign f neg + min w (fInfBits f)

/-- Does rounding a finite value give infinity? -/
def fOverflows (f : FFmt) (v : FVal) : Bool :=
  match v with
  | .num .. => decide (fRound f v % 2 ^ (f.fb + f.eb) = fInfBits f)
  | _ => false

/-- Exact value of an integer. -/
def fOfInt (i : Int) : FVal := .num (decide (i < 0)) i.natAbs 0 false

/-- Exact value N * 2^e; zero is +0. -/
def fOfScaled (n : Int) (e : Int) : FVal := .num (decide (n < 0)) n.natAbs e false

/-- Signed magnitude. -/
def fSigned (neg : Bool) (m : Nat) : Int := if neg then -(m : Int) else m

/-- Exact sum; an exact zero sum is -0 only when both addends are negative (R67). -/
def fAdd : FVal → FVal → FVal
  | .nan, _ => .nan
  | _, .nan => .nan
  | .inf a, .inf b => if a = b then .inf a else .nan
  | .inf a, .num .. => .inf a
  | .num .., .inf b => .inf b
  | .num a m e _, .num b n f _ =>
    let lo := min e f
    let s := fSigned a (m * 2 ^ (e - lo).toNat) + fSigned b (n * 2 ^ (f - lo).toNat)
    if s = 0 then .num (a && b) 0 0 false else fOfScaled s lo

/-- Negation. -/
def fNeg : FVal → FVal
  | .nan => .nan
  | .inf a => .inf !a
  | .num a m e st => .num (!a) m e st

/-- Absolute value. -/
def fAbs : FVal → FVal
  | .nan => .nan
  | .inf _ => .inf false
  | .num _ m e st => .num false m e st

/-- Exact product. -/
def fMul : FVal → FVal → FVal
  | .nan, _ => .nan
  | _, .nan => .nan
  | .inf a, .inf b => .inf (a != b)
  | .inf a, .num b n _ _ => if n = 0 then .nan else .inf (a != b)
  | .num a m _ _, .inf b => if m = 0 then .nan else .inf (a != b)
  | .num a m e _, .num b n f _ => .num (a != b) (m * n) (e + f) false

/-- Quotient with 64 extra bits and the sticky remainder. -/
def fDiv : FVal → FVal → FVal
  | .nan, _ => .nan
  | _, .nan => .nan
  | .inf _, .inf _ => .nan
  | .inf a, .num b _ _ _ => .inf (a != b)
  | .num a _ _ _, .inf b => .num (a != b) 0 0 false
  | .num a m e _, .num b n f _ =>
    if n = 0 then (if m = 0 then .nan else .inf (a != b))
    else .num (a != b) (m * 2 ^ 64 / n) (e - f - 64) (decide (m * 2 ^ 64 % n ≠ 0))

/-- Integer square root, bit by bit from bit i down. -/
def isqrtFrom (n : Nat) : Nat → Nat → Nat
  | 0, r => if (r + 1) * (r + 1) ≤ n then r + 1 else r
  | i + 1, r => let c := r + 2 ^ (i + 1); isqrtFrom n i (if c * c ≤ n then c else r)

/-- Square root with 64 extra bits and the sticky remainder. -/
def fSqrt : FVal → FVal
  | .nan => .nan
  | .inf neg => if neg then .nan else .inf false
  | .num neg m e _ =>
    if m = 0 then .num neg 0 0 false
    else if neg then .nan
    else
      let m' := if e % 2 = 0 then m else 2 * m
      let e' := if e % 2 = 0 then e else e - 1
      let n := m' * 2 ^ 128
      let r := isqrtFrom n 90 0
      .num false r (e' / 2 - 64) (decide (r * r ≠ n))

/-- a < b as numbers; false when either is NaN; -0 equals +0. -/
def fLt : FVal → FVal → Bool
  | .nan, _ => false
  | _, .nan => false
  | .inf a, .inf b => a && !b
  | .inf a, .num .. => a
  | .num .., .inf b => !b
  | .num a m e _, .num b n f _ =>
    let lo := min e f
    decide (fSigned a (m * 2 ^ (e - lo).toNat) < fSigned b (n * 2 ^ (f - lo).toNat))

/-- a = b as numbers. -/
def fEq (a b : FVal) : Bool :=
  match a, b with
  | .nan, _ => false
  | _, .nan => false
  | _, _ => !fLt a b && !fLt b a

/-- Is the sign negative? -/
def fIsNeg : FVal → Bool
  | .nan => false
  | .inf a => a
  | .num a _ _ _ => a

/-- minimumNumber of IEEE 754-2019 (R55). -/
def fMin (a b : FVal) : FVal :=
  match a, b with
  | .nan, b => b
  | a, .nan => a
  | a, b => if fLt a b then a else if fLt b a then b else if fIsNeg a then a else b

/-- maximumNumber of IEEE 754-2019 (R55). -/
def fMax (a b : FVal) : FVal :=
  match a, b with
  | .nan, b => b
  | a, .nan => a
  | a, b => if fLt a b then b else if fLt b a then a else if fIsNeg a then b else a

/-- Round to an integer, ties to even; NaN gives 0; infinities give a value beyond every format (R55). -/
def fToInt : FVal → Int
  | .nan => 0
  | .inf neg => if neg then -(2 ^ 200 : Nat) else (2 ^ 200 : Nat)
  | .num neg m e st => fSigned neg (rneAt m e 0 st)

/-! ### Accumulator update (R31, R58 to R61) -/

/-- Outcome of an update of one accumulator value. -/
structure AccUpd where
  x : BitVec 64
  a : Int
  aovf : Bool
  lossy : Bool
  deriving DecidableEq, Repr

/-- Largest and smallest 64-bit integers. -/
def max64 : Int := 2 ^ 63 - 1
def min64 : Int := -(2 ^ 63)

/-- Integer mode (R31, R60): SET replaces, ADD adds; the entry saturates; the anchor is left at 0. -/
def accInteger (set : Bool) (x : BitVec 64) (sum : Int) : AccUpd :=
  let v := (if set then 0 else x.toInt) + sum
  let c := clampI min64 max64 v
  ⟨BitVec.ofInt 64 c, 0, decide (c ≠ v), false⟩

/-- The sum of n * 2^e terms at the common exponent lo. -/
def sumScaled (lo : Int) : List (Int × Int) → Int
  | [] => 0
  | (n, e) :: t => n * 2 ^ (e - lo).toNat + sumScaled lo t

/-- Lowest exponent of the terms, from lo down. -/
def minExp (lo : Int) : List (Int × Int) → Int
  | [] => lo
  | (n, e) :: t => minExp (if n ≠ 0 ∧ e < lo then e else lo) t

/-- The least anchor at or above a at which floor(n * 2^e / 2^A) fits 64 bits: the loop of R58 in closed form. -/
def anchorFor (n e a : Int) : Int :=
  if n = 0 then a
  else if 0 < n then max a (e + (Nat.log2 n.natAbs + 1 : Nat) - 63)
  else max a (e + (if n.natAbs ≤ 1 then 0 else (Nat.log2 (n.natAbs - 1) + 1 : Nat)) - 63)

/-- floor(n * 2^e / 2^a). -/
def floorAt (n e a : Int) : Int := if a ≤ e then n * 2 ^ (e - a).toNat else n / 2 ^ (a - e).toNat

/-- Is x * 2^a equal to n * 2^e? -/
def scaledEq (x a n e : Int) : Bool :=
  let lo := min a e
  decide (x * 2 ^ (a - lo).toNat = n * 2 ^ (e - lo).toNat)

/-- The exact-window update (R58, R59), with the terms as (P, s). -/
def accScaled (set : Bool) (v : BitVec 64) (anchor : Int) (terms : List (Int × Int)) : AccUpd :=
  let x0 : Int := if set then 0 else v.toInt
  let a0 : Int := if set then -512 else anchor
  let lo := minExp a0 terms
  let n := sumScaled lo ((x0, a0) :: terms)
  let a1 := anchorFor n lo a0
  let past := decide (511 < a1)
  let a2 := if past then 511 else a1
  let x1 := clampI min64 max64 (floorAt n lo a2)
  ⟨BitVec.ofInt 64 x1, a2, past, !scaledEq x1 a2 n lo⟩

/-! ### Drain conversions (R62 to R66) -/

/-- An output format of Table 3.3. -/
inductive OutFmt where
  | s (n : Nat) | u (n : Nat) | flt (f : FFmt) | blk (mb : Nat)
  deriving DecidableEq, Repr

/-- OUTFMT codes (Table 3.3); none for a reserved code. -/
def outFmt (code : Nat) : Option OutFmt :=
  match code with
  | 0x00 => some (.s 32) | 0x01 => some (.s 16) | 0x02 => some (.u 16) | 0x03 => some (.s 12)
  | 0x04 => some (.u 12) | 0x05 => some (.s 8) | 0x06 => some (.u 8) | 0x07 => some (.s 6)
  | 0x08 => some (.u 6) | 0x09 => some (.s 5) | 0x0A => some (.u 5) | 0x0B => some (.s 4)
  | 0x0C => some (.u 4) | 0x0D => some (.s 3) | 0x0E => some (.u 3) | 0x0F => some (.s 2)
  | 0x10 => some (.u 2) | 0x11 => some (.u 1) | 0x14 => some (.flt fmtFp32) | 0x15 => some (.flt fmtFp16)
  | 0x16 => some (.flt fmtBf16) | 0x18 => some (.flt fmtC40) | 0x19 => some (.blk 8) | 0x1A => some (.blk 6)
  | 0x1B => some (.blk 4)
  | _ => none

/-- Element size in bytes (Table 3.3). -/
def outSize : OutFmt → Nat
  | .s n => if n = 32 then 4 else if 8 < n then 2 else 1
  | .u n => if 8 < n then 2 else 1
  | .flt f => if f = fmtFp32 then 4 else if f = fmtC40 then 8 else 2
  | .blk _ => 1

/-- Range of an integer output. -/
def intRange : OutFmt → Int × Int
  | .s n => (-(2 ^ (n - 1) : Nat), (2 ^ (n - 1) : Nat) - 1)
  | .u n => (0, (2 ^ n : Nat) - 1)
  | _ => (0, 0)

/-- Convert one accumulator value to an integer or float element: encoding and DSAT (R63, R64, R66). -/
def drainConv (f : OutFmt) (v : AccUpd) : Nat × Bool :=
  let val := fOfScaled v.x.toInt v.a
  match f with
  | .flt ff => (fRound ff val, fOverflows ff val)
  | .blk _ => (0, false)
  | o =>
    let r := fToInt val
    let c := clampI (intRange o).1 (intRange o).2 r
    (twos (8 * outSize o) c, decide (o = .s 32) && decide (c ≠ r))

/-- Largest mantissa over a block at exponent E: every |n * 2^e| / 2^(E-127), rounded to nearest even. -/
def blkMant (n e : Int) (ex : Nat) : Int :=
  fSigned (decide (n < 0)) (rneAt n.natAbs e ((ex : Int) - 127) false)

/-- The least exponent from ex up at which every mantissa fits, and whether none does (R65). -/
def blkExp (mmax : Int) (vals : List (Int × Int)) : Nat → Nat → Nat × Bool
  | 0, ex => (ex, !(vals.all fun p => decide ((blkMant p.1 p.2 ex).natAbs ≤ mmax.natAbs)))
  | fuel + 1, ex =>
    if vals.all fun p => decide ((blkMant p.1 p.2 ex).natAbs ≤ mmax.natAbs) then (ex, false)
    else blkExp mmax vals fuel (ex + 1)

/-- Convert a block: exponent, mantissas, DSAT (R65, R66). -/
def blkConv (mb : Nat) (vals : List (Int × Int)) : Nat × List Int × Bool :=
  if vals.all fun p => p.1 = 0 then (0, vals.map fun _ => 0, false) else
  let mmax : Int := (2 ^ (mb - 1) : Nat) - 1
  let (ex, sat) := blkExp mmax vals 255 0
  (ex, vals.map fun p => clampI (-mmax) mmax (blkMant p.1 p.2 ex), sat)

/-! ### C40 combining (R67) -/

/-- One combining step: exact sum, rounded once to C40. -/
def c40Add (a b : Nat) : Nat := fRound fmtC40 (fAdd (fDecode fmtC40 a) (fDecode fmtC40 b))

end Sys2Proof.Machine
end

