-- ==== Sys2Proof/Machine/Scratch.lean ====
section
/-! DEFINITION. Scratchpad regions, locations, segments and the scoreboard (chapter 4). -/

namespace Sys2Proof.Machine

/-- A stretch of bytes of one region row: row, first byte, byte after the last. -/
structure Span where
  row : Nat
  lo : Nat
  hi : Nat
  deriving DecidableEq, Repr

/-- What a command touches in one region: region number, direction, its bytes, and the command byte offset that a
violated check of it reports. -/
structure Use where
  reg : Nat
  write : Bool
  spans : List Span
  off : Nat
  deriving DecidableEq, Repr

/-- Element size of an ESIZE code in bytes (Table 4.2). -/
def esizeBytes (code : Nat) : Nat := 2 ^ code

/-- The region constant h (R74). -/
def regionHash (r : Region) : Nat := ((r.lbase >>> 6) ^^^ r.lbase ^^^ r.skew) % 64

/-- Bank of chunk q of row r (R74). -/
def chunkBank (r : Region) (row q : Nat) : Nat := (row + q + regionHash r) % 64

/-- Job-relative line of chunk q of row r (R74). -/
def chunkLine (r : Region) (row q : Nat) : Nat := r.lbase + row / 64 * r.pitch + q

/-- Location address of byte b of a row (R81). -/
def locAddr (r : Region) (row b : Nat) : Nat :=
  chunkLine r row (b / 64) * 4096 + chunkBank r row (b / 64) * 64 + b % 64

/-- Physical scratchpad address of a location address, through the window's segments (R72). -/
def physAddr (segs : List Nat) (loc : Nat) : Nat := segs.getD (loc / 2 ^ 20) 0 * 2 ^ 20 + loc % 2 ^ 20

/-- Is a span inside the declared region (R496)? -/
def spanIn (r : Region) (sp : Span) : Bool := decide (sp.row < r.nrows) && decide (sp.hi ≤ r.pitch * 64)

/-- Location addresses of the first byte in each chunk of a span, and of the last. -/
def spanLocs (r : Region) (sp : Span) : List Nat :=
  if sp.hi ≤ sp.lo then [] else
  (List.range ((sp.hi - 1) / 64 + 1 - sp.lo / 64)).flatMap fun k =>
    let q := sp.lo / 64 + k
    [locAddr r sp.row (max sp.lo (q * 64)), locAddr r sp.row (min (sp.hi - 1) (q * 64 + 63))]

/-- Smallest and largest of a list of numbers. -/
def minMax : List Nat → Option (Nat × Nat)
  | [] => none
  | a :: t => match minMax t with
    | none => some (a, a)
    | some (l, h) => some (min a l, max a h)

/-- The range of a use in 256-byte granules, from its lowest to its highest location address (R81). -/
def useRange (regs : Tab Region) (u : Use) : Option (Nat × Nat) :=
  match tabFind regs u.reg with
  | none => none
  | some r => (minMax (u.spans.flatMap (spanLocs r))).map fun p => (p.1 / 256, p.2 / 256)

/-- Window segments that a use touches. -/
def useSegs (regs : Tab Region) (u : Use) : List Nat :=
  match tabFind regs u.reg with
  | none => []
  | some r => (u.spans.flatMap (spanLocs r)).map (· / 2 ^ 20)

/-- Power state of a physical segment. -/
def segState (k : Core) (seg : Nat) : SegPower := tabGet k.segs seg .off

/-- Power state of a window segment. -/
def winSegState (k : Core) (sl : Slot) (i : Nat) : SegPower := segState k (sl.segs.getD i 16)

/-- The first OFF window segment that the uses touch (R88). -/
def offSeg (k : Core) (sl : Slot) (us : List Use) : Option Nat :=
  (minMax ((us.flatMap (useSegs sl.ctx.regions)).filter fun i => winSegState k sl i = .off)).map (·.1)

/-- Does a use touch a segment that is WAKING or CLOSING? -/
def segBusy (k : Core) (sl : Slot) (us : List Use) : Bool :=
  (us.flatMap (useSegs sl.ctx.regions)).any fun i => winSegState k sl i = .waking || winSegState k sl i = .closing

/-! ### Reading and writing -/

/-- A byte of a region row. -/
def spadByte (k : Core) (sl : Slot) (r : Region) (row b : Nat) : Byte :=
  tabGet k.spad (physAddr sl.segs (locAddr r row b)) 0

/-- n bytes of a region row from byte b. -/
def spadBytes (k : Core) (sl : Slot) (r : Region) (row b : Nat) : Nat → Bytes
  | 0 => []
  | n + 1 => spadByte k sl r row b :: spadBytes k sl r row (b + 1) n

/-- Element column col, of the given size, as a number. -/
def spadElem (k : Core) (sl : Slot) (r : Region) (size row col : Nat) : Nat :=
  leVal (spadBytes k sl r row (col * size) size)

/-- Physical addresses and bytes of a value written at byte b of a row. -/
def spadCells (sl : Slot) (r : Region) (row b : Nat) : Bytes → List (Nat × Byte)
  | [] => []
  | x :: xs => (physAddr sl.segs (locAddr r row b), x) :: spadCells sl r row (b + 1) xs

/-- Write bytes at physical addresses. -/
def spadPut (k : Core) (cells : List (Nat × Byte)) : Core :=
  { k with spad := cells.foldl (fun m p => tabPut m p.1 p.2) k.spad }

/-- Zero a physical segment. -/
def spadZero (k : Core) (seg : Nat) : Core := { k with spad := k.spad.filter fun p => p.1 / 2 ^ 20 ≠ seg }

/-! ### SPAD.REGION (R73) -/

/-- The descriptor in bytes 8 to 23 of SPAD.REGION, or bytes 0 to 15 of a region-table entry, and its number. -/
def regionOf (b : Bytes) : Nat × Region :=
  (fld b 0 5 0, { esize := fld b 1 1 0, skew := fld b 2 5 0, lbase := fld b 4 11 0, nlines := fld b 6 12 0,
                  pitch := fld b 8 12 0, nrows := fld b 10 15 0 })

/-- The checks of R73 on a descriptor at byte `at0`, against a window of `nseg` segments. -/
def regionChecks (b : Bytes) (at0 nseg : Nat) : List (Nat × Bool) :=
  let (n, r) := regionOf b
  [(at0, decide (fld b 0 7 6 ≠ 0)), (at0, decide (n = 0)), (at0 + 1, decide (fld b 1 7 2 ≠ 0)),
   (at0 + 2, decide (fld b 2 7 6 ≠ 0)), (at0 + 3, decide (fld b 3 7 0 ≠ 0)), (at0 + 4, decide (fld b 4 15 12 ≠ 0)),
   (at0 + 6, decide (fld b 6 15 13 ≠ 0)), (at0 + 8, decide (fld b 8 15 13 ≠ 0)),
   (at0 + 12, decide (fld b 12 31 0 ≠ 0)),
   (at0 + 6, decide (r.nlines ≠ 0 ∧ (r.pitch = 0 ∨ r.nrows = 0))),
   (at0 + 4, decide (r.nlines = 0 ∧ (r.lbase ≠ 0 ∨ r.pitch ≠ 0 ∨ r.nrows ≠ 0))),
   (at0 + 6, decide (r.nlines < ceilDiv r.nrows 64 * r.pitch)),
   (at0 + 4, decide (nseg * 256 < r.lbase + r.nlines))]

/-- Commit a descriptor into a region table: NLINES 0 removes the region. -/
def regionCommit (t : Tab Region) (n : Nat) (r : Region) : Tab Region :=
  if r.nlines = 0 then tabDel t n else tabPut t n r

/-! ### Scoreboard (R81 to R85) -/

/-- A job's share of entries (R83). -/
def sbShare (k : Core) : Nat := if nResident k = 0 then 32 else 32 / nResident k

/-- Entries a job holds. -/
def sbHolds (k : Core) (slot : Nat) : Nat := (k.sb.filter fun e => e.slot = slot).length

/-- Do two granule ranges overlap? -/
def rangesMeet (a b c d : Nat) : Bool := decide (a ≤ d) && decide (c ≤ b)

/-- Is a range held by an entry of the same job (R82)? -/
def rangeHeld (k : Core) (slot : Nat) (write : Bool) (lo hi : Nat) : Bool :=
  k.sb.any fun e => decide (e.slot = slot) && rangesMeet lo hi e.lo e.hi && (write || e.write)

/-- A READ entry of the same job that a READ range lies within, which it joins (R83). -/
def joinable (slot : Nat) (write : Bool) (lo hi : Nat) (e : SbEntry) : Bool :=
  !write && decide (e.slot = slot) && !e.write && decide (e.lo ≤ lo) && decide (hi ≤ e.hi)

/-- The uses of one region in one direction taken together: a region gives one range per direction (R81). -/
def mergeUses : List Use → List Use
  | [] => []
  | u :: us =>
    let rest := mergeUses us
    match rest.find? fun v => decide (v.reg = u.reg) && v.write == u.write with
    | some v => { u with spans := u.spans ++ v.spans } :: rest.filter fun w => w ≠ v
    | none => u :: rest

/-- Ranges of a command: one per region and direction, (write, lo, hi). -/
def useRanges (regs : Tab Region) (us : List Use) : List (Bool × Nat × Nat) :=
  (mergeUses us).filterMap fun u => (useRange regs u).map fun p => (u.write, p.1, p.2)

/-- New entries a command needs. -/
def sbNeeds (k : Core) (slot : Nat) (rs : List (Bool × Nat × Nat)) : Nat :=
  (rs.filter fun r => !(k.sb.any (joinable slot r.1 r.2.1 r.2.2))).length

/-- Does the scoreboard hold the command (R82, R83)?  It has 32 entries in all (R81): jobs that hold more than their share leave
fewer than a share to another. -/
def sbHeld (k : Core) (slot : Nat) (rs : List (Bool × Nat × Nat)) : Bool :=
  rs.any (fun r => rangeHeld k slot r.1 r.2.1 r.2.2) ||
    (decide (sbShare k < sbHolds k slot + sbNeeds k slot rs) || decide (32 < k.sb.length + sbNeeds k slot rs))
      && decide (0 < sbNeeds k slot rs)

/-- Take an entry, or join one. -/
def sbTakeOne (slot id : Nat) (k : Core) (r : Bool × Nat × Nat) : Core :=
  if k.sb.any (joinable slot r.1 r.2.1 r.2.2) then
    match k.sb.findIdx? (joinable slot r.1 r.2.1 r.2.2) with
    | some i => { k with sb := k.sb.modify i fun e => { e with owners := e.owners ++ [id] } }
    | none => k
  else
    let sb := k.sb ++ [{ slot := slot, owners := [id], write := r.1, lo := r.2.1, hi := r.2.2 }]
    { k with sb := sb, hiwat := max k.hiwat sb.length }

/-- Take the entries of a command. -/
def sbTake (k : Core) (slot id : Nat) (rs : List (Bool × Nat × Nat)) : Core := rs.foldl (sbTakeOne slot id) k

/-- Release the entries a command holds (R84). -/
def sbRelease (k : Core) (id : Nat) : Core :=
  { k with sb := (k.sb.map fun e => { e with owners := e.owners.filter (· ≠ id) }).filter fun e => e.owners ≠ [] }

/-- The owners whose time of release has come by a core cycle give up their entries (R84). -/
def sbSettle (k : Core) (now : Nat) : Core :=
  let due := (k.sbDue.filter fun q => decide (q.2 ≤ now)).map (·.1)
  if due = [] then k else
  { due.foldl sbRelease k with sbDue := k.sbDue.filter fun q => decide (now < q.2) }

/-- Discard every entry of a slot (R85). -/
def sbDropSlot (k : Core) (slot : Nat) : Core := { k with sb := k.sb.filter fun e => e.slot ≠ slot }

end Sys2Proof.Machine
end

