-- ==== Sys2Proof/Machine/Operands.lean ====
section
/-! DEFINITION. The core command formats: fields, checks at issue and scratchpad uses of every opcode
(Tables 2.8, 2.9, 4.2, 4.4, 5.1 to 5.10, 5.16, 7.6). -/

namespace Sys2Proof.Machine

/-- What issue needs to know of a command: violated checks, scratchpad uses released at the end, and uses that a
pass releases once its weights are loaded (Table 4.3). -/
structure Decoded where
  checks : List (Nat × Bool) := []
  uses : List Use := []
  early : List Use := []
  deriving DecidableEq, Repr

/-- OPCODE and TAG of the header (Table 5.1). -/
def cmdOp (b : Bytes) : Nat := byteAt b 0
def cmdTag (b : Bytes) : Nat := fieldAt b 2 2

/-- Reserved fields of the header. -/
def headChecks (b : Bytes) : List (Nat × Bool) := [(1, decide (byteAt b 1 ≠ 0)), (4, decide (fieldAt b 4 4 ≠ 0))]

/-- A reserved field "off [hi:lo]". -/
def rsv (b : Bytes) (off hi lo : Nat) : Nat × Bool := (off, decide (fld b off hi lo ≠ 0))

/-- Reserved bytes lo to hi. -/
def rsvBytes (b : Bytes) (lo hi : Nat) : Nat × Bool := (lo, !zeroBytes b lo hi)

/-- Is the region declared? -/
def declared (sl : Slot) (r : Nat) : Bool := tabHas sl.ctx.regions r

/-- Checks that the uses lie in declared regions (R46, R47, R496). -/
def useChecks (sl : Slot) (us : List Use) : List (Nat × Bool) :=
  us.map fun u => (u.off, match tabFind sl.ctx.regions u.reg with
    | none => false
    | some r => !(u.spans.all (spanIn r)))

/-! ### ARRAY.PASS (Table 2.8) -/

structure PassF where
  keep : Bool
  thin : Bool
  wfmt : Nat
  scaled : Bool
  set : Bool
  trim : Bool
  asigned : Bool
  acode : Nat
  conv : Bool
  kact : Nat
  nvec : Nat
  accbase : Nat
  wreg : Nat
  xreg : Nat
  areg : Nat
  sreg : Nat
  wrow0 : Nat
  arow0 : Nat
  acol0 : Nat
  swrow : Nat
  sarow : Nat
  iw : Nat
  ih : Nat
  ow : Nat
  oy0 : Nat
  sy : Nat
  sx : Nat
  dy : Nat
  dx : Nat
  kw : Nat
  tap0 : Nat
  ntap : Nat
  seglen : Nat
  padl : Nat
  padt : Nat
  padval : Nat
  deriving DecidableEq, Repr

/-- Fields of ARRAY.PASS. -/
def passF (b : Bytes) : PassF :=
  { keep := flg b 8 5, thin := flg b 8 4, wfmt := fld b 8 3 0, scaled := flg b 9 7, set := flg b 9 6,
    trim := flg b 9 5, asigned := flg b 9 4, acode := fld b 9 3 0, conv := flg b 10 0, kact := fld b 12 10 0,
    nvec := fld b 14 9 0, accbase := fld b 16 8 0, wreg := byteAt b 18, xreg := byteAt b 19, areg := byteAt b 20,
    sreg := byteAt b 21, wrow0 := fieldAt b 22 2, arow0 := fieldAt b 24 2, acol0 := fieldAt b 26 2,
    swrow := fieldAt b 28 2, sarow := fieldAt b 30 2, iw := fieldAt b 32 2, ih := fieldAt b 34 2,
    ow := fieldAt b 36 2, oy0 := fieldAt b 38 2, sy := fld b 40 7 4, sx := fld b 40 3 0, dy := fld b 41 7 4,
    dx := fld b 41 3 0, kw := byteAt b 42, tap0 := byteAt b 43, ntap := byteAt b 44, seglen := fieldAt b 46 2,
    padl := byteAt b 48, padt := byteAt b 49, padval := fieldAt b 50 2 }

/-- Activation width Ba of an ACODE (Table 2.8); 0 for a reserved code. -/
def actWidth (code : Nat) : Nat := [1, 2, 3, 4, 5, 6, 8, 12, 16].getD code 0

/-- Bytes of an activation element. -/
def actSize (f : PassF) : Nat := if actWidth f.acode ≤ 8 then 1 else 2

/-- Bytes of a weight row (Table 2.7); 0 for a reserved code. -/
def wRowBytes (fmt : Nat) : Nat := [64, 128, 256, 512, 512, 512].getD fmt 0

/-- NWROW (R35). -/
def nwrow (f : PassF) : Nat := if f.thin then 2 * ceilDiv f.kact 4 else f.kact

/-- Scale blocks per vector in use. -/
def nBlocks (f : PassF) : Nat := ceilDiv f.kact 32

/-- Where the feeder takes element e of vector v of a CONV pass: none for padding (R49). -/
def convPos (f : PassF) (v e : Nat) : Option (Nat × Nat) :=
  let ox := v % f.ow
  let oy := f.oy0 + v / f.ow
  let tap := f.tap0 + e / f.seglen
  let ky := tap / f.kw
  let kx := tap % f.kw
  let y : Int := (oy * f.sy + ky * f.dy : Nat) - (f.padt : Int)
  let x : Int := (ox * f.sx + kx * f.dx : Nat) - (f.padl : Int)
  if y < 0 ∨ (f.ih : Int) ≤ y ∨ x < 0 ∨ (f.iw : Int) ≤ x then none
  else some (f.arow0 + y.toNat * f.iw + x.toNat, f.acol0 + e % f.seglen)

/-- Spans of the activations that the feeder reads. -/
def actSpans (f : PassF) : List Span :=
  let z := actSize f
  if f.conv then
    (List.range f.nvec).flatMap fun v => (List.range f.ntap).filterMap fun t =>
      (convPos f v (t * f.seglen)).map fun p => ⟨p.1, p.2 * z, (p.2 + f.seglen) * z⟩
  else (List.range f.nvec).map fun v => ⟨f.arow0 + v, f.acol0 * z, (f.acol0 + f.kact) * z⟩

/-- Spans of the scale exponents: weight exponents, then activation exponents unless SAROW is 0 (R56). -/
def scaleSpans (f : PassF) : List Span :=
  ((List.range (nBlocks f)).map fun b => ⟨f.swrow + b, 0, 512⟩)
    ++ (if f.sarow = 0 then [] else (List.range f.nvec).map fun v => ⟨f.sarow + v, 0, nBlocks f⟩)

/-- Byte offset and size of the CONV fields and the reserved byte among them, which LINEAR passes leave 0. -/
def convFields : List (Nat × Nat) :=
  [(32, 2), (34, 2), (36, 2), (38, 2), (40, 1), (41, 1), (42, 1), (43, 1), (44, 1), (45, 1), (46, 2), (48, 1), (49, 1),
    (50, 2)]

/-- Checks and uses of ARRAY.PASS (R46). -/
def passDec (b : Bytes) (sl : Slot) : Decoded :=
  let f := passF b
  let base : List (Nat × Bool) :=
    headChecks b ++ [rsv b 8 7 6, (8, decide (5 < f.wfmt)), (9, decide (8 < f.acode)), rsv b 10 7 1, rsv b 11 7 0,
      rsv b 12 15 11, rsv b 14 15 10, rsv b 16 15 9, rsvBytes b 52 63,
      (12, decide (f.kact = 0 ∨ (if f.thin then 1024 else 512) < f.kact)),
      (14, decide (f.nvec = 0 ∨ 512 < f.nvec)),
      (14, decide (sl.nacc < f.accbase + f.nvec)),
      (8, !f.thin && decide (f.xreg ≠ 0)), (9, !f.scaled && decide (f.sreg ≠ 0)),
      (9, f.scaled && decide (f.kact % 32 ≠ 0)),
      (18, !declared sl f.wreg), (19, f.thin && !declared sl f.xreg), (20, !declared sl f.areg),
      (21, f.scaled && !declared sl f.sreg)]
    ++ (if f.conv then
          [rsv b 45 7 0, (10, decide (f.ntap * f.seglen ≠ f.kact)), (32, decide (f.iw = 0)),
           (34, decide (f.ih = 0)), (36, decide (f.ow = 0)), (40, decide (f.sx = 0 ∨ f.sy = 0)),
           (41, decide (f.dx = 0 ∨ f.dy = 0)), (42, decide (f.kw = 0))]
        else convFields.map fun x => (x.1, decide (fieldAt b x.1 x.2 ≠ 0)))
  if (firstBad base).isSome then { checks := base } else
  let w := (List.range (nwrow f)).map fun r => (⟨f.wrow0 + r, 0, wRowBytes f.wfmt⟩ : Span)
  let x := (List.range (nwrow f)).map fun r => (⟨f.wrow0 + r, 0, 128⟩ : Span)
  let early := [⟨f.wreg, false, w, 8⟩] ++ (if f.thin then [⟨f.xreg, false, x, 12⟩] else [])
  let late := [⟨f.areg, false, actSpans f, if f.conv then 10 else 9⟩]
    ++ (if f.scaled then [⟨f.sreg, false, scaleSpans f, 12⟩] else [])
  { checks := base ++ useChecks sl (early ++ late), uses := late, early := early }

/-! ### ARRAY.DRAIN (Table 2.9) -/

structure DrainF where
  outfmt : Nat
  trans : Bool
  clear : Bool
  entry0 : Nat
  nent : Nat
  col0 : Nat
  ncol : Nat
  dreg : Nat
  ereg : Nat
  drow0 : Nat
  dcol0 : Nat
  erow0 : Nat
  deriving DecidableEq, Repr

/-- Fields of ARRAY.DRAIN. -/
def drainF (b : Bytes) : DrainF :=
  { outfmt := fld b 8 4 0, trans := flg b 9 1, clear := flg b 9 0, entry0 := fld b 10 8 0, nent := fld b 12 9 0,
    col0 := fld b 14 8 0, ncol := fld b 16 9 0, dreg := byteAt b 18, ereg := byteAt b 19, drow0 := fieldAt b 20 2,
    dcol0 := fieldAt b 22 2, erow0 := fieldAt b 24 2 }

/-- Destination rows and elements per row of a drain. -/
def drainRows (f : DrainF) : Nat := if f.trans then f.ncol else f.nent
def drainCols (f : DrainF) : Nat := if f.trans then f.nent else f.ncol

/-- Checks and uses of ARRAY.DRAIN (R47, R65). -/
def drainDec (b : Bytes) (sl : Slot) : Decoded :=
  let f := drainF b
  let blk := match outFmt f.outfmt with | some (.blk _) => true | _ => false
  let base : List (Nat × Bool) :=
    headChecks b ++ [rsv b 8 7 5, (8, decide (outFmt f.outfmt = none)), rsv b 9 7 2, rsv b 10 15 9, rsv b 12 15 10,
      rsv b 14 15 9, rsv b 16 15 10, rsvBytes b 26 63, (12, decide (f.nent = 0 ∨ 512 < f.nent)),
      (16, decide (f.ncol = 0 ∨ 512 < f.ncol)), (10, decide (sl.nacc < f.entry0 + f.nent)),
      (14, decide (512 < f.col0 + f.ncol)), (18, !declared sl f.dreg), (8, !blk && decide (f.ereg ≠ 0)),
      (19, blk && !declared sl f.ereg)]
  if (firstBad base).isSome then { checks := base } else
  let z := match outFmt f.outfmt with | some o => outSize o | none => 1
  let d := (List.range (drainRows f)).map fun r => (⟨f.drow0 + r, f.dcol0 * z, (f.dcol0 + drainCols f) * z⟩ : Span)
  let e := (List.range (drainRows f)).map fun r => (⟨f.erow0 + r, 0, ceilDiv (drainCols f) 32⟩ : Span)
  let us : List Use := [⟨f.dreg, true, d, 8⟩] ++ (if blk then [⟨f.ereg, true, e, 9⟩] else [])
  { checks := base ++ useChecks sl us, uses := us }

/-! ### SPAD.REGION and SPAD.SEGMENT (Tables 4.2, 4.4) -/

/-- Checks of SPAD.REGION. -/
def spadRegionDec (b : Bytes) (sl : Slot) : Decoded :=
  { checks := headChecks b ++ regionChecks (b.drop 8) 8 sl.segs.length ++ [rsvBytes b 20 63] }

/-- SEGMASK, as window segment numbers. -/
def segMask (b : Bytes) : List Nat := (List.range 16).filter fun i => bitOf (fieldAt b 10 2) i

/-- Checks of SPAD.SEGMENT (R87); its WRITE range is over whole segments. -/
def spadSegmentDec (b : Bytes) (sl : Slot) : Decoded :=
  { checks := headChecks b ++ [rsv b 8 7 1, rsv b 9 7 0, rsvBytes b 12 63,
      (10, decide (segMask b = [])), (10, (segMask b).any fun i => decide (sl.segs.length ≤ i))] }

/-- Granule range of SPAD.SEGMENT: lowest to highest selected segment. -/
def segRange (b : Bytes) : List (Bool × Nat × Nat) :=
  match minMax (segMask b) with
  | some (l, h) => [(true, l * 4096, h * 4096 + 4095)]
  | none => []

/-! ### Tile mover (Tables 5.4, 5.5, 5.16, 7.6) -/

structure MoveF where
  colw : Bool
  bfmt : Nat
  pack : Nat
  store : Bool
  reg : Nat
  row0 : Nat
  col0 : Nat
  va : Nat
  n0 : Nat
  n1 : Nat
  n2 : Nat
  n3 : Nat
  s1 : Int
  s2 : Int
  s3 : Int
  r1 : Nat
  r2 : Nat
  r3 : Nat
  lo1 : Int
  ext1 : Nat
  lo2 : Int
  ext2 : Nat
  fill : Nat
  deriving DecidableEq, Repr

/-- Fields of TM.MOVE. -/
def moveF (b : Bytes) : MoveF :=
  { colw := flg b 8 5, bfmt := fld b 8 4 3, pack := fld b 8 2 1, store := flg b 8 0, reg := byteAt b 9,
    row0 := fieldAt b 12 2, col0 := fieldAt b 14 2, va := fld b 16 56 0, n0 := fieldAt b 24 2, n1 := fieldAt b 26 2,
    n2 := fieldAt b 28 2, n3 := fieldAt b 30 2, s1 := sext 40 (fieldAt b 32 5), s2 := sext 40 (fieldAt b 37 5),
    s3 := sext 40 (fieldAt b 42 5), r1 := fieldAt b 48 2, r2 := fieldAt b 50 2, r3 := fieldAt b 52 2,
    lo1 := sext 16 (fieldAt b 54 2), ext1 := fieldAt b 56 2, lo2 := sext 16 (fieldAt b 58 2),
    ext2 := fieldAt b 60 2, fill := fieldAt b 62 2 }

/-- Mantissa width of BFMT (R100): B8, B6, B4. -/
def bfmtWidth (c : Nat) : Nat := [8, 6, 4].getD c 0

/-- Atlas bits per element: PACK NONE, BLOCK, C40 (R100). -/
def atlasBits (pack bfmt esize : Nat) : Nat :=
  if pack = 1 then bfmtWidth bfmt else if pack = 2 then 40 else 8 * esizeBytes esize

/-- Number of runs of TM.MOVE. -/
def moveRuns (f : MoveF) : Nat := f.n1 * f.n2 * f.n3

/-- A run of TM.MOVE: its atlas address, scratchpad offset and whether it is in bounds (R99). -/
def moveRun (f : MoveF) (i : Nat) : Int × Nat × Bool :=
  let i1 := i % f.n1
  let i2 := i / f.n1 % f.n2
  let i3 := i / (f.n1 * f.n2)
  let a1 := f.lo1 + i1
  let a2 := f.lo2 + i2
  let inb := (f.ext1 = 0 ∨ (0 ≤ a1 ∧ a1 < f.ext1)) ∧ (f.ext2 = 0 ∨ (0 ≤ a2 ∧ a2 < f.ext2))
  ((f.va : Int) + a1 * f.s1 + a2 * f.s2 + i3 * f.s3, i1 * f.r1 + i2 * f.r2 + i3 * f.r3, decide inb)

/-- Row and element column of element k of a run at offset off. -/
def moveElem (f : MoveF) (off k : Nat) : Nat × Nat :=
  if f.colw then (f.row0 + k, f.col0 + off) else (f.row0 + off, f.col0 + k)

/-- Spans of TM.MOVE in its region. -/
def moveSpans (f : MoveF) (z : Nat) : List Span :=
  (List.range (moveRuns f)).flatMap fun i =>
    let off := (moveRun f i).2.1
    if f.colw then (List.range f.n0).map fun k => ⟨f.row0 + k, (f.col0 + off) * z, (f.col0 + off + 1) * z⟩
    else [⟨f.row0 + off, f.col0 * z, (f.col0 + f.n0) * z⟩]

/-- ESIZE of a region of the job. -/
def regEsize (sl : Slot) (r : Nat) : Nat := (tabGet sl.ctx.regions r {}).esize

/-- Checks and uses of TM.MOVE (R99, R100). BFMT is refused unless 0 with PACK = C40 as with PACK = NONE (log 45). -/
def moveDec (b : Bytes) (sl : Slot) : Decoded :=
  let f := moveF b
  let es := regEsize sl f.reg
  let base : List (Nat × Bool) :=
    headChecks b ++ [rsv b 8 7 6, rsv b 10 15 0, rsv b 16 63 57, rsv b 47 7 0, (8, decide (f.pack = 3)),
      (8, decide (f.pack = 1 ∧ f.bfmt = 3)), (8, decide (f.pack ≠ 1 ∧ f.bfmt ≠ 0)), (9, !declared sl f.reg),
      (8, decide (f.pack = 2 ∧ es ≠ 3)), (8, decide (f.pack = 1 ∧ (es ≠ 0 ∨ f.n0 % 32 ≠ 0))),
      (24, decide (f.n0 = 0)), (26, decide (f.n1 = 0)), (28, decide (f.n2 = 0)), (30, decide (f.n3 = 0)),
      (8, decide (65536 * 8 < f.n0 * atlasBits f.pack f.bfmt es))]
  if (firstBad base).isSome then { checks := base } else
  let us : List Use := [⟨f.reg, !f.store, moveSpans f (esizeBytes es), 8⟩]
  { checks := base ++ useChecks sl us, uses := us }

structure GatherF where
  scop : Nat
  pack : Nat
  reg : Nat
  ireg : Nat
  row0 : Nat
  col0 : Nat
  irow0 : Nat
  icol0 : Nat
  nidx : Nat
  n0 : Nat
  va : Nat
  stride : Nat
  limit : Nat
  fill : Nat
  deriving DecidableEq, Repr

/-- Fields of TM.GATHER and TM.SCATTER. -/
def gatherF (b : Bytes) : GatherF :=
  { scop := fld b 8 4 3, pack := fld b 8 2 1, reg := byteAt b 9, ireg := byteAt b 10, row0 := fieldAt b 12 2,
    col0 := fieldAt b 14 2, irow0 := fieldAt b 16 2, icol0 := fieldAt b 18 2, nidx := fieldAt b 20 2,
    n0 := fieldAt b 22 2, va := fld b 24 56 0, stride := fieldAt b 32 5, limit := fieldAt b 38 4,
    fill := fieldAt b 42 2 }

/-- Elements in a row of the index region. -/
def rowElems (sl : Slot) (r z : Nat) : Nat := (tabGet sl.ctx.regions r {}).pitch * 64 / z

/-- Row and element column of index j (R101). -/
def idxPos (sl : Slot) (f : GatherF) (j : Nat) : Nat × Nat :=
  let e := rowElems sl f.ireg 4
  (f.irow0 + (f.icol0 + j) / e, (f.icol0 + j) % e)

/-- Checks and uses of TM.GATHER (scatter = false) and TM.SCATTER (R101, R102). -/
def gatherDec (scatter : Bool) (b : Bytes) (sl : Slot) : Decoded :=
  let f := gatherF b
  let es := regEsize sl f.reg
  let base : List (Nat × Bool) :=
    headChecks b ++ [rsv b 8 7 5, rsv b 8 0 0, rsv b 11 7 0, rsv b 24 63 57, rsv b 37 7 0, rsvBytes b 44 63,
      (8, decide (1 < f.scop)), (8, !scatter && decide (f.scop ≠ 0)), (8, decide (f.pack = 1 ∨ f.pack = 3)),
      (9, !declared sl f.reg), (10, !declared sl f.ireg), (10, decide (regEsize sl f.ireg ≠ 2)),
      (8, decide (f.pack = 2 ∧ es ≠ 3)), (8, decide (f.scop = 1 ∧ es ≠ 3)),
      (20, decide (f.nidx = 0 ∨ 4096 < f.nidx)), (22, decide (f.n0 = 0)),
      (8, decide (65536 * 8 < f.n0 * atlasBits f.pack 0 es)),
      (10, decide (rowElems sl f.ireg 4 ≤ f.icol0))]
  if (firstBad base).isSome then { checks := base } else
  let z := esizeBytes es
  let d := (List.range f.nidx).map fun j => (⟨f.row0 + j, f.col0 * z, (f.col0 + f.n0) * z⟩ : Span)
  let ix := (List.range f.nidx).map fun j => let p := idxPos sl f j; (⟨p.1, p.2 * 4, (p.2 + 1) * 4⟩ : Span)
  let us : List Use := [⟨f.reg, !scatter, d, 9⟩, ⟨f.ireg, false, ix, 10⟩]
  { checks := base ++ useChecks sl us, uses := us }

/-- Checks and uses of MEM.ATOMIC (R115). -/
def atomicDec (b : Bytes) (sl : Slot) : Decoded :=
  let ret := flg b 8 3
  let kind := fld b 8 2 0
  let reg := byteAt b 9
  let row := fieldAt b 10 2
  let col := fieldAt b 12 2
  let base : List (Nat × Bool) :=
    headChecks b ++ [rsv b 8 7 4, (8, decide (4 < kind)), rsv b 14 15 0, rsv b 16 63 57, rsvBytes b 40 63,
      (16, decide (fld b 16 56 0 % 8 ≠ 0)), (8, decide (kind ≠ 4 ∧ fieldAt b 32 8 ≠ 0)),
      (8, !ret && decide (reg ≠ 0 ∨ row ≠ 0 ∨ col ≠ 0)), (9, ret && !declared sl reg),
      (8, ret && declared sl reg && decide (regEsize sl reg ≠ 3))]
  if (firstBad base).isSome then { checks := base } else
  let us : List Use := if ret then [⟨reg, true, [⟨row, col * 8, (col + 1) * 8⟩], 9⟩] else []
  { checks := base ++ useChecks sl us, uses := us }

/-- Checks of TM.HINT (R176, R177). -/
def hintDec (b : Bytes) : Decoded :=
  { checks := headChecks b ++ [rsv b 8 7 2, (8, decide (fld b 8 1 0 = 3)), rsv b 9 7 1, rsvBytes b 10 15,
      rsv b 16 63 57, rsvBytes b 32 63, (16, decide (fld b 16 56 0 % 65536 ≠ 0)),
      (24, decide (fieldAt b 24 4 = 0 ∨ 65536 < fieldAt b 24 4)),
      (28, decide (fieldAt b 28 4 = 0 ∨ 2 ^ 31 < fieldAt b 28 4))] }

/-! ### Synchronisation (Tables 5.9, 5.10) -/

/-- Checks of NOP: header only. -/
def nopDec (b : Bytes) : Decoded := { checks := headChecks b ++ [rsvBytes b 8 63] }

/-- Checks of FENCE. -/
def fenceDec (b : Bytes) : Decoded :=
  { checks := headChecks b ++ [rsv b 8 7 2, (8, decide (1 < fld b 8 1 0)), rsvBytes b 9 15, rsvBytes b 16 63] }

/-- Checks of SEM.WAIT (signal = false) and SEM.SIGNAL: the reserved fields. -/
def semDec (signal : Bool) (b : Bytes) : Decoded :=
  { checks := headChecks b ++ [rsv b 8 15 13, rsv b 10 7 1, rsv b 11 7 0, rsvBytes b 20 63,
      (10, !signal && flg b 10 0), (16, signal && decide (fieldAt b 16 4 ≠ 0))] }

/-- Checks of MEM.WAIT (R114). -/
def memWaitDec (b : Bytes) : Decoded :=
  { checks := headChecks b ++ [rsv b 8 7 2, (8, decide (fld b 8 1 0 = 3)), rsvBytes b 9 15, rsv b 16 63 57,
      rsvBytes b 36 63, (16, decide (fld b 16 56 0 % 8 ≠ 0))] }

/-! ### Vector unit (Tables 5.6, 5.7) -/

structure LdStF where
  vr : Nat
  col : Bool
  grp : Nat
  mfmt : Nat
  reg : Nat
  lanes : Nat
  row0 : Nat
  col0 : Nat
  rstr : Nat
  deriving DecidableEq, Repr

/-- Fields of VU.LD and VU.ST. -/
def ldStF (b : Bytes) : LdStF :=
  { vr := fld b 8 4 0, col := flg b 9 7, grp := 2 ^ fld b 9 6 5, mfmt := fld b 9 4 0, reg := byteAt b 10,
    lanes := fld b 11 6 0, row0 := fieldAt b 12 2, col0 := fieldAt b 14 2, rstr := fieldAt b 16 2 }

/-- Row and element column of lane i of register g (R104). -/
def laneAt (f : LdStF) (g i : Nat) : Nat × Nat :=
  if f.col then (f.row0 + i * f.rstr, f.col0 + g) else (f.row0 + g * f.rstr, f.col0 + i)

/-- Registers per value: a C40 group is of pairs. -/
def fmtRegs (f : Option OutFmt) : Nat := if f = some (.flt fmtC40) then 2 else 1

/-- Checks and uses of VU.LD (store = false) and VU.ST (R104). -/
def ldStDec (store : Bool) (b : Bytes) (sl : Slot) : Decoded :=
  let f := ldStF b
  let o := outFmt f.mfmt
  let okf := match o with | none => false | some (.blk _) => false | some _ => true
  let base : List (Nat × Bool) :=
    headChecks b ++ [rsv b 8 7 5, (9, !okf), rsv b 11 7 7, rsvBytes b 18 63, (10, !declared sl f.reg),
      (11, decide (f.lanes = 0 ∨ 64 < f.lanes)), (16, decide (f.rstr = 0)),
      (8, decide (f.vr % (f.grp * fmtRegs o) ≠ 0 ∨ 32 < f.vr + f.grp * fmtRegs o))]
  if (firstBad base).isSome then { checks := base } else
  let z := match o with | some o => outSize o | none => 1
  let spans := (List.range f.grp).flatMap fun g =>
    if f.col then (List.range f.lanes).map fun i =>
      let p := laneAt f g i; (⟨p.1, p.2 * z, (p.2 + 1) * z⟩ : Span)
    else let p := laneAt f g 0; [⟨p.1, p.2 * z, (p.2 + f.lanes) * z⟩]
  let us : List Use := [⟨f.reg, store, spans, 9⟩]
  { checks := base ++ useChecks sl us, uses := us }

/-- DTYPE (R105). -/
inductive VType where
  | f32 | s32 | u32 | c40
  deriving DecidableEq, Repr

/-- DTYPE codes. -/
def vType (c : Nat) : VType := [VType.f32, .s32, .u32, .c40].getD c .f32

structure VopF where
  op : Nat
  ty : VType
  rnd : Nat
  grp : Nat
  bimm : Bool
  men : Bool
  vd : Nat
  va : Nat
  vb : Nat
  vc : Nat
  vm : Nat
  imm : Nat
  deriving DecidableEq, Repr

/-- Fields of VU.OP. -/
def vopF (b : Bytes) : VopF :=
  { op := byteAt b 8, ty := vType (fld b 9 7 6), rnd := fld b 9 5 4, grp := 2 ^ fld b 9 3 2, bimm := flg b 9 1,
    men := flg b 9 0, vd := fld b 10 4 0, va := fld b 11 4 0, vb := fld b 12 4 0, vc := fld b 13 4 0,
    vm := fld b 14 4 0, imm := fieldAt b 16 4 }

/-- Registers per value of a type. -/
def tyRegs (t : VType) : Nat := if t = .c40 then 2 else 1

/-- Types each operation allows (Table 5.7, R105, R121): C40 has the operations that R105 lists, and SEL, RSUM and RMAX, which
Table 5.7 gives it beside that list (log 45). -/
def vopAllows (op : Nat) (t : VType) : Bool :=
  match op with
  | 0x00 => true | 0x01 => true | 0x04 => true | 0x05 => true | 0x06 => true | 0x07 => true
  | 0x02 => t != .c40 | 0x03 => t != .c40
  | 0x08 => t == .f32 | 0x09 => t == .f32
  | 0x10 => t == .s32 || t == .u32 | 0x11 => t == .s32 || t == .u32 | 0x12 => t == .s32 || t == .u32
  | 0x13 => t == .s32 || t == .u32 | 0x14 => t == .s32 || t == .u32 | 0x15 => t == .s32 || t == .u32
  | 0x16 => t == .u32 | 0x17 => t == .u32
  | 0x20 => true | 0x21 => true | 0x22 => true
  | 0x28 => t != .u32 | 0x29 => t != .u32
  | 0x30 => t == .f32 | 0x31 => t == .f32 | 0x32 => t == .f32 | 0x33 => t == .f32 | 0x38 => t == .f32
  | 0x40 => t != .c40 | 0x41 => t != .c40 | 0x42 => t != .c40 | 0x43 => t != .c40
  | 0x48 => t == .f32
  | _ => false

/-- Is OP a listed operation? -/
def vopListed (op : Nat) : Bool :=
  vopAllows op .f32 || vopAllows op .u32

/-- Sorting-network operations and SAMPLE, which use the three groups VA, VB, VC in place. -/
def vopNet (op : Nat) : Bool := decide (0x40 ≤ op ∧ op ≤ 0x43) || decide (op = 0x48)

/-- Operations that read B, and that read C. -/
def vopReadsB (op : Nat) : Bool :=
  [0x00, 0x01, 0x02, 0x03, 0x04, 0x05, 0x08, 0x10, 0x11, 0x12, 0x13, 0x14, 0x15, 0x17, 0x21, 0x22].contains op
def vopReadsC (op : Nat) : Bool := op = 0x03 || op = 0x22

/-- Type of the A operand and of the result. -/
def vopSrcTy (f : VopF) : VType := if f.op = 0x20 then vType (f.imm % 4) else f.ty
def vopDstTy (f : VopF) : VType := if f.op = 0x21 then .u32 else f.ty

/-- Do two register ranges share a register? -/
def regsMeet (a n b m : Nat) : Bool := decide (a < b + m) && decide (b < a + n)

/-- IMM checks of the network operations and of SAMPLE (Table 6.2, R121, R297). -/
def netImmBad (op grp imm : Nat) : Bool :=
  let k := bitsOf imm 17 8
  decide (bitsOf imm 31 18 ≠ 0 ∨ bitsOf imm 7 3 ≠ 0) ||
  decide (if op = 0x42 then k = 0 ∨ 64 * grp < k else k ≠ 0) ||
  (bitOf imm 1 && decide (op = 0x40 ∨ op = 0x43)) || (bitOf imm 2 && decide (op ≠ 0x43))

/-- Checks of VU.OP (R105, R121, R297). -/
def vopDec (b : Bytes) : Decoded :=
  let f := vopF b
  let net := vopNet f.op
  let ra := f.grp * tyRegs (vopSrcTy f)
  let rb := f.grp * tyRegs f.ty
  let rc := if f.op = 0x22 then f.grp else f.grp * tyRegs f.ty
  let rd := f.grp * tyRegs (vopDstTy f)
  { checks := headChecks b ++ [(8, !vopListed f.op), (8, !vopAllows f.op f.ty), (9, decide (f.rnd = 3)),
      (9, decide (f.ty ≠ .f32 ∧ f.rnd ≠ 0)), rsv b 10 7 5, rsv b 11 7 5, rsv b 12 7 5, rsv b 13 7 5, rsv b 14 7 5,
      rsv b 15 7 0, rsvBytes b 20 63,
      (9, decide (f.vd % rd ≠ 0)), (9, decide (f.va % ra ≠ 0)),
      (9, (vopReadsB f.op && !f.bimm || net) && decide (f.vb % rb ≠ 0)),
      (9, (vopReadsC f.op || net) && decide (f.vc % rc ≠ 0)),
      (16, decide (f.op = 0x21 ∧ 5 < f.imm % 8)),
      (9, net && (decide (f.rnd ≠ 0) || f.bimm || f.men)), (10, net && decide (f.vd ≠ f.va)),
      (8, net && netImmBad f.op f.grp f.imm),
      (8, decide (f.op = 0x41 ∧ f.grp < 2)),
      (9, net && (regsMeet f.va f.grp f.vb f.grp || regsMeet f.va f.grp f.vc f.grp || regsMeet f.vb f.grp f.vc f.grp
        || regsMeet f.vm 1 f.va f.grp || regsMeet f.vm 1 f.vb f.grp || regsMeet f.vm 1 f.vc f.grp))] }

/-- Decode a command against its job-core's slot. -/
def cmdDec (b : Bytes) (sl : Slot) : Decoded :=
  match cmdOp b with
  | 0x00 => nopDec b
  | 0x02 => fenceDec b
  | 0x03 => semDec false b
  | 0x04 => semDec true b
  | 0x05 => memWaitDec b
  | 0x06 => atomicDec b sl
  | 0x08 => spadRegionDec b sl
  | 0x09 => spadSegmentDec b sl
  | 0x10 => passDec b sl
  | 0x11 => drainDec b sl
  | 0x20 => moveDec b sl
  | 0x21 => gatherDec false b sl
  | 0x22 => gatherDec true b sl
  | 0x23 => hintDec b
  | 0x30 => ldStDec false b sl
  | 0x31 => ldStDec true b sl
  | 0x32 => vopDec b
  | _ => { checks := [(0, true)] }

end Sys2Proof.Machine
end

