-- ==== Sys2Proof/Machine/Governor.lean ====
section
/-! DEFINITION. The issue governor's cost of an array pass and its hold at issue (R464). -/

namespace Sys2Proof.Machine

/-- The weights a pass of a job would leave active, as a tag. -/
def passTag (jobid : Nat) (f : PassF) : WTag :=
  { jobid := jobid, wreg := f.wreg, xreg := f.xreg, wrow0 := f.wrow0, wfmt := f.wfmt, thin := f.thin, nwrow := nwrow f }

/-- Does a tag let a pass of a job keep the active weights (R45)? -/
def tagKeeps (w : WTag) (jobid : Nat) (f : PassF) : Bool :=
  f.keep && decide (w.jobid = jobid ∧ w.wreg = f.wreg ∧ w.xreg = f.xreg ∧ w.wrow0 = f.wrow0 ∧ w.wfmt = f.wfmt
    ∧ w.thin = f.thin ∧ nwrow f ≤ w.nwrow)

/-- The tag that will be active when a pass issued now comes to its turn: of the passes queued on the core and still
waiting, each that keeps leaves the tag before it, each that loads leaves its own. -/
def tagAhead (k : Core) : Option WTag :=
  (k.passes.filter fun p => p.start = none).foldl (fun w p =>
    let f := passF p.cmd.bytes
    let j := match tabFind k.slots p.slot with | some sl => sl.jobid | none => 0
    match w with
    | some t => if tagKeeps t j f then some t else some (passTag j f)
    | none => some (passTag j f)) k.wtag

/-- Cost of an ARRAY.PASS in array cycles: NVEC x Ba untrimmed, and 512 if it loads weights (R464). -/
def passCost (k : Core) (jobid : Nat) (b : Bytes) : Nat :=
  let f := passF b
  let keeps : Bool := match tagAhead k with | some w => tagKeeps w jobid f | none => false
  f.nvec * actWidth f.acode + (if keeps then 0 else 512)

/-- Does the governor let a command of core c issue (R464)?  Only an ARRAY.PASS can be held. -/
def govAllows (s : State) (c : Nat) (k : Core) (jobid : Nat) (b : Bytes) : Bool :=
  let d := dieOf c
  let used := s.power.dieUsed.getD d 0
  decide (cmdOp b ≠ 0x10) || decide (used = 0) || decide (used + passCost k jobid b ≤ s.power.dieAllow.getD d 0)

/-- An issued pass adds its cost to its die's (R464). -/
def govIssue (s : State) (c cost : Nat) : State :=
  { s with power := { s.power with dieUsed := s.power.dieUsed.set (dieOf c) (s.power.dieUsed.getD (dieOf c) 0 + cost) } }

end Sys2Proof.Machine
end

