-- ==== Sys2Proof/Machine/Stream.lean ====
section
/-! DEFINITION. Issue: queues, shares, eligibility, arbitration and refusal (chapter 5, R90 to R97). -/

namespace Sys2Proof.Machine

/-- Is the job-core in the slot RESIDENT (Table 8.1)? -/
def slotResident (s : State) (sl : Slot) : Bool :=
  match jobAt s sl.jobid with
  | none => false
  | some j => match tabFind j.jcores sl.jcore with
    | none => false
    | some jc => jc.st = .resident && sl.release = none

/-- Priority of the job in a slot; 8 when there is none. -/
def slotPrio (s : State) (sl : Slot) : Nat := match jobAt s sl.jobid with | some j => j.prio | none => 8

/-- A job's queue share (R92). -/
def queueShare (k : Core) : Nat := if nResident k = 0 then 256 else 256 / nResident k

/-- The head command of a job-core's stream, of its running plot (R106: the next plot waits for DONE). -/
def slotHead (sl : Slot) : Option QCmd :=
  match sl.ctx.run with
  | none => none
  | some r => if r.issued < r.fetched then sl.ctx.queue.head? else none

/-- Scoreboard ranges of a command: (released with the weights, released at the end).  A region that serves both ways gives one
range, released at the later point (R81, R84). -/
def cmdRanges (b : Bytes) (sl : Slot) : List (Bool × Nat × Nat) × List (Bool × Nat × Nat) :=
  let d := cmdDec b sl
  let both (u : Use) : Bool := d.uses.any fun v => decide (v.reg = u.reg) && v.write == u.write
  if cmdOp b = 0x09 then ([], segRange b)
  else (useRanges sl.ctx.regions (d.early.filter fun u => !both u), useRanges sl.ctx.regions (d.uses ++ d.early.filter both))

/-- Does no unit of the core hold a command of the slot? -/
def unitsIdle (k : Core) (i : Nat) : Bool :=
  k.passes.all (fun p => p.slot ≠ i) && k.drains.all (fun d => d.slot ≠ i) && k.tm.all (fun t => t.slot ≠ i)
    && k.vu.all (fun v => v.slot ≠ i) && k.spadOps.all (fun o => o.slot ≠ i)

/-- Does a wait or fence of the slot still hold later commands (R93, R113)?  A FENCE is met when every earlier command
has completed; tile-mover commands complete only when acknowledged, which is the ATLAS condition too. -/
def waitHolds (k : Core) (i : Nat) (sl : Slot) : Bool :=
  match sl.ctx.wait with
  | none => false
  | some (.fence _ _) => !unitsIdle k i
  | some _ => true

/-- Does a SEM.SIGNAL with RELEASE still wait for earlier commands (R111)? -/
def releaseWaits (k : Core) (i : Nat) (b : Bytes) : Bool :=
  decide (cmdOp b = 0x04) && flg b 10 0 && !unitsIdle k i

/-- How a head command would fare at issue. -/
inductive Verdict where
  /-- Refused: status and detail (R95). -/
  | refuse (status detail : Nat)
  /-- Held: not eligible (R93). -/
  | held
  /-- It can issue. -/
  | go
  deriving DecidableEq, Repr

/-- Can the unit of an opcode accept a command (Table 5.3)? -/
def unitFree (k : Core) (op : Nat) : Bool :=
  if op = 0x06 ∨ (0x20 ≤ op ∧ op ≤ 0x23) then decide (k.tm.length < 16)
  else if 0x30 ≤ op ∧ op ≤ 0x32 then decide (k.vu.length < 8)
  else if op = 0x09 then decide (k.spadOps.length < 4)
  else true

/-- The verdict on a command of a slot: BADPARAM under R95, then R93's conditions; a command that could issue and touches an OFF
segment is refused with SCRATCH_OFF (R88), while one behind a WAKING or CLOSING segment or a scoreboard entry waits (R82). -/
def verdict (k : Core) (i : Nat) (sl : Slot) (q : QCmd) : Verdict :=
  let d := cmdDec q.bytes sl
  if sl.ctx.halt ≠ none ∨ waitHolds k i sl then .held
  else match firstBad d.checks with
  | some o => .refuse stBadParam o
  | none =>
    let r := cmdRanges q.bytes sl
    if segBusy k sl (d.early ++ d.uses) || sbHeld k i (r.1 ++ r.2) || !unitFree k (cmdOp q.bytes)
        || releaseWaits k i q.bytes then .held
    else match offSeg k sl (d.early ++ d.uses) with
      | some seg => .refuse stScratchOff seg
      | none => .go

/-- Is the head of a slot of core c eligible to issue but for the governor (R93)?  A refused command issues and is
refused. -/
def eligibleBut (s : State) (k : Core) (i : Nat) (sl : Slot) : Bool :=
  slotResident s sl &&
  match slotHead sl with
  | none => false
  | some q => verdict k i sl q ≠ .held

/-- Cost of an ARRAY.PASS at the head of a slot that waits at the governor alone; 0 where none does (R464). -/
def govHeld (s : State) (c : Nat) (k : Core) (i : Nat) (sl : Slot) : Nat :=
  match slotHead sl with
  | none => 0
  | some q =>
    if eligibleBut s k i sl && verdict k i sl q = .go && !govAllows s c k sl.jobid q.bytes
    then passCost k sl.jobid q.bytes else 0

/-- Is the head of a slot of core c eligible to issue (R93, R464)? -/
def eligible (s : State) (c : Nat) (k : Core) (i : Nat) (sl : Slot) : Bool :=
  eligibleBut s k i sl && decide (govHeld s c k i sl = 0)

/-- Slots in round-robin order after the slot served last (R93). -/
def rrOrder (k : Core) : List Nat := (List.range 8).map fun d => (k.rrSlot + 1 + d) % 8

/-- Best of the eligible slots: lowest priority number, then round-robin order (R93). -/
def pickSlot (s : State) (c : Nat) (k : Core) : List Nat → Option Nat
  | [] => none
  | i :: t =>
    match tabFind k.slots i with
    | none => pickSlot s c k t
    | some sl =>
      if eligible s c k i sl then
        match pickSlot s c k t with
        | none => some i
        | some j => match tabFind k.slots j with
          | some sj => if slotPrio s sj < slotPrio s sl then some j else some i
          | none => some i
      else pickSlot s c k t

/-- A core as issue sees it: the scoreboard entries whose time of release has come are gone (R84). -/
def coreNow (s : State) (c : Nat) : Core := sbSettle (coreAt s c) (cycNow s c)

/-- The slot whose head the core issues next. -/
def nextSlot (s : State) (c : Nat) : Option Nat := pickSlot s c (coreNow s c) (rrOrder (coreNow s c))

/-- The head of a slot's stream leaves the queue: it has issued. -/
def popHead (s : State) (c i : Nat) : State :=
  countEv (modCore (modCtx s c i fun x => { x with
      queue := x.queue.drop 1
      wait := none
      run := x.run.map fun r => { r with issued := r.issued + 1, running := true } }) c
    fun k => { k with rrSlot := i, nextId := k.nextId + 1 }) c 0x0005
    (match slotAt s c i with | some sl => jobTenant sl.jobid | none => 0)

/-- Post the command-fault record of a halt (Table 5.8). -/
def postCommandFault (s : State) (c i : Nat) (sl : Slot) (op cmdidx status tag detail : Nat) : State :=
  let plotid := match sl.ctx.run with | some r => r.plot.plotid | none => 0
  postFault s (jobTenant sl.jobid)
    { bytes := commandRecord (merAt s c) c i sl.jobid plotid cmdidx op status tag detail,
      holder := .core c i sl.jobid }

/-- Halt a job-core on its core with a command-fault record (R95). -/
def haltWith (s : State) (c i : Nat) (sl : Slot) (h : HaltKind) (op cmdidx status tag detail : Nat) : State :=
  postCommandFault (modCtx s c i fun x => { x with halt := some h }) c i sl op cmdidx status tag detail

/-- Halt the job-core in a slot over a command. -/
def haltCmd (s : State) (c i : Nat) (q : QCmd) (status detail : Nat) : State :=
  match slotAt s c i with
  | none => s
  | some sl => haltWith s c i sl (.refused q) (cmdOp q.bytes) q.idx status (cmdTag q.bytes) detail

/-- Owner numbers of a command's scoreboard entries: those released at its end, and those of its weights. -/
def sbOwner (id : Nat) : Nat := 2 * id
def sbOwnerEarly (id : Nat) : Nat := 2 * id + 1

/-- Issue the head of slot i of core c when it is the command the row names (`sel` of its bytes) and the issue stage
picks it: refused (R95), or issued with its scoreboard entries taken and `body` applied. -/
def issueCmd (s : State) (c i : Nat) (sel : Bytes → Bool) (body : State → Slot → QCmd → Nat → State) : State :=
  if nextSlot s c ≠ some i then s else
  match slotAt s c i with
  | none => s
  | some sl =>
    match slotHead sl with
    | none => s
    | some q =>
      if !sel q.bytes then s else
      let k := coreNow s c
      let s1 := popHead (setCore s c k) c i
      match verdict k i sl q with
      | .held => s
      | .refuse st d =>
        haltCmd s1 c i q st (if cmdOp q.bytes = 0x03 ∨ cmdOp q.bytes = 0x04 then fld q.bytes 8 12 0 else d)
      | .go =>
        let r := cmdRanges q.bytes sl
        let s2 := modCore s1 c fun k1 => sbTake (sbTake k1 i (sbOwner k.nextId) r.2) i (sbOwnerEarly k.nextId) r.1
        body s2 sl q k.nextId

/-- Numbers of the commands of a slot that its units hold. -/
def unitIds (k : Core) (i : Nat) : List Nat :=
  (k.passes.filter (fun p => p.slot = i)).map (·.id) ++ (k.drains.filter (fun d => d.slot = i)).map (·.id)
    ++ (k.tm.filter (fun t => t.slot = i)).map (·.id) ++ (k.vu.filter (fun v => v.slot = i)).map (·.id)
    ++ (k.spadOps.filter (fun o => o.slot = i)).map (·.id)

/-- The first parked command of a slot that a fault other than MISS struck. -/
def faultedTm (k : Core) (i : Nat) : Option TmCmd :=
  k.tm.find? fun t => decide (t.slot = i) && match t.stage with | .fault .. => true | _ => false

/-- A job halts over a faulted command once every earlier command has completed; one record is posted (R184).  A fault at the
fetch of the next plot's command waits until that plot is the running one, after the DONE of the plot before it.  The record of a
fetch fault names no command: TAG and OPCODE are 0 (DESIGN CHOICE, log 45: Table 7.8 does not say). -/
def settleHalt (s : State) (c i : Nat) : State :=
  let k := coreAt s c
  match slotAt s c i, faultedTm k i with
  | some sl, some t =>
    if sl.ctx.halt ≠ none ∨ (unitIds k i).any (fun n => n < t.id) then s else
    match t.stage with
    | .fault kind cause acc page =>
      postFault (modCtx s c i fun x => { x with halt := some (.parked t.id) }) (jobTenant sl.jobid)
        { bytes := atlasRecord (merAt s c) c kind i sl.jobid acc page (cmdTag t.cmd.bytes) t.cmd.idx
            (cmdOp t.cmd.bytes) cause, holder := .core c i sl.jobid }
    | _ => s
  | some sl, none =>
    match sl.ctx.fetchFault, sl.ctx.run with
    | some (kind, cause, page), some r =>
      if sl.ctx.halt ≠ none ∨ r.plot.ncmd ≤ r.fetched ∨ r.issued < r.fetched ∨ !unitsIdle k i ∨ waitHolds k i sl then s else
      postFault (modCtx s c i fun x => { x with halt := some .fetch, fetchFault := none }) (jobTenant sl.jobid)
        { bytes := atlasRecord (merAt s c) c kind i sl.jobid 2 page 0 r.fetched 0 cause, holder := .core c i sl.jobid }
    | _, _ => s
  | _, _ => s

/-- An owner gives up its entries now. -/
def sbFree (k : Core) (o : Nat) : Core := { sbRelease k o with sbDue := tabDel k.sbDue o }

/-- A unit's command has completed: its entries are released (R84), a halt that waited for it may fall due, and the core's clock may
take a new rate (R20). -/
def releaseCmd (s : State) (c id : Nat) : State :=
  takeRate ((List.range 8).foldl (fun st i => settleHalt st c i)
    (modCore s c fun k => sbFree (sbFree k (sbOwner id)) (sbOwnerEarly id))) c

/-- Does the opcode and, where one opcode has several, the operation code select a row of its own? -/
def cmdListed (b : Bytes) : Bool :=
  match cmdOp b with
  | 0x02 => decide (fld b 8 1 0 ≤ 1)
  | 0x23 => decide (fld b 8 1 0 ≤ 2)
  | 0x32 => vopListed (byteAt b 8)
  | op => [0x03, 0x04, 0x05, 0x06, 0x08, 0x09, 0x10, 0x11, 0x20, 0x21, 0x22, 0x30, 0x31].contains op

end Sys2Proof.Machine
end

