-- ==== Sys2Proof/Machine/ArrayUnit.lean ====
section
/-! DEFINITION. The array, its accumulator memory and the drain path (chapters 2 and 3). -/

namespace Sys2Proof.Machine

/-! ### Operand values -/

/-- Weight of column c in a weight row (R35, Table 2.7, Table 3.1). -/
def wVal (fmt : Nat) (row : Bytes) (c : Nat) : Int :=
  match fmt with
  | 0 => if bitOf (byteAt row (c / 8)) (c % 8) then -1 else 1
  | 1 => sext 2 (bitsOf (byteAt row (c / 4)) (2 * (c % 4) + 1) (2 * (c % 4)))
  | 2 => sext 4 (bitsOf (byteAt row (c / 2)) (4 * (c % 2) + 3) (4 * (c % 2)))
  | 3 => sext 8 (byteAt row c)
  | 4 => byteAt row c
  | _ => 256 * sext 8 (byteAt row c)

/-- Thinned index of column c in an index row (R37). -/
def xIdx (row : Bytes) (c : Nat) : Nat := bitsOf (byteAt row (c / 4)) (2 * (c % 4) + 1) (2 * (c % 4))

/-- The value of an activation from its raw element: its low Ba bits (R51). -/
def actVal (f : PassF) (raw : Nat) : Int :=
  if f.asigned then sext (actWidth f.acode) raw else (raw % 2 ^ actWidth f.acode : Nat)

/-- Element e of vector v as the feeder presents it (R44, R49); 0 past KACT. -/
def actElem (k : Core) (sl : Slot) (r : Region) (f : PassF) (v e : Nat) : Int :=
  if f.kact ≤ e then 0
  else if f.conv then
    match convPos f v e with
    | none => actVal f f.padval
    | some p => actVal f (spadElem k sl r (actSize f) p.1 p.2)
  else actVal f (spadElem k sl r (actSize f) (f.arow0 + v) (f.acol0 + e))

/-- The vector's elements in use. -/
def actVec (k : Core) (sl : Slot) (r : Region) (f : PassF) (v : Nat) : List Int :=
  (List.range f.kact).map (actElem k sl r f v)

/-- Bits needed by a value (R38). -/
def bitsFor (signed : Bool) (x : Int) : Nat :=
  if signed then (if x < 0 then (if x.natAbs ≤ 1 then 1 else Nat.log2 (x.natAbs - 1) + 2)
    else if x = 0 then 1 else Nat.log2 x.natAbs + 2)
  else if x ≤ 0 then 1 else Nat.log2 x.natAbs + 1

/-- Trimmed width of the trim block of vector v, of the vectors a pass streams (R38). -/
def trimWidth (acts : List (List Int)) (f : PassF) (v : Nat) : Nat :=
  if f.trim then
    ((acts.drop (v / 32 * 32)).take 32).foldl (fun w xs => xs.foldl (fun w x => max w (bitsFor f.asigned x)) w) 1
  else actWidth f.acode

/-- Input cycles of the vectors before v (R39). -/
def inputBefore (acts : List (List Int)) (f : PassF) (v : Nat) : Nat :=
  ((List.range v).map (trimWidth acts f)).sum

/-! ### Block products (R30, R31, R36) -/

/-- Contribution of vector element e to column c (R31, R36): the planes recombined, Σ σp 2^p times the weight. -/
def product (w : WTag) (f : PassF) (xs : List Int) (e c : Nat) : Int :=
  if f.thin then
    let g := e / 4
    let pick (row : Nat) : Int :=
      if xIdx (w.xrows.getD row []) c = e % 4 then wVal f.wfmt (w.wrows.getD row []) c * xs.getD e 0 else 0
    pick (2 * g) + pick (2 * g + 1)
  else wVal f.wfmt (w.wrows.getD e []) c * xs.getD e 0

/-- Exact product of scale block b: vector elements 32b to 32b + 31 (R30, R56). -/
def blockProduct (w : WTag) (f : PassF) (xs : List Int) (b c : Nat) : Int :=
  ((List.range 32).map fun i => if 32 * b + i < f.kact then product w f xs (32 * b + i) c else 0).sum

/-- Exponent s of block b of vector v in column c of a pass (R56): 127 stands for activations without block exponents. -/
def blockExp (p : Pass) (v b c : Nat) : Int :=
  let ew := ((p.wexps.getD b []).getD c 0).toNat
  let ea := match p.aexps[v]? with | some row => (row.getD b 0).toNat | none => 127
  (ew : Int) + ea - 254

/-! ### ARRAY.PASS -/

/-- Accumulator entries of a pass or a drain, absolute: first and count. -/
def passEntries (sl : Slot) (f : PassF) : Nat × Nat := (sl.accBase + f.accbase, f.nvec)
def drainEntries (sl : Slot) (f : DrainF) : Nat × Nat := (sl.accBase + f.entry0, f.nent)

/-- Do a pass's entries and a drain's overlap? -/
def entriesClash (sl : Slot) (p d : Bytes) : Bool :=
  let e := passEntries sl (passF p)
  let g := drainEntries sl (drainF d)
  regsMeet e.1 e.2 g.1 g.2

/-- Core cycle before which a pass issued now writes no entry: the drains before it that are reading its entries (R42). -/
def drainHold (k : Core) (i : Nat) (sl : Slot) (b : Bytes) : Nat :=
  (k.drains.filter fun d => decide (d.slot = i) && d.started && entriesClash sl b d.cmd.bytes).foldl (fun n d => max n (d.readEnd + 1)) 0

/-- A pass joins the array.  One that will load nothing gives up its weight entries at issue (R84, R45). -/
def execArrayPass (c slot : Nat) (s : State) : Res :=
  .next (issueCmd s c slot (fun b => cmdOp b = 0x10) fun s1 sl q id =>
    let k := coreAt s1 c
    let keeps : Bool := match tagAhead k with | some w => tagKeeps w sl.jobid (passF q.bytes) | none => false
    modCore (govIssue s1 c (passCost k sl.jobid q.bytes)) c fun k =>
      { (if keeps then sbRelease k (sbOwnerEarly id) else k) with passes := k.passes ++
        [{ id := id, slot := slot, cmd := q, issueCyc := cycNow s1 c, regs := sl.ctx.regions, hold := drainHold k slot sl q.bytes }] })

def execArrayDrain (c slot : Nat) (s : State) : Res :=
  .next (issueCmd s c slot (fun b => cmdOp b = 0x11) fun s1 sl q id =>
    modCore s1 c fun k => { k with drains := k.drains ++
      [{ id := id, slot := slot, cmd := q, regs := sl.ctx.regions }] })

/-- Does the tag let a pass keep the active weights (R45)? -/
def keepsWeights (k : Core) (jobid : Nat) (f : PassF) : Bool :=
  match k.wtag with
  | none => false
  | some w => tagKeeps w jobid f

/-- The weights a pass loads (R33, R35, R37). -/
def loadWeights (k : Core) (sl : Slot) (regs : Tab Region) (f : PassF) : WTag :=
  let row (reg n r : Nat) : Bytes := match tabFind regs reg with
    | some rg => spadBytes k sl rg (f.wrow0 + r) 0 n
    | none => []
  { jobid := sl.jobid, wreg := f.wreg, xreg := f.xreg, wrow0 := f.wrow0, wfmt := f.wfmt, thin := f.thin,
    nwrow := nwrow f, wrows := (List.range (nwrow f)).map (row f.wreg (wRowBytes f.wfmt)),
    xrows := if f.thin then (List.range (nwrow f)).map (row f.xreg 128) else [] }

/-- Does an earlier drain of the same job that has not read its entries stand in a pass's way (R42)? -/
def drainBlocks (k : Core) (sl : Slot) (p : Pass) : Bool :=
  k.drains.any fun d => decide (d.slot = p.slot) && decide (d.id < p.id) && !d.started && entriesClash sl p.cmd.bytes d.cmd.bytes

/-- First cycle at which a pass's first plane can enter: R34's and R39's conditions, and its first write, 513 cycles after the
planes of vector 0, not before the drains that it waits for have read (R42). -/
def passStart (k : Core) (p : Pass) (loads : Bool) : Nat :=
  let f := passF p.cmd.bytes
  let a := max (max k.rowFree p.issueCyc) (p.hold - (trimWidth p.acts f 0 + 513))
  let b := if loads then max (max a (p.issueCyc + 512)) (match k.lastShadow with | some t => t + 512 | none => 0) else a
  if f.trim then max b (p.issueCyc + 8) else b

/-- A pass with what its feeder reads: its activations and scale exponents (R44, R49, R56). -/
def feedPass (k : Core) (sl : Slot) (p : Pass) : Pass :=
  let f := passF p.cmd.bytes
  let rg := tabGet p.regs f.sreg {}
  { p with
    acts := (List.range f.nvec).map (actVec k sl (tabGet p.regs f.areg {}) f)
    wexps := if f.scaled then (List.range (nBlocks f)).map fun b => spadBytes k sl rg (f.swrow + b) 0 512 else []
    aexps := if f.scaled ∧ f.sarow ≠ 0 then (List.range f.nvec).map fun v => spadBytes k sl rg (f.sarow + v) 0 (nBlocks f) else [] }

/-- Core cycles at which a pass that starts at t gives up its entries (R84): weights and indices after column 511's last push;
activations and scales when its last vector is in the feed buffer.  The feeder reads up to 64 vectors ahead; the model takes the
last moment, when that vector begins to stream (DESIGN CHOICE, log 44). -/
def passFrees (p : Pass) (t : Nat) : Nat × Nat :=
  let f := passF p.cmd.bytes
  (t + 511, t + max 511 (inputBefore p.acts f (f.nvec - 1)))

/-- The first plane of the next pass enters the array: weights load or are kept, the tag follows (R33, R34, R45).  The model reads
what the feeder reads in one go here: until its release the scoreboard lets nothing change it. -/
def execPassFirstPlane (c : Nat) (s : State) : Res :=
  let k := coreAt s c
  match k.passes.find? (fun p => p.start = none) with
  | none => .next s
  | some p0 =>
    match slotAt s c p0.slot with
    | none => .next s
    | some sl =>
      if drainBlocks k sl p0 then .next s else
      let p := feedPass k sl p0
      let f := passF p.cmd.bytes
      let keep := keepsWeights k sl.jobid f
      let w := if keep then k.wtag.getD {} else loadWeights k sl p.regs f
      let t := passStart k p (!keep)
      let free := passFrees p t
      .next (advanceToCyc (setCore s c { k with
        wtag := some w
        passes := k.passes.map fun x => if x.id = p.id then { p with start := some t, weights := some w } else x
        rowFree := t + inputBefore p.acts f f.nvec
        lastShadow := if keep then k.lastShadow else some t
        sbDue := tabPut (tabPut k.sbDue (sbOwnerEarly p.id) free.1) (sbOwner p.id) free.2 }) c t)

/-! ### ACCUMULATOR_WRITE (R31, R41, R58 to R61) -/

/-- Update of column c by vector v of a pass. -/
def columnUpd (p : Pass) (f : PassF) (xs : List Int) (v c : Nat) (old : AccVal) : AccUpd :=
  let w := p.weights.getD {}
  let prods := (List.range (nBlocks f)).map fun b => blockProduct w f xs b c
  if f.scaled then
    accScaled f.set old.x old.a ((enumFrom 0 prods).map fun q => (q.2, blockExp p v q.1 c))
  else accInteger f.set old.x prods.sum

/-- Key of an accumulator value. -/
def accKey (entry col : Nat) : Nat := entry * 512 + col

/-- Count window losses on the core and the job (R61, R70). -/
def addLoss (s : State) (c slot n : Nat) : State :=
  if n = 0 then s else
  let s1 := modCore s c fun k =>
    let w := min 0xFFFFFFFF (k.wloss + n)
    { k with wloss := w, nstat := if w = 0xFFFFFFFF then k.nstat ||| 4 else k.nstat }
  let s2 := modCtx s1 c slot fun x =>
    { x with loss := min 0xFFFFFFFF (x.loss + n)
             nstat := if (coreAt s1 c).wloss = 0xFFFFFFFF then x.nstat ||| 4 else x.nstat }
  let t := match slotAt s c slot with | some sl => jobTenant sl.jobid | none => 0
  (List.range n).foldl (fun st _ => countEv st c 0x000D t) s2

/-- Set AOVF (bit 0) or DSAT (bit 1) of the core and the job. -/
def setNstat (s : State) (c slot : Nat) (bit : BitVec 3) (on : Bool) : State :=
  if on then modCtx (modCore s c fun k => { k with nstat := k.nstat ||| bit }) c slot
    fun x => { x with nstat := x.nstat ||| bit }
  else s

/-- The oldest started pass writes its next vector into every column of its entry; after the last vector it is
complete and its entries are released. -/
def execAccumulatorWrite (c : Nat) (s : State) : Res :=
  let k := coreAt s c
  match k.passes.find? (fun p => p.start ≠ none) with
  | none => .next s
  | some p =>
    match slotAt s c p.slot with
    | none => .next s
    | some sl =>
      let f := passF p.cmd.bytes
      let v := p.nextVec
      let xs := p.acts.getD v []
      let entry := sl.accBase + f.accbase + v
      let ups := (List.range 512).map fun j =>
        (j, columnUpd p f xs v j (tabGet k.acc (accKey entry j) {}))
      let acc := ups.foldl (fun m q => tabPut m (accKey entry q.1) { x := q.2.x, a := q.2.a }) k.acc
      let last := decide (f.nvec ≤ v + 1)
      let passes := if last then k.passes.filter (fun x => x.id ≠ p.id)
        else k.passes.map fun x => if x.id = p.id then { x with nextVec := v + 1 } else x
      let t := p.start.getD 0 + inputBefore p.acts f (v + 1) + 513 + 511
      let s1 := setCore s c { k with acc := acc, passes := passes }
      let s2 := setNstat s1 c p.slot 1 (ups.any fun q => q.2.aovf)
      let s3 := addLoss s2 c p.slot (ups.filter fun q => q.2.lossy).length
      let s4 := advanceToCyc s3 c t
      .next (if last then releaseCmd s4 c p.id else s4)

/-! ### Drains (R42, R43, R62 to R66) -/

/-- May a drain start (R42)?  Every earlier pass of its job on its entries has finished; the drains before it have
read their last value. -/
def drainReady (k : Core) (sl : Slot) (d : Drain) : Bool :=
  let e := drainEntries sl (drainF d.cmd.bytes)
  k.passes.all (fun p => decide (p.slot ≠ d.slot) || decide (d.id < p.id) ||
    !(let g := passEntries sl (passF p.cmd.bytes); regsMeet e.1 e.2 g.1 g.2))

/-- The value in entry e, column j of a drain. -/
def drainVal (k : Core) (sl : Slot) (f : DrainF) (e j : Nat) : AccVal :=
  tabGet k.acc (accKey (sl.accBase + f.entry0 + e) (f.col0 + j)) {}

/-- Value of destination row r, element m: row and column swap under TRANS (R43). -/
def drainAt (k : Core) (sl : Slot) (f : DrainF) (r m : Nat) : AccVal :=
  if f.trans then drainVal k sl f m r else drainVal k sl f r m

/-- Bytes a drain writes, and DSAT. -/
def drainOut (k : Core) (sl : Slot) (regs : Tab Region) (f : DrainF) : List (Nat × Byte) × Bool :=
  let d := tabGet regs f.dreg {}
  match outFmt f.outfmt with
  | none => ([], false)
  | some (.blk mb) =>
    let er := tabGet regs f.ereg {}
    let rows := (List.range (drainRows f)).map fun r => (List.range (ceilDiv (drainCols f) 32)).map fun b =>
      let vals := (List.range (min 32 (drainCols f - 32 * b))).map fun i =>
        let v := drainAt k sl f r (32 * b + i); (v.x.toInt, v.a)
      let o := blkConv mb vals
      (spadCells sl er (f.erow0 + r) b (leBytes 1 o.1)
        ++ ((enumFrom 0 o.2.1).flatMap fun q =>
            spadCells sl d (f.drow0 + r) (f.dcol0 + 32 * b + q.1) (leBytes 1 (twos 8 q.2))), o.2.2)
    (rows.flatMap fun bs => bs.flatMap fun q => q.1, rows.any fun bs => bs.any fun q => q.2)
  | some o =>
    let rows := (List.range (drainRows f)).map fun r => (List.range (drainCols f)).map fun m =>
      let v := drainAt k sl f r m
      let w := drainConv o ⟨v.x, v.a, false, false⟩
      (spadCells sl d (f.drow0 + r) ((f.dcol0 + m) * outSize o) (leBytes (outSize o) w.1), w.2)
    (rows.flatMap fun ms => ms.flatMap fun q => q.1, rows.any fun ms => ms.any fun q => q.2)

/-- Accumulator after CLEAR: the entries read are in the reset state (R43, R57). -/
def drainClear (sl : Slot) (f : DrainF) (acc : Tab AccVal) : Tab AccVal :=
  if f.clear then (List.range f.nent).foldl (fun m e => (List.range f.ncol).foldl (fun m j =>
    tabPut m (accKey (sl.accBase + f.entry0 + e) (f.col0 + j)) {}) m) acc
  else acc

/-- Cycles a drain reads for: 128 values per cycle, entry by entry (R42). -/
def drainCycles (f : DrainF) : Nat := f.nent * ceilDiv f.ncol 128

/-- The next drain reads and converts its entries, after the drain before it; passes that wait for their entries wait for its last
value (R42). -/
def execDrainStart (c : Nat) (s : State) : Res :=
  let k := coreAt s c
  match k.drains.find? (fun d => !d.started) with
  | none => .next s
  | some d =>
    match slotAt s c d.slot with
    | none => .next s
    | some sl =>
      if !drainReady k sl d then .next s else
      let f := drainF d.cmd.bytes
      let o := drainOut k sl d.regs f
      let t := max (cycNow s c) k.drainFree
      let done := t + drainCycles f
      let s1 := setCore s c { k with
        acc := drainClear sl f k.acc
        drainFree := done
        passes := k.passes.map fun p => if p.slot = d.slot ∧ d.id < p.id ∧ entriesClash sl p.cmd.bytes d.cmd.bytes
          then { p with hold := max p.hold (done + 1) } else p
        drains := k.drains.map fun x => if x.id = d.id then { x with started := true, readEnd := done, out := o.1 } else x }
      .next (advanceToCyc (setNstat s1 c d.slot 2 o.2) c t)

/-- The oldest started drain's last chunk write lands (R80, R84). -/
def execDrainComplete (c : Nat) (s : State) : Res :=
  let k := coreAt s c
  match k.drains with
  | [] => .next s
  | d :: rest =>
    if !d.started then .next s
    else .next (releaseCmd (advanceToCyc (setCore s c { spadPut k d.out with drains := rest }) c d.readEnd) c d.id)

end Sys2Proof.Machine
end

