-- ==== Sys2Proof/Machine/Mailbox.lean ====
section
/-! DEFINITION. Mailboxes: in-flight commands, parameters, completions (R379 to R391). -/

namespace Sys2Proof.Machine

/-- Key of a mailbox. -/
def mboxKey (fn m : Nat) : Nat := fn * 128 + m

/-- A mailbox. -/
def mboxAt (s : State) (fn m : Nat) : Mbox := tabGet s.mboxes (mboxKey fn m) {}

/-- Replace a mailbox. -/
def setMbox (s : State) (fn m : Nat) (b : Mbox) : State := { s with mboxes := tabPut s.mboxes (mboxKey fn m) b }

/-- Tenant of a function (Table 1.5): tenant t owns VFt; PF0 and PF1 belong to tenant 0. -/
def fnTenant (fn : Nat) : Nat := if fn < 64 then fn else 0

/-- Commands of a mailbox in flight (INFL). -/
def inflOf (s : State) (fn m : Nat) : Nat :=
  (s.inflight.filter fun x => x.ref.fn = fn ∧ x.ref.mbox = m ∧ !x.mctp).length

/-- The oldest command in flight with a reference. -/
def inflAt (s : State) (r : CmdRef) : Option Inflight := s.inflight.find? fun x => x.ref = r

/-- Change the oldest command in flight with a reference. -/
def modInflIn (r : CmdRef) (f : Inflight → Inflight) : List Inflight → List Inflight
  | [] => []
  | x :: xs => if x.ref = r then f x :: xs else x :: modInflIn r f xs

def modInfl (s : State) (r : CmdRef) (f : Inflight → Inflight) : State :=
  { s with inflight := modInflIn r f s.inflight }

/-- Remove the oldest command in flight with a reference. -/
def dropInfl (r : CmdRef) : List Inflight → List Inflight
  | [] => []
  | x :: xs => if x.ref = r then xs else x :: dropInfl r xs

/-- OPCODE of an entry (Table 16.2). -/
def entryOp (e : Bytes) : Nat := fieldAt e 0 2

/-- Command-specific byte offset k is entry byte 16 + k (R383). -/
def par (e : Bytes) (off n : Nat) : Nat := fieldAt e (16 + off) n
def parFld (e : Bytes) (off hi lo : Nat) : Nat := fld e (16 + off) hi lo
def parFlg (e : Bytes) (off i : Nat) : Bool := flg e (16 + off) i

/-- Reserved parameter field. -/
def parRsv (e : Bytes) (off hi lo : Nat) : Nat × Bool := (16 + off, decide (fld e (16 + off) hi lo ≠ 0))

/-- Reserved parameter bytes. -/
def parRsvBytes (e : Bytes) (lo hi : Nat) : Nat × Bool := (16 + lo, !zeroBytes e (16 + lo) (16 + hi))

/-- What a command with no check of its own beyond its reserved fields requires. -/
def noChecks (_ : State) (_ : Bytes) : List (Nat × Bool) := []

/-- The completion entry (Table 16.3). -/
def cqEntry (result status sqhead cid : Nat) (phase : Bool) (done detail : Nat) : Bytes :=
  leBytes 8 result ++ leBytes 2 status ++ leBytes 2 sqhead ++ leBytes 2 cid ++ leBytes 2 (bit01 phase)
    ++ leBytes 8 done ++ leBytes 4 detail ++ leBytes 4 0

/-- A DRAINING mailbox with nothing in flight turns OFF (R380). -/
def drainCheck (s : State) (fn m : Nat) : State :=
  let b := mboxAt s fn m
  if b.st = .draining ∧ inflOf s fn m = 0 then setMbox s fn m { b with st := .off, sqTail := 0, cqHead := 0 } else s

/-- Does a mailbox still write completions: ENABLED, or DRAINING under DEV.MBOX and not from ERROR (R380, R381, R397)? -/
def writesCq (b : Mbox) : Bool :=
  decide (b.st = .enabled) || (decide (b.st = .draining) && b.remover.isSome && !b.wasError)

/-- PASID that every request made for a mailbox carries (R371, R401): the one bound to a work mailbox with PV. -/
def mboxPasid (s : State) (fn m : Nat) : Option Nat :=
  let b := mboxAt s fn m
  if b.pv ∧ m ≠ 0 ∧ (funcAt s fn).pasidEn then some b.pasid else none

/-- Write a completion entry into the ring and raise its event (R384, R386). -/
def postCompletion (s : State) (x : Inflight) (status result detail : Nat) : State :=
  let fn := x.ref.fn
  let m := x.ref.mbox
  let b := mboxAt s fn m
  if writesCq b then
    let e := cqEntry result status b.fetchPos x.ref.cid b.phase (merNow s) detail
    let nxt := (b.postPos + 1) % 2 ^ b.cqLog2
    let b1 := { b with postPos := nxt, posted := b.posted + 1, phase := if nxt = 0 then !b.phase else b.phase }
    let s1 := hostPutP (setMbox s fn m b1) (ownCmd x.ref) fn (mboxPasid s fn m) fn 0 (b.cqBase + 32 * b.postPos) e
    if flg x.entry 4 1 then s1 else msixEvent s1 fn b.vector
  else s

/-- What the flash keeps for a command ends with it: the implicit locks and waiting reads of a DMA.COPY (R423), the entry a
STORE.LOCK waits for, the draining part of a STORE.SPLIT (R414). -/
def leaveStore (s : State) (x : Inflight) : State :=
  let v := s.store
  match entryOp x.entry with
  | 0x1201 =>
    let keep (o : ChanClass × ChanOp) : Bool := match o.2 with | .dma r _ => decide (r ≠ x.ref) | .nvme _ _ _ => true
    { s with store := { v with
      locks := v.locks.filter fun l => decide (l.2.dma ≠ some x.ref)
      chans := v.chans.map fun q => (q.1, { q.2 with ops := q.2.ops.filter keep }) } }
  | 0x0C01 => { s with store := { v with t4Drain := none } }
  | 0x0C02 => { s with store := { v with locks := v.locks.filter fun l => decide (l.2.cmd ≠ some x.ref) } }
  | _ => s

/-- The entry of a command that ends leaves the in-flight list, its completion is written, and a mailbox that drained
turns OFF (R386); over MCTP the entry is the answer. -/
def completeOne (s : State) (r : CmdRef) (status result detail : Nat) : State :=
  match inflAt s r with
  | none => s
  | some x =>
    let s1 := leaveStore { s with inflight := dropInfl r s.inflight } x
    if x.mctp then
      let data := x.got.flatMap fun g => g.2
      let st := if status = stOk ∧ 4096 < data.length then stShort else status
      emit s1 (.mctp r.cid (cqEntry result st 0 r.cid false (merNow s) detail ++ data.take 4096))
    else drainCheck (postCompletion s1 x status result detail) r.fn r.mbox

/-- A command completes; the DEV.MBOX removal that waited for its mailbox completes after it (R397). -/
def complete (s : State) (r : CmdRef) (status result detail : Nat) : State :=
  let before := mboxAt s r.fn r.mbox
  let s1 := completeOne s r status result detail
  match before.remover with
  | some (f, m, c) =>
    if (mboxAt s1 r.fn r.mbox).st = .off ∧ before.st ≠ .off then
      completeOne (setMbox s1 r.fn r.mbox {}) ⟨f, m, c⟩ stOk 0 0
    else s1
  | none => s1

/-- Complete with BADPARAM at a byte offset of the entry, or of the parameter block (R385). -/
def badParam (s : State) (r : CmdRef) (off : Nat) : State := complete s r stBadParam 0 off
def badBlock (s : State) (r : CmdRef) (off : Nat) : State := complete s r stBadParam 0 (off + 65536)

/-- A command ends on a fault of an access made for it: its record is posted first, and it completes when the record is
written (R186, R189, R385). -/
def completeFault (s : State) (r : CmdRef) (status result : Nat) (t : Nat) (rcd : Bytes) : State :=
  modInfl (postFault s t { bytes := rcd, holder := .cmd r.fn r.mbox r.cid }) r fun x =>
    { x with status := some (status, result, 0) }

/-! ### Starting a command (R390) -/

/-- Commands of a mailbox fetched before a command. -/
def earlierIn (s : State) (x : Inflight) : List Inflight :=
  (s.inflight.takeWhile fun y => y ≠ x).filter fun y => y.ref.fn = x.ref.fn ∧ y.ref.mbox = x.ref.mbox ∧ !y.mctp

/-- May the command start (R390): fences of its mailbox allow it, and no reset of its function or of the tenant it names
holds it? -/
def mayStart (s : State) (x : Inflight) : Bool :=
  x.started || (if flg x.entry 4 0 then decide (earlierIn s x = [])
    else !((earlierIn s x).any fun y => flg y.entry 4 0))

/-- The command with a reference that a row of opcode `op` runs: in flight, not waiting for its record, allowed to run. -/
def runnable (s : State) (r : CmdRef) (op : Nat) : Option Inflight :=
  match inflAt s r with
  | none => none
  | some x => if entryOp x.entry = op ∧ x.status = none ∧ mayStart s x then some x else none

/-- Is a step or piece of a command in progress (R393): a host read, a remote operation, a flash write, or the move of a tile
that an ATLAS.PIN, ATLAS.HINT or ATLAS.HUNREG has begun? -/
def stepBusy (s : State) (x : Inflight) : Bool :=
  let moves := match entryOp x.entry with
    | 0x0404 => x.acted.any fun q => (migOf s q.1 q.2).isSome
    | 0x0405 => x.acted.any fun q => (migOf s q.1 q.2).isSome
    | 0x040A => s.atlas.migs.any fun m => match leafAt s m.tenant m.page with
      | some l => (match l.loc with | .t3 g _ => decide (g = par x.entry 0 1) | _ => false)
      | none => false
    | _ => false
  moves || s.host.reads.contains (.cmd x.ref) || decide (x.sent ≠ []) || x.after.isSome ||
    s.fab.rem.any fun q => decide (q.2.owner = .cmd x.ref.fn x.ref.mbox x.ref.cid)

/-- Commands whose own pieces see that they are stopped: TRANSPOSE, TEXT, TABLE and DMA.COPY. -/
def ownStop (op : Nat) : Bool := [0x040E, 0x0801, 0x0802, 0x0A01, 0x0A02, 0x1201].contains op

/-- Run a command in flight with opcode `op`: its parameter checks when it starts, then its effect.  A row commanded with
no such command in flight leaves the module as it is (log 10); a command that must wait stays in flight, and its row
commanded again goes on with it (log 12). -/
def runCmd (s : State) (r : CmdRef) (op : Nat) (checks : State → Bytes → List (Nat × Bool))
    (body : State → Inflight → Bytes → State) : Res :=
  match runnable s r op with
  | none => .next s
  | some x =>
    if x.started then
      match (if ownStop op then none else x.stopped) with
      | some st => .next (if stepBusy s x then s else complete s r st x.done 0)
      | none => .next (body s x x.entry)
    else match firstBad (checks s x.entry) with
    | some o => .next (badParam s r o)
    | none => .next (body (modInfl s r fun y => { y with started := true }) { x with started := true } x.entry)

/-- As `runCmd` for a row that is one operation of an opcode: `sel` says whether the entry asks for it. -/
def runCmdIf (s : State) (r : CmdRef) (op : Nat) (sel : Bytes → Bool) (checks : State → Bytes → List (Nat × Bool))
    (body : State → Inflight → Bytes → State) : Res :=
  match inflAt s r with
  | none => .next s
  | some x => if sel x.entry then runCmd s r op checks body else .next s

/-! ### Reads and writes of the atlas for a command (R162, R184 to R186, R320) -/

/-- How a read or write of the atlas for a command ends. -/
inductive CmdAcc where
  /-- Done: for a read, the bytes. -/
  | ok (s : State) (bs : Bytes)
  /-- It must wait: for a promotion, or a peer's answer. -/
  | wait (s : State)
  /-- Fault kind, cause and page. -/
  | fault (kind cause page : Nat)

/-- The atlas fault record of the service DMA for a command (Table 7.8). -/
def dmaRecord (s : State) (src : Nat) (r : CmdRef) (kind acc page cause : Nat) : Bytes :=
  atlasRecord (merAt s src) src kind 0xFF r.cid acc page 0 0xFFFF 0 cause

end Sys2Proof.Machine
end

