-- ==== Sys2Proof/Machine/Remote.lean ====
section
/-! DEFINITION. Hub writes with their watches, atomics, and remote operations of this module (R19, R114, R320 to R322). -/

namespace Sys2Proof.Machine

/-! ### Watches (R114) -/

/-- Does the word satisfy COND against VALUE? -/
def memCond (cond word value : Nat) : Bool :=
  match cond with
  | 0 => word = value
  | 1 => word ≠ value
  | _ => value ≤ word

/-- The 8-byte atlas word at an address, as it stands. -/
def memWord (s : State) (t va : Nat) : Nat := leVal (readMem s t va 8)

/-- A write or atomic to [va, va + len) of tenant t releases the waits of one core that watch a word in it and are
satisfied. -/
def wakeCore (s : State) (t va len : Nat) (k : Core) : Core :=
  { k with slots := k.slots.map fun p =>
      match p.2.ctx.wait with
      | some (.mem w cond value _ (some _) _ _) =>
        if jobTenant p.2.jobid = t ∧ w < va + len ∧ va < w + 8 ∧ memCond cond (memWord s t w) value then
          (p.1, { p.2 with ctx := { p.2.ctx with wait := none } })
        else p
      | _ => p }

/-- Release every watch a write satisfies. -/
def wakeWatches (s : State) (t va len : Nat) : State :=
  { s with cores := s.cores.map fun p => (p.1, wakeCore s t va len p.2) }

/-! ### The hubs' tile caches (R164) -/

/-- Does a hub's tile cache hold a line? -/
def lineHeld (c : List TLine) (q : Nat × Nat) : Bool := c.any fun x => decide (x.frame = q.1 ∧ x.line = q.2)

/-- Do two lines share a set of one hub's cache? -/
def sameSet (q : Nat × Nat) (x : TLine) : Bool :=
  decide (hubOfFrame x.frame = hubOfFrame q.1 ∧ Config.tcacheSet x.frame x.line = Config.tcacheSet q.1 q.2)

/-- A line of a frame is used: it enters its set of 16 ways where it is not held, and one gives way, written back if dirty, where the
set is full. -/
def useLine (tick : Nat) (wr : Bool) (c : List TLine) (q : Nat × Nat) : List TLine :=
  match c.find? fun x => decide (x.frame = q.1 ∧ x.line = q.2) with
  | some x => c.filter (fun y => decide (y ≠ x)) ++ [{ x with dirty := x.dirty || wr }]
  | none =>
    let l := c.filter (sameSet q)
    let keep := match if l.length < 16 then none else l[(Config.tcacheVictim tick (l.map fun x => (x.frame, x.line))).val]? with
      | some v => c.filter fun y => decide (y ≠ v)
      | none => c
    keep ++ [{ frame := q.1, line := q.2, dirty := wr }]

/-- Lines of T1 frames that an access of n bytes at an address touches. -/
def linesOf (s : State) (t va n : Nat) : List (Nat × Nat) :=
  if n = 0 then [] else (List.range ((va % 256 + n - 1) / 256 + 1)).filterMap fun i =>
    match leafAt s t (pageOf (va + 256 * i)) with
    | some { loc := .t1 f, .. } => some (f, (va + 256 * i) % 65536 / 256)
    | _ => none

/-- Count each line of an access at its frame's hub, as a hit or a miss, where a hub has a counter at work. -/
def countLines (s : State) (t tick : Nat) (wr : Bool) (qs : List (Nat × Nat)) : State :=
  if (List.range 5).all fun h => decide ((tabGet s.units (srcHub h) {}).ctrs = []) then s else
  (qs.foldl (fun (a : State × List TLine) q =>
    (countEv a.1 (srcHub (hubOfFrame q.1)) (if lineHeld a.2 q then 0x0108 else 0x0109) t, useLine tick wr a.2 q)) (s, s.atlas.tcache)).1

/-- An access reaches the tile caches of the hubs that own its frames. -/
def hubLines (s : State) (t va n : Nat) (wr : Bool) : State :=
  let qs := linesOf s t va n
  modAtlas (countLines s t s.clk.ticks wr qs) fun a => { a with tcache := qs.foldl (useLine s.clk.ticks wr) s.atlas.tcache }

/-- A read at its owning hub, as it passes the hub's tile cache. -/
def hubRead (s : State) (t va n : Nat) : State := hubLines s t va n false

/-- A write applied at its owning hub: the bytes, then the watches. -/
def hubWrite (s : State) (t va : Nat) (bs : Bytes) : State :=
  if bs = [] then s else wakeWatches (writeMem (hubLines s t va bs.length true) t va bs) t va bs.length

/-! ### Writable tables (R227, R230) -/

/-- A row stamp (Table 9.9). -/
structure Stamp where
  mer : Nat
  module : Nat
  source : Nat
  entry : Nat
  deriving DecidableEq, Repr

/-- The stamp's 16 bytes. -/
def stampBytes (x : Stamp) : Bytes :=
  leBytes 8 x.mer ++ leBytes 4 (x.module % 2 ^ 17) ++ leBytes 2 x.source ++ leBytes 2 x.entry

/-- The stamp that 16 bytes hold. -/
def stampOf (b : Bytes) : Stamp := ⟨fieldAt b 0 8, fld b 8 16 0, fieldAt b 12 2, fieldAt b 14 2⟩

/-- Is a later than b: MERIDIAN, MODULE, SOURCE, ENTRY, lower first (R227)? -/
def stampLater (a b : Stamp) : Bool :=
  decide (b.mer < a.mer ∨ (b.mer = a.mer ∧ (b.module < a.module ∨ (b.module = a.module ∧
    (b.source < a.source ∨ (b.source = a.source ∧ b.entry < a.entry))))))

/-- Fields of a table descriptor (Table 9.7). -/
def tabRcode (d : Bytes) : Nat := byteAt d 2
def tabWritable (d : Bytes) : Bool := flg d 3 1
def tabSharded (d : Bytes) : Bool := flg d 3 0
def tabNrows (d : Bytes) : Nat := fieldAt d 4 4
def tabDim (d : Bytes) : Nat := fieldAt d 8 2
def tabStride (d : Bytes) : Nat := fieldAt d 12 4
def tabHot (d : Bytes) : Nat := fieldAt d 16 4
def tabRpsh (d : Bytes) : Nat := fieldAt d 20 4
def tabNshard (d : Bytes) : Nat := fieldAt d 24 2

/-- Registered writable tables of a tenant. -/
def writableTables (s : State) (t : Nat) : List Table :=
  (s.models.models.filter fun m => m.2.tenant = t).flatMap fun m => m.2.vers.flatMap fun v =>
    v.2.tables.filter fun x => tabWritable x.d

/-- The writable table and stored row an address lies in (R230). -/
def tableRow (s : State) (t va : Nat) : Option (Table × Nat) :=
  ((writableTables s t).find? fun x => decide (x.rows ≤ va ∧ va < x.rows + tabNrows x.d * tabStride x.d)).map fun x =>
    (x, (va - x.rows) / tabStride x.d)

/-- An OVERWRITE with a stamp at the owning hub: on a writable table's row it applies only if later, with its stamp (R227);
elsewhere it is a plain write. -/
def stampedWrite (s : State) (t va : Nat) (bs : Bytes) (x : Stamp) : State :=
  match tableRow s t va with
  | none => hubWrite s t va bs
  | some (tb, row) =>
    match tb.stamps with
    | none => hubWrite s t va bs
    | some sv =>
      let sa := sv + 16 * row
      let old := stampOf (readMem s t sa 16)
      if stampLater x old ∨ x = old then hubWrite (writeMem s t sa (stampBytes x)) t va bs else s

/-- C40 elements of w bytes each, the second list added to the first, one combining step each (R67, R102). -/
def c40Adds (w : Nat) : Nat → Bytes → Bytes → Bytes
  | 0, _, _ => []
  | n + 1, old, new =>
    leBytes w (c40Add (fieldAt old 0 w % 2 ^ 40) (fieldAt new 0 w % 2 ^ 40)) ++ c40Adds w n (old.drop w) (new.drop w)

/-- Add C40 elements of w bytes at their owning hub; the stamp stays (R228). -/
def addRow (s : State) (t va w : Nat) (bs : Bytes) : State :=
  hubWrite s t va (c40Adds w (bs.length / w) (readMem s t va bs.length) bs)

/-- A write applies as its mode says: plain, an OVERWRITE under its stamp, an ADD (R227, R228; log 27). -/
def modeWrite (s : State) (t va mode : Nat) (bs stamp : Bytes) : State :=
  match mode with
  | 0 => hubWrite s t va bs
  | 1 => stampedWrite s t va bs (stampOf stamp)
  | 2 => addRow s t va 8 bs
  | _ => addRow s t va 5 bs

/-- Parts of a row by tile: offset and bytes; an element of w bytes lies in the tile of its first byte (R98, R320). -/
def rowParts (va len w : Nat) : List (Nat × Nat) :=
  let cut (i : Nat) : Nat := if i = 0 then 0 else min len (ceilDiv (i * 65536 - va % 65536) w * w)
  ((List.range ((va % 65536 + len - 1) / 65536 + 1)).map fun i => (cut i, cut (i + 1) - cut i)).filter fun q => q.2 ≠ 0

/-! ### Atomics (R321) -/

/-- The new value of an atomic. -/
def atomicNew (kind old op0 op1 : Nat) : Nat :=
  match kind with
  | 0 => (old + op0) % 2 ^ 64
  | 1 => max old op0
  | 2 => if sext 64 old ≤ sext 64 op0 then op0 else old
  | 3 => op0
  | _ => if old = op0 then op1 else old

/-- Apply an atomic at the owning hub; the old value. -/
def hubAtomic (s : State) (t va kind op0 op1 : Nat) : State × Nat :=
  let old := memWord s t va
  (hubWrite s t va (leBytes 8 (atomicNew kind old op0 op1)), old)

/-! ### Remote operations (R318 to R322) -/

/-- Hand a message of this module to the router. -/
def sendMsg (s : State) (m : FabMsg) : State :=
  { s with fab := { s.fab with sendq := s.fab.sendq ++ [{ m with src := s.fab.module }] } }

/-- The request message of an operation (Table 12.4). -/
def remMsg (tx : Nat) (o : RemOp) : FabMsg :=
  { op := o.kind + 1, service := o.service, tenant := o.tenant, dst := o.module, txid := tx, retry := o.resent,
    addr := o.va, arg := if o.kind = 2 then o.akind else o.len - 1 + 65536 * o.mode, data := o.data ++ o.stamp }

/-- An ERESP to a request: STATUS, KIND, CAUSE (Table 12.4). -/
def errResp (m : FabMsg) (status kind cause : Nat) : FabMsg :=
  { op := 0x8F, service := m.service, tenant := m.tenant, dst := m.src, src := m.dst, txid := m.txid,
    arg := status + kind * 2 ^ 16 + cause * 2 ^ 24 }

/-- A free TXID. -/
def freeTx (s : State) : Option Nat :=
  match tabFreeFrom s.fab.rem 65536 (s.fab.nextTx % 65536) with
  | some n => if n < 65536 then some n else tabFreeFrom s.fab.rem 65536 0
  | none => none

/-- Start a remote operation; none when 32,768 are outstanding (the request waits at its unit).  One of a service that the tenant's TEN
configuration does not enable is not sent: this module answers it as the target would, with ERESP NOPERM (R318). -/
def startRemote (s : State) (o : RemOp) : Option (State × Nat) :=
  if 32768 ≤ s.fab.rem.length then none else
  match freeTx s with
  | none => none
  | some tx =>
    let o' := { o with deadline := s.clk.ticks + s.fab.rto * usTicks }
    let s1 := { s with fab := { s.fab with rem := tabPut s.fab.rem tx o', nextTx := (tx + 1) % 65536 } }
    let m := { remMsg tx o' with src := s.fab.module }
    if bitOf (tenAt s o.tenant).svcmask o.service then some (sendMsg s1 m, tx)
    else some ({ s1 with fab := { s1.fab with inbox := s1.fab.inbox ++ [{ m := errResp m stNoPerm 0x03 0 }] } }, tx)

end Sys2Proof.Machine
end

