-- ==== Sys2Proof/Machine/TileMover.lean ====
section
/-! DEFINITION. The tile mover: runs, translation, faults and progress points (R97 to R102, R115, R176, R184). -/

namespace Sys2Proof.Machine

/-- The slot a command works in, with the regions it bound at issue (R73). -/
def boundSlot (sl : Slot) (regs : Tab Region) : Slot := { sl with ctx := { sl.ctx with regions := regs } }

/-- An atlas range of a run: first address, bytes, kind of access. -/
structure RunRange where
  va : Nat
  len : Nat
  acc : Acc
  deriving DecidableEq, Repr

/-- Number of runs of a command (R98): one per index for gathers and scatters, one for an atomic; none for a hint. -/
def tmRuns (b : Bytes) : Nat :=
  match cmdOp b with
  | 0x20 => moveRuns (moveF b)
  | 0x21 => (gatherF b).nidx
  | 0x22 => (gatherF b).nidx
  | 0x06 => 1
  | _ => 0

/-- Index j of a gather or scatter. -/
def tmIndex (k : Core) (sl : Slot) (f : GatherF) (j : Nat) : Nat :=
  match tabFind sl.ctx.regions f.ireg with
  | some r => let p := idxPos sl f j; spadElem k sl r 4 p.1 p.2
  | none => 0xFFFFFFFF

/-- Is an index valid (R101)? -/
def idxValid (f : GatherF) (i : Nat) : Bool := decide (i < f.limit) && decide (i ≠ 0xFFFFFFFF)

/-- The atlas range of run n, none when the run touches no atlas byte.  A TM.SCATTER with SCOP = ADD is an atomic access in its fault
record (DESIGN CHOICE, log 45: the spec does not say write or atomic). -/
def tmRange (k : Core) (sl : Slot) (b : Bytes) (n : Nat) : Option RunRange :=
  match cmdOp b with
  | 0x20 =>
    let f := moveF b
    let r := moveRun f n
    if r.2.2 then
      some ⟨(r.1 % (2 ^ 57 : Nat)).toNat, ceilDiv (f.n0 * atlasBits f.pack f.bfmt (regEsize sl f.reg)) 8,
        if f.store then .write else .read⟩
    else none
  | 0x06 => some ⟨fld b 16 56 0, 8, .atomic⟩
  | _ =>
    let f := gatherF b
    let i := tmIndex k sl f n
    if idxValid f i then
      some ⟨(f.va + i * f.stride) % 2 ^ 57, ceilDiv (f.n0 * atlasBits f.pack 0 (regEsize sl f.reg)) 8,
        if cmdOp b = 0x22 then (if f.scop = 1 then .atomic else .write) else .read⟩
    else none

/-- Pages of a range: at most two (R98). -/
def rangePages (r : RunRange) : List Nat :=
  if r.len = 0 then [] else
  let a := pageOf r.va
  let z := pageOf (r.va + r.len - 1)
  if a = z then [a] else [a, z]

/-- The cached translation of a page. -/
def tlbFind (k : Core) (t p : Nat) : Option Loc := (k.tlb.find? fun e => e.1 = t && e.2.1 = p).map (·.2.2)

/-- Enter a translation, the oldest leaving when 512 are held (log 9). -/
def tlbPut (k : Core) (t p : Nat) (l : Loc) : Core :=
  let rest := k.tlb.filter fun e => !(e.1 = t && e.2.1 = p)
  { k with tlb := rest.drop (rest.length - 511) ++ [(t, p, l)] }

/-- Drop a translation. -/
def tlbDrop (k : Core) (t p : Nat) : Core := { k with tlb := k.tlb.filter fun e => !(e.1 = t && e.2.1 = p) }

/-- May a location be cached (R159)?  T1, T2 and Z pages only. -/
def cacheable : Loc → Bool
  | .t3 _ _ => false
  | .t4 _ => false
  | _ => true

/-- Change a tile-mover command. -/
def modTm (s : State) (c id : Nat) (f : TmCmd → TmCmd) : State :=
  modCore s c fun k => { k with tm := k.tm.map fun x => if x.id = id then f x else x }

/-- A QUOTA fault is counted at its hub (R191). -/
def countQuota (s : State) (hub t kind : Nat) : State := if kind = 0x02 then countEv s (srcHub hub) 0x0107 t else s

/-- Count a MISS and start its promotion, or count and fault QUOTA, with its cause (R170, R173, R191). -/
def missAs (s : State) (t p hub : Nat) (fg : Bool) : Except (State × Nat) State :=
  let s1 := countEv s (srcHub hub) 0x0101 t
  match startPromotion s1 t p hub fg with
  | .ok s2 => .ok s2
  | .error c => .error (countQuota s1 hub t 0x02, c)
def missAt (s : State) (t p hub : Nat) : Except (State × Nat) State := missAs s t p hub true

/-- Does a core's cache hold a page at a place where it is no more?  The access then goes out under the old entry, and its hub returns
it (R160). -/
def tlbStale (s : State) (c t p : Nat) : Bool :=
  match tlbFind (coreAt s c) t p, leafAt s t p with
  | some loc, some l => decide (loc ≠ l.loc)
  | _, _ => false

/-- A core's walk for a page that its cache does not hold is counted, and what it finds enters the cache; an access under a stale entry
is returned for it (R158, R159, R160, R191). -/
def coreWalk (s : State) (c t p : Nat) : State :=
  let hub := srcHub (walkHubCore c)
  let old := tlbStale s c t p
  if (tlbFind (coreAt s c) t p).isSome ∧ !old then s else
  let s1 := countEv (if old then countEv s hub 0x0104 t else s) hub 0x0105 t
  match leafAt s1 t p with
  | some l => modCore s1 c fun k => if cacheable l.loc then tlbPut k t p l.loc else tlbDrop k t p
  | none => s1

/-- Translate the pages of a run in order (R98, R162): cached entries, else a walk at the hub. -/
def translatePages (s : State) (c id t : Nat) (acc : Acc) : List Nat → State
  | [] => modTm s c id fun x => { x with stage := .ready }
  | p :: ps =>
    if tlbStale s c t p then translatePages s c id t acc ps else
    let s1 := coreWalk s c t p
    match checkPage s1 t p acc with
    | .fault kind cause => modTm s1 c id fun x => { x with stage := .fault kind cause (accCode acc) p }
    | .miss =>
      match missAt s1 t p (walkHubCore c) with
      | .ok s2 => modTm s2 c id fun x => { x with stage := .miss p }
      | .error (s2, cause) => modTm s2 c id fun x => { x with stage := .fault 0x02 cause (accCode acc) p }
    | _ => translatePages s1 c id t acc ps

/-- The tiles of the next run of a tile-mover command are translated; a fault parks the command, and halts its job
once every earlier command has completed (R97, R98, R158, R162, R184). -/
def execTranslationWalk (c id : Nat) (s : State) : Res :=
  let k := coreAt s c
  match k.tm.find? (fun x => x.id = id) with
  | none => .next s
  | some x =>
    match slotAt s c x.slot with
    | none => .next s
    | some sl =>
      if x.stage ≠ .translate ∨ sl.ctx.halt = some (.parked id) ∨ !slotResident s sl then .next s else
      match tmRange k (boundSlot sl x.regs) x.cmd.bytes x.progress with
      | none => .next (modTm s c id fun y => { y with stage := .ready })
      | some r => .next (settleHalt (translatePages s c id (jobTenant sl.jobid) r.acc (rangePages r)) c x.slot)

/-! ### Data of a run -/

/-- Element k of packed bytes, as `bits` bits (R100). -/
def packedElem (bs : Bytes) (bits k : Nat) : Nat := leVal bs / 2 ^ (bits * k) % 2 ^ bits

/-- Pack elements of `bits` bits into n bytes. -/
def packElems (bits n : Nat) (xs : List Nat) : Bytes :=
  leBytes n (xs.foldr (fun x acc => x % 2 ^ bits + 2 ^ bits * acc) 0)

/-- Scratchpad element of an atlas element: sign-extended mantissa, C40 with zero upper bits, or as it is (R100). -/
def unpackVal (pack bits raw : Nat) : Nat := if pack = 1 then twos 8 (sext bits raw) else raw

/-- The FILL pattern across an element (R99). -/
def fillVal (size fill : Nat) : Nat := if size = 1 then fill % 256 else leVal ((List.replicate (size / 2) (leBytes 2 fill)).flatten)

/-- Scratchpad bytes that a load run writes. -/
def loadCells (sl : Slot) (r : Region) (f : MoveF) (n : Nat) (data : Option Bytes) : List (Nat × Byte) :=
  let z := esizeBytes r.esize
  let bits := atlasBits f.pack f.bfmt r.esize
  let off := (moveRun f n).2.1
  (List.range f.n0).flatMap fun k =>
    let p := moveElem f off k
    let v := match data with
      | some bs => unpackVal f.pack bits (packedElem bs bits k)
      | none => fillVal z f.fill
    spadCells sl r p.1 (p.2 * z) (leBytes z v)

/-- Atlas bytes that a store run writes. -/
def storeBytes (k : Core) (sl : Slot) (r : Region) (f : MoveF) (n : Nat) : Bytes :=
  let z := esizeBytes r.esize
  let bits := atlasBits f.pack f.bfmt r.esize
  let off := (moveRun f n).2.1
  packElems bits (ceilDiv (f.n0 * bits) 8)
    ((List.range f.n0).map fun i => let p := moveElem f off i; spadElem k sl r z p.1 p.2)

/-- Scratchpad bytes of data row j of a gather. -/
def gatherCells (sl : Slot) (r : Region) (f : GatherF) (j : Nat) (data : Option Bytes) : List (Nat × Byte) :=
  let z := esizeBytes r.esize
  let bits := atlasBits f.pack 0 r.esize
  (List.range f.n0).flatMap fun k =>
    let v := match data with
      | some bs => packedElem bs bits k
      | none => fillVal z f.fill
    spadCells sl r (f.row0 + j) ((f.col0 + k) * z) (leBytes z v)

/-- Elements of data row j of a scatter. -/
def scatterElems (k : Core) (sl : Slot) (r : Region) (f : GatherF) (j : Nat) : List Nat :=
  (List.range f.n0).map fun i => spadElem k sl r (esizeBytes r.esize) (f.row0 + j) (f.col0 + i)

/-- Bytes of data row j of a scatter. -/
def scatterBytes (k : Core) (sl : Slot) (r : Region) (f : GatherF) (j : Nat) : Bytes :=
  let bits := atlasBits f.pack 0 r.esize
  packElems bits (ceilDiv (f.n0 * bits) 8) (scatterElems k sl r f j)

/-- Mode in which a scatter's row is written: under its stamp, or added (R102, R227). -/
def scatterMode (r : Region) (f : GatherF) : Nat :=
  if f.scop ≠ 1 then 1 else if atlasBits f.pack 0 r.esize = 40 then 3 else 2

/-- Bytes of an element that a mode keeps whole. -/
def modeWidth (mode : Nat) : Nat := match mode with | 2 => 8 | 3 => 5 | _ => 1

/-- Is the page of an address a peer window's? -/
def winAt (s : State) (t va : Nat) : Bool := match leafAt s t (pageOf va) with | some l => isWin l.loc | none => false

/-- Write the parts of a row that this module holds. -/
def rowWrite (s : State) (t va mode : Nat) (bs stamp : Bytes) : State :=
  (rowParts va bs.length (modeWidth mode)).foldl (fun st q =>
    if winAt s t (va + q.1) then st else modeWrite st t (va + q.1) mode ((bs.drop q.1).take q.2) stamp) s

/-- The read of a run passes the tile cache of its hub. -/
def rangeRead (s : State) (t : Nat) (rng : Option RunRange) : State :=
  match rng with
  | some g => hubRead s t g.va g.len
  | none => s

/-- Effect of a run once its data (for reads) is at hand; for a run that writes T1 or lent tiles, its writes. -/
def applyRun (s : State) (c : Nat) (sl : Slot) (x : TmCmd) (t : Nat) (rng : Option RunRange) : State :=
  let k := coreAt s c
  let b := x.cmd.bytes
  let rd := rng.map fun r => readMem s t r.va r.len
  match cmdOp b with
  | 0x20 =>
    let f := moveF b
    let r := tabGet sl.ctx.regions f.reg {}
    if f.store then
      match rng with
      | some g => hubWrite s t g.va (storeBytes k sl r f x.progress)
      | none => s
    else modCore (rangeRead s t rng) c fun k1 => spadPut k1 (loadCells sl r f x.progress rd)
  | 0x21 =>
    let f := gatherF b
    let r := tabGet sl.ctx.regions f.reg {}
    modCore (rangeRead s t rng) c fun k1 => spadPut k1 (gatherCells sl r f x.progress rd)
  | 0x22 =>
    let f := gatherF b
    let r := tabGet sl.ctx.regions f.reg {}
    match rng with
    | some g =>
      rowWrite s t g.va (scatterMode r f) (scatterBytes k sl r f x.progress)
        (stampBytes { mer := x.at0, module := s.fab.module, source := c, entry := x.progress })
    | none => s
  | _ =>
    match rng with
    | none => s
    | some g =>
      let a := hubAtomic s t g.va (fld b 8 2 0) (fieldAt b 24 8) (fieldAt b 32 8)
      modTm a.1 c x.id fun y => { y with got := leBytes 8 a.2 }

/-- Where a page of a run is reached: the cached location still holds, the tile is being copied, or the access is
returned for a fresh walk. -/
inductive Arrive where
  | here | held | stale | peer
  deriving DecidableEq, Repr

/-- Arrival of an access at the page's owner (R160, R174); a read of a Z page is answered in the requester (R159). -/
def arriveAt (s : State) (c t : Nat) (acc : Acc) (p : Nat) : Arrive :=
  match leafAt s t p with
  | none => .stale
  | some l =>
    if l.loc = .zero ∧ acc = .read ∧ tlbFind (coreAt s c) t p = some .zero then .here
    else if l.mig then .held
    else match tlbFind (coreAt s c) t p with
      | none => .stale
      | some loc => if loc ≠ l.loc then .stale else match l.loc with
        | .win _ => .peer
        | _ => .here

/-- Remote operations of a run: one per tile that is a window page (R179, R320). -/
def remoteOps (s : State) (sl : Slot) (x : TmCmd) (c t : Nat) (g : RunRange) : List RemOp :=
  let k := coreAt s c
  let b := x.cmd.bytes
  let svc := 5
  let f := gatherF b
  let r := tabGet sl.ctx.regions f.reg {}
  let bytes : Bytes := match cmdOp b with
    | 0x20 => storeBytes k sl (tabGet sl.ctx.regions (moveF b).reg {}) (moveF b) x.progress
    | 0x22 => scatterBytes k sl r f x.progress
    | _ => []
  let mode := if cmdOp b = 0x22 then scatterMode r f else 0
  (rowParts g.va g.len (modeWidth mode)).filterMap fun q =>
    let p := pageOf (g.va + q.1)
    match leafAt s t p with
    | some { loc := .win w, .. } =>
      match tabFind (ctxAt s t).wins w with
      | none => none
      | some pw =>
        let rva := (pw.rpage + (p - pw.lpage)) * 65536 + (g.va + q.1) % 65536
        some { kind := if cmdOp b = 0x06 then 2 else if g.acc = .read then 0 else 1,
               module := pw.module, service := svc, tenant := t, va := rva, len := q.2,
               data := if cmdOp b = 0x06 then (b.drop 24).take 16 else (bytes.drop q.1).take q.2, mode := mode
               stamp := if mode = 1 then stampBytes { mer := x.at0, module := s.fab.module, source := c, entry := x.progress } else []
               akind := fld b 8 2 0, owner := .tm c x.id, off := q.1 }
    | _ => none

/-- Start a list of remote operations; none when one cannot start. -/
def startAll (s : State) : List RemOp → Option (State × List Nat)
  | [] => some (s, [])
  | o :: os =>
    match startRemote s o with
    | none => none
    | some (s1, tx) =>
      match startAll s1 os with
      | none => none
      | some (s2, txs) => some (s2, tx :: txs)

/-- The pages of a run gain HEAT, once per command (R172). -/
def touchRun (s : State) (c id t : Nat) (seen ps : List Nat) : State :=
  let new := ps.filter fun p => !seen.contains p
  modTm (new.foldl (fun st p => touchPage st t p (walkHubCore c)) s) c id
    fun x => { x with touched := x.touched ++ new }

/-- A run's accesses arrive at their owning hubs (R18): a stale translation is returned for a fresh walk (R160), a tile
being copied holds them (R174), a window page's go to the peer; otherwise they are applied in full. -/
def execHubAccess (c id : Nat) (s : State) : Res :=
  let k := coreAt s c
  match k.tm.find? (fun x => x.id = id) with
  | none => .next s
  | some x =>
    match slotAt s c x.slot with
    | none => .next s
    | some sl0 =>
      let sl := boundSlot sl0 x.regs
      let t := jobTenant sl.jobid
      if x.stage ≠ .ready then .next s else
      match tmRange k sl x.cmd.bytes x.progress with
      | none => .next (modTm (applyRun s c sl x t none) c id fun y => { y with stage := .applied })
      | some g =>
        let ps := rangePages g
        let ar := ps.map (arriveAt s c t g.acc)
        if ar.contains .held then .next s
        else if ar.contains .stale then
          let s1 := ps.foldl (fun st p => if arriveAt s c t g.acc p = .stale then
              countEv (modCore st c fun k1 => tlbDrop k1 t p) (srcHub (walkHubCore c)) 0x0104 t else st) s
          .next (modTm s1 c id fun y => { y with stage := .translate })
        else if ar.contains .peer then
          match startAll s (remoteOps s sl x c t g) with
          | none => .next s
          | some (s1, txs) =>
            .next (modTm (touchRun s1 c id t x.touched ps) c id fun y => { y with stage := .remote txs, got := [] })
        else
          .next (modTm (touchRun (applyRun s c sl x t (some g)) c id t x.touched ps) c id
            fun y => { y with stage := .applied })

/-- Pages a hint names (R176). -/
def hintPages (va n stride : Nat) : List Nat := (List.range n).map fun i => (va / 65536 + i * stride) % 2 ^ 41

/-- Is a hinted page acted on: mapped, readable, unpoisoned (R176)? -/
def hintable (l : Leaf) : Bool := l.pr && !l.psn

/-- One WILLNEED page (R177): promoted if not in T1, displacing only tiles with HEAT below PROMOTE. -/
def hintWillneed (s : State) (t hub p : Nat) : State :=
  match leafAt s t p with
  | none => s
  | some l =>
    if (!hintable l) = true ∨ locTier l.loc = 0 ∨ isWin l.loc = true ∨ l.mig = true then s else
    let room := decide (tierCount s t 0 < quota s t 0) ||
      (match coldest (movable s t 0) with | some q => decide (q.2.heat < (ctxAt s t).promote) | none => false)
    if room then
      match startPromotion s t p hub false with
      | .ok s1 => s1
      | .error _ => s
    else countEv s (srcHub hub) 0x0106 t

/-- One COLD page (R176). -/
def hintCold (s : State) (t p : Nat) : State :=
  match leafAt s t p with
  | none => s
  | some l => if hintable l then setLeaf s t p { l with heat := 0 } else s

/-- One DEMOTE page (R177): by DORDER now, skipping pinned and Z pages. -/
def hintDemote (s : State) (t hub p : Nat) : State :=
  match leafAt s t p with
  | none => s
  | some l =>
    if !hintable l ∨ l.pin ∨ l.mig ∨ !countsIn (locTier l.loc) l then s else
    (takeBy s t (p, l) hub false (tiersAfter (ctxAt s t).dorder (locTier l.loc))).getD s

/-- Issue a TM.HINT of one kind: its pages are hinted, and it completes when accepted, or under WAIT with the last
promotion (R176). -/
def issueHint (s : State) (c slot kind : Nat) (h : State → Nat → Nat → State) : Res :=
  .next (issueCmd s c slot (fun b => decide (cmdOp b = 0x23 ∧ fld b 8 1 0 = kind)) fun s1 sl q id =>
    let b := q.bytes
    let t := jobTenant sl.jobid
    let s2 := (hintPages (fld b 16 56 0) (fieldAt b 24 4) (fieldAt b 28 4)).foldl (fun st p => h st t p) s1
    modCore s2 c fun k => { k with tm := k.tm ++
      [{ id := id, slot := slot, cmd := q, stage := .applied, regs := sl.ctx.regions }] })

def execTmHintWillneed (c slot : Nat) (s : State) : Res :=
  issueHint s c slot 0 fun st t p => hintWillneed st t (walkHubCore c) p
def execTmHintCold (c slot : Nat) (s : State) : Res := issueHint s c slot 1 hintCold
def execTmHintDemote (c slot : Nat) (s : State) : Res :=
  issueHint s c slot 2 fun st t p => hintDemote st t (walkHubCore c) p

/-- Issue a tile-mover command of an opcode. -/
def issueTm (s : State) (c slot op : Nat) : Res :=
  .next (issueCmd s c slot (fun b => cmdOp b = op) fun s1 sl q id =>
    modCore s1 c fun k => { k with tm := k.tm ++ [{ id := id, slot := slot, cmd := q, regs := sl.ctx.regions, at0 := merAt s1 c }] })

def execTmMove (c slot : Nat) (s : State) : Res := issueTm s c slot 0x20
def execTmGather (c slot : Nat) (s : State) : Res := issueTm s c slot 0x21
def execTmScatter (c slot : Nat) (s : State) : Res := issueTm s c slot 0x22
def execMemAtomic (c slot : Nat) (s : State) : Res := issueTm s c slot 0x06

/-- Does a WILLNEED hint under WAIT still wait for a page's promotion? -/
def hintWaits (s : State) (t : Nat) (b : Bytes) : Bool :=
  decide (fld b 8 1 0 = 0) && flg b 9 0 &&
  (hintPages (fld b 16 56 0) (fieldAt b 24 4) (fieldAt b 28 4)).any fun p =>
    match migOf s t p with
    | some m => m.tier = 0
    | none => false

/-- The old value of an atomic with RET goes to its element (R115). -/
def atomicRet (s : State) (c : Nat) (sl : Slot) (x : TmCmd) : State :=
  let b := x.cmd.bytes
  if cmdOp b = 0x06 ∧ flg b 8 3 then
    match tabFind sl.ctx.regions (byteAt b 9) with
    | some r => modCore s c fun k => spadPut k (spadCells sl r (fieldAt b 10 2) (fieldAt b 12 2 * 8) (padTo 8 x.got))
    | none => s
  else s

/-- A tile-mover command has completed. -/
def tmComplete (s : State) (c : Nat) (x : TmCmd) : State :=
  releaseCmd (modCore s c fun k => { k with tm := k.tm.filter fun y => y.id ≠ x.id }) c x.id

/-- The run at the progress point is written and acknowledged: the progress point advances, and after the last run the
command completes (R98, R84). -/
def execTmRunDone (c id : Nat) (s : State) : Res :=
  let k := coreAt s c
  match k.tm.find? (fun x => x.id = id) with
  | none => .next s
  | some x =>
    match slotAt s c x.slot with
    | none => .next s
    | some sl0 =>
      let sl := boundSlot sl0 x.regs
      if x.stage ≠ .applied ∨ (cmdOp x.cmd.bytes = 0x23 ∧ hintWaits s (jobTenant sl.jobid) x.cmd.bytes) then .next s
      else if x.progress + 1 < tmRuns x.cmd.bytes then
        .next (modTm s c id fun y => { y with progress := y.progress + 1, stage := .translate })
      else .next (tmComplete (atomicRet s c sl x) c x)

end Sys2Proof.Machine
end

