-- ==== Sys2Proof/Machine/CmdAccess.lean ====
section
/-! DEFINITION. Accesses of the atlas made for a mailbox command: checks, promotions, peer windows (R162, R173, R179, R186,
R392). -/

namespace Sys2Proof.Machine

/-- Pages of a byte range. -/
def bytePages (va n : Nat) : List Nat :=
  if n = 0 then [] else (List.range ((va % 65536 + n - 1) / 65536 + 1)).map fun i => pageOf (va + i * 65536)

/-- The part of a byte range in its i-th page: address and bytes. -/
def pageParts (va n : Nat) : List (Nat × Nat) :=
  (List.range (bytePages va n).length).map fun i =>
    let lo := if i = 0 then va else (va / 65536 + i) * 65536
    let hi := min (va + n) ((va / 65536 + i + 1) * 65536)
    (lo % 2 ^ 57, hi - lo)

/-- Is a remote operation of a command for a page outstanding? -/
def cmdRemote (s : State) (r : CmdRef) (p : Nat) : Bool :=
  s.fab.rem.any fun q => decide (q.2.owner = .cmd r.fn r.mbox r.cid ∧ q.2.off = p ∧ q.2.kind = 0)

/-- Is a command a load that runs in the background (R218)? -/
def cmdBg (x : Inflight) : Bool := decide (entryOp x.entry = 0x0501) && parFlg x.entry 12 2

/-- Ask a peer for the tile of a window page, as service 5, or 7 for a load in the background (R218, R320). -/
def askPeer (s : State) (r : CmdRef) (t w p : Nat) : State :=
  match tabFind (ctxAt s t).wins w with
  | none => s
  | some pw =>
    if cmdRemote s r p then s else
    match startRemote s { kind := 0, module := pw.module, tenant := t, va := (pw.rpage + (p - pw.lpage)) * 65536,
                          len := 65536, owner := .cmd r.fn r.mbox r.cid, off := p
                          service := if (inflAt s r).any cmdBg then 7 else 5 } with
    | none => s
    | some (s1, _) => s1

/-- Outcome for one page of a command's access. -/
inductive PageAcc where
  | ready | wait (s : State) | fault (kind cause page : Nat)

/-- Look a page up in the translation cache of the control die or a link die: one that it does not hold is walked, one that has moved is
returned for a new walk; both are counted at the hub that walks (R158 to R160, R191). -/
def unitWalk (s : State) (u t p : Nat) : State :=
  let hub := srcHub (unitHub u)
  let tlb := tabGet s.atlas.unitTlbs u []
  let walk (st : State) (l : Leaf) : State :=
    let rest := tlb.filter fun e => !(e.1 = t && e.2.1 = p)
    let new := if cacheable l.loc then rest.drop (rest.length - 511) ++ [(t, p, l.loc)] else rest
    modAtlas (countEv st hub 0x0105 t) fun a => { a with unitTlbs := tabPut a.unitTlbs u new }
  match leafAt s t p, tlb.find? fun e => e.1 = t && e.2.1 = p with
  | none, _ => s
  | some l, none => walk s l
  | some l, some e => if e.2.2 = l.loc then s else walk (countEv s hub 0x0104 t) l

/-- A command's access meets a MISS: the walk and the MISS are counted once, and its promotion starts; or the promotion that it waited
for could not be made, and it faults QUOTA (R170, R173, R186). -/
def cmdMiss (s : State) (x : Inflight) (t u p : Nat) : PageAcc :=
  match x.qfail.filter fun q => decide (q.1 = t ∧ q.2.1 = p) with
  | some q => .fault 0x02 q.2.2 p
  | none =>
    if x.missOn = some (t, p) ∧ (migOf s t p).isSome then .wait s else
    match missAs (unitWalk s u t p) t p (unitHub u) (!cmdBg x) with
    | .ok s1 => .wait (modInfl s1 x.ref fun y => { y with missOn := some (t, p) })
    | .error (_, cause) => .fault 0x02 cause p

/-- Make one page of a command's access ready: promote a MISS, ask a peer, hold behind a migration.  `u` is the unit that makes the
access. A page that the command has read already is ready. -/
def cmdPage (s : State) (x : Inflight) (t u p : Nat) (acc : Acc) : PageAcc :=
  if acc = .read ∧ (x.got.any fun q => decide (q.1 = p)) then .ready else
  match checkPage s t p acc with
  | .fault kind cause => .fault kind cause p
  | .miss => cmdMiss s x t u p
  | .remote w =>
    if acc = .write then .ready else .wait (askPeer s x.ref t w p)
  | _ =>
    match leafAt s t p with
    | some l => if l.mig then .wait s else .ready
    | none => .ready

/-- A command keeps the tile of a page that it could read while it waits for another, so that an access to more pages than the tenant
can hold in T1 comes to its end (R27, R186). -/
def keepPage (s : State) (x : Inflight) (t p : Nat) : State :=
  if x.got.any fun q => decide (q.1 = p) then s
  else modInfl s x.ref fun y => { y with got := y.got ++ [(p, readMem s t (p * 65536) 65536)] }

/-- Make the pages of a command's access ready, in order. -/
def cmdReady (s : State) (x : Inflight) (t u : Nat) (acc : Acc) : List Nat → PageAcc
  | [] => .ready
  | p :: ps =>
    match cmdPage s x t u p acc with
    | .ready =>
      (match cmdReady s x t u acc ps with
       | .wait s1 => .wait (if acc = .read then keepPage s1 x t p else s1)
       | o => o)
    | o => o

/-- Bytes of one page part: the tile here, or as the peer answered. -/
def partBytes (s : State) (x : Inflight) (t : Nat) (q : Nat × Nat) : Bytes :=
  match x.got.find? fun g => decide (g.1 = pageOf q.1) with
  | some g => (g.2.drop (q.1 % 65536)).take q.2
  | none => readMem s t q.1 q.2

/-- The pages of an access by a unit are walked for, and gain HEAT (R159, R172). -/
def touchPages (s : State) (t u : Nat) (ps : List Nat) : State :=
  ps.foldl (fun st p => touchPage (unitWalk st u t p) t p (unitHub u)) s

/-- The pages of a command's access gain HEAT, each once in all the command's accesses (R172). -/
def touchCmd (s : State) (r : CmdRef) (t u : Nat) (ps : List Nat) : State :=
  let seen := ((inflAt s r).map (·.touched)).getD []
  let new := (distinctN ps).filter fun p => !seen.contains (t, p)
  if new = [] then s else modInfl (touchPages s t u new) r fun y => { y with touched := y.touched ++ new.map fun p => (t, p) }

/-- Read n bytes for a command. -/
def cmdRead (s : State) (x : Inflight) (t u va n : Nat) : CmdAcc :=
  match cmdReady s x t u .read (bytePages va n) with
  | .wait s1 => .wait s1
  | .fault k c p => .fault k c p
  | .ready => .ok (touchCmd (hubRead s t va n) x.ref t u (bytePages va n)) ((pageParts va n).flatMap (partBytes s x t))

/-- Write one page part: at its hub, or to the peer of its window. -/
def partWrite (s : State) (x : Inflight) (t va : Nat) (bs : Bytes) : State :=
  match leafAt s t (pageOf va) with
  | some { loc := .win w, .. } =>
    match tabFind (ctxAt s t).wins w with
    | none => s
    | some pw =>
      let rva := (pw.rpage + (pageOf va - pw.lpage)) * 65536 + va % 65536
      match startRemote s { kind := 1, module := pw.module, tenant := t, va := rva, len := bs.length, data := bs,
                            owner := .cmd x.ref.fn x.ref.mbox x.ref.cid, off := pageOf va } with
      | none => s
      | some (s1, tx) => modInfl s1 x.ref fun y => { y with sent := y.sent ++ [tx] }
  | _ => hubWrite s t va bs

/-- Write the parts of a byte string. -/
def partsWrite (s : State) (x : Inflight) (t : Nat) : List (Nat × Nat) → Bytes → State
  | [], _ => s
  | q :: qs, bs => partsWrite (partWrite s x t q.1 (bs.take q.2)) x t qs (bs.drop q.2)

/-- Have the remote operations that the parts of a write need room (R322)? -/
def partsRoom (s : State) (t : Nat) (ps : List Nat) : Bool :=
  decide (s.fab.rem.length + (ps.filter fun va => winAt s t va).length ≤ 32768)

/-- Write bytes for a command: no byte before every page of the range is ready. -/
def cmdWrite (s : State) (x : Inflight) (t u va : Nat) (bs : Bytes) : CmdAcc :=
  match cmdReady s x t u .write (bytePages va bs.length) with
  | .wait s1 => .wait s1
  | .fault k c p => .fault k c p
  | .ready =>
    if !partsRoom s t ((pageParts va bs.length).map (·.1)) then .wait s else
    .ok (touchCmd (partsWrite s x t (pageParts va bs.length) bs) x.ref t u (bytePages va bs.length)) bs

/-- Tenant in whose context a command acts (R24, R190). -/
def cmdTenant (x : Inflight) : Nat := if x.mctp then 0 else fnTenant x.ref.fn

/-- End a command on a fault of an access: record, then completion (R186). -/
def cmdFault (s : State) (x : Inflight) (src kind acc cause page result : Nat) : State :=
  completeFault (countQuota s walkHubControl (cmdTenant x) kind) x.ref (faultStatus kind) result (cmdTenant x)
    (dmaRecord s src x.ref kind acc page cause)

/-- What every entry with a parameter block requires (R392): an aligned address. -/
def blockChecks (e : Bytes) : List (Nat × Bool) :=
  [(16, decide (fld e 16 5 0 ≠ 0))]

/-- Run a command that carries a parameter block (R392): reserved bytes, then the block read once at its start, then its
checks, then its effect. -/
def runBlock (s : State) (r : CmdRef) (op : Nat) (checks : State → Bytes → List (Nat × Bool))
    (body : State → Inflight → Bytes → State) : Res :=
  runCmd s r op (fun _ e => blockChecks e) fun s1 x e =>
    match x.block with
    | some b => body s1 x b
    | none =>
      match cmdRead s1 x (cmdTenant x) walkHubControl (parFld e 0 56 0) 64 with
      | .wait s2 => s2
      | .fault k c p => cmdFault s1 x srcDma k 0 c p 0
      | .ok s2 b =>
        match firstBad (checks s2 b) with
        | some o => badBlock s2 r o
        | none => body (modInfl s2 r fun y => { y with block := some b }) { x with block := some b } b

/-- Write a command's results to bytes 48 to 63 of its block and complete it (R392). -/
def blockDone (s : State) (x : Inflight) (status result detail : Nat) (res : Bytes) : State :=
  match cmdWrite s x (cmdTenant x) walkHubControl (parFld x.entry 0 56 0 + 48) (padTo 16 res) with
  | .ok s1 _ => complete s1 x.ref status result detail
  | .wait s1 => s1
  | .fault k c p => cmdFault s x srcDma k 1 c p 0

/-- Ask the host for data of a command (R371); they arrive by HOST_COMPLETION. -/
def askHost (s : State) (x : Inflight) : State :=
  if s.host.reads.contains (.cmd x.ref) then s
  else addReadP s (mboxPasid s x.ref.fn x.ref.mbox) (cmdTenant x) 7 (.cmd x.ref)

/-- Data of a command's host buffer: what has arrived, or (over MCTP, R412) what follows the entry in the request. -/
def hostBuf (x : Inflight) : Option Bytes := if x.mctp then some (x.hdata.getD []) else x.hdata

/-- Write a host buffer for a command: over MCTP the data go into the response, at most 4,096 bytes (R412). -/
def cmdHostPut (s : State) (x : Inflight) (addr : Nat) (bs : Bytes) : State :=
  if x.mctp then modInfl s x.ref fun y => { y with got := y.got ++ [(addr, bs)] }
  else hostPutP s (ownCmd x.ref) x.ref.fn (mboxPasid s x.ref.fn x.ref.mbox) (cmdTenant x) 7 addr bs

end Sys2Proof.Machine
end

