-- ==== Sys2Proof/Machine/Traffic.lean ====
section
/-! DEFINITION. Token buckets, time gates and the egress scheduler (chapter 13). -/

namespace Sys2Proof.Machine

/-! ### Ports -/

/-- A port. -/
def portAt (s : State) (p : Nat) : Port := tabGet s.fab.ports p {}

/-- Change a port. -/
def modPort (s : State) (p : Nat) (f : Port → Port) : State :=
  { s with fab := { s.fab with ports := tabPut s.fab.ports p (f (portAt s p)) } }

/-! ### Token buckets (R335 to R337) -/

/-- The grain that the meridian of a unit's die is in (R335). -/
def grainAt (s : State) (src : Nat) : Nat := merAt s src / 64

/-- A bucket after the refills of every grain up to now. -/
def bucketFill (b : Bucket) (g : Nat) : Bucket :=
  if !b.enable ∨ g ≤ b.last then b
  else { b with tokens := min (b.burst * 1000 : Nat) (b.tokens + ((g - b.last) * b.rate * 2 : Nat)), last := g }

/-- Does a bucket let a queue head go (R333)? -/
def bucketOk (b : Bucket) (g : Nat) : Bool := !b.enable || decide (0 ≤ (bucketFill b g).tokens)

/-- Counted length at a bucket, bytes (R336). -/
def counted (b : Bucket) (n : Nat) : Int := max 1 ((n : Int) + b.ovh)

/-- Debit a bucket after the refill of the grain (R336). -/
def bucketDebit (b : Bucket) (g n : Nat) : Bucket :=
  if !b.enable then b else
  let c := bucketFill b g
  { c with tokens := c.tokens - counted c n * 1000 }

/-- A commit resets the bucket (R337); a disabled bucket keeps no tokens (R335). -/
def bucketCommit (old new : Bucket) (g : Nat) : Bucket :=
  { new with tokens := if !new.enable ∨ new.empty then 0 else (new.burst * 1000 : Nat), last := g, exceeded := old.exceeded }

/-- Is a set in range (R337)? -/
def bucketGood (b : Bucket) : Bool :=
  decide (b.rate ≤ 2000000 ∧ 256 ≤ b.burst ∧ -32 ≤ b.ovh ∧ b.ovh ≤ 96)

/-- Shaper of a port: subscriber t at t, service s at 64 + s, the port at 72. -/
def shaperAt (p : Port) (k : Nat) : Bucket := tabGet p.shapers k {}

/-- Shapers on the path of a queue (R333). -/
def pathKeys (svc t : Nat) : List Nat := [t, 64 + svc, 72]

/-- Is a queue head shaped-eligible in grain g (R333)? -/
def shapedOk (g : Nat) (p : Port) (svc t : Nat) : Bool := (pathKeys svc t).all fun k => bucketOk (shaperAt p k) g

/-- Debit every bucket on the path in grain g. -/
def debitPath (g : Nat) (p : Port) (svc t n : Nat) : Port :=
  { p with shapers := (pathKeys svc t).foldl (fun tb k =>
      if (shaperAt p k).enable then tabPut tb k (bucketDebit (shaperAt p k) g n) else tb) p.shapers }

/-! ### Gates (R338 to R340) -/

/-- Entries of a list: GATES and DUR. -/
def gateEntries (p : Port) (g : GateList) : List (Nat × Nat) :=
  (List.range g.len).map fun i => tabGet p.gmem (g.base + i) (0xFF, 0)

/-- Cycle of a list, ticks. -/
def gateCycle (p : Port) (g : GateList) : Nat := ((gateEntries p g).map (·.2)).sum

/-- Does an entry open a service?  Service 1 is always open. -/
def gateOpen (svc : Nat) (e : Nat × Nat) : Bool := decide (svc = 1) || bitOf e.1 svc

/-- The entry that runs at an offset into the cycle, and the ticks it still has. -/
def entryAt : List (Nat × Nat) → Nat → Option ((Nat × Nat) × Nat)
  | [], _ => none
  | e :: es, off => if off < e.2 then some (e, e.2 - off) else entryAt es (off - e.2)

/-- The entry of a list that runs at a meridian. -/
def runningEntry (p : Port) (g : GateList) (m : Nat) : Option ((Nat × Nat) × Nat) :=
  let c := gateCycle p g
  if c = 0 then none else entryAt (gateEntries p g) ((m - g.start) % c)

/-- The list in force at a meridian, a pending takeover included, and the ticks until a takeover. -/
def gateInForce (p : Port) (m : Nat) : GateList × Option Nat :=
  match p.gpend with
  | some q => if q.start ≤ m then (q, none) else (p.gate, some (q.start - m))
  | none => (p.gate, none)

/-- Is a service open at a meridian? -/
def openAt (p : Port) (svc m : Nat) : Bool :=
  match runningEntry p (gateInForce p m).1 m with
  | some (e, _) => gateOpen svc e
  | none => true

/-- Is a service open from a meridian on, without a break, for `need` 25ths of a tick (R340)? -/
def openFor (p : Port) (svc : Nat) : Nat → Nat → Nat → Bool
  | 0, _, _ => true
  | fuel + 1, m, need =>
    let f := gateInForce p m
    match runningEntry p f.1 m, f.2 with
    | none, none => true
    | none, some d => if need ≤ d * 25 then true else openFor p svc fuel (m + d) (need - d * 25)
    | some (e, left), upto =>
      let d := match upto with | some x => min left x | none => left
      if !gateOpen svc e then false
      else if need ≤ d * 25 then true
      else openFor p svc fuel (m + d) (need - d * 25)

/-- Longest run of open ticks in a list of entries, given the run so far. -/
def longestRun (svc : Nat) : List (Nat × Nat) → Nat → Nat
  | [], r => r
  | e :: es, r => if gateOpen svc e then longestRun svc es (r + e.2) else max r (longestRun svc es 0)

/-- Longest unbroken open span of a service in a list; none: it never closes. -/
def longestSpan (p : Port) (g : GateList) (svc : Nat) : Option Nat :=
  let es := gateEntries p g
  if es.all (gateOpen svc) then none else some (longestRun svc (es ++ es) 0)

/-- Ticks for which a service has been open at an offset into two cycles. -/
def openSince (svc : Nat) : List (Nat × Nat) → Nat → Nat → Nat
  | [], _, r => r
  | e :: es, off, r =>
    if off < e.2 then (if gateOpen svc e then r + off else 0)
    else openSince svc es (off - e.2) (if gateOpen svc e then r + e.2 else 0)

/-- Is now the start (within one flit time) of a longest open span of the service (R340)? -/
def spanStart (p : Port) (svc m longest : Nat) : Bool :=
  let g := (gateInForce p m).1
  let c := gateCycle p g
  let es := gateEntries p g
  let since := openSince svc (es ++ es) ((m - g.start) % c + c) 0
  openAt p svc m && decide (since * 25 < 128) && openFor p svc 600 m ((longest - since) * 25)

/-- Does a message of n flits fit its gate at meridian m (R340)? -/
def gateFits (m : Nat) (p : Port) (svc n : Nat) : Bool :=
  let need := n * 128
  (openAt p svc m && openFor p svc 600 m need) ||
    (match longestSpan p (gateInForce p m).1 svc with
     | some l => decide (l * 25 < need) && spanStart p svc m l
     | none => false)

/-- A takeover whose time has come (R339). -/
def settleGate (s : State) (n : Nat) : State :=
  match (portAt s n).gpend with
  | some q => if q.start ≤ merAt s (srcPort n) then modPort s n fun p => { p with gate := q, gpend := none } else s
  | none => s

/-! ### Deficit round-robin (R334) -/

/-- A ready queue head: service, subscriber, wire bytes. -/
structure Ready where
  svc : Nat
  ten : Nat
  bytes : Nat
  deriving DecidableEq, Repr

/-- One deficit round-robin choice among classes, in cyclic order from the class in turn: `ready c` gives the wire bytes of
the class's head, `quantum c` its quantum.  The answer is the class, the deficits, and whether it was given its quantum. -/
def drr (n : Nat) (ready : Nat → Option Nat) (quantum : Nat → Nat) : Nat → Nat → Bool → Tab Nat → Option (Nat × Tab Nat)
  | 0, _, _, _ => none
  | fuel + 1, turn, given, defs =>
    match ready turn with
    | none => drr n ready quantum fuel ((turn + 1) % n) false (tabPut defs turn (min (tabGet defs turn 0) (quantum turn)))
    | some b =>
      let d := if given then tabGet defs turn 0 else tabGet defs turn 0 + quantum turn
      if b ≤ d then some (turn, tabPut defs turn (d - b))
      else drr n ready quantum fuel ((turn + 1) % n) false (tabPut defs turn d)

/-- The subscriber served within a service. -/
def drrTenant (s : State) (p : Port) (svc : Nat) (rs : List Ready) : Option (Nat × Port) :=
  if rs.all fun r => decide (r.svc ≠ svc) then none else
  let rdy (t : Nat) : Option Nat := (rs.find? fun r => decide (r.svc = svc ∧ r.ten = t)).map (·.bytes)
  let q (t : Nat) : Nat := tabGet s.fab.swgt t 1 * 4096
  let defs : Tab Nat := (p.tdef.filter fun e => e.1 / 64 = svc).map fun e => (e.1 % 64, e.2)
  match drr 64 rdy q 20000 (tabGet p.tturn svc 0) (decide (tabGet p.tturn (8 + svc) 0 = 1)) defs with
  | none => none
  | some (t, d) => some (t, { p with
      tdef := d.foldl (fun tb e => tabPut tb (svc * 64 + e.1) e.2) p.tdef
      tturn := tabPut (tabPut p.tturn svc t) (8 + svc) 1 })

/-- The queue served next among the ready heads (R334): time first, then management, then services 2 to 7 by weight. -/
def pickQueue (s : State) (p : Port) (rs : List Ready) : Option (Nat × Nat × Port) :=
  let sub (svc : Nat) (q : Port) : Option (Nat × Nat × Port) := (drrTenant s q svc rs).map fun x => (svc, x.1, x.2)
  if rs = [] then none
  else if rs.any fun r => r.svc = 1 then sub 1 p
  else if rs.any fun r => r.svc = 0 then sub 0 p
  else
    let rdy (c : Nat) : Option Nat := if c < 2 then none else
      match drrTenant s p c rs with
      | some (t, _) => (rs.find? fun r => decide (r.svc = c ∧ r.ten = t)).map (·.bytes)
      | none => none
    let q (c : Nat) : Nat := p.wgt.getD (c - 2) 1 * 4096
    match drr 8 rdy q 4000 p.sturn p.sgiven p.sdef with
    | none => none
    | some (c, d) => sub c { p with sdef := d, sturn := c, sgiven := true }

/-! ### Egress of port 48 (R332) -/

/-- Queue and payload bytes of a TLP; none for what does not pass port 48. -/
def outTlp : Out → Option (Nat × Nat × Nat)
  | .hostWrite _ _ _ t svc _ bs => some (svc, t, bs.length)
  | .hostRead _ t svc _ => some (svc, t, 0)
  | .msix fn _ _ _ => some (0, if fn < 64 then fn else 0, 4)
  | .hostData fn _ bs => some (0, if fn < 64 then fn else 0, bs.length)
  | .regData fn _ => some (0, if fn < 64 then fn else 0, 4)
  | .invalidated fn _ => some (0, if fn < 64 then fn else 0, 0)
  | _ => none

/-- Must an output wait for an earlier one: a write of the same owner (R391), or, for an MSI-X message, any owned write of its
function (R370)? -/
def tlpAfter (o e : Out) : Bool :=
  match o, e with
  | .hostWrite k fn _ _ _ _ _, .hostWrite k1 fn1 _ _ _ _ _ => decide (k ≠ 0 ∧ k = k1 ∧ fn = fn1)
  | .msix fn _ _ _, .hostWrite k1 fn1 _ _ _ _ _ => decide (k1 ≠ 0 ∧ fn = fn1)
  | _, _ => false

/-- The outputs that wait for no earlier one. -/
def tlpFree : List (Nat × Out) → List Out → List (Nat × Out)
  | [], _ => []
  | o :: os, prev => if prev.any (tlpAfter o.2) then tlpFree os (o.2 :: prev) else o :: tlpFree os (o.2 :: prev)

/-- Heads of the queues of port 48, in the order in which they came. -/
def tlpHeads : List (Nat × Out) → List (Nat × Nat) → List Ready
  | [], _ => []
  | o :: os, seen =>
    match outTlp o.2 with
    | none => tlpHeads os seen
    | some (svc, t, n) => if seen.contains (svc, t) then tlpHeads os seen else ⟨svc, t, n⟩ :: tlpHeads os ((svc, t) :: seen)

/-- Take the first TLP of a queue that waits for no earlier one. -/
def takeTlp (svc t : Nat) : List (Nat × Out) → List Out → Option ((Nat × Out) × List (Nat × Out))
  | [], _ => none
  | o :: os, prev =>
    let mine := match outTlp o.2 with | some (a, b, _) => decide (a = svc ∧ b = t) && !prev.any (tlpAfter o.2) | none => false
    if mine then some (o, os) else (takeTlp svc t os (o.2 :: prev)).map fun q => (q.1, o :: q.2)

/-- The function whose request a transfer with the host is. -/
def xferFn : HostXfer → Option Nat
  | .fetch f _ => some f
  | .cq f _ => some f
  | .cmd r => some r.fn
  | _ => none

/-- Does an Invalidate Request still wait: a request under its entries is not sent, or a read of its function is outstanding
(R372; streams read under the function of their sequence)? -/
def invalWaits (s : State) (q : Nat × Nat × Nat) : Bool :=
  (s.out.any fun o => match o.2 with
    | .hostWrite _ fn _ _ _ a _ => decide (fn = q.1 ∧ q.2.1 ≤ a / 4096 ∧ a / 4096 < q.2.1 + q.2.2)
    | _ => false) ||
  s.host.reads.any fun x => match x with
    | .stream i => decide (((tabFind s.serving.seqs i).map (·.fn)) = some q.1)
    | x => decide (xferFn x = some q.1)

/-- Invalidate Requests that wait for nothing complete. -/
def settleInval (s : State) : State :=
  let done := s.host.inval.filter fun q => !invalWaits s q
  if done = [] then s else
  done.foldl (fun st q => emit st (.invalidated q.1 q.2.1)) { s with host := { s.host with inval := s.host.inval.filter fun q => invalWaits s q } }

/-- One choice at port 48. -/
def hostEgress (s0 : State) : State :=
  let s := settleGate s0 48
  let p := portAt s 48
  let rs := (tlpHeads (tlpFree s.out []) []).filter fun r => shapedOk (grainAt s (srcPort 48)) p r.svc r.ten && openAt p r.svc (merNow s)
  match pickQueue s p rs with
  | none => s
  | some (svc, t, p1) =>
    match takeTlp svc t s.out [] with
    | none => s
    | some (o, rest) =>
      let n := match outTlp o.2 with | some (_, _, k) => k | none => 0
      let p2 := debitPath (grainAt s (srcPort 48)) p1 svc t n
      let k := svc * 64 + t
      let p3 := { p2 with tx := p2.tx + n, maxdly := tabPut p2.maxdly k (max (tabGet p2.maxdly k 0) (s.clk.ticks - o.1)) }
      let s1 := { modPort s 48 (fun _ => p3) with out := rest, left := s.left ++ [o.2] }
      countEvs (settleInval s1) (srcPort 48) 0x0301 t (ceilDiv n 256)

end Sys2Proof.Machine
end

