-- ==== Sys2Proof/Machine/BarOps.lean ====
section
/-! DEFINITION. BAR2 requests and doorbells in arrival order, ingress shaping, and mailbox errors (R366 to R368, R374, R379
to R382). -/

namespace Sys2Proof.Machine

/-! ### Doorbells (R380 to R382) -/

/-- Encoding of STATE (Table 16.1). -/
def mboxCode : MboxState → Nat
  | .off => 0 | .enabled => 1 | .error => 2 | .draining => 3

/-- Status word of a doorbell page (offset 0x008). -/
def mboxWord (s : State) (fn m : Nat) : Nat :=
  let b := mboxAt s fn m
  inflOf s fn m * 2 ^ 16 + bit01 b.cfgerr * 128 + bit01 b.cqerr * 64 + bit01 b.fetcherr * 32 + bit01 b.dberr * 16
    + bit01 b.wrej * 8 + mboxCode b.st

/-- A mailbox enters ERROR: one event on its vector, one event record (R381). -/
def mboxError (s : State) (fn m : Nat) (f : Mbox → Mbox) : State :=
  let b := f (mboxAt s fn m)
  let s1 := setMbox s fn m { b with st := .error }
  postEvent (msixEvent s1 fn b.vector) (srcFn fn) 0x0105 0 (fnTenant fn) m (mboxWord s1 fn m) 0

/-- A write of SQ_TAIL is acted on (R382). -/
def ringSq (s : State) (fn m v : Nat) : State :=
  let b := mboxAt s fn m
  if !(funcAt s fn).ready ∨ b.st ≠ .enabled then s
  else if 2 ^ b.sqLog2 ≤ v then mboxError s fn m fun x => { x with dberr := true }
  else setMbox s fn m { b with sqTail := v }

/-- A write of CQ_HEAD is acted on (R382): it may release only slots written and not released. -/
def ringCq (s : State) (fn m v : Nat) : State :=
  let b := mboxAt s fn m
  if !(funcAt s fn).ready ∨ b.st ≠ .enabled then s
  else
    let n := 2 ^ b.cqLog2
    let d := (v + n - b.cqHead) % n
    if n ≤ v ∨ b.posted < d then mboxError s fn m fun x => { x with dberr := true }
    else setMbox s fn m { b with cqHead := v, posted := b.posted - d }

/-! ### BAR2 (R366 to R368, R186) -/

/-- Record of a fault of a host window (Table 7.8). -/
def windowFault (s : State) (fn kind acc page cause : Nat) : State :=
  postFault (countQuota s walkHubControl (fnTenant fn) kind) (fnTenant fn)
    { bytes := atlasRecord (merNow s) (srcFn fn) kind 0xFF 0 acc page 0 0xFFFF 0 cause, holder := .window fn }

/-- All-ones data. -/
def onesBytes (n : Nat) : Bytes := List.replicate n 0xFF

/-- Outcome of serving one request. -/
inductive Served where
  | done (s : State)
  | wait (s : State) (q : BarReq)

/-- A host access meets a MISS: as for a command (R170, R173, R186). -/
def winMiss (s : State) (fn t p : Nat) : PageAcc :=
  let f := funcAt s fn
  match f.barFail.filter fun q => decide (q.1 = p) with
  | some q => .fault 0x02 q.2 p
  | none =>
    if f.barMiss = some p ∧ (migOf s t p).isSome then .wait s else
    match missAt (unitWalk s 0 t p) t p walkHubControl with
    | .ok s1 => .wait (modFunc s1 fn fun g => { g with barMiss := some p })
    | .error (_, c) => .fault 0x02 c p

/-- An access through a window: which page decides, or ready. -/
def winReady (s : State) (fn va n : Nat) (acc : Acc) : PageAcc :=
  let t := fnTenant fn
  if 2 ^ 57 < va + n ∨ 2 ^ 57 ≤ va then .fault 0x05 0x30 (va / 65536 % 2 ^ 41) else
  (bytePages va n).foldl (fun o p => match o with
    | .ready => match checkPage s t p acc with
      | .fault k c => .fault k c p
      | .miss => winMiss s fn t p
      | .remote _ => .ready
      | _ => match leafAt s t p with
        | some l => if l.mig then .wait s else .ready
        | none => .ready
    | o => o) .ready

/-- The peer window of an access, if its page is a window page. -/
def winOf (s : State) (t va : Nat) : Option PeerWin :=
  match leafAt s t (pageOf va) with
  | some { loc := .win w, .. } => tabFind (ctxAt s t).wins w
  | _ => none

/-- Serve a BAR2 write at an atlas address (R366, R368, R186). -/
def serveWr (s : State) (fn va : Nat) (bs : Bytes) (sent : Bool) : Served :=
  let t := fnTenant fn
  if sent then .wait s (.wr va bs true) else
  match winReady s fn va bs.length .write with
  | .wait s1 => .wait s1 (.wr va bs false)
  | .fault k c p => .done (windowFault s fn k 1 p c)
  | .ready =>
    match winOf s t va with
    | none => .done (touchPages (hubWrite s t va bs) t walkHubControl (bytePages va bs.length))
    | some pw =>
      match startRemote s { kind := 1, module := pw.module, tenant := t, va := (pw.rpage + (pageOf va - pw.lpage)) * 65536 + va % 65536, len := bs.length, data := bs, owner := .host fn 1024, off := va } with
      | none => .wait s (.wr va bs false)
      | some (s1, _) => .wait s1 (.wr va bs true)

/-- Serve a BAR2 read at an atlas address (R366, R367, R186). -/
def serveRd (s : State) (fn tag va n dl : Nat) (sent : Bool) (got : Option Bytes) : Served :=
  let t := fnTenant fn
  match got with
  | some bs => .done (emit s (.hostData fn tag bs))
  | none =>
    if sent then .wait s (.rd tag va n dl true none) else
    match winReady s fn va n .read with
    | .wait s1 => .wait s1 (.rd tag va n dl false none)
    | .fault k c p => .done (emit (windowFault s fn k 0 p c) (.hostData fn tag (onesBytes n)))
    | .ready =>
      match winOf s t va with
      | none => .done (touchPages (emit (hubRead s t va n) (.hostData fn tag (readMem s t va n))) t walkHubControl (bytePages va n))
      | some pw =>
        match startRemote s { kind := 0, module := pw.module, tenant := t, va := (pw.rpage + (pageOf va - pw.lpage)) * 65536 + va % 65536, len := n, owner := .host fn tag, off := va } with
        | none => .wait s (.rd tag va n dl false none)
        | some (s1, _) => .wait s1 (.rd tag va n dl true none)

/-- Serve the oldest request of a function. -/
def serveOne (s : State) (fn : Nat) (q : BarReq) : Served :=
  match q with
  | .wr va bs sent => serveWr s fn va bs sent
  | .rd tag va n dl sent got => serveRd s fn tag va n dl sent got
  | .sq m v => .done (ringSq s fn m v)
  | .cq m v => .done (ringCq s fn m v)

/-- Counted length of a request (R374): the payload of a write, the requested length of a read; doorbells are none of them. -/
def barLen (q : BarReq) : Nat :=
  match q with | .wr _ bs _ => bs.length | .rd _ _ n _ _ _ => n | _ => 0

/-- Is it a BAR2 write? -/
def isWr (q : BarReq) : Bool := match q with | .wr _ _ _ => true | _ => false

/-- Is it a doorbell? -/
def isBell (q : BarReq) : Bool := match q with | .sq _ _ => true | .cq _ _ => true | _ => false

/-- A function's ingress entry (Table 15.9). -/
def ingressAt (s : State) (fn : Nat) : Ingress := tabGet s.host.ingress fn {}

/-- Change a function's ingress entry. -/
def modIngress (s : State) (fn : Nat) (f : Ingress → Ingress) : State :=
  { s with host := { s.host with ingress := tabPut s.host.ingress fn (f (ingressAt s fn)) } }

/-- A request has been served: its length leaves the round's deficit and the bucket (R336, R374). -/
def reqDebit (s : State) (fn : Nat) (q : BarReq) : State :=
  if isBell q then s else
  modIngress s fn fun g => { g with deficit := g.deficit - barLen q, bucket := bucketDebit g.bucket (grainAt s (srcFn 0)) (barLen q) }

/-- The doorbells that no BAR2 write of their function stands before (R368), and the rest of its queue. -/
def freeBells : List BarReq → List BarReq × List BarReq
  | [] => ([], [])
  | q :: qs =>
    if isWr q then ([], q :: qs) else
    let r := freeBells qs
    if isBell q then (q :: r.1, r.2) else (r.1, q :: r.2)

/-- Act on a doorbell. -/
def ringBell (fn : Nat) (s : State) (q : BarReq) : State :=
  match q with
  | .sq m v => ringSq s fn m v
  | .cq m v => ringCq s fn m v
  | _ => s

/-- Act on the doorbells of a function that wait for no write. -/
def serveBells (s : State) (fn : Nat) : State :=
  let r := freeBells (funcAt s fn).barq
  if r.1 = [] then s else r.1.foldl (ringBell fn) (modFunc s fn fun f => { f with barq := r.2 })

/-- The oldest request has been served: what its promotion came to is forgotten. -/
def forgetMiss (s : State) (fn : Nat) : State :=
  let f := funcAt s fn
  if f.barMiss.isNone ∧ f.barFail.isNone then s else modFunc s fn fun g => { g with barMiss := none, barFail := none }

/-- Serve a function's requests in arrival order until one must wait or the deficit does not reach. -/
def drainFn (fn : Nat) : Nat → State → State
  | 0, s => s
  | fuel + 1, s =>
    match (funcAt s fn).barq with
    | [] => modIngress s fn fun g => { g with deficit := 0 }
    | q :: qs =>
      if (ingressAt s fn).deficit < barLen q then s else
      match serveOne (modFunc s fn fun f => { f with barq := qs }) fn q with
      | .done s1 => drainFn fn fuel (reqDebit (forgetMiss s1 fn) fn q)
      | .wait s1 q1 => modIngress (modFunc s1 fn fun f => { f with barq := q1 :: qs }) fn fun g => { g with deficit := 0 }

/-- Bytes a function holds in the ingress buffer (R374). -/
def barHeld (f : Func) : Nat := (f.barq.map barLen).sum

/-- Which functions hold more than CAP (R374), with STALLS counted for each that has newly passed it; a function leaves the
list when it has fallen below CAP. -/
def capCheck (s : State) (fn : Nat) : State :=
  let g := ingressAt s fn
  let held := barHeld (funcAt s fn)
  if s.host.overCap.contains fn then
    if held < g.cap * 8192 then { s with host := { s.host with overCap := s.host.overCap.filter (· ≠ fn) } } else s
  else if g.cap * 8192 < held then
    let s1 := modIngress s fn fun g => { g with stalls := min (2 ^ 32 - 1) (g.stalls + 1) }
    { s1 with host := { s1.host with overCap := s1.host.overCap ++ [fn] } }
  else s

/-- May a function's BAR2 traffic be served: while one function is over its CAP only that function's is (R374). -/
def fnServed (s : State) (fn : Nat) : Bool := decide (s.host.overCap = []) || s.host.overCap.contains fn

/-- A function's turn in the deficit round-robin: a quantum of WGT × 4,096 bytes (R374). -/
def serveFn (s : State) (fn : Nat) : State :=
  let s1 := serveBells s fn
  if !fnServed s1 fn ∨ (funcAt s1 fn).barq = [] then s1 else
  let s2 := modIngress s1 fn fun g => { g with deficit := g.deficit + g.wgt * 4096 }
  capCheck (drainFn fn ((funcAt s2 fn).barq.length + 1) s2) fn

/-- One round of the functions whose buckets are at or above zero (`good`), or of the others (R374). -/
def serveRound (good : Bool) (s : State) : State :=
  let fns := (s.host.funcs.filter fun q => decide (q.2.barq ≠ [])).map (·.1)
  (fns.filter fun fn => bucketOk (ingressAt s fn).bucket (grainAt s (srcFn 0)) == good).foldl serveFn s

/-- Rounds as long as requests wait. -/
def serveRounds (good : Bool) : Nat → State → State
  | 0, s => s
  | n + 1, s => serveRounds good n (serveRound good s)

/-- Serve what can be served, after something has changed: a function in debt only when no other function has a request that
could be served (R374). -/
def serveAll (s : State) : State :=
  let n := (s.host.funcs.map fun q => q.2.barq.length).sum + 1
  serveRounds false n (serveRounds true n s)

/-- A request arrives from the host. -/
def barArrive (s : State) (fn : Nat) (q : BarReq) : State :=
  serveAll (capCheck (modFunc s fn fun f => { f with barq := f.barq ++ [q] }) fn)

end Sys2Proof.Machine
end

