-- ==== Sys2Proof/Machine/Placement.lean ====
section
/-! DEFINITION. Placement, pre-emption, save and restore, dealing, semaphores' inheritance, ending and aborting
(chapter 8). -/

namespace Sys2Proof.Machine

/-! ### Priorities and inheritance (R208) -/

/-- Best priority among a job and those that wait, directly or through a chain, on LOCKs it holds. -/
def chainPrio (s : State) : Nat → Nat → Nat
  | 0, j => match jobAt s j with | some x => x.prio | none => 8
  | fuel + 1, j =>
    let own := match jobAt s j with | some x => x.prio | none => 8
    s.jobs.sems.foldl (fun b q =>
      if q.2.lock ∧ q.2.count = 0 ∧ q.2.holder = some j then q.2.waiters.foldl (fun b w => min b (chainPrio s fuel w.jobid)) b else b) own

/-- Is inheritance in force for a holder? -/
def inherits (s : State) (j : Nat) : Bool := s.jobs.inherit.any fun x => x.1 = j

/-- Effective priority (R208). -/
def effPrio (s : State) (j : Nat) : Nat :=
  if inherits s j then chainPrio s s.jobs.jobs.length j
  else match jobAt s j with | some x => x.prio | none => 8

/-- Has a job a job-core in one of the states? -/
def jobHas (j : Job) (p : JobCore → Bool) : Bool := j.jcores.any fun q => p q.2

/-- Does a waiter of better priority than the holder's own wait on a LOCK that it holds? -/
def betterWaiter (s : State) (h : Nat) : Bool :=
  match jobAt s h with
  | none => false
  | some hj => s.jobs.sems.any fun q => q.2.lock && decide (q.2.count = 0 ∧ q.2.holder = some h) && q.2.waiters.any fun w =>
      match jobAt s w.jobid with
      | some wj => decide (wj.prio < hj.prio)
      | none => false

/-- Start and end inheritances as R208 states; whether any changed. -/
def updateInherit (s : State) : State × Bool :=
  let stay := s.jobs.inherit.filter fun x => betterWaiter s x.1
  let new := s.jobs.jobs.filter fun q =>
    betterWaiter s q.1 && !(stay.any fun x => x.1 = q.1) &&
    !jobHas q.2 fun c => c.st = .resident || c.st = .restoring
  let added := new.map fun q => (q.1, s.clk.ticks, false)
  ({ s with jobs := { s.jobs with
      inherit := stay ++ added
      inhtoAt := added.foldl (fun t a => tabPut t a.1 s.jobs.inhto) s.jobs.inhtoAt } },
   decide (stay.length ≠ s.jobs.inherit.length) || decide (added ≠ []))

/-! ### Open cores (R196) -/

/-- Cores that are fenced, as a mask (R473). -/
def fencedCores (s : State) : BitVec 96 :=
  BitVec.ofNat 96 ((s.units.filter fun q => decide (q.1 < 96) && q.2.fenced).map fun q => 2 ^ q.1).sum

/-- Cores a job may use: its pool mask (R238), JMASK, or the tenant's mask, within the tenant's mask, enabled and not
fenced. -/
def jobMask (s : State) (j : Job) : BitVec 96 :=
  let t := (tenAt s j.tenant).cores
  (match j.pool with
   | some m => m &&& t
   | none => if j.jmask = 0 then t else BitVec.ofNat 96 j.jmask &&& t) &&& s.enCores &&& ~~~ fencedCores s

/-- Reservations on a core for other job-cores. -/
def otherRes (s : State) (c jobid jcore : Nat) : List Reserve :=
  s.jobs.reserves.filter fun r => r.core = c ∧ !(r.jobid = jobid ∧ r.jcore = jcore)

/-- Segments of a core in no window and reserved for nobody else, lowest first. -/
def freeSegs (s : State) (c jobid jcore : Nat) (k : Core) : List Nat :=
  (List.range 16).filter fun g => !(k.slots.any fun p => p.2.segs.contains g)
    && !((otherRes s c jobid jcore).any fun r => r.segs.contains g)

/-- Accumulator spans of a core in use or reserved for others. -/
def usedSpans (s : State) (c jobid jcore : Nat) (k : Core) : List (Nat × Nat) :=
  (k.slots.map fun p => (p.2.accBase, p.2.nacc)) ++ (otherRes s c jobid jcore).flatMap (·.spans)

/-- First-fit span of n entries from entry 0 (R196). -/
def spanFit (used : List (Nat × Nat)) (n : Nat) : Option Nat :=
  (minMax ((0 :: used.map fun u => u.1 + u.2).filter fun b =>
    decide (b + n ≤ 512) && used.all fun u => !regsMeet b n u.1 u.2)).map (·.1)

/-- Is a core open for a job-core (R196)? -/
def coreOpen (s : State) (jobid jcore : Nat) (j : Job) (c : Nat) (k : Core) : Bool :=
  (jobMask s j).getLsbD c && !(k.slots.any fun p => p.2.jobid = jobid)
    && decide (nResident k + ((otherRes s c jobid jcore).map (·.slots)).sum < 8)
    && decide (j.nseg ≤ (freeSegs s c jobid jcore k).length)
    && (spanFit (usedSpans s c jobid jcore k) j.nacc).isSome

/-- Cores in ascending order. -/
def allCores : List Nat := List.range 96

/-- The open core with the fewest resident jobs, the lowest number on a tie. -/
def bestOpen (s : State) (jobid jcore : Nat) (j : Job) : Option Nat :=
  (allCores.filter fun c => coreOpen s jobid jcore j c (coreAt s c)).foldl (fun b c =>
    match b with
    | none => some c
    | some d => if nResident (coreAt s c) < nResident (coreAt s d) then some c else some d) none

/-! ### Placing -/

/-- Bytes of a save: ON segments, entries with anchors, context block (Table 8.4). -/
def saveBytes (nOn nacc : Nat) : Nat := nOn * 1048576 + nacc * 4736 + 16384

/-- Tiles of the save pool (R204). -/
def saveTiles (bytes : Nat) : Nat := ceilDiv bytes 65536

/-- Cycles a save or restore of some bytes lasts (R203). -/
def saveCycles (bytes : Nat) : Nat := ceilDiv bytes 144

/-- Tiles of the save pool that a save of a job-core on a core takes: its segments that are ON, or WAKING and waited for (Table
8.4, R204). -/
def slotTiles (k : Core) (sl : Slot) : Nat :=
  saveTiles (saveBytes (sl.segs.filter fun g => segState k g = .on ∨ segState k g = .waking).length sl.nacc)

/-- Tiles of the save pool that a job-core takes: from the start of its save to the end of its restore (R204). -/
def jcTiles (s : State) (c : JobCore) : Nat :=
  match c.area with
  | some a => a.tiles
  | none =>
    if c.st = .saving then (match slotAt s c.core c.slot with | some sl => slotTiles (coreAt s c.core) sl | none => 0) else 0

/-- Tiles of the save pool in use. -/
def savePoolUsed (s : State) : Nat := (s.jobs.jobs.map fun q => (q.2.jcores.map fun c => jcTiles s c.2).sum).sum

/-- Save pool (R204). -/
def savePool : Nat := 338688

/-- Place a job-core on a core (R196, R205): a slot, segments and a span are taken, and the window's segments wake.  While it is
RESTORING its context is the slot's: what a grant, a timeout, a resume or an abort changes there stands at the restore's end. -/
def placeOn (s : State) (jobid jcore c : Nat) : State :=
  match jobAt s jobid with
  | none => s
  | some j =>
    let k := coreAt s c
    let jc := tabGet j.jcores jcore {}
    match tabGap k.slots 0 8, spanFit (usedSpans s c jobid jcore k) j.nacc with
    | some i, some base =>
      let segs := (freeSegs s c jobid jcore k).take j.nseg
      let wake : List Nat := match jc.area with
        | some a => ((List.zip segs a.segOn).filter fun (z : Nat × Bool) => z.2).map fun z => z.1
        | none => segs
      let due := cycNow s c + 3600
      let ctx : Ctx := match jc.area with
        | some a => a.ctx
        | none => { regions := j.rtab }
      let bytes := match jc.area with
        | some a => saveBytes (a.segOn.filter id).length j.nacc
        | none => 0
      let k1 := { k with
        slots := tabPut k.slots i { jobid := jobid, jcore := jcore, segs := segs, accBase := base, nacc := j.nacc, ctx := ctx }
        segs := wake.foldl (fun t g => tabPut t g .waking) k.segs
        segDue := wake.foldl (fun t g => tabPut t g due) k.segDue }
      let s1 := setCore s c k1
      let s2 := modJc s1 jobid jcore fun x => { x with st := .restoring, core := c, slot := i, due := due + saveCycles bytes }
      { s2 with jobs := { s2.jobs with reserves := s2.jobs.reserves.filter fun r => !(r.jobid = jobid ∧ r.jcore = jcore) } }
    | _, _ => s

/-! ### Dealing (R199) -/

/-- Plots a queue holds at most (Table 5.12, PQDEPTH). -/
def pqLimit (k : Core) : Nat := [16, 32, 64].getD k.pqdepth 64

/-- Resident job-cores of a job with room in their queues, on cores of its pool (R255): index, queued plots. -/
def dealable (s : State) (j : Job) : List (Nat × Nat) :=
  j.jcores.filterMap fun c =>
    if decide (c.2.st = .resident) && (match j.pool with | some m => m.getLsbD c.2.core | none => true) then
      match slotAt s c.2.core c.2.slot with
      | some sl => if sl.ctx.plotq.length < pqLimit (coreAt s c.2.core) then some (c.1, sl.ctx.plotq.length) else none
      | none => none
    else none

/-- Queue a plot at a job-core. -/
def queuePlot (s : State) (j : Job) (i : Nat) (p : Plot) : State :=
  let jc := tabGet j.jcores i {}
  modCtx s jc.core jc.slot fun x => { x with plotq := x.plotq ++ [p] }

/-- Deal undealt plots, at most `fuel` of them, each to the job-core with the fewest queued plots. -/
def dealLoop (jobid : Nat) : Nat → State → State
  | 0, s => s
  | fuel + 1, s =>
    match jobAt s jobid with
    | none => s
    | some j =>
      match j.undealt, dealable s j with
      | p :: ps, d :: ds =>
        let b := ds.foldl (fun b x => if x.2 < b.2 then x else b) d
        dealLoop jobid fuel (modJob (queuePlot s j b.1 p) jobid fun x => { x with undealt := ps })
      | _, _ => s

/-- Move a job-core's targeted plots to its queue while there is room. -/
def targetLoop (jobid i : Nat) : Nat → State → State
  | 0, s => s
  | fuel + 1, s =>
    match jobAt s jobid with
    | none => s
    | some j =>
      match (tabGet j.jcores i {}).targeted with
      | [] => s
      | p :: ps =>
        if (dealable s j).any (fun d => d.1 = i) then
          targetLoop jobid i fuel (modJc (queuePlot s j i p) jobid i fun x => { x with targeted := ps })
        else s

/-- Deal what can be dealt for a job. -/
def deal (s : State) (jobid : Nat) : State :=
  match jobAt s jobid with
  | none => s
  | some j =>
    dealLoop jobid j.undealt.length
      (j.jcores.foldl (fun st c => targetLoop jobid c.1 c.2.targeted.length st) s)

/-! ### Saving (R202) -/

/-- Insert a plot in dealing order. -/
def insertPlot (p : Plot) : List Plot → List Plot
  | [] => [p]
  | q :: qs => if p.seq < q.seq then p :: q :: qs else q :: insertPlot p qs

/-- STOP: issue and fetch stop; fetched commands are discarded and refetched by index on restore, faulted fetches too; QUEUED plots
leave the core's queue; a pending MEM.WAIT is withdrawn, its watch, its next read and its TIMEOUT with it (R202). -/
def stopCtx (x : Ctx) : Ctx :=
  { x with queue := [], plotq := [], fetchMiss := none, fetchFault := none
           run := x.run.map fun r => { r with fetched := r.issued }
           nextRun := x.nextRun.map fun r => { r with fetched := 0 }
           wait := match x.wait with
             | some (.mem va cond value _ _ np q) => some (.mem va cond value none none np q)
             | o => o }

/-- A RESIDENT job-core enters SAVING (R201, R202); its dealt plots return to the dealing order and are dealt on (R199). -/
def startSave (s : State) (jobid jcore : Nat) : State :=
  match jobAt s jobid with
  | none => s
  | some j =>
    let jc := tabGet j.jcores jcore {}
    match slotAt s jc.core jc.slot with
    | none => s
    | some sl =>
      let q := sl.ctx.plotq
      let s1 := modCtx s jc.core jc.slot stopCtx
      let s2 := modJob s1 jobid fun x => { x with
        undealt := (q.filter fun p => p.target = none).foldr insertPlot x.undealt }
      deal (countEv (modJc s2 jobid jcore fun y => { y with
        st := .saving, phase := .quiesce, drained := false
        targeted := (q.filter fun p => p.target ≠ none) ++ y.targeted }) jc.core 0x000E (jobTenant jobid)) jobid

/-! ### Pre-emption (R201) -/

/-- Resident job-cores of a core that `ok` admits, worst priority first, then most recently made resident. -/
def victimOrder (s : State) (k : Core) (ok : Slot → Bool) : List (Nat × Slot) :=
  let rs := k.order.reverse.filterMap fun i => match tabFind k.slots i with
    | some sl => match jobAt s sl.jobid with
      | some j => if (tabGet j.jcores sl.jcore {}).st = .resident ∧ ok sl then some (i, sl) else none
      | none => none
    | none => none
  let prio (p : Nat × Slot) : Nat := match jobAt s p.2.jobid with | some j => j.prio | none => 8
  [7, 6, 5, 4, 3, 2, 1, 0].flatMap fun n => rs.filter fun p => prio p = n

/-- The shortest start of the list whose removal opens the core. -/
def shortestOpening (s : State) (jobid jcore c : Nat) (j : Job) (k : Core) (taken : List (Nat × Slot)) :
    List (Nat × Slot) → Option (List (Nat × Slot))
  | [] => if coreOpen s jobid jcore j c k then some taken else none
  | v :: vs =>
    if coreOpen s jobid jcore j c k then some taken
    else shortestOpening s jobid jcore c j { k with slots := tabDel k.slots v.1 } (taken ++ [v]) vs

/-- Save-pool tiles that a list of victims needs. -/
def victimTiles (k : Core) (vs : List (Nat × Slot)) : Nat := (vs.map fun v => slotTiles k v.2).sum

/-- Reserve a core for a job-core and send the victims into SAVING. -/
def takeVictims (s : State) (jobid jcore c : Nat) (vs : List (Nat × Slot)) : State :=
  let r : Reserve := { core := c, jobid := jobid, jcore := jcore, victims := vs.map fun v => (v.2.jobid, v.2.jcore) }
  vs.foldl (fun st v => startSave st v.2.jobid v.2.jcore)
    { s with jobs := { s.jobs with reserves := s.jobs.reserves ++ [r] } }

/-- A job-core seeks a pre-emption (R201). -/
def seekPreempt (s : State) (jobid jcore : Nat) (j : Job) : State :=
  let p := effPrio s jobid
  let cands := allCores.filterMap fun c =>
    let k := coreAt s c
    if (jobMask s j).getLsbD c ∧ !(k.slots.any fun q => q.2.jobid = jobid) then
      let vs := victimOrder s k fun sl =>
        decide (p < (match jobAt s sl.jobid with | some x => x.prio | none => 0))
          && !s.jobs.nopreempt.getLsbD (jobTenant sl.jobid)
      match shortestOpening s jobid jcore c j k [] vs with
      | some w => if savePoolUsed s + victimTiles k w ≤ savePool then some (c, w) else none
      | none => none
    else none
  match cands with
  | [] => s
  | q :: qs =>
    let b := qs.foldl (fun b x => if x.2.length < b.2.length then x else b) q
    takeVictims s jobid jcore b.1 b.2

/-! ### Placement decision (R197) -/

/-- A pending job-core and its order key. -/
structure Pend where
  jobid : Nat
  jcore : Nat
  key : List Nat
  deriving DecidableEq, Repr

/-- Lexicographic order of keys. -/
def keyLt : List Nat → List Nat → Bool
  | a :: as, b :: bs => if a < b then true else if b < a then false else keyLt as bs
  | _, _ => false

/-- Insert by key. -/
def pendInsert (p : Pend) : List Pend → List Pend
  | [] => [p]
  | q :: qs => if keyLt p.key q.key then p :: q :: qs else q :: pendInsert p qs

/-- Pending job-cores in the order in which they are served. -/
def pendingCores (s : State) : List Pend :=
  (s.jobs.jobs.flatMap fun q => q.2.jcores.filterMap fun c =>
    if c.2.st = .saved ∨ (c.2.st = .unplaced ∧ q.2.ending = none) then
      some (⟨q.1, c.1, [effPrio s q.1, if c.2.st = .saved then 0 else 1, c.2.pendingSince, q.1, c.1]⟩ : Pend)
    else none).foldr pendInsert []

/-- Serve one pending job-core.  A job-core for which a core is reserved counts toward MINCORES: pre-emption never serves growth
beyond it. -/
def servePending (s : State) (p : Pend) : State :=
  match jobAt s p.jobid with
  | none => s
  | some j =>
    let jc := tabGet j.jcores p.jcore {}
    if jc.st = .saved ∧ coreOpen s p.jobid p.jcore j jc.savedFrom (coreAt s jc.savedFrom) then
      placeOn s p.jobid p.jcore jc.savedFrom
    else match bestOpen s p.jobid p.jcore j with
    | some c => placeOn s p.jobid p.jcore c
    | none =>
      let held := (j.jcores.filter fun c => c.2.st = .resident ∨ c.2.st = .saving ∨ c.2.st = .restoring).length
      let held1 := held + (s.jobs.reserves.filter fun r => r.jobid = p.jobid).length
      let waiting := s.jobs.reserves.any fun r => r.jobid = p.jobid ∧ r.jcore = p.jcore
      if held1 < j.mincores ∧ !waiting ∧ !inherits s p.jobid then seekPreempt s p.jobid p.jcore j else s

/-- Serve every pending job-core in its turn. -/
def serveAllPending (s : State) : State := (pendingCores s).foldl servePending s

/-- Placement decisions until none starts or ends an inheritance: a victim that enters SAVING may be a holder's last RESIDENT
job-core, and the start of inheritance is itself a placement decision (R208). -/
def placeLoop : Nat → State → State
  | 0, s => s
  | n + 1, s =>
    let r := updateInherit (serveAllPending s)
    if r.2 then placeLoop n r.1 else r.1

/-- A placement decision, with those that it brings about. -/
def placement (s : State) : State := placeLoop (s.jobs.jobs.length + 1) s

/-- Update inheritance; its start or end is itself a placement decision (R208). -/
def inheritStep (s : State) : State :=
  let r := updateInherit s
  if r.2 then placement r.1 else r.1

/-! ### Semaphores (R110 to R112, R207) -/

/-- Change a semaphore. -/
def setSem (s : State) (h : Nat) (m : Sem) : State := { s with jobs := { s.jobs with sems := tabPut s.jobs.sems h m } }

/-- Priority of a waiter: its job's; a collective group waits with priority 0 (R325). -/
def waiterPrio (s : State) (x : SemWaiter) : Nat :=
  if x.group.isSome then 0 else match jobAt s x.jobid with | some j => j.prio | none => 8

/-- The waiter served next: best priority, then arrival (R110, R209). -/
def bestWaiter (s : State) : List SemWaiter → Option SemWaiter
  | [] => none
  | w :: ws =>
    match bestWaiter s ws with
    | none => some w
    | some v =>
      if waiterPrio s v < waiterPrio s w ∨ (waiterPrio s v = waiterPrio s w ∧ v.num < w.num) then some v else some w

/-- Clear the wait of a job-core, wherever its context is (R112). -/
def clearWait (s : State) (jobid jcore : Nat) : State :=
  match jobAt s jobid with
  | none => s
  | some j =>
    let jc := tabGet j.jcores jcore {}
    if jc.st = .saved then
      modJc s jobid jcore fun x => { x with area := x.area.map fun a => { a with ctx := { a.ctx with wait := none } } }
    else modCtx s jc.core jc.slot fun x => { x with wait := none }

/-- A wait has its amount: the job-core goes on, or the group reads its next descriptor (R112, R325). -/
def granted (s : State) (w : SemWaiter) : State :=
  match w.group with
  | some k => { s with fab := { s.fab with groups := tabUpd s.fab.groups k fun g => { g with taken := true } } }
  | none => clearWait s w.jobid w.jcore

/-- Grant queued waits while the best waiter's amount is there (R110, R112). -/
def grantLoop (h : Nat) : Nat → State → State
  | 0, s => s
  | fuel + 1, s =>
    match tabFind s.jobs.sems h with
    | none => s
    | some m =>
      match bestWaiter s m.waiters with
      | none => s
      | some w =>
        if w.amount ≤ m.count then
          grantLoop h fuel (granted (setSem s h { m with
            count := m.count - w.amount
            holder := if m.lock then some w.jobid else none
            waiters := m.waiters.erase w }) w)
        else s

/-- Serve the waiters of a semaphore. -/
def semGrant (s : State) (h : Nat) : State :=
  match tabFind s.jobs.sems h with
  | none => s
  | some m => inheritStep (grantLoop h m.waiters.length s)

/-- Status with which a signal is refused, in R111's order; none when it is made. -/
def signalBad (s : State) (jobid h n : Nat) : Option Nat :=
  match tabFind s.jobs.sems h with
  | none => some stNoPerm
  | some m =>
    if jobTenant m.owner ≠ jobTenant jobid then some stNoPerm
    else if m.lock ∧ m.holder ≠ some jobid then some stNoPerm
    else if n = 0 ∨ 2 ^ 32 ≤ m.count + n ∨ (m.lock ∧ (n ≠ 1 ∨ m.count = 1)) then some stBadParam
    else none

/-- Add to a semaphore and serve its waiters (R111). -/
def semAdd (s : State) (h n : Nat) : State :=
  match tabFind s.jobs.sems h with
  | none => s
  | some m => semGrant (setSem s h { m with count := m.count + n }) h

/-- Halt a job-core over its SEM.WAIT (R111, R207, R110): wherever its context is. -/
def haltWaiter (s : State) (jobid jcore status h : Nat) : State :=
  match jobAt s jobid with
  | none => s
  | some j =>
    let jc := tabGet j.jcores jcore {}
    let upd (x : Ctx) : Ctx := match x.wait with
      | some (.sem _ _ _ q) => { x with wait := none, halt := some (.refused q) }
      | _ => x
    if jc.st = .saved then
      match jc.area with
      | none => s
      | some a =>
        let q := match a.ctx.wait with | some (.sem _ _ _ q) => q | _ => {}
        let plotid := match a.ctx.run with | some r => r.plot.plotid | none => 0
        postFault (modJc s jobid jcore fun x => { x with area := some { a with ctx := upd a.ctx } }) (jobTenant jobid)
          { bytes := commandRecord (merAt s jc.savedFrom) jc.savedFrom jc.slot jobid plotid q.idx (cmdOp q.bytes) status
              (cmdTag q.bytes) h, holder := .core jc.savedFrom jc.slot jobid }
    else
      match slotAt s jc.core jc.slot with
      | some sl =>
        match sl.ctx.wait with
        | some (.sem _ _ _ q) =>
          haltCmd (modCtx s jc.core jc.slot fun x => { x with wait := none }) jc.core jc.slot q status h
        | _ => s
      | none => s

/-- Destroy a semaphore: its waiters are withdrawn and halt with NOPERM (R207). -/
def semDestroy (s : State) (h : Nat) : State :=
  match tabFind s.jobs.sems h with
  | none => s
  | some m =>
    m.waiters.foldl (fun st w => haltWaiter st w.jobid w.jcore stNoPerm h)
      { s with jobs := { s.jobs with sems := tabDel s.jobs.sems h } }

/-- Withdraw a job-core's wait from every semaphore. -/
def semWithdraw (s : State) (jobid jcore : Nat) : State :=
  { s with jobs := { s.jobs with sems := s.jobs.sems.map fun q =>
    (q.1, { q.2 with waiters := q.2.waiters.filter fun w => !(w.jobid = jobid ∧ w.jcore = jcore) }) } }

/-- Serve every semaphore: after waits were withdrawn, a later waiter may have its amount there (R110, R112). -/
def serveSems (s : State) : State :=
  s.jobs.sems.foldl (fun st q => if q.2.waiters = [] then st else semGrant st q.1) s

/-! ### Leaving a core, ending and aborting (R202, R210, R211) -/

/-- Entries that interrupted passes of a slot have written, absolute (R48). -/
def interruptedEntries (k : Core) (i : Nat) (sl : Slot) : List Nat :=
  (k.passes.filter fun p => p.slot = i ∧ p.start ≠ none).flatMap fun p =>
    let e := passEntries sl (passF p.cmd.bytes)
    (List.range e.2).map fun n => e.1 + n

/-- The entries of interrupted passes take free values (R48). -/
def freeEntries (s : State) (c : Nat) (es : List Nat) : State :=
  let vals := (enumFrom 0 (es.flatMap fun e => (List.range 512).map fun j => accKey e j))
  let k := coreAt s c
  { setCore s c { k with acc := vals.foldl (fun t q => tabPut t q.2
      { x := Config.freeValue (s.freeCtr + 2 * q.1), a := (Config.freeValue (s.freeCtr + 2 * q.1 + 1)).toInt % 1024 - 512 }) k.acc }
    with freeCtr := s.freeCtr + 2 * vals.length }

/-- Does the last of a list hold? -/
def lastIs {α : Type} (p : α → Bool) (l : List α) : Bool := match l.getLast? with | some x => p x | none => false

/-- A job-core's slot is freed: units drop its commands, the array stops feeding its planes and the drain path stops reading its
values at once (R48), entries go, segments go OFF, the weight tag of its job is invalidated (R202 RELEASE, R211). -/
def clearSlot (s : State) (c i : Nat) : State :=
  match slotAt s c i with
  | none => s
  | some sl =>
    let now := cycNow s c
    takeRate (modCore s c fun k =>
      { sbDropSlot k i with
        rowFree := if lastIs (·.slot = i) (k.passes.filter fun p => p.start ≠ none) then min k.rowFree now else k.rowFree
        drainFree := if lastIs (·.slot = i) (k.drains.filter (·.started)) then min k.drainFree now else k.drainFree
        slots := tabDel k.slots i
        order := k.order.filter (· ≠ i)
        segs := sl.segs.foldl (fun t g => tabDel t g) k.segs
        segDue := sl.segs.foldl (fun t g => tabDel t g) k.segDue
        spad := k.spad.filter fun p => !sl.segs.contains (p.1 / 2 ^ 20)
        passes := k.passes.filter (·.slot ≠ i)
        drains := k.drains.filter (·.slot ≠ i)
        tm := k.tm.filter (·.slot ≠ i)
        vu := k.vu.filter (·.slot ≠ i)
        spadOps := k.spadOps.filter (·.slot ≠ i)
        wtag := match k.wtag with
          | some w => if w.jobid = sl.jobid then none else some w
          | none => none }) c

/-- Count dropped plots in their batches. -/
def dropPlots (s : State) (jobid : Nat) (ps : List Plot) : State :=
  modJob s jobid fun j => { j with batches := ps.foldl (fun t p =>
    tabUpd t p.batch fun b => { b with dropped := b.dropped + 1 }) j.batches }

/-- Plots a context still holds. -/
def ctxPlots (x : Ctx) : List Plot :=
  x.plotq ++ (match x.run with | some r => [r.plot] | none => []) ++ (match x.nextRun with | some r => [r.plot] | none => [])

/-- Released resources of a job-core go to the reservation that waits for them; the job-core it is for is placed with the last of
them, unless it is pending no more (R201, R206).  One whose own save is still running keeps its reservation. -/
def feedReserve (s : State) (c : Nat) (sl : Slot) : State :=
  let hit (r : Reserve) : Bool := decide (r.core = c) && r.victims.contains (sl.jobid, sl.jcore)
  let upd (r : Reserve) : Reserve := if hit r then
      { r with victims := r.victims.filter (· ≠ (sl.jobid, sl.jcore)), segs := r.segs ++ sl.segs, spans := r.spans ++ [(sl.accBase, sl.nacc)], slots := r.slots + 1 }
    else r
  let s1 := { s with jobs := { s.jobs with reserves := s.jobs.reserves.map upd } }
  (s1.jobs.reserves.filter fun r => decide (r.core = c) && decide (r.victims = [])).foldl (fun st r =>
    let drop := { st with jobs := { st.jobs with reserves := st.jobs.reserves.filter fun x => x ≠ r } }
    match jobAt st r.jobid with
    | none => drop
    | some j =>
      let jc := tabGet j.jcores r.jcore {}
      if jc.st = .saving then st
      else if (jc.st = .saved ∨ (jc.st = .unplaced ∧ j.ending = none)) ∧ coreOpen st r.jobid r.jcore j c (coreAt st c) then
        placeOn st r.jobid r.jcore c
      else drop) s1

/-- A job-core leaves its place: what it lost in windows stays in the job's count (R61, R212). -/
def unplaceJc (s : State) (jobid jcore loss : Nat) : State :=
  modJob (modJc s jobid jcore fun x => { x with st := .unplaced, area := none }) jobid fun j =>
    { j with loss := min (2 ^ 32 - 1) (j.loss + loss) }

/-- Abort one job-core at once (R206, R211): a save or a restore stops, its area is freed, and what it held on its core is free, or
goes to the pre-emption that waits for it; a core reserved for it is reserved no more. -/
def abortJc (s : State) (jobid jcore : Nat) : State :=
  match jobAt s jobid with
  | none => s
  | some j =>
    let jc := tabGet j.jcores jcore {}
    let gone (st : State) (x : Ctx) : State :=
      let s1 := dropPlots st jobid (ctxPlots x ++ jc.targeted)
      let s2 := modJc (unplaceJc s1 jobid jcore x.loss) jobid jcore fun y => { y with targeted := [] }
      semWithdraw { s2 with jobs := { s2.jobs with reserves := s2.jobs.reserves.filter fun r => !(r.jobid = jobid ∧ r.jcore = jcore) } }
        jobid jcore
    match jc.st with
    | .unplaced => gone s {}
    | .saved => gone s (match jc.area with | some a => a.ctx | none => {})
    | _ =>
      match slotAt s jc.core jc.slot with
      | some sl =>
        feedReserve (gone (clearSlot (freeEntries s jc.core (interruptedEntries (coreAt s jc.core) jc.slot sl)) jc.core jc.slot) sl.ctx)
          jc.core sl
      | none => gone s {}

/-- A restore stops because its core has left the tenant's mask: the job-core is SAVED as it was before, or UNPLACED where it had no
save (DEDUCED, log 46: R198 says that every job-core on the core is pre-empted at once, and a restore has nothing new to save). -/
def stopRestore (s : State) (jobid jcore : Nat) : State :=
  match jobAt s jobid with
  | none => s
  | some j =>
    let jc := tabGet j.jcores jcore {}
    match slotAt s jc.core jc.slot with
    | none => s
    | some sl =>
      modJc (clearSlot s jc.core jc.slot) jobid jcore fun x => match x.area with
        | some a => { x with st := .saved, area := some { a with ctx := sl.ctx } }
        | none => { x with st := .unplaced }

/-- A step whose plots were all DONE when its job ended has ended well (R244). -/
def markStep (s : State) (batch : Nat) : State :=
  let upd (r : StepRun) : StepRun := if r.dealt ∧ r.batch = batch then { r with fin := true } else r
  { s with models := { s.models with models := s.models.models.map fun m => (m.1, { m.2 with
    vers := m.2.vers.map fun v => (v.1, { v.2 with sv := { v.2.sv with steps := v.2.sv.steps.map upd } }) }) } }

/-- Complete the batches of a job whose plots are all done or dropped, or all of them when the job has ended.  A step's
batch, which no command waits for, is kept for its STEP_END. -/
def settleBatches (s : State) (jobid : Nat) (ended : Bool) : State :=
  match jobAt s jobid with
  | none => s
  | some j =>
    j.batches.foldl (fun st q =>
      let b := q.2
      if ended ∨ b.total ≤ b.done + b.dropped then
        let st1 := modJob st jobid fun x => { x with batches := tabDel x.batches q.1 }
        match b.cmd with
        | some (f, m, c) => complete st1 ⟨f, m, c⟩
            (if b.done = b.total then stOk else if j.ending = some 1 then stCancelled else stAborted) b.done 0
        | none => if ended then (if b.done = b.total then markStep st1 q.1 else st1) else st
      else st) s

/-- Release the LOCKs a job holds (R112, R210); of a free LOCK that it took last it is no longer the holder. -/
def releaseLocks (s : State) (jobid : Nat) : State :=
  (s.jobs.sems.filter fun q => q.2.lock ∧ q.2.holder = some jobid).foldl (fun st q =>
    match tabFind st.jobs.sems q.1 with
    | some m => semGrant (setSem st q.1 { m with count := 1, holder := none }) q.1
    | none => st) s

/-- A job has ended: semaphores destroyed, locks released, save areas freed, commands completed, JOBID gone (R210). -/
def endJob (s : State) (jobid : Nat) : State :=
  match jobAt s jobid with
  | none => s
  | some j =>
    let own := s.jobs.sems.filter fun q => q.2.owner = jobid
    let s1 := own.foldl (fun st q => semDestroy st q.1) (releaseLocks s jobid)
    let s2 := settleBatches s1 jobid true
    let s3 := { s2 with jobs := { s2.jobs with
      jobs := tabDel s2.jobs.jobs jobid
      reserves := s2.jobs.reserves.filter fun r => r.jobid ≠ jobid } }
    placement (serveSems (inheritStep (j.endCmds.foldl (fun st c => complete st ⟨c.1, c.2.1, c.2.2⟩ stOk 0 0) s3)))

/-- Remote operations a job's slots still have outstanding, by TXID: runs, fetches and polls. -/
def jobRemote (s : State) (jobid : Nat) : List Nat :=
  let mine (c i : Nat) : Bool := match slotAt s c i with | some sl => decide (sl.jobid = jobid) | none => false
  s.fab.rem.filterMap fun q => match q.2.owner with
    | .tm c id => if (coreAt s c).tm.any fun x => decide (x.id = id) && mine c x.slot then some q.1 else none
    | .fetch c i => if mine c i then some q.1 else none
    | .poll c i => if mine c i then some q.1 else none
    | _ => none

/-- Abort a whole job at once (R211): its LOCKs are released, and it ends when no remote operation of it remains. -/
def abortJob (s : State) (jobid : Nat) : State :=
  match jobAt s jobid with
  | none => s
  | some j =>
    let rem := jobRemote s jobid
    let s1 := j.jcores.foldl (fun st c => abortJc st jobid c.1) (modJob s jobid fun x =>
      { x with ending := some 2, undealt := [], remWait := x.remWait ++ rem })
    let s2 := dropPlots s1 jobid j.undealt
    if j.remWait ++ rem = [] then endJob s2 jobid else placement (serveSems (releaseLocks s2 jobid))

/-- A remote operation is over: an aborted job that waited for its last one ends (R211). -/
def remOver (s : State) (tx : Nat) : State :=
  s.jobs.jobs.foldl (fun st q =>
    if q.2.remWait.contains tx then
      let st1 := modJob st q.1 fun x => { x with remWait := x.remWait.filter (· ≠ tx) }
      if q.2.ending = some 2 ∧ q.2.remWait.filter (· ≠ tx) = [] then endJob st1 q.1 else st1
    else st) s

/-- Has an ENDING job nothing left to run? -/
def jobIdle (s : State) (j : Job) : Bool :=
  decide (j.undealt = []) && j.jcores.all fun c => decide (c.2.targeted = []) &&
    (match c.2.st with
     | .unplaced => true
     | .saved => match c.2.area with | some a => decide (ctxPlots a.ctx = []) | none => true
     | _ => match slotAt s c.2.core c.2.slot with
       | some sl => decide (ctxPlots sl.ctx = [])
       | none => true)

/-- An ENDING job with nothing left ends: its job-cores leave their cores and the job is gone (R210). -/
def settleEnding (s : State) (jobid : Nat) : State :=
  match jobAt s jobid with
  | none => s
  | some j =>
    if j.ending ≠ none ∧ jobIdle s j then
      endJob (j.jcores.foldl (fun st c => abortJc st jobid c.1) s) jobid
    else s

end Sys2Proof.Machine
end

