-- ==== Sys2Proof/Machine/Sync.lean ====
section
/-! DEFINITION. Fetching, fences, semaphores, memory waits, SPAD commands, plots and steals (chapters 4 and 5). -/

namespace Sys2Proof.Machine

/-! ### COMMAND_FETCH (R92, R97, R106) -/

/-- The plot whose next command a slot fetches: after taking the head of the plot queue where R92 allows. -/
def fetchPrep (x : Ctx) : Ctx :=
  match x.run with
  | none =>
    match x.plotq with
    | [] => x
    | p :: ps => { x with run := some { plot := p }, plotq := ps }
  | some r =>
    if r.fetched < r.plot.ncmd ∨ x.nextRun ≠ none then x else
    match x.plotq with
    | [] => x
    | p :: ps => { x with nextRun := some { plot := p }, plotq := ps }

/-- Address of the next command to fetch. -/
def fetchVa (x : Ctx) : Option Nat :=
  match x.run with
  | none => none
  | some r =>
    if r.fetched < r.plot.ncmd then some (r.plot.cmdva + 64 * r.fetched) else
    match x.nextRun with
    | none => none
    | some n => if n.fetched < n.plot.ncmd then some (n.plot.cmdva + 64 * n.fetched) else none

/-- A command has been fetched. -/
def fetchPush (x : Ctx) (b : Bytes) : Ctx :=
  match x.run with
  | none => x
  | some r =>
    if r.fetched < r.plot.ncmd then
      { x with queue := x.queue ++ [{ bytes := b, idx := r.fetched }], run := some { r with fetched := r.fetched + 1 } }
    else match x.nextRun with
      | none => x
      | some n =>
        { x with queue := x.queue ++ [{ bytes := b, idx := n.fetched }], nextRun := some { n with fetched := n.fetched + 1 } }

/-- Queue entries in use on a core (CORE_QSTAT.QUSED). -/
def queueUsed (k : Core) : Nat := (k.slots.map fun p => p.2.ctx.queue.length).sum

/-- May a slot fetch (R92)? -/
def canFetch (s : State) (k : Core) (sl : Slot) : Bool :=
  slotResident s sl && decide (sl.ctx.queue.length < queueShare k) && decide (queueUsed k < 256)
    && decide (sl.ctx.fetchMiss = none) && decide (sl.ctx.fetchFault = none) && decide (sl.ctx.halt ≠ some .fetch)

/-- COMMAND_FETCH: the next command of the plot is read as a fetch access (R97); a plot that leaves the queue makes room for another
(R199); a tile that is being copied holds the fetch (R174). -/
def execCommandFetch (c slot : Nat) (s : State) : Res :=
  match slotAt s c slot with
  | none => .next s
  | some sl =>
    if !canFetch s (coreAt s c) sl then .next s else
    let x := fetchPrep sl.ctx
    match fetchVa x with
    | none => .next s
    | some va =>
      let t := jobTenant sl.jobid
      let p := pageOf va
      let s0 := modCtx s c slot fun _ => x
      let s1 := coreWalk (if x.plotq.length < sl.ctx.plotq.length then deal s0 sl.jobid else s0) c t p
      match checkPage s1 t p .fetch with
      | .ok l => .next (if l.mig then s1
          else touchPage (modCtx (hubRead s1 t va 64) c slot fun y => fetchPush y (readMem s t va 64)) t p (walkHubCore c))
      | .zeros => .next (touchPage (modCtx s1 c slot fun y => fetchPush y (List.replicate 64 0)) t p (walkHubCore c))
      | .miss =>
        match missAt s1 t p (walkHubCore c) with
        | .ok s2 => .next (modCtx s2 c slot fun y => { y with fetchMiss := some p })
        | .error (s2, cause) =>
          .next (settleHalt (modCtx s2 c slot fun y => { y with fetchFault := some (0x02, cause, p) }) c slot)
      | .fault kind cause =>
        .next (settleHalt (modCtx s1 c slot fun y => { y with fetchFault := some (kind, cause, p) }) c slot)
      | .remote w =>
        match tabFind (ctxAt s1 t).wins w with
        | none => .next s
        | some pw =>
          let rva := (pw.rpage + (p - pw.lpage)) * 65536 + va % 65536
          match startRemote s1 { kind := 0, module := pw.module, tenant := t, va := rva, len := 64, owner := .fetch c slot } with
          | none => .next s
          | some (s2, _) => .next (modCtx s2 c slot fun y => { y with fetchMiss := some p })

/-! ### NOP and fences (R91, R113) -/

/-- NOP does nothing; this row also refuses a head command whose opcode or operation code selects no row (R91). -/
def execNop (c slot : Nat) (s : State) : Res :=
  .next (settleHalt (issueCmd s c slot (fun b => decide (cmdOp b = 0x00) || !cmdListed b) fun s1 _ _ _ => s1) c slot)

/-- Issue a FENCE of one kind. -/
def issueFence (s : State) (c slot kind : Nat) : Res :=
  .next (issueCmd s c slot (fun b => decide (cmdOp b = 0x02 ∧ fld b 8 1 0 = kind)) fun s1 _ q _ =>
    modCtx s1 c slot fun x => { x with wait := some (.fence (decide (kind = 1)) q) })

def execFenceLocal (c slot : Nat) (s : State) : Res := issueFence s c slot 0
def execFenceAtlas (c slot : Nat) (s : State) : Res := issueFence s c slot 1

/-! ### Semaphores (R110, R111) -/

/-- Deadline of a TIMEOUT in µs, none for 0. -/
def usDeadline (s : State) (us : Nat) : Option Nat := if us = 0 then none else some (s.clk.ticks + us * usTicks)

def execSemWait (c slot : Nat) (s : State) : Res :=
  .next (issueCmd s c slot (fun b => cmdOp b = 0x03) fun s1 sl q _ =>
    let h := fld q.bytes 8 12 0
    let n := fieldAt q.bytes 12 4
    match tabFind s1.jobs.sems h with
    | none => haltCmd s1 c slot q stNoPerm h
    | some m =>
      if jobTenant m.owner ≠ jobTenant sl.jobid then haltCmd s1 c slot q stNoPerm h else
      let w : SemWaiter := { jobid := sl.jobid, jcore := sl.jcore, amount := n, num := s1.jobs.nextWait }
      let s2 := setSem { s1 with jobs := { s1.jobs with nextWait := s1.jobs.nextWait + 1 } } h { m with waiters := m.waiters ++ [w] }
      semGrant (modCtx s2 c slot fun x => { x with wait := some (.sem h n (usDeadline s1 (fieldAt q.bytes 16 4)) q) }) h)

def execSemSignal (c slot : Nat) (s : State) : Res :=
  .next (issueCmd s c slot (fun b => cmdOp b = 0x04) fun s1 sl q _ =>
    let h := fld q.bytes 8 12 0
    let n := fieldAt q.bytes 12 4
    match signalBad s1 sl.jobid h n with
    | some st => haltCmd s1 c slot q st h
    | none => semAdd s1 h n)

/-- The context of a job-core, on its core or in its save area. -/
def jcCtx (s : State) (jobid jcore : Nat) : Option Ctx :=
  match jobAt s jobid with
  | none => none
  | some j =>
    let jc := tabGet j.jcores jcore {}
    match jc.st with
    | .unplaced => none
    | .saved => jc.area.map (·.ctx)
    | _ => (slotAt s jc.core jc.slot).map (·.ctx)

/-- A SEM.WAIT has not completed after TIMEOUT µs: it is withdrawn and its job halts with TIMEOUT (R110). -/
def execSemWaitTimeout (jobid jcore : Nat) (s : State) : Res :=
  match jcCtx s jobid jcore with
  | none => .next s
  | some x =>
    match x.wait with
    | some (.sem h _ (some d) _) =>
      let s1 := advanceTo s d
      .next (semGrant (haltWaiter (semWithdraw s1 jobid jcore) jobid jcore stTimeout h) h)
    | _ => .next s

/-! ### Memory waits (R114) -/

/-- Words a hub watches. -/
def hubWatches (s : State) (h : Nat) : Nat :=
  (s.cores.map fun p => (p.2.slots.filter fun q => match q.2.ctx.wait with
    | some (.mem _ _ _ _ (some g) _ _) => g = h
    | _ => false).length).sum

/-- Hub that holds the watch of a word: the owner of its frame, or the walker's hub for a Z page; none when full. -/
def watchHub (s : State) (c : Nat) (l : Leaf) : Option Nat :=
  let h := match l.loc with
    | .t1 f => some (hubOfFrame f)
    | .zero => some (walkHubCore c)
    | _ => none
  match h with
  | some g => if hubWatches s g < 256 then some g else none
  | none => none

/-- Read the word of a pending MEM.WAIT, an access under R162 that touches its tile (R172): complete the wait, watch the word, read it
again in 1 µs, or halt the job (R114).  A tile that is being copied holds the read (R174).  A read that finds the condition unmet asks
for a watch each time, so that a wait whose tile missed or whose hub was full is watched once it can be (DESIGN CHOICE, log 46). -/
def memRead (s0 : State) (c slot : Nat) (sl : Slot) (va cond value : Nat) (dl : Option Nat) (q : QCmd) : State :=
  let t := jobTenant sl.jobid
  let p := pageOf va
  let s := coreWalk s0 c t p
  let later (st : State) : State := modCtx st c slot fun x => { x with wait := some (.mem va cond value dl none (s.clk.ticks + usTicks) q) }
  let haltF (st : State) (kind cause : Nat) : State :=
    postFault (modCtx st c slot fun x => { x with wait := none, halt := some (.refused q) }) t
      { bytes := atlasRecord (merAt s c) c kind slot sl.jobid 0 p (cmdTag q.bytes) q.idx (cmdOp q.bytes) cause,
        holder := .core c slot sl.jobid }
  let look (st : State) : State :=
    if memCond cond (memWord s t va) value then modCtx st c slot fun x => { x with wait := none }
    else
      let hub := match leafAt s t p with | some l => watchHub s c l | none => none
      modCtx st c slot fun x => { x with wait := some (.mem va cond value dl hub (s.clk.ticks + usTicks) q) }
  match checkPage s t p .read with
  | .fault kind cause => haltF s kind cause
  | .miss =>
    match missAt s t p (walkHubCore c) with
    | .ok s1 => later s1
    | .error (s1, cause) => haltF s1 0x02 cause
  | .remote w =>
    match tabFind (ctxAt s t).wins w with
    | none => s
    | some pw =>
      let rva := (pw.rpage + (p - pw.lpage)) * 65536 + va % 65536
      match startRemote s { kind := 0, module := pw.module, tenant := t, va := rva, len := 8, owner := .poll c slot } with
      | none => later s
      | some (s1, _) => later s1
  | .ok l => if l.mig then later s else look (touchPage (hubRead s t va 8) t p (walkHubCore c))
  | .zeros => look (touchPage s t p (walkHubCore c))

def execMemWait (c slot : Nat) (s : State) : Res :=
  .next (issueCmd s c slot (fun b => cmdOp b = 0x05) fun s1 sl q _ =>
    let b := q.bytes
    memRead s1 c slot sl (fld b 16 56 0) (fld b 8 1 0) (fieldAt b 24 8) (usDeadline s1 (fieldAt b 32 4)) q)

/-- A wait that no hub watches reads its word every 1 µs (R114). -/
def execMemWaitPoll (c slot : Nat) (s : State) : Res :=
  match slotAt s c slot with
  | none => .next s
  | some sl =>
    match sl.ctx.wait with
    | some (.mem va cond value dl none np q) =>
      if slotResident s sl then .next (memRead (advanceTo s np) c slot sl va cond value dl q) else .next s
    | _ => .next s

/-- A memory wait not satisfied within TIMEOUT µs halts its job with TIMEOUT (R114). -/
def execMemWaitTimeout (c slot : Nat) (s : State) : Res :=
  match slotAt s c slot with
  | none => .next s
  | some sl =>
    match sl.ctx.wait with
    | some (.mem _ _ _ (some d) _ _ q) =>
      if !slotResident s sl then .next s else
      let s1 := advanceTo s d
      .next (haltCmd (modCtx s1 c slot fun x => { x with wait := none }) c slot q stTimeout 0)
    | _ => .next s

/-! ### SPAD commands (R73, R86, R87) -/

def execSpadRegion (c slot : Nat) (s : State) : Res :=
  .next (issueCmd s c slot (fun b => cmdOp b = 0x08) fun s1 _ q _ =>
    let r := regionOf (q.bytes.drop 8)
    modCtx s1 c slot fun x => { x with regions := regionCommit x.regions r.1 r.2 })

/-- Physical segments a SPAD.SEGMENT selects. -/
def selSegs (sl : Slot) (b : Bytes) : List Nat := (segMask b).map fun i => sl.segs.getD i 16

/-- Start a SPAD.SEGMENT: the segments `gs` go to `dst`, due after `n` cycles; nothing to change completes. -/
def segStart (s : State) (c slot id : Nat) (gs : List Nat) (up : Bool) (dst : SegPower) (n : Nat) : State :=
  let k := coreAt s c
  if gs = [] then releaseCmd s c id else
  setCore s c { k with
    segs := gs.foldl (fun t g => tabPut t g dst) k.segs
    segDue := gs.foldl (fun t g => tabPut t g (cycNow s c + n)) k.segDue
    spadOps := k.spadOps ++ [{ id := id, slot := slot, segs := gs, up := up }] }

/-- UP: OFF segments wake, ON ones are unchanged (R87). -/
def execSpadSegmentUp (c slot : Nat) (s : State) : Res :=
  .next (issueCmd s c slot (fun b => decide (cmdOp b = 0x09) && flg b 8 0) fun s1 sl q id =>
    segStart s1 c slot id ((selSegs sl q.bytes).filter fun g => segState (coreAt s1 c) g = .off) true .waking 3600)

/-- DOWN: every selected segment turns CLOSING, whatever its state (R87). -/
def execSpadSegmentDown (c slot : Nat) (s : State) : Res :=
  .next (issueCmd s c slot (fun b => decide (cmdOp b = 0x09) && !flg b 8 0) fun s1 sl q id =>
    segStart s1 c slot id (selSegs sl q.bytes) false .closing 32)

/-- SPAD.SEGMENT commands whose segments have all reached their state complete. -/
def segFinish (s : State) (c : Nat) : State :=
  let k := coreAt s c
  let fin := k.spadOps.filter fun o => o.segs.all fun g => segState k g = (if o.up then .on else .off)
  fin.foldl (fun st o => releaseCmd (modCore st c fun k1 => { k1 with spadOps := k1.spadOps.filter fun x => x.id ≠ o.id }) c o.id) s

/-- A WAKING segment, zeroed, turns ON (R86). -/
def execSegmentWakeDone (c seg : Nat) (s : State) : Res :=
  let k := coreAt s c
  match segState k seg, tabFind k.segDue seg with
  | .waking, some d =>
    let s1 := advanceToCyc s c d
    .next (segFinish (modCore s1 c fun k1 =>
      { spadZero k1 seg with segs := tabPut k1.segs seg .on, segDue := tabDel k1.segDue seg }) c)
  | _, _ => .next s

/-- A CLOSING segment goes OFF; its contents are lost (R87). -/
def execSegmentOff (c seg : Nat) (s : State) : Res :=
  let k := coreAt s c
  match segState k seg, tabFind k.segDue seg with
  | .closing, some d =>
    let s1 := advanceToCyc s c d
    .next (segFinish (modCore s1 c fun k1 =>
      { spadZero k1 seg with segs := tabDel k1.segs seg, segDue := tabDel k1.segDue seg }) c)
  | _, _ => .next s

/-! ### PLOT_DONE (R106) -/

/-- The plot's semaphore is signalled, or the job halts (R106, R111).  No command carries the signal: the record's TAG is 0 (DESIGN CHOICE,
log 45). -/
def donesemSignal (s : State) (c slot : Nat) (sl : Slot) (p : Plot) : State :=
  if p.donesem = 0xFFFF then s else
  match signalBad s sl.jobid p.donesem p.doneinc with
  | none => semAdd s p.donesem p.doneinc
  | some st => haltWith s c slot { sl with ctx := { sl.ctx with run := some { plot := p } } } (.donesem p) 0x04 p.ncmd st 0 p.donesem

/-- Is the running plot of a slot complete? -/
def plotComplete (s : State) (k : Core) (i : Nat) (sl : Slot) : Bool :=
  match sl.ctx.run with
  | none => false
  | some r => slotResident s sl && decide (r.plot.ncmd ≤ r.issued) && unitsIdle k i && !waitHolds k i sl && decide (sl.ctx.halt = none)

/-- The context after DONE: region table and registers as at a plot's start, the next plot in its place. -/
def plotReset (rtab : Tab Region) (x : Ctx) : Ctx :=
  { x with run := x.nextRun, nextRun := none, regions := rtab, vregs := [], wait := none }

def execPlotDone (c slot : Nat) (s : State) : Res :=
  match slotAt s c slot with
  | none => .next s
  | some sl =>
    if !plotComplete s (coreAt s c) slot sl then .next s else
    match sl.ctx.run, jobAt s sl.jobid with
    | some r, some j =>
      let s1 := modCtx s c slot (plotReset j.rtab)
      let s2 := modJob s1 sl.jobid fun x => { x with
        plots := x.plots + 1
        batches := tabUpd x.batches r.plot.batch fun b => { b with done := b.done + 1 } }
      let s3 := settleHalt (donesemSignal s2 c slot sl r.plot) c slot
      .next (settleEnding (deal (settleBatches s3 sl.jobid false) sl.jobid) sl.jobid)
    | _, _ => .next s

/-! ### Steals (R108, R109) -/

/-- Slot of a job on a core. -/
def slotOfJob (k : Core) (jobid : Nat) : Option (Nat × Slot) := k.slots.find? fun p => p.2.jobid = jobid

/-- Stealable plots of a job on a core. -/
def stealable (s : State) (c jobid : Nat) : Nat :=
  if !coreEnabled s c then 0 else
  match slotOfJob (coreAt s c) jobid with
  | some p => if slotResident s p.2 then (p.2.ctx.plotq.filter fun x => !x.sticky).length else 0
  | none => 0

/-- The core among a list with the most stealable plots, at least n; the lowest number on a tie. -/
def bestVictim (s : State) (jobid n : Nat) (cs : List Nat) : Option Nat :=
  (cs.filter fun c => n ≤ stealable s c jobid).foldl (fun b c =>
    match b with
    | none => some c
    | some d => if stealable s d jobid < stealable s c jobid then some c else some d) none

/-- Cores of a compute die. -/
def dieCores (d : Nat) : List Nat := (List.range 12).map fun i => 12 * d + i

/-- The victim and threshold a thief chooses (R108): its own die, then the others in order. -/
def chooseVictim (s : State) (c jobid : Nat) : Option (Nat × Nat) :=
  let k := coreAt s c
  match bestVictim s jobid k.minLocal ((dieCores (dieOf c)).filter (· ≠ c)) with
  | some v => some (v, k.minLocal)
  | none =>
    if !k.xdieEn then none else
    ((List.range 7).findSome? fun i => bestVictim s jobid k.minRemote (dieCores ((dieOf c + 1 + i) % 8))).map
      fun v => (v, k.minRemote)

/-- May a core steal for a job (R108, R109)? -/
def maySteal (s : State) (c jobid : Nat) : Bool :=
  let k := coreAt s c
  match slotOfJob k jobid with
  | none => false
  | some p => slotResident s p.2 && decide (p.2.ctx.halt = none) && decide (p.2.ctx.plotq = []) && decide (p.2.ctx.run = none)
      && k.stealEn && !(k.steals.any fun x => x.jobid = jobid) && decide (k.steals.length < 2)

def execStealRequest (c jobid : Nat) (s : State) : Res :=
  if !maySteal s c jobid then .next s else
  match chooseVictim s c jobid with
  | none => .next s
  | some (v, n) =>
    let lat := if dieOf v = dieOf c then 48 else 420
    .next (modCore s c fun k => { k with steals := k.steals ++
      [{ jobid := jobid, victim := v, thresh := n, due := cycNow s c + lat }] })

/-- Remove the youngest stealable plot of a queue. -/
def takeYoungest (q : List Plot) : Option (Plot × List Plot) :=
  match q.reverse.find? (fun p => !p.sticky) with
  | none => none
  | some p => some (p, q.filter fun x => x.seq ≠ p.seq)

/-- The victim decides at its own queue (R109). -/
def execStealRequestArrival (c jobid : Nat) (s0 : State) : Res :=
  match (coreAt s0 c).steals.find? (fun x => decide (x.jobid = jobid) && decide (x.retryAt = none)) with
  | none => .next s0
  | some r =>
    let s := advanceToCyc s0 c r.due
    let t := jobTenant jobid
    let refuse := countEv (modCore s c fun k => { k with steals := k.steals.map fun x =>
        if x.jobid = jobid then { x with retryAt := some (cycNow s c + k.retry * 16) } else x }) r.victim 0x000C t
    match slotOfJob (coreAt s r.victim) jobid, slotOfJob (coreAt s c) jobid with
    | some v, some me =>
      if stealable s r.victim jobid < r.thresh then .next refuse else
      match takeYoungest v.2.ctx.plotq with
      | none => .next refuse
      | some (p, q) =>
        let s1 := modCtx s r.victim v.1 fun x => { x with plotq := q }
        let s2 := modCtx s1 c me.1 fun x => { x with plotq := x.plotq ++ [p] }
        let s3 := modCore s2 c fun k => { k with steals := k.steals.filter fun x => x.jobid ≠ jobid }
        .next (deal (countEv s3 r.victim 0x000B t) jobid)
    | _, none => .next (modCore s c fun k => { k with steals := k.steals.filter fun x => x.jobid ≠ jobid })
    | none, _ => .next refuse

/-- After a refusal the thief chooses and requests again (R109). -/
def execStealRetry (c jobid : Nat) (s : State) : Res :=
  match (coreAt s c).steals.find? (fun x => decide (x.jobid = jobid) && decide (x.retryAt ≠ none)) with
  | none => .next s
  | some r =>
    let s1 := advanceToCyc s c (r.retryAt.getD 0)
    execStealRequest c jobid (modCore s1 c fun k => { k with steals := k.steals.filter fun x => x.jobid ≠ jobid })

end Sys2Proof.Machine
end

