-- ==== Sys2Proof/Machine/AtlasCmds.lean ====
section
/-! DEFINITION. The ATLAS group and the atlas's own events (chapter 7). -/

namespace Sys2Proof.Machine

/-! ### Shared parts -/

/-- VA of a command: reserved bits, alignment. -/
def vaChecks (e : Bytes) (off : Nat) : List (Nat × Bool) :=
  [(16 + off, decide (parFld e off 15 0 ≠ 0))]

/-- NPAGES outside its range. -/
def npagesCheck (e : Bytes) (off hi : Nat) : Nat × Bool := (16 + off, decide (par e off 4 = 0 ∨ hi < par e off 4))

/-- Pages of a range (log 9: page numbers wrap). -/
def rangeOf (va n : Nat) : List Nat := (List.range n).map fun i => (va / 65536 + i) % 2 ^ 41

/-- The range a command names in bytes 0 to 11. -/
def cmdRange (e : Bytes) : List Nat := rangeOf (parFld e 0 56 0) (par e 8 4)

/-- Mapped pages of a range. -/
def mappedIn (s : State) (t : Nat) (ps : List Nat) : List Nat := ps.filter fun p => (leafAt s t p).isSome

/-- Is a page of the range migrating (R174)? -/
def anyMig (s : State) (t : Nat) (ps : List Nat) : Bool :=
  ps.any fun p => match leafAt s t p with | some l => l.mig | none => false

/-- Is a tile of the range poisoned? -/
def poisonedIn (s : State) (t : Nat) (ps : List Nat) : Bool :=
  ps.any fun p => match leafAt s t p with | some l => l.psn | none => false

/-- Does the range hold a window page? -/
def winIn (s : State) (t : Nat) (ps : List Nat) : Bool :=
  ps.any fun p => match leafAt s t p with | some l => isWin l.loc | none => false

/-- Is a tile-mover access to a range on its way, checked under the old entries? -/
def tmPending (s : State) (t : Nat) (ps : List Nat) : Bool :=
  s.cores.any fun q => q.2.tm.any fun x =>
    match tabFind q.2.slots x.slot with
    | none => false
    | some sl => decide (jobTenant sl.jobid = t) &&
      match x.stage with
      | .ready => match tmRange q.2 (boundSlot sl x.regs) x.cmd.bytes x.progress with
        | some g => (rangePages g).any fun p => ps.contains p
        | none => false
      | _ => false

/-- Is an access to a window page of a range on its way to the peer: of a tile mover, a host window, a mailbox command, a fetch, a wait
or an engine? -/
def peerPending (s : State) (t : Nat) (ps : List Nat) : Bool :=
  ps.any fun p => match leafAt s t p with
    | some { loc := .win w, .. } =>
      (match tabFind (ctxAt s t).wins w with
       | some pw => s.fab.rem.any fun q =>
           decide (q.2.tenant = t ∧ q.2.module = pw.module ∧ pageOf q.2.va = (pw.rpage + (p - pw.lpage)) % 2 ^ 41)
       | none => false)
    | _ => false

/-- Has an access that was checked under the old entries of a range not reached its hub yet (R161)? -/
def accessPending (s : State) (t : Nat) (ps : List Nat) : Bool := tmPending s t ps || peerPending s t ps

/-- Every translation cache drops its entries for a range (R161). -/
def dropTlbs (s : State) (t : Nat) (ps : List Nat) : State :=
  let keep (l : List (Nat × Nat × Loc)) : List (Nat × Nat × Loc) := l.filter fun e => !(decide (e.1 = t) && ps.contains e.2.1)
  modAtlas { s with cores := s.cores.map fun q => (q.1, { q.2 with tlb := keep q.2.tlb }) } fun a =>
    { a with unitTlbs := a.unitTlbs.map fun q => (q.1, keep q.2) }

/-- Free the storage of a page: its frame goes to zeroing, and its bytes are gone. -/
def freeStorage (s : State) (t p : Nat) (l : Leaf) : State :=
  let s1 := zeroTile s t p
  match l.loc with
  | .t1 f => releaseFrame s1 f
  | _ => s1

/-- Unmap one page. -/
def unmapPage (s : State) (t p : Nat) : State :=
  match leafAt s t p with
  | some l => delLeaf (freeStorage s t p l) t p
  | none => s

/-- PERM and E of byte 12 as a leaf's fields. -/
def permLeaf (b : Nat) (l : Leaf) : Leaf :=
  { l with e := bitOf b 3, pr := bitOf b 2, pw := bitOf b 1, px := bitOf b 0 }

/-! ### MAP, UNMAP, PROTECT -/

/-- Give a Z page a zeroed frame at once, or start the allocation that waits for room (R162, R168, R169). -/
def allocPage (s : State) (t p hub : Nat) : Except Nat State :=
  match leafAt s t p with
  | none => .ok s
  | some l =>
    if tierCount s t 0 < quota s t 0 then
      match allocFrame s hub with
      | some f => .ok (setLeaf (tagFrame s f (.tile t p)) t p { l with loc := .t1 f })
      | none => startPromotion s t p hub true
    else startPromotion s t p hub true

/-- Allocate for a list of pages: all or the QUOTA cause. -/
def allocPages (s : State) (t hub : Nat) : List Nat → Except Nat State
  | [] => .ok s
  | p :: ps =>
    match allocPage s t p hub with
    | .ok s1 => allocPages s1 t hub ps
    | .error c => .error c

/-- Table frames a tenant's context would hold with more pages (R156). -/
def framesWith (s : State) (t : Nat) (ps : List Nat) : Nat := tableFrames ((ctxAt s t).pages.map (·.1) ++ ps)

/-- What AtlasMap requires of its entry (R385): byte offset and whether the field there is at fault. -/
def chkAtlasMap (r : CmdRef) (s1 : State) (e : Bytes) : List (Nat × Bool) :=
  vaChecks e 0 ++ [npagesCheck e 8 (2 ^ 26), (16, decide (mappedIn s1 (fnTenant r.fn) (cmdRange e) ≠ []) && !((inflAt s1 r).any (·.started)))]

/-- The pages of an ATLAS.MAP with ALLOC that could not all be given frames are unmapped again: all of them or none (R190). -/
def undoMap (s : State) (t : Nat) (ps : List Nat) : State := dropTlbs (ps.foldl (fun st p => unmapPage st t p) s) t ps

def execAtlasMap (r : CmdRef) (s : State) : Res :=
  runCmd s r 0x0401 (chkAtlasMap r)
    fun s1 x e =>
      let t := cmdTenant x
      let ps := cmdRange e
      let b := par e 12 1
      if x.acted ≠ [] then
        if anyMig s1 t ps then s1
        else if x.qfail.isSome then complete (countQuota (undoMap s1 t ps) walkHubControl t 0x02) r stQuota 0 0
        else complete s1 r stOk 0 0
      else if (tenAt s1 t).tablim < framesWith s1 t ps then complete s1 r stNoFit 0 0
      else
        let s2 := ps.foldl (fun st p => setLeaf st t p (permLeaf b {})) s1
        if bitOf b 4 then
          match allocPages s2 t walkHubControl ps with
          | .error _ => complete (countQuota s1 walkHubControl t 0x02) r stQuota 0 0
          | .ok s3 =>
            if anyMig s3 t ps then modInfl s3 r fun y => { y with acted := ps.map fun p => (t, p) }
            else complete s3 r stOk 0 0
        else complete s2 r stOk 0 0

/-- What AtlasUnmap requires of its entry (R385): byte offset and whether the field there is at fault. -/
def chkAtlasUnmap (_ : CmdRef) (_ : State) (e : Bytes) : List (Nat × Bool) :=
  vaChecks e 0 ++ [npagesCheck e 8 (2 ^ 26)]

def execAtlasUnmap (r : CmdRef) (s : State) : Res :=
  runCmd s r 0x0402 (chkAtlasUnmap r) fun s1 x e =>
    let t := cmdTenant x
    let ps := mappedIn s1 t (cmdRange e)
    if anyMig s1 t ps ∨ accessPending s1 t ps then s1
    else complete (dropTlbs (ps.foldl (fun st p => unmapPage st t p) s1) t ps) r stOk ps.length 0

/-- Does a change of PERM take a permission away? -/
def removesPerm (b : Nat) (l : Leaf) : Bool :=
  (l.pr && !bitOf b 2) || (l.pw && !bitOf b 1) || (l.px && !bitOf b 0)

/-- The pages of a list that lose a permission. -/
def losers (s : State) (t b : Nat) (ps : List Nat) : List Nat :=
  ps.filter fun p => match leafAt s t p with | some l => removesPerm b l | none => false

/-- What AtlasProtect requires of its entry (R385): byte offset and whether the field there is at fault. -/
def chkAtlasProtect (_ : CmdRef) (_ : State) (e : Bytes) : List (Nat × Bool) :=
  vaChecks e 0 ++ [npagesCheck e 8 (2 ^ 26)]

def execAtlasProtect (r : CmdRef) (s : State) : Res :=
  runCmd s r 0x0403 (chkAtlasProtect r) fun s1 x e =>
    let t := cmdTenant x
    let b := par e 12 1
    let ps := mappedIn s1 t (cmdRange e)
    let less := losers s1 t b ps
    if accessPending s1 t less then s1
    else complete (dropTlbs (ps.foldl (fun st p => modLeaf st t p (permLeaf b)) s1) t less) r stOk ps.length 0

/-! ### PIN -/

/-- Pin a page that is in T1, or start the promotion that pins it when it ends. -/
def pinPage (s : State) (t p hub : Nat) (fg : Bool) : Except Nat State :=
  match leafAt s t p with
  | none => .ok s
  | some l =>
    match l.loc with
    | .t1 _ => .ok (setLeaf s t p { l with pin := true })
    | .zero =>
      match allocPage s t p hub with
      | .ok s1 => .ok (modLeaf s1 t p fun y => { y with pin := true })
      | .error c => .error c
    | _ =>
      match startPromotion s t p hub fg with
      | .ok s1 => .ok (modAtlas s1 fun a => { a with migs := a.migs.map fun m =>
          if m.tenant = t ∧ m.page = p then { m with pinAfter := true } else m })
      | .error c => .error c

/-- Pin a list of pages: those in T1 first, so that none of the range is demoted for another. -/
def pinPages (s : State) (t hub : Nat) (fg : Bool) : List Nat → Except Nat State
  | [] => .ok s
  | p :: ps =>
    match pinPage s t p hub fg with
    | .ok s1 => pinPages s1 t hub fg ps
    | .error c => .error c

/-- Is a page in a T1 frame? -/
def inT1 (s : State) (t p : Nat) : Bool :=
  match leafAt s t p with
  | some { loc := .t1 _, .. } => true
  | _ => false

/-- Checks of ATLAS.PIN. -/
def pinChecks (e : Bytes) : List (Nat × Bool) :=
  vaChecks e 0 ++ [npagesCheck e 8 (2 ^ 26)]

/-- Undo the pins a stopped or refused ATLAS.PIN has made (R393). -/
def undoPin (s : State) (x : Inflight) : State :=
  x.acted.foldl (fun st q => modAtlas (modLeaf st q.1 q.2 fun l => { l with pin := false }) fun a =>
    { a with migs := a.migs.map fun m => if m.tenant = q.1 ∧ m.page = q.2 then { m with pinAfter := false } else m }) s

def execAtlasPin (r : CmdRef) (s : State) : Res :=
  runCmdIf s r 0x0404 (fun e => parFlg e 12 0) (fun _ e => pinChecks e) fun s1 x e =>
    let t := cmdTenant x
    let ps := cmdRange e
    if x.acted ≠ [] then
      if poisonedIn s1 t ps then complete (undoPin s1 x) r stPoison 0 0
      else if anyMig s1 t ps then s1
      else if !(ps.all fun p => inT1 s1 t p) then complete (countQuota (undoPin s1 x) walkHubControl t 0x02) r stQuota 0 0
      else complete s1 r stOk ps.length 0
    else if (mappedIn s1 t ps).length < ps.length then complete s1 r stFault 0 0
    else if anyMig s1 t ps then s1
    else if poisonedIn s1 t ps then complete s1 r stPoison 0 0
    else if winIn s1 t ps then badParam s1 r 16
    else
      let new := ps.filter fun p => match leafAt s1 t p with | some l => !l.pin | none => false
      match pinPages s1 t walkHubControl true (ps.filter (fun p => inT1 s1 t p) ++ ps.filter fun p => !inT1 s1 t p) with
      | .error _ => complete (countQuota s1 walkHubControl t 0x02) r stQuota 0 0
      | .ok s2 =>
        if anyMig s2 t ps then modInfl s2 r fun y => { y with acted := new.map fun p => (t, p) }
        else complete s2 r stOk ps.length 0

def execAtlasUnpin (r : CmdRef) (s : State) : Res :=
  runCmdIf s r 0x0404 (fun e => !parFlg e 12 0) (fun _ e => pinChecks e) fun s1 x e =>
    let t := cmdTenant x
    let ps := cmdRange e
    if (mappedIn s1 t ps).length < ps.length then complete s1 r stFault 0 0
    else if anyMig s1 t ps then s1
    else complete (ps.foldl (fun st p => modLeaf st t p fun l => { l with pin := false }) s1) r stOk ps.length 0

/-! ### HINT, ZERO -/

/-- Checks of ATLAS.HINT. -/
def hintChecks (e : Bytes) : List (Nat × Bool) :=
  vaChecks e 0 ++ [npagesCheck e 8 65536, (28, decide (parFld e 12 1 0 = 3))]

/-- A WILLNEED hint waits until every page is in T1 or skipped; a KIND that no row has is refused here. -/
def execAtlasHintWillneed (r : CmdRef) (s : State) : Res :=
  runCmdIf s r 0x0405 (fun e => decide (parFld e 12 1 0 = 0 ∨ parFld e 12 1 0 = 3)) (fun _ e => hintChecks e) fun s1 x e =>
    let t := cmdTenant x
    let ps := cmdRange e
    if x.acted ≠ [] then
      if ps.any (fun p => match migOf s1 t p with | some m => decide (m.tier = 0) | none => false) then s1
      else complete s1 r stOk 0 0
    else
      let s2 := ps.foldl (fun st p => hintWillneed st t walkHubControl p) s1
      if ps.any (fun p => match migOf s2 t p with | some m => decide (m.tier = 0) | none => false) then
        modInfl s2 r fun y => { y with acted := ps.map fun p => (t, p) }
      else complete s2 r stOk 0 0

def execAtlasHintCold (r : CmdRef) (s : State) : Res :=
  runCmdIf s r 0x0405 (fun e => decide (parFld e 12 1 0 = 1)) (fun _ e => hintChecks e) fun s1 x e =>
    complete ((cmdRange e).foldl (fun st p => hintCold st (cmdTenant x) p) s1) r stOk 0 0

/-- A DEMOTE hint's effect is visible when its demotions have ended (R391, DEDUCED; log 7). -/
def execAtlasHintDemote (r : CmdRef) (s : State) : Res :=
  runCmdIf s r 0x0405 (fun e => decide (parFld e 12 1 0 = 2)) (fun _ e => hintChecks e) fun s1 x e =>
    let t := cmdTenant x
    let ps := cmdRange e
    let moving (st : State) (p : Nat) : Bool := match migOf st t p with | some m => decide (m.tier ≠ 0) | none => false
    if x.acted ≠ [] then
      if x.acted.any (fun q => moving s1 q.2) then s1 else complete s1 r stOk 0 0
    else
      let s2 := ps.foldl (fun st p => hintDemote st t walkHubControl p) s1
      let going := ps.filter (moving s2)
      if going = [] then complete s2 r stOk 0 0 else modInfl s2 r fun y => { y with acted := going.map fun p => (t, p) }

/-- What AtlasZero requires of its entry (R385): byte offset and whether the field there is at fault. -/
def chkAtlasZero (_ : CmdRef) (_ : State) (e : Bytes) : List (Nat × Bool) :=
  vaChecks e 0 ++ [npagesCheck e 8 (2 ^ 26)]

def execAtlasZero (r : CmdRef) (s : State) : Res :=
  runCmd s r 0x0406 (chkAtlasZero r) fun s1 x e =>
    let t := cmdTenant x
    let ps := mappedIn s1 t (cmdRange e)
    if anyMig s1 t ps then s1
    else complete (ps.foldl (fun st p => match leafAt st t p with
      | some l => setLeaf (freeStorage st t p l) t p { l with loc := .zero, psn := false, cause := 0, pin := false, clen := 0 }
      | none => st) s1) r stOk ps.length 0

/-! ### PEER -/

/-- Checks of ATLAS.PEER. -/
def peerChecks (e : Bytes) : List (Nat × Bool) :=
  vaChecks e 0 ++ vaChecks e 8 ++ [npagesCheck e 16 (2 ^ 26), (42, decide (parFld e 26 7 5 ≠ 0 ∨ parFld e 26 3 3 ≠ 0))]

/-- What AtlasPeerCreate requires of its entry (R385): byte offset and whether the field there is at fault. -/
def chkAtlasPeerCreate (r : CmdRef) (s1 : State) (e : Bytes) : List (Nat × Bool) :=
  peerChecks e ++
    [(16, decide (mappedIn s1 (fnTenant r.fn) (rangeOf (parFld e 0 56 0) (par e 16 4)) ≠ []))]

def execAtlasPeerCreate (r : CmdRef) (s : State) : Res :=
  runCmdIf s r 0x0407 (fun e => parFlg e 26 4) (chkAtlasPeerCreate r) fun s1 x e =>
    let t := cmdTenant x
    let w := parFld e 24 11 0
    let n := par e 16 4
    let ps := rangeOf (parFld e 0 56 0) n
    if (tabFind (ctxAt s1 t).wins w).isSome then complete s1 r stBusy 0 0
    else if (tenAt s1 t).tablim < framesWith s1 t ps then complete s1 r stNoFit 0 0
    else
      let b := parFld e 26 2 0
      let s2 := updCtx s1 t fun c => { c with wins := tabPut c.wins w { lpage := pageOf (parFld e 0 56 0), rpage := pageOf (parFld e 8 56 0), npages := n, module := parFld e 20 16 0 } }
      complete (ps.foldl (fun st p => setLeaf st t p (permLeaf b { loc := .win w })) s2) r stOk 0 0

def execAtlasPeerRemove (r : CmdRef) (s : State) : Res :=
  runCmdIf s r 0x0407 (fun e => !parFlg e 26 4) (fun _ e => peerChecks e) fun s1 x e =>
    let t := cmdTenant x
    let w := parFld e 24 11 0
    match tabFind (ctxAt s1 t).wins w with
    | none => complete s1 r stNotFound 0 0
    | some pw =>
      let ps := mappedIn s1 t (rangeOf (pw.lpage * 65536) pw.npages)
      if accessPending s1 t ps then s1 else
      let s2 := dropTlbs (ps.foldl (fun st p => unmapPage st t p) s1) t ps
      complete (updCtx s2 t fun c => { c with wins := tabDel c.wins w }) r stOk 0 0

/-! ### LEND, HREG, HUNREG -/

/-- Sum of the T1 quotas of every tenant (R167). -/
def sumQt1 (s : State) : Nat := (s.tens.map fun q => q.2.qt1).sum

/-- What AtlasLend requires of its entry (R385): byte offset and whether the field there is at fault. -/
def chkAtlasLend (_ : CmdRef) (_ : State) (e : Bytes) : List (Nat × Bool) :=
  [(20, decide (8 < parFld e 4 3 0))]

def execAtlasLend (r : CmdRef) (s : State) : Res :=
  runCmd s r 0x0408 (chkAtlasLend r) fun s1 _ e =>
    let pool := parFld e 0 22 0
    if pool < s1.atlas.lentSlots.length then complete s1 r stBusy 0 0
    else if nStacks s1 * 786432 - 524288 < pool + sumQt1 s1 then complete s1 r stNoFit 0 0
    else complete (modAtlas s1 fun a => { a with
      lendPool := pool
      borrow := (List.range (parFld e 4 3 0)).map fun i => parFld e (8 + 4 * i) 16 0
      lastPeer := 7 }) r stOk 0 0

/-- What AtlasHreg requires of its entry (R385): byte offset and whether the field there is at fault. -/
def chkAtlasHreg (_ : CmdRef) (_ : State) (e : Bytes) : List (Nat × Bool) :=
  [(24, decide (par e 8 8 % 2097152 ≠ 0)),
    (32, decide (parFld e 16 45 0 % 2097152 ≠ 0 ∨ parFld e 16 45 0 = 0 ∨ 2 ^ 45 < parFld e 16 45 0))]

def execAtlasHreg (r : CmdRef) (s : State) : Res :=
  runCmd s r 0x0409 (chkAtlasHreg r) fun s1 _ e =>
    if tabHas s1.atlas.regions (par e 0 1) then complete s1 r stBusy 0 0
    else
      let h : HostRegion := { busaddr := par e 8 8, length := parFld e 16 45 0 }
      complete (modAtlas s1 fun a => { a with regions := tabPut a.regions (par e 0 1) h }) r stOk 0 0

/-- Tiles in a host region: tenant, page, leaf. -/
def regionTiles (s : State) (g : Nat) : List (Nat × Nat × Leaf) :=
  s.atlas.ctx.flatMap fun c => c.2.pages.filterMap fun q =>
    match q.2.loc with
    | .t3 r _ => if r = g then some (c.1, q.1, q.2) else none
    | _ => none

/-- Start moving a tile of a draining region to another region, or to T4, within its owner's quota (R182). -/
def drainTile (s : State) (q : Nat × Nat × Leaf) : Option State :=
  if q.2.2.mig then some s
  else if q.2.2.psn then none
  else if tierCount s q.1 2 ≤ quota s q.1 2 ∧ (t3Place s 16 [] (regionsInTurn s)).isSome then
    some (addMig s { tenant := q.1, page := q.2.1, tier := 2 })
  else if tierCount s q.1 3 < quota s q.1 3 ∧ (t4Place s 16 []).isSome then
    some (addMig s { tenant := q.1, page := q.2.1, tier := 3 })
  else none

/-- Start every tile that can move; whether all could. -/
def drainTiles : State → List (Nat × Nat × Leaf) → State × Bool
  | s, [] => (s, true)
  | s, q :: qs =>
    match drainTile s q with
    | some s1 => drainTiles s1 qs
    | none => ((drainTiles s qs).1, false)

/-- The tiles of a draining region or pool that a command has not begun to move: one whose move has failed is not tried again
by the same command (R175, R182). -/
def untried (x : Inflight) (ts : List (Nat × Nat × Leaf)) : List (Nat × Nat × Leaf) :=
  ts.filter fun q => !x.acted.contains (q.1, q.2.1)

/-- Note the tiles that a command has begun to move. -/
def noteTried (s : State) (r : CmdRef) (ts : List (Nat × Nat × Leaf)) : State :=
  let new := ts.filterMap fun q => if (migOf s q.1 q.2.1).isSome then some (q.1, q.2.1) else none
  if new = [] then s else modInfl s r fun y => { y with acted := y.acted ++ new }

def execAtlasHunreg (r : CmdRef) (s : State) : Res :=
  runCmd s r 0x040A noChecks fun s1 x e =>
    let g := par e 0 1
    match tabFind s1.atlas.regions g with
    | none => complete s1 r stNotFound 0 0
    | some h =>
      let s2 := modAtlas s1 fun a => { a with regions := tabPut a.regions g { h with draining := true } }
      match regionTiles s2 g with
      | [] => complete (modAtlas s2 fun a => { a with regions := tabDel a.regions g }) r stOk 0 0
      | ts =>
        let d := drainTiles s2 (untried x ts)
        if (regionTiles d.1 g).any (fun q => q.2.2.mig) then noteTried d.1 r (untried x ts)
        else complete d.1 r stNoFit 0 0

/-! ### FRING, POLICY, QUERY -/

/-- Has a tenant's ring unconsumed records? -/
def ringUnread (c : AtlasCtx) : Bool := c.ring.isSome && decide (c.prod ≠ c.cidx)

/-- What AtlasFring requires of its entry (R385): byte offset and whether the field there is at fault. -/
def chkAtlasFring (r : CmdRef) (_ : State) (e : Bytes) : List (Nat × Bool) :=
  let n := parFld e 16 4 0
  [(16, decide (n ≠ 0) && decide (par e 0 8 % 4096 ≠ 0)), (24, decide (n ≠ 0) && decide (par e 8 8 % 8 ≠ 0)),
   (32, decide (n ≠ 0 ∧ (n < 6 ∨ 16 < n))), (34, decide (n ≠ 0) && decide (vecCount r.fn ≤ parFld e 18 10 0))]

def execAtlasFring (r : CmdRef) (s : State) : Res :=
  runCmd s r 0x040B (chkAtlasFring r) fun s1 x e =>
    let t := cmdTenant x
    let c := ctxAt s1 t
    if ringUnread c then complete s1 r stBusy 0 0 else
    let n := parFld e 16 4 0
    let ring : Option FaultRing := if n = 0 then none
      else some { haddr := par e 0 8, paddr := par e 8 8, log2n := n, vector := parFld e 18 10 0 }
    complete (setCtx s1 t { c with ring := ring, prod := 0, cidx := 0, stalled := false }) r stOk 0 0

/-- What AtlasPolicy requires of its entry (R385): byte offset and whether the field there is at fault. -/
def chkAtlasPolicy (_ : CmdRef) (_ : State) (e : Bytes) : List (Nat × Bool) :=
  [(16, decide (par e 0 4 < 10 ∨ 1000000 < par e 0 4)), (20, decide (par e 4 1 = 0 ∨ par e 4 1 ≤ par e 5 1)),
    (22, decide (parFld e 6 1 0 = 3))]

def execAtlasPolicy (r : CmdRef) (s : State) : Res :=
  runCmd s r 0x040C (chkAtlasPolicy r) fun s1 x e =>
    complete (updCtx s1 (cmdTenant x) fun c => { c with
      heatper := par e 0 4, promote := par e 4 1, hyst := par e 5 1, dorder := parFld e 6 1 0 }) r stOk 0 0

/-- Checks of ATLAS.QUERY. -/
def queryChecks (e : Bytes) : List (Nat × Bool) :=
  vaChecks e 0 ++ (if parFlg e 12 0 then [] else [npagesCheck e 8 8192]) ++ [(32, decide (par e 16 8 % 8 ≠ 0))]

def execAtlasQueryEntries (r : CmdRef) (s : State) : Res :=
  runCmdIf s r 0x040D (fun e => !parFlg e 12 0) (fun _ e => queryChecks e) fun s1 x e =>
    let t := cmdTenant x
    let bs := (cmdRange e).flatMap fun p => leBytes 8 (match leafAt s1 t p with | some l => leafBits l | none => 0)
    complete (cmdHostPut s1 x (par e 16 8) bs) r stOk 0 0

def execAtlasQueryUsage (r : CmdRef) (s : State) : Res :=
  runCmdIf s r 0x040D (fun e => parFlg e 12 0) (fun _ e => queryChecks e) fun s1 x e =>
    let t := cmdTenant x
    let bs := [0, 1, 2, 3].flatMap (fun k => leBytes 8 (tierCount s1 t k)) ++ [0, 1, 2, 3].flatMap fun k => leBytes 8 (quota s1 t k)
    complete (cmdHostPut s1 x (par e 16 8) bs) r stOk 0 0

/-! ### TRANSPOSE (R183) -/

/-- Parameters of ATLAS.TRANSPOSE. -/
structure TransF where
  src : Nat
  dst : Nat
  rows : Nat
  cols : Nat
  sz : Nat
  spitch : Nat
  dpitch : Nat

/-- Read the parameters. -/
def transF (e : Bytes) : TransF :=
  { src := parFld e 0 56 0, dst := parFld e 8 56 0, rows := par e 16 2, cols := par e 18 2,
    sz := 2 ^ parFld e 20 1 0, spitch := parFld e 24 39 0, dpitch := parFld e 32 39 0 }

/-- Bytes from the first to the last of a matrix side. -/
def TransF.srcSpan (f : TransF) : Nat := (f.rows - 1) * f.spitch + f.cols * f.sz
def TransF.dstSpan (f : TransF) : Nat := (f.cols - 1) * f.dpitch + f.rows * f.sz

/-- Checks of ATLAS.TRANSPOSE. -/
def transChecks (e : Bytes) : List (Nat × Bool) :=
  let f := transF e
  [(16, decide (f.src % f.sz ≠ 0)), (24, decide (f.dst % f.sz ≠ 0)),
   (32, decide (f.rows = 0)), (34, decide (f.cols = 0)), (34, decide (f.spitch < f.cols * f.sz)), (32, decide (f.dpitch < f.rows * f.sz)),
   (16, decide (f.src < f.dst + f.dstSpan ∧ f.dst < f.src + f.srcSpan))]

/-- Elements (r, c) whose destination starts in page p or runs into it: all whose bytes meet it. -/
def transElems (f : TransF) (p : Nat) : List (Nat × Nat) :=
  (List.range f.cols).flatMap fun c =>
    let base := f.dst + c * f.dpitch
    let lo := (p * 65536 - base) / f.sz
    let hi := min f.rows (ceilDiv ((p + 1) * 65536 - base) f.sz)
    ((List.range hi).drop lo).map fun r => (r, c)

/-- Source address of an element. -/
def transSrc (f : TransF) (q : Nat × Nat) : Nat := f.src + q.1 * f.spitch + q.2 * f.sz

/-- Source pages of a list of elements, each once; an element may lie in two. -/
def transPages (f : TransF) (es : List (Nat × Nat)) : List Nat := distinctN (es.flatMap fun q => bytePages (transSrc f q) f.sz)

/-- The bytes of an element that lie in destination page p, where they start there. -/
def transPart (s : State) (x : Inflight) (t : Nat) (f : TransF) (p : Nat) (q : Nat × Nat) : Nat × Bytes :=
  let a := f.dst + q.2 * f.dpitch + q.1 * f.sz
  let bs := (pageParts (transSrc f q) f.sz).flatMap (partBytes s x t)
  let lo := p * 65536 - a
  (a + lo, (bs.drop lo).take ((p + 1) * 65536 - (a + lo)))

/-- Writes that follow one another at rising addresses, joined where one ends at the next's start. -/
def joinWrites : List (Nat × Bytes) → List (Nat × Bytes)
  | [] => []
  | (a, bs) :: ws =>
    match joinWrites ws with
    | [] => [(a, bs)]
    | (b, cs) :: vs => if a + bs.length = b then (a, bs ++ cs) :: vs else (a, bs) :: (b, cs) :: vs

/-- The writes of a destination tile: the part in it of every element that meets it. -/
def transWrites (s : State) (x : Inflight) (t : Nat) (f : TransF) (p : Nat) (es : List (Nat × Nat)) : List (Nat × Bytes) :=
  joinWrites (es.map (transPart s x t f p))

/-- Do destination tiles from the n-th on, at most `fuel`. -/
def transGo (x : Inflight) (t : Nat) (f : TransF) : Nat → Nat → State → State
  | 0, n, s => if ((inflAt s x.ref).map (·.sent)).getD [] = [] then complete s x.ref stOk n 0 else modInfl s x.ref fun y => { y with done := n }
  | fuel + 1, n, s =>
    let p := pageOf f.dst + n
    let es := transElems f p
    match cmdReady s x t walkHubControl .read (transPages f es) with
    | .wait s1 => modInfl s1 x.ref fun y => { y with done := n }
    | .fault k c pg => cmdFault s x (srcHub (p % 5)) k 0 c pg n
    | .ready =>
      match cmdReady s x t walkHubControl .write (if es = [] then [] else [p]) with
      | .wait s1 => modInfl s1 x.ref fun y => { y with done := n }
      | .fault k c pg => cmdFault s x (srcHub (p % 5)) k 1 c pg n
      | .ready =>
        let ws := transWrites s x t f p es
        if !partsRoom s t (ws.map (·.1)) then modInfl s x.ref fun y => { y with done := n } else
        let s1 := ws.foldl (fun st w => partWrite st x t w.1 w.2) s
        let s2 := touchCmd s1 x.ref t walkHubControl (transPages f es ++ (if es = [] then [] else [p]))
        match x.stopped with
        | some st => complete s2 x.ref st (n + 1) 0
        | none => transGo x t f fuel (n + 1) s2

def execAtlasTranspose (r : CmdRef) (s : State) : Res :=
  runCmd s r 0x040E (fun _ e => transChecks e) fun s1 x e =>
    let f := transF e
    let total := (f.dst % 65536 + f.dstSpan - 1) / 65536 + 1
    if x.sent ≠ [] then s1 else transGo x (cmdTenant x) f (total - x.done) x.done s1

/-! ### Migrations end (R168, R169, R174, R175) -/

/-- Remove a migration. -/
def dropMig (s : State) (t p : Nat) : State :=
  modAtlas s fun a => { a with migs := a.migs.filter fun m => !(m.tenant = t ∧ m.page = p) }

/-- Tile-mover commands and fetches that wait on a page resume (R184). -/
def resumeMiss (s : State) (t p : Nat) : State :=
  let wakeTm (k : Core) (x : TmCmd) : TmCmd :=
    match tabFind k.slots x.slot with
    | some sl => if jobTenant sl.jobid = t ∧ x.stage = .miss p then { x with stage := .translate } else x
    | none => x
  let wakeSlot (q : Nat × Slot) : Nat × Slot :=
    if jobTenant q.2.jobid = t ∧ q.2.ctx.fetchMiss = some p then
      (q.1, { q.2 with ctx := { q.2.ctx with fetchMiss := none } })
    else q
  { s with cores := s.cores.map fun q => (q.1, { q.2 with tm := q.2.tm.map (wakeTm q.2), slots := q.2.slots.map wakeSlot }) }

/-- The kind of access a waiting tile-mover command makes. -/
def tmAcc (k : Core) (sl : Slot) (x : TmCmd) : Nat :=
  match tmRange k (boundSlot sl x.regs) x.cmd.bytes x.progress with
  | some g => accCode g.acc
  | none => 0

/-- A core's commands and fetches that waited for a promotion that could not be made fault QUOTA (R170, R184). -/
def quotaCore (t p cause : Nat) (k : Core) : Core :=
  let hit (x : TmCmd) : TmCmd :=
    match tabFind k.slots x.slot with
    | some sl => if jobTenant sl.jobid = t ∧ x.stage = .miss p then { x with stage := .fault 0x02 cause (tmAcc k sl x) p } else x
    | none => x
  let fetchHit (q : Nat × Slot) : Nat × Slot :=
    if jobTenant q.2.jobid = t ∧ q.2.ctx.fetchMiss = some p then
      (q.1, { q.2 with ctx := { q.2.ctx with fetchMiss := none, fetchFault := some (0x02, cause, p) } })
    else q
  { k with tm := k.tm.map hit, slots := k.slots.map fetchHit }

/-- Accesses of a core that wait for the promotion of a page. -/
def quotaHits (t p : Nat) (k : Core) : Nat :=
  (k.tm.filter fun x => match tabFind k.slots x.slot with
    | some sl => decide (jobTenant sl.jobid = t ∧ x.stage = .miss p)
    | none => false).length
    + (k.slots.filter fun q => decide (jobTenant q.2.jobid = t ∧ q.2.ctx.fetchMiss = some p)).length

/-- The commands, host requests, peers' operations and engines that waited for a promotion that could not be made find it when they are
served next (R170, R186). -/
def quotaOthers (s : State) (m : Mig) (cause : Nat) : State :=
  let t := m.tenant
  let p := m.page
  let cmd (y : Inflight) : Inflight :=
    if y.missOn = some (t, p) ∨ y.acted.contains (t, p) then { y with missOn := none, qfail := some (t, p, cause) } else y
  let fn (q : Nat × Func) : Nat × Func :=
    if fnTenant q.1 = t ∧ q.2.barMiss = some p then (q.1, { q.2 with barMiss := none, barFail := some (p, cause) }) else q
  let msg (q : RMsg) : RMsg :=
    if q.missed ∧ q.m.tenant = t ∧ pageOf (q.m.addr % 2 ^ 57) = p then { q with missed := false, qfail := some cause } else q
  { s with
    inflight := s.inflight.map cmd
    host := { s.host with funcs := s.host.funcs.map fn }
    fab := { s.fab with
      inbox := s.fab.inbox.map msg
      failed := if m.eng then s.fab.failed ++ [(t, p, 0x02, cause)] else s.fab.failed } }

/-- A promotion whose room cannot be made: its waiting accesses fault QUOTA; one that nothing waits for is abandoned (R170). -/
def failPromotion (s : State) (m : Mig) (cause : Nat) : State :=
  let t := m.tenant
  let p := m.page
  let s0 := dropMig (modLeaf s t p fun l => { l with mig := false }) t p
  let hits := (s0.cores.map fun q => quotaHits t p q.2).sum
  let s1 := quotaOthers { s0 with cores := s0.cores.map fun q => (q.1, quotaCore t p cause q.2) } m cause
  let s2 := countEvs s1 (srcHub m.hub) 0x0107 t hits
  (s2.cores.map (·.1)).foldl (fun st c => (List.range 8).foldl (fun st2 i => settleHalt st2 c i) st) s2

/-- Migrations that wait for a page's demotion. -/
def waitersOn (s : State) (t p : Nat) : List Mig := s.atlas.migs.filter fun m => m.tenant = t && m.waitsOn = some p

/-- Replace a migration. -/
def putMig (s : State) (m1 : Mig) : State :=
  modAtlas s fun a => { a with migs := a.migs.map fun x => if x.tenant = m1.tenant ∧ x.page = m1.page then m1 else x }

/-- A promotion looks for room again (R169, R170). -/
def retryRoom (s : State) (m : Mig) : State :=
  match makeRoom s { m with waitsOn := none, dst := none } with
  | .ok (s1, m1) => putMig s1 m1
  | .error c => failPromotion s m c

/-- A tile's demotion has failed, or the tile is poisoned: what waited for its place tries elsewhere (R169, R170, R175).  A promotion
looks for another tile where this one is poisoned and fails with LOWER_FULL otherwise; a demotion goes on to the tiers after its own,
and its own first where it may still displace another tile there. -/
def failDemotion : Nat → Bool → State → Nat → Nat → State
  | 0, _, s, _, _ => s
  | fuel + 1, poisoned, s, t, p =>
    (waitersOn s t p).foldl (fun st m =>
      if m.tier = 0 then (if poisoned then retryRoom st m else failPromotion st m 0x02)
      else
        let st1 := dropMig (modLeaf st t m.page fun l => { l with mig := false }) t m.page
        let later := tiersAfter (ctxAt st1 t).dorder m.tier
        match (leafAt st1 t m.page).bind fun l => takeBy st1 t (m.page, l) m.hub m.fg (if poisoned then m.tier :: later else later) with
        | some st2 => st2
        | none => failDemotion fuel false st1 t m.page) s

/-- Promotions that wait for room, in order of arrival, look for it again (R168, R170). -/
def settleRooms (s : State) : State :=
  (s.atlas.migs.filter fun m => m.needRoom).foldl retryRoom s

/-- Free an undelivered destination. -/
def freeDst (s : State) (m : Mig) : State :=
  match m.dst with
  | some (.t1 f) => releaseFrame s f
  | _ => s

/-- A migration ends by poisoning its tile, which stays where it is (R175). -/
def poisonMig (s : State) (m : Mig) (cause : Nat) : State :=
  let s1 := dropMig (freeDst s m) m.tenant m.page
  let s2 := modLeaf s1 m.tenant m.page fun l => { l with mig := false, psn := true, cause := cause }
  let s3 := settleRooms (failDemotion s2.atlas.migs.length true s2 m.tenant m.page)
  resumeMiss (poisonEvent s3 (srcHub m.hub) m.tenant m.page cause) m.tenant m.page

/-- The destination frame of a promotion: as allocated, or a free one now (R168, R173). -/
def promoFrame (s : State) (m : Mig) : Option Nat :=
  match m.dst with
  | some (.t1 f) => some f
  | _ => if m.waitsOn ≠ none then none else allocFrame s m.hub

/-- Is the tile's data at hand: a tile in T3 once the host has answered? -/
def sourceRead (s : State) (t p : Nat) : Bool := !s.host.reads.contains (.t3 t p)

/-- May a migration's copy end now: its data at hand, its place taken? -/
def migReady (s : State) (m : Mig) : Bool :=
  match leafAt s m.tenant m.page with
  | none => false
  | some l => decide (m.waitsOn = none) && !m.needRoom && sourceRead s m.tenant m.page && !t4Idle s l.loc
      && (decide (m.tier ≠ 0) || (promoFrame s m).isSome)

/-- How far behind a tenant stands in a hub's round of a class (R173). -/
def turnOf (s : State) (m : Mig) : Nat := (m.tenant + 63 - tabGet s.atlas.migTurn (2 * m.hub + bit01 m.fg) 63) % 64

/-- Is it a migration's turn at its hub: foreground before background, the tenants of a class in turn (R173)? -/
def migServed (s : State) (m : Mig) : Bool :=
  s.atlas.migs.all fun y => decide (y.hub ≠ m.hub) || !migReady s y ||
    (if y.fg = m.fg then decide (turnOf s m ≤ turnOf s y) else m.fg)

/-- The hub has served a migration. -/
def noteTurn (s : State) (m : Mig) : State :=
  modAtlas s fun a => { a with migTurn := tabPut a.migTurn (2 * m.hub + bit01 m.fg) m.tenant }

/-- A promoted tile's entry switches to its frame (R172, R173, R174); cause 0x20 to 0x24: its source could not be read. -/
def execPromotionComplete (t page cause : Nat) (s : State) : Res :=
  match migOf s t page, leafAt s t page with
  | some m, some l =>
    if m.tier ≠ 0 ∨ !migReady s m ∨ !migServed s m then .next s
    else if t4Lost s l then .next (serveAll (poisonMig s m 0x22))
    else if cause ≠ 0 ∧ l.loc ≠ .zero then .next (serveAll (poisonMig s m cause))
    else match promoFrame s m with
    | none => .next s
    | some f =>
      let s1 := noteTurn (dropMig (tagFrame s f (.tile t page)) t page) m
      let heat := if l.loc = .zero then l.heat else (ctxAt s t).promote
      let s2 := setLeaf s1 t page { l with loc := .t1 f, clen := 0, mig := false, heat := heat, pin := l.pin || m.pinAfter }
      .next (serveAll (wakeWatches (resumeMiss (settleRooms s2) t page) t (page * 65536) 65536))
  | _, _ => .next s

/-- A demotion's tile has left: the T1 frame it frees goes to the migration that waited for it, else to zeroing; a demotion that waited
takes its destination (R168, R169, R376). -/
def releaseTo (s : State) (t p : Nat) (from1 : Option Nat) : State :=
  let ws := waitersOn s t p
  let s1 := match from1 with
    | none => s
    | some f => match ws.find? fun m => m.tier = 0 with
      | some w => tagFrame s f (.tile t w.page)
      | none => releaseFrame s f
  ws.foldl (fun st m =>
    if m.tier = 0 then putMig st { m with waitsOn := none, dst := from1.map .t1 }
    else let m1 := withDst st { m with waitsOn := none }; putMig (noteUsed st m1.dst) m1) s1

/-- A demotion whose write failed, or whose peer is full, tries another location in its tier, then the later tiers; with none left it
fails with LOWER_FULL (R170, R175, R178).  A failed write to T3 or T4 is logged. -/
def demotionRetry (s : State) (m : Mig) (l : Leaf) (failed : Bool) : State :=
  let t := m.tenant
  let s1 := if failed ∧ m.tier ≠ 1 then postEvent s (srcHub m.hub) 0x0104 0 t (hideAddr t (m.page * 65536)) 0 0 else s
  let m1 := { m with tried := m.tried ++ m.dst.toList, dst := none }
  let m2 := withDst (putMig s1 m1) m1
  if m2.dst.isSome then putMig (noteUsed s1 m2.dst) m2
  else
    let s2 := dropMig (modLeaf s1 t m.page fun y => { y with mig := false }) t m.page
    match takeBy s2 t (m.page, { l with mig := false }) m.hub m.fg (tiersAfter (ctxAt s t).dorder m.tier) with
    | some s3 => s3
    | none => settleRooms (failDemotion s2.atlas.migs.length false s2 t m.page)

/-- The stored form of a tile goes to its host region (R165, R181): raw in 16 sectors, else as the codec stores it. -/
def writeT3 (s : State) (t p : Nat) (loc : Loc) (c : Nat) : State :=
  match loc with
  | .t3 r sec =>
    let base := (tabGet s.atlas.regions r {}).busaddr
    let raw := (List.range 65536).map fun i => cellRead s.atlas.mem (memKey t (p * 65536 + i))
    hostPutS s 0 0 t 5 (base + sec * 4096) (if c = 15 then raw else padTo ((c + 1) * 4096) (Config.codecImage (tileCells s t p)))
  | _ => s

/-- The location a demotion has written: a lender names the slot. -/
def writtenAt (loc : Loc) (slot : Nat) : Loc := match loc with | .lent m _ => .lent m slot | l => l

/-- A demotion's copy ends (R168): its entry switches, its source is released, and its hub counts it.  `res` 0: written, at the slot a
lender names; 1: the write failed; 2: the peer's pool is full; 0x20 to 0x24: the source could not be read. -/
def execDemotionComplete (t page res slot : Nat) (s : State) : Res :=
  match migOf s t page, leafAt s t page with
  | some m, some l =>
    if m.tier = 0 ∨ !migReady s m ∨ !migServed s m then .next s
    else if t4Lost s l then .next (serveAll (poisonMig s m 0x22))
    else if 0x20 ≤ res then .next (serveAll (poisonMig s m res))
    else match m.dst with
    | none => .next (serveAll (demotionRetry s m l false))
    | some loc =>
      let c := if m.tier = 1 then 0 else tileClen s t page
      if res ≠ 0 then .next (serveAll (demotionRetry s m l (decide (res = 1)))) else
      if t4Idle s loc then .next s else
      match (match loc with | .t4 sec => programT4 s sec (c + 1) | _ => some s) with
      | none => .next s
      | some s0 =>
      let s1 := noteTurn (setLeaf (dropMig (writeT3 s0 t page loc c) t page) t page { l with loc := writtenAt loc slot, clen := c, mig := false }) m
      let s2 := releaseTo s1 t page (match l.loc with | .t1 f => some f | _ => none)
      let s3 := if locTier l.loc = m.tier then s2 else countEv s2 (srcHub m.hub) 0x0103 t
      .next (serveAll (resumeMiss (settleRooms s3) t page))
  | _, _ => .next s

/-- Every HEATPER µs of a tenant's policy, at meridian multiples, each tile's heat is halved (R172). -/
def execHeatDecay (t : Nat) (s : State) : Res :=
  let c := ctxAt s t
  let per := c.heatper * usTicks
  let s1 := advance s (per - merNow s % per)
  .next (setCtx s1 t { c with pages := c.pages.map fun q => (q.1, { q.2 with heat := q.2.heat / 2 }) })

/-! ### The fault ring (R188, R189, R495) -/

/-- Has a job-core of a core a fault record that waits for its ring (R189)? -/
def recordWaits (s : State) (jobid : Nat) : Bool :=
  (ctxAt s (jobTenant jobid)).waiting.any fun w => match w.holder with
    | .core _ _ j => decide (j = jobid)
    | _ => false

/-- Put a refused command back at the head of its stream. -/
def requeue (x : Ctx) (q : QCmd) : Ctx :=
  { x with halt := none, queue := q :: x.queue, run := x.run.map fun r => { r with issued := r.issued - 1 } }

/-- The command at a faulted fetch is passed over (R96). -/
def skipFetch (x : Ctx) : Ctx :=
  { x with halt := none, run := x.run.map fun r => { r with fetched := r.fetched + 1, issued := r.issued + 1 } }

/-- A halted job-core goes on: RETRY or SKIP (R96, R106, R185). -/
def resumeNow (s : State) (c i : Nat) (skip : Bool) : State :=
  match slotAt s c i with
  | none => s
  | some sl =>
    let go := modCtx s c i fun x => { x with halt := none, resume := none }
    match sl.ctx.halt with
    | none => s
    | some (.refused q) => if skip then go else modCtx go c i fun x => requeue x q
    | some (.parked id) =>
      if skip then
        match (coreAt s c).tm.find? fun x => x.id = id with
        | some x => tmComplete go c x
        | none => go
      else modTm go c id fun x => { x with stage := .translate }
    | some .fetch => if skip then modCtx go c i skipFetch else go
    | some (.donesem p) => if skip then go else donesemSignal go c i sl p

/-- What a halted job-core waited for while its record waited: a resume, or its end under a BOUNDARY abort (R189, R210). -/
def settleCore (s : State) (jobid : Nat) : State :=
  match jobAt s jobid with
  | none => s
  | some j =>
    if recordWaits s jobid then s else
    let s1 := j.jcores.foldl (fun st q =>
      if q.2.st ≠ .resident then st else
      match slotAt st q.2.core q.2.slot with
      | none => st
      | some sl =>
        if sl.ctx.halt = none then st
        else if j.ending = some 1 then abortJc st jobid q.1
        else match sl.ctx.resume with
          | some skip => resumeNow st q.2.core q.2.slot skip
          | none => st) s
    settleEnding s1 jobid

/-- The host writes its consumer count: room is freed, and failed writes are tried again (R188, R495). -/
def execFringCidxWrite (fn value : Nat) (s : State) : Res :=
  if fnPresent s fn ∧ fn < 64 then
    .next (updCtx s (fnTenant fn) fun c => { c with cidx := value % 2 ^ 32, stalled := false })
  else .next s

end Sys2Proof.Machine
end

