-- ==== Sys2Proof/Machine/Flit.lean ====
section
/-! DEFINITION. Flits: the route header, the link trailer, the CRC (R304, R305, Tables 12.2 and 12.3). -/

namespace Sys2Proof.Machine

/-! ### Messages as flits (R305) -/

/-- BODY flits of a message. -/
def nBody (m : FabMsg) : Nat := ceilDiv (m.data.length - 208) 240

/-- Flits of a message. -/
def nFlits (m : FabMsg) : Nat := 1 + nBody m

/-- The route header that 32 bytes hold (Table 12.3), with the payload behind it. -/
def parseMsg (b : Bytes) : FabMsg :=
  { op := byteAt b 0, service := fld b 1 7 5, esc := flg b 1 4, nm := flg b 1 3, ord := flg b 1 2, localhop := flg b 1 1,
    retry := flg b 1 0, tenant := fld b 2 5 0, hops := byteAt b 3, dst := fld b 4 16 0, src := fld b 8 16 0,
    txid := fieldAt b 12 2, addr := fieldAt b 16 8, arg := fieldAt b 24 4, oseq := fieldAt b 28 2, data := b.drop 32 }

/-- Byte 1 of a route header: SVC and the flags. -/
def svcByte (m : FabMsg) : Nat :=
  m.service % 8 * 32 + bit01 m.esc * 16 + bit01 m.nm * 8 + bit01 m.ord * 4 + bit01 m.localhop * 2 + bit01 m.retry

/-- The route header of a message. -/
def headBytes (m : FabMsg) : Bytes :=
  leBytes 1 m.op ++ leBytes 1 (svcByte m) ++ leBytes 1 (m.tenant % 64) ++ leBytes 1 m.hops ++ leBytes 4 (m.dst % 2 ^ 17) ++ leBytes 4 (m.src % 2 ^ 17)
    ++ leBytes 2 m.txid ++ leBytes 2 (nBody m % 4096) ++ leBytes 8 m.addr ++ leBytes 4 m.arg ++ leBytes 2 m.oseq ++ leBytes 2 0

/-- A flit before its trailer: byte 245, which holds KIND, LAST and BAD, and the body. -/
abbrev FlitPart := Nat × Bytes

/-- The BODY flits of a payload, n of them. -/
def bodyParts : Nat → Bytes → List FlitPart
  | 0, _ => []
  | n + 1, bs => (0x80 + (if n = 0 then 0x20 else 0), padTo 240 bs) :: bodyParts n (bs.drop 240)

/-- The flits of a message: a HEAD, then BODY flits; LAST on the last one. -/
def msgParts (m : FabMsg) : List FlitPart :=
  (0x40 + (if nBody m = 0 then 0x20 else 0), padTo 240 (headBytes m ++ m.data)) :: bodyParts (nBody m) (m.data.drop 208)

/-- A CTRL flit; what its body holds for its list of values is not laid out in the spec (log 40). -/
def ctrlPart (args : List Nat) : FlitPart := (0xC0, leBytes 240 (Config.ctrlBody args).toNat)

/-! ### CRC (R304) -/

/-- One bit of the division by the ECMA-182 polynomial, the most significant first (log 40). -/
def crcBit (c : DWord) : DWord := if c.msb then c <<< 1 ^^^ 0x42F0E1EBA9EA3693#64 else c <<< 1

/-- One byte of it. -/
def crcByte (c : DWord) (b : Byte) : DWord := (List.range 8).foldl (fun x _ => crcBit x) (c ^^^ b.setWidth 64 <<< 56)

/-- The CRC-64 of a byte string. -/
def crc64 (bs : Bytes) : Nat := (bs.foldl crcByte 0).toNat

/-- A flit of 248 bytes with its CRC. -/
def sealFlit (f : Bytes) : Bytes := f ++ leBytes 8 (crc64 f)

/-- Is the CRC of a flit right? -/
def crcOk (f : Bytes) : Bool := decide (crc64 (f.take 248) = fieldAt f 248 8)

/-! ### Trailers (Table 12.2) -/

/-- Credits that the next trailer of a port returns, at most 15 of the lowest lane that has any (log 40): byte 244, and what remains. -/
def nextCredit (cr : Tab Nat) : Nat × Tab Nat :=
  match cr.find? fun q => decide (q.2 ≠ 0) with
  | none => (0, [])
  | some (k, n) => (k / 2 % 8 * 32 + k % 2 * 16 + min n 15, tabPut cr k (n - min n 15))

/-- The first 248 bytes of a flit: body, SEQ, ACK, credits, KIND, zeros. -/
def trailed (f : FlitPart) (seq ack cr : Nat) : Bytes := f.2 ++ leBytes 2 seq ++ leBytes 2 ack ++ leBytes 1 cr ++ leBytes 1 f.1 ++ leBytes 2 0

/-- Give flits their trailers: SEQ counts on, and each returns credits. -/
def withTrailers (p : Port) : List FlitPart → Port × List Bytes
  | [] => (p, [])
  | f :: fs =>
    let c := nextCredit p.crOut
    let r := withTrailers { p with txSeq := (p.txSeq + 1) % 65536, crOut := c.2 } fs
    (r.1, trailed f p.txSeq p.rxSeq c.1 :: r.2)

/-- A replayed flit: its trailer but for ACK and CRC (R308). -/
def againFlit (ack : Nat) (f : Bytes) : Bytes := sealFlit (f.take 242 ++ leBytes 2 ack ++ (f.drop 244).take 4)

end Sys2Proof.Machine
end

