-- ==== Sys2Proof/Machine/JobCmds.lean ====
section
/-! DEFINITION. The JOB group, saves, restores and inheritance timeouts (chapter 8). -/

namespace Sys2Proof.Machine

/-! ### JOB.CREATE (R192, R194, R195) -/

/-- Checks of a job descriptor (Table 8.2, R195). -/
def descChecks (s : State) (t : Nat) (d : Bytes) : List (Nat × Bool) :=
  let minc := fld d 2 6 0
  let maxc := fld d 3 6 0
  let jm := BitVec.ofNat 96 (fieldAt d 24 12)
  [(0, decide (fld d 0 7 3 ≠ 0)), (1, decide (byteAt d 1 ≠ 0)), (2, decide (fld d 2 7 7 ≠ 0)),
   (2, decide (minc = 0 ∨ 96 < minc)), (3, decide (fld d 3 7 7 ≠ 0)), (3, decide (96 < maxc)), (2, decide (maxc < minc)),
   (4, decide (fld d 4 7 5 ≠ 0)), (4, decide (fld d 4 4 0 = 0 ∨ 16 < fld d 4 4 0)), (5, decide (byteAt d 5 ≠ 0)),
   (6, decide (fld d 6 15 10 ≠ 0)), (6, decide (512 < fld d 6 9 0)), (8, decide (fld d 8 7 6 ≠ 0)), (9, !zeroBytes d 9 15),
   (16, decide (fld d 16 63 57 ≠ 0)), (24, decide (jm &&& ~~~ (tenAt s t).cores ≠ 0)), (36, !zeroBytes d 36 47),
   (52, !zeroBytes d 52 63)]

/-- Entry k of a region table. -/
def rtabEntry (bs : Bytes) (k : Nat) : Bytes := (bs.drop (16 * k)).take 16

/-- Does every region entry pass R73 against the window? -/
def rtabOk (bs : Bytes) (n nseg : Nat) : Bool :=
  (List.range n).all fun k => (firstBad (regionChecks (rtabEntry bs k) 0 nseg)).isNone

/-- The region table of a descriptor. -/
def rtabOf (bs : Bytes) (n : Nat) : Tab Region :=
  (List.range n).foldl (fun t k => let r := regionOf (rtabEntry bs k); regionCommit t r.1 r.2) []

/-- The next free serial of a tenant (R192). -/
def nextSerial (s : State) (t : Nat) : Nat → Nat → Nat
  | 0, n => n
  | fuel + 1, n =>
    let m := if 0x3FFFFFF ≤ n then 1 else n + 1
    if tabHas s.jobs.jobs (t * 2 ^ 26 + m) then nextSerial s t fuel m else m

/-- Live jobs of a tenant. -/
def liveJobs (s : State) (t : Nat) : Nat := (s.jobs.jobs.filter fun q => q.2.tenant = t).length

/-- Enabled cores a job's mask holds. -/
def maskCores (s : State) (j : Job) : Nat := popc 96 (jobMask s j).toNat

/-- Make a job; none beyond the limits of R192. -/
def makeJob (s : State) (j : Job) : Option (State × Nat) :=
  let t := j.tenant
  if 4096 ≤ s.jobs.jobs.length ∨ (tenAt s t).joblim ≤ liveJobs s t ∨ maskCores s j < j.mincores then none else
  let n := nextSerial s t 4097 (tabGet s.jobs.serial t 0)
  let id := t * 2 ^ 26 + n
  let jcs : Tab JobCore := (List.range j.maxcores).map fun i => (i, { pendingSince := s.clk.ticks })
  some ({ s with jobs := { s.jobs with
    serial := tabPut s.jobs.serial t n
    jobs := tabPut s.jobs.jobs id { j with jcores := jcs, created := s.clk.ticks } } }, id)

/-- The job a descriptor describes. -/
def descJob (t : Nat) (d rt : Bytes) : Job :=
  { tenant := t, prio := fld d 0 2 0, mincores := fld d 2 6 0, maxcores := fld d 3 6 0, nseg := fld d 4 4 0,
    nacc := fld d 6 9 0, rtab := rtabOf rt (fld d 8 5 0), jmask := fieldAt d 24 12 }

/-- What JobCreate requires of its entry (R385): byte offset and whether the field there is at fault. -/
def chkJobCreate (_ : CmdRef) (_ : State) (e : Bytes) : List (Nat × Bool) :=
  [(16, decide (parFld e 0 5 0 ≠ 0))]

def execJobCreate (r : CmdRef) (s : State) : Res :=
  runCmd s r 0x0601 (chkJobCreate r) fun s1 x e =>
    let t := cmdTenant x
    let dva := parFld e 0 56 0
    match cmdRead s1 x t walkHubControl dva 64 with
    | .wait s2 => s2
    | .fault k c p => cmdFault s1 x srcCp k 0 c p 0
    | .ok s2 d =>
      match firstBad (descChecks s2 t d) with
      | some o => badBlock s2 r o
      | none =>
        match cmdRead s2 x t walkHubControl (fld d 16 56 0) (16 * fld d 8 5 0) with
        | .wait s3 => s3
        | .fault k c p => cmdFault s2 x srcCp k 0 c p 0
        | .ok s3 rt =>
          if !rtabOk rt (fld d 8 5 0) (fld d 4 4 0) then badBlock s3 r 16 else
          match makeJob s3 (descJob t d rt) with
          | none => complete s3 r stNoFit 0 0
          | some (s4, id) =>
            match cmdWrite s4 x t walkHubControl (dva + 48) (leBytes 4 id) with
            | .ok s5 _ => complete (placement s5) r stOk id 0
            | .wait s5 => { s5 with jobs := s3.jobs }
            | .fault k c p => cmdFault s3 x srcCp k 1 c p 0

/-! ### Naming a job (R212) -/

/-- The live job a command names, or the status it is refused with. -/
def namedJob (s : State) (x : Inflight) (jobid : Nat) : Except Nat Job :=
  if jobTenant jobid ≠ cmdTenant x then .error stNoPerm else
  match jobAt s jobid with
  | some j => .ok j
  | none => .error stNotFound

/-! ### JOB.PLOTS (R199) -/

/-- A plot descriptor (Table 5.11). -/
def plotOf (b : Bytes) : Plot :=
  { cmdva := fld b 0 56 0, ncmd := fieldAt b 8 2, sticky := flg b 10 0, plotid := fieldAt b 12 4,
    donesem := fieldAt b 16 2, doneinc := fieldAt b 18 2 }

/-- Is a plot descriptor refused (R6, Table 5.11)? -/
def plotBad (b : Bytes) : Bool :=
  decide (fld b 0 63 57 ≠ 0 ∨ fld b 0 5 0 ≠ 0 ∨ fieldAt b 8 2 = 0 ∨ 4096 < fieldAt b 8 2 ∨ fld b 10 15 1 ≠ 0)
    || !zeroBytes b 20 31

/-- Entry k of a plot table. -/
def plotEntry (bs : Bytes) (k : Nat) : Bytes := (bs.drop (32 * k)).take 32

/-- Hand plots to a job: dealt, or to one job-core (R199). -/
def handPlots (s : State) (jobid : Nat) (j : Job) (target : Option Nat) (cmd : Option (Nat × Nat × Nat)) (ps : List Plot) :
    State :=
  let b := s.jobs.nextBatch
  let qs := (enumFrom 0 ps).map fun q => { q.2 with batch := b, seq := j.nextSeq + q.1, target := target }
  let s1 := { s with jobs := { s.jobs with nextBatch := b + 1 } }
  let s2 := modJob s1 jobid fun x => { x with
    batches := tabPut x.batches b { cmd := cmd, total := ps.length }
    nextSeq := x.nextSeq + ps.length
    undealt := if target.isNone then x.undealt ++ qs else x.undealt }
  let s3 := match target with
    | some k => modJc s2 jobid k fun y => { y with targeted := y.targeted ++ qs }
    | none => s2
  deal s3 jobid

/-- Does an earlier JOB.PLOTS of the same job still have to be handed over (R199)? -/
def earlierPlots (s : State) (x : Inflight) : Bool :=
  (s.inflight.takeWhile fun y => y ≠ x).any fun y =>
    decide (entryOp y.entry = 0x0602) && decide (par y.entry 0 4 = par x.entry 0 4) && decide (y.acted = []) && decide (y.status = none)

/-- What JobPlots requires of its entry (R385): byte offset and whether the field there is at fault. -/
def chkJobPlots (_ : CmdRef) (_ : State) (e : Bytes) : List (Nat × Bool) :=
  [(20, decide (par e 4 2 = 0)), (24, decide (parFld e 8 4 0 ≠ 0))]

def execJobPlots (r : CmdRef) (s : State) : Res :=
  runCmd s r 0x0602 (chkJobPlots r) fun s1 x e =>
    let jobid := par e 0 4
    let n := par e 4 2
    let tg := par e 6 1
    if x.acted ≠ [] then s1 else
    match namedJob s1 x jobid with
    | .error st => complete s1 r st 0 0
    | .ok j =>
      if tg ≠ 0xFF ∧ j.maxcores ≤ tg then badParam s1 r 22
      else if j.ending.isSome then complete s1 r stAborted 0 0
      else if earlierPlots s1 { x with started := (match inflAt s1 r with | some y => y.started | none => false) } then s1
      else
        let va := parFld e 8 56 0
        match cmdReady s1 x j.tenant walkHubControl .fetch (bytePages va (32 * n)) with
        | .wait s2 => s2
        | .fault k c p => cmdFault s1 x srcCp k 2 c p 0
        | .ready =>
          let bs := (pageParts va (32 * n)).flatMap (partBytes s1 x j.tenant)
          let ds := (List.range n).map fun k => plotEntry bs k
          if ds.any plotBad then badParam s1 r 24 else
          let s2 := modInfl (touchCmd s1 r j.tenant walkHubControl (bytePages va (32 * n))) r fun y =>
            { y with acted := [(j.tenant, pageOf va)] }
          handPlots s2 jobid j (if tg = 0xFF then none else some tg) (some (r.fn, r.mbox, r.cid)) (ds.map plotOf)

/-! ### JOB.RESUME (R96, R185, R205) -/

/-- Is a job-core halted: on its core or in its save area? -/
def jcHalted (s : State) (jc : JobCore) : Bool :=
  match jc.st with
  | .unplaced => false
  | .saved => match jc.area with | some a => a.ctx.halt.isSome | none => false
  | _ => match slotAt s jc.core jc.slot with | some sl => sl.ctx.halt.isSome | none => false

/-- Give a JOB.RESUME to a halted job-core: at once when RESIDENT with its record written; else it waits (R189, R205). -/
def giveResume (s : State) (jobid i : Nat) (jc : JobCore) (skip : Bool) : State :=
  if jc.st = .saved then
    modJc s jobid i fun y => { y with area := y.area.map fun a => { a with ctx := { a.ctx with resume := some skip } } }
  else if jc.st = .resident ∧ !recordWaits s jobid then resumeNow s jc.core jc.slot skip
  else modCtx s jc.core jc.slot fun x => { x with resume := some skip }

/-- JOB.RESUME with one action. -/
def jobResume (s : State) (r : CmdRef) (skip : Bool) : Res :=
  runCmdIf s r 0x0603 (fun e => parFlg e 5 0 == skip) noChecks
    fun s1 x e =>
      let jobid := par e 0 4
      match namedJob s1 x jobid with
      | .error st => complete s1 r st 0 0
      | .ok j =>
        match tabFind j.jcores (parFld e 4 6 0) with
        | none => badParam s1 r 20
        | some jc =>
          if !jcHalted s1 jc then badParam s1 r 20
          else complete (giveResume s1 jobid (parFld e 4 6 0) jc skip) r stOk 0 0

def execJobResumeRetry (r : CmdRef) (s : State) : Res := jobResume s r false
def execJobResumeSkip (r : CmdRef) (s : State) : Res := jobResume s r true

/-! ### JOB.ABORT (R210, R211) -/

/-- Discard what BOUNDARY discards on one job-core: queued, targeted and merely fetching plots; a halted one ends. -/
def boundaryJc (s : State) (jobid i : Nat) (jc : JobCore) : State :=
  if jcHalted s jc ∧ !recordWaits s jobid then abortJc s jobid i else
  let cut (x : Ctx) : Ctx × List Plot :=
    let idle := match x.run with | some r => !r.running | none => false
    ({ x with plotq := [], nextRun := none, run := if idle then none else x.run,
              queue := if idle then [] else match x.run with
                | some r => x.queue.take (r.fetched - r.issued)
                | none => [] },
     x.plotq ++ (match x.nextRun with | some r => [r.plot] | none => []) ++
       (if idle then match x.run with | some r => [r.plot] | none => [] else []))
  let s1 := dropPlots (modJc s jobid i fun y => { y with targeted := [] }) jobid jc.targeted
  match jc.st with
  | .unplaced => s1
  | .saved => match jc.area with
    | some a => dropPlots (modJc s1 jobid i fun y => { y with area := some { a with ctx := (cut a.ctx).1 } }) jobid (cut a.ctx).2
    | none => s1
  | _ => match slotAt s1 jc.core jc.slot with
    | some sl => dropPlots (modCtx s1 jc.core jc.slot fun x => (cut x).1) jobid (cut sl.ctx).2
    | none => s1

/-- Checks of JOB.ABORT. -/
def abortChecks (e : Bytes) : List (Nat × Bool) :=
  [(20, decide (parFld e 4 1 0 = 3))]

/-- The command that waits for the job's end. -/
def joinEnd (s : State) (r : CmdRef) (jobid mode : Nat) : State :=
  modJob s jobid fun x => { x with
    ending := some (max mode (x.ending.getD 0))
    endCmds := if x.endCmds.contains (r.fn, r.mbox, r.cid) then x.endCmds else x.endCmds ++ [(r.fn, r.mbox, r.cid)] }

def execJobAbortFinish (r : CmdRef) (s : State) : Res :=
  runCmdIf s r 0x0604 (fun e => decide (parFld e 4 1 0 = 0 ∨ parFld e 4 1 0 = 3)) (fun _ e => abortChecks e) fun s1 x e =>
    match namedJob s1 x (par e 0 4) with
    | .error st => complete s1 r st 0 0
    | .ok _ => settleEnding (joinEnd s1 r (par e 0 4) 0) (par e 0 4)

/-- The pending JOB.PLOTS of a job complete with CANCELLED and the count of their plots that are DONE (R210). -/
def cancelBatches (s : State) (jobid : Nat) : State :=
  match jobAt s jobid with
  | none => s
  | some j =>
    j.batches.foldl (fun st q =>
      match q.2.cmd with
      | some (f, m, c) =>
        complete (modJob st jobid fun x => { x with batches := tabDel x.batches q.1 }) ⟨f, m, c⟩ stCancelled q.2.done 0
      | none => st) s

def execJobAbortBoundary (r : CmdRef) (s : State) : Res :=
  runCmdIf s r 0x0604 (fun e => decide (parFld e 4 1 0 = 1)) (fun _ e => abortChecks e) fun s1 x e =>
    let id := par e 0 4
    match namedJob s1 x id with
    | .error st => complete s1 r st 0 0
    | .ok j =>
      let s2 := joinEnd s1 r id 1
      let s3 := dropPlots (modJob s2 id fun y => { y with undealt := [] }) id j.undealt
      let s4 := j.jcores.foldl (fun st q => boundaryJc st id q.1 q.2) s3
      placement (settleEnding (settleBatches (cancelBatches s4 id) id false) id)

def execJobAbortImmediate (r : CmdRef) (s : State) : Res :=
  runCmdIf s r 0x0604 (fun e => decide (parFld e 4 1 0 = 2)) (fun _ e => abortChecks e) fun s1 x e =>
    if r.fn ≠ 0 then complete s1 r stNoPerm 0 0 else
    match namedJob s1 x (par e 0 4) with
    | .error st => complete s1 r st 0 0
    | .ok j => if j.ending = some 2 then joinEnd s1 r (par e 0 4) 2 else abortJob (joinEnd s1 r (par e 0 4) 2) (par e 0 4)

/-! ### JOB.SEM, PRIO, STATUS, POLICY -/

/-- What JobSemCreate requires of its entry (R385): byte offset and whether the field there is at fault. -/
def chkJobSemCreate (_ : CmdRef) (_ : State) (e : Bytes) : List (Nat × Bool) :=
  [(18, decide (parFld e 2 12 0 ≠ 0)), (17, parFlg e 1 0 && decide (par e 8 4 ≠ 1))]

def execJobSemCreate (r : CmdRef) (s : State) : Res :=
  runCmdIf s r 0x0605 (fun e => parFlg e 0 0) (chkJobSemCreate r) fun s1 x e =>
    match namedJob s1 x (par e 4 4) with
    | .error st => complete s1 r st 0 0
    | .ok _ =>
      match tabGap s1.jobs.sems 0 8192 with
      | none => complete s1 r stNoFit 0 0
      | some h => complete (setSem s1 h { owner := par e 4 4, lock := parFlg e 1 0, count := par e 8 4 }) r stOk h 0

/-- What JobSemDestroy requires of its entry (R385): byte offset and whether the field there is at fault. -/
def chkJobSemDestroy (_ : CmdRef) (_ : State) (e : Bytes) : List (Nat × Bool) :=
  [(20, decide (par e 4 4 ≠ 0)), (24, decide (par e 8 4 ≠ 0))]

def execJobSemDestroy (r : CmdRef) (s : State) : Res :=
  runCmdIf s r 0x0605 (fun e => !parFlg e 0 0) (chkJobSemDestroy r) fun s1 x e =>
    let h := parFld e 2 12 0
    match tabFind s1.jobs.sems h with
    | none => complete s1 r stNotFound 0 0
    | some m =>
      if jobTenant m.owner ≠ cmdTenant x then complete s1 r stNoPerm 0 0
      else complete (inheritStep (semDestroy s1 h)) r stOk 0 0

def execJobPrio (r : CmdRef) (s : State) : Res :=
  runCmd s r 0x0606 noChecks fun s1 x e =>
    match namedJob s1 x (par e 0 4) with
    | .error st => complete s1 r st 0 0
    | .ok _ =>
      let s2 := modJob s1 (par e 0 4) fun j => { j with prio := parFld e 4 2 0 }
      complete (placement (inheritStep s2)) r stOk 0 0

/-- Window losses of a job, over its job-cores (R61, R212). -/
def jobLoss (s : State) (j : Job) : Nat :=
  min (2 ^ 32 - 1) (j.loss + (j.jcores.map fun q => match q.2.st with
    | .unplaced => 0
    | .saved => match q.2.area with | some a => a.ctx.loss | none => 0
    | _ => match slotAt s q.2.core q.2.slot with | some sl => sl.ctx.loss | none => 0).sum)

def execJobStatus (r : CmdRef) (s : State) : Res :=
  runCmd s r 0x0607 noChecks fun s1 x e =>
    match namedJob s1 x (par e 0 4) with
    | .error st => complete s1 r st 0 0
    | .ok j =>
      let count (p : JobCore → Bool) : Nat := (j.jcores.filter fun q => p q.2).length
      let st := if j.ending.isSome then 2 else 1
      complete s1 r stOk (jobLoss s1 j * 2 ^ 32 + st * 2 ^ 24 + count (fun c => c.st = .resident) * 2 ^ 16
        + count (fun c => c.st = .saved) * 2 ^ 8 + count (jcHalted s1)) 0

/-- What JobPolicy requires of its entry (R385): byte offset and whether the field there is at fault. -/
def chkJobPolicy (_ : CmdRef) (_ : State) (e : Bytes) : List (Nat × Bool) :=
  [(16, decide (par e 0 4 < 10 ∨ 100000 < par e 0 4))]

def execJobPolicy (r : CmdRef) (s : State) : Res :=
  runCmd s r 0x0608 (chkJobPolicy r)
    fun s1 _ e =>
      complete { s1 with jobs := { s1.jobs with inhto := par e 0 4, nopreempt := BitVec.ofNat 64 (par e 8 8) } } r stOk 0 0

/-! ### Saves and restores (R202 to R206) -/

/-- The job-core in a slot, with its job, when it is in a state. -/
def jcIn (s : State) (c i : Nat) (st : JcState) : Option (Slot × JobCore) :=
  match slotAt s c i with
  | none => none
  | some sl =>
    match jobAt s sl.jobid with
    | none => none
    | some j =>
      match tabFind j.jcores sl.jcore with
      | some jc => if jc.st = st then some (sl, jc) else none
      | none => none

/-- Is a tile-mover command at a run boundary? -/
def tmParked (x : TmCmd) : Bool :=
  match x.stage with
  | .translate => true
  | .miss _ => true
  | .fault .. => true
  | .ready => true
  | _ => false

/-- Have the issued commands of a slot finished or parked (Table 8.3, QUIESCE)? -/
def quiesced (k : Core) (i : Nat) (sl : Slot) : Bool :=
  k.passes.all (fun p => p.slot ≠ i) && k.drains.all (fun d => d.slot ≠ i) && k.vu.all (fun v => v.slot ≠ i)
    && k.spadOps.all (fun o => o.slot ≠ i) && k.tm.all (fun x => decide (x.slot ≠ i) || tmParked x)
    && sl.segs.all fun g => segState k g ≠ .waking

/-- QUIESCE has ended and SAVE starts (R202, R203). -/
def execSaveQuiesceEnd (c slot : Nat) (s : State) : Res :=
  match jcIn s c slot .saving with
  | none => .next s
  | some (sl, jc) =>
    let k := coreAt s c
    if jc.phase ≠ .quiesce ∨ !quiesced k slot sl then .next s else
    let n := saveBytes (sl.segs.filter fun g => segState k g = .on).length sl.nacc
    let s1 := modCore s c fun k1 => { k1 with tm := k1.tm.map fun x =>
      if x.slot = slot ∧ x.stage = .ready then { x with stage := .translate } else x }
    .next (modJc s1 sl.jobid sl.jcore fun y => { y with phase := .save, due := cycNow s c + saveCycles n })

/-- DRAIN has ended: no remote operation of the job-core is outstanding (R202). -/
def execSaveDrainEnd (c slot : Nat) (s : State) : Res :=
  match jcIn s c slot .saving with
  | none => .next s
  | some (sl, _) =>
    let out := s.fab.rem.any fun q => match q.2.owner with
      | .tm c1 id => decide (c1 = c) && (coreAt s c).tm.any fun x => decide (x.id = id ∧ x.slot = slot)
      | .fetch c1 i => decide (c1 = c ∧ i = slot)
      | .poll c1 i => decide (c1 = c ∧ i = slot)
      | _ => false
    if out then .next s else .next (modJc s sl.jobid sl.jcore fun y => { y with drained := true })

/-- The save area of a job-core (Table 8.4). -/
def captureArea (k : Core) (i : Nat) (sl : Slot) : SaveArea :=
  let ons := sl.segs.map fun g => decide (segState k g = .on)
  let win (g : Nat) : Nat := sl.segs.findIdx fun x => decide (x = g)
  let parked := k.tm.filter fun x => x.slot = i
  { segOn := ons
    bytes := (k.spad.filter fun p => sl.segs.contains (p.1 / 2 ^ 20)).foldl (fun t p =>
      tabPut t (win (p.1 / 2 ^ 20) * 2 ^ 20 + p.1 % 2 ^ 20) p.2) []
    acc := (k.acc.filter fun p => sl.accBase ≤ p.1 / 512 ∧ p.1 / 512 < sl.accBase + sl.nacc).map fun p =>
      (p.1 - sl.accBase * 512, p.2)
    ctx := sl.ctx
    parked := parked
    sb := k.sb.filter fun e => e.slot = i ∧ e.owners.any fun o => parked.any fun x => o / 2 = x.id
    tiles := saveTiles (saveBytes (ons.filter id).length sl.nacc) }

/-- The save area is written and DRAIN has ended: RELEASE, the save's last phase, begins (R202). -/
def execSaveEnd (c slot : Nat) (s : State) : Res :=
  match jcIn s c slot .saving with
  | none => .next s
  | some (sl, jc) =>
    if jc.phase ≠ .save ∨ !jc.drained then .next s else
    let s1 := advanceToCyc s c jc.due
    let area := captureArea (coreAt s1 c) slot sl
    let s2 := modSlot s1 c slot fun y => { y with release := some (cycNow s1 c + 32) }
    .next (modJc s2 sl.jobid sl.jcore fun y => { y with area := some area, savedFrom := c, phase := .release })

/-- RELEASE has ended: slot, segments and span are free (R202); the job-core is SAVED, with the context as grants and timeouts have
left it, and pending from now (R197; DEDUCED, log 46: the end of the save is the end of its last phase). -/
def execSaveReleaseEnd (c slot : Nat) (s : State) : Res :=
  match slotAt s c slot with
  | none => .next s
  | some sl =>
    match sl.release with
    | none => .next s
    | some d =>
      let s1 := advanceToCyc s c d
      let s2 := modJc (clearSlot s1 c slot) sl.jobid sl.jcore fun y => { y with
        st := .saved, area := y.area.map fun a => { a with ctx := sl.ctx }, pendingSince := s1.clk.ticks }
      .next (placement (inheritStep (feedReserve s2 c sl)))

/-- Commands restored parked, renumbered on their new core. -/
def renumber (n : Nat) (i : Nat) (xs : List TmCmd) : List TmCmd :=
  (enumFrom n xs).map fun q => { q.2 with id := q.1, slot := i, stage := match q.2.stage with
    | .fault k c a p => .fault k c a p
    | _ => .translate }

/-- Write a save area back (R205). -/
def writeBack (k : Core) (i : Nat) (sl : Slot) (a : SaveArea) : Core :=
  let n := k.nextId
  let new (o : Nat) : Nat :=
    let j := a.parked.findIdx fun x => decide (x.id = o / 2)
    2 * (n + j) + o % 2
  { k with
    spad := a.bytes.foldl (fun t p => tabPut t (physAddr sl.segs p.1) p.2) k.spad
    acc := a.acc.foldl (fun t p => tabPut t (p.1 + sl.accBase * 512) p.2) k.acc
    tm := k.tm ++ renumber n i a.parked
    nextId := n + a.parked.length
    hiwat := max k.hiwat (k.sb.length + a.sb.length)
    sb := k.sb ++ a.sb.map fun e => { e with slot := i, owners := (e.owners.filter fun o => a.parked.any fun x => x.id = o / 2).map new } }

/-- The context as restored: a pending MEM.WAIT is issued again, with its TIMEOUT from now (R202); a halt over a parked command names
its new number. -/
def restoredCtx (s : State) (k : Core) (a : SaveArea) (x : Ctx) : Ctx :=
  let h := match x.halt with
    | some (.parked id) => some (.parked (k.nextId + a.parked.findIdx fun y => decide (y.id = id)))
    | o => o
  let w := match x.wait with
    | some (.mem va c v _ _ _ q) => some (Wait.mem va c v (usDeadline s (fieldAt q.bytes 32 4)) none s.clk.ticks q)
    | o => o
  { x with halt := h, wait := w }

/-- A restored (or first placed) job-core turns RESIDENT (R205), the most recent one on its core (R201). -/
def execRestoreEnd (c slot : Nat) (s : State) : Res :=
  match jcIn s c slot .restoring with
  | none => .next s
  | some (sl, jc) =>
    if sl.segs.any fun g => segState (coreAt s c) g = .waking then .next s else
    let s1 := advanceToCyc s c jc.due
    let k := coreAt s1 c
    let s2 := match jc.area with
      | none => s1
      | some a => modCtx (setCore s1 c (writeBack k slot sl a)) c slot (restoredCtx s1 k a)
    let s3 := modJc (modCore s2 c fun k1 => { k1 with order := k1.order ++ [slot] }) sl.jobid sl.jcore fun y =>
      { y with st := .resident, area := none }
    .next (settleEnding (deal (settleCore (inheritStep s3) sl.jobid) sl.jobid) sl.jobid)

/-! ### INHTO (R209) -/

/-- Waiting job-cores on LOCKs a job holds, best priority first, then arrival, that are RESIDENT. -/
def lockWaiters (s : State) (h : Nat) : List SemWaiter :=
  (s.jobs.sems.filter fun q => q.2.lock ∧ q.2.count = 0 ∧ q.2.holder = some h).flatMap fun q => q.2.waiters.filter fun w =>
    match jobAt s w.jobid with
    | some j => (tabGet j.jcores w.jcore {}).st = .resident
    | none => false

/-- The lowest SAVED job-core of a job, or where none is SAVED yet, the lowest that is being saved. -/
def lowestSaved (j : Job) : Option Nat :=
  ((j.jcores.find? fun q => q.2.st = .saved).orElse fun _ => j.jcores.find? fun q => q.2.st = .saving).map (·.1)

/-- Park a waiter and give its core to the holder's lowest SAVED job-core, saving further residents while the core is not
open (R209). -/
def parkWaiter (s : State) (h : Nat) (w : SemWaiter) : State :=
  match jobAt s w.jobid, jobAt s h with
  | some wj, some hj =>
    match lowestSaved hj with
    | none => s
    | some i =>
      let jc := tabGet wj.jcores w.jcore {}
      let c := jc.core
      let k := coreAt s c
      match tabFind k.slots jc.slot with
      | none => s
      | some wsl =>
        let k1 := { k with slots := tabDel k.slots jc.slot }
        let p := effPrio s h
        let vs := victimOrder s k1 fun sl => decide (p < (match jobAt s sl.jobid with | some x => x.prio | none => 0))
        let more := (shortestOpening s h i c hj k1 [] vs).getD []
        takeVictims s h i c ((jc.slot, wsl) :: more)
  | _, _ => s

/-- No job-core of the holder is RESIDENT within INHTO of the start of its inheritance (R209). -/
def execInhtoExpiry (jobid : Nat) (s : State) : Res :=
  match s.jobs.inherit.find? fun x => decide (x.1 = jobid) && !x.2.2 with
  | none => .next s
  | some x =>
    let s1 := advanceTo s (x.2.1 + tabGet s.jobs.inhtoAt jobid 500 * usTicks)
    let s2 := { s1 with jobs := { s1.jobs with inherit := s1.jobs.inherit.map fun y =>
      if y.1 = jobid then (y.1, y.2.1, true) else y } }
    match jobAt s2 jobid with
    | none => .next s2
    | some j =>
      if jobHas j (fun c => c.st = .resident) then .next s2 else
      match bestWaiter s2 (lockWaiters s2 jobid) with
      | none => .next s2
      | some w => .next (inheritStep (parkWaiter s2 jobid w))

end Sys2Proof.Machine
end

