-- ==== Sys2Proof/Machine/Shake.lean ====
section
/-! DEFINITION. SHAKE256 as FIPS 202 defines it (PRESUMED: the spec names the function and not its steps; assumption log
18). -/

namespace Sys2Proof.Machine

/-- The step of the 8-bit register whose low bits make the round constants. -/
def roundReg (r : Nat) : Nat := if r < 128 then 2 * r else (2 * r - 256) ^^^ 0x71

/-- Constant of the round that begins with the register at r: its k-th bit stands at place 2^k - 1, for k below 7; with the
register after it. -/
def roundConst (r : Nat) : Nat × Nat :=
  (List.range 7).foldl (fun q k => (if q.2 % 2 = 1 then q.1 + 2 ^ (2 ^ k - 1) else q.1, roundReg q.2)) (0, r)

/-- Constants of n rounds. -/
def roundConsts : Nat → Nat → List (BitVec 64)
  | 0, _ => []
  | n + 1, r =>
    let q := roundConst r
    BitVec.ofNat 64 q.1 :: roundConsts n q.2

/-- Rotation of a lane: the walk over the lanes from number p comes to it after t steps or more, n at most; the t-th lane of
the walk turns by the t-th triangular number. -/
def laneTurn (i : Nat) : Nat → Nat → Nat → Nat
  | 0, _, _ => 0
  | n + 1, t, p => if p = i then t * (t + 1) / 2 % 64 else laneTurn i n (t + 1) (p / 5 + 5 * ((2 * (p % 5) + 3 * (p / 5)) % 5))

/-- Lane (x, y) of a state. -/
def lane (a : List (BitVec 64)) (x y : Nat) : BitVec 64 := a.getD (x % 5 + 5 * (y % 5)) 0

/-- One round. -/
def keccakRound (a : List (BitVec 64)) (rc : BitVec 64) : List (BitVec 64) :=
  let sums := (List.range 5).map fun x => (List.range 5).foldl (fun v y => v ^^^ lane a x y) 0
  let mixed := (List.range 25).map fun i => lane a i (i / 5) ^^^ sums.getD ((i + 4) % 5) 0 ^^^ (sums.getD ((i + 1) % 5) 0).rotateLeft 1
  let moved := (List.range 25).map fun i =>
    let p := (i + 3 * (i / 5)) % 5 + 5 * (i % 5)
    (mixed.getD p 0).rotateLeft (laneTurn p 24 1 1)
  (List.range 25).map fun i =>
    let v := lane moved i (i / 5) ^^^ (lane moved (i + 2) (i / 5) &&& ~~~ lane moved (i + 1) (i / 5))
    if i = 0 then v ^^^ rc else v

/-- The permutation: 24 rounds. -/
def keccakF (a : List (BitVec 64)) : List (BitVec 64) := (roundConsts 24 1).foldl keccakRound a

/-- XOR a block of 136 bytes into a state. -/
def keccakXor (a : List (BitVec 64)) (blk : Bytes) : List (BitVec 64) :=
  (List.range 25).map fun i => if i < 17 then a.getD i 0 ^^^ BitVec.ofNat 64 (fieldAt blk (8 * i) 8) else a.getD i 0

/-- Absorb padded input, block by block. -/
def shakeAbsorb : Nat → List (BitVec 64) → Bytes → List (BitVec 64)
  | 0, a, _ => a
  | fuel + 1, a, bs => shakeAbsorb fuel (keccakF (keccakXor a (bs.take 136))) (bs.drop 136)

/-- The output bytes of a state. -/
def shakeOut (a : List (BitVec 64)) : Bytes := ((a.take 17).map fun x => leBytes 8 x.toNat).flatten

/-- Squeeze n blocks. -/
def shakeSqueeze : Nat → List (BitVec 64) → Bytes
  | 0, _ => []
  | fuel + 1, a => shakeOut a ++ shakeSqueeze fuel (keccakF a)

/-- The padding of SHAKE256. -/
def shakePad (bs : Bytes) : Bytes :=
  let k := 136 - bs.length % 136
  bs ++ (if k = 1 then [0x9F] else 0x1F :: List.replicate (k - 2) 0 ++ [0x80])

/-- The first n bytes of SHAKE256 of a byte string. -/
def shake256 (bs : Bytes) (n : Nat) : Bytes :=
  let p := shakePad bs
  (shakeSqueeze (ceilDiv n 136) (shakeAbsorb (p.length / 136) (List.replicate 25 0) p)).take n

end Sys2Proof.Machine
end

