-- ==== Sys2Proof/Machine/ModelOps.lean ====
section
/-! DEFINITION. Model versions: lookup, reference counts, freeing (R219, R221). -/

namespace Sys2Proof.Machine

/-- A model. -/
def modelAt (s : State) (h : Nat) : Option Model := tabFind s.models.models h

/-- A model of a tenant that has not been unloaded. -/
def liveModel (s : State) (t h : Nat) : Option Model :=
  match modelAt s h with
  | some m => if m.tenant = t ∧ m.ended = false then some m else none
  | none => none

/-- Change a model. -/
def modModel (s : State) (h : Nat) (f : Model → Model) : State :=
  { s with models := { s.models with models := tabUpd s.models.models h f } }

/-- A live version. -/
def verAt (s : State) (q : Nat × Nat) : Option ModelVer := (modelAt s q.1).bind fun m => tabFind m.vers q.2

/-- Change a live version. -/
def modVer (s : State) (q : Nat × Nat) (f : ModelVer → ModelVer) : State :=
  modModel s q.1 fun m => { m with vers := tabUpd m.vers q.2 f }

/-- Change what the sequencer keeps of a version. -/
def modSv (s : State) (q : Nat × Nat) (f : VerServe → VerServe) : State := modVer s q fun v => { v with sv := f v.sv }

/-! ### Serving descriptor (Table 10.1) -/

/-- A field of the serving descriptor. -/
def svN (v : ModelVer) (off n : Nat) : Nat := fieldAt (v.serv.getD []) off n
def svRole (v : ModelVer) : Nat := svN v 4 1
def svKvtiles (v : ModelVer) : Nat := svN v 10 2
def svMaxctx (v : ModelVer) : Nat := svN v 12 4
def svOutdim (v : ModelVer) : Nat := svN v 16 4
def svPftokens (v : ModelVer) : Nat := svN v 28 4
def svPfchunk (v : ModelVer) : Nat := svN v 32 4
def svDcbatch (v : ModelVer) : Nat := svN v 36 2
def svSeqmax (v : ModelVer) : Nat := svN v 38 2
def svKvblocks (v : ModelVer) : Nat := svN v 44 4

/-- Address of a workspace page. -/
def wsVa (v : ModelVer) (page : Nat) : Nat := (v.wspage + page) * 65536

/-- Sequences bound to a version (R219, R241). -/
def seqBinds (x : Seq) (q : Nat × Nat) : Bool :=
  decide (x.gen0 = q ∨ x.drafter = some q ∨ x.encoder = some q ∨ x.rerank = some q)

/-- Reference count of a version: current, sequences, commands (R219). -/
def verRefs (s : State) (q : Nat × Nat) : Nat :=
  (match modelAt s q.1 with
   | some m => bit01 (decide (m.cur = q.2) && !m.ended)
   | none => 0)
  + (s.serving.seqs.filter fun x => seqBinds x.2 q).length
  + (s.models.binds.filter fun b => decide (b.2 = q)).length

/-- Unmap a page even while it migrates. -/
def forceUnmap (s : State) (t p : Nat) : State :=
  let s1 := match migOf s t p with
    | some m => dropMig (freeDst s m) t p
    | none => s
  unmapPage s1 t p

/-- Remove a peer window with its pages. -/
def dropWindow (s : State) (t w : Nat) : State :=
  match tabFind (ctxAt s t).wins w with
  | none => s
  | some pw =>
    let ps := mappedIn s t (rangeOf (pw.lpage * 65536) pw.npages)
    let s1 := dropTlbs (ps.foldl (fun st p => unmapPage st t p) s) t ps
    updCtx s1 t fun c => { c with wins := tabDel c.wins w }

/-- End a job as JOB.ABORT with FINISH does, for no command (R221). -/
def finishJob (s : State) (j : Nat) : State :=
  settleEnding (modJob s j fun x => { x with ending := some (x.ending.getD 0) }) j

/-- A version's lines leave the gazetteer caches (R282). -/
def dropGaz (s : State) (p : GazLine → Bool) : State :=
  { s with serving := { s.serving with gaz := s.serving.gaz.map fun e => (e.1, e.2.filter fun l => !p l) } }

/-- What freeing a version does (R221, R282). -/
def freeVer (s0 : State) (q : Nat × Nat) : State :=
  let s := dropGaz s0 fun l => decide ((l.handle, l.ver) = q)
  match modelAt s q.1, verAt s q with
  | some m, some v =>
    let t := m.tenant
    let s1 := modModel s q.1 fun x => { x with vers := tabDel x.vers q.2, endedVers := x.endedVers.filter (· ≠ q.2) }
    let s2 := v.jobs.foldl finishJob s1
    let s3 := v.wins.foldl (fun st w => dropWindow st t w) s2
    let s4 := v.pins.foldl (fun st p => modLeaf st t p fun l => { l with pin := false }) s3
    let ws := mappedIn s4 t (rangeOf (v.wspage * 65536) v.wspages)
    let s5 := dropTlbs (ws.foldl (fun st p => forceUnmap st t p) s4) t ws
    let img := mappedIn s5 t (rangeOf v.imgva v.pages)
    dropTlbs (img.foldl (fun st p => modLeaf st t p fun l => { l with pr := true, pw := true, px := false, e := false }) s5) t img
  | _, _ => s

/-- May a version be freed: no reference, and not held by RETAIN (R219, R221)? -/
def verFree (s : State) (h : Nat) (m : Model) (n : Nat) (v : ModelVer) : Bool :=
  decide (verRefs s (h, n) = 0) && (!(v.retain || v.fresh) || m.ended || m.endedVers.contains n)

/-- Free every version of a model that may be; a model without versions is gone. -/
def settleModel (s : State) (h : Nat) : State :=
  match modelAt s h with
  | none => s
  | some m =>
    let s1 := (m.vers.filter fun v => verFree s h m v.1 v.2).foldl (fun st v => freeVer st (h, v.1)) s
    match modelAt s1 h with
    | some m1 => if m1.vers = [] ∧ m1.ended then { s1 with models := { s1.models with models := tabDel s1.models.models h } } else s1
    | none => s1

/-- Settle every model. -/
def settleModels (s : State) : State := (s.models.models.map (·.1)).foldl settleModel s

/-- Bind to a version: 0 the current one (R219).  The error is the status. -/
def bindVer (s : State) (t h n : Nat) : Except Nat (Nat × Nat) :=
  match modelAt s h with
  | none => .error stNotFound
  | some m =>
    if m.tenant ≠ t ∨ m.ended then .error stNotFound
    else
      let k := if n = 0 then m.cur else n
      if tabHas m.vers k ∧ !m.endedVers.contains k then .ok (h, k)
      else if k ≤ m.lastVer ∧ k ≠ 0 then .error stStale
      else .error stNotFound

/-- A version has been bound or has become current (R219). -/
def touchVer (s : State) (q : Nat × Nat) : State := modVer s q fun v => { v with fresh := false }

/-- Let a command go of its version. -/
def unbind (s : State) (r : CmdRef) : State :=
  settleModels { s with models := { s.models with binds := s.models.binds.filter fun b => decide (b.1 ≠ r) } }

/-- Is a job-core of a transient job on a core, so that its plots run? -/
def jobRuns (s : State) (j : Nat) : Bool :=
  match jobAt s j with
  | some job => job.jcores.any fun q => decide (q.2.st = .resident)
  | none => false

/-- Transient job of a TABLE command. -/
def tabJob (s : State) (r : CmdRef) : Option Nat := (s.models.tjobs.find? fun q => decide (q.1 = r)).map (·.2)

/-! ### Text units (R276) -/

/-- Sequence a unit works for. -/
def unitSeq : TextUnit → Option Nat
  | .admission i | .tokenise i | .pack i | .token i | .draft i => some i
  | .cmdTok _ | .cmdDetok _ => none

/-- Command a unit works for. -/
def unitCmd : TextUnit → Option CmdRef
  | .cmdTok r | .cmdDetok r => some r
  | _ => none

/-- Units that wait or are at work leave. -/
def cutUnits (p : TextUnit → Bool) (v : Serving) : Serving :=
  { v with units := v.units.filter fun q => !p q.2, engines := v.engines.filter fun e => !p e.2.2 }

/-- A TABLE or TEXT command is over: its transient job ends, and it lets go of its version and of its unit. -/
def forgetCmd (s0 : State) (r : CmdRef) : State :=
  let s := { s0 with serving := cutUnits (fun u => decide (unitCmd u = some r)) s0.serving }
  let s1 := match tabJob s r with
    | some j => finishJob { s with models := { s.models with tjobs := s.models.tjobs.filter fun q => decide (q.1 ≠ r) } } j
    | none => s
  unbind { s1 with models := { s1.models with starts := s1.models.starts.filter fun q => decide (q.1 ≠ r) } } r

/-! ### Accesses of the engines: collectives, sequencer, text, search (R179, R186, R271) -/

/-- How an access of an engine ends. -/
inductive SeqAcc where
  | ok (s : State) (bs : Bytes)
  | wait (s : State)
  | fault (s : State) (kind cause page : Nat)

/-- The tile a peer has read for an engine. -/
def engGot (s : State) (t p : Nat) : Option Bytes := (s.fab.got.find? fun g => decide (g.1 = t ∧ g.2.1 = p)).map (·.2.2)

/-- An engine's access meets a MISS: as for a command (R170, R173, R186). -/
def engMiss (s : State) (t u p : Nat) : PageAcc :=
  match s.fab.failed.find? (fun g => decide (g.1 = t ∧ g.2.1 = p)) with
  | some g => .fault g.2.2.1 g.2.2.2 p
  | none =>
    if s.atlas.migs.any fun m => decide (m.tenant = t ∧ m.page = p) && m.eng then .wait s else
    match missAt (unitWalk s u t p) t p (unitHub u) with
    | .ok s1 => .wait (modAtlas s1 fun a => { a with migs := a.migs.map fun m =>
        if m.tenant = t ∧ m.page = p then { m with eng := true } else m })
    | .error (_, c) => .fault 0x02 c p

/-- Make a page of an engine's access ready: a peer is asked, in a service, for the tile of a window page that is read.  `u` is the unit
that makes the access. -/
def engPageAs (s : State) (svc t u p : Nat) (acc : Acc) : PageAcc :=
  match checkPage s t p acc with
  | .fault k c => .fault k c p
  | .miss => engMiss s t u p
  | .remote w =>
    match s.fab.failed.find? (fun g => decide (g.1 = t ∧ g.2.1 = p)) with
    | some g => .fault g.2.2.1 g.2.2.2 p
    | none =>
      if acc = .write ∨ (engGot s t p).isSome then .ready
      else if s.fab.rem.any fun q => decide (q.2.owner = .eng t p ∧ q.2.kind = 0) then .wait s
      else match tabFind (ctxAt s t).wins w with
        | none => .fault 0x05 0x30 p
        | some pw =>
          let op : RemOp := { kind := 0, module := pw.module, tenant := t, va := (pw.rpage + (p - pw.lpage)) * 65536, len := 65536, owner := .eng t p, service := svc }
          match startRemote s op with
          | none => .wait s
          | some (s1, _) => .wait s1
  | _ =>
    match leafAt s t p with
    | some l => if l.mig then .wait s else .ready
    | none => .ready

def engPage (s : State) (t u p : Nat) (acc : Acc) : PageAcc := engPageAs s 5 t u p acc

/-- Make the pages of an engine's access ready, in order. -/
def engReady (s : State) (t u : Nat) (acc : Acc) : List Nat → PageAcc
  | [] => .ready
  | p :: ps =>
    match engPage s t u p acc with
    | .ready => engReady s t u acc ps
    | o => o

/-- What peers have answered for the pages of an access is used up. -/
def engForget (s : State) (t : Nat) (ps : List Nat) : State :=
  if s.fab.got = [] ∧ s.fab.failed = [] then s else
  { s with fab := { s.fab with
      got := s.fab.got.filter fun g => !(decide (g.1 = t) && ps.contains g.2.1)
      failed := s.fab.failed.filter fun g => !(decide (g.1 = t) && ps.contains g.2.1) } }

/-- Bytes of one page part, of this module or as a peer answered. -/
def engBytes (s : State) (t : Nat) (q : Nat × Nat) : Bytes :=
  match engGot s t (pageOf q.1) with
  | some g => (g.drop (q.1 % 65536)).take q.2
  | none => readMem s t q.1 q.2

/-- Read for an engine of a unit, as a read or a fetch. -/
def engReadAs (s : State) (t u : Nat) (acc : Acc) (va n : Nat) : SeqAcc :=
  if 2 ^ 57 < va + n then .fault s 0x05 0x30 (va / 65536 % 2 ^ 41) else
  match engReady s t u acc (bytePages va n) with
  | .wait s1 => .wait s1
  | .fault k c p => .fault (countQuota (engForget s t [p]) (unitHub u) t k) k c p
  | .ready => .ok (touchPages (engForget (hubRead s t va n) t (bytePages va n)) t u (bytePages va n)) ((pageParts va n).flatMap (engBytes s t))
def engRead (s : State) (t u va n : Nat) : SeqAcc := engReadAs s t u .read va n

/-- Write one page part for an engine: at its hub, or to the peer of its window. -/
def engPut (s : State) (t va : Nat) (bs : Bytes) : State :=
  match winOf s t va with
  | some pw =>
    let rva := (pw.rpage + (pageOf va - pw.lpage)) * 65536 + va % 65536
    (match startRemote s { kind := 1, module := pw.module, tenant := t, va := rva, len := bs.length, data := bs, owner := .eng t (pageOf va) } with
     | none => s
     | some (s1, _) => s1)
  | none => hubWrite s t va bs

/-- Write the parts of a byte string. -/
def engPuts (s : State) (t : Nat) : List (Nat × Nat) → Bytes → State
  | [], _ => s
  | q :: qs, bs => engPuts (engPut s t q.1 (bs.take q.2)) t qs (bs.drop q.2)

/-- Write for an engine: no byte before every page of the range is ready. -/
def engWrite (s : State) (t u va : Nat) (bs : Bytes) : SeqAcc :=
  if 2 ^ 57 < va + bs.length then .fault s 0x05 0x30 (va / 65536 % 2 ^ 41) else
  match engReady s t u .write (bytePages va bs.length) with
  | .wait s1 => .wait s1
  | .fault k c p => .fault (countQuota (engForget s t [p]) (unitHub u) t k) k c p
  | .ready =>
    if !partsRoom s t ((pageParts va bs.length).map (·.1)) then .wait s else
    .ok (touchPages (engPuts s t (pageParts va bs.length) bs) t u (bytePages va bs.length)) bs

/-- Read and write for the sequencer. -/
def seqRead (s : State) (t va n : Nat) : SeqAcc := engRead s t walkHubControl va n
def seqWrite (s : State) (t va : Nat) (bs : Bytes) : SeqAcc := engWrite s t walkHubControl va bs

end Sys2Proof.Machine
end

