-- ==== Sys2Proof/Machine/Text.lean ====
section
/-! DEFINITION. Text: gazetteers, tokenising, templates, constraints, rendering, stop strings (chapter 11), as functions of
byte strings. -/

namespace Sys2Proof.Machine

/-! ### UTF-8 (R283, R298) -/

/-- Bytes of a character that starts with a byte; 0 for a byte that starts none. -/
def utf8Need (b : Nat) : Nat :=
  if b < 0x80 then 1 else if 0xC2 ≤ b ∧ b ≤ 0xDF then 2 else if 0xE0 ≤ b ∧ b ≤ 0xEF then 3
  else if 0xF0 ≤ b ∧ b ≤ 0xF4 then 4 else 0

/-- May byte b be the second byte of a character that starts with a? -/
def utf8Second (a b : Nat) : Bool :=
  if a = 0xE0 then decide (0xA0 ≤ b ∧ b ≤ 0xBF) else if a = 0xED then decide (0x80 ≤ b ∧ b ≤ 0x9F)
  else if a = 0xF0 then decide (0x90 ≤ b ∧ b ≤ 0xBF) else if a = 0xF4 then decide (0x80 ≤ b ∧ b ≤ 0x8F)
  else decide (0x80 ≤ b ∧ b ≤ 0xBF)

/-- Continuation bytes, of at most n, that go on well after the second byte. -/
def utf8Tail : Nat → Bytes → Nat
  | 0, _ => 0
  | _ + 1, [] => 0
  | n + 1, b :: bs => if 0x80 ≤ b.toNat ∧ b.toNat ≤ 0xBF then utf8Tail n bs + 1 else 0

/-- The head of a byte string: bytes of its maximal subpart, and whether that is a whole character. -/
def utf8Head : Bytes → Nat × Bool
  | [] => (0, false)
  | a :: bs =>
    let n := utf8Need a.toNat
    if n = 0 then (1, false) else if n = 1 then (1, true) else
    match bs with
    | [] => (1, false)
    | b :: cs => if utf8Second a.toNat b.toNat then let k := utf8Tail (n - 2) cs + 2; (k, decide (k = n)) else (1, false)

/-- Could more bytes make the whole string one character? -/
def utf8Open (bs : Bytes) : Bool :=
  let h := utf8Head bs
  match bs with
  | [] => false
  | a :: _ => decide (h.1 = bs.length) && !h.2 && decide (bs.length < utf8Need a.toNat)

/-- Code point of a whole character. -/
def utf8Cp : Bytes → Nat
  | [a] => a.toNat
  | [a, b] => a.toNat % 32 * 64 + b.toNat % 64
  | [a, b, c] => a.toNat % 16 * 4096 + b.toNat % 64 * 64 + c.toNat % 64
  | [a, b, c, d] => a.toNat % 8 * 262144 + b.toNat % 64 * 4096 + c.toNat % 64 * 64 + d.toNat % 64
  | _ => 0

/-- Character classes (Table 11.5). -/
inductive CClass where
  | letter | mark | digit | space | newline | other | invalid
  deriving DecidableEq, Repr

/-- Class of a code point; from 0x80 up by its Unicode category (log 16). -/
def clsOf (cp : Nat) : CClass :=
  if cp = 0x0A ∨ cp = 0x0D ∨ cp = 0x85 ∨ cp = 0x2028 ∨ cp = 0x2029 then .newline
  else if cp = 0x20 ∨ cp = 0x09 ∨ cp = 0x0B ∨ cp = 0x0C then .space
  else if 0x30 ≤ cp ∧ cp ≤ 0x39 then .digit
  else if (0x41 ≤ cp ∧ cp ≤ 0x5A) ∨ (0x61 ≤ cp ∧ cp ≤ 0x7A) then .letter
  else if cp < 0x80 then .other
  else match Config.uniClass cp with
    | 0 => .letter | 1 => .mark | 2 => .digit | 3 => .space | _ => .other

/-- A character: its bytes, code point and class. -/
structure Chr where
  bytes : Bytes
  cp : Nat
  cls : CClass
  deriving DecidableEq, Repr

/-- Characters of a byte string: each byte of an ill-formed subpart is one of class INVALID. -/
def charsOf : Nat → Bytes → List Chr
  | 0, _ => []
  | _ + 1, [] => []
  | n + 1, b :: bs =>
    let h := utf8Head (b :: bs)
    let c := (b :: bs).take h.1
    let rest := charsOf n ((b :: bs).drop h.1)
    if h.2 then ⟨c, utf8Cp c, clsOf (utf8Cp c)⟩ :: rest
    else c.map (fun x => ⟨[x], x.toNat, .invalid⟩) ++ rest

/-- Is a byte string valid UTF-8? -/
def utf8Valid (bs : Bytes) : Bool := (charsOf bs.length bs).all fun c => c.cls ≠ .invalid

/-! ### The gazetteer (R278 to R281): functions of the TEXT section's bytes -/

def gzDigmax (g : Bytes) : Nat := fieldAt g 6 1
def gzLeadsp (g : Bytes) : Bool := flg g 7 0
def gzNtok (g : Bytes) : Nat := fieldAt g 8 4
def gzNmerge (g : Bytes) : Nat := fieldAt g 12 4
def gzByte0 (g : Bytes) : Nat := fieldAt g 16 4
def gzBos (g : Bytes) : Nat := fieldAt g 20 4
def gzEos (g : Bytes) : Nat := fieldAt g 24 4
def gzNspec (g : Bytes) : Nat := fieldAt g 28 2
def gzNtpl (g : Bytes) : Nat := fieldAt g 30 2
def gzId (g : Bytes) : Nat := fieldAt g 32 8
def gzEntoff (g : Bytes) : Nat := fieldAt g 40 4
def gzStroff (g : Bytes) : Nat := fieldAt g 44 4
def gzStrlen (g : Bytes) : Nat := fieldAt g 48 4
def gzMrgoff (g : Bytes) : Nat := fieldAt g 52 4
def gzSpecoff (g : Bytes) : Nat := fieldAt g 56 4
def gzTploff (g : Bytes) : Nat := fieldAt g 60 4

/-- Token entry of an ID. -/
def gzEnt (g : Bytes) (id : Nat) : Bytes := (g.drop (gzEntoff g + 8 * id)).take 8

/-- String of a token. -/
def gzStr (g : Bytes) (id : Nat) : Bytes := (g.drop (gzStroff g + fieldAt (gzEnt g id) 0 4)).take (fieldAt (gzEnt g id) 4 1)
def gzSpecial (g : Bytes) (id : Nat) : Bool := flg (gzEnt g id) 5 0
def gzByteTok (g : Bytes) (id : Nat) : Bool := flg (gzEnt g id) 5 1

/-- Special token IDs. -/
def gzSpecs (g : Bytes) : List Nat := (List.range (gzNspec g)).map fun i => fieldAt g (gzSpecoff g + 4 * i) 4

/-- Merge i: left, right, rank, result. -/
def gzMerge (g : Bytes) (i : Nat) : Nat × Nat × Nat × Nat :=
  let o := gzMrgoff g + 16 * i
  (fieldAt g o 4, fieldAt g (o + 4) 4, fieldAt g (o + 8) 4, fieldAt g (o + 12) 4)

/-- The merges. -/
def gzMerges (g : Bytes) : List (Nat × Nat × Nat × Nat) := (List.range (gzNmerge g)).map (gzMerge g)

/-- Words of template i of the TEXT section. -/
def gzTpl (g : Bytes) (i : Nat) : List Nat :=
  let o := gzTploff g + 8 * i
  (List.range (fieldAt g (o + 4) 4)).map fun k => fieldAt g (fieldAt g o 4 + 4 * k) 4

/-- Do two gazetteers differ (R281)? -/
def gzDiffer (a b : Bytes) : Bool := decide (gzId a ≠ gzId b ∨ gzNtok a ≠ gzNtok b)

/-! ### Templates (R287, R288) -/

def twQuery : Nat := 0xFF000001
def twEach : Nat := 0xFF000002
def twPassage : Nat := 0xFF000003
def twRank : Nat := 0xFF000004
def twEnd : Nat := 0xFF000005

/-- Split at the first occurrence of a word. -/
def splitAt (w : Nat) : List Nat → List Nat × Option (List Nat)
  | [] => ([], none)
  | x :: xs => if x = w then ([], some xs) else let r := splitAt w xs; (x :: r.1, r.2)

/-- A template's words: before EACH, the passage block, after END_EACH; whether there is a block. -/
def tplParts (ws : List Nat) : List Nat × List Nat × List Nat × Bool :=
  let a := splitAt twEach ws
  match a.2 with
  | none => (a.1, [], [], false)
  | some r => let b := splitAt twEnd r; (a.1, b.1, b.2.getD [], true)

/-- Is a template well formed for NTOK tokens? -/
def tplOk (ntok : Nat) (ws : List Nat) : Bool :=
  let a := splitAt twEach ws
  let plain (x : Nat) : Bool := decide (x < ntok ∨ x = twQuery)
  decide (1 ≤ ws.length ∧ ws.length ≤ 4096) && a.1.all plain &&
  match a.2 with
  | none => true
  | some r =>
    let b := splitAt twEnd r
    b.1.all (fun x => plain x || decide (x = twPassage ∨ x = twRank)) &&
    match b.2 with
    | none => false
    | some z => z.all plain

/-- The checks that MODEL.LOAD makes of a gazetteer (R281). -/
def gzGood (g : Bytes) (len : Nat) : Bool :=
  let n := gzNtok g
  let inside (o k : Nat) : Bool := decide (o + k ≤ len)
  let ids := List.range n
  let ms := gzMerges g
  let specs := gzSpecs g
  decide (256 ≤ len) && decide (fieldAt g 0 4 = 0x545A4147) && decide (fieldAt g 4 2 = 1) && decide (fld g 7 7 1 = 0) && zeroBytes g 64 255
    && decide (256 ≤ n ∧ n ≤ 1048576 ∧ gzNmerge g ≤ n ∧ gzNspec g ≤ 1024 ∧ gzNtpl g ≤ 256 ∧ gzByte0 g + 256 ≤ n)
    && decide (gzEos g < n) && decide (gzBos g < n ∨ gzBos g = 0xFFFFFFFF)
    && inside (gzEntoff g) (8 * n) && inside (gzStroff g) (gzStrlen g) && inside (gzMrgoff g) (16 * gzNmerge g)
    && inside (gzSpecoff g) (4 * gzNspec g) && inside (gzTploff g) (8 * gzNtpl g)
    && ids.all (fun i =>
      let e := gzEnt g i
      let byte := decide (gzByte0 g ≤ i ∧ i < gzByte0 g + 256)
      decide (1 ≤ fieldAt e 4 1 ∧ fieldAt e 0 4 + fieldAt e 4 1 ≤ gzStrlen g) && decide (fld e 5 7 2 = 0 ∧ fieldAt e 6 2 = 0)
        && (gzByteTok g i == byte) && (!byte || decide (gzStr g i = [BitVec.ofNat 8 (i - gzByte0 g)]))
        && (gzSpecial g i == specs.contains i))
    && specs.all (fun i => decide (i < n)) && decide ((specs.map (gzStr g)).Nodup) && decide specs.Nodup
    && (ms.zip (ms.drop 1)).all (fun q => decide (q.1.1 < q.2.1 ∨ (q.1.1 = q.2.1 ∧ q.1.2.1 < q.2.2.1)))
    && ms.all (fun m => decide (m.2.2.1 < gzNmerge g ∧ m.1 < n ∧ m.2.1 < n ∧ m.2.2.2 < n)
      && decide (gzStr g m.2.2.2 = gzStr g m.1 ++ gzStr g m.2.1)
      && !gzSpecial g m.1 && !gzSpecial g m.2.1 && !gzSpecial g m.2.2.2)
    && decide ((ms.map fun m => m.2.2.1).Nodup)
    && (List.range (gzNtpl g)).all (fun i =>
      let o := gzTploff g + 8 * i
      decide (fieldAt g o 4 % 4 = 0) && inside (fieldAt g o 4) (4 * fieldAt g (o + 4) 4) && tplOk n (gzTpl g i))

/-! ### Tokenising (R283 to R286) -/

/-- End of a piece whose first character that is no space stands first: the piece and the rest. -/
def pieceBody (dm : Nat) (cs : List Chr) : List Chr × List Chr :=
  let run (p : CClass → Bool) : List Chr × List Chr := cs.span fun c => p c.cls
  match cs with
  | [] => ([], [])
  | c :: _ =>
    match c.cls with
    | .letter => run fun k => decide (k = .letter ∨ k = .mark)
    | .mark => run fun k => decide (k = .letter ∨ k = .mark)
    | .other => run fun k => decide (k = .other ∨ k = .mark)
    | .newline => run fun k => decide (k = .newline)
    | _ =>
      let r := run fun k => decide (k = .digit)
      if dm ≠ 0 ∧ dm < r.1.length then (cs.take dm, cs.drop dm) else r

/-- Pieces of a span without special matches (R285). -/
def pieces (dm : Nat) (lead : Bool) : Nat → List Chr → List (List Chr)
  | 0, _ => []
  | _ + 1, [] => []
  | n + 1, c :: cs =>
    if c.cls = .invalid then [c] :: pieces dm lead n cs
    else if c.cls = .space then
      let r := (c :: cs).span fun x => decide (x.cls = .space)
      match r.2 with
      | [] => [r.1]
      | d :: _ =>
        if lead ∧ (r.1.getLast?.map (·.cp)) = some 0x20 ∧ d.cls ≠ .newline ∧ d.cls ≠ .invalid then
          let b := pieceBody dm r.2
          let tail := (r.1.drop (r.1.length - 1) ++ b.1) :: pieces dm lead n b.2
          if 1 < r.1.length then r.1.dropLast :: tail else tail
        else r.1 :: pieces dm lead n r.2
    else
      let b := pieceBody dm (c :: cs)
      b.1 :: pieces dm lead n b.2

/-- The longest start of a list of characters that is at most 1,024 bytes. -/
def cutHead : Nat → List Chr → List Chr × List Chr
  | _, [] => ([], [])
  | room, c :: cs => if c.bytes.length ≤ room then let r := cutHead (room - c.bytes.length) cs; (c :: r.1, r.2) else ([], c :: cs)

/-- A piece longer than 1,024 bytes is cut at character boundaries. -/
def cutPiece : Nat → List Chr → List (List Chr)
  | 0, _ => []
  | _ + 1, [] => []
  | n + 1, c :: cs => let r := cutHead 1024 (c :: cs); r.1 :: cutPiece n r.2

/-- Rank and result of a pair. -/
def pairRank (ms : List (Nat × Nat × Nat × Nat)) (a b : Nat) : Option (Nat × Nat) :=
  (ms.find? fun m => decide (m.1 = a ∧ m.2.1 = b)).map fun m => m.2.2

/-- The leftmost pair of the lowest rank: position, rank, result. -/
def bestPair (ms : List (Nat × Nat × Nat × Nat)) : List Nat → Nat → Option (Nat × Nat × Nat)
  | a :: b :: r, i =>
    match pairRank ms a b, bestPair ms (b :: r) (i + 1) with
    | some q, some w => if w.2.1 < q.1 then some w else some (i, q)
    | some q, none => some (i, q)
    | none, w => w
  | _, _ => none

/-- Merge a piece (R286). -/
def mergeAll (ms : List (Nat × Nat × Nat × Nat)) : Nat → List Nat → List Nat
  | 0, xs => xs
  | n + 1, xs =>
    match bestPair ms xs 0 with
    | none => xs
    | some (i, _, r) => mergeAll ms n (xs.take i ++ r :: xs.drop (i + 2))

/-- Tokens of a piece. -/
def pieceTokens (g : Bytes) (p : List Chr) : List Nat :=
  let bs := (p.flatMap (·.bytes)).map fun b => gzByte0 g + b.toNat
  if p.any fun c => decide (c.cls = .invalid) then bs else mergeAll (gzMerges g) bs.length bs

/-- Tokens of text without special matches. -/
def plainTokens (g bs : Bytes) : List Nat :=
  ((pieces (gzDigmax g) (gzLeadsp g) (bs.length + 1) (charsOf bs.length bs)).flatMap fun p => cutPiece (p.length + 1) p).flatMap (pieceTokens g)

/-- The longest special token whose string starts a byte string. -/
def specAt (g bs : Bytes) : Option Nat :=
  ((gzSpecs g).filter fun i => (gzStr g i).isPrefixOf bs).foldl (fun b i =>
    match b with
    | none => some i
    | some j => if (gzStr g j).length < (gzStr g i).length then some i else some j) none

/-- Tokens of text in which special strings are matched, leftmost, the longest at one start. -/
def specialTokens (g : Bytes) : Nat → Bytes → Bytes → List Nat
  | 0, acc, bs => plainTokens g (acc ++ bs)
  | _ + 1, acc, [] => plainTokens g acc
  | n + 1, acc, b :: bs =>
    match specAt g (b :: bs) with
    | some i => plainTokens g acc ++ i :: specialTokens g n [] ((b :: bs).drop (gzStr g i).length)
    | none => specialTokens g n (acc ++ [b]) bs

/-- Tokens of an input (R283), the BOS token apart. -/
def tokens (g : Bytes) (special : Bool) (bs : Bytes) : List Nat :=
  if special then specialTokens g bs.length [] bs else plainTokens g bs

/-- The BOS token where ADDBOS asks for it and there is one. -/
def bosOf (g : Bytes) (addbos : Bool) : List Nat := if addbos && gzBos g != 0xFFFFFFFF then [gzBos g] else []

/-! ### Packing (R289) -/

/-- ASCII decimal digits of a number. -/
def decimal : Nat → Nat → Bytes
  | 0, _ => []
  | n + 1, v => (if v < 10 then [] else decimal n (v / 10)) ++ [BitVec.ofNat 8 (0x30 + v % 10)]

/-- Words with QUERY, PASSAGE and RANK replaced. -/
def fillWords (g : Bytes) (query passage : List Nat) (rank : Nat) (ws : List Nat) : List Nat :=
  ws.flatMap fun w =>
    if w = twQuery then query else if w = twPassage then passage else if w = twRank then plainTokens g (decimal 8 rank) else [w]

/-- Passage blocks while the prompt, `used` tokens of it elsewhere, stays within `lim`. -/
def packLoop (g : Bytes) (query block : List Nat) (lim : Nat) : List (List Nat) → Nat → Nat → List Nat × Nat
  | [], n, _ => ([], n)
  | p :: ps, n, used =>
    let b := fillWords g query p (n + 1) block
    if used + b.length ≤ lim then
      let r := packLoop g query block lim ps (n + 1) (used + b.length)
      (b ++ r.1, r.2)
    else ([], n)

/-- The prompt and NPASS; none when it exceeds `lim` tokens without any passage. -/
def packPrompt (g : Bytes) (addbos : Bool) (ws query : List Nat) (passages : List (List Nat)) (lim : Nat) : Option (List Nat × Nat) :=
  let t := tplParts ws
  let head := bosOf g addbos ++ fillWords g query [] 0 t.1
  let tail := fillWords g query [] 0 t.2.2.1
  if lim < head.length + tail.length then none else
  let r := if t.2.2.2 then packLoop g query t.2.1 lim passages 0 (head.length + tail.length) else ([], 0)
  some (head ++ r.1 ++ tail, r.2)

/-! ### The text control block (R290, Table 11.8) -/

/-- The block that TCVA 0 selects. -/
def tcbDefault : Bytes :=
  leBytes 2 1 ++ leBytes 1 1 ++ leBytes 1 0 ++ leBytes 2 0 ++ leBytes 2 512 ++ leBytes 4 0x3F800000 ++ leBytes 4 0x3F800000
    ++ leBytes 8 0 ++ List.replicate 16 0xFF ++ List.replicate 88 0

def tcAddbos (t : Bytes) : Bool := flg t 2 0
def tcSpecial (t : Bytes) : Bool := flg t 2 1
def tcShow (t : Bytes) : Bool := flg t 2 2
def tcNeos (t : Bytes) : Nat := fieldAt t 3 1
def tcNstop (t : Bytes) : Nat := fieldAt t 4 2
def tcTopk (t : Bytes) : Nat := fieldAt t 6 2
def tcTemp (t : Bytes) : Nat := fieldAt t 8 4
def tcTopp (t : Bytes) : Nat := fieldAt t 12 4
def tcSeed (t : Bytes) : Nat := fieldAt t 16 8
def tcNcon (t : Bytes) : Nat := fieldAt t 40 2
def tcNtpl (t : Bytes) : Nat := fieldAt t 42 2
def tcStopva (t : Bytes) : Nat := fld t 48 56 0
def tcConva (t : Bytes) : Nat := fld t 56 56 0
def tcTplva (t : Bytes) : Nat := fld t 64 56 0
def tcStoplen (t : Bytes) (i : Nat) : Nat := fieldAt t (72 + i) 1

/-- End-of-sequence tokens of a block. -/
def tcEos (g t : Bytes) : List Nat := if tcNeos t = 0 then [gzEos g] else (List.range (tcNeos t)).map fun i => fieldAt t (24 + 4 * i) 4

/-! ### Constraints (R292, R293) -/

/-- Tokens of a constraint entry. -/
def conToks (e : Bytes) : List Nat := (List.range (fieldAt e 1 1)).map fun i => fieldAt e (8 + 4 * i) 4

/-- Is a constraint entry well formed (Table 11.9)? -/
def conOk (ntok : Nat) (e : Bytes) : Bool :=
  let k := fieldAt e 0 1
  let n := fieldAt e 1 1
  (decide (k = 1 ∧ 1 ≤ n ∧ n ≤ 32) || decide (k = 2 ∧ 2 ≤ n ∧ n ≤ 32)) && zeroBytes e 2 7 && (conToks e).all (fun x => decide (x < ntok))
    && zeroBytes e (8 + 4 * n) 135

/-- A constraint set. -/
inductive ConSet where
  | except (banned : List Nat)
  | only (tok : Nat)
  | none
  deriving DecidableEq, Repr

/-- The largest i from n down to 1 for which h ends with the first i tokens. -/
def endMatch (h s : List Nat) : Nat → Option Nat
  | 0 => .none
  | n + 1 => if (s.take (n + 1)).isSuffixOf h then some (n + 1) else endMatch h s n

/-- Insert into a rising list without repeats. -/
def natInsert (x : Nat) : List Nat → List Nat
  | [] => [x]
  | y :: ys => if x = y then y :: ys else if x < y then x :: y :: ys else y :: natInsert x ys

/-- The constraint set after tokens h (R293); a set that bans every ID is NONE (R294). -/
def conSet (ntok : Nat) (es : List Bytes) (h : List Nat) : ConSet :=
  let ban := (es.filter fun e => decide (fieldAt e 0 1 = 1)).filterMap fun e =>
    let s := conToks e
    if s.dropLast.isSuffixOf h then s.getLast? else .none
  let banned := ban.foldr natInsert []
  let req := (es.filter fun e => decide (fieldAt e 0 1 = 2)).filterMap fun e =>
    let s := conToks e
    (endMatch h s (s.length - 1)).bind fun i => s[i]?
  match req with
  | [] => if ntok ≤ banned.length then .none else .except banned
  | t :: ts => if ts.all (fun x => decide (x = t)) && !banned.contains t then .only t else .none

/-- Is a token in a set? -/
def inSet (ntok : Nat) (c : ConSet) (t : Nat) : Bool :=
  match c with
  | .except b => decide (t < ntok) && !b.contains t
  | .only x => decide (t = x)
  | .none => false

/-! ### Rendering and stop strings (R298, R299) -/

/-- Bytes of a committed token (R298). -/
def tokenBytes (g t : Bytes) (tok : Nat) : Bytes :=
  if gzNtok g ≤ tok ∨ (tcEos g t).contains tok then [] else if gzSpecial g tok && !tcShow t then [] else gzStr g tok

/-- Characters that leave the UTF-8 assembly, with what stays in it: each maximal ill-formed subpart is U+FFFD. -/
def assemble : Nat → Bytes → List Bytes × Bytes
  | 0, bs => ([], bs)
  | n + 1, bs =>
    if bs = [] ∨ utf8Open bs then ([], bs) else
    let h := utf8Head bs
    let r := assemble n (bs.drop h.1)
    ((if h.2 then bs.take h.1 else [0xEF, 0xBF, 0xBD]) :: r.1, r.2)

/-- The longest stop string that ends at the end of H, the lowest index among equal strings: index and length. -/
def stopEnd (stops : List Bytes) (h : Bytes) : Option (Nat × Nat) :=
  ((enumFrom 0 stops).filter fun q => q.2.isSuffixOf h).foldl (fun b q =>
    match b with
    | some (i, n) => if n < q.2.length then some (q.1, q.2.length) else some (i, n)
    | none => some (q.1, q.2.length)) none

/-- Length of the longest suffix of H that is a proper prefix of a stop string. -/
def holdLen (stops : List Bytes) (h : Bytes) : Nat → Nat
  | 0 => 0
  | n + 1 => if stops.any (fun x => decide (n + 1 < x.length ∧ n + 1 ≤ h.length) && (h.drop (h.length - (n + 1))).isPrefixOf x) then n + 1
             else holdLen stops h n

/-- Feed characters to the stop check: released bytes, held-back text, index of the stop string that ended it. -/
def stopFeed (stops : List Bytes) : List Bytes → Bytes → Bytes × Bytes × Option Nat
  | [], h => ([], h, none)
  | c :: cs, h =>
    let h1 := h ++ c
    match stopEnd stops h1 with
    | some (i, n) => (h1.take (h1.length - n), [], some i)
    | none =>
      let k := holdLen stops h1 64
      let r := stopFeed stops cs (h1.drop (h1.length - k))
      (h1.take (h1.length - k) ++ r.1, r.2)

/-- The control record of a position (Table 11.10). -/
def ctlRecord (seed pos temp topp topk : Nat) (c : ConSet) (listoff : Nat) : Bytes :=
  let m := match c with | .except b => (0, b.length) | .only _ => (1, 1) | .none => (2, 0)
  leBytes 8 seed ++ leBytes 4 pos ++ leBytes 4 temp ++ leBytes 4 topp ++ leBytes 2 topk ++ leBytes 1 m.1 ++ leBytes 1 0
    ++ leBytes 4 m.2 ++ leBytes 4 listoff

/-- The IDs a set lists. -/
def conList : ConSet → List Nat
  | .except b => b
  | .only t => [t]
  | .none => []

end Sys2Proof.Machine
end

