-- ==== Sys2Proof/Machine/SeqEnd.lean ====
section
/-! DEFINITION. Sequences: names, policies, fields of the parameter block, the end record (chapter 10). -/

namespace Sys2Proof.Machine

/-! ### Sequences and policies -/

def seqAt (s : State) (i : Nat) : Option Seq := tabFind s.serving.seqs i
def modServing (s : State) (f : Serving → Serving) : State := { s with serving := f s.serving }

/-- Change a sequence. -/
def modSeq (s : State) (i : Nat) (f : Seq → Seq) : State := modServing s fun v => { v with seqs := tabUpd v.seqs i f }

/-- SEQID of a sequence (R239). -/
def seqIdOf (i : Nat) (x : Seq) : Nat := x.tenant * 2 ^ 26 + x.gen % 4096 * 2 ^ 14 + i

/-- The sequence a SEQID names for a tenant, or the status it is refused with (R239). -/
def namedSeq (s : State) (t id : Nat) : Except Nat (Nat × Seq) :=
  if id / 2 ^ 26 % 64 ≠ t then .error stNoPerm else
  match seqAt s (id % 2 ^ 14) with
  | some x => if seqIdOf (id % 2 ^ 14) x = id ∧ x.stage ≠ .admission then .ok (id % 2 ^ 14, x) else .error stNotFound
  | none => .error stNotFound

/-- A tenant's policy (R268). -/
def polAt (s : State) (t : Nat) : SeqPolicy := tabGet s.serving.pols t {}
def modPol (s : State) (t : Nat) (f : SeqPolicy → SeqPolicy) : State :=
  modServing s fun v => { v with pols := tabPut v.pols t (f (tabGet v.pols t {})) }

/-! ### Fields of the parameter block (Table 10.3) -/

def sqKind (x : Seq) : Nat := fieldAt x.blk 8 1
def sqPrio (x : Seq) : Nat := fld x.blk 9 2 0
def sqNdraft (x : Seq) : Nat := fieldAt x.blk 10 1
def sqNocache (x : Seq) : Bool := flg x.blk 11 0
def sqOutaddr (x : Seq) : Nat := fieldAt x.blk 24 8
def sqOutlog2 (x : Seq) : Nat := fld x.blk 32 4 0
def sqVector (x : Seq) : Nat := fld x.blk 34 10 0
def sqMaxnew (x : Seq) : Nat := fieldAt x.blk 36 4
def sqSalt (x : Seq) : Nat := fieldAt x.blk 40 8
def sqTcva (x : Seq) : Nat := fld x.blk 48 56 0

/-- Seed of a sequence (Table 11.8). -/
def sqSeed (x : Seq) : Nat := if tcSeed x.ts.tcb = 0 then x.submitt else tcSeed x.ts.tcb

/-- Generated tokens of a sequence before some of the last. -/
def genToks (x : Seq) (pending : Nat) : List Nat := (x.toks.take (x.toks.length - pending)).drop (x.plen.getD x.toks.length)

/-- Set a flag of FLAGS (Table 10.7). -/
def setFlag (s : State) (i bit : Nat) : State := modSeq s i fun x => { x with flags := x.flags ||| 2 ^ bit }

/-! ### The end record (R265, Table 10.7) -/

/-- Ticks as µs in a 32-bit field. -/
def usField (n : Nat) : Nat := min 0xFFFFFFFE (n / usTicks)

/-- Bytes 17 to 63 of the stream header at the end (Table 10.7). -/
def endFields (i : Nat) (x : Seq) (mer reason status detail : Nat) : Bytes :=
  let st := if status = stOk ∧ sqKind x = 3 ∧ bitOf x.flags 0 then stShort else status
  let mean := match x.commits with | some (a, b) => if x.after = 0 then 0 else (b - a) / x.after | none => 0
  leBytes 1 reason ++ leBytes 2 st ++ leBytes 2 detail ++ leBytes 2 x.flags ++ leBytes 4 (x.plen.getD 0) ++ leBytes 4 x.ngen
    ++ leBytes 4 x.cached ++ leBytes 4 (match x.ttft with | some d => usField d | none => 0xFFFFFFFF) ++ leBytes 4 (usField x.tbtmax)
    ++ leBytes 4 (usField mean) ++ leBytes 8 mer ++ leBytes 4 (seqIdOf i x) ++ leBytes 4 x.npass

end Sys2Proof.Machine
end

