-- ==== Sys2Proof/Machine/TimeOps.lean ====
section
/-! DEFINITION. The time unit: status, state changes, parents, scheduled actions (chapter 14). -/

namespace Sys2Proof.Machine

/-- STATE code (Table 14.4). -/
def syncCode : SyncState → Nat
  | .free => 0 | .acquiring => 1 | .locked => 2 | .holdover => 3

/-- TIME_BOUND (R351, R352). -/
def boundNow (s : State) : Nat :=
  match s.time.bound with
  | none => 0xFFFFFFFF
  | some b =>
    if s.time.st = .holdover then min 0xFFFFFFFF (b + 200 * (s.clk.ticks - s.time.holdSince) / 4000000000) else min 0xFFFFFFFF b

/-- DATUM_STAT (Table 14.2). -/
def datumStat (s : State) : Nat :=
  s.time.stratum % 32 * 2 ^ 24 + s.time.parent % 64 * 2 ^ 16 + bit01 s.time.ppsloss * 512 + bit01 s.time.slewmax * 256
    + bit01 (decide (8 < boundNow s)) * 16 + syncCode s.time.st

/-- Change the time unit. -/
def modTime (s : State) (f : TimeUnit → TimeUnit) : State := { s with time := f s.time }

/-- Change a port's time record. -/
def modTPort (s : State) (p : Nat) (f : TimePort → TimePort) : State :=
  modTime s fun t => { t with ports := tabPut t.ports p (f (tabGet t.ports p {})) }

/-- A change of STATE, PPSLOSS or SLEWMAX: IRQ_CAUSE.TIME in PF0 and a DATUM record (Tables 15.5, 19.5). -/
def datumNote (before after : State) : State :=
  if before.time.st ≠ after.time.st ∨ (after.time.ppsloss ∧ !before.time.ppsloss) ∨ (after.time.slewmax ∧ !before.time.slewmax) then
    irqSet (postEvent after srcCp 0x0604 3 0xFF (datumStat after) 0 0) 0 irqTime
  else after

/-- HOLDOVER begins (R352): BOUND grows from its last value. -/
def toHoldover (s : State) : State :=
  datumNote s (modTime s fun t => { t with st := .holdover, holdSince := s.clk.ticks, parent := 0x3F, slew := 0, slewCarry := 0 })

/-- Ports that may be a parent: UP, with a stratum that leaves this module at most 30, whose peer does not name this module
(R349). -/
def parentPorts (s : State) : List (Nat × Nat) :=
  (List.range 48).filterMap fun p =>
    let t := tabGet s.time.ports p {}
    if (portAt s p).st = .up ∧ t.stratum ≤ 29 ∧ !t.child then some (t.stratum, p) else none

/-- The lowest stratum, the lowest port on a tie. -/
def bestParent (s : State) : Option (Nat × Nat) :=
  (parentPorts s).foldl (fun b q => match b with
    | none => some q
    | some r => if q.1 < r.1 then some q else some r) none

/-- Does the module take its time from the fabric: SOURCE FABRIC, or BOTH without a live 1PPS (R349)? -/
def fabricTime (s : State) : Bool := decide (s.time.source = 1) || (decide (s.time.source = 2) && s.time.ppsAt.isNone)

/-- A module that has no parent, or has lost it, takes the best port; without one a locked module turns HOLDOVER (R349,
R352). -/
def seekParent (s : State) : State :=
  match bestParent s with
  | some (st, p) =>
    let s1 := modTime s fun t => { t with parent := p, stratum := st + 1, st := if t.st = .free then .acquiring else t.st }
    datumNote s s1
  | none => if s.time.st = .locked then toHoldover s else modTime s fun t => { t with parent := 0x3F }

/-- A port has gone DOWN: its announcements are gone, and a parent is lost (R349, R352). -/
def timePortDown (s : State) (p : Nat) : State :=
  let s1 := modTPort s p fun t => { t with stratum := 31, bound := 0xFFFFFFFF, child := false, delays := [], kept := [], sentAt := none }
  if fabricTime s1 ∧ s1.time.parent = p then seekParent s1 else s1

/-! ### Scheduled actions (R347, R353, R354) -/

/-- Is the module synchronised enough for scheduled times (R347)? -/
def synced (s : State) : Bool := decide (s.time.st = .locked ∨ s.time.st = .holdover)

/-- The least lead of a scheduled time, ticks (R353). -/
def leadTicks : Nat := 400000

/-- The status that refuses a scheduled time, if any (R347, R353). -/
def schedRefuse (s : State) (t : Nat) : Option Nat :=
  if t = 0 then some stLate
  else if !synced s then some stBusy
  else if t < merNow s + leadTicks then some stLate
  else if 256 ≤ s.time.acts.length then some stBusy
  else none

/-- An action becomes pending. -/
def addAct (s : State) (t : Nat) (kind : SchedKind) (cmd : Option CmdRef) : State :=
  let a : SchedAct := { num := s.time.nextAct, t := t, kind := kind, cmd := cmd }
  modTime s fun u => { u with acts := u.acts ++ [a], nextAct := u.nextAct + 1 }

/-- A command's scheduled action: refused at once, or pending (R353). -/
def schedCmd (s : State) (r : CmdRef) (t : Nat) (kind : SchedKind) : State :=
  match schedRefuse s t with
  | some st => complete s r st 0 0
  | none => addAct s t kind (some r)

/-- Is the command's action pending already? -/
def schedWaits (s : State) (r : CmdRef) : Bool := s.time.acts.any fun a => decide (a.cmd = some r)

/-- Is an action of this kind bound to an armed change (R354)? -/
def armedKind (s : State) (p : SchedKind → Bool) : Bool := s.time.acts.any fun a => a.change.isSome && p a.kind

end Sys2Proof.Machine
end

