-- ==== Sys2Proof/Machine/FabOps.lean ====
section
/-! DEFINITION. The router and the link layer: headers, route choice, egress, retry, port failure, notices (chapter 12). -/

namespace Sys2Proof.Machine

/-! ### Graticule (R311) -/

/-- Widths of the module's dimensions. -/
def dimWidths (s : State) : List Nat := s.fab.widths.take s.fab.ndim

/-- Coordinates of a module. -/
def coords : List Nat → Nat → List Nat
  | [], _ => []
  | w :: ws, m => m % 2 ^ w :: coords ws (m / 2 ^ w)

/-- Route entry of a dimension and coordinate. -/
def routeAt (s : State) (d g : Nat) : RouteEnt := tabGet s.fab.routes (d * 131072 + g) {}

/-- Is a port UP? -/
def portUp (s : State) (p : Nat) : Bool := decide (p < 48 ∧ (portAt s p).st = .up)

/-- Ports of a mask. -/
def maskPorts (m : Nat) : List Nat := (List.range 48).filter fun p => bitOf m p

/-- Lane of a service: adaptive, escape (R306). -/
def laneKey (svc : Nat) (esc : Bool) : Nat := svc * 2 + bit01 esc

/-- Credits held for a lane of a port. -/
def credOf (s : State) (p svc : Nat) (esc : Bool) : Nat := tabGet (portAt s p).txCred (laneKey svc esc) 0

/-- Reach byte of a module (R328). -/
def reachOf (s : State) (m : Nat) : Nat := tabGet s.fab.reach m 0xFF

/-- Outcome of a route choice. -/
inductive Route where
  | deliver
  | port (p : Nat) (esc nm : Bool)
  | wait
  | unreachable
  deriving DecidableEq, Repr

/-- Route choice of a HEAD (R313). -/
def routeOf (s : State) (q : RMsg) : Route :=
  let m := q.m
  if m.dst = s.fab.module then .deliver
  else if !bitOf (reachOf s m.dst) m.service then .unreachable
  else
    let o := coords (dimWidths s) s.fab.module
    let g := coords (dimWidths s) m.dst
    let ds := (List.range s.fab.ndim).filter fun d => decide (g.getD d 0 ≠ o.getD d 0)
    match ds with
    | [] => .unreachable
    | e :: _ =>
      let re := routeAt s e (g.getD e 0)
      let cand := (List.range 48).filter fun p =>
        portUp s p && ds.any fun d => bitOf (routeAt s d (g.getD d 0)).minports p
      let best := (cand.filter fun p => decide (0 < credOf s p m.service false)).foldl (fun b p => match b with
        | none => some p
        | some c => if credOf s c m.service false < credOf s p m.service false then some p else some c) (none : Option Nat)
      let nmOk := re.nmv && portUp s re.nmport
      let esc : Option Nat := if portUp s re.escport then some re.escport
        else if re.eav && portUp s re.escalt then some re.escalt else none
      if !re.v then .unreachable else
      match best with
      | some p => .port p false m.nm
      | none =>
        if !m.nm && nmOk && decide (s.fab.nmwait * 4 ≤ s.clk.ticks - q.since) then .port re.nmport false true
        else match esc with
          | some p => if 0 < credOf s p m.service true then .port p true m.nm else .wait
          | none => if cand = [] ∧ !nmOk then .unreachable else .wait

/-- Is an operation a request that is answered (Table 12.4)? -/
def isRequest (op : Nat) : Bool := decide (op = 1 ∨ op = 2 ∨ op = 3)

/-- Is an operation a response? -/
def isResponse (op : Nat) : Bool := decide (0x81 ≤ op ∧ op ≤ 0x8F)

/-- A message reaches the units of this module. -/
def pushInbox (s : State) (q : RMsg) : State := { s with fab := { s.fab with inbox := s.fab.inbox ++ [q] } }

/-- Distance of a number ahead of another, modulo 2^16. -/
def ahead (a b : Nat) : Nat := (a + 65536 - b) % 65536

/-- Early arrivals that have fallen due, in OSEQ order. -/
def releaseEarly : Nat → RxFlow → List RMsg → RxFlow × List RMsg
  | 0, f, acc => (f, acc)
  | fuel + 1, f, acc =>
    match f.early.find? fun q => decide (q.m.oseq = f.next) with
    | none => (f, acc)
    | some q => releaseEarly fuel { f with next := (f.next + 1) % 65536, early := f.early.filter (· ≠ q) } (acc ++ [q])

/-- Early arrivals held by the module (R319). -/
def earlyCount (s : State) : Nat := (s.fab.rxFlows.map fun q => q.2.early.length).sum

/-- Give back receive buffers that a message has held: their credits go with the next trailers (R306); adaptive ones of services 5 and 7
are withheld while the response table is full (R322). -/
def giveBack (s : State) (q : RMsg) (n : Nat) : State :=
  match q.inPort with
  | none => s
  | some p =>
    if q.freed ∨ n = 0 then s else
    let k := laneKey q.m.service q.inEsc
    let s1 := modPort s p fun x => { x with rxBuf := tabPut x.rxBuf k (tabGet x.rxBuf k 0 - n) }
    if !q.inEsc ∧ (q.m.service = 5 ∨ q.m.service = 7) ∧ 65536 ≤ s.fab.kept.length then
      { s1 with fab := { s1.fab with withheld := s1.fab.withheld ++ [(p, q.m.service, n)] } }
    else modPort s1 p fun x => { x with crOut := tabPut x.crOut k (tabGet x.crOut k 0 + n) }

/-- The whole message leaves its buffers. -/
def returnCredits (s : State) (q : RMsg) : State := giveBack s q (nFlits q.m)

/-- An ordered message: delivered in OSEQ order (R319).  An early one moves to the reorder store; one that has been delivered already, or
that finds the store full, is discarded: each leaves its receive buffer. -/
def deliverOrd (s : State) (q : RMsg) : State :=
  let k := q.m.src * 8 + q.m.service
  let f := tabGet s.fab.rxFlows k {}
  let d := ahead q.m.oseq f.next
  let put (st : State) (g : RxFlow) : State := { st with fab := { st.fab with rxFlows := tabPut st.fab.rxFlows k g } }
  let ack (st : State) (n : Nat) : State :=
    sendMsg st { op := 0x84, service := q.m.service, tenant := q.m.tenant, dst := q.m.src, arg := (n + 65535) % 65536 }
  if 32768 ≤ d ∨ f.early.any (fun x => decide (x.m.oseq = q.m.oseq)) then ack (returnCredits s q) f.next
  else if d = 0 then
    let r := releaseEarly f.early.length { f with next := (f.next + 1) % 65536 } []
    let s1 := r.2.foldl pushInbox (pushInbox (put s r.1) q)
    ack s1 r.1.next
  else if 4096 ≤ earlyCount s then countEv (returnCredits s q) (srcLink (q.inPort.getD 0 / 8)) 0x0204 0
  else put (returnCredits s q) { f with early := f.early ++ [{ q with freed := true }] }

/-- Is a delivered message the first of its ordered flow among those that wait here?  One that is not ordered is always. -/
def inTurn (s : State) (q : RMsg) : Bool :=
  !q.m.ord || decide (s.fab.inbox.find? (fun x => x.m.ord && decide (x.m.src = q.m.src ∧ x.m.service = q.m.service)) = some q)

/-- A message is for this module (R317, R319). -/
def toInbox (s : State) (q : RMsg) : State := if q.m.ord then deliverOrd s q else pushInbox s q

/-- Send an ordered message (R319). -/
def sendOrd (s : State) (m : FabMsg) : State :=
  let k := m.dst * 8 + m.service
  let f := tabGet s.fab.txFlows k {}
  let put (st : State) (g : TxFlow) : State := { st with fab := { st.fab with txFlows := tabPut st.fab.txFlows k g } }
  if 64 ≤ f.unacked.length then put s { f with waiting := f.waiting ++ [m] } else
  let m1 := { m with ord := true, oseq := f.next, src := s.fab.module }
  sendMsg (put s { f with
    next := (f.next + 1) % 65536, unacked := f.unacked ++ [m1], deadline := some (f.deadline.getD (s.clk.ticks + s.fab.rto * usTicks)) }) m1

/-- A message that cannot go on: a request is answered with ERESP POISON, CAUSE PEER_LOST (R313, R328). -/
def dropRoute (s0 : State) (q : RMsg) : State :=
  let s := returnCredits s0 q
  if isRequest q.m.op then
    let e := errResp q.m 0x0110 0x04 0x24
    if q.m.src = s.fab.module then toInbox s { m := e }
    else { s with fab := { s.fab with routeq := s.fab.routeq ++ [{ m := { e with src := s.fab.module }, since := s.clk.ticks }] } }
  else s

/-- Key of an egress queue (R332). -/
def queueKey (p svc t : Nat) : Nat := (p * 8 + svc) * 64 + t

/-- Put a message into its egress queue. -/
def joinQueue (s : State) (p : Nat) (q : RMsg) (esc nm : Bool) : State :=
  let k := queueKey p q.m.service q.m.tenant
  let q1 := { q with m := { q.m with esc := esc, nm := nm }, since := s.clk.ticks }
  { s with fab := { s.fab with queues := tabPut s.fab.queues k (tabGet s.fab.queues k [] ++ [q1]) } }

/-- Is a service refused here: the module is fenced and the service is not 0 or 1, or the service itself is fenced (R330)? -/
def svcFenced (s : State) (svc : Nat) : Bool := bitOf s.fab.fencedSvc svc || (s.fab.fenced && decide (2 ≤ svc))

/-- Choose the route of one message. -/
def routeOne (s : State) (q : RMsg) : State :=
  let keep (s : State) : State := { s with fab := { s.fab with routeq := s.fab.routeq ++ [q] } }
  match q.out with
  | some p => if portUp s p then joinQueue s p q false false else s
  | none =>
    if svcFenced s q.m.service ∧ q.m.dst ≠ s.fab.module then dropRoute s q
    else if q.inPort.isSome ∧ 63 ≤ q.m.hops then countEv (returnCredits s q) (srcLink (q.inPort.getD 0 / 8)) 0x0201 q.m.tenant
    else match routeOf s q with
      | .deliver => toInbox s q
      | .port p esc nm => joinQueue s p q esc nm
      | .wait => keep s
      | .unreachable => dropRoute s q

/-- Choose the route of every message that waits for one: this module's own, then those that came. -/
def routeAll (s : State) : State :=
  let own : List RMsg := s.fab.sendq.map fun m => { m := m, since := s.clk.ticks }
  let all := s.fab.routeq ++ own
  all.foldl routeOne { s with fab := { s.fab with routeq := [], sendq := [] } }

/-- Send a LOCALHOP message by a port (R305). -/
def sendLocal (s : State) (p : Nat) (m : FabMsg) : State :=
  routeOne s { m := { m with src := s.fab.module, localhop := true }, since := s.clk.ticks, out := some p }

/-! ### Egress (R304, R306, R308, R334) -/

/-- Flits in a replay buffer. -/
def replayLen (p : Port) : Nat := (p.replay.map fun r => r.n - r.acked).sum

/-- Flits of a lane that may leave now: credits, and room to replay them. -/
def flitRoom (p : Port) (svc : Nat) (esc : Bool) : Nat := min (tabGet p.txCred (laneKey svc esc) 0) (8192 - replayLen p)

/-- Flits leave a port: trailers, SEQ, the replay buffer; `msg` names the message whose HEAD is the first. -/
def putFlits (s : State) (n : Nat) (msg : Option RMsg) (fs : List FlitPart) : State :=
  if fs = [] then s else
  let p := portAt s n
  let r := withTrailers p fs
  let s1 := modPort s n fun _ => { r.1 with replay := p.replay ++ [{ seq := p.txSeq, n := fs.length, msg := msg, flits := r.2 }] }
  r.2.foldl (fun st f => emit st (.flit n (sealFlit f))) s1

/-- CTRL flits that wait leave while they can be replayed. -/
def pumpCtrl (s : State) (n : Nat) : State :=
  let p := portAt s n
  let k := min p.ctrlq.length (8192 - replayLen p)
  if p.st ≠ .up ∨ k = 0 then s else
  putFlits (modPort s n fun x => { x with ctrlq := x.ctrlq.drop k }) n none ((p.ctrlq.take k).map ctrlPart)

/-- Send a CTRL flit. -/
def sendCtrl (s : State) (n : Nat) (args : List Nat) : State := pumpCtrl (modPort s n fun x => { x with ctrlq := x.ctrlq ++ [args] }) n

/-- A port that has nothing to send sends an IDLE flit: the next SEQ, which it does not consume, ACK and credits. -/
def idleFlit (s : State) (n : Nat) : State :=
  let p := portAt s n
  let c := nextCredit p.crOut
  emit (modPort s n fun x => { x with crOut := c.2 }) (.flit n (sealFlit (trailed (0, (ctrlPart [3]).2) p.txSeq p.rxSeq c.1)))

/-- Heads of a port's queues: service, subscriber, message. -/
def portHeads (s : State) (p : Nat) : List (Nat × Nat × RMsg) :=
  s.fab.queues.filterMap fun q =>
    if q.1 / 512 = p then match q.2 with
      | m :: _ => some (q.1 / 64 % 8, q.1 % 64, m)
      | [] => none
    else none

/-- Is a queue head ready (R334)? -/
def headReady (s : State) (n : Nat) (p : Port) (q : Nat × Nat × RMsg) : Bool :=
  let m := q.2.2.m
  decide (0 < flitRoom p m.service m.esc)
    && (m.esc || (shapedOk (grainAt s (srcPort n)) p q.1 q.2.1 && gateFits (merAt s (srcPort n)) p q.1 (nFlits m)))

/-- Has the message that a port was sending left (R304, R334)? -/
def sentAll (s : State) (p : Port) : Bool :=
  match p.sending with
  | none => true
  | some x => decide (x.rest = []) && decide (x.till ≤ s.clk.ticks * 25)

/-- As many flits of the message being sent leave as may: credits, counters, the receive buffers that a transit message leaves. -/
def sendSome (s : State) (n : Nat) (x : Sending) (first : Bool) : State :=
  let p := portAt s n
  let k := min x.rest.length (flitRoom p x.svc x.esc)
  if k = 0 then s else
  let lane := laneKey x.svc x.esc
  let s1 := modPort (putFlits s n (if first then some x.msg else none) (x.rest.take k)) n fun y => { y with
    txCred := tabPut y.txCred lane (tabGet y.txCred lane 0 - k)
    sending := some { x with rest := x.rest.drop k, till := max x.till (s.clk.ticks * 25) + k * 128 }
    tx := y.tx + 256 * k }
  let s2 := countEvs s1 (srcPort n) 0x0301 x.msg.m.tenant k
  match x.msg.inPort with
  | some _ => giveBack (countEvs s2 (srcLink (n / 8)) 0x0202 x.msg.m.tenant k) x.msg k
  | none => if x.msg.m.op = 5 then countEvs s2 (srcLink (n / 8)) 0x0203 x.msg.m.tenant k else s2

/-- A message begins to leave by a port: HOPS, TIME's TX, its buckets; then the flits that may. -/
def sendBy (s : State) (n : Nat) (p : Port) (svc t : Nat) (q : RMsg) : State :=
  let k := nFlits q.m
  let data := if q.m.op = 6 then leBytes 8 (merAt s (srcPort n)) ++ q.m.data.drop 8 else q.m.data
  let m := { q.m with hops := q.m.hops + 1, data := data }
  let ovr := openAt p svc (merAt s (srcPort n)) && !openFor p svc 600 (merAt s (srcPort n)) (k * 128)
  let x : Sending := { svc := svc, esc := q.m.esc, msg := q, rest := msgParts m, till := s.clk.ticks * 25, counted := ovr }
  let p1 := debitPath (grainAt s (srcPort n)) p svc t (256 * k)
  let key := queueKey n svc t
  let s1 := modPort s n fun _ => { p1 with
    sending := some x, maxdly := tabPut p.maxdly (svc * 64 + t) (max (tabGet p.maxdly (svc * 64 + t) 0) (s.clk.ticks - q.since)) }
  let s2 := { s1 with fab := { s1.fab with queues := tabPut s1.fab.queues key ((tabGet s1.fab.queues key []).drop 1) } }
  let s3 := sendSome s2 n x true
  if ovr then countEv s3 (srcPort n) 0x0306 t else s3

/-- One choice at a fabric port: the message being sent goes on; at its end the next one is picked; else an IDLE flit. -/
def fabEgress (s0 : State) (n : Nat) : State :=
  let s := pumpCtrl (settleGate (routeAll s0) n) n
  let p := portAt s n
  let hs := portHeads s n
  let stall (b : Bool) : State := idleFlit (if b then countEv s (srcPort n) 0x0305 0 else s) n
  if p.st ≠ .up then s else
  match (if sentAll s p then none else p.sending) with
  | some x =>
    if x.rest = [] then s
    else if flitRoom p x.svc x.esc = 0 then stall (decide (credOf s n x.svc x.esc = 0))
    else sendSome s n x false
  | none =>
    match pickQueue s p ((hs.filter (headReady s n p)).map fun q => ⟨q.1, q.2.1, 256 * nFlits q.2.2.m⟩) with
    | none => stall (hs.any fun q => decide (credOf s n q.2.2.m.service q.2.2.m.esc = 0))
    | some (svc, t, p1) =>
      match hs.find? fun q => decide (q.1 = svc ∧ q.2.1 = t) with
      | none => s
      | some q => sendBy s n p1 svc t q.2.2

/-! ### Notices (R328) -/

/-- Kinds of the module's own MGMT messages, in ARG (log 22): 1 probe, 2 probe reply, 3 LOST, 4 JOIN; ADDR names a module. -/
def mgmtMsg (kind module : Nat) : FabMsg := { op := 7, service := 0, tenant := 0, addr := module, arg := kind }

/-- Send a notice to every neighbour but the one it came from (R328). -/
def flood (s : State) (kind module : Nat) (skip : Option Nat) : State :=
  (List.range 48).foldl (fun st p =>
    if portUp st p ∧ skip ≠ some p then sendLocal st p { mgmtMsg kind module with dst := (portAt st p).peer } else st) s

/-- Poison every tile lent to a lost peer, and free what it has lent here (R180). -/
def peerLoss (s : State) (m : Nat) : State :=
  let s1 := modAtlas s fun a => { a with lostPeers := if a.lostPeers.contains m then a.lostPeers else a.lostPeers ++ [m] }
  let lent (l : Leaf) : Bool := match l.loc with | .lent x _ => decide (x = m) | _ => false
  let hits := s1.atlas.ctx.flatMap fun c => (c.2.pages.filter fun q => lent q.2 && !q.2.psn).map fun q => (c.1, q.1)
  let s2 := hits.foldl (fun st q =>
    poisonEvent (modLeaf st q.1 q.2 fun l => { l with psn := true, cause := 0x24 }) (srcHub (q.2 % 5)) q.1 q.2 0x24) s1
  modAtlas s2 fun a => { a with lentSlots := a.lentSlots.filter fun x => decide (x.2.module ≠ m) }

/-! ### Messages of the sequencer, and sequences that have moved (R265, R274, R323) -/

/-- A message of the sequencer to the sequencer of a module (R323; layout: log 25). -/
def seqMsg (t svc dst : Nat) (ord : Bool) (body : Bytes) : FabMsg :=
  { op := 4, service := svc, tenant := t, dst := dst, ord := ord, arg := srcSeq + ((body.length + 15) / 16 - 1) % 65536 * 65536, data := body }

/-- Send it. -/
def sendSeq (s : State) (m : FabMsg) : State := routeAll (if m.ord then sendOrd s m else sendMsg s m)

/-- Kinds of the sequencer's messages (log 25). -/
def mkText : Nat := 1
def mkEnd : Nat := 2
def mkMove : Nat := 3
def mkMoved : Nat := 4
def mkCancel : Nat := 5
def mkDispatch : Nat := 6
def mkResult : Nat := 7

/-- The end record is written and VECTOR raised; a forwarded sequence tells its stub. -/
def endRecord (s : State) (i : Nat) (x : Seq) (reason status detail : Nat) : State :=
  match x.stub with
  | some (m, id) =>
    sendSeq s (seqMsg x.tenant 4 m true (leBytes 4 mkEnd ++ leBytes 4 id ++ endFields i x (merNow s) reason status detail))
  | none =>
    let a := sqOutaddr x
    let s1 := hostPutP s (ownSeq i) x.fn x.pasid x.tenant 6 (a + 17) (endFields i x (merNow s) reason status detail)
    let s2 := hostPutP s1 (ownSeq i) x.fn x.pasid x.tenant 6 (a + 16) [1]
    if sqVector x = 0x7FF then s2 else msixEvent s2 x.fn (sqVector x)

/-- A stub whose target is lost ends with reason FAULT; a move that its target has not admitted ends, and the sequence goes
on here (R274). -/
def loseStub (m : Nat) (s : State) (q : Nat × Seq) : State :=
  match q.2.movedTo with
  | none => s
  | some to1 =>
    if to1.1 ≠ m then s
    else if q.2.st = .moved then
      let s1 := endRecord s q.1 q.2 8 stFault 0
      settleModels (modServing { s1 with host := { s1.host with reads := s1.host.reads.filter (· ≠ .stream q.1) } } fun v =>
        { v with seqs := tabDel v.seqs q.1, gens := tabPut v.gens q.1 ((q.2.gen + 1) % 4096) })
    else
      let s1 := modSeq s q.1 fun x => { x with movedTo := none, xport := none }
      match q.2.xport with
      | some r => complete s1 r stPoison 0 0
      | none => s1

/-- Every sequence that has moved, or is moving, to a lost module. -/
def loseStubs (s : State) (m : Nat) : State := s.serving.seqs.foldl (loseStub m) s

/-- A module is lost to some services: its reach byte loses them and the notice spreads (R328).  The record names link die 0 as
its source (DESIGN CHOICE, log 40: R328 and Table 19.5 do not say which link die reports it). -/
def loseModule (s : State) (m services : Nat) (skip : Option Nat) : State :=
  let b := reachOf s m
  let nb := b &&& (0xFF - services % 256)
  if nb = b ∨ m = s.fab.module then s else
  let s1 := postEvent { s with fab := { s.fab with reach := tabPut s.fab.reach m nb } } (srcLink 0) 0x0403 0 0xFF m 0 0
  let s2 := flood s1 (3 + services % 256 * 256) m skip
  routeAll (if nb = 0 then loseStubs (peerLoss s2 m) m else s2)

/-- A module is back (R328): its reach byte is restored and the notice spreads; the record names link die 0 (log 40). -/
def joinModule (s : State) (m : Nat) (skip : Option Nat) : State :=
  if reachOf s m = 0xFF ∨ m = s.fab.module then s else
  let s1 := { s with fab := { s.fab with reach := tabDel s.fab.reach m } }
  let s2 := modAtlas s1 fun a => { a with lostPeers := a.lostPeers.filter (· ≠ m) }
  flood (postEvent s2 (srcLink 0) 0x0404 0 0xFF m 0 0) 4 m skip

/-! ### Ports going up and down (R309, R328) -/

/-- Change a port's STATE. -/
def setPortSt (s : State) (n : Nat) (st : PortState) : State :=
  modPort s n fun p => { p with st := st, changed := merAt s (srcPort n) }

/-- Messages of a port that no flit of has been acknowledged are routed again, with those of its queues; the rest is cut
short and recovered by R322. -/
def reroutePort (s : State) (n : Nat) : State :=
  let p := portAt s n
  let back : List RMsg := ((p.replay.filter fun r => decide (r.acked = 0)).filterMap (·.msg)).map fun q => { q with m := { q.m with esc := false }, inPort := none }
  let s0 := match p.sending with | some x => giveBack s x.msg x.rest.length | none => s
  let qs := (s0.fab.queues.filter fun q => q.1 / 512 = n).flatMap fun q => q.2
  let s1 := modPort s0 n fun x => { x with
    replay := [], sending := none, rx := none, txCred := [], rxBuf := [], crOut := [], ctrlq := [], fecAt := [], gap := false, nakRun := (0, 0) }
  let f (q : RMsg) : RMsg := if q.inPort = some n then { q with freed := true } else q
  routeAll { s1 with fab := { s1.fab with
    queues := (s1.fab.queues.filter fun q => q.1 / 512 ≠ n).map fun q => (q.1, q.2.map f)
    routeq := (s1.fab.routeq ++ (back ++ qs).filter fun q => q.out.isNone).map f
    inbox := s1.fab.inbox.map f
    withheld := s1.fab.withheld.filter fun w => decide (w.1 ≠ n) } }

/-- Send a probe to a peer (R328). -/
def probePeer (s : State) (m : Nat) : State :=
  if s.fab.probes.any fun q => decide (q.1 = m) then s else
  routeAll (sendMsg { s with fab := { s.fab with probes := s.fab.probes ++ [(m, s.clk.ticks + s.fab.probeto * usTicks)] } }
    { mgmtMsg 1 s.fab.module with dst := m })

/-- Mark a unit as fenced (R473). -/
def fenceMark (s : State) (src : Nat) : State :=
  let s1 := { s with units := tabPut s.units src { tabGet s.units src {} with fenced := true } }
  irqAll (postEvent s1 src 0x0201 0 0xFF src 0 0) irqFence

/-- An UP port goes DOWN (R309, R328); after 16 DOWN events within 1 s it is fenced (Table 19.3). -/
def portDown (s : State) (n : Nat) : State :=
  let p := portAt s n
  if p.st ≠ .up then s else
  let at16 := (p.downAt.filter fun t => decide (s.clk.ticks < t + 4000000000)).take 15
  let s1 := modPort (setPortSt s n .down) n fun x =>
    { x with downs := min (2 ^ 32 - 1) (x.downs + 1), downAt := s.clk.ticks :: at16 }
  let s2 := postEvent s1 (srcPort n) 0x0401 0 0xFF n 0 0
  let s3 := probePeer (timePortDown (reroutePort s2 n) n) p.peer
  if 15 ≤ at16.length then
    setPortSt (fenceMark { s3 with enPorts := s3.enPorts &&& ~~~ (BitVec.ofNat 48 (2 ^ n)) } (srcPort n)) n .disabled
  else s3

/-- May a port train (R309, R331)?  Not one whose link die has lost its I/O to EXTEST (R493). -/
def mayTrain (s : State) (n : Nat) : Bool :=
  s.fab.enable && decide (n < 48) && s.enPorts.getLsbD n && !(portAt s n).off && !s.power.extest.contains (1 + n / 8)

end Sys2Proof.Machine
end

