-- ==== Sys2Proof/Machine/EntryRsv.lean ====
section
/-! DEFINITION. The reserved fields and encodings of a submission entry, which are checked when it is fetched (R389, R6, R7). -/

namespace Sys2Proof.Machine

/-- A field whose encodings beyond those listed are reserved. -/
def parCode (e : Bytes) (off hi lo : Nat) (known : List Nat) : Nat × Bool := (16 + off, !known.contains (parFld e off hi lo))

/-- The pairs of side kinds that R407 allows a DMA.COPY. -/
def dcPair (e : Bytes) : Bool :=
  [(0, 2), (1, 2), (2, 0), (2, 1), (3, 2), (2, 3), (2, 2)].contains (par e 0 1, par e 1 1)

/-- Reserved fields and encodings of the DEV group. -/
def rsvDev (e : Bytes) : List (Nat × Bool) :=
  match entryOp e with
  | 0x0101 => [parRsvBytes e 8 47]
  | 0x0102 => [parRsv e 0 7 1, parRsv e 2 7 5, parRsv e 3 7 5, parRsv e 4 15 11, parRsv e 6 7 1, parRsvBytes e 7 7, parRsv e 8 31 20,
    parRsvBytes e 32 47]
  | 0x0103 => [parCode e 0 1 0 [0], parRsv e 0 7 2, parRsvBytes e 1 47]
  | 0x0104 => [parRsv e 0 7 7, parRsvBytes e 1 1, parRsvBytes e 4 47]
  | _ => []

/-- Reserved fields and encodings of the TIME group. -/
def rsvTime (e : Bytes) : List (Nat × Bool) :=
  match entryOp e with
  | 0x0201 => [parCode e 0 1 0 [0, 1, 2], parRsv e 0 7 2, parRsv e 1 7 2, parRsvBytes e 2 3, parRsvBytes e 6 7, parRsvBytes e 24 47]
  | 0x0202 => [parRsvBytes e 17 19, parRsvBytes e 32 47]
  | 0x0203 => [parRsvBytes e 4 47]
  | 0x0204 => [parRsvBytes e 8 47]
  | _ => []

/-- Reserved fields and encodings of the TEN group. -/
def rsvTen (e : Bytes) : List (Nat × Bool) :=
  match entryOp e with
  | 0x0301 => [parRsv e 0 7 6, parRsv e 1 7 1, parRsvBytes e 2 47]
  | 0x0302 => [parRsv e 0 7 6, parRsv e 2 15 13, parRsvBytes e 36 47]
  | 0x0303 => [parRsv e 0 7 6, parRsvBytes e 1 7, parRsvBytes e 16 47]
  | _ => []

/-- Reserved fields and encodings of the ATLAS group. -/
def rsvAtlas (e : Bytes) : List (Nat × Bool) :=
  match entryOp e with
  | 0x0401 => [parRsv e 0 63 57, parRsv e 12 7 5, parRsvBytes e 13 47]
  | 0x0402 => [parRsv e 0 63 57, parRsvBytes e 12 47]
  | 0x0403 => [parRsv e 0 63 57, parRsv e 12 7 4, parRsvBytes e 13 47]
  | 0x0404 => [parRsv e 0 63 57, parRsv e 12 7 1, parRsvBytes e 13 47]
  | 0x0405 => [parRsv e 0 63 57, parCode e 12 1 0 [0, 1, 2], parRsv e 12 7 2, parRsvBytes e 13 47]
  | 0x0406 => [parRsv e 0 63 57, parRsvBytes e 12 47]
  | 0x0407 => [parRsv e 0 63 57, parRsv e 8 63 57, parRsv e 20 31 17, parRsv e 24 15 12, parRsvBytes e 27 47]
  | 0x0408 => [parRsv e 0 31 23, parRsv e 4 7 4, parRsvBytes e 5 7, parRsvBytes e 40 47]
      ++ (List.range 8).map fun i => parRsv e (8 + 4 * i) 31 17
  | 0x0409 => [parRsvBytes e 1 7, parRsv e 16 63 46, parRsvBytes e 24 47]
  | 0x040A => [parRsvBytes e 1 47]
  | 0x040B => [parRsv e 16 7 5, parRsvBytes e 17 17, parRsv e 18 15 11, parRsvBytes e 20 47]
  | 0x040C => [parCode e 6 1 0 [0, 1, 2], parRsv e 6 7 2, parRsvBytes e 7 47]
  | 0x040D => [parRsv e 0 63 57, parRsv e 12 7 1, parRsvBytes e 13 15, parRsvBytes e 24 47]
  | 0x040E => [parRsv e 0 63 57, parRsv e 8 63 57, parRsv e 20 7 2, parRsvBytes e 21 23, parRsv e 24 63 40, parRsv e 32 63 40,
    parRsvBytes e 40 47]
  | _ => []

/-- Reserved fields and encodings of the MODEL group. -/
def rsvModel (e : Bytes) : List (Nat × Bool) :=
  match entryOp e with
  | 0x0501 => [parRsv e 0 63 57, parRsv e 12 7 3, parRsvBytes e 13 15, parRsvBytes e 24 47]
  | 0x0502 => [parRsvBytes e 8 47]
  | 0x0503 => [parRsvBytes e 16 47]
  | _ => []

/-- Reserved fields and encodings of the JOB group. -/
def rsvJob (e : Bytes) : List (Nat × Bool) :=
  match entryOp e with
  | 0x0601 => [parRsv e 0 63 57, parRsvBytes e 8 47]
  | 0x0602 => [parRsvBytes e 7 7, parRsv e 8 63 57, parRsvBytes e 16 47]
  | 0x0603 => [parRsv e 4 7 7, parRsv e 5 7 1, parRsvBytes e 6 47]
  | 0x0604 => [parCode e 4 1 0 [0, 1, 2], parRsv e 4 7 2, parRsvBytes e 5 47]
  | 0x0605 => [parRsv e 0 7 1, parRsv e 1 7 1, parRsv e 2 15 13, parRsvBytes e 12 47]
  | 0x0606 => [parRsv e 4 7 3, parRsvBytes e 5 47]
  | 0x0607 => [parRsvBytes e 4 47]
  | 0x0608 => [parRsvBytes e 4 7, parRsvBytes e 16 47]
  | _ => []

/-- Reserved fields and encodings of the SEQ group. -/
def rsvSeq (e : Bytes) : List (Nat × Bool) :=
  match entryOp e with
  | 0x0701 | 0x0707 => [parRsv e 0 63 57, parRsvBytes e 8 47]
  | 0x0702 => [parRsv e 4 7 1, parRsvBytes e 5 47]
  | 0x0703 => [parRsvBytes e 4 47]
  | 0x0704 => [parRsv e 8 31 17, parRsvBytes e 12 47]
  | 0x0705 => [parRsv e 4 7 1, parRsvBytes e 5 7, parRsv e 8 63 57, parRsvBytes e 20 47]
  | 0x0706 => [parRsvBytes e 4 7, parRsv e 8 63 57, parRsv e 24 7 5, parRsvBytes e 25 25, parRsv e 26 15 11, parRsvBytes e 28 47]
  | 0x0708 => [parRsv e 0 7 6, parRsv e 1 7 1, parRsvBytes e 2 3, parRsv e 12 15 15, parRsvBytes e 14 47]
  | _ => []

/-- Reserved fields and encodings of the TEXT group. -/
def rsvText (e : Bytes) : List (Nat × Bool) :=
  match entryOp e with
  | 0x0801 | 0x0802 => [parRsv e 0 63 57, parRsvBytes e 8 47]
  | _ => []

/-- Reserved fields and encodings of the SEARCH group. -/
def rsvSearch (e : Bytes) : List (Nat × Bool) :=
  match entryOp e with
  | 0x0901 | 0x0902 | 0x0903 | 0x0904 | 0x0905 | 0x0906 => [parRsv e 0 63 57, parRsvBytes e 8 47]
  | _ => []

/-- Reserved fields and encodings of the TABLE group. -/
def rsvTable (e : Bytes) : List (Nat × Bool) :=
  match entryOp e with
  | 0x0A01 | 0x0A02 => [parRsv e 0 63 57, parRsvBytes e 8 47]
  | _ => []

/-- Reserved fields and encodings of the FAB group. -/
def rsvFab (e : Bytes) : List (Nat × Bool) :=
  match entryOp e with
  | 0x0B06 => [parRsv e 0 63 57, parRsvBytes e 8 47]
  | 0x0B01 => [parRsv e 0 31 17, parRsv e 4 7 3, parRsv e 10 7 5, parRsv e 11 7 1, parRsvBytes e 12 15, parRsvBytes e 24 47]
      ++ (List.range 5).map fun d => parRsv e (5 + d) 7 5
  | 0x0B02 => [parRsv e 0 7 3, parRsvBytes e 1 3, parRsv e 24 7 1, parRsvBytes e 25 31, parRsvBytes e 40 47]
  | 0x0B03 => [parCode e 1 1 0 [0, 1, 2], parRsv e 1 7 2, parRsvBytes e 2 3, parRsvBytes e 20 47]
      ++ (if parFld e 1 1 0 = 2 then [] else [parRsvBytes e 4 19])
  | 0x0B04 => [parRsv e 8 7 1, parRsvBytes e 9 47]
  | 0x0B05 => [parRsv e 1 7 1, parRsvBytes e 2 47]
  | 0x0B07 => [parRsv e 0 7 2, parRsv e 1 7 6, parRsv e 2 7 6, parRsv e 3 7 3, parRsv e 4 7 3, parRsvBytes e 6 7, parRsv e 12 31 24,
    parRsvBytes e 24 47]
  | 0x0B08 => [parRsv e 0 7 6, parRsvBytes e 1 1, parRsvBytes e 8 15, parRsvBytes e 24 47]
  | 0x0B09 => [parRsv e 0 7 6, parRsv e 1 7 1, parRsv e 2 15 9, parRsv e 4 15 9, parRsvBytes e 6 7, parRsv e 16 15 9,
    parRsv e 18 15 9, parRsvBytes e 20 23, parRsvBytes e 32 47]
  | 0x0B0A => [parRsv e 16 7 5, parRsvBytes e 17 19, parRsv e 24 55 49, parRsvBytes e 40 47]
  | _ => []

/-- Reserved fields and encodings of the STORE group. -/
def rsvStore (e : Bytes) : List (Nat × Bool) :=
  match entryOp e with
  | 0x0C01 => [parRsvBytes e 8 47]
  | 0x0C02 => [parCode e 0 1 0 [0, 1, 2], parRsv e 0 7 2, parRsv e 1 7 2, parRsv e 2 7 6, parRsvBytes e 3 3, parRsvBytes e 28 31,
    parRsvBytes e 40 47]
  | 0x0C03 => [parRsvBytes e 3 3, parRsvBytes e 8 47]
  | 0x0C04 => [parRsvBytes e 8 47]
  | _ => []

/-- Reserved fields and encodings of the FW group. -/
def rsvFw (e : Bytes) : List (Nat × Bool) :=
  match entryOp e with
  | 0x0D01 => [parRsvBytes e 16 47]
  | 0x0D02 => [parRsv e 0 7 1, parRsvBytes e 1 47]
  | 0x0D03 => [parRsv e 0 7 1, parRsvBytes e 1 3, parRsvBytes e 16 47]
  | 0x0D04 => [parRsv e 0 7 1, parRsv e 1 7 4, parRsvBytes e 2 47]
  | 0x0D05 => [parRsvBytes e 0 47]
  | 0x0D06 => [parRsvBytes e 8 47]
  | _ => []

/-- Reserved fields and encodings of the SEC group. -/
def rsvSec (e : Bytes) : List (Nat × Bool) :=
  match entryOp e with
  | 0x0E01 => [parRsvBytes e 0 47]
  | 0x0E02 => [parRsvBytes e 8 47]
  | 0x0E03 => [parRsvBytes e 12 47]
  | 0x0E04 => [parRsvBytes e 8 15]
  | 0x0E05 => [parRsvBytes e 8 47]
  | _ => []

/-- Reserved fields and encodings of the PWR group. -/
def rsvPwr (e : Bytes) : List (Nat × Bool) :=
  match entryOp e with
  | 0x0F01 => [parRsv e 4 7 1, parRsvBytes e 5 7, parRsvBytes e 16 47]
  | 0x0F02 => [parRsv e 8 7 7, parRsv e 9 7 1, parRsvBytes e 10 47]
  | 0x0F03 => [parRsvBytes e 8 47]
  | 0x0F04 => [parRsv e 0 7 7, parRsv e 1 7 1, parRsvBytes e 2 3, parRsvBytes e 8 47]
  | 0x0F05 => [parRsv e 2 7 2, parRsvBytes e 3 47]
  | 0x0F06 => [parRsv e 2 7 1, parRsv e 3 7 1, parRsvBytes e 6 7, parRsvBytes e 16 47]
  | _ => []

/-- Reserved fields and encodings of the PERF group. -/
def rsvPerf (e : Bytes) : List (Nat × Bool) :=
  match entryOp e with
  | 0x1001 => [parRsv e 2 7 3, parRsvBytes e 3 3, parRsv e 6 7 2, parRsv e 7 7 6, parRsvBytes e 8 47]
  | 0x1002 => [parRsvBytes e 12 47]
  | 0x1003 => [parRsvBytes e 17 19, parRsvBytes e 28 47]
  | _ => []

/-- Reserved fields and encodings of the LOG group. -/
def rsvLog (e : Bytes) : List (Nat × Bool) :=
  match entryOp e with
  | 0x1101 => [parRsv e 8 7 5, parRsv e 9 7 1, parRsvBytes e 10 15, parRsvBytes e 24 47]
  | 0x1102 => [parRsvBytes e 1 47]
  | 0x1103 => [parRsvBytes e 20 47]
  | _ => []

/-- Reserved fields and encodings of the DMA group. -/
def rsvDma (e : Bytes) : List (Nat × Bool) :=
  match entryOp e with
  | 0x1201 => [parCode e 0 7 0 [0, 1, 2, 3], (17, !dcPair e), parRsvBytes e 2 3, parRsvBytes e 36 47]
  | _ => []

/-- The reserved fields and encodings of an entry, by its group: byte offset and whether the field there is at fault. -/
def entryRsv (e : Bytes) : List (Nat × Bool) :=
  match entryOp e / 256 with
  | 1 => rsvDev e
  | 2 => rsvTime e
  | 3 => rsvTen e
  | 4 => rsvAtlas e
  | 5 => rsvModel e
  | 6 => rsvJob e
  | 7 => rsvSeq e
  | 8 => rsvText e
  | 9 => rsvSearch e
  | 10 => rsvTable e
  | 11 => rsvFab e
  | 12 => rsvStore e
  | 13 => rsvFw e
  | 14 => rsvSec e
  | 15 => rsvPwr e
  | 16 => rsvPerf e
  | 17 => rsvLog e
  | 18 => rsvDma e
  | _ => []

end Sys2Proof.Machine
end

