-- ==== Sys2Proof/Machine/MboxCmds.lean ====
section
/-! DEFINITION. Doorbells, fetching, timeouts, the DEV and LOG groups (chapter 16). -/

namespace Sys2Proof.Machine

/-! ### Command codes (Table 16.6 and the tables of the STORE, FW, SEC and PWR groups) -/

/-- Stop classes (R393). -/
inductive StopClass where
  | x | p | u
  deriving DecidableEq, Repr

/-- A command: admin class only, PF0 only, stop class. -/
structure CmdInfo where
  admin : Bool
  pf0 : Bool
  stop : StopClass
  deriving DecidableEq, Repr

/-- The command of an opcode; none for a reserved code. -/
def cmdInfo (op : Nat) : Option CmdInfo :=
  match op with
  | 0x0101 => some ⟨true, false, .x⟩ | 0x0102 => some ⟨true, false, .x⟩ | 0x0103 => some ⟨true, true, .u⟩
  | 0x0104 => some ⟨false, false, .x⟩
  | 0x0201 => some ⟨true, true, .x⟩ | 0x0202 => some ⟨true, true, .u⟩ | 0x0203 => some ⟨true, true, .x⟩
  | 0x0204 => some ⟨true, false, .x⟩
  | 0x0301 => some ⟨true, true, .u⟩ | 0x0302 => some ⟨true, true, .x⟩ | 0x0303 => some ⟨true, false, .x⟩
  | 0x0401 => some ⟨false, false, .x⟩ | 0x0403 => some ⟨false, false, .x⟩ | 0x0404 => some ⟨false, false, .x⟩
  | 0x0407 => some ⟨false, false, .x⟩ | 0x0402 => some ⟨false, false, .p⟩ | 0x0405 => some ⟨false, false, .p⟩
  | 0x0406 => some ⟨false, false, .p⟩ | 0x040D => some ⟨false, false, .p⟩ | 0x040E => some ⟨false, false, .p⟩
  | 0x0408 => some ⟨true, true, .x⟩ | 0x0409 => some ⟨true, true, .x⟩ | 0x040A => some ⟨true, true, .p⟩
  | 0x040B => some ⟨true, false, .x⟩ | 0x040C => some ⟨true, false, .x⟩
  | 0x0501 => some ⟨false, false, .x⟩ | 0x0502 => some ⟨false, false, .u⟩ | 0x0503 => some ⟨false, false, .u⟩
  | 0x0601 => some ⟨false, false, .x⟩ | 0x0603 => some ⟨false, false, .x⟩ | 0x0605 => some ⟨false, false, .x⟩
  | 0x0606 => some ⟨false, false, .x⟩ | 0x0607 => some ⟨false, false, .x⟩ | 0x0602 => some ⟨false, false, .u⟩
  | 0x0604 => some ⟨false, false, .u⟩ | 0x0608 => some ⟨true, true, .x⟩
  | 0x0701 => some ⟨false, false, .x⟩ | 0x0702 => some ⟨false, false, .x⟩ | 0x0703 => some ⟨false, false, .x⟩
  | 0x0706 => some ⟨false, false, .x⟩ | 0x0704 => some ⟨false, false, .u⟩ | 0x0705 => some ⟨false, false, .u⟩
  | 0x0707 => some ⟨false, false, .u⟩ | 0x0708 => some ⟨true, true, .x⟩
  | 0x0801 => some ⟨false, false, .p⟩ | 0x0802 => some ⟨false, false, .p⟩
  | 0x0901 => some ⟨false, false, .x⟩ | 0x0902 => some ⟨false, false, .x⟩ | 0x0903 => some ⟨false, false, .u⟩
  | 0x0904 => some ⟨false, false, .u⟩ | 0x0905 => some ⟨false, false, .u⟩ | 0x0906 => some ⟨false, false, .u⟩
  | 0x0A01 => some ⟨false, false, .p⟩ | 0x0A02 => some ⟨false, false, .p⟩
  | 0x0B01 => some ⟨true, true, .x⟩ | 0x0B02 => some ⟨true, true, .x⟩ | 0x0B03 => some ⟨true, true, .x⟩
  | 0x0B05 => some ⟨true, true, .x⟩ | 0x0B04 => some ⟨true, false, .x⟩ | 0x0B06 => some ⟨false, false, .x⟩
  | 0x0B07 => some ⟨true, true, .x⟩ | 0x0B08 => some ⟨true, true, .x⟩ | 0x0B09 => some ⟨true, true, .x⟩
  | 0x0B0A => some ⟨true, true, .x⟩
  | 0x0C01 => some ⟨true, true, .p⟩ | 0x0C02 => some ⟨true, true, .x⟩ | 0x0C03 => some ⟨true, true, .x⟩
  | 0x0C04 => some ⟨true, true, .x⟩
  | 0x0D01 => some ⟨true, true, .p⟩ | 0x0D02 => some ⟨true, true, .x⟩ | 0x0D03 => some ⟨true, true, .u⟩
  | 0x0D04 => some ⟨true, true, .x⟩ | 0x0D05 => some ⟨true, true, .u⟩ | 0x0D06 => some ⟨true, true, .x⟩
  | 0x0E01 => some ⟨true, false, .x⟩ | 0x0E02 => some ⟨true, true, .x⟩ | 0x0E03 => some ⟨true, false, .x⟩
  | 0x0E04 => some ⟨true, false, .x⟩ | 0x0E05 => some ⟨true, true, .u⟩
  | 0x0F01 => some ⟨true, true, .x⟩ | 0x0F02 => some ⟨true, true, .x⟩ | 0x0F03 => some ⟨true, true, .x⟩
  | 0x0F04 => some ⟨true, true, .x⟩ | 0x0F05 => some ⟨true, true, .u⟩ | 0x0F06 => some ⟨true, true, .x⟩
  | 0x1001 => some ⟨true, true, .x⟩ | 0x1002 => some ⟨true, true, .x⟩ | 0x1003 => some ⟨true, true, .x⟩
  | 0x1101 => some ⟨true, true, .x⟩ | 0x1102 => some ⟨true, true, .x⟩ | 0x1103 => some ⟨true, true, .x⟩
  | 0x1201 => some ⟨false, false, .p⟩
  | _ => none

/-- Command-specific offset of a scheduled time, for commands that can carry one. -/
def schedOff (op : Nat) : Option Nat :=
  match op with
  | 0x0501 => some 16 | 0x0B02 => some 32 | 0x0B07 => some 16 | 0x0F01 => some 8
  | _ => none

/-- Stop class of a command in flight (R393). -/
def stopOf (e : Bytes) : StopClass :=
  let op := entryOp e
  let sched := match schedOff op with
    | some o => decide (par e o 8 ≠ 0)
    | none => false
  if sched || (decide (op = 0x0102) && !parFlg e 0 0) then .u
  else match cmdInfo op with
    | some i => i.stop
    | none => .x

/-- Opcodes accepted in a life-cycle state (Table 18.4): BLANK and RETURN; SCRAP. -/
def lifeOk (life op : Nat) : Bool :=
  match life with
  | 0 => [0x01, 0x11, 0x10, 0x0D, 0x0E].contains (op / 256)
  | 3 => [0x01, 0x11, 0x10, 0x0D, 0x0E].contains (op / 256)
  | 4 => decide (op = 0x0101 ∨ op = 0x0E01)
  | _ => true

/-- Opcodes accepted in ROM recovery mode (R460). -/
def recoveryOk (op : Nat) : Bool :=
  [0x0101, 0x0D01, 0x0D02, 0x0D06, 0x0D03, 0x0E01, 0x0E02, 0x0E04].contains op

/-- The checks at fetch, in R389's order: status and DETAIL of a refusal. -/
def fetchCheck (s : State) (fn m : Nat) (mctp : Bool) (e : Bytes) : Option (Nat × Nat) :=
  let op := entryOp e
  match cmdInfo op with
  | none => some (stBadCmd, 0)
  | some i =>
    if (i.admin && decide (m ≠ 0)) || (mctp && (!i.admin || decide (op = 0x0E05))) then some (stBadCmd, 0)
    else if i.pf0 ∧ fn ≠ 0 then some (stNoPerm, 0)
    else if op ≠ 0x0101 ∧ fn ≠ 0 ∧ !(tenAt s (fnTenant fn)).enabled then some (stNoPerm, 0)
    else if !lifeOk s.ctl.lifecycle op then some (stLifecycle, 0)
    else if s.ctl.recovery ∧ !(recoveryOk op && (decide (op ≠ 0x0D03) || decide (par e 8 8 = 0))) then some (stBadCmd, 0)
    else if fld e 4 7 2 ≠ 0 then some (stBadParam, 4)
    else if fieldAt e 5 3 ≠ 0 then some (stBadParam, 5)
    else if fieldAt e 12 4 ≠ 0 then some (stBadParam, 12)
    else (firstBad (entryRsv e)).map fun o => (stBadParam, o)

/-! ### Doorbells (R380 to R382) -/

def execSqTailWrite (fn mbox value : Nat) (s : State) : Res :=
  if 64 ≤ fn ∨ 64 < mbox ∨ !fnPresent s fn ∨ !(funcAt s fn).ready then .next s else
  .next (barArrive (countEv s (srcFn fn) 0x0802 0) fn (.sq mbox (value % 65536)))
def execCqHeadWrite (fn mbox value : Nat) (s : State) : Res :=
  if 64 ≤ fn ∨ 64 < mbox ∨ !fnPresent s fn ∨ !(funcAt s fn).ready then .next s else
  .next (barArrive (countEv s (srcFn fn) 0x0802 0) fn (.cq mbox (value % 65536)))

/-- Writing EN = 1 to an OFF admin mailbox enables it, or sets CFGERR (R380). -/
def execMboxEnable (fn : Nat) (s : State) : Res :=
  let b := mboxAt s fn 0
  if !(funcAt s fn).ready ∨ !fnPresent s fn ∨ 64 ≤ fn ∨ b.st ≠ .off then .next s
  else if b.sqLog2 < 2 ∨ 16 < b.sqLog2 ∨ b.cqLog2 < 2 ∨ 16 < b.cqLog2 ∨ vecCount fn ≤ b.vector then
    .next (setMbox s fn 0 { b with cfgerr := true })
  else .next (setMbox s fn 0 { b with st := .enabled, sqTail := 0, cqHead := 0, fetchPos := 0, postPos := 0, phase := true, posted := 0 })

/-- Writing EN = 0 turns an admin mailbox in ENABLED or ERROR DRAINING (R380). -/
def execMboxDisable (fn : Nat) (s : State) : Res :=
  let b := mboxAt s fn 0
  if b.st = .enabled ∨ b.st = .error then .next (drainCheck (setMbox s fn 0 { b with st := .draining }) fn 0) else .next s

/-! ### Fetching (R387 to R389) -/

/-- Can the CP fetch an entry of a mailbox (R387)? -/
def canFetchMbox (s : State) (fn m : Nat) : Bool :=
  let b := mboxAt s fn m
  (funcAt s fn).ready && fnPresent s fn && decide (b.st = .enabled) && decide (b.fetchPos ≠ b.sqTail)
    && decide (b.posted + inflOf s fn m < 2 ^ b.cqLog2 - 1) && decide (inflOf s fn m < 1024)
    && decide (s.inflight.length < 16384)

/-- Work mailboxes in ascending order, starting after the one served last. -/
def workOrder (last : Nat) : List Nat := (List.range 64).map fun i => (last + i) % 64 + 1

/-- The mailbox the CP fetches from next in a function's turn: skip those exhausted or served 8 times. -/
def turnPick (s : State) (fn taken : Nat) : List Nat → Option (Nat × Nat × List Nat)
  | [] => none
  | m :: ms => if taken < 8 ∧ canFetchMbox s fn m then some (m, taken, m :: ms) else turnPick s fn 0 ms

/-- A function's fresh turn. -/
def freshTurn (s : State) (fn : Nat) : List Nat := 0 :: workOrder (tabGet s.cp.last fn 64)

/-- The function and mailbox the CP serves next (R388), and its turn. -/
def cpPick (s : State) : Option (Nat × Nat × CpTurn) :=
  match turnPick s s.cp.fn s.cp.taken s.cp.left with
  | some (m, k, l) => some (s.cp.fn, m, { s.cp with left := l, taken := k + 1 })
  | none => (List.range 64).findSome? fun i =>
      let f := (s.cp.fn + 1 + i) % 64
      (turnPick s f 0 (freshTurn s f)).map fun q => (f, q.1, { s.cp with fn := f, left := q.2.2, taken := 1 })

/-- After a fetch the turn passes over mailboxes with nothing to take; with none left it is over. -/
def settleTurn (s : State) : State :=
  match turnPick s s.cp.fn s.cp.taken s.cp.left with
  | some (_, k, l) => { s with cp := { s.cp with left := l, taken := k } }
  | none => { s with cp := { s.cp with left := [], taken := 0 } }

/-- Default timeout of a command in ms, 0 for none (R394). -/
def timeoutMs (b : Mbox) (e : Bytes) : Nat := if fieldAt e 8 4 = 0 then b.defto else fieldAt e 8 4

/-- A command enters the in-flight list and is checked; a refusal completes at once (R389). -/
def enterCmd (s : State) (x : Inflight) (m : Nat) : State :=
  let s1 := countEv { s with inflight := s.inflight ++ [x] } srcCp (if x.mctp then 0x0602 else 0x0601) (if x.mctp then 0 else fnTenant x.ref.fn)
  match fetchCheck s x.ref.fn m x.mctp x.entry with
  | some (st, d) => complete s1 x.ref st 0 d
  | none => s1

/-- The CP fetches the next entry in R388's order; the host's memory holds these bytes in its slot. -/
def execMboxFetch (entry : Bytes) (s : State) : Res :=
  match cpPick s with
  | none => .next s
  | some (fn, m, turn) =>
    let b := mboxAt s fn m
    let e := padTo 64 entry
    let ms := timeoutMs b e
    let last := if m = 0 then turn.last else tabPut turn.last fn m
    let s1 := setMbox { s with cp := { turn with last := last } } fn m { b with fetchPos := (b.fetchPos + 1) % 2 ^ b.sqLog2 }
    let dl := if ms = 0 then none else some (s.clk.ticks + ms * msTicks)
    .next (settleTurn (enterCmd s1 { ref := ⟨fn, m, fieldAt e 2 2⟩, entry := e, deadline := dl, at0 := merNow s } m))

/-- Does MCTP service run: from the loading of the management controller on (R434, R484)? -/
def mctpUp (c : Control) : Bool :=
  match c.start with
  | .up => true
  | .starting _ _ => c.chosen
  | _ => false

/-- A class A command arrives over MCTP; it acts as a PF0 command of tenant 0, one at a time (R412). -/
def execMctpRequest (entry data : Bytes) (s : State) : Res :=
  if !mctpUp s.ctl ∨ s.inflight.any (fun x => x.mctp) then .next s else
  let e := padTo 64 entry
  let ms := fieldAt e 8 4
  let dl := if ms = 0 then none else some (s.clk.ticks + ms * msTicks)
  .next (enterCmd s { ref := ⟨0, 128, fieldAt e 2 2⟩, entry := e, mctp := true, hdata := some (data.take 4096), deadline := dl, at0 := merNow s } 0)

/-! ### DEV commands (R400 to R403) -/

/-- MODULE and MVALID as at BAR0 offset 0x0_000C. -/
def modWord (s : State) : Nat := bit01 s.fab.mvalid * 2 ^ 31 + s.fab.module

/-- Running firmware version. -/
def fwVersion (s : State) : Nat := if s.ctl.running = 0 then s.ctl.slotA.version else s.ctl.slotB.version

/-- IDWORD (Table 15.4). -/
def idWord : Nat := 0x00180200 + (if Config.order48 then 2 else 1)

/-- Usable flash in bytes (Table 0.1). -/
def usableFlash : Nat := if Config.order48 then 48000000000000 else 24000000000000

/-- Status word of a function, BAR0 offset 0x0_0010 (Table 15.4). -/
def statWord (s : State) (fn : Nat) : Nat :=
  let f := funcAt s fn
  f.lastReset * 4096 + s.ctl.lifecycle * 16 + bit01 (tenAt s (fnTenant fn)).enabled * 8 + bit01 s.fab.fenced * 4
    + bit01 s.ctl.recovery * 2 + bit01 f.ready

/-- Identify data (Table 16.7). -/
def identifyData (s : State) (fn : Nat) : Bytes :=
  padTo 4096 (leBytes 4 idWord ++ leBytes 4 (fwVersion s) ++ leBytes 8 Config.serial.toNat ++ leBytes 4 (modWord s)
    ++ leBytes 2 64 ++ leBytes 2 1024 ++ leBytes 4 (nStacks s * 786432 - 524288) ++ leBytes 4 524288
    ++ leBytes 8 usableFlash ++ leBytes 12 s.enCores.toNat ++ leBytes 4 s.enStacks.toNat ++ leBytes 8 s.enChans.toNat
    ++ leBytes 8 s.enPorts.toNat ++ leBytes 1 (statWord s fn) ++ leBytes 1 (fnTenant fn))

/-- What DevIdentify requires of its entry (R385): byte offset and whether the field there is at fault. -/
def chkDevIdentify (_ : CmdRef) (_ : State) (e : Bytes) : List (Nat × Bool) :=
  [(16, decide (par e 0 8 % 4 ≠ 0))]

def execDevIdentify (r : CmdRef) (s : State) : Res :=
  runCmd s r 0x0101 (chkDevIdentify r) fun s1 x e =>
    complete (cmdHostPut s1 x (par e 0 8) (identifyData s1 r.fn)) r stOk 0 0

/-- Checks of DEV.MBOX (Table 16.8). -/
def mboxChecks (e : Bytes) : List (Nat × Bool) :=
  [(17, decide (par e 1 1 = 0 ∨ 64 < par e 1 1)), (32, decide (parFld e 16 11 0 ≠ 0)), (40, decide (parFld e 24 11 0 ≠ 0))]

/-- What DevMboxCreate requires of its entry (R385): byte offset and whether the field there is at fault. -/
def chkDevMboxCreate (r : CmdRef) (s1 : State) (e : Bytes) : List (Nat × Bool) :=
  mboxChecks e ++
    [(18, decide (parFld e 2 4 0 < 2 ∨ 16 < parFld e 2 4 0)), (19, decide (parFld e 3 4 0 < 2 ∨ 16 < parFld e 3 4 0)),
     (20, decide (vecCount r.fn ≤ parFld e 4 10 0)), (22, parFlg e 6 0 && !(funcAt s1 r.fn).pasidEn)]

def execDevMboxCreate (r : CmdRef) (s : State) : Res :=
  runCmdIf s r 0x0102 (fun e => parFlg e 0 0) (chkDevMboxCreate r) fun s1 _ e =>
    let m := par e 1 1
    if (mboxAt s1 r.fn m).st ≠ .off then complete s1 r stBusy 0 0 else
    let b : Mbox := { st := .enabled, sqBase := par e 16 8, cqBase := par e 24 8, vector := parFld e 4 10 0, sqLog2 := parFld e 2 4 0, cqLog2 := parFld e 3 4 0, defto := par e 12 4, pv := parFlg e 6 0, pasid := parFld e 8 19 0 }
    complete (setMbox s1 r.fn m b) r stOk 0 0

/-- What DevMboxRemove requires of its entry (R385): byte offset and whether the field there is at fault. -/
def chkDevMboxRemove (_ : CmdRef) (_ : State) (e : Bytes) : List (Nat × Bool) :=
  mboxChecks e ++
    [(18, decide (parFld e 2 4 0 ≠ 0)), (19, decide (parFld e 3 4 0 ≠ 0))]

/-- Removal drains the mailbox; the command completes when it is OFF (R397, R401). -/
def execDevMboxRemove (r : CmdRef) (s : State) : Res :=
  runCmdIf s r 0x0102 (fun e => !parFlg e 0 0) (chkDevMboxRemove r) fun s1 _ e =>
    let m := par e 1 1
    let b := mboxAt s1 r.fn m
    if b.st = .off ∨ b.st = .draining then
      (if b.remover = some (r.fn, r.mbox, r.cid) then s1 else complete s1 r stNotFound 0 0)
    else if inflOf s1 r.fn m = 0 then complete (setMbox s1 r.fn m {}) r stOk 0 0
    else setMbox s1 r.fn m { b with st := .draining, wasError := decide (b.st = .error), remover := some (r.fn, r.mbox, r.cid) }

/-! ### LOG commands and the log ring (R408, R409) -/

/-- Order of records (R360). -/
def recBefore (a b : StoredRec) : Bool := keyLt [a.ev.mer, a.module, a.ev.src, a.seq] [b.ev.mer, b.module, b.ev.src, b.seq]

/-- Insert in R360's order. -/
def recInsert (x : StoredRec) : List StoredRec → List StoredRec
  | [] => [x]
  | y :: ys => if recBefore x y then x :: y :: ys else y :: recInsert x ys

/-- Stored records stamped at or after FROM, in R360's order. -/
def recsFrom (l : EvLog) (since : Nat) : List StoredRec :=
  (l.store.filter fun x => since ≤ x.ev.mer).foldr recInsert []

/-- What LogRing requires of its entry (R385): byte offset and whether the field there is at fault. -/
def chkLogRing (_ : CmdRef) (_ : State) (e : Bytes) : List (Nat × Bool) :=
  let n := parFld e 8 4 0
  [(16, decide (n ≠ 0) && decide (par e 0 8 % 4096 ≠ 0)), (24, decide (n ≠ 0 ∧ (n < 6 ∨ 20 < n)))]

/-- The ring starts empty: the records of REPLAY are written first, then those that still waited (R408, R495). -/
def execLogRing (r : CmdRef) (s : State) : Res :=
  runCmd s r 0x1101 (chkLogRing r) fun s1 _ e =>
    let n := parFld e 8 4 0
    let l := s1.log
    if n = 0 then complete { s1 with log := { l with ring := none, prod := 0, cons := 0, stalled := false } } r stOk 0 0
    else
      let old := if parFlg e 9 0 then (recsFrom l (par e 16 8)).filter fun x => bitOf l.classMask (x.ev.code / 256) else []
      let nums := old.map (·.num)
      let s2 := { s1 with log := { l with ring := some (par e 0 8, n), waiting := nums ++ l.waiting.filter (!nums.contains ·), prod := 0, cons := 0, stalled := false } }
      complete (if parFlg e 9 0 then logStore s2 { src := srcCp, mer := merNow s1, code := 0x0701, subunit := 5, arg0 := old.length, last := merNow s1 } else s2) r stOk 0 0

def execLogFilter (r : CmdRef) (s : State) : Res :=
  runCmd s r 0x1102 noChecks fun s1 _ e =>
    complete { s1 with log := { s1.log with classMask := par e 0 1 } } r stOk 0 0

/-- What LogRead requires of its entry (R385): byte offset and whether the field there is at fault. -/
def chkLogRead (_ : CmdRef) (_ : State) (e : Bytes) : List (Nat × Bool) :=
  [(16, decide (par e 0 8 % 8 ≠ 0)), (32, decide (par e 16 4 = 0 ∨ 65536 < par e 16 4))]

def execLogRead (r : CmdRef) (s : State) : Res :=
  runCmd s r 0x1103 (chkLogRead r)
    fun s1 x e =>
      let rs := (recsFrom s1.log (par e 8 8)).take (par e 16 4)
      complete (cmdHostPut s1 x (par e 0 8) (rs.flatMap evBytes)) r stOk (rs.length + s1.log.lost * 2 ^ 32) 0

/-- A stored record is written to the host log ring when room exists; `ok` false: the write failed (R373, R408). -/
def execLogRingWrite (ok : Bool) (s : State) : Res :=
  let l := s.log
  match l.ring, l.waiting with
  | some (ha, n), num :: rest =>
    if logFull l ∨ l.stalled then .next s
    else if !ok then .next { s with log := { l with stalled := true } }
    else match l.store.find? fun x => x.num = num with
    | none => .next { s with log := { l with waiting := rest } }
    | some x =>
      let s1 := hostPut { s with log := { l with waiting := rest, prod := (l.prod + 1) % 2 ^ 32 } } 0
        (ha + 64 * (l.prod % 2 ^ n)) (evBytes x)
      .next (if l.prod = l.cons then irqSet s1 0 irqEvlog else s1)
  | _, _ => .next s

/-- The host reports consumed records: room is freed and failed writes are tried again (R408, R495). -/
def execEvconsWrite (value : Nat) (s : State) : Res :=
  .next { s with log := { s.log with cons := value % 2 ^ 32, stalled := false } }

/-- An open record's 1 ms closes: it is posted (R476). -/
def execEventCoalesceClose (src code arg0 : Nat) (s : State) : Res :=
  match s.log.opened.find? fun e => decide (e.src = src ∧ e.code = code ∧ e.arg0 = arg0) with
  | none => .next s
  | some e =>
    let s1 := advanceTo s e.closeAt
    .next (logStore { s1 with log := { s1.log with opened := s1.log.opened.filter (· ≠ e) } } e)

end Sys2Proof.Machine
end

