-- ==== Sys2Proof/Machine/FabRecv.lean ====
section
/-! DEFINITION. Remote operations at their target and at their source (R318 to R323, R341, R342). -/

namespace Sys2Proof.Machine

/-! ### Inbox -/

/-- The oldest delivered message of an operation. -/
def inboxOf (s : State) (op : Nat) : Option RMsg := s.fab.inbox.find? fun q => decide (q.m.op = op)

/-- Remove a message from a list, once. -/
def dropOnce (q : RMsg) : List RMsg → List RMsg
  | [] => []
  | x :: xs => if x = q then xs else x :: dropOnce q xs

/-- A delivered message has been acted on: its receive buffer is given back. -/
def doneMsg (s : State) (q : RMsg) : State :=
  returnCredits { s with fab := { s.fab with inbox := dropOnce q s.fab.inbox } } q

/-- A delivered message waits on, changed. -/
def holdMsg (s : State) (q q1 : RMsg) : State :=
  { s with fab := { s.fab with inbox := s.fab.inbox.map fun x => if x = q then q1 else x } }

/-! ### Policers (R341) -/

/-- May a policer reject it? -/
def rejectable (m : FabMsg) : Bool := isRequest m.op || (decide (m.op = 4) && !m.ord)

/-- A message meets its tenant's policer: debited once, counted when the bucket is below zero; whether it is rejected. -/
def police (s : State) (q : RMsg) : State × Bool :=
  let b := tabGet s.fab.policers q.m.tenant {}
  if q.policed ∨ !b.enable ∨ q.inPort.isNone then (s, false) else
  let g := grainAt s (srcPort (q.inPort.getD 48))
  let low := !bucketOk b g
  let b1 := bucketDebit b g (256 * nFlits q.m)
  let b2 := if low then { b1 with exceeded := min (2 ^ 32 - 1) (b1.exceeded + 1) } else b1
  ({ s with fab := { s.fab with policers := tabPut s.fab.policers q.m.tenant b2 } }, low && b.reject && rejectable q.m)

/-- Answer a request. -/
def reply (s : State) (m : FabMsg) : State := routeAll (sendMsg s m)

/-- A rejected request is answered BUSY, a rejected MSG discarded (R341). -/
def rejectMsg (s : State) (q : RMsg) : State :=
  let s1 := doneMsg s q
  if isRequest q.m.op then reply s1 (errResp q.m stBusy 0 0) else s1

/-! ### At the target (R318, R320 to R322) -/

/-- A response to a request. -/
def respMsg (m : FabMsg) (op : Nat) (data : Bytes) : FabMsg :=
  { op := op, service := m.service, tenant := m.tenant, dst := m.src, txid := m.txid, data := data }

/-- The kept response of an operation. -/
def keptOf (s : State) (m : FabMsg) : Option KeptResp := s.fab.kept.find? fun k => decide (k.src = m.src ∧ k.txid = m.txid)

/-- Keep a response for 4 × RTO (R322). -/
def keepResp (s : State) (m resp : FabMsg) : State :=
  { s with fab := { s.fab with kept := (s.fab.kept.filter fun k => !(decide (k.src = m.src ∧ k.txid = m.txid))) ++
      [{ src := m.src, txid := m.txid, msg := resp, due := s.clk.ticks + 4 * s.fab.rto * usTicks }] } }

/-- Access check of a peer's operation: as R162, then export, then chaining (R179). -/
def peerCheck (s : State) (t p : Nat) (acc : Acc) : Check :=
  match checkPage s t p acc with
  | .fault k c => .fault k c
  | o =>
    match leafAt s t p with
    | none => .fault 0x05 0x30
    | some l =>
      if !l.e then .fault 0x03 0x13 else
      match l.loc with
      | .win _ => .fault 0x05 0x31
      | .lent _ _ => .fault 0x05 0x31
      | _ => o

/-- How an operation at the target goes on. -/
inductive Target where
  | ready
  | wait (s : State)
  | err (status kind cause : Nat)

/-- Checks of an operation at its target: tenant's services, the tile, the page (R318, R320, R179). -/
def targetCheck (s : State) (q : RMsg) (len : Nat) (acc : Acc) : Target :=
  let m := q.m
  let va := m.addr % 2 ^ 57
  let p := pageOf va
  let u := unitLink (q.inPort.getD 0 / 8)
  if !(tenAt s m.tenant).enabled ∨ !bitOf (tenAt s m.tenant).svcmask m.service then .err stNoPerm 0x03 0
  else if 65536 < va % 65536 + len then .err stBadParam 0 0
  else match peerCheck s m.tenant p acc with
    | .fault k c => .err (faultStatus k) k c
    | .miss =>
      match q.qfail with
      | some c => .err (faultStatus 0x02) 0x02 c
      | none =>
        if q.missed ∧ (migOf s m.tenant p).isSome then .wait s else
        match missAt (unitWalk s u m.tenant p) m.tenant p (unitHub u) with
        | .ok s1 => .wait (holdMsg s1 q { q with missed := true })
        | .error (_, c) => .err (faultStatus 0x02) 0x02 c
    | .zeros => .ready
    | _ => match leafAt s m.tenant p with
      | some l => if l.mig then .wait s else .ready
      | none => .ready

/-- The hub that owns the frame of a page, while it has one. -/
def ownerHub (s : State) (t p : Nat) : Option Nat :=
  match leafAt s t p with
  | some { loc := .t1 f, .. } => some (hubOfFrame f)
  | _ => none

/-- Do two accesses from one port go to one hub, or to one page that no hub owns now?  They complete in the order in which they arrived
(R18, R317). -/
def sameOrder (s : State) (a b : RMsg) : Bool :=
  let pa := pageOf (a.m.addr % 2 ^ 57)
  let pb := pageOf (b.m.addr % 2 ^ 57)
  decide (a.inPort = b.inPort) &&
    (decide (a.m.tenant = b.m.tenant ∧ pa = pb)
      || ((ownerHub s a.m.tenant pa).isSome && decide (ownerHub s a.m.tenant pa = ownerHub s b.m.tenant pb)))

/-- Is a message an access of the atlas: TREAD, TWRITE or ATOMIC? -/
def isAccess (q : RMsg) : Bool := decide (q.m.op = 1 ∨ q.m.op = 2 ∨ q.m.op = 3)

/-- The oldest access of an operation that none before it must precede; `before` holds the accesses that arrived earlier. -/
def nextAccess (s : State) (op : Nat) : List RMsg → List RMsg → Option RMsg
  | _, [] => none
  | before, q :: qs =>
    if !isAccess q then nextAccess s op before qs
    else if q.m.op = op ∧ !(before.any fun x => sameOrder s x q) then some q
    else nextAccess s op (before ++ [q]) qs

/-- Act on the oldest request of an operation that is due: policer, checks, effect, answer.  A TWRITE or an ATOMIC waits while the response
table has no room for its response. -/
def serveReq (s : State) (op : Nat) (len : FabMsg → Nat) (acc : Acc) (bad : FabMsg → Bool)
    (eff : State → FabMsg → State × FabMsg) : Res :=
  match nextAccess s op [] s.fab.inbox with
  | none => .next s
  | some q =>
    let pl := police s q
    if pl.2 then .next (rejectMsg pl.1 q) else
    let q1 := { q with policed := true }
    let s1 := holdMsg pl.1 q q1
    match if op ≠ 1 ∧ q.m.retry then keptOf s1 q.m else none with
    | some k => .next (reply (doneMsg s1 q1) { k.msg with src := 0 })
    | none =>
      if op ≠ 1 ∧ 65536 ≤ s1.fab.kept.length then .next s1 else
      if bad q.m then .next (reply (doneMsg s1 q1) (errResp q.m stBadParam 0 0)) else
      match targetCheck s1 q1 (len q.m) acc with
      | .wait s2 => .next s2
      | .err st k c =>
        .next (reply (doneMsg (countQuota s1 (unitHub (unitLink (q.inPort.getD 0 / 8))) q.m.tenant k) q1) (errResp q.m st k c))
      | .ready =>
        let r := eff (touchPages s1 q.m.tenant (unitLink (q.inPort.getD 0 / 8)) [pageOf (q.m.addr % 2 ^ 57)]) q.m
        let s2 := if op = 1 then r.1 else keepResp r.1 q.m r.2
        .next (serveAll (reply (doneMsg s2 q1) r.2))

/-- Length of a tile read or write. -/
def tileLen (m : FabMsg) : Nat := m.arg % 65536 + 1

def execTreadReceive (s : State) : Res :=
  serveReq s 1 tileLen .read (fun _ => false) fun st m =>
    (hubRead st m.tenant (m.addr % 2 ^ 57) (tileLen m), respMsg m 0x81 (readMem st m.tenant (m.addr % 2 ^ 57) (tileLen m)))

def execTwriteReceive (s : State) : Res :=
  serveReq s 2 (fun m => if 2 ≤ m.arg / 65536 % 4 then min (tileLen m) (65536 - m.addr % 65536) else tileLen m) .write (fun _ => false) fun st m =>
    (modeWrite st m.tenant (m.addr % 2 ^ 57) (m.arg / 65536 % 4) (padTo (tileLen m) m.data) (m.data.drop (tileLen m)), respMsg m 0x82 [])

def execAtomicReceive (s : State) : Res :=
  serveReq s 3 (fun _ => 8) .atomic (fun m => decide (4 < m.arg % 8 ∨ m.addr % 8 ≠ 0)) fun st m =>
    let r := hubAtomic st m.tenant (m.addr % 2 ^ 57) (m.arg % 8) (fieldAt m.data 0 8) (fieldAt m.data 8 8)
    (r.1, respMsg m 0x83 (leBytes 8 r.2))

/-- A kept response is dropped 4 × RTO after its operation; credits withheld while the table was full are returned
(R322). -/
def execResponseTableExpiry (s : State) : Res :=
  match s.fab.kept with
  | [] => .next s
  | k :: ks =>
    let s1 := advanceTo s k.due
    let s2 := { s1 with fab := { s1.fab with kept := ks, withheld := [] } }
    .next (s.fab.withheld.foldl (fun st w => modPort st w.1 fun x =>
      { x with crOut := tabPut x.crOut (laneKey w.2.1 false) (tabGet x.crOut (laneKey w.2.1 false) 0 + w.2.2) }) s2)

/-! ### At the source -/

/-- Forget an operation. -/
def forgetOp (s : State) (tx : Nat) : State := { s with fab := { s.fab with rem := tabDel s.fab.rem tx } }

/-- Window bytes a remote read left in a job's run are cleared again. -/
def clearPieces (s : State) (t : Nat) (g : RunRange) : State :=
  (rangePages g).foldl (fun st p => match leafAt st t p with
    | some { loc := .win _, .. } => zeroTile st t p
    | _ => st) s

/-- A run's last answer has come: its data is used and the run is applied (R98). -/
def finishRun (s : State) (c : Nat) (x : TmCmd) : State :=
  match slotAt s c x.slot with
  | none => s
  | some sl0 =>
    let sl := boundSlot sl0 x.regs
    let t := jobTenant sl.jobid
    match tmRange (coreAt s c) sl x.cmd.bytes x.progress with
    | none => s
    | some g =>
      let s1 := if cmdOp x.cmd.bytes = 0x06 then s else clearPieces (applyRun s c sl x t (some g)) t g
      modTm s1 c x.id fun y => { y with stage := .applied }

/-- An answer reaches a tile-mover command. -/
def tmAnswer (s : State) (c id tx : Nat) (o : RemOp) (bs : Bytes) : State :=
  match (coreAt s c).tm.find? fun x => decide (x.id = id) with
  | none => s
  | some x =>
    match x.stage, slotAt s c x.slot with
    | .remote txs, some sl0 =>
      if !txs.contains tx then s else
      let sl := boundSlot sl0 x.regs
      let t := jobTenant sl.jobid
      let base := match tmRange (coreAt s c) sl x.cmd.bytes x.progress with | some g => g.va | none => 0
      let s1 := if o.kind = 0 then writeMem s t (base + o.off) (padTo o.len bs) else s
      let rest := txs.filter (· ≠ tx)
      let x1 := { x with stage := .remote rest, got := if o.kind = 2 then bs.take 8 else x.got }
      let s2 := modTm s1 c id fun _ => x1
      if rest = [] then finishRun s2 c x1 else s2
    | _, _ => s

/-- The command fetched for a slot arrives. -/
def fetchAnswer (s : State) (c i : Nat) (bs : Bytes) : State :=
  modCtx s c i fun x => if x.fetchMiss.isSome then fetchPush { x with fetchMiss := none } (padTo 64 bs) else x

/-- A polled word arrives (R114); one for a wait that a save has withdrawn is discarded (R202). -/
def pollAnswer (s : State) (c i : Nat) (bs : Bytes) : State :=
  match slotAt s c i with
  | none => s
  | some sl =>
    if !slotResident s sl then s else
    modCtx s c i fun x => match x.wait with
      | some (.mem _ cond value _ _ _ _) => if memCond cond (fieldAt bs 0 8) value then { x with wait := none } else x
      | _ => x

/-- The oldest request of a function's ingress queue has its answer. -/
def hostAnswer (s : State) (fn tag : Nat) (bs : Bytes) : State :=
  modFunc s fn fun f => match f.barq with
    | .wr _ _ true :: qs => if tag = 1024 then { f with barq := qs } else f
    | .rd g off n dl true none :: qs => if g = tag then { f with barq := .rd g off n dl true (some (padTo n bs)) :: qs } else f
    | _ => f

/-- A mailbox command's answer: tile bytes by page, or one write acknowledged. -/
def cmdAnswer (s : State) (r : CmdRef) (tx : Nat) (o : RemOp) (bs : Bytes) : State :=
  modInfl s r fun y => if o.kind = 0 then { y with got := y.got ++ [(o.off, padTo o.len bs)] }
    else { y with sent := y.sent.filter (· ≠ tx) }

/-- Deliver an answer to the unit that waits for it. -/
def deliverAnswer (s : State) (tx : Nat) (o : RemOp) (bs : Bytes) : State :=
  match o.owner with
  | .tm c id => tmAnswer s c id tx o bs
  | .cmd f m c => cmdAnswer s ⟨f, m, c⟩ tx o bs
  | .host fn tag => hostAnswer s fn tag bs
  | .fetch c i => fetchAnswer s c i bs
  | .poll c i => pollAnswer s c i bs
  | .mig _ _ => s
  | .eng t p => if o.kind = 0 then { s with fab := { s.fab with got := s.fab.got ++ [(t, p, bs)] } } else s

/-- Local page an operation was made for, as its unit names it. -/
def opPage (s : State) (o : RemOp) : Nat :=
  match o.owner with
  | .cmd _ _ _ => o.off
  | .tm c id =>
    (match (coreAt s c).tm.find? fun x => decide (x.id = id) with
     | some x => match slotAt s c x.slot with
       | some sl0 => match tmRange (coreAt s c) (boundSlot sl0 x.regs) x.cmd.bytes x.progress with
         | some g => pageOf (g.va + o.off)
         | none => 0
       | none => 0
     | none => 0)
  | .host _ _ => pageOf o.off
  | .fetch c i => (match slotAt s c i with | some sl => sl.ctx.fetchMiss.getD 0 | none => 0)
  | .poll c i => (match slotAt s c i with
    | some sl => (match sl.ctx.wait with | some (.mem va ..) => pageOf va | _ => 0)
    | none => 0)
  | _ => 0

/-- ACCESS code of an operation. -/
def opAcc (o : RemOp) : Nat := match o.kind with | 0 => 0 | 1 => 1 | _ => 3

/-- An operation fails: its unit faults (R184, R186, R97, R114). -/
def failAnswer (s : State) (tx : Nat) (o : RemOp) (kind cause : Nat) : State :=
  let page := opPage s o
  match o.owner with
  | .tm c id =>
    (match (coreAt s c).tm.find? fun x => decide (x.id = id) with
     | some x => match x.stage with
       | .remote txs => if txs.contains tx then
           settleHalt (modTm s c id fun y => { y with stage := .fault kind cause (opAcc o) page }) c x.slot
         else s
       | _ => s
     | none => s)
  | .cmd f m c =>
    (match inflAt s ⟨f, m, c⟩ with
     | some x =>
       if entryOp x.entry = 0x0A02 ∧ o.kind = 1 then
         modInfl s x.ref fun y => { y with sent := y.sent.filter (· ≠ tx), lost := y.lost.orElse fun _ => some (kind, cause, page) }
       else cmdFault (forgetCmd s x.ref) x srcDma kind (opAcc o) cause page x.done
     | none => s)
  | .host fn tag =>
    (match (funcAt s fn).barq with
     | .wr _ _ true :: qs => if tag = 1024 then windowFault (modFunc s fn fun f => { f with barq := qs }) fn kind 1 page cause else s
     | .rd g _ n _ true none :: qs => if g = tag then
         emit (windowFault (modFunc s fn fun f => { f with barq := qs }) fn kind 0 page cause) (.hostData fn tag (onesBytes n))
       else s
     | _ => s)
  | .fetch c i => settleHalt (modCtx s c i fun x => if x.fetchMiss.isSome then
      { x with fetchMiss := none, fetchFault := some (kind, cause, page) } else x) c i
  | .poll c i =>
    (match slotAt s c i with
     | some sl => match (if slotResident s sl then sl.ctx.wait else none) with
       | some (.mem _ _ _ _ _ _ q) =>
         postFault (modCtx s c i fun x => { x with wait := none, halt := some (.refused q) }) (jobTenant sl.jobid)
           { bytes := atlasRecord (merAt s c) c kind i sl.jobid 0 page (cmdTag q.bytes) q.idx (cmdOp q.bytes) cause, holder := .core c i sl.jobid }
       | _ => s
     | none => s)
  | .eng t p => if o.kind = 0 then { s with fab := { s.fab with failed := s.fab.failed ++ [(t, p, kind, cause)] } } else s
  | .mig _ _ => s

/-- A response of an operation: it answers an outstanding one, or is discarded with its credits returned (R322). -/
def onResponse (s : State) (op : Nat) (f : State → Nat → RemOp → RMsg → State) : Res :=
  match inboxOf s op with
  | none => .next s
  | some q =>
    let s1 := doneMsg (police s q).1 q
    match tabFind s1.fab.rem q.m.txid with
    | none => .next s1
    | some o => .next (f s1 q.m.txid o q)

/-- Deliver the answer of an operation of a kind and end it. -/
def answered (kind : Nat) (s : State) (tx : Nat) (o : RemOp) (q : RMsg) : State :=
  if o.kind ≠ kind then s else serveAll (remOver (deliverAnswer (forgetOp s tx) tx o q.m.data) tx)

def execRdataReceive (s : State) : Res := onResponse s 0x81 (answered 0)
def execWackReceive (s : State) : Res := onResponse s 0x82 (answered 1)
def execAvalReceive (s : State) : Res := onResponse s 0x83 (answered 2)

/-- ERESP: BUSY is sent again after RTO (R342); any other ends the operation with the target's KIND and CAUSE, bit 7 set
(R320), or with PEER_LOST where this module's router answered (R328). -/
def execErespReceive (s : State) : Res :=
  onResponse s 0x8F fun s1 tx o q =>
    let st := q.m.arg % 65536
    let kind := q.m.arg / 65536 % 256
    let cause := q.m.arg / 2 ^ 24 % 256
    if st = stBusy then
      { s1 with fab := { s1.fab with rem := tabPut s1.fab.rem tx { o with busyAt := some (s1.clk.ticks + s1.fab.rto * usTicks) } } }
    else
      let c := if q.inPort.isNone then cause else cause ||| 0x80
      serveAll (remOver (failAnswer (forgetOp s1 tx) tx o kind c) tx)

/-- Send an operation again, RETRY set. -/
def resendOp (s : State) (tx : Nat) (o : RemOp) : State :=
  routeAll (sendMsg { s with fab := { s.fab with rem := tabPut s.fab.rem tx o } } { remMsg tx o with retry := true })

/-- No response within RTO: sent once more, then failed (R322). -/
def execRemoteOpTimeout (tx : Nat) (s : State) : Res :=
  match tabFind s.fab.rem tx with
  | none => .next s
  | some o =>
    if o.busyAt.isSome then .next s else
    let s1 := advanceTo s o.deadline
    if !o.resent then .next (resendOp s1 tx { o with resent := true, deadline := s1.clk.ticks + s1.fab.rto * usTicks })
    else .next (serveAll (remOver (failAnswer (forgetOp s1 tx) tx o 0x04 0x24) tx))

/-- RTO after a BUSY the request is sent again (R342). -/
def execBusyRetry (tx : Nat) (s : State) : Res :=
  match tabFind s.fab.rem tx with
  | none => .next s
  | some o =>
    match o.busyAt with
    | none => .next s
    | some b =>
      let s1 := advanceTo s b
      .next (resendOp s1 tx { o with busyAt := none, deadline := s1.clk.ticks + s1.fab.rto * usTicks })

/-! ### Ordered flows (R319, R323) -/

/-- Send what now has room. -/
def pumpFlow (s : State) (k : Nat) : Nat → State
  | 0 => s
  | fuel + 1 =>
    let f := tabGet s.fab.txFlows k {}
    match f.waiting with
    | [] => s
    | m :: ms =>
      if 64 ≤ f.unacked.length then s else
      pumpFlow (sendOrd { s with fab := { s.fab with txFlows := tabPut s.fab.txFlows k { f with waiting := ms } } } m) k fuel

def execMackReceive (s : State) : Res :=
  match inboxOf s 0x84 with
  | none => .next s
  | some q =>
    let s1 := doneMsg (police s q).1 q
    let k := q.m.src * 8 + q.m.service
    match tabFind s1.fab.txFlows k with
    | none => .next s1
    | some f =>
      let left := f.unacked.filter fun m => decide (32768 ≤ ahead (q.m.arg % 65536) m.oseq)
      let dl := if left = [] then none else some (s1.clk.ticks + s1.fab.rto * usTicks)
      let g : TxFlow := { f with unacked := left, deadline := dl, resent := if left.length < f.unacked.length then false else f.resent }
      let s2 := { s1 with fab := { s1.fab with txFlows := tabPut s1.fab.txFlows k g } }
      .next (routeAll (pumpFlow s2 k f.waiting.length))

end Sys2Proof.Machine
end

