-- ==== Sys2Proof/Machine/FabCmds.lean ====
section
/-! DEFINITION. Links, probes and notices, and the FAB group's commands for ports, routes and fences (chapter 12). -/

namespace Sys2Proof.Machine

/-! ### Flits (R304 to R308) -/

/-- Drop acknowledged flits from a replay buffer: `a` is the next SEQ the peer expects. -/
def ackReplay (a : Nat) (rs : List Replay) : List Replay :=
  rs.filterMap fun r =>
    let d := ahead a r.seq
    if 32768 ≤ d then some r else if r.n ≤ d then none else some { r with acked := max r.acked d }

/-- ACK and returned credits of an accepted flit's trailer (Table 12.2). -/
def takeTrailer (p : Port) (fl : Bytes) : Port :=
  let k := fld fl 244 7 5 * 2 + fld fl 244 4 4
  let n := fld fl 244 3 0
  { p with replay := ackReplay (fieldAt fl 242 2) p.replay
           txCred := if n = 0 then p.txCred else tabPut p.txCred k (tabGet p.txCred k 0 + n) }

/-- A whole message has arrived: refused where its service is fenced, or, before the first commit of routes, unless it is a LOCALHOP MGMT
or TIME message; delivered, or sent on (R313, R315, R316, R330). -/
def wholeMsg (s : State) (n : Nat) (x : RxMsg) : State :=
  let m := parseMsg x.body
  let q : RMsg := { m := m, inPort := some n, inEsc := x.esc, since := s.clk.ticks }
  let local1 := m.localhop && decide (m.service ≤ 1)
  if bitOf s.fab.fencedSvc m.service ∨ (s.fab.fenced ∧ 2 ≤ m.service) then returnCredits s q
  else if !s.fab.routed ∧ !(local1 && decide (m.op = 6 ∨ m.op = 7)) then returnCredits s q
  else if m.dst = s.fab.module ∨ local1 then toInbox s q
  else if s.fab.fenced then returnCredits s q
  else { s with fab := { s.fab with routeq := s.fab.routeq ++ [q] } }

/-- A HEAD or BODY flit that was accepted: it takes a buffer of its lane and joins its message. -/
def acceptFlit (s : State) (n : Nat) (fl : Bytes) : State :=
  let p := portAt s n
  let body := fl.take 240
  let head := decide (fld fl 245 7 6 = 1)
  let x : Option RxMsg := if head then
      some { body := body, left := fld fl 14 11 0, svc := fld fl 1 7 5, esc := flg fl 1 4, n := 1 }
    else p.rx.map fun y => { y with body := y.body ++ body, left := y.left - 1, n := y.n + 1 }
  match x with
  | none => s
  | some y =>
    let k := laneKey y.svc y.esc
    let t := fld y.body 2 5 0
    let s1 := countEv (modPort s n fun z => { z with rxBuf := tabPut z.rxBuf k (tabGet z.rxBuf k 0 + 1), rxw := z.rxw + 256 }) (srcPort n) 0x0302 t
    let bad := flg fl 245 4
    if flg fl 245 5 ∨ y.left = 0 ∨ bad then
      let s2 := modPort s1 n fun z => { z with rx := none }
      if bad ∨ (y.left ≠ 0 ∧ flg fl 245 5) then
        giveBack s2 { m := { service := y.svc }, inPort := some n, inEsc := y.esc } y.n
      else wholeMsg s2 n y
    else modPort s1 n fun z => { z with rx := some y }

/-- An uncorrectable FEC codeword: more than 1 in 10,000 of the 312,500 of 1 ms, which a live link never leaves unfilled, take the port
DOWN (R309; log 40). -/
def noteFec (s : State) (n : Nat) : State :=
  let at1 := s.clk.ticks :: (portAt s n).fecAt.filter fun t => decide (s.clk.ticks < t + msTicks)
  let s1 := modPort s n fun x => { x with fecBad := min (2 ^ 32 - 1) (x.fecBad + 1), fecAt := at1 }
  if 31 < at1.length then portDown s1 n else s1

/-- A flit of 256 bytes is checked for CRC and SEQ (R308): discarded and NAKed, or accepted. -/
def takeFlit (s : State) (port : Nat) (fl : Bytes) : State :=
  let p := portAt s port
  let good := crcOk fl
  if !good ∨ fieldAt fl 240 2 ≠ p.rxSeq then
    if good ∧ p.gap then s else
    let run := if p.nakRun.1 = p.rxSeq then p.nakRun.2 + 1 else 1
    let s1 := modPort s port fun x => { x with gap := true, naks := min (2 ^ 32 - 1) (x.naks + 1), nakRun := (x.rxSeq, run) }
    let s2 := countEv (sendCtrl s1 port [0, p.rxSeq]) (srcPort port) 0x0303 0
    if 16 ≤ run then portDown s2 port else s2
  else
    let kind := fld fl 245 7 6
    let p1 := takeTrailer { p with gap := false, lastRx := s.clk.ticks, nakRun := (0, 0), rxSeq := if kind = 0 then p.rxSeq else (p.rxSeq + 1) % 65536 } fl
    let s1 := modPort s port fun _ => p1
    routeAll (if kind = 1 ∨ kind = 2 then acceptFlit s1 port fl else s1)

/-- A flit arrives, with the word of the FEC whether its codewords could be corrected. -/
def execFlitReceive (port : Nat) (flit : Bytes) (fecOk : Bool) (s : State) : Res :=
  if (portAt s port).st ≠ .up then .next s else
  let s1 := if fecOk then s else noteFec s port
  .next (if (portAt s1 port).st ≠ .up then s1 else takeFlit s1 port (padTo 256 flit))

/-- A CTRL NAK names the SEQ the peer expects: every flit from it is sent again (R308). -/
def execNakReceive (port seq : Nat) (s : State) : Res :=
  let p := portAt s port
  if p.st ≠ .up then .next s else
  let rs := ackReplay (seq % 65536) p.replay
  let s1 := modPort s port fun x => { x with replay := rs }
  .next (rs.foldl (fun st r => (r.flits.drop r.acked).foldl (fun u f => emit u (.flit port (againFlit p.rxSeq f))) st) s1)

/-- A CTRL FENCED turns the port FENCED; its peer is lost (R309, R328, R180). -/
def execFencedReceive (port : Nat) (s : State) : Res :=
  let p := portAt s port
  if p.st ≠ .up then .next s else
  let s1 := timePortDown (reroutePort (setPortSt s port .fenced) port) port
  .next (loseModule s1 p.peer 0xFF none)

def execPcsLockLoss (port : Nat) (s : State) : Res := .next (portDown s port)

/-- No valid flit for 2 µs (R309). -/
def execLinkSilenceTimeout (port : Nat) (s : State) : Res :=
  let p := portAt s port
  if p.st ≠ .up then .next s else .next (portDown (advanceTo s (p.lastRx + 2 * usTicks)) port)

/-- The credits that an allocation gives: adaptive lanes as it says, 32 for each escape lane (R307). -/
def laneCreds (cs : List Nat) : Tab Nat := (List.range 16).map fun k => (k, if k % 2 = 0 then cs.getD (k / 2) 0 else 32)

/-- Training ends with the CTRL exchange of module number, port number and allocation, the first flit of each direction (log 3); the port
turns UP (R307, R309). -/
def execPortTrained (port peer peerPort : Nat) (creds : List Nat) (s : State) : Res :=
  let p := portAt s port
  if !mayTrain s port ∨ (p.st ≠ .training ∧ p.st ≠ .down) then .next s else
  let s1 := modPort (setPortSt s port .up) port fun x =>
    { x with peer := peer % 131072, peerPort := peerPort % 256, peerCreds := creds, txCred := laneCreds creds, txSeq := 0, rxSeq := 1, gap := false,
             lastRx := s.clk.ticks, replay := [], rx := none, rxBuf := [], nakRun := (0, 0) }
  let s2 := sendCtrl (postEvent s1 (srcPort port) 0x0402 0 0xFF port 0 0) port ([1, s.fab.module, port] ++ p.creds)
  .next (routeAll (joinModule s2 (peer % 131072) none))

/-! ### Probes and notices (R328) -/

/-- The oldest MGMT message of one of the module's own kinds (log 22) that no earlier one of its ordered flow precedes (R319). -/
def mgmtOf (s : State) (kinds : List Nat) : Option RMsg :=
  s.fab.inbox.find? fun q => decide (q.m.op = 7) && kinds.contains (q.m.arg % 256) && inTurn s q

/-- A probe is answered; a reply ends the probe. -/
def execMgmtProbe (s : State) : Res :=
  match mgmtOf s [1, 2] with
  | none => .next s
  | some q =>
    let s1 := doneMsg (police s q).1 q
    if q.m.arg % 256 = 1 then .next (reply s1 { mgmtMsg 2 s.fab.module with dst := q.m.src })
    else .next { s1 with fab := { s1.fab with probes := s1.fab.probes.filter fun x => decide (x.1 ≠ q.m.src) } }

/-- No reply within PROBETO: the peer is lost. -/
def execProbeTimeout (module : Nat) (s : State) : Res :=
  match s.fab.probes.find? fun x => decide (x.1 = module) with
  | none => .next s
  | some x =>
    let s1 := advanceTo s x.2
    .next (loseModule { s1 with fab := { s1.fab with probes := s1.fab.probes.filter fun y => decide (y.1 ≠ module) } } module 0xFF none)

/-- A LOST notice (R328, R180); a lost member ends a collective (R327) by COLLECTIVE_DONE. -/
def execLostNotice (s : State) : Res :=
  match mgmtOf s [3] with
  | none => .next s
  | some q => .next (loseModule (doneMsg (police s q).1 q) (q.m.addr % 131072) (q.m.arg / 256 % 256) q.inPort)

/-- A port whose peer was fenced is UP again with the peer's JOIN. -/
def unfencePort (s : State) (n m : Nat) : State :=
  let p := portAt s n
  if p.st = .fenced ∧ p.peer = m then
    modPort (setPortSt s n .up) n fun x => { x with txCred := laneCreds p.peerCreds, lastRx := s.clk.ticks }
  else s

/-- A JOIN notice restores the byte (R328, R330). -/
def execJoinNotice (s : State) : Res :=
  match mgmtOf s [4] with
  | none => .next s
  | some q =>
    let m := q.m.addr % 131072
    let s1 := (List.range 48).foldl (fun st n => unfencePort st n m) (doneMsg (police s q).1 q)
    .next (routeAll (joinModule s1 m q.inPort))

/-! ### FAB.CONFIG, ROUTE, PORT, STATUS (R331) -/

/-- Widths of a FAB.CONFIG. -/
def cfgWidths (e : Bytes) : List Nat := (List.range 5).map fun d => parFld e (5 + d) 4 0

/-- Is a set of FAB.CONFIG's RWB fields in range? -/
def cfgGood (ndim module : Nat) (ws : List Nat) : Bool :=
  decide (1 ≤ ndim ∧ ndim ≤ 5) && (ws.take ndim).all (fun w => decide (1 ≤ w)) && (ws.drop ndim).all (fun w => decide (w = 0))
    && decide (ws.sum ≤ 17 ∧ module < 2 ^ ws.sum)

/-- Ports follow ENABLE: they train, or are DISABLED. -/
def enablePorts (s : State) (en : Bool) : State :=
  (List.range 48).foldl (fun st n =>
    if en then (if mayTrain st n ∧ (portAt st n).st = .disabled then setPortSt st n .training else st)
    else if (portAt st n).st = .disabled then st
    else setPortSt (timePortDown (reroutePort (setPortSt st n .disabled) n) n) n .disabled) s

/-- What FabConfig requires of its entry (R385): byte offset and whether the field there is at fault. -/
def chkFabConfig (_ : CmdRef) (_ : State) (e : Bytes) : List (Nat × Bool) :=
  [(16, !cfgGood (parFld e 4 2 0) (parFld e 0 16 0) (cfgWidths e)), (32, decide (par e 16 4 < 10 ∨ 10000 < par e 16 4)),
   (36, decide (10000 < par e 20 2)), (38, decide (par e 22 2 < 5 ∨ 1000 < par e 22 2))]

/-- FAB.CONFIG (R311, Table 12.21).  While ENABLE = 1 the RWB fields are busy; an entry that carries their present values is no
write of them and is accepted (DESIGN CHOICE, log 40: the spec does not say whether an equal value counts as a write). -/
def execFabConfig (r : CmdRef) (s : State) : Res :=
  runCmd s r 0x0B01 (chkFabConfig r) fun s1 _ e =>
    let en := parFlg e 11 0
    let ws := cfgWidths e
    let same := decide (s1.fab.module = parFld e 0 16 0 ∧ s1.fab.ndim = parFld e 4 2 0 ∧ s1.fab.widths = ws ∧ s1.fab.kinds = parFld e 10 4 0)
    if s1.fab.enable ∧ !same then complete s1 r stWrej 0 0 else
    let s2 := { s1 with fab := { s1.fab with
      module := parFld e 0 16 0, mvalid := true, ndim := parFld e 4 2 0, widths := ws, kinds := parFld e 10 4 0
      enable := en, rto := par e 16 4, nmwait := par e 20 2, probeto := par e 22 2 } }
    complete (enablePorts s2 en) r stOk 0 0

/-- A route entry of 16 bytes (Table 12.6). -/
def routeEnt (b : Bytes) : RouteEnt :=
  { minports := fieldAt b 0 6, v := flg b 8 7, nmv := flg b 8 6, nmport := fld b 8 5 0, eav := flg b 9 7,
    escport := fld b 9 5 0, escalt := fld b 10 5 0 }

/-- Is an entry free of reserved bits and port numbers? -/
def routeEntGood (b : Bytes) : Bool :=
  decide (fieldAt b 6 2 = 0 ∧ fld b 9 6 6 = 0 ∧ fld b 10 7 6 = 0) && zeroBytes b 11 15
    && decide (fld b 8 5 0 < 48 ∧ fld b 9 5 0 < 48 ∧ fld b 10 5 0 < 48)

/-- Checks of FAB.ROUTE. -/
def routeChecks (e : Bytes) : List (Nat × Bool) :=
  [(24, decide (par e 8 4 = 0) && !parFlg e 24 0)]

/-- Does an entry range lie in its dimension (R312)? -/
def routeRange (s : State) (e : Bytes) : Bool :=
  decide (par e 8 4 = 0) || (decide (parFld e 0 2 0 < s.fab.ndim)
    && decide (par e 4 4 + par e 8 4 ≤ 2 ^ (s.fab.widths.getD (parFld e 0 2 0) 0)))

/-- Shadow entries of a dimension. -/
def putShadow (s : State) (d first : Nat) (bs : Bytes) (n : Nat) : State :=
  { s with fab := { s.fab with shadow := (List.range n).foldl (fun tb i =>
      tabPut tb (d * 131072 + first + i) (routeEnt ((bs.drop (16 * i)).take 16))) s.fab.shadow } }

/-- Every shadow becomes the committed set at once (R315). -/
def commitRoutes (s : State) : State := routeAll { s with fab := { s.fab with routes := s.fab.shadow, routed := true } }

/-- Do the shadows agree with FAB.CONFIG: no entry outside its dimensions (R315)? -/
def shadowGood (s : State) : Bool :=
  s.fab.shadow.all fun q => decide (q.1 / 131072 < s.fab.ndim) && decide (q.1 % 131072 < 2 ^ (s.fab.widths.getD (q.1 / 131072) 0))

/-- The entries of a FAB.ROUTE are written into the shadows; whether it must wait for the host's buffer. -/
def routeEntries (s : State) (x : Inflight) (e : Bytes) (k : State → State) : State :=
  let n := par e 8 4
  if n = 0 then k s else
  match hostBuf x with
  | none => askHost s x
  | some bs =>
    if bs.length < 16 * n ∨ (List.range n).any fun i => !routeEntGood ((bs.drop (16 * i)).take 16) then badParam s x.ref 24
    else k (putShadow s (parFld e 0 2 0) (par e 4 4) bs n)

/-- What FabRouteWrite requires of its entry (R385): byte offset and whether the field there is at fault. -/
def chkFabRouteWrite (_ : CmdRef) (s1 : State) (e : Bytes) : List (Nat × Bool) :=
  routeChecks e ++
    [(16, !routeRange s1 e), (48, decide (par e 32 8 ≠ 0))]

def execFabRouteWrite (r : CmdRef) (s : State) : Res :=
  runCmdIf s r 0x0B02 (fun e => !parFlg e 24 0) (chkFabRouteWrite r) fun s1 x e =>
    routeEntries s1 x e fun st => complete st r stOk 0 0

/-- What FabRouteCommit requires of its entry (R385): byte offset and whether the field there is at fault. -/
def chkFabRouteCommit (_ : CmdRef) (s1 : State) (e : Bytes) : List (Nat × Bool) :=
  routeChecks e ++ [(16, !routeRange s1 e)]

def execFabRouteCommit (r : CmdRef) (s : State) : Res :=
  runCmdIf s r 0x0B02 (fun e => parFlg e 24 0) (chkFabRouteCommit r) fun s1 x e =>
    let t := par e 32 8
    if schedWaits s1 r then s1
    else match if t = 0 then none else schedRefuse s1 t with
      | some st => complete s1 r st 0 0
      | none =>
        if armedKind s1 (fun k => decide (k = .route)) then complete s1 r stBusy 0 0 else
        routeEntries s1 x e fun st =>
          if !shadowGood st then badParam st r 16
          else if t = 0 then complete (commitRoutes st) r stOk 0 0
          else schedCmd st r t .route

/-- Reserved fields of FAB.PORT. -/
def portChecks (e : Bytes) : List (Nat × Bool) :=
  [(16, decide (47 < par e 0 1)), (17, decide (parFld e 1 1 0 = 3))]

/-- What FabPortDisable requires of its entry (R385): byte offset and whether the field there is at fault. -/
def chkFabPortDisable (_ : CmdRef) (_ : State) (e : Bytes) : List (Nat × Bool) :=
  portChecks e

/-- A PORT with DISABLE; an OP that no row has is refused here. -/
def execFabPortDisable (r : CmdRef) (s : State) : Res :=
  runCmdIf s r 0x0B03 (fun e => decide (parFld e 1 1 0 = 0 ∨ parFld e 1 1 0 = 3)) (chkFabPortDisable r)
    fun s1 _ e =>
      let n := par e 0 1
      let s2 := modPort s1 n fun p => { p with off := true }
      let s3 := if (portAt s2 n).st = .disabled then s2
        else timePortDown (reroutePort (setPortSt s2 n .disabled) n) n
      complete s3 r stOk 0 0

/-- What FabPortEnable requires of its entry (R385): byte offset and whether the field there is at fault. -/
def chkFabPortEnable (_ : CmdRef) (_ : State) (e : Bytes) : List (Nat × Bool) :=
  portChecks e

def execFabPortEnable (r : CmdRef) (s : State) : Res :=
  runCmdIf s r 0x0B03 (fun e => decide (parFld e 1 1 0 = 1)) (chkFabPortEnable r) fun s1 _ e =>
    let n := par e 0 1
    let s2 := modPort s1 n fun p => { p with off := false }
    let s3 := if mayTrain s2 n ∧ (portAt s2 n).st = .disabled then setPortSt s2 n .training else s2
    complete s3 r stOk 0 0

def execFabPortSetcred (r : CmdRef) (s : State) : Res :=
  runCmdIf s r 0x0B03 (fun e => decide (parFld e 1 1 0 = 2)) (fun _ e => portChecks e) fun s1 _ e =>
    let n := par e 0 1
    let cs := (List.range 8).map fun i => par e (4 + 2 * i) 2
    if (portAt s1 n).st ≠ .disabled then complete s1 r stWrej 0 0
    else if cs.any (fun c => decide (c < 16)) ∨ 8192 < cs.sum + 256 then badParam s1 r 20
    else complete (modPort s1 n fun p => { p with creds := cs }) r stOk 0 0

/-- STATE code of a port record. -/
def portCode : PortState → Nat
  | .disabled => 0 | .training => 1 | .up => 2 | .down => 3 | .fenced => 4

/-- A port record (R331). -/
def portRec (p : Port) : Bytes :=
  leBytes 1 (portCode p.st) ++ leBytes 1 p.peerPort ++ leBytes 2 0 ++ leBytes 4 p.peer ++ leBytes 4 p.fecCorr
    ++ leBytes 4 p.fecBad ++ leBytes 4 p.naks ++ leBytes 4 p.downs ++ leBytes 8 p.changed

/-- Checks of FAB.STATUS. -/
def fabStatusChecks (e : Bytes) : List (Nat × Bool) := [(16, decide (par e 0 8 % 8 ≠ 0))]

def execFabStatusPorts (r : CmdRef) (s : State) : Res :=
  runCmdIf s r 0x0B04 (fun e => !parFlg e 8 0) (fun _ e => fabStatusChecks e) fun s1 x e =>
    let bs := (List.range 48).flatMap fun n => portRec (portAt s1 n)
    let s2 := (List.range 48).foldl (fun st n => if tabHas st.fab.ports n then
        modPort st n fun p => { p with fecCorr := 0, fecBad := 0, naks := 0, downs := 0 } else st) s1
    complete (cmdHostPut s2 x (par e 0 8) bs) r stOk 0 0

def execFabStatusReach (r : CmdRef) (s : State) : Res :=
  runCmdIf s r 0x0B04 (fun e => parFlg e 8 0) (fun _ e => fabStatusChecks e) fun s1 x e =>
    complete (cmdHostPut s1 x (par e 0 8) ((List.range 131072).map fun m => BitVec.ofNat 8 (reachOf s1 m))) r stOk 0 0

/-! ### FAB.FENCE (R330) -/

/-- Fence services: messages of them that wait to leave are refused here; peers learn by a notice. -/
def fenceServices (s : State) (mask : Nat) : State :=
  let s1 := { s with fab := { s.fab with fencedSvc := s.fab.fencedSvc ||| mask % 256 } }
  let qs := (s1.fab.queues.filter fun q => bitOf mask (q.1 / 64 % 8)).flatMap fun q => q.2
  let s2 := { s1 with fab := { s1.fab with queues := s1.fab.queues.filter fun q => !bitOf mask (q.1 / 64 % 8) } }
  let s3 := qs.foldl (fun st q => if q.inPort.isSome then returnCredits st q else dropRoute st q) s2
  irqAll (flood (routeAll s3) (3 + mask % 256 * 256) s.fab.module none) irqFence

/-- Fence the ports (R330): CTRL FENCED on every port, then services 0 and 1 alone and no transit. -/
def fencePorts (s : State) : State :=
  if s.fab.fenced then s else
  let s1 := (List.range 48).foldl (fun st n => if portUp st n then sendCtrl st n [2] else st) s
  let s2 := { s1 with fab := { s1.fab with fenced := true } }
  irqAll (routeAll (flood s2 (3 + 0xFF * 256) s.fab.module none)) irqFence

/-- Unfence services, and with all of them the module; JOIN tells the peers, and those services that stay fenced are named
again (R328, R330). -/
def unfencePorts (s : State) (mask : Nat) : State :=
  let s1 := { s with fab := { s.fab with
    fencedSvc := s.fab.fencedSvc &&& (0xFF - mask % 256), fenced := if mask % 256 = 0xFF then false else s.fab.fenced } }
  let s2 := flood s1 4 s1.fab.module none
  let s3 := if s1.fab.fencedSvc = 0 then s2 else flood s2 (3 + s1.fab.fencedSvc * 256) s1.fab.module none
  routeAll (irqAll s3 irqFence)

def execFabUnfence (r : CmdRef) (s : State) : Res :=
  runCmdIf s r 0x0B05 (fun e => !parFlg e 1 0) noChecks fun s1 _ e =>
    complete (unfencePorts s1 (par e 0 1)) r stOk 0 0

end Sys2Proof.Machine
end

