-- ==== Sys2Proof/Machine/Collect.lean ====
section
/-! DEFINITION. Collective groups and operations (R324 to R327).  How COLL segments are laid out and routed among the
members is not in the spec: the model's own layout is in assumption log 23. -/

namespace Sys2Proof.Machine

/-! ### Groups (R324) -/

/-- Key of a group. -/
def groupKey (t g : Nat) : Nat := t * 256 + g

/-- Change a group. -/
def modGroup (s : State) (k : Nat) (f : Group → Group) : State :=
  { s with fab := { s.fab with groups := tabUpd s.fab.groups k f } }

/-- Members along each dimension. -/
def groupSpans (g : Group) : List (Nat × Nat) := (coords g.widths g.lo).zip (coords g.widths g.hi)

/-- Members of a group. -/
def groupSize (g : Group) : Nat := (groupSpans g).foldl (fun n q => n * (q.2 + 1 - q.1)) 1

/-- Module number of coordinates. -/
def moduleOf : List Nat → List Nat → Nat
  | w :: ws, c :: cs => c + 2 ^ w * moduleOf ws cs
  | _, _ => 0

/-- Coordinates of a rank: the offsets of a mixed-radix number, dimension 0 least significant. -/
def rankCoords : List (Nat × Nat) → Nat → List Nat
  | [], _ => []
  | q :: qs, r => (q.1 + r % (q.2 + 1 - q.1)) :: rankCoords qs (r / (q.2 + 1 - q.1))

/-- Module of a rank. -/
def memberOf (g : Group) (r : Nat) : Nat := moduleOf g.widths (rankCoords (groupSpans g) r)

/-- Rank of a module; none for no member. -/
def rankOf (g : Group) (m : Nat) : Option Nat := (List.range (groupSize g)).find? fun r => decide (memberOf g r = m)

/-- Checks of a FAB.GROUP block (Table 12.7). -/
def groupChecks (s : State) (b : Bytes) : List (Nat × Bool) :=
  let mk := flg b 1 0
  let ws := dimWidths s
  let lim := 2 ^ ws.sum
  let lo := fld b 4 16 0
  let hi := fld b 8 16 0
  [(1, decide (fld b 1 7 1 ≠ 0)), (2, decide (fieldAt b 2 2 ≠ 0)), (4, decide (fld b 4 31 17 ≠ 0) || mk && decide (lim ≤ lo)),
   (8, decide (fld b 8 31 17 ≠ 0) || mk && (decide (lim ≤ hi) || ((coords ws lo).zip (coords ws hi)).any fun q => decide (q.2 < q.1))),
   (12, !zeroBytes b 12 23), (24, decide (fld b 24 15 13 ≠ 0)), (26, decide (fld b 26 15 13 ≠ 0)), (28, mk && decide (fieldAt b 28 4 = 0)),
   (32, decide (fld b 32 63 57 ≠ 0 ∨ fld b 32 5 0 ≠ 0)), (40, decide (12 < fieldAt b 40 1)), (41, !zeroBytes b 41 47),
   (56, !zeroBytes b 56 63)]

/-- A group that has no operation under way waits for NTRIG of TSEM, as a SEM.WAIT of priority 0 with no timeout (R325).  Until its tenant
has the semaphore it cannot. -/
def groupWait (s : State) (k : Nat) : State :=
  match tabFind s.fab.groups k with
  | none => s
  | some g =>
    match tabFind s.jobs.sems g.tsem with
    | none => s
    | some m =>
      if jobTenant m.owner ≠ k / 256 ∨ g.taken ∨ g.run.isSome ∨ (m.waiters.any fun w => decide (w.group = some k)) then s else
      let w : SemWaiter := { jobid := 2 ^ 32, amount := g.ntrig, num := s.jobs.nextWait, group := some k }
      semGrant (setSem { s with jobs := { s.jobs with nextWait := s.jobs.nextWait + 1 } } g.tsem { m with waiters := m.waiters ++ [w] }) g.tsem

/-- A group waits no more. -/
def groupLeave (s : State) (k : Nat) : State :=
  { s with jobs := { s.jobs with sems := s.jobs.sems.map fun q => (q.1, { q.2 with waiters := q.2.waiters.filter fun w => decide (w.group ≠ some k) }) } }

/-- The group a block describes. -/
def groupOf (s : State) (b : Bytes) : Group :=
  { lo := fld b 4 16 0, hi := fld b 8 16 0, widths := dimWidths s, tsem := fld b 24 12 0, dsem := fld b 26 12 0
    ntrig := fieldAt b 28 4, ringva := fld b 32 56 0, log2n := fieldAt b 40 1 }

def execFabGroupCreate (r : CmdRef) (s : State) : Res :=
  runBlock s r 0x0B06 groupChecks fun s1 x b =>
    if !flg b 1 0 then s1 else
    let k := groupKey (cmdTenant x) (fieldAt b 0 1)
    if tabHas s1.fab.groups k ∧ x.done = 0 then complete s1 r stBusy 0 0 else
    let g := groupOf s1 b
    let rank := (rankOf g s1.fab.module).getD ((freeNow s1).toNat % 2 ^ 32)
    let s2 := if x.done = 0 then groupWait (freeTick { s1 with fab := { s1.fab with groups := tabPut s1.fab.groups k g } }) k else s1
    blockDone (modInfl s2 r fun y => { y with done := 1 }) { x with done := 1 } stOk 0 0 (leBytes 4 (groupSize g) ++ leBytes 4 rank)

def execFabGroupDestroy (r : CmdRef) (s : State) : Res :=
  runBlock s r 0x0B06 groupChecks fun s1 x b =>
    if flg b 1 0 then s1 else
    let k := groupKey (cmdTenant x) (fieldAt b 0 1)
    if !tabHas s1.fab.groups k ∧ x.done = 0 then complete s1 r stNotFound 0 0 else
    let s2 := serveSems (groupLeave { s1 with fab := { s1.fab with groups := tabDel s1.fab.groups k } } k)
    blockDone (modInfl s2 r fun y => { y with done := 1 }) { x with done := 1 } stOk 0 0 []

/-! ### Descriptors (Table 12.8) -/

def clOp (d : Bytes) : Nat := fieldAt d 0 1
def clMax (d : Bytes) : Bool := flg d 1 3
def clIfmt (d : Bytes) : Nat := fld d 1 2 1
def clOfmt (d : Bytes) : Nat := fld d 2 1 0
def clRoot (d : Bytes) : Nat := fieldAt d 4 4
def clCount (d : Bytes) : Nat := fieldAt d 8 8
def clSrc (d : Bytes) : Nat := fld d 16 56 0
def clDst (d : Bytes) : Nat := fld d 24 56 0
def clInc (d : Bytes) : Nat := fieldAt d 32 2

/-- Is a descriptor refused, for a group of n members? -/
def clBad (d : Bytes) (n : Nat) : Bool :=
  decide (clOp d = 0 ∨ 5 < clOp d ∨ fld d 1 7 4 ≠ 0 ∨ fld d 1 0 0 ≠ 0 ∨ clIfmt d = 3 ∨ clOfmt d = 3 ∨ fld d 2 7 2 ≠ 0 ∨ fieldAt d 3 1 ≠ 0)
    || decide (clOp d = 4 ∧ n ≤ clRoot d) || decide (clOp d = 2 ∧ clCount d % n ≠ 0) || decide (clInc d = 0)
    || decide (fld d 16 63 57 ≠ 0 ∨ fld d 24 63 57 ≠ 0 ∨ fieldAt d 36 4 ≠ 0) || !zeroBytes d 48 63

/-- Bytes of an element of an IFMT or OFMT. -/
def clSize (f : Nat) : Nat := if f = 0 then 5 else if f = 1 then 4 else 2

/-- Number format of an IFMT or OFMT. -/
def clFmt (f : Nat) : FFmt := if f = 0 then fmtC40 else if f = 1 then fmtFp32 else fmtBf16

/-- Elements of a byte string, widened to C40 (R326). -/
def clWiden (f : Nat) : Nat → Bytes → List Nat
  | 0, _ => []
  | n + 1, bs =>
    let w := leVal (bs.take (clSize f))
    (if f = 0 then w else fRound fmtC40 (fDecode (clFmt f) w)) :: clWiden f n (bs.drop (clSize f))

/-- Packed C40. -/
def clPack (xs : List Nat) : Bytes := xs.flatMap (leBytes 5)

/-- C40 values converted once to OFMT. -/
def clOut (f : Nat) (xs : List Nat) : Bytes :=
  xs.flatMap fun w => leBytes (clSize f) (if f = 0 then w else fRound (clFmt f) (fDecode fmtC40 w))

/-- Elements a member of rank r contributes. -/
def clPart (d : Bytes) (r : Nat) : Nat :=
  if clOp d = 5 ∨ (clOp d = 4 ∧ r ≠ clRoot d) then 0 else clCount d

/-! ### Combining (R326) -/

/-- Remove the i-th of a list. -/
def dropNth (xs : List Nat) (i : Nat) : List Nat := xs.take i ++ xs.drop (i + 1)

/-- Combine values in an unspecified order, the same at every member (log 21). -/
def combine (t g num el : Nat) (mx : Bool) : Nat → List Nat → Nat
  | 0, xs => xs.headD 0
  | n + 1, xs =>
    if xs.length ≤ 1 then xs.headD 0 else
    let q := Config.collPick t g num el n
    let i := q.1 % xs.length
    let ys := dropNth xs i
    let j := q.2 % ys.length
    let a := xs.getD i 0
    let b := ys.getD j 0
    let v := if mx then fRound fmtC40 (fMax (fDecode fmtC40 a) (fDecode fmtC40 b)) else c40Add a b
    combine t g num el mx n (v :: dropNth ys j)

/-- Bytes of a segment's payload at most (R304, R305). -/
def clSegment : Nat := 960000

/-- Segments of a contribution. -/
def clSegs (d : Bytes) (r : Nat) : Nat := max 1 (ceilDiv (5 * clPart d r) clSegment)

/-- Has every contribution arrived? -/
def clWhole (g : Group) (u : CollRun) : Bool :=
  (List.range (groupSize g)).all fun r => (List.range (clSegs u.d r)).all fun i => tabHas u.parts (r * 65536 + i)

/-- The contribution of a rank. -/
def clValues (u : CollRun) (r : Nat) : List Nat :=
  clWiden 0 (clPart u.d r) ((List.range (clSegs u.d r)).flatMap fun i => (tabGet u.parts (r * 65536 + i) []).take clSegment)

/-- The output bytes of this member. -/
def clResult (t gn : Nat) (g : Group) (u : CollRun) (rank : Nat) : Bytes :=
  let n := groupSize g
  let all := (List.range n).map (clValues u)
  let d := u.d
  let red (e : Nat) : Nat := combine t gn g.count e (clMax d) n (all.map fun v => v.getD e 0)
  match clOp d with
  | 1 => clOut (clOfmt d) ((List.range (clCount d)).map red)
  | 2 => clOut (clOfmt d) ((List.range (clCount d / n)).map fun i => red (rank * (clCount d / n) + i))
  | 3 => clOut (clOfmt d) all.flatten
  | 4 => clOut (clOfmt d) (all.getD (clRoot d) [])
  | _ => []

/-! ### Running (R325, R327) -/

/-- A COLL message of a group to a member (log 23). -/
def collMsg (t gn num seg dst : Nat) (abort : Bool) (data : Bytes) : FabMsg :=
  { op := 5, service := 3, tenant := t, dst := dst, addr := seg + bit01 abort * 2 ^ 32, arg := gn + num % 2 ^ 24 * 256, data := data }

/-- Ranks of the other members. -/
def otherRanks (s : State) (g : Group) : List Nat := (List.range (groupSize g)).filter fun r => decide (memberOf g r ≠ s.fab.module)

/-- Send to every other member. -/
def sendMembers (s : State) (g : Group) (f : Nat → List FabMsg) : State :=
  routeAll (((otherRanks s g).flatMap fun r => f (memberOf g r)).foldl sendMsg s)

/-- Offsets of a rank, given the group's extents. -/
def rankOffs : List Nat → Nat → List Nat
  | [], _ => []
  | e :: es, r => r % e :: rankOffs es (r / e)

/-- Rank of offsets. -/
def offsRank : List Nat → List Nat → Nat
  | e :: es, c :: cs => c + e * offsRank es cs
  | _, _ => 0

/-- The ranks to which member r passes the contribution of member o on, dimension by dimension in ascending order (R326; log 23): in a FULL
dimension directly to each coordinate, in a RING dimension to the next one round the ring, until it comes to the coordinate that it
started from.  Each member is passed each contribution once. -/
def relayTo (kinds : Nat) (es : List Nat) (o r : Nat) : List Nat :=
  let oc := rankOffs es o
  let rc := rankOffs es r
  let ds := (List.range es.length).filter fun d => decide (oc.getD d 0 ≠ rc.getD d 0)
  (List.range es.length).flatMap fun d =>
    let e := es.getD d 1
    let step := (rc.getD d 0 + 1) % e
    let cs : List Nat :=
      if ds.all fun x => decide (x < d) then (if e ≤ 1 then [] else if bitOf kinds d then [step] else (List.range e).filter (· ≠ rc.getD d 0))
      else if bitOf kinds d ∧ ds.getLast? = some d ∧ step ≠ oc.getD d 0 then [step] else []
    cs.map fun c => offsRank es (rc.set d c)

/-- Pass segments of a member's contribution on. -/
def relay (s : State) (t gn num : Nat) (g : Group) (segs : List (Nat × Bytes)) : State :=
  match rankOf g s.fab.module with
  | none => s
  | some r =>
    let es := (groupSpans g).map fun q => q.2 + 1 - q.1
    routeAll ((segs.flatMap fun q => (relayTo s.fab.kinds es (q.1 / 65536) r).map fun x => collMsg t gn num q.1 (memberOf g x) false q.2).foldl sendMsg s)

/-- A member ends its descriptor on an error that it finds: the others are told (R327). -/
def collAbort (s : State) (t gn status : Nat) : State :=
  let k := groupKey t gn
  match tabFind s.fab.groups k with
  | none => s
  | some g =>
    let s1 := modGroup s k fun x => { x with run := some { (x.run.getD {}) with bad := some status } }
    sendMembers s1 g fun m => [collMsg t gn g.count 0 m true []]

/-- A fault of a member's access: its record, with JOBID holding the group, then the abort (R327). -/
def collFault (s : State) (t gn kind acc cause page : Nat) : State :=
  collAbort (postFault s t { bytes := atlasRecord (merAt s (srcLink 0)) (srcLink 0) kind 0xFF gn acc page 0 0xFFFF 0 cause, holder := .group t gn }) t gn (faultStatus kind)

/-- A descriptor that fails a check: its record, on the descriptor's page; Table 7.7 has no kind for it and no rule gives its ACCESS and
CAUSE, which are free values (log 23).  Then the abort (R327). -/
def collRefuse (s : State) (t gn page : Nat) : State :=
  let v := (freeNow s).toNat
  let r := leBytes 8 (merAt s (srcLink 0)) ++ leBytes 2 (srcLink 0) ++ leBytes 1 v ++ leBytes 1 0xFF ++ leBytes 4 gn
    ++ leBytes 8 (v / 256 % 4 * 2 ^ 62 + page * 65536) ++ leBytes 2 stBadParam ++ leBytes 2 0 ++ leBytes 2 0xFFFF ++ leBytes 1 0 ++ leBytes 1 (v / 1024)
  collAbort (postFault (freeTick s) t { bytes := r, holder := .group t gn }) t gn stBadParam

/-- A member has its descriptor: what came early joins it, and its own contribution starts on its way to every member. -/
def collStart (s : State) (t gn : Nat) (g : Group) (d src : Bytes) : State :=
  let k := groupKey t gn
  let rank := (rankOf g s.fab.module).getD 0
  let data := clPack (clWiden (clIfmt d) (clPart d rank) src)
  let segs := (List.range (clSegs d rank)).map fun i => (i, (data.drop (i * clSegment)).take clSegment)
  let mine : Tab Bytes := segs.foldl (fun tb q => tabPut tb (rank * 65536 + q.1) q.2) []
  let parts := (g.early.filter fun e => decide (e.1 = g.count % 2 ^ 24)).foldl (fun tb e => tabPut tb e.2.1 e.2.2) mine
  let bad := if g.earlyAbort.contains (g.count % 2 ^ 24) then some stAborted else none
  let s1 := modGroup s k fun x => { x with
    run := some { d := d, parts := parts, bad := bad }
    early := x.early.filter fun e => decide (e.1 ≠ g.count % 2 ^ 24)
    earlyAbort := x.earlyAbort.filter (· ≠ g.count % 2 ^ 24) }
  relay s1 t gn g.count g (segs.map fun q => (rank * 65536 + q.1, q.2))

/-- Once NTRIG has been taken from TSEM the group reads its next descriptor, checks it, reads its input and sends it. -/
def execCollectiveTrigger (t g : Nat) (s : State) : Res :=
  let k := groupKey t g
  match tabFind s.fab.groups k with
  | none => .next s
  | some gr =>
    if gr.run.isSome then .next s else
    let s1 := groupWait s k
    if !((tabFind s1.fab.groups k).any fun x => x.taken) then .next s1 else
      let hub := unitLink 0
      match engRead s1 t hub (gr.ringva + 64 * (gr.count % 2 ^ gr.log2n)) 64 with
      | .wait s2 => .next s2
      | .fault sf kd c p => .next (collFault sf t g kd 0 c p)
      | .ok s2 d =>
        let rank := (rankOf gr s2.fab.module).getD 0
        if clBad d (groupSize gr) then .next (collRefuse (modGroup s2 k fun x => { x with run := some { d := d } }) t g (pageOf (gr.ringva + 64 * (gr.count % 2 ^ gr.log2n)))) else
        match engRead s2 t hub (clSrc d) (clPart d rank * clSize (clIfmt d)) with
        | .wait s3 => .next s3
        | .fault sf kd c p => .next (collFault (modGroup sf k fun x => { x with run := some { d := d } }) t g kd 0 c p)
        | .ok s3 src => .next (collStart s3 t g gr d src)

/-- The flits of a collective's message that came by a port are counted (Table 19.7). -/
def countColl (s : State) (q : RMsg) : State :=
  match q.inPort with
  | some p => countEvs s (srcLink (p / 8)) 0x0203 q.m.tenant (nFlits q.m)
  | none => s

/-- A segment or an abort of a member reaches the engine: it joins the operation, or waits for this member to begin it; a segment is
passed on. -/
def execCollReceive (s : State) : Res :=
  match inboxOf s 5 with
  | none => .next s
  | some q =>
    let s2 := countColl (police s q).1 q
    let num := q.m.arg / 256 % 2 ^ 24
    let seg := q.m.addr % 2 ^ 32
    let upd (x : Group) : Group :=
      if num = x.count % 2 ^ 24 ∧ x.run.isSome then
        match x.run with
        | some u =>
          if bitOf q.m.addr 32 then { x with run := some { u with bad := some (u.bad.getD stAborted) } }
          else { x with run := some { u with parts := tabPut u.parts seg q.m.data } }
        | none => x
      else if bitOf q.m.addr 32 then { x with earlyAbort := x.earlyAbort ++ [num] }
      else { x with early := x.early ++ [(num, seg, q.m.data)] }
    let s3 := modGroup s2 (groupKey q.m.tenant (q.m.arg % 256)) upd
    let s4 := match tabFind s2.fab.groups (groupKey q.m.tenant (q.m.arg % 256)) with
      | some g => if bitOf q.m.addr 32 then s3 else relay s3 q.m.tenant (q.m.arg % 256) num g [(seg, q.m.data)]
      | none => s3
    .next (doneMsg s4 q)

/-- Has a member been lost to service 3 (R327, R328)? -/
def collLost (s : State) (g : Group) : Bool :=
  svcFenced s 3 || (otherRanks s g).any fun r => !bitOf (reachOf s (memberOf g r)) 3

/-- The status with which an operation can end now: an error, ABORTED for a lost member, or OK with its output. -/
def collEnd (s : State) (g : Group) (u : CollRun) : Option Nat :=
  match u.bad with
  | some st => some st
  | none => if collLost s g then some stAborted else if clWhole g u then some stOk else none

/-- Bytes of the output of a descriptor that passes its checks. -/
def clOutLen (d : Bytes) (n : Nat) : Nat :=
  if clBad d n then 0 else
  let k := match clOp d with | 1 => clCount d | 2 => clCount d / n | 3 => clCount d * n | 4 => clCount d | _ => 0
  k * clSize (clOfmt d)

/-- DSTVA is undefined after an operation that has not ended OK (R327): free values on those of its pages that can be written. -/
def clobber (s : State) (t va n : Nat) : State :=
  (pageParts va n).foldl (fun st q =>
    match engReady st t (unitLink 0) .write [pageOf q.1] with
    | .ready => hubWrite { st with freeCtr := st.freeCtr + q.2 } t q.1 ((List.range q.2).map fun i => (Config.freeValue (st.freeCtr + i)).setWidth 8)
    | _ => st) s

/-- STATUS and DONET are written, DSEM is signalled, and the group goes on with its next descriptor. -/
def collFinish (s : State) (t gn : Nat) (g : Group) (u : CollRun) (status : Nat) : State :=
  let va := g.ringva + 64 * (g.count % 2 ^ g.log2n)
  let close (st : State) : State :=
    let s1 := modGroup st (groupKey t gn) fun x => { x with count := x.count + 1, taken := false, run := none }
    groupWait (match tabFind s1.jobs.sems g.dsem with
    | some m =>
      if jobTenant m.owner = t ∧ clInc u.d ≠ 0 ∧ m.count + clInc u.d < 2 ^ 32 ∧ !m.lock then semAdd s1 g.dsem (clInc u.d) else s1
    | none => s1) (groupKey t gn)
  match engWrite s t (unitLink 0) (va + 34) (leBytes 2 status) with
  | .wait s1 => s1
  | .fault _ _ _ _ => close s
  | .ok s1 _ =>
    match engWrite s1 t (unitLink 0) (va + 40) (leBytes 8 (merAt s1 (srcLink 0))) with
    | .ok s2 _ => close s2
    | .wait s2 => s2
    | .fault _ _ _ _ => close s1

/-- A descriptor ends (R325, R327). -/
def execCollectiveDone (t g : Nat) (s : State) : Res :=
  match tabFind s.fab.groups (groupKey t g) with
  | none => .next s
  | some gr =>
    match gr.run with
    | none => .next s
    | some u =>
      if (ctxAt s t).waiting.any fun w => decide (w.holder = .group t g) then .next s else
      match collEnd s gr u with
      | none => .next s
      | some st =>
        if st ≠ stOk then .next (collFinish (clobber s t (clDst u.d) (clOutLen u.d (groupSize gr))) t g gr u st) else
        match engWrite s t (unitLink 0) (clDst u.d) (clResult t g gr u ((rankOf gr s.fab.module).getD 0)) with
        | .wait s1 => .next s1
        | .fault sf kd c p => .next (collFault sf t g kd 1 c p)
        | .ok s1 _ => .next (collFinish s1 t g gr u stOk)

end Sys2Proof.Machine
end

