-- ==== Sys2Proof/Machine/NvmeOps.lean ====
section
/-! DEFINITION. The NVMe controller of PF1: queues, arbitration, completions, events, range locks, host data (R416, R417, R421 to
R425, R430; what R416 takes from the NVM Express specifications: log 11). -/

namespace Sys2Proof.Machine

/-! ### Statuses: Status Code Type * 256 + Status Code -/

def nvBadOp : Nat := 0x01
def nvBadField : Nat := 0x02
def nvXfer : Nat := 0x04
def nvAborted : Nat := 0x07
def nvBadNs : Nat := 0x0B
def nvSequence : Nat := 0x0C
def nvPrpOff : Nat := 0x13
def nvWriteProt : Nat := 0x20
def nvLbaRange : Nat := 0x80
def nvCqBad : Nat := 0x100
def nvQidBad : Nat := 0x101
def nvQSize : Nat := 0x102
def nvAerLimit : Nat := 0x105
def nvVecBad : Nat := 0x108
def nvLogBad : Nat := 0x109
def nvFmtBad : Nat := 0x10A
def nvQDel : Nat := 0x10C
def nvNoSave : Nat := 0x10D
def nvNoCap : Nat := 0x115
def nvNoNsid : Nat := 0x116
def nvAttached : Nat := 0x118
def nvNotAttached : Nat := 0x11A
def nvThin : Nat := 0x11B
def nvCtrlList : Nat := 0x11C
def nvReadErr : Nat := 0x281
def nvDenied : Nat := 0x286

/-! ### Queues and features -/

def ioSqAt (s : State) (q : Nat) : Option NvSq := tabFind s.store.sqs q
def ioCqAt (s : State) (q : Nat) : Option NvCq := tabFind s.store.cqs q

/-- A power state as R465 lets the flash take it: no higher power than PS1 while the governor holds it there. -/
def heldPs (s : State) (p : Nat) : Nat := if s.power.flashHeld ∧ p = 0 then 1 else p

/-- A feature's value: identifier and selector (CDW11 bits that choose among its values), with its default. -/
def featAt (s : State) (fid sub : Nat) : Nat :=
  tabGet s.store.feats (fid * 65536 + sub) (match fid with
    | 4 => if sub / 16 % 4 = 0 then 348 else 0
    | 6 => 1
    | 7 => 127 + 127 * 65536
    | _ => 0)

/-- Set it. -/
def setFeat (s : State) (fid sub v : Nat) : State :=
  modStore s fun x => { x with feats := tabPut x.feats (fid * 65536 + sub) v }

/-- Memory page size that CC.MPS selects. -/
def nvPage (s : State) : Nat := 2 ^ (12 + bitsOf s.store.cc 10 7)

/-- Does PF1 present its namespaces in the life-cycle state (Table 18.4)? -/
def nsShown (s : State) : Bool := decide (s.ctl.lifecycle ≠ 3)

/-- Is a completion queue full? -/
def cqFull (q : NvCq) : Bool := decide ((q.tail + 1) % max 1 q.size = q.head)

/-- Has the completion queue of a submission queue room? -/
def nvRoom (s : State) (sq : Nat) : Bool :=
  match ioSqAt s sq with
  | some q => match ioCqAt s q.cq with
    | some c => !cqFull c
    | none => false
  | none => false

/-- Raise the interrupt of a completion queue, coalesced as the Interrupt Coalescing feature asks: an event for each completion
held back is counted into one message. -/
def nvIrq (s : State) (n : Nat) : State :=
  match ioCqAt s n with
  | none => s
  | some c =>
    if !c.ien then s else
    let f := featAt s 8 0
    let off := n = 0 ∨ f % 256 = 0 ∨ f / 256 % 256 = 0 ∨ bitOf (featAt s 9 c.vector) 16
    if off then msixEvent s 64 c.vector else
    let held := c.held + 1
    if f % 256 + 1 ≤ held then
      msixEvent (modStore s fun v => { v with cqs := tabPut v.cqs n { c with held := 0 } }) 64 c.vector
    else
      modStore s fun v => { v with cqs := tabPut v.cqs n { c with held := held, heldAt := if c.held = 0 then s.clk.ticks else c.heldAt } }

/-- Is an I/O command outstanding? -/
def nvBusy (s : State) : Bool := s.store.cmds.any fun c => decide (c.sq ≠ 0)

/-- Controller Busy Time stops where no I/O command is outstanding any more (R430). -/
def busyStop (s : State) : State :=
  match s.store.busySince with
  | some t => if nvBusy s then s else modStore s fun v => { v with busySince := none, busyTicks := v.busyTicks + (s.clk.ticks - t) }
  | none => s

/-- Forget the reads that wait at the channels for a command. -/
def dropChanOps (s : State) (p : ChanOp → Bool) : State :=
  modStore s fun v => { v with chans := v.chans.map fun q => (q.1, { q.2 with ops := q.2.ops.filter fun o => !p o.2 }) }

/-- Is a read for an NVMe command? -/
def isNvOp (sq cid : Nat) : ChanOp → Bool
  | .nvme a b _ => decide (a = sq ∧ b = cid)
  | .dma _ _ => false

/-- Write a completion queue entry and raise its interrupt. -/
def nvEntry (s : State) (sq cid status dw0 : Nat) : State :=
  match ioSqAt s sq with
  | none => s
  | some q =>
    match ioCqAt s q.cq with
    | none => s
    | some c =>
      let e := leBytes 4 dw0 ++ leBytes 4 0 ++ leBytes 2 q.head ++ leBytes 2 sq ++ leBytes 2 cid ++
        leBytes 2 (bit01 c.phase + status % 256 * 2 + status / 256 % 8 * 512)
      let s1 := hostPutS s (ownNv sq cid) 64 0 0 (c.base + 16 * c.tail) e
      let t := (c.tail + 1) % max 1 c.size
      nvIrq (modStore s1 fun v => { v with
        cqs := tabPut v.cqs q.cq { c with tail := t, phase := if t = 0 then !c.phase else c.phase } }) q.cq

/-- Complete a command: its entry, the error log, and what the health log counts. -/
def nvDone (s : State) (c : NvCmd) (status dw0 : Nat) : State :=
  let s1 := dropChanOps (modStore s fun v => { v with
    cmds := v.cmds.filter fun x => decide ¬(x.sq = c.sq ∧ x.cid = c.cid),
    lastIo := if c.sq = 0 then v.lastIo else s.clk.ticks,
    errCount := if status = 0 then v.errCount else v.errCount + 1,
    errs := if status = 0 then v.errs else
      ({ count := v.errCount + 1, sq := c.sq, cid := c.cid, status := status % 256 * 2 + status / 256 % 8 * 512,
         lba := fieldAt c.e 40 8, nsid := fieldAt c.e 4 4 } :: v.errs).take 64 }) (isNvOp c.sq c.cid)
  nvEntry (busyStop { s1 with host := { s1.host with reads := s1.host.reads.filter (· ≠ .nvme c.sq c.cid) } }) c.sq c.cid status dw0

/-! ### Asynchronous events -/

/-- Hand queued events to outstanding Asynchronous Event Requests. -/
def nvDeliver : Nat → State → State
  | 0, s => s
  | fuel + 1, s =>
    match s.store.aers, s.store.events.find? (fun e => !s.store.evMasked.contains e.1) with
    | cid :: rest, some e =>
      if !nvRoom s 0 then s else
      let s1 := modStore s fun v => { v with aers := rest, events := v.events.erase e, evMasked := e.1 :: v.evMasked }
      nvDeliver fuel (nvEntry s1 0 cid 0 (e.1 + e.2.1 * 256 + e.2.2 * 65536))
    | _, _ => s

/-- An asynchronous event: type, information, log page.  One that already waits is not queued again. -/
def nvEvent (s : State) (e : Nat × Nat × Nat) : State :=
  if !bitOf s.store.csts 0 ∨ s.store.events.contains e then s
  else nvDeliver 8 (modStore s fun v => { v with events := v.events ++ [e] })

/-- Critical Warning (Table 17.8). -/
def critWarn (s : State) : Nat :=
  let under := featAt s 4 16
  bit01 (decide (availSpare s < 10)) + 2 * bit01 (decide (featAt s 4 0 ≤ s.store.temp) || decide (s.store.temp ≤ under ∧ under ≠ 0)) +
    4 * bit01 (decide (s.enChans ≠ BitVec.allOnes 40)) + 8 * bit01 (spareOut s)

/-- Bits of Critical Warning that have set post an event, where Asynchronous Event Configuration lets them. -/
def critNote (before s : State) : State :=
  let newly := (List.range 4).filter fun i => bitOf (critWarn s) i && !bitOf (critWarn before) i && bitOf (featAt s 0x0B 0) i
  newly.foldl (fun st i => nvEvent st (1, if i = 0 then 2 else if i = 1 then 1 else 0, 2)) s

/-! ### Arbitration (R417) -/

/-- Has a submission queue an entry to be fetched? -/
def sqHas (q : NvSq) : Bool := decide (q.head ≠ q.tail)

/-- The next of some queues in turn: the one in its burst, else the next after it in cyclic order. -/
def rrNext (turn burst : Nat) (qs : List Nat) : Option (Nat × Bool) :=
  if burst ≠ 0 ∧ qs.contains turn then some (turn, false)
  else match qs.find? fun q => decide (turn < q) with
    | some q => some (q, true)
    | none => qs.head?.map fun q => (q, true)

/-- Weighted class of a queue priority: 0 high, 1 medium, 2 low. -/
def wrrLeft (c : Nat × Nat × Nat) : Nat → Nat
  | 1 => c.1
  | 2 => c.2.1
  | _ => c.2.2

/-- One command fewer of a weighted class. -/
def wrrTake (c : Nat × Nat × Nat) : Nat → Nat × Nat × Nat
  | 1 => (c.1 - 1, c.2)
  | 2 => (c.1, c.2.1 - 1, c.2.2)
  | _ => (c.1, c.2.1, c.2.2 - 1)

/-- The submission queue from which the controller takes its next command, and the arbiter after it. -/
def nvPick (s : State) : Option (Nat × Store) :=
  let v := s.store
  let arb := featAt s 1 0
  let limit := if arb % 8 = 7 then 65536 else 2 ^ (arb % 8)
  let busy (p : Nat × NvSq → Bool) : List Nat := (v.sqs.filter fun q => sqHas q.2 && p q).map (·.1)
  let go (qs : List Nat) (c : Nat × Nat × Nat) : Option (Nat × Store) :=
    (rrNext v.turn v.burst qs).map fun r =>
      (r.1, { v with turn := r.1, burst := (if r.2 then limit else v.burst) - 1, credit := c })
  if bitsOf v.cc 13 11 ≠ 1 then go (busy fun _ => true) v.credit else
  let admin := busy fun q => decide (q.1 = 0)
  if admin ≠ [] then go admin v.credit else
  let urgent := busy fun q => decide (q.2.prio = 0)
  if urgent ≠ [] then go urgent v.credit else
  let cls (c : Nat × Nat × Nat) : Option Nat := [1, 2, 3].find? fun p => decide (busy (fun q => decide (q.2.prio = p)) ≠ [] ∧ wrrLeft c p ≠ 0)
  let full := (arb / 2 ^ 24 % 256 + 1, arb / 2 ^ 16 % 256 + 1, arb / 2 ^ 8 % 256 + 1)
  match cls v.credit with
  | some p => go (busy fun q => decide (q.2.prio = p)) (wrrTake v.credit p)
  | none => match cls full with
    | some p => go (busy fun q => decide (q.2.prio = p)) (wrrTake full p)
    | none => none

/-- Scheduler class of a queue's reads at the channels (R417). -/
def nvClass (s : State) (sq : Nat) : ChanClass :=
  if sq = 0 then .urgent
  else if bitsOf s.store.cc 13 11 ≠ 1 then .medium
  else match ioSqAt s sq with
    | some q => match q.prio with | 0 => .urgent | 1 => .high | 2 => .medium | _ => .low
    | none => .medium

/-- Can PF1 work: its function is READY and its controller ready, not shutting down? -/
def nvUp (s : State) : Bool := (funcAt s 64).ready && bitOf s.store.csts 0 && !s.ctl.recovery

/-- The command that a row runs: one taken before, or the entry of the queue that arbitration chooses, taken now.  An I/O
command brings the flash out of a state that is not operational (R424). -/
def nvTake (s : State) (sq cid : Nat) (entry : Bytes) : Option (State × NvCmd) :=
  if !nvUp s then none else
  match s.store.cmds.find? fun c => decide (c.sq = sq ∧ c.cid = cid) with
  | some c => some (s, c)
  | none =>
    match nvPick s with
    | none => none
    | some (q, v) =>
      let e := padTo 64 entry
      if q ≠ sq ∨ fieldAt e 2 2 ≠ cid then none else
      let c : NvCmd := { sq := sq, cid := cid, e := e }
      let s1 := { s with store := { v with
        sqs := tabUpd v.sqs sq fun x => { x with head := (x.head + 1) % max 1 x.size }
        cmds := v.cmds ++ [c]
        busySince := if sq ≠ 0 ∧ v.busySince = none then some s.clk.ticks else v.busySince
        psNow := if sq ≠ 0 ∧ v.psNow = 2 ∧ s.power.stage ≠ 4 then heldPs s (if v.ps = 2 then 0 else v.ps) else v.psNow } }
      some (s1, c)

/-- Change a command taken. -/
def modNv (s : State) (c : NvCmd) (f : NvCmd → NvCmd) : State :=
  modStore s fun v => { v with cmds := v.cmds.map fun x => if x.sq = c.sq ∧ x.cid = c.cid then f x else x }

/-- Fields of a submission entry. -/
def nvNsid (c : NvCmd) : Nat := fieldAt c.e 4 4
def cdw (c : NvCmd) (n : Nat) : Nat := fieldAt c.e (4 * n) 4

/-- Run a row: the command with its queue and identifier, of its opcode and kind of queue, when its completion has room.  In
thermal stage 4 the flash is in PS2 and I/O waits (R425). -/
def nvRow (s : State) (sq cid : Nat) (entry : Bytes) (admin : Bool) (op : Nat) (body : State → NvCmd → State) : Res :=
  match nvTake s sq cid entry with
  | none => .next s
  | some (s1, c) =>
    if decide (sq = 0) ≠ admin ∨ byteAt c.e 0 ≠ op ∨ !nvRoom s1 sq ∨ (!admin ∧ s1.power.stage = 4) then .next s
    else if c.aborted then .next (nvDone s1 c nvAborted 0)
    else if c.xfer then .next (nvDone s1 c nvXfer 0)
    else if bitsOf (byteAt c.e 1) 1 0 ≠ 0 ∨ bitsOf (byteAt c.e 1) 7 6 ≠ 0 then .next (nvDone s1 c nvBadField 0)
    else .next (body s1 c)

/-! ### Host data (PRP) -/

/-- The pages of a transfer of n bytes by PRP1, PRP2 and the list: address and bytes of each part. -/
def prpParts (pg : Nat) (c : NvCmd) (n : Nat) : List (Nat × Nat) :=
  let a := fieldAt c.e 24 8
  let first := min n (pg - a % pg)
  let rest := n - first
  let pages := ceilDiv rest pg
  let list := c.prps.getD []
  (a, first) :: (List.range pages).map fun i =>
    (if pages = 1 then fieldAt c.e 32 8 else fieldAt list (8 * i) 8, min pg (rest - i * pg))

/-- Does a transfer need a PRP list? -/
def prpList (pg : Nat) (c : NvCmd) (n : Nat) : Bool :=
  let a := fieldAt c.e 24 8
  decide (1 < ceilDiv (n - min n (pg - a % pg)) pg)

/-- Is an offset in a PRP entry after the first? -/
def prpBad (pg : Nat) (c : NvCmd) (n : Nat) : Bool :=
  decide (fieldAt c.e 24 8 % 4 ≠ 0) || ((prpParts pg c n).drop 1).any fun q => decide (q.1 % pg ≠ 0)

/-- Ask the host for the PRP list, or else the data, of a command. -/
def nvAsk (s : State) (c : NvCmd) (list : Bool) : State :=
  if s.host.reads.contains (.nvme c.sq c.cid) then s
  else addRead (modNv s c fun x => { x with askList := list }) 0 7 (.nvme c.sq c.cid)

/-- Write data to the parts of a command's host buffer. -/
def nvWrite (s : State) (c : NvCmd) (bs : Bytes) : State :=
  ((prpParts (nvPage s) c bs.length).foldl (fun (a : State × Bytes) q =>
    (hostPutS a.1 (ownNv c.sq c.cid) 64 0 7 q.1 (a.2.take q.2), a.2.drop q.2)) (s, bs)).1

/-- Write data to a command's host buffer, then go on: first the PRP list is read where one is needed. -/
def nvPut (s : State) (c : NvCmd) (bs : Bytes) (done : State → State) : State :=
  let pg := nvPage s
  if prpList pg c bs.length ∧ c.prps = none then nvAsk s c true
  else if prpBad pg c bs.length then nvDone s c nvPrpOff 0
  else done (nvWrite s c bs)

/-- Read n bytes of a command's host buffer. -/
def nvGet (s : State) (c : NvCmd) (n : Nat) (k : State → Bytes → State) : State :=
  let pg := nvPage s
  if prpList pg c n ∧ c.prps = none then nvAsk s c true
  else if prpBad pg c n then nvDone s c nvPrpOff 0
  else match c.hdata with
    | none => nvAsk s c false
    | some d => k s (padTo n d)

/-- Host data of a command arrive: first the PRP list, where its opcode and length need one, then the data (R373). -/
def nvArrive (s : State) (sq cid code : Nat) (data : Bytes) : State :=
  match s.store.cmds.find? fun c => decide (c.sq = sq ∧ c.cid = cid) with
  | none => s
  | some c =>
    if code ≠ 0 then modNv s c fun x => { x with xfer := true }
    else if c.askList then modNv s c fun x => { x with prps := some data, askList := false }
    else modNv s c fun x => { x with hdata := some data }

/-! ### Range locks (R421 to R423) -/

/-- Do two ranges, first and length, overlap? -/
def rangesHit (a b : Nat × Nat) : Bool := decide (a.1 < b.1 + b.2 ∧ b.1 < a.1 + a.2)

/-- Does a lock block an access of a kind to a range (R422)? -/
def lockHits (l : RLock) (nsid lba n : Nat) (writes : Bool) : Bool :=
  l.active && decide (l.nsid = nsid) && (l.excl || writes) && rangesHit (l.slba, l.nlb) (lba, n)

/-- Is a held command of the same queue before this one? -/
def heldBefore (s : State) (c : NvCmd) : Bool :=
  (s.store.cmds.takeWhile fun x => !(decide (x.sq = c.sq ∧ x.cid = c.cid))).any fun x => decide (x.sq = c.sq) && x.held && !x.started

/-- Start a command against the LBAs it touches: a blocking lock holds or denies it, else it is executing (R422). -/
def nvStart (s : State) (c : NvCmd) (ranges : List (Nat × Nat × Nat)) (writes : Bool) (k : State → NvCmd → State) : State :=
  if c.started then k s c else
  let hits := s.store.locks.filter fun l => ranges.any fun r => lockHits l.2 r.1 r.2.1 r.2.2 writes
  let counted := if c.held then s else modStore s fun v => { v with lockHolds := satAdd 64 v.lockHolds 1 }
  if hits.any (fun l => l.2.deny) then nvDone counted c nvDenied 0
  else if hits ≠ [] ∨ (c.held ∧ heldBefore s c) then modNv counted c fun x => { x with held := true }
  else k (modNv s c fun x => { x with started := true }) { c with started := true }

/-- The LBAs a command that executes touches, by its opcode, as the lock table sees them. -/
def nvRanges (s : State) (c : NvCmd) : List (Nat × Nat × Nat) :=
  let whole (n : Nat) : List (Nat × Nat × Nat) := (s.store.nss.filter fun q => decide (n = 0xFFFFFFFF ∨ q.1 = n)).map fun q => (q.1, 0, q.2.nsze)
  if c.sq = 0 then
    match byteAt c.e 0 with
    | 0x80 => whole (nvNsid c)
    | 0x84 => whole 0xFFFFFFFF
    | _ => []
  else match byteAt c.e 0 with
    | 0x01 | 0x02 | 0x08 => [(nvNsid c, fieldAt c.e 40 8, cdw c 12 % 65536 + 1)]
    | 0x09 => (List.range (cdw c 10 % 256 + 1)).map fun i =>
        (nvNsid c, fieldAt (c.hdata.getD []) (16 * i + 8) 8, fieldAt (c.hdata.getD []) (16 * i + 4) 4)
    | _ => []

/-- Does an executing command of PF1 overlap a lock (R422)? -/
def lockBusy (s : State) (l : RLock) : Bool :=
  s.store.cmds.any fun c => c.started && (nvRanges s c).any fun r =>
    decide (r.1 = l.nsid) && rangesHit (r.2.1, r.2.2) (l.slba, l.nlb)

/-- Release a lock entry. -/
def freeLock (s : State) (i : Nat) : State := modStore s fun v => { v with locks := tabDel v.locks i }

/-! ### Controller reset and start -/

/-- The controller is disabled: queues, commands, events and unsaved features are gone; the write buffer and the locks stay
(R416, R419, R423). -/
def nvCtlReset (s : State) : State :=
  let s1 := busyStop (modStore s fun v => { v with
    sqs := [], cqs := [], cmds := [], aers := [], events := [], evMasked := [], feats := [], apst := [],
    turn := 0, burst := 0, credit := (0, 0, 0), csts := 0, ps := 0, psNow := if s.power.stage = 4 then 2 else heldPs s 0,
    chans := v.chans.map fun q => (q.1, { q.2 with ops := q.2.ops.filter fun o =>
      match o.2 with | .nvme _ _ _ => false | .dma _ _ => true }) })
  { s1 with host := { s1.host with reads := s1.host.reads.filter fun x => match x with | .nvme _ _ => false | _ => true } }

/-- A reset of the function clears its registers too. -/
def nvReset (s : State) : State :=
  modStore (nvCtlReset s) fun v => { v with cc := 0, aqa := 0, asq := 0, acq := 0, intm := 0 }

/-- CC.EN rises: the admin queues are as AQA, ASQ and ACQ say, and CSTS.RDY sets; a setting the controller does not support
is a fatal status. -/
def nvEnable (s : State) : State :=
  let v := s.store
  if 4 < bitsOf v.cc 10 7 ∨ 1 < bitsOf v.cc 13 11 ∨ bitsOf v.cc 6 4 ≠ 0 then modStore s fun x => { x with csts := 2 } else
  modStore s fun x => { x with
    csts := 1
    sqs := [(0, { base := x.asq, size := bitsOf x.aqa 11 0 + 1, cq := 0, prio := 0 })]
    cqs := [(0, { base := x.acq, size := bitsOf x.aqa 27 16 + 1, vector := 0, ien := true })] }

/-- A shutdown notification goes on: shutdown is complete once every buffered write is durable (R418). -/
def nvShutdown (s : State) : State :=
  if bitsOf s.store.cc 15 14 = 0 then s else
  let st := if s.store.wb = [] then 2 else 1
  modStore s fun v => { v with csts := v.csts % 4 + st * 4 }

/-- A write of CC. -/
def writeCc (s : State) (value : Nat) : State :=
  let was := bitOf s.store.cc 0
  let s1 := modStore s fun v => { v with cc := value % 2 ^ 24 }
  let s2 := if bitOf value 0 ∧ !was then nvEnable s1 else if !bitOf value 0 ∧ was then modStore (nvCtlReset s1) fun v => { v with cc := value % 2 ^ 24 } else s1
  nvShutdown s2

end Sys2Proof.Machine
end

