-- ==== Sys2Proof/Machine/NvmeCmds.lean ====
section
/-! DEFINITION. The admin commands of PF1's NVMe controller (R413, R415, R416, R422, R424, R425, R430, R431, R457; encodings and
statuses of the NVM Express specifications that R416 names: log 11). -/

namespace Sys2Proof.Machine

/-! ### Queues -/

def execNvmeCreateIoCq (sq cid : Nat) (entry : Bytes) (s : State) : Res :=
  nvRow s sq cid entry true 0x05 fun s1 c =>
    let q := cdw c 10 % 65536
    let size := cdw c 10 / 65536 + 1
    let iv := cdw c 11 / 65536
    if q = 0 ∨ 128 < q ∨ (ioCqAt s1 q).isSome then nvDone s1 c nvQidBad 0
    else if size < 2 then nvDone s1 c nvQSize 0
    else if cdw c 11 % 2 = 0 then nvDone s1 c nvBadField 0
    else if 128 < iv then nvDone s1 c nvVecBad 0
    else if fieldAt c.e 24 8 % nvPage s1 ≠ 0 then nvDone s1 c nvPrpOff 0
    else nvDone (modStore s1 fun v => { v with
      cqs := tabPut v.cqs q { base := fieldAt c.e 24 8, size := size, vector := iv, ien := bitOf (cdw c 11) 1 } }) c 0 0

def execNvmeCreateIoSq (sq cid : Nat) (entry : Bytes) (s : State) : Res :=
  nvRow s sq cid entry true 0x01 fun s1 c =>
    let q := cdw c 10 % 65536
    let size := cdw c 10 / 65536 + 1
    let cq := cdw c 11 / 65536
    if q = 0 ∨ 128 < q ∨ (ioSqAt s1 q).isSome then nvDone s1 c nvQidBad 0
    else if size < 2 then nvDone s1 c nvQSize 0
    else if cdw c 11 % 2 = 0 then nvDone s1 c nvBadField 0
    else if cq = 0 ∨ (ioCqAt s1 cq).isNone then nvDone s1 c nvCqBad 0
    else if fieldAt c.e 24 8 % nvPage s1 ≠ 0 then nvDone s1 c nvPrpOff 0
    else nvDone (modStore s1 fun v => { v with
      sqs := tabPut v.sqs q { base := fieldAt c.e 24 8, size := size, cq := cq, prio := bitsOf (cdw c 11) 2 1 } }) c 0 0

/-- A deleted submission queue's commands are gone without a completion. -/
def execNvmeDeleteIoSq (sq cid : Nat) (entry : Bytes) (s : State) : Res :=
  nvRow s sq cid entry true 0x00 fun s1 c =>
    let q := cdw c 10 % 65536
    if q = 0 ∨ (ioSqAt s1 q).isNone then nvDone s1 c nvQidBad 0
    else
      let s2 := dropChanOps (modStore s1 fun v => { v with sqs := tabDel v.sqs q, cmds := v.cmds.filter fun x => decide (x.sq ≠ q) })
        fun o => match o with | .nvme a _ _ => decide (a = q) | .dma _ _ => false
      nvDone { s2 with host := { s2.host with reads := s2.host.reads.filter fun x =>
        match x with | .nvme a _ => decide (a ≠ q) | _ => true } } c 0 0

def execNvmeDeleteIoCq (sq cid : Nat) (entry : Bytes) (s : State) : Res :=
  nvRow s sq cid entry true 0x04 fun s1 c =>
    let q := cdw c 10 % 65536
    if q = 0 ∨ (ioCqAt s1 q).isNone then nvDone s1 c nvQidBad 0
    else if s1.store.sqs.any (fun x => decide (x.2.cq = q)) then nvDone s1 c nvQDel 0
    else nvDone (modStore s1 fun v => { v with cqs := tabDel v.cqs q }) c 0 0

/-! ### Identify -/

/-- Lay fields over zero bytes: offset and bytes. -/
def layOut (n : Nat) (fs : List (Nat × Bytes)) : Bytes :=
  fs.foldl (fun bs q => (bs.take q.1 ++ q.2 ++ bs.drop (q.1 + q.2.length)).take n) (List.replicate n 0)

/-- Identify Namespace data (CNS 0x00, 0x11); `none`: what holds for every namespace. -/
def idNs (n : Option Ns) : Bytes :=
  let lba := match n with | some x => lbaBytes x | none => 512
  let size := match n with | some x => x.nsze | none => 0
  layOut 4096 [(0, leBytes 8 size), (8, leBytes 8 size), (16, leBytes 8 size), (24, [0x10]), (25, [1]),
    (26, [BitVec.ofNat 8 (bit01 (decide (lba = 4096)))]), (33, [1]), (48, leBytes 16 (size * lba)),
    (64, leBytes 2 (4096 / lba - 1)), (72, leBytes 2 (4096 / lba - 1)), (128, leBytes 4 (9 * 65536 + 2 ^ 25)), (132, leBytes 4 (12 * 65536))]

/-- A power state descriptor (Table 17.6): hundredths of a watt, latencies in µs. -/
def psDesc (mp : Nat) (nonOp : Bool) (ent ext : Nat) : Bytes :=
  layOut 32 [(0, leBytes 2 mp), (3, [BitVec.ofNat 8 (2 * bit01 nonOp)]), (4, leBytes 4 ent), (8, leBytes 4 ext)]

/-- Identify Controller data (CNS 0x01): what Table 17.3 fixes; the maker's own bytes are free. -/
def idCtrl (s : State) : Bytes :=
  let cap := usableFlash - s.atlas.t4Pool * 4096
  layOut 4096 [(0, (List.range 77).map Config.nvmeIdent), (77, [9]), (78, leBytes 2 0), (80, leBytes 4 0x00020000),
    (84, (List.range 8).map fun i => Config.nvmeIdent (84 + i)), (111, [1]), (256, leBytes 2 0x000A),
    (258, [Config.nvmeIdent 258]), (259, [7]), (260, [0x05]), (261, [0x02]), (262, [63]), (263, [2]), (265, [1]),
    (266, leBytes 2 348), (268, leBytes 2 358), (280, leBytes 16 cap), (296, leBytes 16 (cap - nsCap s)), (328, leBytes 4 3),
    (512, [0x66]), (513, [0x44]), (514, leBytes 2 0), (516, leBytes 4 32), (520, leBytes 2 0x004C), (525, [0x07]),
    (2048, psDesc 12000 false 0 0), (2080, psDesc 7500 false 50 50), (2112, psDesc 800 true 2000 5000)]

/-- A list of namespace identifiers above one. -/
def nsList (s : State) (above : Nat) (all : Bool) : Bytes :=
  padTo 4096 ((s.store.nss.filter fun q => decide (above < q.1) && (all || q.2.attached)).flatMap fun q => leBytes 4 q.1)

/-- Namespaces as PF1 presents them. -/
def nsSeen (s : State) (n : Nat) : Option Ns := if nsShown s then nsAt s n else none

/-- What Identify answers: the data structure of its CNS, or the status that refuses it (Table 17.3). -/
def idData (s1 : State) (c : NvCmd) : Except Nat Bytes :=
  let n := nvNsid c
  let bad := n = 0 ∨ (32 < n ∧ n ≠ 0xFFFFFFFF)
  let shown := if nsShown s1 then s1 else modStore s1 fun v => { v with nss := [] }
  match cdw c 10 % 256 with
  | 0x00 =>
    if bad then .error nvBadNs
    else if n = 0xFFFFFFFF then .ok (idNs none)
    else match nsSeen s1 n with
      | some x => if x.attached then .ok (idNs (some x)) else .ok (List.replicate 4096 0)
      | none => .ok (List.replicate 4096 0)
  | 0x01 => .ok (idCtrl s1)
  | 0x02 => if 0xFFFFFFFD < n then .error nvBadNs else .ok (nsList shown n false)
  | 0x03 =>
    match nsSeen s1 n with
    | some x => if x.attached then .ok (layOut 4096 [(0, [4]), (1, [1])]) else .error nvBadField
    | none => .error (if bad ∨ n = 0xFFFFFFFF then nvBadNs else nvBadField)
  | 0x06 => if cdw c 11 / 2 ^ 24 % 256 ≠ 0 then .error nvBadField else .ok (List.replicate 4096 0)
  | 0x10 => if 0xFFFFFFFD < n then .error nvBadNs else .ok (nsList shown n true)
  | 0x11 =>
    if bad ∨ n = 0xFFFFFFFF then .error nvBadNs
    else match nsSeen s1 n with
      | some x => .ok (idNs (some x))
      | none => .ok (List.replicate 4096 0)
  | 0x12 =>
    if bad ∨ n = 0xFFFFFFFF then .error nvBadNs
    else
      let hit : Bool := match nsSeen s1 n with | some x => x.attached | none => false
      .ok (layOut 4096 [(0, leBytes 2 (if hit ∧ cdw c 10 / 65536 = 0 then 1 else 0))])
  | 0x13 => .ok (layOut 4096 [(0, leBytes 2 (if cdw c 10 / 65536 = 0 then 1 else 0))])
  | _ => .error nvBadField

def execNvmeIdentify (sq cid : Nat) (entry : Bytes) (s : State) : Res :=
  nvRow s sq cid entry true 0x06 fun s1 c =>
    match idData s1 c with
    | .error st => nvDone s1 c st 0
    | .ok bs => nvPut s1 c bs fun st => nvDone st c 0 0

/-! ### Log pages -/

/-- Percentage Used (Table 17.8): the highest mean of program and erase counts of a channel over 3,000. -/
def pctUsed (s : State) : Nat :=
  min 255 (((List.range 40).map fun c => (chanAt s c).erases * 100 / (max 1 (Config.chanBlocks c) * 3000)).foldl max 0)

/-- Minutes of a number of ticks. -/
def minutes (t : Nat) : Nat := t / (60000 * msTicks)

/-- Log page 0x02 (Table 17.8). -/
def healthLog (s : State) : Bytes :=
  let v := s.store
  let busy := v.busyTicks + (match v.busySince with | some t => s.clk.ticks - t | none => 0)
  layOut 512 [(0, leBytes 1 (critWarn s)), (1, leBytes 2 v.temp), (3, leBytes 1 (availSpare s)), (4, [10]), (5, leBytes 1 (pctUsed s)),
    (32, leBytes 16 (ceilDiv v.bytesRead 512000)), (48, leBytes 16 (ceilDiv v.bytesWritten 512000)), (64, leBytes 16 v.reads),
    (80, leBytes 16 v.writes), (96, leBytes 16 (minutes busy)), (112, leBytes 16 v.powerCycles),
    (128, leBytes 16 (minutes (v.powerOn + s.clk.ticks) / 60)), (144, leBytes 16 v.badShut), (160, leBytes 16 v.mediaErrors),
    (176, leBytes 16 v.errCount), (192, leBytes 4 (minutes v.warmTicks)), (196, leBytes 4 (minutes v.hotTicks))]

/-- Log page 0xC0 and STORE.HEALTH's data (Table 17.9). -/
def vendorLog (s : State) : Bytes :=
  let v := s.store
  let spare := ((chansOn s).map fun c => spareOf c - (chanAt s c).spareUsed).foldl min (2 ^ 32 - 1)
  let free := ((chansOn s).map fun c => chanFree s c).foldl min (2 ^ 32 - 1)
  padTo 512 (leBytes 8 v.nandNs ++ leBytes 8 v.nandT4 ++ leBytes 8 v.nandGc ++ leBytes 8 ((t4Used s).map fun u => u.2).sum ++
    leBytes 8 s.atlas.t4Pool ++ leBytes 4 v.retProg ++ leBytes 4 v.retErase ++ leBytes 4 v.retRead ++ leBytes 4 spare ++
    leBytes 4 free ++ leBytes 4 v.gcAbandon ++ leBytes 8 v.gcRuns ++ leBytes 8 v.refresh ++ leBytes 8 v.lockHolds ++ leBytes 8 v.badShut)

/-- Log page 0x01. -/
def errorLog (s : State) : Bytes :=
  padTo 4096 (s.store.errs.flatMap fun e => layOut 64 [(0, leBytes 8 e.count), (8, leBytes 2 e.sq), (10, leBytes 2 e.cid),
    (12, leBytes 2 e.status), (16, leBytes 8 e.lba), (24, leBytes 4 e.nsid)])

/-- Log page 0x03: slot 1 is A, slot 2 is B. -/
def fwLog (s : State) : Bytes :=
  let next := match s.ctl.act with | some a => (a.slot + 1) * 16 | none => 0
  layOut 512 [(0, leBytes 1 (s.ctl.running + 1 + next)), (8, leBytes 8 s.ctl.slotA.version), (16, leBytes 8 s.ctl.slotB.version)]

/-- Log page 0x05: a command supported, and whether it changes LBA contents or the namespace inventory. -/
def effectsLog : Bytes :=
  layOut 4096 (([0x00, 0x01, 0x02, 0x04, 0x05, 0x06, 0x08, 0x09, 0x0A, 0x0C].map fun o => (4 * o, leBytes 4 1)) ++
    [(4 * 0x0D, leBytes 4 0x9), (4 * 0x15, leBytes 4 0x9), (4 * 0x80, leBytes 4 0x7), (4 * 0x84, leBytes 4 0x3), (1024, leBytes 4 1),
     (1028, leBytes 4 3), (1032, leBytes 4 1), (1024 + 4 * 8, leBytes 4 3), (1024 + 4 * 9, leBytes 4 3)])

/-- A log page (Table 17.3). -/
def logPage (s1 : State) (lid : Nat) : Option Bytes :=
  match lid with
  | 0x01 => some (errorLog s1)
  | 0x02 => some (healthLog s1)
  | 0x03 => some (fwLog s1)
  | 0x05 => some effectsLog
  | 0xC0 => some (vendorLog s1)
  | _ => none

/-- A log page has been read: unless RAE is 1, events that named it may be reported again. -/
def logRead (s : State) (c : NvCmd) (lid : Nat) : State :=
  if bitOf (cdw c 10) 15 then s else
  modStore s fun v => { v with evMasked := v.evMasked.filter fun t => decide ((if t = 0 then 1 else if t = 1 then 2 else 3) ≠ lid) }

def execNvmeGetLogPage (sq cid : Nat) (entry : Bytes) (s : State) : Res :=
  nvRow s sq cid entry true 0x02 fun s1 c =>
    let lid := cdw c 10 % 256
    let n := (cdw c 10 / 65536 + cdw c 11 % 65536 * 65536 + 1) * 4
    let off := fieldAt c.e 48 8
    match logPage s1 lid with
    | none => nvDone s1 c nvLogBad 0
    | some p =>
      if p.length < off ∨ off % 4 ≠ 0 ∨ (lid = 2 ∧ nvNsid c ≠ 0 ∧ nvNsid c ≠ 0xFFFFFFFF) then nvDone s1 c nvBadField 0 else
      nvPut s1 c (padTo n (p.drop off)) fun st =>
        nvDeliver 8 (nvDone (logRead st c lid) c 0 0)

/-! ### Features -/

/-- Selector of a feature's values in CDW11. -/
def featSub (fid w : Nat) : Nat :=
  match fid with
  | 4 => bitsOf w 21 16
  | 9 => w % 65536
  | _ => 0

/-- Is a feature identifier supported (Table 17.3)? -/
def featKnown (fid : Nat) : Bool := [1, 2, 4, 5, 6, 7, 8, 9, 0x0B, 0x0C, 0x0E].contains fid

/-- Does a command in flight copy from or to a namespace (R425)? -/
def dmaNs (s : State) : Bool :=
  s.inflight.any fun x => decide (entryOp x.entry = 0x1201) && decide (par x.entry 0 1 = 3 ∨ par x.entry 1 1 = 3)

/-- Ticks of the Timestamp feature, in ms. -/
def stampNow (s : State) : Nat := (s.store.stamp.1 + (s.clk.ticks - s.store.stamp.2) / msTicks) % 2 ^ 48

def execNvmeSetFeatures (sq cid : Nat) (entry : Bytes) (s : State) : Res :=
  nvRow s sq cid entry true 0x09 fun s1 c =>
    let fid := cdw c 10 % 256
    let w := cdw c 11
    let bad := nvDone s1 c nvBadField 0
    if bitOf (cdw c 10) 31 then nvDone s1 c nvNoSave 0
    else if !featKnown fid then bad
    else match fid with
    | 2 =>
      let p := w % 32
      if 2 < p ∨ w / 32 ≠ 0 then bad
      else if p = 2 ∧ (s1.atlas.t4Pool ≠ 0 ∨ dmaNs s1) then bad
      else nvDone (modStore s1 fun v => { v with ps := p, psNow := if s1.power.stage = 4 then 2 else heldPs s1 p }) c 0 0
    | 4 =>
      let sel := bitsOf w 19 16
      if (sel ≠ 0 ∧ sel ≠ 15) ∨ 1 < bitsOf w 21 20 ∨ w / 2 ^ 22 ≠ 0 then bad
      else
        let s2 := setFeat s1 4 (bitsOf w 21 20 * 16) (w % 65536)
        nvDone (critNote s1 s2) c 0 0
    | 5 => if bitOf w 16 ∨ w / 2 ^ 17 ≠ 0 then bad else nvDone (setFeat s1 5 0 w) c 0 0
    | 6 => if w / 2 ≠ 0 then bad else nvDone (setFeat s1 6 0 w) c 0 0
    | 7 => if w % 65536 = 65535 ∨ w / 65536 = 65535 then bad else nvDone s1 c 0 (127 + 127 * 65536)
    | 9 => if 128 < w % 65536 ∨ w / 2 ^ 17 ≠ 0 then bad else nvDone (setFeat s1 9 (w % 65536) w) c 0 0
    | 0x0C =>
      if w / 2 ≠ 0 then bad else
      nvGet s1 c 256 fun st d =>
        let es := (List.range 32).map fun i => fieldAt d (8 * i) 8
        let naming2 := es.any fun e => decide (e / 256 ≠ 0 ∧ bitsOf e 7 3 = 2)
        if es.any (fun e => decide (2 < bitsOf e 7 3)) ∨ (naming2 ∧ st.atlas.t4Pool ≠ 0) then nvDone st c nvBadField 0
        else nvDone (modStore (setFeat st 0x0C 0 w) fun v => { v with apst := enumFrom 0 es }) c 0 0
    | 0x0E => nvGet s1 c 8 fun st d => nvDone (modStore st fun v => { v with stamp := (fieldAt d 0 6, st.clk.ticks) }) c 0 0
    | _ => nvDone (setFeat s1 fid 0 w) c 0 0

def execNvmeGetFeatures (sq cid : Nat) (entry : Bytes) (s : State) : Res :=
  nvRow s sq cid entry true 0x0A fun s1 c =>
    let fid := cdw c 10 % 256
    let w := cdw c 11
    if bitsOf (cdw c 10) 10 8 ≠ 0 ∨ !featKnown fid ∨ (fid = 4 ∧ bitsOf w 19 16 ≠ 0) ∨ (fid = 9 ∧ 128 < w % 65536) then nvDone s1 c nvBadField 0
    else match fid with
    | 2 => nvDone s1 c 0 s1.store.ps
    | 4 => nvDone s1 c 0 (featAt s1 4 (bitsOf w 21 20 * 16))
    | 9 => nvDone s1 c 0 (featAt s1 9 (w % 65536) / 65536 * 65536 + w % 65536)
    | 0x0C =>
      nvPut s1 c ((List.range 32).flatMap fun i => leBytes 8 (tabGet s1.store.apst i 0)) fun st => nvDone st c 0 (featAt st 0x0C 0)
    | 0x0E => nvPut s1 c (leBytes 6 (stampNow s1) ++ leBytes 2 2) fun st => nvDone st c 0 0
    | _ => nvDone s1 c 0 (featAt s1 fid 0)

/-! ### Abort, events -/

/-- An Abort: a command that is held, or whose work has not begun, completes with Command Abort Requested (R422). -/
def execNvmeAbort (sq cid : Nat) (entry : Bytes) (s : State) : Res :=
  nvRow s sq cid entry true 0x08 fun s1 c =>
    let q := cdw c 10 % 65536
    let i := cdw c 10 / 65536
    match s1.store.cmds.find? fun x => decide (x.sq = q ∧ x.cid = i ∧ !(q = sq ∧ i = cid)) with
    | none => nvDone s1 c 0 1
    | some x =>
      if x.started then nvDone s1 c 0 1
      else if nvRoom s1 q then
        let s2 := nvDone s1 x nvAborted 0
        if nvRoom s2 sq then nvDone s2 c 0 0 else s2
      else nvDone (modNv s1 x fun y => { y with aborted := true }) c 0 0

def execNvmeAsyncEventRequest (sq cid : Nat) (entry : Bytes) (s : State) : Res :=
  nvRow s sq cid entry true 0x0C fun s1 c =>
    if 8 ≤ s1.store.aers.length then nvDone s1 c nvAerLimit 0
    else nvDeliver 8 (modStore s1 fun v => { v with
      aers := v.aers ++ [cid], cmds := v.cmds.filter fun x => decide ¬(x.sq = c.sq ∧ x.cid = c.cid) })

/-! ### Namespaces -/

/-- Is a slot in TRIAL, so that the configuration store stays as it is (R457)? -/
def inTrial (s : State) : Bool := decide (s.ctl.slotA.st = 3 ∨ s.ctl.slotB.st = 3)

/-- Has a namespace a lock entry (R422)? -/
def nsLocked (s : State) (n : Nat) : Bool := s.store.locks.any fun l => decide (l.2.nsid = n)

def execNvmeNamespaceManagement (sq cid : Nat) (entry : Bytes) (s : State) : Res :=
  nvRow s sq cid entry true 0x0D fun s1 c =>
    let n := nvNsid c
    if inTrial s1 then nvDone s1 c nvSequence 0
    else match cdw c 10 % 16 with
    | 0 =>
      nvGet s1 c 4096 fun st d =>
        let size := fieldAt d 0 8
        let big := decide (byteAt d 26 % 16 = 1)
        let bytes := size * (if big then 4096 else 512)
        if 1 < byteAt d 26 % 16 then nvDone st c nvFmtBad 0
        else if byteAt d 26 / 16 ≠ 0 ∨ byteAt d 29 ≠ 0 ∨ byteAt d 30 ≠ 0 ∨ size = 0 then nvDone st c nvBadField 0
        else if fieldAt d 8 8 ≠ size then nvDone st c nvThin 0
        else if usableFlash - st.atlas.t4Pool * 4096 < nsCap st + bytes then nvDone st c nvNoCap 0
        else match tabGap st.store.nss 1 33 with
          | none => nvDone st c nvNoNsid 0
          | some i =>
            nvDone (modStore st fun v => { v with
              nss := tabPut v.nss i { nsze := size, big := big, key := v.nextWb + 1 } }) c 0 i
    | 1 =>
      let gone := if n = 0xFFFFFFFF then s1.store.nss.map (·.1) else [n]
      if n ≠ 0xFFFFFFFF ∧ (nsAt s1 n).isNone then nvDone s1 c nvBadNs 0
      else if gone.any (nsLocked s1) then nvDone s1 c nvDenied 0
      else nvDone (gone.foldl (fun st i => wipeNs st i true) s1) c 0 0
    | _ => nvDone s1 c nvBadField 0

def execNvmeNamespaceAttachment (sq cid : Nat) (entry : Bytes) (s : State) : Res :=
  nvRow s sq cid entry true 0x15 fun s1 c =>
    let n := nvNsid c
    let sel := cdw c 10 % 16
    if inTrial s1 then nvDone s1 c nvSequence 0
    else if 1 < sel then nvDone s1 c nvBadField 0
    else match nsAt s1 n with
    | none => nvDone s1 c nvBadNs 0
    | some x =>
      nvGet s1 c 4096 fun st d =>
        if fieldAt d 0 2 ≠ 1 ∨ fieldAt d 2 2 ≠ 0 then nvDone st c nvCtrlList 0
        else if sel = 0 ∧ x.attached then nvDone st c nvAttached 0
        else if sel = 1 ∧ !x.attached then nvDone st c nvNotAttached 0
        else nvDone (modStore st fun v => { v with nss := tabPut v.nss n { x with attached := decide (sel = 0) } }) c 0 0

/-- A namespace gets a new key, every LBA being deallocated (R415). -/
def eraseNs (s : State) (n : Nat) : State :=
  modStore (wipeNs s n false) fun v => { v with nss := tabUpd v.nss n fun x => { x with key := x.key + 1 } }

def execNvmeFormatNvm (sq cid : Nat) (entry : Bytes) (s : State) : Res :=
  nvRow s sq cid entry true 0x80 fun s1 c =>
    let n := nvNsid c
    let w := cdw c 10
    if inTrial s1 then nvDone s1 c nvSequence 0
    else if 1 < w % 16 then nvDone s1 c nvFmtBad 0
    else if bitsOf w 8 4 ≠ 0 ∨ 2 < bitsOf w 11 9 then nvDone s1 c nvBadField 0
    else if n ≠ 0xFFFFFFFF ∧ (nsSeen s1 n).isNone then nvDone s1 c nvBadNs 0
    else if spareOut s1 then nvDone s1 c nvWriteProt 0
    else nvStart s1 c (nvRanges s1 c) true fun st c1 =>
      let hit := (st.store.nss.filter fun q => decide (n = 0xFFFFFFFF ∨ q.1 = n)).map (·.1)
      let big := decide (w % 16 = 1)
      nvDone (hit.foldl (fun a i => modStore (eraseNs a i) fun v => { v with
        nss := tabUpd v.nss i fun x => { x with big := big, nsze := nsBytesOf x / (if big then 4096 else 512) } }) st) c1 0 0

def execNvmeSanitize (sq cid : Nat) (entry : Bytes) (s : State) : Res :=
  nvRow s sq cid entry true 0x84 fun s1 c =>
    let act := cdw c 10 % 8
    if inTrial s1 then nvDone s1 c nvSequence 0
    else if act ≠ 1 ∧ act ≠ 2 ∧ act ≠ 4 then nvDone s1 c nvBadField 0
    else if act = 1 then nvDone s1 c 0 0
    else if spareOut s1 then nvDone s1 c nvWriteProt 0
    else nvStart s1 c (nvRanges s1 c) true fun st c1 =>
      nvDone ((st.store.nss.map (·.1)).foldl (fun a i => if act = 4 then eraseNs a i else wipeNs a i false) st) c1 0 0

/-- A command that the controller does not have (R416). -/
def execNvmeAbsentCommand (sq cid : Nat) (entry : Bytes) (s : State) : Res :=
  match nvTake s sq cid entry with
  | none => .next s
  | some (s1, c) =>
    let known := if sq = 0 then [0x00, 0x01, 0x02, 0x04, 0x05, 0x06, 0x08, 0x09, 0x0A, 0x0C, 0x0D, 0x15, 0x80, 0x84] else [0x00, 0x01, 0x02, 0x08, 0x09]
    if known.contains (byteAt c.e 0) ∨ !nvRoom s1 sq then .next s else .next (nvDone s1 c nvBadOp 0)

end Sys2Proof.Machine
end

