-- ==== Sys2Proof/Machine/NvmeIo.lean ====
section
/-! DEFINITION. The I/O commands of PF1, its doorbells and shutdown, the flash channels and the write buffer (R416 to R420, R422,
R424 to R429). -/

namespace Sys2Proof.Machine

/-! ### I/O commands -/

/-- SLBA and LBAs of a Read, Write or Write Zeroes. -/
def ioSlba (c : NvCmd) : Nat := fieldAt c.e 40 8
def ioNlb (c : NvCmd) : Nat := cdw c 12 % 65536 + 1

/-- The checks of a command on a namespace: it exists and is attached. -/
def nsChecked (s : State) (c : NvCmd) (k : Ns → State) : State :=
  let n := nvNsid c
  if n = 0 ∨ 32 < n then nvDone s c nvBadNs 0
  else match nsSeen s n with
  | none => nvDone s c nvBadField 0
  | some x => if !x.attached then nvDone s c nvBadField 0 else k x

/-- The checks of a command on LBAs of a namespace, which holds them. -/
def ioChecked (s : State) (c : NvCmd) (nlb : Nat) (k : Ns → State) : State :=
  nsChecked s c fun x => if x.nsze < ioSlba c + nlb then nvDone s c nvLbaRange 0 else k x

/-- Largest transfer: MDTS of 2 MiB. -/
def mdts : Nat := 2097152

/-- Are reads for a command waiting at the channels? -/
def nvReading (s : State) (c : NvCmd) : Bool :=
  s.store.chans.any fun q => q.2.ops.any fun o => isNvOp c.sq c.cid o.2

/-- Queue the reads of a command at their units' channels. -/
def queueReads (s : State) (cls : ChanClass) (op : Nat → ChanOp) (us : List Nat) : State :=
  us.foldl (fun st k => match tabFind st.store.map k with
    | some (c, _, _) => modChan st c fun ch => { ch with ops := ch.ops ++ [(cls, op k)] }
    | none => st) s

def execNvmeRead (sq cid : Nat) (entry : Bytes) (s : State) : Res :=
  nvRow s sq cid entry false 0x02 fun s1 c =>
    ioChecked s1 c (ioNlb c) fun x =>
      let off := ioSlba c * lbaBytes x
      let len := ioNlb c * lbaBytes x
      if mdts < len then nvDone s1 c nvBadField 0 else
      if c.started then
        if nvReading s1 c then s1
        else if c.failed ∨ readLost s1 (nvNsid c) off len then
          nvDone (modStore s1 fun v => { v with mediaErrors := v.mediaErrors + 1 }) c nvReadErr 0
        else nvPut s1 c (nsReads s1 (nvNsid c) off len) fun st =>
          nvDone (modStore st fun v => { v with reads := v.reads + 1, bytesRead := v.bytesRead + len }) c 0 0
      else nvStart s1 c [(nvNsid c, ioSlba c, ioNlb c)] false fun st c1 =>
        queueReads st (nvClass st c1.sq) (.nvme c1.sq c1.cid) (mediaUnits st (nvNsid c) off len)

/-- A write whose data is in the buffer completes, or waits until it is durable (R418). -/
def wrDone (s : State) (c : NvCmd) (fua : Bool) (len : Nat) : State :=
  let s1 := modStore s fun v => { v with writes := v.writes + 1, bytesWritten := v.bytesWritten + len }
  if fua ∨ featAt s1 6 0 % 2 = 0 then modNv s1 c fun x => { x with after := some (s1.store.nextWb - 1) } else nvDone s1 c 0 0

/-- A command that waits for durable writes. -/
def wrWait (s : State) (c : NvCmd) (n : Nat) : State := if wbDurable s n then nvDone s c 0 0 else s

/-- Bytes of data in the write buffer. -/
def wbUsed (s : State) : Nat := (s.store.wb.map fun e => e.data.length).sum

def execNvmeWrite (sq cid : Nat) (entry : Bytes) (s : State) : Res :=
  nvRow s sq cid entry false 0x01 fun s1 c =>
    match c.after with
    | some n => wrWait s1 c n
    | none =>
      ioChecked s1 c (ioNlb c) fun x =>
        let off := ioSlba c * lbaBytes x
        let len := ioNlb c * lbaBytes x
        if mdts < len then nvDone s1 c nvBadField 0
        else if spareOut s1 then nvDone s1 c nvWriteProt 0
        else nvStart s1 c [(nvNsid c, ioSlba c, ioNlb c)] true fun st c1 =>
          nvGet st c1 len fun st1 d =>
            if 1073741824 < wbUsed st1 + len then st1 else
            wrDone (wbPush st1 { nsid := nvNsid c, off := off, len := len, data := d }) c1 (bitOf (cdw c 12) 30) len

def execNvmeWriteZeroes (sq cid : Nat) (entry : Bytes) (s : State) : Res :=
  nvRow s sq cid entry false 0x08 fun s1 c =>
    match c.after with
    | some n => wrWait s1 c n
    | none =>
      ioChecked s1 c (ioNlb c) fun x =>
        if spareOut s1 then nvDone s1 c nvWriteProt 0
        else nvStart s1 c [(nvNsid c, ioSlba c, ioNlb c)] true fun st c1 =>
          let w : WbEnt := { nsid := nvNsid c, off := ioSlba c * lbaBytes x, len := ioNlb c * lbaBytes x, drop := bitOf (cdw c 12) 25 }
          wrDone (wbPush st w) c1 (bitOf (cdw c 12) 30) 0

/-- A Flush: of one namespace or of all (R418). -/
def execNvmeFlush (sq cid : Nat) (entry : Bytes) (s : State) : Res :=
  nvRow s sq cid entry false 0x00 fun s1 c =>
    match c.after with
    | some n => wrWait s1 c n
    | none =>
      let n := nvNsid c
      let seen : Bool := match nsSeen s1 n with | some x => x.attached | none => false
      if n ≠ 0xFFFFFFFF ∧ (n = 0 ∨ 32 < n) then nvDone s1 c nvBadNs 0
      else if n ≠ 0xFFFFFFFF ∧ !seen then nvDone s1 c nvBadField 0
      else nvStart s1 c [] true fun st c1 =>
        if st.store.wb = [] then nvDone st c1 0 0 else modNv st c1 fun y => { y with after := some (st.store.nextWb - 1) }

/-- Dataset Management: Deallocate alone; other attributes change nothing (Table 17.3, R426). -/
def execNvmeDatasetManagement (sq cid : Nat) (entry : Bytes) (s : State) : Res :=
  nvRow s sq cid entry false 0x09 fun s1 c =>
    let n := cdw c 10 % 256 + 1
    match c.after with
    | some k => wrWait s1 c k
    | none =>
      nvGet s1 c (16 * n) fun st d =>
        let c0 := { c with hdata := some d }
        nsChecked st c0 fun x =>
          let rs := nvRanges st c0
          if rs.any (fun r => decide (x.nsze < r.2.1 + r.2.2)) then nvDone st c nvLbaRange 0
          else if bitOf (cdw c 11) 2 = false then nvDone st c 0 0
          else if spareOut st then nvDone st c nvWriteProt 0
          else nvStart st c0 rs true fun st1 c1 =>
            let st2 := rs.foldl (fun a r => if r.2.2 = 0 then a else
              wbPush a { nsid := r.1, off := r.2.1 * lbaBytes x, len := r.2.2 * lbaBytes x, drop := true }) st1
            if featAt st2 6 0 % 2 = 0 ∧ st2.store.wb ≠ [] then modNv st2 c1 fun y => { y with after := some (st2.store.nextWb - 1) }
            else nvDone st2 c1 0 0

/-! ### Doorbells and shutdown -/

/-- A doorbell of PF1 (R416, R417): offset in BAR0 from 0x1000 on, stride 4; even doorbells are SQ tails. -/
def execNvmeDoorbellWrite (off value : Nat) (s0 : State) : Res :=
  let s := countEv s0 (srcFn 64) 0x0802 0
  let k := (off - 0x1000) / 4
  let q := k / 2
  if !nvUp s ∨ off < 0x1000 ∨ off % 4 ≠ 0 then .next s
  else if k % 2 = 0 then
    match ioSqAt s q with
    | none => .next (nvEvent s (0, 0, 1))
    | some x =>
      if x.size ≤ value then .next (nvEvent s (0, 1, 1))
      else .next (modStore s fun v => { v with sqs := tabPut v.sqs q { x with tail := value } })
  else
    match ioCqAt s q with
    | none => .next (nvEvent s (0, 0, 1))
    | some x =>
      if x.size ≤ value then .next (nvEvent s (0, 1, 1))
      else .next (nvDeliver 8 (modStore s fun v => { v with cqs := tabPut v.cqs q { x with head := value } }))

/-- CC.SHN is written (1 normal, 2 abrupt), or a shutdown goes on (R418). -/
def execNvmeShutdownNotify (shn : Nat) (s : State) : Res :=
  if !(funcAt s 64).ready then .next s else
  .next (writeCc s (s.store.cc % 2 ^ 14 + shn % 4 * 2 ^ 14 + s.store.cc / 2 ^ 16 * 2 ^ 16))

/-- The aggregation time of a completion queue ends: its held interrupt is sent (Interrupt Coalescing feature). -/
def execInterruptCoalescingTimer (cq : Nat) (s : State) : Res :=
  match ioCqAt s cq with
  | none => .next s
  | some c =>
    if c.held = 0 then .next s else
    let s1 := advanceTo s (c.heldAt + featAt s 8 0 / 256 % 256 * 100 * usTicks)
    .next (msixEvent (modStore s1 fun v => { v with cqs := tabPut v.cqs cq { c with held := 0 } }) 64 c.vector)

/-- The idle timer of the APST table ends: with no I/O outstanding since PF1's last completion, the state its entry names is
entered; PS2 only while the T4 pool is empty and no DMA.COPY names a namespace (R425). -/
def execApstIdleTimer (s : State) : Res :=
  let e := tabGet s.store.apst s.store.psNow 0
  if featAt s 0x0C 0 % 2 = 0 ∨ e / 256 % 2 ^ 24 = 0 ∨ nvBusy s then .next s else
  let s1 := advanceTo s (s.store.lastIo + e / 256 % 2 ^ 24 * msTicks)
  let p := bitsOf e 7 3
  if p = 2 ∧ (s.atlas.t4Pool ≠ 0 ∨ dmaNs s) then .next s1
  else .next (modStore s1 fun v => { v with psNow := heldPs s1 p })

/-! ### Channels (R417) -/

/-- Weighted classes of rung 2: high, medium, low, DMA, GC. -/
def wClass : Nat → Option ChanClass
  | 0 => some .high
  | 1 => some .medium
  | 2 => some .low
  | 3 => some .dma
  | _ => none

/-- Weight of one of them. -/
def wWeight (s : State) : Nat → Nat
  | 0 => featAt s 1 0 / 2 ^ 24 % 256 + 1
  | 1 => featAt s 1 0 / 2 ^ 16 % 256 + 1
  | 2 => featAt s 1 0 / 2 ^ 8 % 256 + 1
  | 3 => s.store.dmaw
  | _ => s.store.gcw

/-- The first waiting read of a class. -/
def opOf (ch : Chan) (cls : ChanClass) : Option ChanOp := (ch.ops.find? fun o => decide (o.1 = cls)).map (·.2)

/-- Serve a read at its channel (R417, R420): a command whose unit has lost its data is told so. -/
def serveOp (s : State) (c : Nat) (o : ChanOp) : State :=
  let s1 := countEv (modChan s c fun ch => { ch with ops := ch.ops.eraseP fun x => decide (x.2 = o) }) (srcChan c) 0x0701 0xFF
  match o with
  | .nvme sq cid u => if s1.store.lostUnits.contains u then
      modStore s1 fun v => { v with cmds := v.cmds.map fun x => if x.sq = sq ∧ x.cid = cid then { x with failed := true } else x } else s1
  | .dma _ _ => s1

/-- Deficit round-robin among the weighted classes with work: the class in turn is served while its deficit lasts (R417).  A
class without work keeps at most a quantum. -/
def wrrServe (s : State) (c : Nat) (has : Nat → Bool) (serve : State → Nat → State) : Nat → State
  | 0 => s
  | fuel + 1 =>
    let ch := chanAt s c
    let i := ch.turn % 5
    let q := wWeight s i * 65536
    let next := modChan s c fun x =>
      let d := tabGet x.deficit i 0
      { x with turn := (i + 1) % 5, given := false, deficit := tabPut x.deficit i (if has i then d else min d q) }
    if !has i then wrrServe next c has serve fuel
    else
      let d := tabGet ch.deficit i 0 + (if ch.given then 0 else q)
      if 4096 ≤ d then serve (modChan s c fun x => { x with given := true, deficit := tabPut x.deficit i (d - 4096) }) i
      else wrrServe (modChan next c fun x => { x with deficit := tabPut x.deficit i d }) c has serve fuel

/-- The block that a channel's garbage collection would pick now: none while a copy runs. -/
def gcPick (s : State) (chan : Nat) : Option Nat :=
  if (chanAt s chan).gc.isSome then none else gcSource (t4Live s) (chanAt s chan)

/-- Is garbage collection of a block critical (Table 17.4, rung 1): few blocks are free, or the block has failed? -/
def gcCritical (s : State) (chan b : Nat) : Bool :=
  decide (chanFree s chan < s.store.gccrit) || decide ((tabGet (chanAt s chan).blocks b {}).failed ≠ 0)

/-- Has garbage collection its weighted turn (rung 2)? -/
def gcWanted (s : State) (chan b : Nat) : Bool :=
  decide (chanFree s chan < s.store.gclow) || (tabGet (chanAt s chan).blocks b {}).refresh

/-- Has a weighted class work, garbage collection of `src` among them? -/
def wrrHas (s : State) (chan : Nat) (src : Option Nat) (i : Nat) : Bool :=
  match wClass i with
  | some k => (opOf (chanAt s chan) k).isSome
  | none => src.any (gcWanted s chan)

/-- The work of a weighted class. -/
def wrrDo (live : Nat → Bool) (chan : Nat) (src : Option Nat) (s : State) (i : Nat) : State :=
  match wClass i with
  | some k => (match opOf (chanAt s chan) k with | some o => serveOp s chan o | none => s)
  | none => (match src with | some b => gcStart s live chan b | none => s)

/-- A channel picks its next operation (Table 17.4): critical garbage collection, urgent reads, the weighted classes, then
garbage collection at other times.  In PS2 the channels idle (R424). -/
def execChannelSchedule (chan : Nat) (s : State) : Res :=
  if chan ≥ 40 ∨ !s.enChans.getLsbD chan ∨ s.store.psNow = 2 then .next s else
  let src := gcPick s chan
  match src.filter (gcCritical s chan) with
  | some b => .next (gcStart s (t4Live s) chan b)
  | none =>
    match opOf (chanAt s chan) .urgent with
    | some o => .next (serveOp s chan o)
    | none =>
      if (List.range 5).any (wrrHas s chan src) then .next (wrrServe s chan (wrrHas s chan src) (wrrDo (t4Live s) chan src) 12)
      else match src with
        | some b => .next (gcStart s (t4Live s) chan b)
        | none => .next s

/-- The oldest buffered write is programmed, and its mapping made durable (R418, R419); it waits while one of its channels has
no free block. -/
def execWriteBufferProgram (s : State) : Res :=
  match s.store.wb with
  | [] => .next s
  | e :: rest =>
    if s.store.psNow = 2 ∧ s.power.stage = 4 then .next s else
    match programEnt s e with
    | none => .next s
    | some s1 => .next (nvShutdown (modStore s1 fun v => { v with wb := rest }))

/-- A garbage-collection copy has been read back: `high` names the blocks whose corrected bit counts were found at or above the
refresh threshold.  The copy is verified where its copy block is not among them: mappings switch, and the source is erased
(R427); else the copy is abandoned as for a program failure (R428). -/
def execGcCopyVerified (chan : Nat) (high : List Nat) (s : State) : Res :=
  match (chanAt s chan).gc with
  | none => .next s
  | some g =>
    let s0 := high.foldl (fun st b => modChan st chan fun ch => { ch with blocks := tabUpd ch.blocks b fun x => { x with refresh := true } }) s
    if high.contains g.dst then .next (failBlk (gcAbandonRun s0 chan) (t4Live s) chan g.dst 1) else
    let s1 := g.copied.foldl (gcSwitch chan g.src g.dst) (modChan s0 chan fun ch => { ch with gc := none })
    .next (critNote s (gcFinish s1 (t4Live s1) chan g.src))

/-- A program failure in an open block or in the target of a copy (R428). -/
def execFlashProgramFail (chan blk : Nat) (s : State) : Res :=
  let ch := chanAt s chan
  match ch.gc with
  | some g =>
    if g.dst = blk then .next (critNote s (failBlk (gcAbandonRun s chan) (t4Live s) chan blk 1))
    else if ch.openHost = some blk ∨ ch.openT4 = some blk then .next (critNote s (failBlk s (t4Live s) chan blk 1))
    else .next s
  | none =>
    if ch.openHost = some blk ∨ ch.openT4 = some blk then .next (critNote s (failBlk s (t4Live s) chan blk 1)) else .next s

/-- An erase failure retires the block at once (R428). -/
def execFlashEraseFail (chan blk : Nat) (s : State) : Res :=
  if (chanAt s chan).erasing.contains blk then .next (critNote s (retireBlk s chan blk 2)) else .next s

/-- A read that fails after every retry (R420, R428): the unit's data are lost, the reads that wait for it learn of it, and the
block is retired once its other units have moved. -/
def execFlashReadFail (chan blk place : Nat) (s : State) : Res :=
  match tabFind (chanAt s chan).blocks blk with
  | none => .next s
  | some b =>
    match tabFind b.valid place with
    | none => .next s
    | some k =>
      let s1 := modStore (unmapUnit s k) fun v => { v with lostUnits := k :: v.lostUnits }
      let waiting := (chanAt s1 chan).ops.filter fun o => match o.2 with | .nvme _ _ u => decide (u = k) | .dma _ u => decide (u = k)
      let s2 := waiting.foldl (fun st o => serveOp st chan o.2) s1
      let s3 := countEv s2 (srcChan chan) 0x0705 0xFF
      .next (critNote s (failBlk s3 (t4Live s3) chan blk 3))

/-- An erase after garbage collection finishes: the block joins the free list (R427). -/
def execEraseComplete (chan blk : Nat) (s : State) : Res :=
  if (chanAt s chan).erasing.contains blk then
    .next (countEv (modChan s chan fun ch => { ch with
      erasing := ch.erasing.filter (· ≠ blk), taken := ch.taken.filter (· ≠ blk), erases := ch.erases + 1 }) (srcChan chan) 0x0703 0xFF)
  else .next s

end Sys2Proof.Machine
end

