-- ==== Sys2Proof/Machine/TimeCmds.lean ====
section
/-! DEFINITION. Meridian reads, synchronisation, and the TIME group but for mode-change messages (R345 to R352, R356, R358,
R361). -/

namespace Sys2Proof.Machine

/-! ### Reads of MERIDIAN (R346) -/

def execMeridianRead64 (fn : Nat) (s : State) : Res :=
  if fnPresent s fn then .next (emit s (.regData fn (merNow s))) else .next s

/-- A read of the low word latches the high word for the function. -/
def execMeridianLowRead (fn : Nat) (s : State) : Res :=
  if fnPresent s fn then
    .next (emit (modTime s fun t => { t with latches := tabPut t.latches fn (merNow s / 2 ^ 32) }) (.regData fn (merNow s % 2 ^ 32)))
  else .next s

/-- A read of the high word consumes the latch, or returns the current high word. -/
def execMeridianHighRead (fn : Nat) (s : State) : Res :=
  if fnPresent s fn then
    .next (emit (modTime s fun t => { t with latches := tabDel t.latches fn })
      (.regData fn ((tabFind s.time.latches fn).getD (merNow s / 2 ^ 32))))
  else .next s

/-! ### Locking and slewing (R345, R350, R352) -/

/-- Let time pass until the meridian is at or beyond a value, whatever the slew. -/
def advanceMer (s : State) (m : Nat) : State :=
  let s1 := advance s (m - merNow s + (if merNow s < m then s.time.hold else 0))
  let s2 := advance s1 (m - merNow s1)
  advance s2 (m - merNow s2)

/-- Does a remaining offset exceed what one SYNCPER of slew removes (R352)? -/
def overSlew (t : TimeUnit) (o : Int) : Bool := decide (Int.ofNat (t.syncper * 4000) < 10000 * (if o < 0 then -o else o))

/-- The meridian is at o ticks ahead of its source.  At the first lock it steps forward, or holds; after it, it slews. -/
def takeOffset (s : State) (o : Int) : State :=
  if !s.time.lockedOnce then
    if 0 < o then modTime s fun t => { t with hold := o.toNat, st := .acquiring }
    else
      let s1 := { s with clk := { s.clk with mer := s.clk.mer + BitVec.ofInt 64 (-o) } }
      modTime s1 fun t => { t with hold := 0, st := .locked, lockedOnce := true }
  else modTime s fun t => { t with st := .locked, slew := o, slewmax := t.slewmax || overSlew t o }

/-- BOUND of a module whose parent reports b: the root of b² + 1.4², in whole ticks (R351). -/
def hopBound (b : Nat) : Nat :=
  let n := 25 * b * b + 49
  let q := isqrtFrom n 40 0
  if q % 5 = 0 ∧ q * q = n then q / 5 else if Config.boundUp n then q / 5 + 1 else q / 5

/-- BOUND while locked: 2 of a datum, else a hop more than the parent's. -/
def lockBound (s : State) : State :=
  if s.time.stratum = 0 then modTime s fun t => { t with bound := some 2 } else
  let b := (tabGet s.time.ports s.time.parent {}).bound
  modTime s fun t => { t with bound := if 0xFFFFFFFF ≤ b then none else some (hopBound b) }

/-- The ticks by which the meridian is ahead of a datum's value. -/
def aheadOf (s : State) (v : Nat) : Int := sext 64 ((merNow s + 2 ^ 64 - v % 2 ^ 64) % 2 ^ 64)

/-- Does an edge come more than 1,000 ticks from the second that a module locked to its datum expects (R485)?  The spec does
not say from what it expects it: here, whole seconds after the last edge kept (log 24). -/
def edgeStray (s : State) : Bool :=
  match s.time.ppsAt with
  | some a =>
    let d := (s.clk.ticks - a) % 4000000000
    decide (s.time.st = .locked ∧ s.time.stratum = 0 ∧ 1000 < d ∧ d < 3999999000)
  | none => false

/-- A 1PPS edge: the meridian is compared with SECONDS, which advances (R348); a stray edge is discarded (R485). -/
def execPpsEdge (s : State) : Res :=
  if s.time.source = 1 ∨ edgeStray s then .next s else
  match s.time.seconds with
  | none => .next (datumNote s (modTime s fun t => { t with ppsAt := some s.clk.ticks, st := if t.st = .free then .acquiring else t.st }))
  | some v =>
    let s1 := modTime s fun t => { t with ppsAt := some s.clk.ticks, seconds := some ((v + 1) % 2 ^ 64), parent := 0x3F }
    let s2 := takeOffset s1 (aheadOf s (v * 4000000000))
    .next (datumNote s (if s2.time.st = .locked then lockBound (modTime s2 fun t => { t with stratum := 0 }) else s2))

/-- No edge for 1.5 s: PPSLOSS; a module under BOTH seeks a parent, one under HOST turns HOLDOVER (R348, R352). -/
def execPpsLossTimeout (s : State) : Res :=
  match s.time.ppsAt with
  | none => .next s
  | some a =>
    if s.time.source = 1 then .next s else
    let s0 := advanceTo s (a + 6000000000)
    let s1 := datumNote s0 (modTime s0 fun t => { t with ppsloss := true, ppsAt := none })
    .next (if s1.time.source = 2 then seekParent s1 else if s1.time.st = .locked then toHoldover s1 else s1)

/-- The meridian has held until its source reached it, and runs locked (R345). -/
def execMeridianHoldEnd (s : State) : Res :=
  if s.time.hold = 0 then .next s else
  let s1 := advance s s.time.hold
  let up (t : TimeUnit) : TimeUnit := { t with st := .locked, lockedOnce := true, slew := 0, stratum := if fabricTime s1 then t.stratum else 0 }
  .next (datumNote s1 (lockBound (modTime s1 up)))

/-! ### TIME messages (R349, R350, Table 14.5) -/

/-- A port sends a TIME message, SYNCPER µs after the one before. -/
def execTimeSend (port : Nat) (s0 : State) : Res :=
  if 48 ≤ port ∨ (portAt s0 port).st ≠ .up then .next s0 else
  let t := tabGet s0.time.ports port {}
  let s1 := match t.sentAt with | some a => advanceTo s0 (a + s0.time.syncper * usTicks) | none => s0
  let s := modTPort s1 port fun x => { x with sentAt := some s1.clk.ticks }
  let body := leBytes 8 0 ++ leBytes 8 t.rxTx ++ leBytes 8 t.rxAt ++ leBytes 1 s.time.stratum ++ leBytes 1 (syncCode s.time.st)
    ++ leBytes 2 0 ++ leBytes 4 (boundNow s) ++ List.replicate 176 0
  .next (sendLocal s port { op := 6, service := 1, data := body })

/-- Insert into a rising list. -/
def intInsert (x : Int) : List Int → List Int
  | [] => [x]
  | y :: ys => if x ≤ y then x :: y :: ys else y :: intInsert x ys

/-- The median of a list; the lower middle value of an even number of them (log 24). -/
def median (xs : List Int) : Int := (xs.foldr intInsert []).getD ((xs.length - 1) / 2) 0

/-- Keep the last 8. -/
def last8 (xs : List Int) : List Int := xs.drop (xs.length - 8)

/-- A measurement against the parent: o and d of R350. -/
def takeSample (s : State) (p : Nat) (o d : Int) : State :=
  let t := tabGet s.time.ports p {}
  let ds := last8 (t.delays ++ [d])
  let off := d - median ds
  let s1 := modTime (modTPort s p fun x => { x with offset := o, delay := d, delays := ds }) fun u => { u with offset := o }
  if 4 < off ∨ off < -4 then modTPort s1 p fun x => { x with discarded := (x.discarded + 1) % 2 ^ 32 } else
  let kept := last8 (t.kept ++ [o])
  let s2 := modTPort s1 p fun x => { x with kept := kept }
  let s3 := takeOffset s2 (median kept)
  if s3.time.st = .locked then lockBound s3 else s3

/-- The parent is changed only for a stratum at least 2 lower, or where its own leaves this module more than 30 (R349). -/
def followParent (s : State) : State :=
  let cur := tabGet s.time.ports s.time.parent {}
  if 48 ≤ s.time.parent ∨ 29 < cur.stratum then seekParent s else
  match bestParent s with
  | some (st, p) =>
    if st + 2 ≤ cur.stratum then modTime s fun t => { t with parent := p, stratum := st + 1 }
    else modTime s fun t => { t with stratum := cur.stratum + 1 }
  | none => s

/-- A TIME message: announcements, parent choice, offset, slew and BOUND.  `names`: its sender names this module as its
parent, for which Table 14.5 gives no field (log 24). -/
def execTimeReceive (names : Bool) (s : State) : Res :=
  match inboxOf s 6 with
  | none => .next s
  | some q =>
    match q.inPort with
    | none => .next (doneMsg s q)
    | some p =>
      let b := q.m.data
      let r2 := merAt s (srcPort p)
      let s2v := fieldAt b 0 8
      let s1 := modTPort (doneMsg (police s q).1 q) p fun t => { t with
        stratum := fld b 24 4 0, bound := fieldAt b 28 4, child := names, rxTx := s2v, rxAt := r2 }
      if !fabricTime s1 then .next s1 else
      let s3 := followParent s1
      if s3.time.parent ≠ p ∨ fieldAt b 8 8 = 0 then .next s3 else
      let fw : Int := (r2 : Int) - s2v
      let bw : Int := (fieldAt b 16 8 : Int) - fieldAt b 8 8
      let o := (fw - bw).tdiv 2 - (tabGet s3.time.ports p {}).asym
      .next (datumNote s3 (takeSample s3 p o ((fw + bw).tdiv 2)))

/-! ### TIME.CONFIG, TIME.STATUS (Table 14.9) -/

/-- The 48 ASYM values of a host buffer. -/
def asymOf (bs : Bytes) (p : Nat) : Int := sext 16 (fieldAt bs (2 * p) 2)

/-- A change of SOURCE (R348, R349). -/
def setSource (s : State) (src : Nat) : State :=
  if src = s.time.source then s else
  let s1 := modTime s fun t => { t with source := src, ppsAt := if src = 1 then none else some s.clk.ticks }
  if src = 1 then seekParent s1 else if src = 0 then modTime s1 fun t => { t with parent := 0x3F } else s1

/-- What TimeConfig requires of its entry (R385): byte offset and whether the field there is at fault. -/
def chkTimeConfig (_ : CmdRef) (_ : State) (e : Bytes) : List (Nat × Bool) :=
  [(16, decide (parFld e 0 1 0 = 3 ∨ parFld e 0 7 2 ≠ 0)), (20, decide (par e 4 2 = 0 ∨ 1000 < par e 4 2))]

/-- TIME.CONFIG.  While the time unit is busy, a SOURCE of the value in force is no write of it and is accepted (DESIGN CHOICE, log 40). -/
def execTimeConfig (r : CmdRef) (s : State) : Res :=
  runCmd s r 0x0201 (chkTimeConfig r) fun s1 x e =>
    if s1.time.st = .acquiring ∧ parFld e 0 1 0 ≠ s1.time.source then complete s1 r stWrej 0 0 else
    let set (st : State) : State :=
      let s2 := modTime st fun t => { t with
        armonly := parFlg e 1 1, syncper := par e 4 2, seconds := if parFlg e 1 0 then some (par e 8 8) else t.seconds }
      complete (setSource s2 (parFld e 0 1 0)) r stOk 0 0
    if par e 16 8 = 0 then set s1 else
    match hostBuf x with
    | none => askHost s1 x
    | some bs => set ((List.range 48).foldl (fun st p => modTPort st p fun t => { t with asym := asymOf bs p }) s1)

/-- A TIME.STATUS port record. -/
def timeRec (t : TimePort) : Bytes :=
  leBytes 4 (twos 32 t.offset) ++ leBytes 4 (twos 32 t.delay) ++ leBytes 1 t.stratum ++ leBytes 3 0 ++ leBytes 4 t.discarded

/-- What TimeStatus requires of its entry (R385): byte offset and whether the field there is at fault. -/
def chkTimeStatus (_ : CmdRef) (_ : State) (e : Bytes) : List (Nat × Bool) :=
  [(16, decide (par e 0 8 % 8 ≠ 0))]

def execTimeStatus (r : CmdRef) (s : State) : Res :=
  runCmd s r 0x0204 (chkTimeStatus r) fun s1 x e =>
    let recs := (List.range 48).flatMap fun p => timeRec (tabGet s1.time.ports p {})
    let s2 := cmdHostPut s1 x (par e 0 8) recs
    complete ((List.range 48).foldl (fun st p =>
      if tabHas st.time.ports p then modTPort st p fun t => { t with discarded := 0 } else st) s2) r stOk 0 0

/-! ### TIME.ARM, TIME.DISARM (R356, R358) -/

/-- A mode-change message (Table 14.6). -/
def modeMsg (kind result id coord t svcmask dst : Nat) : FabMsg :=
  { op := 7, service := 0, ord := true, dst := dst, arg := kind + result * 256
    data := leBytes 4 id ++ leBytes 4 coord ++ leBytes 8 t ++ leBytes 1 svcmask ++ List.replicate 191 0 }

/-- The change a module coordinates under a CHANGEID. -/
def coordOf (s : State) (id : Nat) : Option CoordChange := s.time.coords.find? fun c => decide (c.id = id)

/-- Change what a coordinator keeps of a change. -/
def modCoord (s : State) (id : Nat) (f : CoordChange → CoordChange) : State :=
  modTime s fun t => { t with coords := t.coords.map fun c => if c.id = id then f c else c }

/-- Send a mode-change message of a change to its participants. -/
def sendParts (s : State) (c : CoordChange) (kind : Nat) : State :=
  routeAll (c.parts.foldl (fun st m => sendOrd st (modeMsg kind 0 c.id s.fab.module c.t c.svcmask m)) s)

/-- DISARM is sent, and the TIME.ARM completes LATE (R356). -/
def disarm (s : State) (c : CoordChange) : State :=
  complete (modTime (sendParts s c 0x14) fun t => { t with coords := t.coords.filter fun d => d.id ≠ c.id }) c.cmd stLate 0 0

/-- U32 numbers of a host buffer. -/
def words4 : Nat → Bytes → List Nat
  | 0, _ => []
  | n + 1, bs => leVal (bs.take 4) :: words4 n (bs.drop 4)

/-- What TimeArm requires of its entry (R385): byte offset and whether the field there is at fault. -/
def chkTimeArm (_ : CmdRef) (_ : State) (e : Bytes) : List (Nat × Bool) :=
  [(20, decide (par e 4 4 < 10 ∨ 100000 < par e 4 4)), (32, decide (par e 16 1 % 4 ≠ 0)), (36, decide (par e 20 4 = 0 ∨ 131072 < par e 20 4))]

def execTimeArm (r : CmdRef) (s : State) : Res :=
  runCmd s r 0x0202 (chkTimeArm r) fun s1 x e =>
    if s1.time.coords.any (fun c => decide (c.cmd = r)) then s1 else
    let id := par e 0 4
    let guard := par e 4 4 * usTicks
    let t := par e 8 8
    if !synced s1 then complete s1 r stBusy 0 0
    else if t < merNow s1 + 2 * guard then complete s1 r stLate 0 0
    else if 64 ≤ s1.time.coords.length ∨ (coordOf s1 id).isSome then complete s1 r stBusy 0 0 else
    match hostBuf x with
    | none => askHost s1 x
    | some bs =>
      let ms := (words4 (par e 20 4) bs).map (· % 2 ^ 17)
      let ps := if ms.contains s1.fab.module then distinctN ms else s1.fab.module :: distinctN ms
      let c : CoordChange := { id := id, t := t, guard := guard, svcmask := par e 16 1, cmd := r, parts := ps }
      sendParts (modTime s1 fun u => { u with coords := u.coords ++ [c] }) c 0x10

def execTimeDisarm (r : CmdRef) (s : State) : Res :=
  runCmd s r 0x0203 noChecks fun s1 _ e =>
    match coordOf s1 (par e 0 4) with
    | none => complete s1 r stNotFound 0 0
    | some c =>
      if c.decided.isSome ∨ c.t - c.guard ≤ merNow s1 then complete s1 r stBusy 0 0
      else complete (disarm s1 c) r stOk 0 0

end Sys2Proof.Machine
end

