-- ==== Sys2Proof/Machine/StoreCmds.lean ====
section
/-! DEFINITION. The STORE group and the range-lock table (R414, R421 to R423, R431, R432). -/

namespace Sys2Proof.Machine

/-! ### SPLIT -/

/-- Tiles of the T4 pool that reach to or beyond a sector: tenant, page, leaf. -/
def t4Beyond (s : State) (sec : Nat) : List (Nat × Nat × Leaf) :=
  s.atlas.ctx.flatMap fun c => (c.2.pages.filter fun q => match q.2.loc with
    | .t4 a => decide (sec < a + q.2.clen + 1)
    | _ => false).map fun q => (c.1, q.1, q.2)

/-- Start moving a tile of the draining part to a lower sector, or by its owner's DORDER (R414). -/
def drainT4 (s : State) (q : Nat × Nat × Leaf) : Option State :=
  if q.2.2.mig then some s
  else if q.2.2.psn then none
  else if (t4Place s (q.2.2.clen + 1) []).isSome then some (addMig s { tenant := q.1, page := q.2.1, tier := 3 })
  else takeBy s q.1 (q.2.1, q.2.2) (q.2.1 % 5) false (tiersAfter (ctxAt s q.1).dorder 3)

/-- Start every tile that can move; whether all could. -/
def drainT4s : State → List (Nat × Nat × Leaf) → State × Bool
  | s, [] => (s, true)
  | s, q :: qs =>
    match drainT4 s q with
    | some s1 => drainT4s s1 qs
    | none => ((drainT4s s qs).1, false)

/-- The lowest size of the pool that its tiles still allow. -/
def t4Least (s : State) : Nat := ((t4Used s).map fun u => u.1 + u.2).foldl max 0

def execStoreSplit (r : CmdRef) (s : State) : Res :=
  runCmd s r 0x0C01 noChecks fun s1 x e =>
    let n := par e 0 8
    let endWith (st : State) (pool status : Nat) : State :=
      complete { st with store := { st.store with t4Drain := none }, atlas := { st.atlas with t4Pool := pool } } r status pool 0
    if inTrial s1 then complete s1 r stBusy s1.atlas.t4Pool 0
    else if s1.atlas.t4Pool ≤ n then
      if usableFlash < n * 4096 + nsCap s1 then complete s1 r stNoFit s1.atlas.t4Pool 0
      else endWith (modStore s1 fun v => { v with psNow := if n ≠ 0 ∧ v.psNow = 2 ∧ s1.power.stage ≠ 4 then heldPs s1 0 else v.psNow }) n stOk
    else
      let s2 := modStore s1 fun v => { v with t4Drain := some n }
      match t4Beyond s2 n with
      | [] => endWith s2 n stOk
      | ts =>
        let d := drainT4s s2 (untried x ts)
        if (t4Beyond d.1 n).any (fun q => q.2.2.mig) then noteTried d.1 r (untried x ts) else endWith d.1 (max n (t4Least d.1)) stNoFit

/-! ### LOCK -/

/-- Reserved fields of STORE.LOCK. -/
def lockChecks (e : Bytes) : List (Nat × Bool) :=
  [(16, decide (parFld e 0 1 0 = 3))]

/-- An explicit lock: PENDING until no executing command of PF1 overlaps it (R421, R422).  The row also refuses the reserved OP
0b11 of Table 17.10, which no row of the opcode table has for its own (R7). -/
def execStoreLockCreate (r : CmdRef) (s : State) : Res :=
  runCmdIf s r 0x0C02 (fun e => decide (parFld e 0 1 0 = 0 ∨ parFld e 0 1 0 = 3)) (fun _ e => lockChecks e) fun s1 x e =>
    if s1.store.locks.any (fun l => decide (l.2.cmd = some r)) then s1 else
    match nsAt s1 (par e 4 4) with
    | none => complete s1 r stNotFound 0 0
    | some n =>
      if n.nsze ≤ par e 8 8 then badParam s1 r 24
      else if par e 16 8 = 0 ∨ n.nsze < par e 8 8 + par e 16 8 then badParam s1 r 32
      else match tabGap s1.store.locks 0 64 with
        | none => complete s1 r stBusy 0 0
        | some i =>
          let t := par e 24 4
          modStore s1 fun v => { v with locks := tabPut v.locks i { deny := parFlg e 1 1, excl := parFlg e 1 0, cmd := some x.ref, nsid := par e 4 4, slba := par e 8 8, nlb := par e 16 8, expires := if t = 0 then 0 else merNow s1 + t * msTicks } }

/-- An explicit entry is released; a STORE.LOCK that still waits for it ends with a status (log 19). -/
def releaseLock (s : State) (i : Nat) (status : Nat) : State :=
  match tabFind s.store.locks i with
  | none => s
  | some l =>
    let s1 := freeLock s i
    match l.cmd with
    | some c => complete s1 c status 0 0
    | none => s1

def execStoreLockRelease (r : CmdRef) (s : State) : Res :=
  runCmdIf s r 0x0C02 (fun e => decide (parFld e 0 1 0 = 1)) (fun _ e => lockChecks e) fun s1 _ e =>
    let i := parFld e 2 5 0
    match tabFind s1.store.locks i with
    | some l => if l.dma.isSome then complete s1 r stNotFound 0 0 else complete (releaseLock s1 i stCancelled) r stOk 0 0
    | none => complete s1 r stNotFound 0 0

/-- A range-lock entry (Table 17.5). -/
def lockBytes : Option RLock → Bytes
  | none => List.replicate 32 0
  | some l => leBytes 1 (if l.active then 2 else 1) ++ leBytes 1 (bit01 l.excl + 2 * bit01 l.deny) ++ leBytes 2 (bit01 l.dma.isSome) ++
      leBytes 4 l.nsid ++ leBytes 8 l.slba ++ leBytes 8 l.nlb ++ leBytes 8 l.expires

def execStoreLockList (r : CmdRef) (s : State) : Res :=
  runCmdIf s r 0x0C02 (fun e => decide (parFld e 0 1 0 = 2)) (fun _ e => lockChecks e) fun s1 x e =>
    complete (cmdHostPut s1 x (par e 32 8) ((List.range 64).flatMap fun i => lockBytes (tabFind s1.store.locks i))) r stOk 0 0

/-- A pending lock turns ACTIVE once every overlapping command of PF1 that is executing has completed; its STORE.LOCK completes
(R422). -/
def execLockActivate (i : Nat) (s : State) : Res :=
  match tabFind s.store.locks i with
  | none => .next s
  | some l =>
    if l.active ∨ lockBusy s l then .next s else
    let s1 := modStore s fun v => { v with locks := tabPut v.locks i { l with active := true, cmd := none } }
    match l.cmd with
    | some c => .next (complete s1 c stOk i 0)
    | none => .next s1

/-- An explicit lock is released at EXPIRES (R423). -/
def execLockExpiry (i : Nat) (s : State) : Res :=
  match tabFind s.store.locks i with
  | none => .next s
  | some l =>
    if l.expires = 0 ∨ l.dma.isSome then .next s
    else .next (releaseLock (advanceMer s l.expires) i stTimeout)

/-! ### ARB, HEALTH -/

/-- What StoreArb requires of its entry (R385): byte offset and whether the field there is at fault. -/
def chkStoreArb (_ : CmdRef) (_ : State) (e : Bytes) : List (Nat × Bool) :=
  [(16, decide (par e 0 1 = 0)), (17, decide (par e 1 1 = 0)), (18, decide (par e 2 1 = 0)), (22, decide (par e 4 2 ≤ par e 6 2))]

def execStoreArb (r : CmdRef) (s : State) : Res :=
  runCmd s r 0x0C03 (chkStoreArb r) fun s1 _ e =>
    if inTrial s1 then complete s1 r stBusy 0 0 else
    complete (modStore s1 fun v => { v with
      dmaw := par e 0 1, t4w := par e 1 1, gcw := par e 2 1, gclow := par e 4 2, gccrit := par e 6 2 }) r stOk 0 0

/-- What StoreHealth requires of its entry (R385): byte offset and whether the field there is at fault. -/
def chkStoreHealth (_ : CmdRef) (_ : State) (e : Bytes) : List (Nat × Bool) :=
  [(16, decide (par e 0 8 % 8 ≠ 0))]

def execStoreHealth (r : CmdRef) (s : State) : Res :=
  runCmd s r 0x0C04 (chkStoreHealth r) fun s1 x e =>
    complete (cmdHostPut s1 x (par e 0 8) (vendorLog s1)) r stOk 0 0

end Sys2Proof.Machine
end

