-- ==== Sys2Proof/Machine/DmaCmds.lean ====
section
/-! DEFINITION. DMA.COPY (R407, R420, R421, Table 16.10). -/

namespace Sys2Proof.Machine

def dcSkind (e : Bytes) : Nat := par e 0 1
def dcDkind (e : Bytes) : Nat := par e 1 1
def dcSrc (e : Bytes) : Nat := par e 8 8
def dcDst (e : Bytes) : Nat := par e 16 8
def dcLen (e : Bytes) : Nat := par e 24 8
def dcNlist (e : Bytes) : Nat := par e 32 4
def dcNs (e : Bytes) : Bool := decide (dcSkind e = 3 ∨ dcDkind e = 3)

/-- Do the ranges of an atlas-to-atlas copy overlap? -/
def dcOverlap (e : Bytes) : Bool :=
  decide (dcSkind e = 2 ∧ dcDkind e = 2 ∧ dcSrc e < dcDst e + dcLen e ∧ dcDst e < dcSrc e + dcLen e)

/-- Checks of the entry. -/
def dcChecks (e : Bytes) : List (Nat × Bool) :=
  let list := dcSkind e = 1 ∨ dcDkind e = 1
  [(20, !dcNs e && decide (par e 4 4 ≠ 0)),
   (24, decide (dcSkind e = 2) && decide (2 ^ 57 ≤ dcSrc e)), (32, decide (dcDkind e = 2) && decide (2 ^ 57 ≤ dcDst e)),
   (32, dcOverlap e), (40, decide (dcLen e = 0 ∨ 2 ^ 40 < dcLen e)),
   (48, if list then decide (dcNlist e = 0 ∨ 65536 < dcNlist e) else decide (dcNlist e ≠ 0))]

/-- Does the namespace side fit its namespace (R407)?  The offset of the field that does not. -/
def dcNsBad (n : Ns) (e : Bytes) : Option Nat :=
  let off := if dcSkind e = 3 then dcSrc e else dcDst e
  if off % lbaBytes n ≠ 0 ∨ nsBytesOf n < off then some (if dcSkind e = 3 then 24 else 32)
  else if dcLen e % lbaBytes n ≠ 0 ∨ nsBytesOf n < off + dcLen e then some 40
  else none

/-- Lengths of a list of host extents, summed. -/
def listSum (l : Bytes) (n : Nat) : Nat := ((List.range n).map fun i => fieldAt l (16 * i + 8) 8).sum

/-- Host extents of the part [off, off + n) of a transfer, given those left and the transfer offset of the first. -/
def listParts : List (Nat × Nat) → Nat → Nat → Nat → List (Nat × Nat)
  | [], _, _, _ => []
  | (a, len) :: t, base, off, n =>
    let lo := max base off
    let hi := min (base + len) (off + n)
    (if lo < hi then [(a + (lo - base), hi - lo)] else []) ++ listParts t (base + len) off n

/-- Where the bytes of a piece lie in host memory. -/
def hostParts (x : Inflight) (kind addr off n : Nat) : List (Nat × Nat) :=
  if kind = 0 then [(addr + off, n)]
  else
    let l := x.block.getD []
    listParts ((List.range (dcNlist x.entry)).map fun i => (fieldAt l (16 * i) 8, fieldAt l (16 * i + 8) 8)) 0 off n

/-- The implicit lock of a command (R421). -/
def dcLock (s : State) (r : CmdRef) : Option RLock := (s.store.locks.find? fun l => decide (l.2.dma = some r)).map (·.2)

/-- Take the implicit lock; the command waits while the table is full. -/
def dcTakeLock (s : State) (r : CmdRef) (n : Ns) (e : Bytes) : State :=
  match tabGap s.store.locks 0 64 with
  | none => s
  | some i =>
    let off := if dcSkind e = 3 then dcSrc e else dcDst e
    modStore s fun v => { v with locks := tabPut v.locks i { excl := decide (dcDkind e = 3), dma := some r, nsid := par e 4 4, slba := off / lbaBytes n, nlb := dcLen e / lbaBytes n } }

/-- Has the host list been read, where the command has one? -/
def dcListed (x : Inflight) : Bool := decide (dcNlist x.entry = 0) || x.block.isSome

/-- Can the pieces of a command move: it has started, its list is there, its lock is ACTIVE? -/
def dcReady (s : State) (x : Inflight) : Bool :=
  x.started && dcListed x && (!dcNs x.entry || (match dcLock s x.ref with | some l => l.active | none => false))

/-! ### The funnel of the service DMA (R436, Table 18.2) -/

/-- Bytes of a command's next piece. -/
def pieceLen (x : Inflight) : Nat := min 65536 (dcLen x.entry - x.done)

/-- DMA.COPY commands in flight whose pieces move or could move, in fetch order. -/
def bulkCmds (s : State) : List Inflight :=
  s.inflight.filter fun x => decide (entryOp x.entry = 0x1201 ∧ x.status = none) && dcReady s x

/-- Contexts of the 64 that class BULK may still take: what the classes above it and host buffers leave, but at least one in eight
while it has work (R436). -/
def bulkFree (s : State) : Nat :=
  let held := s.host.funnel.held
  let others := (s.host.reads.filter fun q => match q with
    | .cmd r => !held.contains r
    | .t3 _ _ => false
    | .nvme _ _ => false
    | _ => true).length
  max (64 - (held.length + others)) (8 - held.length)

/-- The function that the deficit round-robin serves: the one it served last while its deficit lasts, else the next with work, which
gains a quantum of 64 KiB. -/
def bulkTurn (f : Funnel) (want : List Inflight) : Option (Inflight × Nat × Nat) :=
  let ofFn (n : Nat) : Option Inflight := want.find? fun x => decide (x.ref.fn = n)
  let d (n : Nat) : Nat := tabGet f.deficit n 0
  match (ofFn f.turn).filter fun x => decide (pieceLen x ≤ d f.turn) with
  | some x => some (x, f.turn, d f.turn)
  | none => (List.range 64).findSome? fun i =>
      let n := (f.turn + 1 + i) % 64
      (ofFn n).map fun x => (x, n, d n + 65536)

/-- Give transfer contexts to pieces as long as there are any, function by function. -/
def fillBulk : Nat → State → State
  | 0, s => s
  | fuel + 1, s =>
    let f := s.host.funnel
    let want := (bulkCmds s).filter fun x => !f.held.contains x.ref
    if bulkFree s = 0 then s else
    match bulkTurn f want with
    | none => s
    | some (x, n, d) =>
      let here (q : Nat × Nat) : Bool := want.any fun y => decide (y.ref.fn = q.1)
      fillBulk fuel { s with host := { s.host with
        funnel := { held := f.held ++ [x.ref], turn := n, deficit := tabPut (f.deficit.filter here) n (d - pieceLen x) } } }

/-- The funnel at work: contexts of commands that no longer move anything are free again, and waiting pieces take them. -/
def serveFunnel (s : State) : State :=
  let live := bulkCmds s
  let held := s.host.funnel.held.filter fun r => live.any fun x => decide (x.ref = r)
  let s1 := if held = s.host.funnel.held then s else { s with host := { s.host with funnel := { s.host.funnel with held := held } } }
  fillBulk 64 s1

/-- The piece of a command has moved: its context is free. -/
def leaveFunnel (s : State) (r : CmdRef) : State :=
  { s with host := { s.host with funnel := { s.host.funnel with held := s.host.funnel.held.filter (· ≠ r) } } }

/-- The command starts: its namespace, lock and list; then its pieces can move (R407, R421, R422) and enter the funnel (R436). -/
def execDmaCopy (r : CmdRef) (s : State) : Res :=
  runCmd s r 0x1201 (fun _ e => dcChecks e) fun s1 x e => serveFunnel <|
    let rest (st : State) : State :=
      if dcListed x then st else
      match x.hdata with
      | none => askHost st x
      | some l =>
        if listSum l (dcNlist e) < dcLen e then badParam st r 48
        else if x.stopped.isSome then complete st r (x.stopped.getD stCancelled) 0 0
        else modInfl st r fun y => { y with block := some l, hdata := none }
    if !dcNs e then rest s1
    else if r.fn ≠ 0 then complete s1 r stNoPerm 0 0
    else match nsAt s1 (par e 4 4) with
    | none => complete s1 r stNotFound 0 0
    | some n =>
      match dcNsBad n e with
      | some o => badParam s1 r o
      | none =>
        let s2 := if (dcLock s1 r).isSome then s1 else dcTakeLock s1 r n e
        rest (modStore s2 fun v => { v with psNow := if v.psNow = 2 ∧ s2.power.stage ≠ 4 then (heldPs s2 (if v.ps = 2 then 0 else v.ps)) else v.psNow })

/-- The source bytes of a piece, once they are there: `error` is the state in which the command waits or has ended. -/
def dcRead (s : State) (x : Inflight) (off n : Nat) : Except State (State × Bytes) :=
  let e := x.entry
  match dcSkind e with
  | 2 =>
    match cmdRead s x (cmdTenant x) walkHubControl (dcSrc e + off) n with
    | .ok s1 bs => .ok (s1, bs)
    | .wait s1 => .error s1
    | .fault k c p => .error (cmdFault s x srcDma k 0 c p x.done)
  | 3 =>
    if s.power.stage = 4 then .error s else
    let us := mediaUnits s (par e 4 4) (dcSrc e + off) n
    let queued := s.store.chans.any fun q => q.2.ops.any fun o => match o.2 with | .dma r _ => decide (r = x.ref) | .nvme _ _ _ => false
    if queued then .error s
    else if readLost s (par e 4 4) (dcSrc e + off) n then .error (complete s x.ref stMedia x.done 0)
    else if x.got = [] ∧ us ≠ [] then
      .error (queueReads (modInfl s x.ref fun y => { y with got := [(off, [])] }) .dma (.dma x.ref) us)
    else .ok (s, nsReads s (par e 4 4) (dcSrc e + off) n)
  | _ =>
    match hostBuf x with
    | some d => .ok (s, padTo n d)
    | none => .error (askHost s x)

/-- A piece is complete: the next follows, or the command ends (R407, R393). -/
def dcPieceDone (s : State) (x : Inflight) (n : Nat) : State :=
  let d := x.done + n
  let s1 := countEv s srcDma 0x0681 (cmdTenant x)
  if d = dcLen x.entry then complete s1 x.ref stOk d 0
  else match x.stopped with
  | some st => complete s1 x.ref st d 0
  | none => modInfl s1 x.ref fun y => { y with done := d, hdata := none, got := [], acted := [], after := none }

/-- The destination of a piece is written. -/
def dcWrite (s : State) (x : Inflight) (off n : Nat) (bs : Bytes) : State :=
  let e := x.entry
  match dcDkind e with
  | 2 =>
    match cmdWrite s x (cmdTenant x) walkHubControl (dcDst e + off) bs with
    | .wait s1 => s1
    | .fault k c p => cmdFault s x srcDma k 1 c p x.done
    | .ok s1 _ =>
      if ((inflAt s1 x.ref).map (·.sent)).getD [] = [] then dcPieceDone s1 x n
      else modInfl s1 x.ref fun y => { y with acted := [(off, n)] }
  | 3 =>
    if spareOut s then complete s x.ref stMedia x.done 0
    else
      let s1 := wbPush s { nsid := par e 4 4, off := dcDst e + off, len := n, data := bs }
      modInfl s1 x.ref fun y => { y with after := some s.store.nextWb }
  | k =>
    let s1 := ((hostParts x k (dcDst e) off n).foldl (fun (a : State × Bytes) q =>
      (hostPutP a.1 (ownCmd x.ref) x.ref.fn (mboxPasid s x.ref.fn x.ref.mbox) (cmdTenant x) 7 q.1 (a.2.take q.2), a.2.drop q.2)) (s, bs)).1
    dcPieceDone s1 x n

/-- The next piece of a command that holds a transfer context goes on. -/
def pieceGo (s : State) (x : Inflight) : State :=
  let n := pieceLen x
  match x.after with
  | some w => if wbDurable s w then dcPieceDone s x n else s
  | none =>
    if x.sent ≠ [] then s
    else if x.acted ≠ [] then dcPieceDone s x n
    else match dcRead s x x.done n with
    | .error s1 => s1
    | .ok (s1, bs) => dcWrite s1 x x.done n bs

/-- The next piece of a DMA.COPY moves, once it holds a transfer context (R436): it is complete when its destination writes have been
acknowledged, made durable, or sent to the host (R407, R420), and its context is then free for another piece. -/
def execDmaPieceComplete (r : CmdRef) (s : State) : Res :=
  match runnable s r 0x1201 with
  | none => .next s
  | some x =>
    let s0 := serveFunnel s
    if !s0.host.funnel.held.contains r then .next s0 else
    let s1 := pieceGo s0 x
    .next (if (inflAt s1 r).map (·.done) = some x.done then s1 else serveFunnel (leaveFunnel s1 r))

end Sys2Proof.Machine
end

