-- ==== Sys2Proof/Machine/SeqOps.lean ====
section
/-! DEFINITION. Sequences: names, KV blocks, prefix cache, output streams, ends (chapter 10). -/

namespace Sys2Proof.Machine

/-! ### Text units (R276) -/

/-- A unit joins those that wait for a text engine. -/
def addUnit (s : State) (t : Nat) (u : TextUnit) : State := modServing s fun v => { v with units := v.units ++ [(t, u)] }

/-- An engine lets go of its unit. -/
def freeEngine (s : State) (e : Nat) : State := modServing s fun v => { v with engines := tabDel v.engines e }

/-- Sequence of a SEQID. -/
def seqOfId (s : State) (id : Nat) : Option (Nat × Seq) :=
  match seqAt s (id % 2 ^ 14) with
  | some x => if seqIdOf (id % 2 ^ 14) x = id then some (id % 2 ^ 14, x) else none
  | none => none

/-! ### Poisoned and hinted KV tiles (R248, R271) -/

/-- Pages of a KV block of a version (R246). -/
def kvPages (v : ModelVer) (b : Nat) : List Nat :=
  (List.range (svKvtiles v)).map fun i => (v.wspage + svN v 60 4 + b * svKvtiles v + i) % 2 ^ 41

/-- Is a tile of a KV block poisoned? -/
def kvPoisoned (s : State) (t : Nat) (v : ModelVer) (b : Nat) : Bool :=
  poisonedIn s t (kvPages v b)

/-- COLD hints for blocks. -/
def kvCold (s : State) (t : Nat) (v : ModelVer) (bs : List Nat) : State :=
  (bs.flatMap (kvPages v)).foldl (fun st p => hintCold st t p) s

/-- WILLNEED hints for blocks. -/
def kvWillneed (s : State) (t : Nat) (v : ModelVer) (bs : List Nat) : State :=
  (bs.flatMap (kvPages v)).foldl (fun st p => hintWillneed st t walkHubControl p) s

/-! ### Blocks (R246, R247, R251) -/

/-- Sequences that refer to a block of a version. -/
def blockRefs (s : State) (q : Nat × Nat) (b : Nat) : Nat :=
  (s.serving.seqs.filter fun x => (decide (x.2.gen0 = q) && x.2.btab.contains b) || (decide (x.2.drafter = some q) && x.2.dtab.contains b)).length

/-- Is a block published? -/
def blockPub (sv : VerServe) (b : Nat) : Bool := match tabFind sv.blocks b with | some k => k.hash.isSome | none => false

/-- Free blocks: neither referred to nor published. -/
def freeBlocks (s : State) (q : Nat × Nat) (v : ModelVer) : List Nat :=
  (List.range (svKvblocks v)).filter fun b => decide (blockRefs s q b = 0) && !blockPub v.sv b

/-- Cached blocks: published, and referred to by none. -/
def cachedBlocks (s : State) (q : Nat × Nat) (v : ModelVer) : List Nat :=
  (List.range (svKvblocks v)).filter fun b => decide (blockRefs s q b = 0) && blockPub v.sv b

/-- The cached block released or hit least recently. -/
def oldestCached (v : ModelVer) (bs : List Nat) : Option Nat :=
  bs.foldl (fun o b => match o with
    | none => some b
    | some a => if (tabGet v.sv.blocks b {}).used < (tabGet v.sv.blocks a {}).used then some b else some a) none

/-! ### Block tables and block records in memory (R237, R246) -/

/-- Token IDs as little-endian U32 values. -/
def tokBytes (ts : List Nat) : Bytes := ts.flatMap (leBytes 4)

/-- A sequence's block table as it is written (R246). -/
def tableBytes (v : ModelVer) (bs : List Nat) : Bytes := tokBytes bs ++ List.replicate (4 * (svMaxctx v / 64 - bs.length)) 0xFF

/-- A write of the sequencer's own areas waits for its page; a later one of the same address takes its place. -/
def addPend (s : State) (q : Nat × Nat) (i va : Nat) (bs : Bytes) : State :=
  modSv s q fun sv => { sv with pend := (sv.pend.filter fun w => decide (w.2.1 ≠ va)) ++ [(i, va, bs)] }

/-- A sequence's block table has changed. -/
def pendTab (s : State) (i : Nat) (draft : Bool) : State :=
  match seqAt s i with
  | none => s
  | some x =>
    match if draft then x.drafter else some x.gen0 with
    | none => s
    | some q =>
      match verAt s q with
      | none => s
      | some v => addPend s q i (wsVa v (svN v 52 4 + if draft then x.dbt else x.bt)) (tableBytes v (if draft then x.dtab else x.btab))

/-- The record of a block of a version has changed: 128 of 512 bytes each to a page (Table 10.1). -/
def pendRec (s : State) (q : Nat × Nat) (i b : Nat) : State :=
  match verAt s q with
  | none => s
  | some v =>
    let k := (tabFind v.sv.blocks b).bind fun k => k.hash.map fun h => (h, k.toks, k.pred)
    addPend s q i (wsVa v (svN v 56 4) + 512 * b) (leBytes 512 (Config.blockRecord k).toNat)

/-- A block leaves the prefix index. -/
def unpublish (s : State) (q : Nat × Nat) (b : Nat) : State := pendRec (modSv s q fun sv => { sv with blocks := tabDel sv.blocks b }) q 16384 b

/-- Take a block: the lowest free one (log 7), else the oldest cached one, which is unpublished. -/
def takeBlock (s : State) (q : Nat × Nat) (v : ModelVer) : Option (State × Nat) :=
  match freeBlocks s q v with
  | b :: _ => some (s, b)
  | [] => (oldestCached v (cachedBlocks s q v)).map fun b => (unpublish s q b, b)

/-- Release blocks of a sequence that no other refers to: published ones turn cached (R247, R248). -/
def releaseBlocks (s : State) (q : Nat × Nat) (bs : List Nat) : State :=
  match verAt s q, modelAt s q.1 with
  | some v, some m =>
    let free := (distinctN bs).filter fun b => decide (blockRefs s q b = 0)
    let pub := free.filter (blockPub v.sv)
    let upd (sv : VerServe) : VerServe := { sv with
      blocks := pub.foldl (fun tb b => tabUpd tb b fun k => { k with used := sv.clock }) sv.blocks
      clock := sv.clock + 1
      per := { sv.per with freed := sv.per.freed + free.length } }
    kvCold (modSv s q upd) m.tenant v pub
  | _, _ => s

/-- A sequence gives up its blocks. -/
def dropBlocks (s : State) (i : Nat) : State :=
  match seqAt s i with
  | none => s
  | some x =>
    let s1 := modSeq s i fun y => { y with btab := [], dtab := [], c := 0, cd := 0 }
    let s2 := releaseBlocks s1 x.gen0 x.btab
    match x.drafter with
    | some q => releaseBlocks s2 q x.dtab
    | none => s2

/-- Blocks still reserved for sequences of a version under ADMIT (R249). -/
def reserved (s : State) (q : Nat × Nat) : Nat :=
  ((s.serving.seqs.filter fun x => decide (x.2.gen0 = q)).map fun x => x.2.resv - x.2.btab.length).sum

/-- Is a sequence in a step that has not ended? -/
def inStep (s : State) (q : Nat × Nat) (id : Nat) : Bool :=
  match verAt s q with
  | some v => v.sv.steps.any fun r => r.ents.any fun e => decide (e.seq = id)
  | none => false

/-- Is a sequence in a step of any model it uses? -/
def inAnyStep (s : State) (i : Nat) (x : Seq) : Bool :=
  let id := seqIdOf i x
  inStep s x.gen0 id || [x.drafter, x.encoder, x.rerank].any fun o => match o with | some q => inStep s q id | none => false

/-- The victim of an eviction (R249): not in a step, of the worst PRIO, the most recently admitted. -/
def evictVictim (s : State) (q : Nat × Nat) (keep : List Nat) : Option Nat :=
  let cs := s.serving.seqs.filter fun x => decide (x.2.gen0 = q) && decide (x.2.st = .prefill ∨ x.2.st = .decode) && !keep.contains x.1
    && !inAnyStep s x.1 x.2 && decide (x.2.resv = 0) && decide (x.2.btab ≠ []) && x.2.ending.isNone
  (cs.foldl (fun o x => match o with
    | none => some x
    | some y => if sqPrio y.2 < sqPrio x.2 ∨ (sqPrio y.2 = sqPrio x.2 ∧ y.2.order < x.2.order) then some x else some y) none).map (·.1)

/-! ### Prefix cache (R250 to R252) -/

/-- The seed of the prefix hash. -/
def prefixSeed (x : Seq) : Bytes :=
  leBytes 1 x.tenant ++ leBytes 3 0 ++ leBytes 4 x.gen0.1 ++ leBytes 4 x.gen0.2 ++ leBytes 8 (sqSalt x)

/-- The prefix hash of block j (R250). -/
def prefixHash (x : Seq) : Nat → Bytes
  | 0 => shake256 (shake256 (prefixSeed x) 16 ++ tokBytes (x.toks.take 64)) 16
  | j + 1 => shake256 (prefixHash x j ++ tokBytes ((x.toks.drop (64 * (j + 1))).take 64)) 16

/-- Publish block j of a sequence unless its hash is in the index already (R251). -/
def publishOne (q : Nat × Nat) (i : Nat) (s : State) (j : Nat) : State :=
  match seqAt s i, verAt s q with
  | some x, some v =>
    match x.btab[j]? with
    | none => s
    | some b =>
      if blockPub v.sv b then s else
      let h := prefixHash x j
      if v.sv.blocks.any fun k => decide (k.2.hash = some h) then s else
      let k : KvBlock := { hash := some h, toks := (x.toks.drop (64 * j)).take 64, pred := if j = 0 then none else x.btab[j - 1]? }
      pendRec (modSv s q fun sv => { sv with blocks := tabPut sv.blocks b k }) q i b
  | _, _ => s

/-- Publish the blocks that C has passed. -/
def publish (s : State) (i : Nat) : State :=
  match seqAt s i with
  | none => s
  | some x => if sqNocache x then s else (List.range (x.c / 64)).foldl (publishOne x.gen0 i) s

/-- The published block that matches block j after a predecessor. -/
def prefixHit (x : Seq) (v : ModelVer) (j : Nat) (pred : Option Nat) : Option Nat :=
  (v.sv.blocks.find? fun k => decide (k.2.hash = some (prefixHash x j)) && decide (k.2.toks = (x.toks.drop (64 * j)).take 64)
    && decide (k.2.pred = pred)).map (·.1)

/-- Matching blocks from j on, at most `fuel`. -/
def prefixRun (x : Seq) (v : ModelVer) : Nat → Nat → Option Nat → List Nat
  | 0, _, _ => []
  | n + 1, j, pred =>
    match prefixHit x v j pred with
    | some b => b :: prefixRun x v n (j + 1) (some b)
    | none => []

/-- Published blocks with a poisoned tile leave the prefix index (R271). -/
def dropPoisoned (s : State) (q : Nat × Nat) : State :=
  match verAt s q, modelAt s q.1 with
  | some v, some m => (v.sv.blocks.filter fun k => k.2.hash.isSome && kvPoisoned s m.tenant v k.1).foldl (fun st k => unpublish st q k.1) s
  | _, _ => s

/-- A sequence enters QUEUED: its prefix is looked up (R252). -/
def enterQueued (s0 : State) (i : Nat) : State :=
  match seqAt s0 i with
  | none => s0
  | some x =>
    let s := dropPoisoned s0 x.gen0
    let bs := if sqNocache x then [] else match verAt s x.gen0 with
      | some v => prefixRun x v (ceilDiv x.toks.length 64 - 1) 0 none
      | none => []
    let s1 := modSv s x.gen0 fun sv => { sv with
      blocks := bs.foldl (fun tb b => tabUpd tb b fun k => { k with used := sv.clock }) sv.blocks, clock := sv.clock + 1 }
    pendTab (modSeq s1 i fun y => { y with
      st := .queued, stage := .run, btab := bs, c := 64 * bs.length, cached := min (64 * bs.length) (y.plen.getD 0) }) i false

/-- Evict a sequence (R249). -/
def evict (s : State) (i : Nat) : State :=
  let t := ((seqAt s i).map (·.tenant)).getD 0
  enterQueued (setFlag (dropBlocks (countEv s srcSeq 0x0504 t) i) i 4) i

/-- Give a sequence the blocks its next positions need, evicting under TRACK: none when they cannot be had. -/
def allocLoop (q : Nat × Nat) (i : Nat) (draft : Bool) (keep : List Nat) (need : Nat) : Nat → State → Option State
  | 0, s => match seqAt s i with
    | some x => if need ≤ (if draft then x.dtab.length else x.btab.length) then some s else none
    | none => none
  | fuel + 1, s =>
    match seqAt s i, verAt s q with
    | some x, some v =>
      if need ≤ (if draft then x.dtab.length else x.btab.length) then some s else
      match takeBlock s q v with
      | some (s1, b) => allocLoop q i draft keep need fuel
          (modSeq s1 i fun y => if draft then { y with dtab := y.dtab ++ [b] } else { y with btab := y.btab ++ [b] })
      | none =>
        match evictVictim s q (i :: keep) with
        | some z => allocLoop q i draft keep need fuel (evict s z)
        | none => none
    | _, _ => none

/-- Blocks for positions below `upto`. -/
def allocKv (s : State) (q : Nat × Nat) (i : Nat) (draft : Bool) (keep : List Nat) (upto : Nat) : Option State :=
  (allocLoop q i draft keep (ceilDiv upto 64) (2 * ceilDiv upto 64 + s.serving.seqs.length + 1) s).map fun s1 =>
    let held (st : State) : List Nat := match seqAt st i with | some x => if draft then x.dtab else x.btab | none => []
    if held s1 = held s then s1 else pendTab s1 i draft

/-! ### The end of a sequence (R265, R266, R300) -/

/-- Does a reason release the held-back text (Table 11.11)? -/
def releasesHeld (reason : Nat) : Bool := decide (reason = 1 ∨ reason = 2 ∨ reason = 4 ∨ reason = 5)

/-- Does a reason keep the text that is released and not yet written? -/
def keepsText (reason : Nat) : Bool := decide (reason ≤ 5)

/-- Queries of an index lose those of a sequence. -/
def dropQueries (i : Nat) (ix : Index) : Index :=
  let mine (q : SQuery) : Bool := match q.owner with | .seq j _ => decide (j = i) | .cmd _ => false
  let cut (b : SBatch) : SBatch := { b with queries := b.queries.filter fun q => !mine q }
  { ix with waiting := ix.waiting.filter fun q => !mine q, batches := ix.batches.map fun b => (b.1, cut b.2) }

/-- A sequence's slot, blocks, units and bindings are freed. -/
def freeSeq (s : State) (i : Nat) : State :=
  match seqAt s i with
  | none => s
  | some x =>
    let s1 := dropBlocks s i
    let s2 := modServing s1 fun v => cutUnits (fun u => decide (unitSeq u = some i)) { v with
      seqs := tabDel v.seqs i
      gens := tabPut v.gens i ((x.gen + 1) % 4096) }
    let s3 := { s2 with
      search := { s2.search with ixs := s2.search.ixs.map fun q => (q.1, dropQueries i q.2) }
      host := { s2.host with reads := s2.host.reads.filter (· ≠ .stream i) } }
    let s4 := modSv s3 x.gen0 fun sv => { sv with per := { sv.per with ended := sv.per.ended + 1, life := sv.per.life + (s.clk.ticks - x.since) } }
    settleModels s4

/-- Write into the ring what fits of the released text, then PROD (R265). -/
def ringText (s : State) (i : Nat) (x : Seq) : State :=
  let size := 2 ^ sqOutlog2 x
  let n := min x.outq.length (size - (x.prod - x.cons))
  if n = 0 then s else
  let a := sqOutaddr x
  let off := x.prod % size
  let now := x.outq.take n
  let s1 := hostPutP s (ownSeq i) x.fn x.pasid x.tenant 6 (a + 4096 + off) (now.take (size - off))
  let s2 := if size - off < n then hostPutP s1 (ownSeq i) x.fn x.pasid x.tenant 6 (a + 4096) (now.drop (size - off)) else s1
  let s3 := hostPutP s2 (ownSeq i) x.fn x.pasid x.tenant 6 a (leBytes 8 (x.prod + n))
  let late := decide (x.ttft.isNone) && decide ((polAt s x.tenant).ttftgoal * usTicks < merNow s - x.submitt)
  let s4 := if late then modPol s3 x.tenant fun p => { p with ttftmiss := (p.ttftmiss + 1) % 2 ^ 32 } else s3
  modSeq s4 i fun y => { y with prod := y.prod + n, outq := y.outq.drop n, ttft := some (y.ttft.getD (merNow s - y.submitt)) }

/-- Does a sequence hold a fault record that waits (R189)? -/
def seqRecord (s : State) (t i : Nat) : Bool := (ctxAt s t).waiting.any fun w => decide (w.holder = .seq i)

/-- Released text leaves; once all of it has, and no record of the sequence waits, an end that waits takes effect. -/
def flushSeq (s : State) (i : Nat) : State :=
  match seqAt s i with
  | none => s
  | some x =>
    let s1 := match x.stub with
      | some (m, id) =>
        if x.outq = [] then s else
        modSeq (sendSeq s (seqMsg x.tenant 4 m true (leBytes 4 mkText ++ leBytes 4 id ++ leBytes 4 x.outq.length ++ x.outq))) i fun y =>
          { y with prod := y.prod + y.outq.length, outq := [] }
      | none => ringText s i x
    match seqAt s1 i with
    | none => s1
    | some y =>
      if y.outq ≠ [] then
        if s1.host.reads.contains (.stream i) ∨ y.pollAt.isSome then s1 else addReadP s1 y.pasid y.tenant 6 (.stream i)
      else match y.ending with
        | some (r, st, d) => if seqRecord s1 y.tenant i then s1 else freeSeq (endRecord s1 i y r st d) i
        | none => modSeq s1 i fun z => { z with pollAt := none }

/-- A sequence ends with a reason (R266, R300). -/
def endSeq (s : State) (i reason status detail : Nat) : State :=
  match seqAt s i with
  | none => s
  | some x =>
    if x.ending.isSome then s else
    let held := if releasesHeld reason then x.ts.held else []
    let s1 := modServing (modSeq s i fun y => { y with
        ending := some (reason, status, detail)
        outq := if keepsText reason then y.outq ++ held else []
        after := y.after - y.emit.length, emit := [], emptyNext := false, drafts := []
        ts := { y.ts with held := [], asm := [] } }) (cutUnits fun u => decide (unitSeq u = some i))
    flushSeq s1 i

/-- A fault ends a sequence with a status, and with a record (R271). -/
def seqFaultAs (s : State) (i src st kind acc cause page : Nat) : State :=
  match seqAt s i with
  | none => s
  | some x =>
    let r := atlasRecord (merNow s) src kind 0xFF (seqIdOf i x) acc page 0 0xFFFF 0 cause
    endSeq (postFault s x.tenant { bytes := r, holder := .seq i }) i 8 st 0

/-- A fault of the sequencer's or a text engine's own access (R271). -/
def seqFault (s : State) (i src kind acc cause page : Nat) : State := seqFaultAs s i src (faultStatus kind) kind acc cause page

/-- Make the waiting writes of a version's block tables and records whose pages are ready; a fault ends the sequence concerned (R237,
R246, R271). -/
def flushArea (s : State) (q : Nat × Nat) : State :=
  match modelAt s q.1, verAt s q with
  | some m, some v =>
    if v.sv.pend = [] then s else
    let one (a : State × List (Nat × Nat × Bytes) × List (Nat × Nat × Nat × Nat)) (w : Nat × Nat × Bytes) :
        State × List (Nat × Nat × Bytes) × List (Nat × Nat × Nat × Nat) :=
      let ps := bytePages w.2.1 w.2.2.length
      match engReady a.1 m.tenant walkHubControl .write ps with
      | .ready => (touchPages (hubWrite a.1 m.tenant w.2.1 w.2.2) m.tenant walkHubControl ps, a.2.1, a.2.2)
      | .wait s1 => (s1, a.2.1 ++ [w], a.2.2)
      | .fault k c p => (a.1, a.2.1, a.2.2 ++ [(w.1, k, c, p)])
    let r := v.sv.pend.foldl one (s, [], [])
    r.2.2.foldl (fun st f => seqFault st f.1 srcSeq f.2.1 1 f.2.2.1 f.2.2.2) (modSv r.1 q fun sv => { sv with pend := r.2.1 })
  | _, _ => s

/-- The same for every version. -/
def flushAreas (s : State) : State :=
  (s.models.models.flatMap fun m => m.2.vers.map fun v => (m.1, v.1)).foldl flushArea s

/-- Released text joins what waits for the ring. -/
def releaseText (s : State) (i : Nat) (bs : Bytes) : State :=
  flushSeq (modSeq s i fun x => { x with outq := x.outq ++ bs }) i

/-- A sequence that a reset ends without an end record (Table 10.9). -/
def killSeq (s : State) (i : Nat) : State := freeSeq (modSeq s i fun x => { x with ending := some (9, stAborted, 0) }) i

end Sys2Proof.Machine
end

