-- ==== Sys2Proof/Machine/Vector.lean ====
section
/-! DEFINITION. The vector unit: loads, stores and VU.OP (R103 to R105, Tables 5.6, 5.7; network operations R117 to
R126).  A command's result is applied when it issues, in issue order, and its scoreboard entries are released when it
completes (assumption log 8). -/

namespace Sys2Proof.Machine

/-- Lane i of register r. -/
def vLane (v : Tab Word) (r i : Nat) : Word := tabGet v (r * 64 + i) 0

/-- Write lane i of register r. -/
def vPut (v : Tab Word) (r i : Nat) (w : Word) : Tab Word := tabPut v (r * 64 + i) w

/-- A value in a group: register g of the group based at r, lane i, for a type of `n` registers a value. -/
def vVal (v : Tab Word) (n r g i : Nat) : Nat :=
  if n = 2 then (vLane v (r + 2 * g) i).toNat + (vLane v (r + 2 * g + 1) i).toNat % 256 * 2 ^ 32
  else (vLane v (r + g) i).toNat

/-- Write a value in a group. -/
def vSet (n r g i : Nat) (v : Tab Word) (w : Nat) : Tab Word :=
  if n = 2 then vPut (vPut v (r + 2 * g) i (BitVec.ofNat 32 w)) (r + 2 * g + 1) i (BitVec.ofNat 32 (w / 2 ^ 32 % 256))
  else vPut v (r + g) i (BitVec.ofNat 32 w)

/-- Every (g, i) of a group of G registers. -/
def groupPos (g lanes : Nat) : List (Nat × Nat) := (List.range g).flatMap fun a => (List.range lanes).map fun b => (a, b)

/-! ### Loads and stores (R104) -/

/-- Widen an element exactly into its lane (R104). -/
def vWiden (o : OutFmt) (raw : Nat) : Nat :=
  match o with
  | .s n => twos 32 (sext n raw)
  | .u n => raw % 2 ^ n
  | .flt f => if f = fmtFp32 ∨ f = fmtC40 then raw % 2 ^ (1 + f.eb + f.fb) else fRound fmtFp32 (fDecode f raw)
  | .blk _ => 0

/-- Convert a lane for a store (R55, R104); a store in the lane's own format copies its bits, a NaN's among them (log 45). -/
def vNarrow (o : OutFmt) (w : Nat) : Nat :=
  match o with
  | .s _ => twos (8 * outSize o) (clampI (intRange o).1 (intRange o).2 (sext 32 w))
  | .u _ => twos (8 * outSize o) (clampI (intRange o).1 (intRange o).2 (w % 2 ^ 32))
  | .flt f => if f = fmtFp32 ∨ f = fmtC40 then w % 2 ^ (1 + f.eb + f.fb) else fRound f (fDecode fmtFp32 w)
  | .blk _ => 0

/-- Registers after VU.LD. -/
def vLoad (k : Core) (sl : Slot) (b : Bytes) : Tab Word :=
  let f := ldStF b
  match outFmt f.mfmt, tabFind sl.ctx.regions f.reg with
  | some o, some r =>
    (groupPos f.grp 64).foldl (fun v p =>
      let w := if p.2 < f.lanes then
          let a := laneAt f p.1 p.2
          vWiden o (spadElem k sl r (outSize o) a.1 a.2)
        else 0
      vSet (fmtRegs (some o)) f.vr p.1 p.2 v w) sl.ctx.vregs
  | _, _ => sl.ctx.vregs

/-- Bytes that VU.ST writes, by physical address. -/
def vStoreCells (sl : Slot) (b : Bytes) : List (Nat × Byte) :=
  let f := ldStF b
  match outFmt f.mfmt, tabFind sl.ctx.regions f.reg with
  | some o, some r =>
    (groupPos f.grp f.lanes).flatMap fun p =>
      let a := laneAt f p.1 p.2
      spadCells sl r a.1 (a.2 * outSize o)
        (leBytes (outSize o) (vNarrow o (vVal sl.ctx.vregs (fmtRegs (some o)) f.vr p.1 p.2)))
  | _, _ => []

/-! ### Lane operations (Table 5.7) -/

/-- The float format of a type. -/
def tyFmt (t : VType) : FFmt := if t = .c40 then fmtC40 else fmtFp32

/-- Round an FP32 result to the precision of RND and keep it in FP32; C40 rounds to C40 (R105). -/
def vRound (t : VType) (rnd : Nat) (v : FVal) : Nat :=
  if t = .c40 then fRound fmtC40 v else
  match rnd with
  | 1 => fRound fmtFp32 (fDecode fmtFp16 (fRound fmtFp16 v))
  | 2 => fRound fmtFp32 (fDecode fmtBf16 (fRound fmtBf16 v))
  | _ => fRound fmtFp32 v

/-- Is the type a float type? -/
def tyFlt (t : VType) : Bool := t == .f32 || t == .c40

/-- A lane as an integer of its type. -/
def tyInt (t : VType) (w : Nat) : Int := if t = .s32 then sext 32 w else w % 2 ^ 32

/-- A lane as a float value. -/
def tyVal (t : VType) (w : Nat) : FVal := fDecode (tyFmt t) w

/-- ADD, SUB, MUL, FMA. -/
def opAdd (t : VType) (rnd a b : Nat) : Nat :=
  if tyFlt t then vRound t rnd (fAdd (tyVal t a) (tyVal t b)) else (a + b) % 2 ^ 32
def opSub (t : VType) (rnd a b : Nat) : Nat :=
  if tyFlt t then vRound t rnd (fAdd (tyVal t a) (fNeg (tyVal t b))) else (a + 2 ^ 32 - b % 2 ^ 32) % 2 ^ 32
def opMul (t : VType) (rnd a b : Nat) : Nat :=
  if tyFlt t then vRound t rnd (fMul (tyVal t a) (tyVal t b)) else a * b % 2 ^ 32
def opFma (t : VType) (rnd a b c : Nat) : Nat :=
  if tyFlt t then vRound t rnd (fAdd (fMul (tyVal t a) (tyVal t b)) (tyVal t c)) else (a * b + c) % 2 ^ 32

/-- MIN, MAX. -/
def opMin (t : VType) (rnd a b : Nat) : Nat :=
  if tyFlt t then vRound t rnd (fMin (tyVal t a) (tyVal t b)) else if tyInt t a ≤ tyInt t b then a else b
def opMax (t : VType) (rnd a b : Nat) : Nat :=
  if tyFlt t then vRound t rnd (fMax (tyVal t a) (tyVal t b)) else if tyInt t a ≤ tyInt t b then b else a

/-- ABS, NEG: integers wrap, so that of -2^31 is -2^31. -/
def opAbs (t : VType) (rnd a : Nat) : Nat :=
  if tyFlt t then vRound t rnd (fAbs (tyVal t a))
  else if t = .s32 ∧ sext 32 a < 0 then (2 ^ 32 - a % 2 ^ 32) % 2 ^ 32 else a
def opNeg (t : VType) (rnd a : Nat) : Nat :=
  if tyFlt t then vRound t rnd (fNeg (tyVal t a)) else (2 ^ 32 - a % 2 ^ 32) % 2 ^ 32

/-- DIV, SQRT. -/
def opDiv (rnd a b : Nat) : Nat := vRound .f32 rnd (fDiv (tyVal .f32 a) (tyVal .f32 b))
def opSqrt (rnd a : Nat) : Nat := vRound .f32 rnd (fSqrt (tyVal .f32 a))

/-- Bitwise operations and shifts. -/
def opAnd (a b : Nat) : Nat := a &&& b
def opOr (a b : Nat) : Nat := a ||| b
def opXor (a b : Nat) : Nat := a ^^^ b
def opShl (a b : Nat) : Nat := a * 2 ^ (b % 32) % 2 ^ 32
def opShr (a b : Nat) : Nat := a / 2 ^ (b % 32)
def opSar (a b : Nat) : Nat := twos 32 (sext 32 a / 2 ^ (b % 32))

/-- POPC, HAMM. -/
def opPopc (a : Nat) : Nat := popc 32 a
def opHamm (a b : Nat) : Nat := popc 32 (a ^^^ b)

/-- CVT from one type to another (R55). -/
def opCvt (src dst : VType) (rnd a : Nat) : Nat :=
  if tyFlt dst then vRound dst rnd (if tyFlt src then tyVal src a else fOfInt (tyInt src a))
  else
    let v := if tyFlt src then fToInt (tyVal src a) else tyInt src a
    if dst = .s32 then twos 32 (clampI (-(2 ^ 31)) (2 ^ 31 - 1) v) else (clampI 0 (2 ^ 32 - 1) v).toNat

/-- CMP: EQ, NE, LT, LE, GT, GE; a NaN operand compares unordered. -/
def opCmp (t : VType) (cond a b : Nat) : Nat :=
  let lt := if tyFlt t then fLt (tyVal t a) (tyVal t b) else decide (tyInt t a < tyInt t b)
  let gt := if tyFlt t then fLt (tyVal t b) (tyVal t a) else decide (tyInt t b < tyInt t a)
  let eq := if tyFlt t then fEq (tyVal t a) (tyVal t b) else decide (tyInt t a = tyInt t b)
  bit01 (match cond with | 0 => eq | 1 => !eq | 2 => lt | 3 => lt || eq | 4 => gt | _ => gt || eq)

/-- Transcendentals: which bits within 2 ulp is open; NaN gives the canonical NaN (R55). -/
def opTrans (g : BitVec 32 → BitVec 32) (rnd a : Nat) : Nat :=
  if tyVal .f32 a = .nan then fNan fmtFp32
  else vRound .f32 rnd (tyVal .f32 (g (BitVec.ofNat 32 a)).toNat)

/-! ### Writing a result group (R105, MEN) -/

/-- Does MEN let lane i of VD be written? -/
def vMask (v : Tab Word) (f : VopF) (i : Nat) : Bool := !f.men || decide (vLane v f.vm i ≠ 0)

/-- Operand B of a lane: IMM under BIMM, the upper register of a C40 pair then 0 (log 45). -/
def vopB (v : Tab Word) (f : VopF) (g i : Nat) : Nat := if f.bimm then f.imm else vVal v (tyRegs f.ty) f.vb g i

/-- Apply a function to every lane of the group; the old registers are read throughout. -/
def vMap (v : Tab Word) (f : VopF) (h : Nat → Nat → Nat → Nat) : Tab Word :=
  (groupPos f.grp 64).foldl (fun w p =>
    if vMask v f p.2 then
      vSet (tyRegs (vopDstTy f)) f.vd p.1 p.2 w
        (h (vVal v (tyRegs (vopSrcTy f)) f.va p.1 p.2) (vopB v f p.1 p.2)
          (vVal v (if f.op = 0x22 then 1 else tyRegs f.ty) f.vc p.1 p.2))
    else w) v

/-- Write a reduction: lane 0 of the first register, 0 elsewhere (R105). -/
def vReduce (v : Tab Word) (f : VopF) (r : Nat) : Tab Word :=
  (groupPos f.grp 64).foldl (fun w p =>
    if vMask v f p.2 then vSet (tyRegs f.ty) f.vd p.1 p.2 w (if p = (0, 0) then r else 0) else w) v

/-- Every value of the A group, in position order. -/
def vGroup (v : Tab Word) (f : VopF) : List Nat := (groupPos f.grp 64).map fun p => vVal v (tyRegs f.ty) f.va p.1 p.2

/-- RSUM: the exact sum, rounded once; an S32 sum wraps (log 45). -/
def opRsum (t : VType) (rnd : Nat) (xs : List Nat) : Nat :=
  if tyFlt t then
    vRound t rnd (match xs.map (tyVal t) with | [] => .num false 0 0 false | a :: as => as.foldl fAdd a)
  else xs.sum % 2 ^ 32

/-- RMAX. -/
def opRmax (t : VType) (rnd : Nat) (xs : List Nat) : Nat :=
  match xs with
  | [] => 0
  | a :: as => if tyFlt t then vRound t rnd ((as.map (tyVal t)).foldl fMax (tyVal t a)) else as.foldl (opMax t rnd) a

/-- SOFTMAX: which bits within 2 ulp is open. -/
def vSoftmax (v : Tab Word) (f : VopF) : Tab Word :=
  let xs := (vGroup v f).map (BitVec.ofNat 32)
  (groupPos f.grp 64).foldl (fun w p =>
    if vMask v f p.2 then
      vSet 1 f.vd p.1 p.2 w (vRound .f32 f.rnd (tyVal .f32 (Config.softmax xs (p.1 * 64 + p.2)).toNat))
    else w) v

/-! ### Network operations (R117 to R126) -/

/-- An element: score, ID, order word (R117). -/
structure Elem where
  score : Nat
  id : Nat
  ord : Nat
  deriving DecidableEq, Repr

/-- Is an element valid (R118)? -/
def elemValid (t : VType) (e : Elem) : Bool :=
  decide (e.id ≠ 0xFFFFFFFF) && !(t == .f32 && decide (tyVal .f32 e.score = .nan))

/-- a < b and a = b as scores of the type. -/
def scoreLt (t : VType) (a b : Nat) : Bool := if tyFlt t then fLt (tyVal t a) (tyVal t b) else decide (tyInt t a < tyInt t b)
def scoreEq (t : VType) (a b : Nat) : Bool := if tyFlt t then fEq (tyVal t a) (tyVal t b) else decide (tyInt t a = tyInt t b)

/-- Does a precede b (R119)? -/
def elemPrec (t : VType) (asc : Bool) (a b : Elem) : Bool :=
  match elemValid t a, elemValid t b with
  | true, false => true
  | false, _ => false
  | true, true =>
    if (if asc then scoreLt t a.score b.score else scoreLt t b.score a.score) then true
    else if !scoreEq t a.score b.score then false
    else decide (a.ord < b.ord ∨ (a.ord = b.ord ∧ a.id < b.id))

/-- The sentinel (R120, Table 6.1). -/
def sentinel (t : VType) (asc : Bool) : Elem :=
  ⟨match t, asc with
   | .f32, false => 0xFF800000 | .f32, true => 0x7F800000
   | .s32, false => 0x80000000 | .s32, true => 0x7FFFFFFF
   | _, false => 0 | _, true => 0xFFFFFFFF, 0xFFFFFFFF, 0xFFFFFFFF⟩

/-- Insert into a sorted list. -/
def elemInsert (t : VType) (asc : Bool) (e : Elem) : List Elem → List Elem
  | [] => [e]
  | x :: xs => if elemPrec t asc e x then e :: x :: xs else x :: elemInsert t asc e xs

/-- Sort under R119. -/
def elemSort (t : VType) (asc : Bool) : List Elem → List Elem
  | [] => []
  | x :: xs => elemInsert t asc x (elemSort t asc xs)

/-- Pad with sentinels to n elements. -/
def elemPad (t : VType) (asc : Bool) (n : Nat) (xs : List Elem) : List Elem :=
  xs ++ List.replicate (n - xs.length) (sentinel t asc)

/-- BSORT of a list (R123): the valid elements in order, then sentinels. -/
def netSort (t : VType) (asc : Bool) (xs : List Elem) : List Elem :=
  elemPad t asc xs.length (elemSort t asc (xs.filter (elemValid t)))

/-- Remove later elements with an ID already seen from a sorted list. -/
def elemDedup : List Nat → List Elem → List Elem
  | _, [] => []
  | seen, e :: es => if seen.contains e.id then elemDedup seen es else e :: elemDedup (e.id :: seen) es

/-- BSORT's output with DEDUP applied (R124), and DUP. -/
def netDedup (t : VType) (asc : Bool) (xs : List Elem) : List Elem × Bool :=
  let v := elemSort t asc (xs.filter (elemValid t))
  let d := elemDedup [] v
  (elemPad t asc xs.length d, decide (d.length ≠ v.length))

/-- Is a half sorted: each element precedes or equals the next, invalid ones last? -/
def elemSorted (t : VType) (asc : Bool) : List Elem → Bool
  | a :: b :: r => !elemPrec t asc b a && elemSorted t asc (b :: r)
  | _ => true

/-- Result of a network operation: elements, COUNT and FLAGS (R122). -/
structure NetOut where
  elems : List Elem
  count : Nat
  flags : Nat
  deriving DecidableEq, Repr

/-- BSORT (R123). -/
def netBsort (t : VType) (asc : Bool) (xs : List Elem) : NetOut :=
  ⟨netSort t asc xs, (xs.filter (elemValid t)).length, 0⟩

/-- Reorder a list by free choices: repeatedly take the element that the next free value names. -/
def freeShuffle (w : Nat → Nat) : Nat → List Elem → List Elem
  | 0, xs => xs
  | n + 1, xs =>
    match xs[w n % xs.length]? with
    | some e => e :: freeShuffle w n (xs.eraseIdx (w n % xs.length))
    | none => xs

/-- BMERGE (R124): halves sorted under DIR merge to BSORT's output; an unsorted half leaves the order of the valid elements
open, and the invalid ones still follow them (R120). -/
def netBmerge (t : VType) (asc dedup : Bool) (xs : List Elem) (w : Nat → Nat) : NetOut :=
  let h := xs.length / 2
  let sorted := elemSorted t asc (xs.take h) && elemSorted t asc (xs.drop h)
  let d := if dedup then netDedup t asc xs else (netSort t asc xs, false)
  let valid := d.1.filter (elemValid t)
  let out := if sorted then d.1 else elemPad t asc xs.length (freeShuffle w valid.length valid)
  ⟨out, (d.1.filter (elemValid t)).length, 4 * bit01 d.2⟩

/-- TOPK (R125). -/
def netTopk (t : VType) (asc dedup : Bool) (k : Nat) (xs : List Elem) : NetOut :=
  let d := if dedup then netDedup t asc xs else (netSort t asc xs, false)
  let kept := d.1.take k
  let count := (kept.filter (elemValid t)).length
  let tie := match d.1[k]?, d.1[k - 1]? with
    | some a, some b => elemValid t a && scoreEq t a.score b.score
    | _, _ => false
  ⟨elemPad t asc xs.length kept, count, bit01 (decide (count < k)) + 2 * bit01 tie + 4 * bit01 d.2⟩

/-- COMPACT (R126). -/
def netCompact (t : VType) (asc strict : Bool) (th : Nat) (xs : List Elem) : NetOut :=
  let keep := xs.filter fun e => elemValid t e &&
    (if asc then scoreLt t e.score th || (!strict && scoreEq t e.score th)
     else scoreLt t th e.score || (!strict && scoreEq t e.score th))
  ⟨elemPad t asc xs.length keep, keep.length, 0⟩

/-- The elements in the three groups of a command. -/
def netElems (v : Tab Word) (f : VopF) : List Elem :=
  (groupPos f.grp 64).map fun p =>
    ⟨(vLane v (f.va + p.1) p.2).toNat, (vLane v (f.vb + p.1) p.2).toNat, (vLane v (f.vc + p.1) p.2).toNat⟩

/-- Write the result back: the three groups and VM (R121, R122). -/
def netWrite (v : Tab Word) (f : VopF) (o : NetOut) : Tab Word :=
  let v1 := (enumFrom 0 o.elems).foldl (fun w q =>
    let g := q.1 / 64
    let i := q.1 % 64
    vPut (vPut (vPut w (f.va + g) i (BitVec.ofNat 32 q.2.score)) (f.vb + g) i (BitVec.ofNat 32 q.2.id))
      (f.vc + g) i (BitVec.ofNat 32 q.2.ord)) v
  (List.range 64).foldl (fun w i =>
    vPut w f.vm i (if i = 0 then BitVec.ofNat 32 o.count else if i = 1 then BitVec.ofNat 32 o.flags else 0)) v1

/-! ### Meanings -/

/-- Issue a vector-unit command with opcode `op` that `sel` selects: `h` gives the registers after it. -/
def vuIssue (s : State) (c i : Nat) (sel : Bytes → Bool) (h : State → Core → Slot → Bytes → Tab Word) : State :=
  issueCmd s c i sel fun s1 sl q id =>
    let k := coreAt s1 c
    modCore (modCtx s1 c i fun x => { x with vregs := h s1 k sl q.bytes }) c
      fun k1 => { k1 with vu := k1.vu ++ [{ id := id, slot := i }] }

/-- Selects VU.OP with operation code n. -/
def selVop (n : Nat) (b : Bytes) : Bool := decide (cmdOp b = 0x32 ∧ byteAt b 8 = n)

/-- Issue a lane-wise operation. -/
def vuLanes (s : State) (c i n : Nat) (h : VopF → Nat → Nat → Nat → Nat) : Res :=
  .next (vuIssue s c i (selVop n) fun _ _ sl b => vMap sl.ctx.vregs (vopF b) (h (vopF b)))

def execVuLd (c slot : Nat) (s : State) : Res :=
  .next (vuIssue s c slot (fun b => cmdOp b = 0x30) fun _ k sl b => vLoad k sl b)

def execVuSt (c slot : Nat) (s : State) : Res :=
  .next (issueCmd s c slot (fun b => cmdOp b = 0x31) fun s1 sl q id =>
    modCore s1 c fun k => { spadPut k (vStoreCells sl q.bytes) with vu := k.vu ++ [{ id := id, slot := slot }] })

def execVuAdd (c slot : Nat) (s : State) : Res := vuLanes s c slot 0x00 fun f a b _ => opAdd f.ty f.rnd a b
def execVuSub (c slot : Nat) (s : State) : Res := vuLanes s c slot 0x01 fun f a b _ => opSub f.ty f.rnd a b
def execVuMul (c slot : Nat) (s : State) : Res := vuLanes s c slot 0x02 fun f a b _ => opMul f.ty f.rnd a b
def execVuFma (c slot : Nat) (s : State) : Res := vuLanes s c slot 0x03 fun f a b d => opFma f.ty f.rnd a b d
def execVuMin (c slot : Nat) (s : State) : Res := vuLanes s c slot 0x04 fun f a b _ => opMin f.ty f.rnd a b
def execVuMax (c slot : Nat) (s : State) : Res := vuLanes s c slot 0x05 fun f a b _ => opMax f.ty f.rnd a b
def execVuAbs (c slot : Nat) (s : State) : Res := vuLanes s c slot 0x06 fun f a _ _ => opAbs f.ty f.rnd a
def execVuNeg (c slot : Nat) (s : State) : Res := vuLanes s c slot 0x07 fun f a _ _ => opNeg f.ty f.rnd a
def execVuDiv (c slot : Nat) (s : State) : Res := vuLanes s c slot 0x08 fun f a b _ => opDiv f.rnd a b
def execVuSqrt (c slot : Nat) (s : State) : Res := vuLanes s c slot 0x09 fun f a _ _ => opSqrt f.rnd a
def execVuAnd (c slot : Nat) (s : State) : Res := vuLanes s c slot 0x10 fun _ a b _ => opAnd a b
def execVuOr (c slot : Nat) (s : State) : Res := vuLanes s c slot 0x11 fun _ a b _ => opOr a b
def execVuXor (c slot : Nat) (s : State) : Res := vuLanes s c slot 0x12 fun _ a b _ => opXor a b
def execVuShl (c slot : Nat) (s : State) : Res := vuLanes s c slot 0x13 fun _ a b _ => opShl a b
def execVuShr (c slot : Nat) (s : State) : Res := vuLanes s c slot 0x14 fun _ a b _ => opShr a b
def execVuSar (c slot : Nat) (s : State) : Res := vuLanes s c slot 0x15 fun _ a b _ => opSar a b
def execVuPopc (c slot : Nat) (s : State) : Res := vuLanes s c slot 0x16 fun _ a _ _ => opPopc a
def execVuHamm (c slot : Nat) (s : State) : Res := vuLanes s c slot 0x17 fun _ a b _ => opHamm a b
def execVuCvt (c slot : Nat) (s : State) : Res := vuLanes s c slot 0x20 fun f a _ _ => opCvt (vopSrcTy f) f.ty f.rnd a
def execVuCmp (c slot : Nat) (s : State) : Res := vuLanes s c slot 0x21 fun f a b _ => opCmp f.ty (f.imm % 8) a b
def execVuSel (c slot : Nat) (s : State) : Res := vuLanes s c slot 0x22 fun f a b d =>
  let w := if d ≠ 0 then a else b
  if f.ty = .f32 ∧ f.rnd ≠ 0 then vRound .f32 f.rnd (tyVal .f32 w) else w

def execVuRsum (c slot : Nat) (s : State) : Res :=
  .next (vuIssue s c slot (selVop 0x28) fun _ _ sl b =>
    let f := vopF b; vReduce sl.ctx.vregs f (opRsum f.ty f.rnd (vGroup sl.ctx.vregs f)))
def execVuRmax (c slot : Nat) (s : State) : Res :=
  .next (vuIssue s c slot (selVop 0x29) fun _ _ sl b =>
    let f := vopF b; vReduce sl.ctx.vregs f (opRmax f.ty f.rnd (vGroup sl.ctx.vregs f)))

def execVuExp2 (c slot : Nat) (s : State) : Res := vuLanes s c slot 0x30 fun f a _ _ => opTrans Config.exp2 f.rnd a
def execVuLog2 (c slot : Nat) (s : State) : Res := vuLanes s c slot 0x31 fun f a _ _ => opTrans Config.log2 f.rnd a
def execVuRsqrt (c slot : Nat) (s : State) : Res := vuLanes s c slot 0x32 fun f a _ _ => opTrans Config.rsqrt f.rnd a
def execVuTanh (c slot : Nat) (s : State) : Res := vuLanes s c slot 0x33 fun f a _ _ => opTrans Config.tanh f.rnd a
def execVuSoftmax (c slot : Nat) (s : State) : Res :=
  .next (vuIssue s c slot (selVop 0x38) fun _ _ sl b => vSoftmax sl.ctx.vregs (vopF b))

/-- Issue a network operation. -/
def vuNet (s : State) (c i n : Nat) (h : State → Tab Word → VopF → List Elem → NetOut) : Res :=
  .next (vuIssue s c i (selVop n) fun s1 _ sl b =>
    let f := vopF b; netWrite sl.ctx.vregs f (h s1 sl.ctx.vregs f (netElems sl.ctx.vregs f)))

def execVuBsort (c slot : Nat) (s : State) : Res :=
  vuNet s c slot 0x40 fun _ _ f xs => netBsort f.ty (bitOf f.imm 0) xs
def execVuBmerge (c slot : Nat) (s : State) : Res :=
  match vuNet s c slot 0x41 fun s1 _ f xs =>
      netBmerge f.ty (bitOf f.imm 0) (bitOf f.imm 1) xs fun n => (Config.freeValue (s1.freeCtr + n)).toNat with
  | .next s1 => .next { s1 with freeCtr := s1.freeCtr + 512 }
  | r => r
def execVuTopk (c slot : Nat) (s : State) : Res :=
  vuNet s c slot 0x42 fun _ _ f xs => netTopk f.ty (bitOf f.imm 0) (bitOf f.imm 1) (bitsOf f.imm 17 8) xs
def execVuCompact (c slot : Nat) (s : State) : Res :=
  vuNet s c slot 0x43 fun _ v f xs => netCompact f.ty (bitOf f.imm 0) (bitOf f.imm 2) (vLane v f.vm 0).toNat xs

/-- The oldest vector-unit command completes (R93): its entries are released. -/
def execVectorUnitComplete (c : Nat) (s : State) : Res :=
  match (coreAt s c).vu with
  | [] => .next s
  | v :: _ => .next (releaseCmd (modCore s c fun k => { k with vu := k.vu.drop 1 }) c v.id)

end Sys2Proof.Machine
end

