-- ==== Sys2Proof/Machine/Search.lean ====
section
/-! DEFINITION. Vector search: inner products, queries, updates, versions, batches (R131 to R148). -/

namespace Sys2Proof.Machine

/-! ### Rows and inner products (R131, R132, R137) -/

/-- Mantissas and exponent of each block of 32 of a row; an I8 row has exponent 127 (R131). -/
def rowBlocks (b8 : Bool) (d : Nat) (bs : Bytes) : List (List Int × Int) :=
  let blk (b : Nat) : List Int × Int :=
    (((bs.drop (32 * b)).take 32).map fun m => sext 8 m.toNat, if b8 then (byteAt bs (d + b) : Int) else 127)
  (List.range (d / 32)).map blk

/-- The exact product of two blocks with its exponent (R56). -/
def blockDot (a b : List Int × Int) : Int × Int := ((List.zipWith (fun x y => x * y) a.1 b.1).sum, a.2 + b.2 - 254)

/-- Block products of two rows. -/
def dotTerms (a b : List (List Int × Int)) : List (Int × Int) := List.zipWith blockDot a b

/-- An inner product as the search plots compute it: passes of 512 elements in rising order into one accumulator value,
drained once to FP32; whether a window loss was counted (R137; log 26). -/
def dotRow (a b : List (List Int × Int)) : Nat × Bool :=
  let ts := dotTerms a b
  let pass (q : AccUpd × Bool) (p : Nat) : AccUpd × Bool :=
    let u := accScaled (decide (p = 0)) q.1.x q.1.a ((ts.drop (16 * p)).take 16)
    (u, q.2 || u.lossy)
  let r := (List.range (ceilDiv ts.length 16)).foldl pass (⟨0, -512, false, false⟩, false)
  ((drainConv (.flt fmtFp32) r.1).1, r.2)

/-- Is a drained inner product greater than zero? -/
def dotPos (w : Nat) : Bool := fLt (.num false 0 0 false) (fDecode fmtFp32 w)

/-- The sketch of a vector under the projection's rows, and whether a loss was counted (R132). -/
def sketchOf (proj : List (List (List Int × Int))) (v : List (List Int × Int)) : Nat × Bool :=
  (enumFrom 0 proj).foldl (fun q p =>
    let r := dotRow v p.2
    (q.1 + (if dotPos r.1 then 2 ^ p.1 else 0), q.2 || r.2)) (0, false)

/-- The exact inner product as n * 2^e. -/
def dotExact (a b : List (List Int × Int)) : Int × Int :=
  let ts := dotTerms a b
  let lo := minExp 1024 ts
  (sumScaled lo ts, lo)

/-- Is one exact value greater than another? -/
def exactLt (a b : Int × Int) : Bool :=
  let lo := min a.2 b.2
  decide (a.1 * 2 ^ (a.2 - lo).toNat < b.1 * 2 ^ (b.2 - lo).toNat)

/-! ### The query vector (R134) -/

/-- A block of 32 FP32 elements as B8 (R65); one with an infinity or NaN is open (log 14). -/
def queryBlk (ws : List Nat) : List Int × Int :=
  let vals := ws.map fun w => match fDecode fmtFp32 w with
    | .num neg m e _ => some (fSigned neg m, e)
    | _ => none
  if vals.contains none then
    let bs := Config.queryBlock (ws.map (BitVec.ofNat 32))
    ((bs.take 32).map fun m => sext 8 m.toNat, (byteAt bs 32 : Int))
  else
    let r := blkConv 8 (vals.filterMap id)
    (r.2.1, (r.1 : Int))

/-- The B8 query vector from D FP32 elements. -/
def queryVec (d : Nat) (bs : Bytes) : List (List Int × Int) :=
  (List.range (d / 32)).map fun b => queryBlk ((List.range 32).map fun i => fieldAt bs (128 * b + 4 * i) 4)

/-! ### The image (R133, Tables 6.5 and 6.6) -/

/-- Bytes of a B8 row, and of an item's vector. -/
def rowLen (ix : Index) : Nat := ix.d + ix.d / 32
def itemLen (ix : Index) : Nat := if ix.b8 then ix.d + ix.d / 32 else ix.d

/-- The next multiple of a tile. -/
def upTile (n : Nat) : Nat := ceilDiv n 65536 * 65536

/-- An image page that the plots have read and hold (R138, R139). -/
def heldPage (s : State) (t p : Nat) : Option Bytes := (s.search.held.find? fun g => decide (g.1 = t ∧ g.2.1 = p)).map (·.2.2)

/-- Make pages of an image ready for the plots, which keep what they have read while a MISS on another page is served, so that an image
larger than the first tier can be scanned (R138).  A resurvey's own traffic is of service 7 (R146). -/
def imgReady (s : State) (svc t : Nat) : List Nat → PageAcc
  | [] => .ready
  | p :: ps =>
    if (heldPage s t p).isSome then imgReady s svc t ps else
    match engPageAs s svc t walkHubControl p .read with
    | .ready =>
      (match imgReady s svc t ps with
       | .wait s1 => .wait { s1 with search := { s1.search with held := s1.search.held ++ [(t, p, engBytes s t (p * 65536, 65536))] } }
       | o => o)
    | o => o

/-- Bytes of the atlas for a search plot, once their pages are ready. -/
def peek (s : State) (t va n : Nat) : Bytes :=
  (pageParts va n).flatMap fun q => match heldPage s t (pageOf q.1) with
    | some g => (g.drop (q.1 % 65536)).take q.2
    | none => engBytes s t q

/-- A quad's directory entry: QOFF and NITEM. -/
def quadDir (s : State) (ix : Index) (q : Nat) : Nat × Nat :=
  let e := peek s ix.tenant (ix.imgva + ix.diroff + 16 * q) 16
  (fieldAt e 0 8, fieldAt e 8 4)

/-- Offsets of a quad's IDs, attributes, vectors and of the end of its vectors. -/
def quadArrays (ix : Index) (qoff n : Nat) : Nat × Nat × Nat × Nat :=
  let ids := qoff + upTile (ceilDiv n 512 * ix.skbits * 64)
  let attrs := ids + upTile (4 * n)
  let vecs := attrs + upTile (4 * n)
  (ids, attrs, vecs, vecs + n * itemLen ix)

/-- The sketch of item i of a quad, from its slab. -/
def slabSketch (s : State) (ix : Index) (qoff i : Nat) : Nat :=
  let a := ix.imgva + qoff + i / 512 * (ix.skbits * 64) + i % 512 / 8
  ((List.range ix.skbits).map fun b =>
    if bitOf (byteAt (peek s ix.tenant (a + 64 * b) 1) 0) (i % 8) then 2 ^ b else 0).sum

/-- The base items of a quad of the opened image. -/
def imgItems (s : State) (ix : Index) (q : Nat) : List SItem :=
  let (qoff, n) := quadDir s ix q
  let (ids, attrs, vecs, _) := quadArrays ix qoff n
  let rd (off k : Nat) : Bytes := peek s ix.tenant (ix.imgva + off) k
  let item (i : Nat) : SItem :=
    { id := leVal (rd (ids + 4 * i) 4), attr := leVal (rd (attrs + 4 * i) 4), vec := rd (vecs + i * itemLen ix) (itemLen ix)
      sk := slabSketch s ix qoff i }
  (List.range n).map item

/-- Base items of a quad of a version. -/
def baseItems (s : State) (ix : Index) (v : SVer) (q : Nat) : List SItem :=
  if v.image then imgItems s ix q else v.quads.getD q []

/-- Centroid of a quad of a version. -/
def centroid (s : State) (ix : Index) (v : SVer) (q : Nat) : List (List Int × Int) :=
  rowBlocks true ix.d (if v.image then peek s ix.tenant (ix.imgva + ix.centoff + q * rowLen ix) (rowLen ix) else v.cents.getD q [])

/-- Rows of the projection. -/
def projection (s : State) (ix : Index) : List (List (List Int × Int)) :=
  (List.range ix.skbits).map fun i => rowBlocks true ix.d (peek s ix.tenant (ix.imgva + ix.projoff + i * rowLen ix) (rowLen ix))

/-- Blocks of an item's vector. -/
def itemBlocks (ix : Index) (it : SItem) : List (List Int × Int) := rowBlocks ix.b8 ix.d it.vec

/-! ### A query (R134 to R137) -/

/-- What a query finds. -/
structure QRes where
  status : Nat := 0
  flags : Nat := 0
  ncand : Nat := 0
  /-- ID, FP32 score, Hamming distance, quad. -/
  ents : List (Nat × Nat × Nat × Nat) := []
  deriving DecidableEq, Repr

/-- An element of the scan row: item, quad, valid but for the filter. -/
structure ScanEnt where
  item : SItem
  quad : Nat
  alive : Bool
  deriving DecidableEq, Repr

/-- The probed quads in probe rank order, and whether a loss was counted (R134). -/
def probeQuads (s : State) (ix : Index) (v : SVer) (qv : List (List Int × Int)) (nprobe : Nat) : List Nat × Bool :=
  let ds := (List.range ix.nquad).map fun c => (c, dotRow qv (centroid s ix v c))
  let es : List Elem := ds.map fun p => ⟨p.2.1, p.1, p.1⟩
  (((elemSort .f32 false (es.filter (elemValid .f32))).take nprobe).map fun e => e.id, ds.any fun p => p.2.2)

/-- Is there a tombstone for an ID among delta entries of a quad, at or before an epoch? -/
def tombed (ds : List SDelta) (id snap : Nat) : Bool := ds.any fun x => x.tomb && decide (x.item.id = id) && decide (x.epoch ≤ snap)

/-- Delta entries of a quad. -/
def quadDeltas (v : SVer) (q : Nat) : List SDelta := v.deltas.filter fun d => decide (d.quad = q)

/-- The part of the scan row that one quad gives (R135). -/
def scanQuad (s : State) (ix : Index) (v : SVer) (snap q : Nat) : List ScanEnt :=
  let ds := quadDeltas v q
  let base := (baseItems s ix v q).map fun it => ScanEnt.mk it q (!tombed ds it.id snap)
  let delta := (enumFrom 0 ds).map fun p =>
    ScanEnt.mk p.2.item q (!p.2.tomb && decide (p.2.epoch ≤ snap) && !tombed (ds.drop (p.1 + 1)) p.2.item.id snap)
  base ++ delta

/-- Hamming distance of two sketches. -/
def hamming (n a b : Nat) : Nat := popc n (a ^^^ b)

/-- The selection of k from a row (R128): the kept elements, TIE_AT_K, DUP. -/
def selectK (t : VType) (asc : Bool) (k : Nat) (xs : List Elem) : List Elem × Bool × Bool :=
  let v := elemSort t asc (xs.filter (elemValid t))
  let d := elemDedup [] v
  let tie := match d[k]?, d[k - 1]? with
    | some a, some b => scoreEq t a.score b.score
    | _, _ => false
  (d.take k, tie, decide (d.length ≠ v.length))

/-- The FP32 value of minus a Hamming distance. -/
def negHamm (h : Nat) : Nat := fRound fmtFp32 (fOfInt (-(h : Int)))

/-- A query of an index version at a snapshot epoch, with its probed quads. -/
def runQuery (s : State) (ix : Index) (v : SVer) (snap : Nat) (entry : Bytes) (qv : List (List Int × Int)) : QRes :=
  let k := fieldAt entry 16 2
  let probes := probeQuads s ix v qv (fieldAt entry 20 2)
  let sk := sketchOf (projection s ix) qv
  let row := probes.1.flatMap (scanQuad s ix v snap)
  let fm := fieldAt entry 24 4
  let ok (e : ScanEnt) : Bool := e.alive && decide (e.item.attr &&& fm = fieldAt entry 28 4)
  let es : List Elem := (enumFrom 0 row).map fun p => ⟨hamming ix.skbits sk.1 p.2.item.sk, if ok p.2 then p.2.item.id else 0xFFFFFFFF, p.1⟩
  let sel := selectK .u32 true (fieldAt entry 18 2) es
  let cands := sel.1
  let ent (c : Elem) (score : Nat) : Nat × Nat × Nat × Nat := (c.id, score, c.score, (row.getD c.ord ⟨{}, 0, false⟩).quad)
  let fin (es : List (Nat × Nat × Nat × Nat)) (tie loss : Bool) : QRes :=
    { status := if es.length < k then stShort else stOk, flags := bit01 tie + 2 * bit01 sel.2.2 + 4 * bit01 loss
      ncand := cands.length, ents := es }
  if flg entry 22 1 then
    fin ((cands.take k).map fun c => ent c (negHamm c.score)) (selectK .u32 true k es).2.1 (probes.2 || sk.2)
  else
    let ds := (enumFrom 0 cands).map fun p => (p.1, p.2, dotRow qv (itemBlocks ix (row.getD p.2.ord ⟨{}, 0, false⟩).item))
    let sc : List Elem := ds.map fun p => ⟨p.2.2.1, p.2.1.id, p.1⟩
    let r := selectK .f32 false k sc
    fin (r.1.map fun e => ent (cands.getD e.ord ⟨0, 0, 0⟩) e.score) r.2.1 (probes.2 || sk.2 || ds.any fun p => p.2.2.2)

/-- The result header and entries (Table 6.12). -/
def queryBytes (s : State) (entry : Bytes) (ver snap : Nat) (q : QRes) : Bytes :=
  let k := fieldAt entry 16 2
  let one (e : Nat × Nat × Nat × Nat) : Bytes := leBytes 4 e.1 ++ leBytes 4 e.2.1 ++ leBytes 4 e.2.2.1 ++ leBytes 2 e.2.2.2 ++ leBytes 2 0
  let fill := if flg entry 22 0 ∧ (q.status = stOk ∨ q.status = stShort)
    then List.replicate (k - q.ents.length) (one (0xFFFFFFFF, 0xFF800000, 0xFFFFFFFF, 0xFFFF)) else []
  leBytes 2 q.status ++ leBytes 2 q.flags ++ leBytes 4 q.ents.length ++ leBytes 4 ver ++ leBytes 4 q.ncand ++ leBytes 8 snap
    ++ leBytes 8 (merNow s) ++ q.ents.flatMap one ++ fill.flatten

/-! ### Updates (R140 to R143) -/

/-- Quads in which an item is placed: the one or two of the highest exact inner product, lower quads on ties (R141). -/
def placeQuads (spill : Bool) (cents : List (List (List Int × Int))) (v : List (List Int × Int)) : List Nat :=
  let ds := (enumFrom 0 cents).map fun p => (p.1, dotExact v p.2)
  let best (xs : List (Nat × (Int × Int))) : Option (Nat × (Int × Int)) :=
    xs.foldl (fun o x => match o with | none => some x | some y => if exactLt y.2 x.2 then some x else some y) none
  match best ds with
  | none => []
  | some a =>
    if !spill then [a.1] else
    match best (ds.filter fun x => decide (x.1 ≠ a.1)) with
    | none => [a.1]
    | some b => [a.1, b.1]

/-- What updates change of a version: its delta entries, the items present, the misses. -/
structure UpdAcc where
  deltas : List SDelta
  nitems : Nat
  nmiss : Nat
  deriving DecidableEq, Repr

/-- Quads that hold an ID now, given the base IDs by quad. -/
def holders (base : List (List Nat)) (deltas : List SDelta) (id : Nat) : List Nat :=
  let last (q : Nat) : Option SDelta := (deltas.filter fun d => decide (d.quad = q ∧ d.item.id = id)).getLast?
  let inQuad (q : Nat) (ids : List Nat) : Bool := match last q with
    | some d => !d.tomb
    | none => ids.contains id
  (enumFrom 0 base).filterMap fun p => if inQuad p.1 p.2 = true then some p.1 else none

/-- Apply one entry, a delete or an insert, at an epoch (R141). -/
def applyEntry (spill : Bool) (cents : List (List (List Int × Int))) (blocks : SItem → List (List Int × Int)) (base : List (List Nat))
    (epoch : Nat) (u : UpdAcc) (e : Bool × SItem) : UpdAcc :=
  let hs := holders base u.deltas e.2.id
  let stones : List SDelta := hs.map fun q => { quad := q, epoch := epoch, tomb := true, item := { id := e.2.id } }
  if e.1 then
    if hs = [] then { u with nmiss := u.nmiss + 1 } else { u with deltas := u.deltas ++ stones, nitems := u.nitems - 1 }
  else
    let ins : List SDelta := (placeQuads spill cents (blocks e.2)).map fun q => { quad := q, epoch := epoch, item := e.2 }
    { u with deltas := u.deltas ++ stones ++ ins, nitems := if hs = [] then u.nitems + 1 else u.nitems }

/-- Apply the entries of an update to a version. -/
def applyUpdate (s : State) (ix : Index) (v : SVer) (epoch : Nat) (es : List (Bool × SItem)) (u : UpdAcc) : UpdAcc :=
  let qs := List.range ix.nquad
  let base := qs.map fun q => (baseItems s ix v q).map fun it => it.id
  es.foldl (applyEntry ix.spill (qs.map (centroid s ix v)) (itemBlocks ix) base epoch) u

/-- Does a segment hold more than DELTACAP entries (R143)? -/
def overflows (ix : Index) (ds : List SDelta) : Bool :=
  (List.range ix.nquad).any fun q => decide (ix.deltacap < (ds.filter fun d => decide (d.quad = q)).length)

/-- Items of all indexes (R131). -/
def allItems (s : State) : Nat := (s.search.ixs.map fun q => q.2.nitems).sum
def itemLimit : Nat := 4000000000

/-! ### Indexes and versions (R144) -/

def ixAt (s : State) (h : Nat) : Option Index := tabFind s.search.ixs h
def modSearch (s : State) (f : Search → Search) : State := { s with search := f s.search }
def modIx (s : State) (h : Nat) (f : Index → Index) : State := modSearch s fun v => { v with ixs := tabUpd v.ixs h f }

/-- The open index of a tenant with a handle. -/
def openIx (s : State) (t h : Nat) : Option Index := (ixAt s h).filter fun x => decide (x.tenant = t) && !x.closing

/-- Is a version needed: current, built and not swapped, or bound to a batch?  The version that was current when the index was closed stays
for the queries that still wait for it. -/
def verNeeded (x : Index) (n : Nat) : Bool :=
  decide (n = x.cur) && (!x.closing || x.waiting.any fun q => decide (q.pin = n ∨ q.pin = 0))
    || decide (x.built = some n) || (x.batches.any fun b => decide (b.2.ver = n))

/-- Waiting queries whose pinned version has been freed are refused, and with them their command (R144, R151; log 26). -/
def refuseStale (s : State) (h : Nat) : State :=
  match tabFind s.search.ixs h with
  | none => s
  | some x =>
    let gone (q : SQuery) : Bool := decide (q.pin ≠ 0) && !tabHas x.vers q.pin
    let one (v : Search) (q : SQuery) : Search := match q.owner with
      | .cmd r => { v with cmds := v.cmds.map fun c => if c.1 = r then (r, { c.2 with left := c.2.left - 1, stale := true }) else c }
      | .seq _ _ => v
    if !x.waiting.any gone then s else
    modSearch (modIx s h fun y => { y with waiting := y.waiting.filter fun q => !gone q }) fun v => (x.waiting.filter gone).foldl one v

/-- Free versions that nothing holds, and a closed index whose versions are all free (R144, R150). -/
def settleIndex (s : State) (h : Nat) : State :=
  match ixAt s h with
  | none => s
  | some x =>
    let vs := x.vers.filter fun v => verNeeded x v.1
    if x.closing ∧ vs = [] then modSearch s fun y => { y with ixs := tabDel y.ixs h }
    else refuseStale (modIx s h fun y => { y with vers := vs }) h

/-- Snapshot epoch of a batch bound to a version (R139). -/
def snapOf (x : Index) (n : Nat) : Nat :=
  if n = x.cur then x.epoch else match tabFind x.vers n with | some v => v.last.getD v.epoch0 | none => 0

/-- Does a query bind to version n? -/
def bindsTo (x : Index) (n : Nat) (q : SQuery) : Bool := decide (q.pin = n) || decide (q.pin = 0) && decide (n = x.cur)

/-! ### Results of commands -/

/-- End a command with results in its block; repeated until the block can be written (log 12). -/
def endBlock (s : State) (r : CmdRef) (status : Nat) (res : Bytes) : State :=
  match inflAt s r with
  | none => s
  | some x =>
    let x1 := { x with done := 2, got := [(status, res)] }
    blockDone (modInfl s r fun _ => x1) x1 status 0 0 res

/-- The result that waits for its block. -/
def endWaiting (x : Inflight) : Option (Nat × Bytes) := if x.done = 2 then x.got.head? else none

/-! ### Resurvey (R145 to R148) -/

/-- The mean of n values at a common exponent, as n * 2^e with a sticky low bit. -/
def meanOf (lo : Int) (n : Nat) (vals : List (Int × Int)) : Int × Int :=
  let sum := sumScaled lo vals
  let big := sum.natAbs * 2 ^ 64
  (fSigned (decide (sum < 0)) (2 * (big / n) + bit01 (decide (big % n ≠ 0))), lo - 65)

/-- The mean of rows, converted to B8 (R65, R145), as a row of bytes. -/
def meanRow (d : Nat) (rows : List (List (List Int × Int))) : Bytes :=
  let col (b i : Nat) : List (Int × Int) := rows.map fun r => let k := r.getD b ([], 127); (k.1.getD i 0, k.2 - 127)
  let blk (b : Nat) : Nat × List Int × Bool := blkConv 8 ((List.range 32).map fun i => meanOf (-127) rows.length (col b i))
  let bs := (List.range (d / 32)).map blk
  (bs.flatMap fun k => k.2.1.map fun m => BitVec.ofInt 8 m) ++ bs.map fun k => BitVec.ofNat 8 k.1

/-- Items with the quads they are assigned to. -/
def assign (ix : Index) (cents : List Bytes) (items : List SItem) : List (SItem × List Nat) :=
  let cs := cents.map (rowBlocks true ix.d)
  items.map fun it => (it, placeQuads ix.spill cs (itemBlocks ix it))

/-- One round: every item to its nearest centroid, then each centroid to the mean of its items. -/
def round1 (ix : Index) (items : List SItem) (cents : List Bytes) : List Bytes :=
  let asg := assign ix cents items
  (enumFrom 0 cents).map fun p =>
    let mine := asg.filter fun a => a.2.contains p.1
    if mine = [] then p.2 else meanRow ix.d (mine.map fun a => itemBlocks ix a.1)

/-- ITERS rounds. -/
def rounds (ix : Index) (items : List SItem) : Nat → List Bytes → List Bytes
  | 0, cs => cs
  | n + 1, cs => rounds ix items n (round1 ix items cs)

/-- Insert an item by ID; one of an ID already there is dropped. -/
def idInsert (it : SItem) : List SItem → List SItem
  | [] => [it]
  | x :: xs => if it.id < x.id then it :: x :: xs else if it.id = x.id then x :: xs else x :: idInsert it xs

/-- Items of a version at an epoch, each once, by ID. -/
def itemsAt (s : State) (ix : Index) (v : SVer) (epoch : Nat) : List SItem :=
  (((List.range ix.nquad).flatMap (scanQuad s ix v epoch)).filter fun e => e.alive).foldl (fun l e => idInsert e.item l) []

/-- The version a resurvey builds (R145): the sketches of its slabs are computed again under the projection (R132). -/
def buildVer (s : State) (ix : Index) (v : SVer) (r : Resurvey) : SVer :=
  let proj := projection s ix
  let items := (itemsAt s ix v r.e0).map fun it => { it with sk := (sketchOf proj (itemBlocks ix it)).1 }
  let c0 := (List.range ix.nquad).map fun q =>
    if v.image then peek s ix.tenant (ix.imgva + ix.centoff + q * rowLen ix) (rowLen ix) else v.cents.getD q []
  let cents := rounds ix items r.iters c0
  let asg := assign ix cents items
  { image := false, cents := cents, tiles := r.tiles, epoch0 := r.e0
    quads := (List.range ix.nquad).map fun q => (asg.filter fun a => a.2.contains q).map fun a => a.1 }

/-- The built version is given up with the log of its replay: it and its tiles are free once no batch is bound to it. -/
def dropBuilt (s : State) (h : Nat) : State :=
  match (ixAt s h).bind (·.built) with
  | none => s
  | some _ => settleIndex (modIx s h fun y => { y with built := none, swapping := false, ulog := [] }) h

/-- Replay the log into a version (R147). -/
def replay (s : State) (ix : Index) (v : SVer) : UpdAcc :=
  ix.ulog.foldl (fun u e => applyUpdate s ix { v with deltas := u.deltas } e.1 e.2 u) ⟨v.deltas, ix.nitems, 0⟩

/-- The swap of an index at its time, and its command's end (R144, R147, R148). -/
def swapIndex (s : State) (h num : Nat) (cmd : Option CmdRef) : State :=
  let done (st : State) (status : Nat) (res : Bytes) : State := match cmd with | some r => endBlock st r status res | none => st
  match ixAt s h with
  | none => done s stNotFound []
  | some x =>
    if x.closing ∨ x.built ≠ some num then done s stNotFound [] else
    match tabFind x.vers num with
    | none => done s stNotFound []
    | some v =>
      let u := replay s x v
      let res := if (cmd.bind (inflAt s)).any fun c => decide (entryOp c.entry = 0x0905) then leBytes 4 num ++ leBytes 4 0 ++ leBytes 8 v.epoch0
        else leBytes 4 num
      if overflows x u.deltas then done (dropBuilt s h) stNoFit []
      else
        let s1 := modIx s h fun y => { y with
          vers := tabUpd (tabUpd y.vers y.cur fun o => { o with last := some y.epoch }) num fun o => { o with deltas := u.deltas }
          cur := num, built := none, swapping := false, ulog := [] }
        done (settleIndex s1 h) stOk res

/-! ### The foreground's demand (R146) -/

/-- Cores for which a tenant's jobs of priority 0 to 6 have work (log 26): for each job, as many as it has job-cores and plots that are
not DONE; for the transient job of a TABLE command all its job-cores; for each batch of queries as many as it has quads to probe. -/
def foreDemand (s : State) (t : Nat) : Nat :=
  let ofJob (q : Nat × Job) : Nat :=
    if q.2.tenant = t ∧ q.2.prio ≤ 6 then
      if s.models.tjobs.any fun z => decide (z.2 = q.1) then q.2.jcores.length
      else min q.2.jcores.length (q.2.batches.map fun b => b.2.total - b.2.done - b.2.dropped).sum
    else 0
  let ofBatch (b : Nat × SBatch) : Nat := if b.2.prio ≤ 6 then (b.2.queries.map fun q => fieldAt q.entry 20 2).sum else 0
  (s.jobs.jobs.map ofJob).sum + ((s.search.ixs.filter fun x => decide (x.2.tenant = t)).map fun x => (x.2.batches.map ofBatch).sum).sum

/-- Size of a tenant's core mask. -/
def maskSize (s : State) (t : Nat) : Nat := popc 96 (tenAt s t).cores.toNat

end Sys2Proof.Machine
end

