-- ==== Sys2Proof/Machine/SearchCmds.lean ====
section
/-! DEFINITION. The SEARCH commands and the events of batches and resurveys (R139 to R153). -/

namespace Sys2Proof.Machine

/-- Address of a command's block, and of its results. -/
def blockVa (x : Inflight) : Nat := parFld x.entry 0 56 0

/-- Go on once the results of the block can be written, so that a command takes effect whole. -/
def whenBlock (s : State) (x : Inflight) (k : State → State) : State :=
  match cmdReady s x (cmdTenant x) walkHubControl .write (bytePages (blockVa x + 48) 16) with
  | .wait s1 => s1
  | .fault kind c p => cmdFault s x srcDma kind 1 c p 0
  | .ready => k s

/-- Run a SEARCH command: its block, what waits for the block, then its body. -/
def runSearch (s : State) (r : CmdRef) (op : Nat) (checks : Bytes → List (Nat × Bool)) (body : State → Inflight → Bytes → State) : Res :=
  runBlock s r op (fun _ b => checks b) fun s1 x b =>
    match endWaiting x with
    | some (st, res) => blockDone s1 x st 0 0 res
    | none => body s1 x b

/-! ### SEARCH.OPEN (R150, Tables 6.5, 6.6 and 6.9) -/

def openChecks (b : Bytes) : List (Nat × Bool) :=
  [(0, decide (fld b 0 63 57 ≠ 0 ∨ fld b 0 15 0 ≠ 0)), (8, decide (fieldAt b 8 4 < 256 ∨ 65536 < fieldAt b 8 4)),
   (12, decide (1000 < fieldAt b 12 2)), (14, !zeroBytes b 14 47), (56, !zeroBytes b 56 63)]

/-- The index an index section describes. -/
def indexOf (t : Nat) (b sec : Bytes) : Index :=
  { tenant := t, imgva := fld b 0 56 0, d := fieldAt sec 8 2, b8 := decide (fieldAt sec 6 1 = 1), skbits := 128 * 2 ^ (fieldAt sec 7 1)
    nquad := fieldAt sec 12 4, spill := flg sec 10 0, projoff := fieldAt sec 24 8, centoff := fieldAt sec 32 8, diroff := fieldAt sec 40 8
    deltacap := fieldAt b 8 4, batchus := fieldAt b 12 2, nitems := fieldAt sec 16 4 }

/-- Is the index section well formed, but for what the directory says? -/
def sectionOk (x : Index) (sec : Bytes) : Bool :=
  decide (fieldAt sec 0 4 = 0x58444E49) && decide (fieldAt sec 4 2 = 1) && decide (fieldAt sec 6 1 ≤ 1) && decide (fieldAt sec 7 1 ≤ 2)
    && decide (x.d % 32 = 0 ∧ 32 ≤ x.d ∧ x.d ≤ 4096) && decide (fld sec 10 7 1 = 0) && zeroBytes sec 11 11
    && decide (1 ≤ x.nquad ∧ x.nquad ≤ 65536) && zeroBytes sec 20 23 && zeroBytes sec 56 511
    && decide (x.projoff % 65536 = 0 ∧ x.centoff % 65536 = 0 ∧ x.diroff % 65536 = 0 ∧ fieldAt sec 48 8 % 65536 = 0)
    && decide (x.imgva + fieldAt sec 48 8 ≤ 2 ^ 57)

/-- Areas of an image: first byte and byte after the last. -/
def imageAreas (x : Index) (dir : Bytes) : List (Nat × Nat) :=
  let quad (q : Nat) : Nat × Nat :=
    let qoff := fieldAt dir (16 * q) 8
    let n := fieldAt dir (16 * q + 8) 4
    (qoff, if n = 0 then qoff else (quadArrays x qoff n).2.2.2)
  (0, 512) :: (x.projoff, x.projoff + x.skbits * rowLen x) :: (x.centoff, x.centoff + x.nquad * rowLen x)
    :: (x.diroff, x.diroff + 16 * x.nquad) :: (List.range x.nquad).map quad

/-- Does an area end by the next area's start and by LENGTH? -/
def areaOk (len : Nat) (as : List (Nat × Nat)) (p : Nat × (Nat × Nat)) : Bool :=
  decide (p.2.2 ≤ len) && (decide (p.2.1 = p.2.2) || (enumFrom 0 as).all fun q =>
    decide (q.1 = p.1) || decide (q.2.1 = q.2.2) || decide (q.2.2 ≤ p.2.1) || decide (p.2.2 ≤ q.2.1))

/-- Is the directory consistent: reserved words 0, offsets of whole tiles, areas apart and within LENGTH? -/
def directoryOk (x : Index) (len : Nat) (dir : Bytes) : Bool :=
  ((List.range x.nquad).all fun q => decide (fieldAt dir (16 * q) 8 % 65536 = 0) && decide (fieldAt dir (16 * q + 12) 4 = 0))
    && (enumFrom 0 (imageAreas x dir)).all (areaOk len (imageAreas x dir))

def execSearchOpen (r : CmdRef) (s : State) : Res :=
  runSearch s r 0x0901 openChecks fun s1 x b =>
    let t := cmdTenant x
    match cmdRead s1 x t walkHubControl (fld b 0 56 0) 512 with
    | .wait s2 => s2
    | .fault k c p => cmdFault s1 x srcDma k 0 c p 0
    | .ok s2 sec =>
      let ix := indexOf t b sec
      if !sectionOk ix sec then badBlock s2 r 0 else
      match cmdRead s2 x t walkHubControl (ix.imgva + ix.diroff) (16 * ix.nquad) with
      | .wait s3 => s3
      | .fault k c p => cmdFault s2 x srcDma k 0 c p 0
      | .ok s3 dir =>
        if !directoryOk ix (fieldAt sec 48 8) dir then badBlock s3 r 0 else
        let tiles := Config.deltaTiles ix.nquad ix.deltacap (itemLen ix)
        if quota s3 t 0 < tierCount s3 t 0 + tiles ∨ itemLimit < allItems s3 + ix.nitems then complete s3 r stNoFit 0 0 else
        match tabGap s3.search.ixs 1 (2 ^ 32) with
        | none => complete s3 r stNoFit 0 0
        | some h =>
          whenBlock s3 x fun s4 =>
            let s5 := modSearch s4 fun v => { v with ixs := tabPut v.ixs h { ix with vers := [(1, { image := true, tiles := tiles })] } }
            endBlock s5 r stOk (leBytes 4 h ++ leBytes 4 1)

/-! ### SEARCH.CLOSE (R150) -/

/-- Is the action a swap of an index? -/
def isSwapOf (h : Nat) (k : SchedKind) : Bool := match k with | .index a _ => decide (a = h) | _ => false

/-- End the resurvey of an index: its tiles are free again, its command ends ABORTED (R148, R153). -/
def abortResurvey (s : State) (h : Nat) : State :=
  match (ixAt s h).bind (·.resurvey) with
  | none => s
  | some rv => complete (finishJob (modIx s h fun y => { y with resurvey := none, ulog := [] }) rv.job) rv.cmd stAborted 0 0

def execSearchClose (r : CmdRef) (s : State) : Res :=
  runSearch s r 0x0902 (fun b => [(4, !zeroBytes b 4 63)]) fun s1 x b =>
    let h := fieldAt b 0 4
    match openIx s1 (cmdTenant x) h with
    | none => complete s1 r stNotFound 0 0
    | some _ =>
      if armedKind s1 (isSwapOf h) then complete s1 r stBusy 0 0 else
      whenBlock s1 x fun s2 =>
        let s3 := dropBuilt (abortResurvey s2 h) h
        endBlock (settleIndex (modIx s3 h fun y => { y with closing := true }) h) r stOk []

/-! ### SEARCH.QUERY (R151, Tables 6.10 and 6.11) -/

def searchChecks (b : Bytes) : List (Nat × Bool) :=
  [(8, decide (fieldAt b 8 2 = 0 ∨ 4096 < fieldAt b 8 2)), (10, decide (fld b 10 7 3 ≠ 0)), (11, !zeroBytes b 11 15),
   (16, decide (fld b 16 63 57 ≠ 0 ∨ fld b 16 5 0 ≠ 0)), (24, !zeroBytes b 24 47), (52, !zeroBytes b 52 63)]

/-- Is a query entry well formed? -/
def queryEntryOk (ix : Index) (e : Bytes) : Bool :=
  let k := fieldAt e 16 2
  let cand := fieldAt e 18 2
  let np := fieldAt e 20 2
  decide (fld e 0 63 57 = 0) && decide (fld e 8 63 57 = 0 ∧ fld e 8 5 0 = 0) && decide (1 ≤ k ∧ k ≤ 1024) && decide (k ≤ cand ∧ cand ≤ 4096)
    && decide (1 ≤ np ∧ np ≤ 256 ∧ np ≤ ix.nquad) && decide (fld e 22 7 2 = 0) && zeroBytes e 23 23 && zeroBytes e 32 63

/-- The query table, entry by entry: none for an entry that a fault keeps from being read, and the faults. -/
def readTable (x : Inflight) (t : Nat) : List Nat → State → Except State (State × List (Option Bytes) × List (Nat × Nat × Nat))
  | [], s => .ok (s, [], [])
  | a :: as, s =>
    match cmdRead s x t walkHubControl a 64 with
    | .wait s1 => .error s1
    | .ok s1 e =>
      (match readTable x t as s1 with
       | .error s2 => .error s2
       | .ok (s2, es, f) => .ok (s2, some e :: es, f))
    | .fault k c p =>
      match readTable x t as s with
      | .error s2 => .error s2
      | .ok (s2, es, fs) => .ok (s2, none :: es, (k, c, p) :: fs)

/-- Does a command hold a fault record that is not written (R189)? -/
def holdsRecord (s : State) (r : CmdRef) : Bool :=
  s.atlas.ctx.any fun q => q.2.waiting.any fun w => decide (w.holder = .cmd r.fn r.mbox r.cid)

/-- Post a fault record of a command that goes on. -/
def postCmdFault (s : State) (r : CmdRef) (t kind acc cause page : Nat) : State :=
  postFault s t { bytes := dmaRecord s srcDma r kind acc page cause, holder := .cmd r.fn r.mbox r.cid }

/-- What a SEARCH.QUERY has had so far. -/
def sqAt (s : State) (r : CmdRef) : Option SQCmd := (s.search.cmds.find? fun q => decide (q.1 = r)).map (·.2)
def dropSq (s : State) (r : CmdRef) : State := modSearch s fun v => { v with cmds := v.cmds.filter fun q => decide (q.1 ≠ r) }

/-- Change what a SEARCH.QUERY has had so far. -/
def modSq (s : State) (r : CmdRef) (f : SQCmd → SQCmd) : State :=
  modSearch s fun v => { v with cmds := v.cmds.map fun q => if q.1 = r then (r, f q.2) else q }

/-- Report the faults of a query table, one record after another: a command holds one unwritten record at a time (R138, R189). -/
def reportFaults (s : State) (r : CmdRef) (t : Nat) : List (Nat × Nat × Nat) → State
  | [] => modSq s r fun c => { c with faults := [] }
  | f :: fs =>
    if holdsRecord s r then modSq s r fun c => { c with faults := f :: fs }
    else reportFaults (postCmdFault s r t f.1 0 f.2.1 f.2.2) r t fs

/-- The command's results, then its completion, which waits for its record (R151, R189). -/
def endQueries (s : State) (r : CmdRef) (c : SQCmd) : State :=
  match inflAt s r with
  | none => s
  | some x =>
    if c.stale then (if holdsRecord s r then modInfl (dropSq s r) r fun y => { y with status := some (stStale, 0, 0) }
                     else complete (dropSq s r) r stStale 0 0) else
    let st := if c.nfault ≠ 0 then stFault else if c.npoison ≠ 0 then stPoison else if c.nshort ≠ 0 then stShort else stOk
    let res := leBytes 2 c.nshort ++ leBytes 2 (c.npoison + c.nfault)
    match cmdWrite s x (cmdTenant x) walkHubControl (blockVa x + 48) (padTo 16 res) with
    | .wait s1 => s1
    | .fault k cc p => if holdsRecord s r then s else cmdFault (dropSq s r) x srcDma k 1 cc p 0
    | .ok s1 _ =>
      let s2 := dropSq s1 r
      if holdsRecord s2 r then modInfl s2 r fun y => { y with status := some (st, 0, 0) } else complete s2 r st 0 0

/-- One query of a command has its result. -/
def queryEnded (s : State) (r : CmdRef) (status : Nat) : State :=
  match sqAt s r with
  | none => s
  | some c =>
    let c1 : SQCmd := { c with
      left := c.left - 1, nshort := c.nshort + bit01 (decide (status = stShort))
      npoison := c.npoison + bit01 (decide (status = stPoison)), nfault := c.nfault + bit01 (decide (status = stFault)) }
    let s1 := modSq s r fun _ => c1
    if c1.left = 0 ∧ c1.faults = [] then endQueries s1 r c1 else s1

/-- A command whose queries are under way: what is left to report of its query table, and its end. -/
def goQueries (s : State) (r : CmdRef) (t : Nat) : State :=
  match sqAt s r with
  | none => s
  | some c =>
    let s1 := reportFaults s r t c.faults
    match sqAt s1 r with
    | some c1 => if c1.left = 0 ∧ c1.faults = [] then endQueries s1 r c1 else s1
    | none => s1

/-- Status with which a pinned version is refused (R144, R151). -/
def pinRefuse (ix : Index) (n : Nat) : Option Nat :=
  if n = 0 ∨ tabHas ix.vers n then none else if n ≤ ix.lastVer then some stStale else some stNotFound

def execSearchQuery (r : CmdRef) (s : State) : Res :=
  runBlock s r 0x0903 (fun _ b => searchChecks b) fun s1 x b =>
    match sqAt s1 r with
    | some _ => goQueries s1 r (cmdTenant x)
    | none =>
      let h := fieldAt b 0 4
      let t := cmdTenant x
      match openIx s1 t h with
      | none => complete s1 r stNotFound 0 0
      | some ix =>
        match pinRefuse ix (fieldAt b 4 4) with
        | some st => complete s1 r st 0 0
        | none =>
          match readTable x t ((List.range (fieldAt b 8 2)).map fun i => fld b 16 56 0 + 64 * i) s1 with
          | .error s2 => s2
          | .ok (s2, es, fs) =>
            let got := es.filterMap id
            if !got.all (queryEntryOk ix) then badBlock s2 r 16 else
            let lost := es.length - got.length
            let qs : List SQuery := got.map fun e =>
              { owner := .cmd r, entry := e, pin := fieldAt b 4 4, prio := fld b 10 2 0, since := s2.clk.ticks }
            let c : SQCmd := { left := got.length, nfault := lost, faults := fs }
            goQueries (modSearch (modIx s2 h fun y => { y with waiting := y.waiting ++ qs }) fun v => { v with cmds := v.cmds ++ [(r, c)] }) r t

/-! ### Batches (R139) -/

/-- Does a query wait for a sequence that a command holds at its step boundary (R273)? -/
def queryHeld (s : State) (z : SQuery) : Bool :=
  match z.owner with
  | .seq i _ => match tabFind s.serving.seqs i with | some x => x.xport.isSome | none => false
  | .cmd _ => false

/-- A batch starts: when 512 queries wait, or when the oldest has waited BATCHUS, to which time advances. -/
def execSearchBatchStart (h : Nat) (s : State) : Res :=
  match ixAt s h with
  | none => .next s
  | some ix =>
    match ix.waiting.filter fun z => !queryHeld s z with
    | [] => .next s
    | q :: _ =>
      let n := if q.pin = 0 then ix.cur else q.pin
      let s1 := if 512 ≤ (ix.waiting.filter fun z => !queryHeld s z).length then s else advanceTo s (q.since + ix.batchus * usTicks)
      let takes (z : SQuery) : Bool := bindsTo ix n z && !queryHeld s z
      let mine := (ix.waiting.filter takes).take 512
      let bt : SBatch := { ver := n, snap := snapOf ix n, prio := mine.foldl (fun m z => min m z.prio) 7, queries := mine }
      .next (modIx s1 h fun y => { y with
        waiting := (y.waiting.filter fun z => !takes z) ++ (y.waiting.filter takes).drop 512
        batches := tabPut y.batches y.nextBatch bt, nextBatch := y.nextBatch + 1 })

/-- Pages of the projection and, of the opened image, of the centroids and the directory. -/
def corePages (ix : Index) (v : SVer) : List Nat :=
  bytePages (ix.imgva + ix.projoff) (ix.skbits * rowLen ix)
    ++ (if v.image then bytePages (ix.imgva + ix.centoff) (ix.nquad * rowLen ix) ++ bytePages (ix.imgva + ix.diroff) (16 * ix.nquad) else [])

/-- Pages of a quad of the opened image. -/
def quadPages (s : State) (ix : Index) (v : SVer) (q : Nat) : List Nat :=
  if !v.image then [] else
  let d := quadDir s ix q
  if d.2 = 0 then [] else bytePages (ix.imgva + d.1) ((quadArrays ix d.1 d.2).2.2.2 - d.1)

/-- How a query of a batch ends, or that it waits; the pages its plots read. -/
inductive QStep where
  | wait (s : State)
  | fault (s : State) (kind acc cause page : Nat)
  | done (s : State) (q : QRes) (ps : List Nat)

/-- A fault of the plots on an image page. -/
def planeFault (s : State) (t kind cause page : Nat) : QStep :=
  .fault (countQuota (engForget s t [page]) walkHubControl t kind) kind 0 cause page

/-- The search plots' work on one query, its vector given. -/
def searchOne (s : State) (ix : Index) (v : SVer) (snap : Nat) (entry vec : Bytes) : QStep :=
  let t := ix.tenant
  match imgReady s 5 t (corePages ix v) with
  | .wait s1 => .wait s1
  | .fault k c p => planeFault s t k c p
  | .ready =>
    let qv := queryVec ix.d vec
    let ps := ((probeQuads s ix v qv (fieldAt entry 20 2)).1.flatMap (quadPages s ix v))
    match imgReady s 5 t ps with
    | .wait s1 => .wait s1
    | .fault k c p => planeFault s t k c p
    | .ready => .done (engForget s t (corePages ix v ++ ps)) (runQuery s ix v snap entry qv) (distinctN (corePages ix v ++ ps))

/-- The plots of a batch have read pages: each gains HEAT once, since a quad is scanned once for the whole batch (R139, R172). -/
def touchBatch (s : State) (t h b : Nat) (bt : SBatch) (ps : List Nat) : State :=
  let new := ps.filter fun p => !bt.seen.contains p
  modIx (touchPages s t walkHubControl new) h fun y => { y with batches := tabUpd y.batches b fun z => { z with seen := z.seen ++ new } }


def dropQuery (s : State) (h b : Nat) (q : SQuery) : State :=
  modIx s h fun y => { y with batches := tabUpd y.batches b fun z => { z with queries := z.queries.erase q } }

/-- A query of a command ends with a fault: its header alone is written, where that can be, then its record (R138). -/
def queryFailed (s : State) (ix : Index) (h b : Nat) (bt : SBatch) (q : SQuery) (r : CmdRef) (st kind acc cause page : Nat) : State :=
  if holdsRecord s r then s else
  let go (s1 : State) : State := queryEnded (dropQuery (postCmdFault s1 r ix.tenant kind acc cause page) h b q) r st
  let hdr := (queryBytes s q.entry bt.ver bt.snap { status := st }).take 32
  match engWrite s ix.tenant walkHubControl (fld q.entry 8 56 0) hdr with
  | .ok s1 _ => go s1
  | .wait s1 => s1
  | .fault s1 _ _ _ => go s1

/-- A candidate list reaches its sequence, which goes on to its next stage (R243). -/
def seqSearched (s : State) (slot : Nat) (q : QRes) : State :=
  match seqAt s slot with
  | none => s
  | some x =>
    if x.cancelled then endSeq s slot 6 stCancelled 0 else
    let ids := q.ents.map fun e => e.1
    let fl := bit01 (decide (q.status = stShort)) ||| bit01 (bitOf q.flags 0) * 2 ||| bit01 (bitOf q.flags 2) * 4
    let s1 := modSeq s slot fun y => { y with cands := ids, flags := y.flags ||| fl }
    if x.rerank.isSome ∧ ids ≠ [] then modSeq s1 slot fun y => { y with stage := .rerank }
    else addUnit (modSeq s1 slot fun y => { y with stage := .pack, passages := ids }) x.tenant (.pack slot)

/-- Status of a query whose plots met a fault: POISON of an image tile, or another fault (R138; log 26). -/
def plotStatus (kind : Nat) : Nat := if kind = 0x04 then stPoison else stFault

/-- One query of a batch: its vector is read, the plots run, the result is written. -/
def batchQuery (h b : Nat) (s : State) (q : SQuery) : State :=
  match ixAt s h with
  | none => s
  | some ix =>
    match tabFind ix.batches b with
    | none => s
    | some bt =>
      match tabFind ix.vers bt.ver with
      | none => s
      | some v =>
        match q.owner with
        | .seq slot vec =>
          (match searchOne s ix v bt.snap q.entry vec with
           | .wait s1 => s1
           | .fault s1 k a c p => seqFaultAs (dropQuery s1 h b q) slot srcSeq (plotStatus k) k a c p
           | .done s1 res ps => seqSearched (dropQuery (touchBatch s1 ix.tenant h b bt ps) h b q) slot res)
        | .cmd r =>
          match engRead s ix.tenant walkHubControl (fld q.entry 0 56 0) (4 * ix.d) with
          | .wait s1 => s1
          | .fault s1 k c p => queryFailed s1 ix h b bt q r stFault k 0 c p
          | .ok s1 vec =>
            match searchOne s1 ix v bt.snap q.entry vec with
            | .wait s2 => s2
            | .fault s2 k a c p => queryFailed s2 ix h b bt q r (plotStatus k) k a c p
            | .done s2 res ps =>
              match engWrite (touchBatch s2 ix.tenant h b bt ps) ix.tenant walkHubControl (fld q.entry 8 56 0) (queryBytes s2 q.entry bt.ver bt.snap res) with
              | .wait s3 => s3
              | .fault s3 k c p => queryFailed s3 ix h b bt q r stFault k 1 c p
              | .ok s3 _ => queryEnded (dropQuery s3 h b q) r res.status

/-- The plots let the pages of an index's image go that they have held, once neither a batch nor a resurvey of it runs. -/
def letPages (s : State) (h : Nat) : State :=
  match ixAt s h with
  | none => s
  | some x =>
    if x.batches ≠ [] ∨ x.resurvey.isSome then s
    else modSearch s fun v => { v with held := v.held.filter fun g => decide (g.1 ≠ x.tenant) }

/-- Commands whose last queries were refused with their version end too. -/
def endStale (s : State) : State :=
  (s.search.cmds.filter fun c => c.2.stale && decide (c.2.left = 0 ∧ c.2.faults = [])).foldl (fun st c => endQueries st c.1 c.2) s

/-- A batch without queries is over; versions that only it held are freed (R144). -/
def closeBatch (s : State) (h b : Nat) : State :=
  match (ixAt s h).bind fun x => tabFind x.batches b with
  | none => s
  | some bt =>
    if bt.queries = [] then endStale (settleIndex (letPages (modIx s h fun y => { y with batches := tabDel y.batches b }) h) h) else s

def execSearchBatchEnd (h b : Nat) (s : State) : Res :=
  match (ixAt s h).bind fun x => tabFind x.batches b with
  | none => .next s
  | some bt => .next (closeBatch (bt.queries.foldl (batchQuery h b) s) h b)

/-! ### SEARCH.UPDATE (R140 to R143, R152, Table 6.13) -/

def updateChecks (b : Bytes) : List (Nat × Bool) :=
  [(4, decide (fieldAt b 4 4 = 0 ∨ 65536 < fieldAt b 4 4)), (8, decide (fld b 8 63 57 ≠ 0 ∨ fld b 8 4 0 ≠ 0)), (16, !zeroBytes b 16 47),
   (60, !zeroBytes b 60 63)]

/-- Is an update entry well formed? -/
def updateEntryOk (e : Bytes) : Bool :=
  let del := decide (fieldAt e 0 1 = 2)
  (decide (fieldAt e 0 1 = 1) || del) && zeroBytes e 1 3 && decide (fieldAt e 4 4 ≠ 0xFFFFFFFF) && zeroBytes e 12 15
    && decide (fld e 16 63 57 = 0) && zeroBytes e 24 31 && (!del || decide (fieldAt e 8 4 = 0) && decide (fld e 16 56 0 = 0))

/-- Is an update of the index that was fetched earlier still to be accepted (R140)? -/
def updateWaits (s : State) (x : Inflight) (h : Nat) : Bool :=
  (s.inflight.takeWhile fun y => y.ref ≠ x.ref).any fun y =>
    decide (entryOp y.entry = 0x0904) && decide (cmdTenant y = cmdTenant x) && y.status.isNone && decide (y.done ≠ 2)
      && (match y.block with | some c => decide (fieldAt c 0 4 = h) | none => true)

/-- The items of an update's entries, the vectors of inserts read. -/
def readItems (x : Inflight) (t len : Nat) : List Bytes → State → Except State (State × List (Bool × SItem) × Option (Nat × Nat × Nat))
  | [], s => .ok (s, [], none)
  | e :: es, s =>
    let it : SItem := { id := fieldAt e 4 4, attr := fieldAt e 8 4 }
    if fieldAt e 0 1 = 2 then
      match readItems x t len es s with
      | .error s1 => .error s1
      | .ok (s1, r, f) => .ok (s1, (true, it) :: r, f)
    else
      match cmdRead s x t walkHubControl (fld e 16 56 0) len with
      | .wait s1 => .error s1
      | .fault k c p => .ok (s, [], some (k, c, p))
      | .ok s1 vec =>
        match readItems x t len es s1 with
        | .error s2 => .error s2
        | .ok (s2, r, f) => .ok (s2, (false, { it with vec := vec }) :: r, f)

/-- Take the update's epoch, or refuse the update whole (R140, R143). -/
def acceptUpdate (s : State) (x : Inflight) (h : Nat) (ix : Index) (v : SVer) (es : List (Bool × SItem)) : State :=
  let proj := projection s ix
  let full := es.map fun e => if e.1 then e else (false, { e.2 with sk := (sketchOf proj (itemBlocks ix e.2)).1 })
  let u := applyUpdate s ix v (ix.epoch + 1) full ⟨v.deltas, ix.nitems, 0⟩
  let grows := decide (ix.nitems < u.nitems)
  if overflows ix u.deltas || grows && decide (itemLimit < allItems s - ix.nitems + u.nitems) then complete s x.ref stNoFit 0 0 else
  whenBlock s x fun s1 =>
    let log := ix.resurvey.isSome || ix.built.isSome
    let s2 := modIx s1 h fun y => { y with
      epoch := y.epoch + 1, nitems := u.nitems, vers := tabUpd y.vers y.cur fun z => { z with deltas := u.deltas }
      ulog := if log then y.ulog ++ [(y.epoch + 1, full)] else y.ulog }
    endBlock s2 x.ref stOk (leBytes 8 (ix.epoch + 1) ++ leBytes 4 u.nmiss)

def execSearchUpdate (r : CmdRef) (s : State) : Res :=
  runSearch s r 0x0904 updateChecks fun s1 x b =>
    let h := fieldAt b 0 4
    let t := cmdTenant x
    if updateWaits s1 x h then s1 else
    match openIx s1 t h with
    | none => complete s1 r stNotFound 0 0
    | some ix =>
      match tabFind ix.vers ix.cur with
      | none => complete s1 r stNotFound 0 0
      | some v =>
        match cmdRead s1 x t walkHubControl (fld b 8 56 0) (32 * fieldAt b 4 4) with
        | .wait s2 => s2
        | .fault k c p => cmdFault s1 x srcDma k 0 c p 0
        | .ok s2 tab =>
          let es := (List.range (fieldAt b 4 4)).map fun i => (tab.drop (32 * i)).take 32
          if !es.all updateEntryOk then badBlock s2 r 8 else
          match readItems x t (itemLen ix) es s2 with
          | .error s3 => s3
          | .ok (s3, _, some (k, c, p)) => cmdFault s3 x srcDma k 0 c p 0
          | .ok (s3, items, none) => acceptUpdate s3 x h ix v items

/-! ### Resurveys and swaps (R145 to R148, R153, Tables 6.14 and 6.15) -/

def resurveyChecks (b : Bytes) : List (Nat × Bool) :=
  let ab := flg b 4 0
  [(4, decide (fld b 4 7 1 ≠ 0)), (5, decide (32 < fieldAt b 5 1) || ab && decide (fieldAt b 5 1 ≠ 0)),
   (6, if ab then decide (fieldAt b 6 2 ≠ 0) else decide (fieldAt b 6 2 = 0 ∨ 96 < fieldAt b 6 2)), (16, !zeroBytes b 16 47),
   (52, !zeroBytes b 52 55)]

/-- Is a command the one whose resurvey is under way or whose swap waits? -/
def resurveyWaits (s : State) (r : CmdRef) : Bool :=
  schedWaits s r || s.search.ixs.any fun q => match q.2.resurvey with | some v => decide (v.cmd = r) | none => false

def execSearchResurveyStart (r : CmdRef) (s : State) : Res :=
  runSearch s r 0x0905 resurveyChecks fun s1 x b =>
    if flg b 4 0 ∨ resurveyWaits s1 r then s1 else
    let h := fieldAt b 0 4
    let t := cmdTenant x
    match openIx s1 t h with
    | none => complete s1 r stNotFound 0 0
    | some ix =>
      let swapt := fieldAt b 8 8
      if ix.resurvey.isSome ∨ ix.built.isSome ∨ (swapt ≠ 0 ∧ !synced s1) then complete s1 r stBusy 0 0 else
      let tiles := Config.versionTiles ix.nitems ix.nquad (itemLen ix) + Config.deltaTiles ix.nquad ix.deltacap (itemLen ix)
      if quota s1 t 0 < tierCount s1 t 0 + tiles then complete s1 r stNoFit 0 0 else
      match makeJob s1 { tenant := t, prio := 7, mincores := 1, maxcores := min (fieldAt b 6 2) (maskSize s1 t), nseg := 2, nacc := 0 } with
      | none => complete s1 r stBusy 0 0
      | some (s2, j) =>
        let rv : Resurvey := { cmd := r, e0 := ix.epoch, iters := fieldAt b 5 1, rcores := fieldAt b 6 2, swapt := swapt
                               num := ix.lastVer + 1, tiles := tiles, job := j }
        placement (modIx s2 h fun y => { y with resurvey := some rv, ulog := [] })

def execSearchResurveyAbort (r : CmdRef) (s : State) : Res :=
  runSearch s r 0x0905 resurveyChecks fun s1 x b =>
    if !flg b 4 0 then s1 else
    let h := fieldAt b 0 4
    match (openIx s1 (cmdTenant x) h).bind (·.resurvey) with
    | none => complete s1 r stNotFound 0 0
    | some _ => whenBlock s1 x fun s2 => endBlock (abortResurvey s2 h) r stOk []

/-- A resurvey that meets a fault frees its tiles and ends, with a record (R148, R186). -/
def failResurvey (s : State) (h : Nat) (rv : Resurvey) (kind cause page : Nat) : State :=
  let s1 := letPages (finishJob (modIx s h fun y => { y with resurvey := none, ulog := [] }) rv.job) h
  match inflAt s1 rv.cmd with
  | some x => cmdFault s1 x srcDma kind 0 cause page 0
  | none => s1

/-- A version is built: the resurvey's command ends, or waits for the swap (R153). -/
def endBuild (s : State) (h : Nat) (ix : Index) (v : SVer) (rv : Resurvey) : State :=
  let s0 := modIx s h fun y => { y with
    vers := tabPut y.vers rv.num (buildVer s ix v rv), built := some rv.num, lastVer := rv.num, resurvey := none }
  let s1 := letPages (finishJob s0 rv.job) h
  let res := leBytes 4 rv.num ++ leBytes 4 0 ++ leBytes 8 rv.e0
  if rv.swapt = 0 then endBlock s1 rv.cmd stOk res
  else if rv.swapt < merNow s + leadTicks then endBlock s1 rv.cmd stLate res
  else if 256 ≤ s.time.acts.length then endBlock s1 rv.cmd stBusy res
  else addAct (modIx s1 h fun y => { y with swapping := true }) rv.swapt (.index h rv.num) (some rv.cmd)

/-- A resurvey has done its work, on job-cores of its job (R146); one whose job was ended is aborted.  It reads the image's pages first. -/
def execResurveyBuildDone (h : Nat) (s : State) : Res :=
  match ixAt s h with
  | none => .next s
  | some ix =>
    match ix.resurvey, tabFind ix.vers ix.cur with
    | some rv, some v =>
      if (jobAt s rv.job).isNone ∨ ((jobAt s rv.job).bind (·.ending)).isSome then .next (letPages (abortResurvey s h) h)
      else if rv.paused ∨ !jobRuns s rv.job then .next s
      else match imgReady s 7 ix.tenant (corePages ix v) with
        | .wait s1 => .next s1
        | .fault k c p => .next (failResurvey (engForget s ix.tenant [p]) h rv k c p)
        | .ready =>
          let ps := (List.range ix.nquad).flatMap (quadPages s ix v)
          match imgReady s 7 ix.tenant ps with
          | .wait s1 => .next s1
          | .fault k c p => .next (failResurvey (engForget s ix.tenant [p]) h rv k c p)
          | .ready =>
            let all := distinctN (corePages ix v ++ ps)
            .next (engForget (touchPages (endBuild s h ix v rv) ix.tenant walkHubControl all) ix.tenant all)
    | _, _ => .next s

/-- A resurvey pauses while the foreground has work for more than the mask size less RCORES cores, and goes on when the
demand falls (R146). -/
def execResurveyYield (h : Nat) (s : State) : Res :=
  match ixAt s h with
  | none => .next s
  | some ix =>
    match ix.resurvey with
    | none => .next s
    | some rv =>
      let busy := decide (maskSize s ix.tenant - rv.rcores < foreDemand s ix.tenant)
      .next (modIx s h fun y => { y with resurvey := some { rv with paused := busy } })

def swapChecks (b : Bytes) : List (Nat × Bool) := [(4, !zeroBytes b 4 7), (16, !zeroBytes b 16 47), (52, !zeroBytes b 52 63)]

def execSearchSwap (r : CmdRef) (s : State) : Res :=
  runSearch s r 0x0906 swapChecks fun s1 x b =>
    if schedWaits s1 r then s1 else
    let h := fieldAt b 0 4
    match openIx s1 (cmdTenant x) h with
    | none => complete s1 r stNotFound 0 0
    | some ix =>
      if ix.resurvey.isSome ∨ ix.swapping then complete s1 r stBusy 0 0 else
      match ix.built with
      | none => complete s1 r stNotFound 0 0
      | some n =>
        match schedRefuse s1 (fieldAt b 8 8) with
        | some st => complete s1 r st 0 0
        | none => addAct (modIx s1 h fun y => { y with swapping := true }) (fieldAt b 8 8) (.index h n) (some r)

end Sys2Proof.Machine
end

