-- ==== Sys2Proof/Machine/ModelCmds.lean ====
section
/-! DEFINITION. MODEL commands: images, legends, fit check, load, versions (R213 to R222, R235, R236, R281). -/

namespace Sys2Proof.Machine

/-! ### Reads of a command, chained -/

/-- Read for a command; the error is the state in which the command waits or has ended. -/
def rdCmd (s : State) (x : Inflight) (va n : Nat) : Except State (State × Bytes) :=
  match cmdRead s x (cmdTenant x) walkHubControl va n with
  | .wait s1 => .error s1
  | .fault k c p => .error (cmdFault s x srcDma k 0 c p 0)
  | .ok s1 bs => .ok (s1, bs)

/-- The state of a flow, however it ended. -/
def flowEnd : Except State State → State
  | .ok s => s
  | .error s => s

/-! ### The legend tile (R213, Tables 9.1 to 9.5) -/

def lgN (lt : Bytes) (off n : Nat) : Nat := fieldAt lt (512 + off) n
def lgNsec (lt : Bytes) : Nat := fieldAt lt 6 2
def lgLength (lt : Bytes) : Nat := fieldAt lt 24 8
def lgNjobs (lt : Bytes) : Nat := lgN lt 0 1
def lgNtab (lt : Bytes) : Nat := lgN lt 1 1
def lgServsec (lt : Bytes) : Nat := lgN lt 6 2
def lgWspages (lt : Bytes) : Nat := lgN lt 28 4
def lgWsva (lt : Bytes) : Nat := fld lt 544 56 0
def lgDesc (lt : Bytes) (k : Nat) : Bytes := (lt.drop (1024 + 64 * k)).take 64
def lgTabDesc (lt : Bytes) (k : Nat) : Bytes := (lt.drop (2048 + 64 * k)).take 64
def lgSec (lt : Bytes) (k : Nat) : Bytes := (lt.drop (8192 + 32 * k)).take 32

/-- A section: kind, flags byte, first page, pages. -/
def secOf (lt : Bytes) (k : Nat) : Nat × Nat × Nat × Nat :=
  let e := lgSec lt k
  (fieldAt e 0 1, fieldAt e 1 1, fld lt 16 56 0 / 65536 + fieldAt e 8 8 / 65536, fieldAt e 16 8 / 65536)

/-- Pages of a section. -/
def secPages (q : Nat × Nat × Nat × Nat) : List Nat := rangeOf (q.2.2.1 * 65536) q.2.2.2

/-- Address of a section. -/
def secVa (q : Nat × Nat × Nat × Nat) : Nat := q.2.2.1 * 65536

/-- Are the image header and the legend well formed? -/
def headOk (lt : Bytes) (img : Nat) : Bool :=
  decide (fieldAt lt 0 4 = 0x4C444F4D ∧ fieldAt lt 4 2 = 1) && decide (1 ≤ lgNsec lt ∧ lgNsec lt ≤ 1024) && decide (fieldAt lt 16 8 = img)
    && decide (lgLength lt % 65536 = 0 ∧ 65536 ≤ lgLength lt ∧ img + lgLength lt ≤ 2 ^ 57) && zeroBytes lt 96 511
    && decide (1 ≤ lgNjobs lt ∧ lgNjobs lt ≤ 16) && decide (lgNtab lt ≤ 64) && decide (lgN lt 3 1 = 0) && decide (lgN lt 4 2 ≤ 1024)
    && decide (lgWspages lt ≤ 2 ^ 26) && decide (fld lt 544 63 57 = 0 ∧ fld lt 544 15 0 = 0) && zeroBytes lt 552 1023
    && zeroBytes lt 6144 8191 && zeroBytes lt 40960 65535

/-- Is a directory entry well formed and inside the image? -/
def secOk (lt : Bytes) (k : Nat) : Bool :=
  let e := lgSec lt k
  let kind := fieldAt e 0 1
  let tab := fieldAt e 2 2
  decide (1 ≤ kind ∧ kind ≤ 10) && decide (fld e 1 7 5 = 0 ∧ !flg e 1 3 ∧ fld e 1 2 1 ≠ 3) && zeroBytes e 4 7 && zeroBytes e 24 31
    && (if 4 ≤ kind ∧ kind ≤ 8 then decide (tab < lgNtab lt) else decide (tab = 0xFFFF))
    && decide (fieldAt e 8 8 % 65536 = 0 ∧ 65536 ≤ fieldAt e 8 8 ∧ fieldAt e 16 8 % 65536 = 0 ∧ fieldAt e 8 8 + fieldAt e 16 8 ≤ lgLength lt)

/-- Do two page ranges overlap? -/
def pagesMeet (a an b bn : Nat) : Bool := decide (a < b + bn ∧ b < a + an ∧ an ≠ 0 ∧ bn ≠ 0)

/-- Do no two of a list of sections overlap? -/
def secsApart : List (Nat × Nat × Nat × Nat) → Bool
  | [] => true
  | q :: qs => (qs.all fun r => !pagesMeet q.2.2.1 q.2.2.2 r.2.2.1 r.2.2.2) && secsApart qs

/-! ### Table descriptors (R222 to R225, Tables 9.7 and 9.8) -/

/-- Row bytes of a table (Table 9.8). -/
def rowBytes (d : Bytes) : Nat :=
  let n := tabDim d
  match tabRcode d with
  | 0 => 4 * n | 1 => 2 * n | 2 => 2 * n | 3 => n + 4 | 4 => (n + 1) / 2 + 4 | 5 => n + n / 32 | _ => 8 * n

/-- The section a descriptor names at an offset, when it is of a kind. -/
def tabSec (secs : List (Nat × Nat × Nat × Nat)) (d : Bytes) (off kind : Nat) : Option (Nat × Nat × Nat × Nat) :=
  (secs[fieldAt d off 2]?).filter fun q => decide (q.1 = kind)

/-- Is a section named of the right kind, or 0xFFFF where the table must or may have none? -/
def namesOk (secs : List (Nat × Nat × Nat × Nat)) (d : Bytes) (off kind : Nat) (must may : Bool) : Bool :=
  if fieldAt d off 2 = 0xFFFF then !must else may && (tabSec secs d off kind).isSome

/-- Is a table descriptor accepted (R222)? -/
def tableOk (secs : List (Nat × Nat × Nat × Nat)) (d : Bytes) : Bool :=
  let n := tabNrows d
  let st := tabStride d
  let hot := tabHot d
  let sh := tabSharded d
  let wr := tabWritable d
  let defz := flg d 3 2
  decide (fieldAt d 0 2 ≤ 65534) && decide (tabRcode d ≤ 6) && decide (fld d 3 7 3 = 0) && decide (1 ≤ n ∧ n ≤ 0xFFFFFFFE)
    && decide (1 ≤ tabDim d ∧ tabDim d ≤ 16384) && (decide (tabRcode d ≠ 5) || decide (tabDim d % 32 = 0)) && zeroBytes d 10 11
    && decide (st % 16 = 0 ∧ rowBytes d ≤ st) && decide (hot ≤ n) && zeroBytes d 36 63
    && (match tabSec secs d 26 4 with | some q => decide (ceilDiv (n * st) 65536 ≤ q.2.2.2) | none => false)
    && namesOk secs d 28 5 false true && namesOk secs d 30 6 wr wr && namesOk secs d 32 7 sh sh && namesOk secs d 34 8 (!defz) (!defz)
    && (if sh then decide (1 ≤ tabRpsh d ∧ 1 ≤ tabNshard d ∧ tabNshard d ≤ 1024 ∧ hot * st % 65536 = 0 ∧ tabRpsh d * st % 65536 = 0
          ∧ tabNshard d = ceilDiv (n - hot) (tabRpsh d))
        else decide (tabRpsh d = 0 ∧ tabNshard d = 0))

/-- Pages of a table's hot rows. -/
def hotPages (d : Bytes) : Nat := ceilDiv (tabHot d * tabStride d) 65536

/-- First page within ROWS and pages of a shard. -/
def shardPages (d : Bytes) (i : Nat) : Nat × Nat :=
  let a := tabHot d + i * tabRpsh d
  let n := min (tabRpsh d) (tabNrows d - a)
  (a * tabStride d / 65536, ceilDiv (n * tabStride d) 65536)

/-- A descriptor with the addresses of its sections. -/
def tableOf (secs : List (Nat × Nat × Nat × Nat)) (d : Bytes) : Table :=
  let va (off kind : Nat) : Option Nat := (tabSec secs d off kind).map secVa
  { d := d, rows := (va 26 4).getD 0, remap := va 28 5, stamps := va 30 6, shmap := va 32 7, defrow := va 34 8 }

/-! ### The serving descriptor (R235, R236, Table 10.1) -/

/-- Does a byte range lie in a section of a kind? -/
def inSecKind (secs : List (Nat × Nat × Nat × Nat)) (kind va n : Nat) : Bool :=
  secs.any fun q => decide (q.1 = kind ∧ secVa q ≤ va ∧ va + n ≤ secVa q + q.2.2.2 * 65536)

/-- Areas of the workspace: first page and pages. -/
def wsAreas (d : Bytes) : List (Nat × Nat) :=
  let kvb := fieldAt d 44 4
  [(fieldAt d 48 4, 65), (fieldAt d 52 4, fieldAt d 38 2), (fieldAt d 56 4, ceilDiv kvb 128), (fieldAt d 60 4, kvb * fieldAt d 10 2),
   (fieldAt d 64 4, fieldAt d 68 4)]

/-- Do no two areas overlap? -/
def areasApart : List (Nat × Nat) → Bool
  | [] => true
  | q :: qs => (qs.all fun r => !pagesMeet q.1 q.2 r.1 r.2) && areasApart qs

/-- Is a serving descriptor accepted, its plot table apart (R236)? -/
def servOk (secs : List (Nat × Nat × Nat × Nat)) (njobs wspages : Nat) (d : Bytes) : Bool :=
  let n (off k : Nat) : Nat := fieldAt d off k
  let role := n 4 1
  let gen := decide (role = 1 ∨ role = 4)
  let ne := n 20 2
  let within (v lo hi : Nat) : Bool := decide (lo ≤ v ∧ v ≤ hi)
  decide (n 0 4 = 0x56524553) && within role 1 4 && decide (n 5 1 < njobs) && (if gen then decide (n 6 1 < njobs) else decide (n 6 1 = 0xFF))
    && (if ne = 0 then decide (n 7 1 = 0xFF) else decide (n 7 1 < njobs)) && within (n 8 2) 1 1024
    && (if gen then within (n 10 2) 1 4096 else decide (n 10 2 = 0)) && within (n 12 4) 64 1048576 && decide (n 12 4 % 64 = 0)
    && (if role = 2 then decide (1 ≤ n 16 4) else decide (n 16 4 = 0)) && decide (ne ≤ 4096)
    && (if ne = 0 then decide (n 22 1 = 0 ∧ n 23 1 = 0 ∧ n 68 4 = 0 ∧ fld d 80 56 0 = 0) else within (n 22 1) 1 16 && within (n 23 1) 1 4)
    && within (n 24 2) 32 16384 && decide (n 24 2 % 32 = 0) && decide (n 26 1 ≤ 1 ∧ n 27 1 ≤ 1) && within (n 28 4) 64 65536
    && within (n 32 4) 64 (n 28 4) && decide (n 32 4 % 64 = 0) && within (n 36 2) 1 4096 && within (n 38 2) 1 16384 && decide (n 42 2 = 0)
    && (gen || decide (n 44 4 = 0)) && decide (fld d 72 63 57 = 0 ∧ fld d 80 63 57 = 0) && zeroBytes d 88 255
    && areasApart (wsAreas d) && (wsAreas d).all (fun q => decide (q.2 = 0 ∨ q.1 + q.2 ≤ wspages))
    && inSecKind secs 1 (fld d 72 56 0) 128 && (decide (ne = 0) || inSecKind secs 3 (fld d 80 56 0) (n 8 2 * ne * 32))

/-- An entry of the plot table. -/
def plotTabEnt (pt : Bytes) (k : Nat) : Bytes := (pt.drop (16 * k)).take 16

/-- Does the plot table serve every kind the role needs, with its reserved bytes 0 (R236)? -/
def plotTabOk (d pt : Bytes) : Bool :=
  let need := (match fieldAt d 4 1 with | 1 => [1, 2] | 2 => [5] | 3 => [6] | _ => [4]) ++ (if fieldAt d 20 2 = 0 then [] else [7])
  need.all (fun k => decide (fieldAt (plotTabEnt pt k) 8 2 ≠ 0)) && (List.range 8).all fun k => zeroBytes (plotTabEnt pt k) 11 15

/-! ### Checks of a load (R214, R281) -/

/-- Every page of a list is mapped. -/
def allMapped (s : State) (t : Nat) (ps : List Nat) : Bool := ps.all fun p => (leafAt s t p).isSome

/-- Remote shards of a table: module, first page, pages, given its shard map. -/
def remoteShards (s : State) (tb : Table) (map : Bytes) : List (Nat × Nat × Nat) :=
  if !tabSharded tb.d then [] else
  (List.range (tabNshard tb.d)).filterMap fun i =>
    let m := fld map (4 * i) 16 0
    let q := shardPages tb.d i
    if m = s.fab.module then none else some (m, tb.rows / 65536 + q.1, q.2)

/-- What a load has read and found good. -/
structure LoadPlan where
  ver : ModelVer
  /-- Remote shards: module, first page, pages. -/
  shards : List (Nat × Nat × Nat)
  /-- Jobs to make, in descriptor order. -/
  jobs : List Job
  /-- The legend tile. -/
  legend : Bytes
  /-- Pages to pin. -/
  pinned : List Nat

/-- Read the region tables of the job descriptors and make the jobs of them. -/
def loadJobs (x : Inflight) (lt : Bytes) : List Nat → State → Except State (State × List Job)
  | [], s => .ok (s, [])
  | k :: ks, s => do
    let d := lgDesc lt k
    if (firstBad (descChecks s (cmdTenant x) d)).isSome then throw (badParam s x.ref 16)
    let (s1, rt) ← rdCmd s x (fld d 16 56 0) (16 * fld d 8 5 0)
    if !rtabOk rt (fld d 8 5 0) (fld d 4 4 0) then throw (badParam s1 x.ref 16)
    let (s2, js) ← loadJobs x lt ks s1
    return (s2, descJob (cmdTenant x) d rt :: js)

/-- Read the shard maps of the tables. -/
def loadMaps (x : Inflight) : List Table → State → Except State (State × List (Table × Bytes))
  | [], s => .ok (s, [])
  | tb :: tbs, s => do
    let (s1, m) ← match tb.shmap with
      | some va => rdCmd s x va (4 * tabNshard tb.d)
      | none => .ok (s, [])
    let (s2, ms) ← loadMaps x tbs s1
    return (s2, (tb, m) :: ms)

/-- Read the serving descriptor and the plot table. -/
def loadServ (x : Inflight) (lt : Bytes) (secs : List (Nat × Nat × Nat × Nat)) (s : State) : Except State (State × Option Bytes × Bytes) := do
  if lgServsec lt = 0xFFFF then return (s, none, [])
  match (secs[lgServsec lt]?).filter fun q => decide (q.1 = 9) with
  | none => throw (badParam s x.ref 16)
  | some q =>
    let (s1, d) ← rdCmd s x (secVa q) 256
    if !servOk secs (lgNjobs lt) (lgWspages lt) d then throw (badParam s1 x.ref 16)
    let (s2, pt) ← rdCmd s1 x (fld d 72 56 0) 128
    if !plotTabOk d pt then throw (badParam s2 x.ref 16)
    return (s2, some d, pt)

/-- Read and check the TEXT section (R281). -/
def loadText (x : Inflight) (secs : List (Nat × Nat × Nat × Nat)) (serv : Option Bytes) (s : State) :
    Except State (State × Option (Nat × Nat)) := do
  let role := match serv with | some d => fieldAt d 4 1 | none => 0
  match secs.filter fun q => decide (q.1 = 10) with
  | [] => if role = 1 ∨ role = 2 ∨ role = 4 then throw (badParam s x.ref 16) else return (s, none)
  | [q] =>
    let (s1, g) ← rdCmd s x (secVa q) (q.2.2.2 * 65536)
    if !gzGood g (q.2.2.2 * 65536) then throw (badParam s1 x.ref 16)
    return (s1, some (secVa q, q.2.2.2 * 65536))
  | _ => throw (badParam s x.ref 16)

/-- Compare the digest (R215): the image with DIGEST taken as 0. -/
def loadDigest (x : Inflight) (img len : Nat) (s : State) : Except State State := do
  let (s1, bs) ← rdCmd s x img len
  let h := shake256 (bs.take 32 ++ leBytes 64 0 ++ bs.drop 96) 64
  if h ≠ (bs.drop 32).take 64 then throw (complete s1 x.ref stAuth 0 0)
  return s1

/-- Every read and check of a load (R214, R215, R222, R225, R236, R281). -/
def loadPlan (s : State) (x : Inflight) (e : Bytes) : Except State (State × LoadPlan) := do
  let t := cmdTenant x
  let img := parFld e 0 56 0
  let bad (st : State) : Except State Unit := throw (badParam st x.ref 16)
  let (s1, lt) ← rdCmd s x img 65536
  if !headOk lt img then bad s1
  if !(List.range (lgNsec lt)).all (secOk lt) then bad s1
  let secs := (List.range (lgNsec lt)).map (secOf lt)
  if !secsApart secs then bad s1
  let tds := (List.range (lgNtab lt)).map (lgTabDesc lt)
  if !tds.all (tableOk secs) || !decide ((tds.map fun d => fieldAt d 0 2).Nodup) then bad s1
  if tds.any tabSharded && !bitOf (lgN lt 2 1) 5 then bad s1
  if !allMapped s1 t ((secs.filter fun q => decide (q.1 ≠ 4)).flatMap secPages) then bad s1
  let ws := rangeOf (lgWsva lt) (lgWspages lt)
  if pagesMeet (lgWsva lt / 65536) (lgWspages lt) (img / 65536) (lgLength lt / 65536) || decide (mappedIn s1 t ws ≠ []) then bad s1
  let tabs := tds.map (tableOf secs)
  let (s2, maps) ← loadMaps x tabs s1
  let shards := maps.flatMap fun q => remoteShards s2 q.1 q.2
  let away := shards.flatMap fun q => rangeOf (q.2.1 * 65536) q.2.2
  let rows := (secs.filter fun q => decide (q.1 = 4)).flatMap secPages
  if !rows.all (fun p => (leafAt s2 t p).isSome != away.contains p) then bad s2
  let pins := (secs.filter fun q => bitOf q.2.1 0).flatMap secPages ++ tabs.flatMap fun tb => rangeOf tb.rows (hotPages tb.d)
  if pins.length ≠ lgN lt 8 4 then bad s2
  let (s3, jobs) ← loadJobs x lt (List.range (lgNjobs lt)) s2
  let (s4, serv, plots) ← loadServ x lt secs s3
  let (s5, text) ← loadText x secs serv s4
  let s6 ← if parFlg e 12 0 then loadDigest x img (lgLength lt) s5 else .ok s5
  let pinned := (distinctN pins).filter fun p => !away.contains p
  let ver : ModelVer :=
    { imgva := img, pages := lgLength lt / 65536, modelid := fieldAt lt 8 4, build := fieldAt lt 12 4, svcmask := lgN lt 2 1
      retain := parFlg e 12 1, descs := (List.range (lgNjobs lt)).map (lgDesc lt), nsem := lgN lt 4 2
      pins := pinned.filter fun p => match leafAt s6 t p with | some l => !l.pin | none => false
      wspage := lgWsva lt / 65536, wspages := lgWspages lt, tables := tabs, secs := secs, serv := serv, text := text, plots := plots }
  return (s6, { ver := ver, shards := shards, jobs := jobs, legend := lt, pinned := pinned })

/-! ### Fit check (R216, Table 9.6) -/

/-- Segments, or entries, of a core that a job could have: in no window, or only in windows of possible victims (R201). -/
def couldFree (s : State) (j : Job) (k : Core) (total : Nat) (use : Slot → Nat) : Nat :=
  total - ((k.slots.map fun q =>
    let victim := (match jobAt s q.2.jobid with | some v => decide (j.prio < v.prio) | none => true)
      && !s.jobs.nopreempt.getLsbD (jobTenant q.2.jobid)
    if victim then 0 else use q.2).sum)

/-- Cores of a job's mask on which a predicate holds. -/
def maskCount (s : State) (j : Job) (p : Core → Bool) : Nat :=
  (allCores.filter fun c => (jobMask s j).getLsbD c && p (coreAt s c)).length

/-- Free sectors of the T3 and T4 pools. -/
def t3FreeSectors (s : State) : Nat :=
  ((s.atlas.regions.filter fun q => !q.2.draining).map fun q => q.2.length / 4096 - ((t3Used s q.1).map fun u => u.2).sum).sum
def t4FreeSectors (s : State) : Nat := s.atlas.t4Pool - ((t4Used s).map fun u => u.2).sum

/-- Is a peer reachable for model traffic (R216 PEERS)? -/
def peerLive (s : State) (m svc : Nat) : Bool :=
  decide (m = s.fab.module) || bitOf (reachOf s m) svc && !s.atlas.lostPeers.contains m

/-- The not-fitted bitmap of a load. -/
def notFitted (s : State) (t : Nat) (base : Nat) (pl : LoadPlan) : Nat :=
  let lt := pl.legend
  let vers : Nat := (s.models.models.map fun m => m.2.vers.length).sum
  let tabs : Nat := (s.models.models.map fun m => (m.2.vers.map fun v => v.2.tables.length).sum).sum
  let pinNew := (pl.pinned.filter fun p => match leafAt s t p with | some l => !l.pin | none => true).length
  let own : Nat := match modelAt s base with | some m => m.vers.length | none => 0
  let ten := tenAt s t
  let newPages := rangeOf (lgWsva lt) (lgWspages lt) ++ pl.shards.flatMap fun q => rangeOf (q.2.1 * 65536) q.2.2
  let seqs := (s.serving.seqs.filter fun x => decide (x.2.tenant = t)).length
  let smin := match pl.ver.serv with | some d => fieldAt d 40 2 | none => 0
  let items : List Bool :=
    [pl.jobs.any fun j => decide (maskCores s j < j.mincores),
     pl.jobs.any fun j => decide (maskCount s j (fun k => decide (j.nseg ≤ couldFree s j k 16 fun sl => sl.segs.length)) < j.mincores),
     pl.jobs.any fun j => decide (maskCount s j (fun k => decide (j.nacc ≤ couldFree s j k 512 fun sl => sl.nacc)) < j.mincores),
     decide (ten.joblim < liveJobs s t + pl.jobs.length ∨ 4096 < s.jobs.jobs.length + pl.jobs.length),
     decide (8192 < s.jobs.sems.length + lgN lt 4 2),
     decide (quota s t 0 < pinnedCount s t + pinNew + lgN lt 12 4),
     decide (quota s t 1 < tierCount s t 1 + lgN lt 16 4),
     decide (quota s t 2 < tierCount s t 2 + lgN lt 20 4 ∨ t3FreeSectors s < 16 * lgN lt 20 4),
     decide (quota s t 3 < tierCount s t 3 + lgN lt 24 4 ∨ t4FreeSectors s < 16 * lgN lt 24 4),
     decide (ten.tablim < framesWith s t newPages),
     decide (4096 < (ctxAt s t).wins.length + pl.shards.length),
     decide (1024 < vers + 1 ∨ 4096 < tabs + pl.ver.tables.length ∨ 8 ≤ own),
     decide (lgN lt 2 1 &&& ten.svcmask ≠ lgN lt 2 1),
     pl.shards.any fun q => !peerLive s q.1 5,
     decide (16384 < s.serving.seqs.length + smin ∨ (tabGet s.serving.pols t {}).seqlim < seqs + smin)]
  ((enumFrom 0 items).map fun q => if q.2 then 2 ^ q.1 else 0).sum

/-! ### Applying a load (R217, R218) -/

/-- Permissions of a section's pages (Table 9.5): PR, PW, PX. -/
def secPerm (tabs : List Table) (q : Nat × Nat × Nat × Nat) : Bool × Bool × Bool :=
  (true, decide (q.1 = 4) && tabs.any fun tb => decide (tb.rows = secVa q) && tabWritable tb.d, decide (q.1 = 1))

/-- A leaf with a section's permissions. -/
def withPerm (m : Bool × Bool × Bool) (e : Bool) (l : Leaf) : Leaf := { l with pr := m.1, pw := m.2.1, px := m.2.2, e := e }

/-- Permissions lost by a leaf. -/
def losesPerm (m : Bool × Bool × Bool) (l : Leaf) : Bool := (l.pr && !m.1) || (l.pw && !m.2.1) || (l.px && !m.2.2)

/-- Mapped pages of the sections, with their permissions and E. -/
def permPages (s : State) (t : Nat) (v : ModelVer) : List (Nat × (Bool × Bool × Bool) × Bool) :=
  v.secs.flatMap fun q => (mappedIn s t (secPages q)).map fun p => (p, secPerm v.tables q, bitOf q.2.1 4)

/-- Pages of the sections that lose a permission. -/
def lossPages (s : State) (t : Nat) (v : ModelVer) : List Nat :=
  ((permPages s t v).filter fun q => match leafAt s t q.1 with | some l => losesPerm q.2.1 l | none => false).map (·.1)

/-- The load under way of a command. -/
def loadOf (s : State) (r : CmdRef) : Option LoadRun := s.models.loads.find? fun l => decide (l.cmd = r)
def dropLoad (s : State) (r : CmdRef) : State :=
  { s with models := { s.models with loads := s.models.loads.filter fun l => decide (l.cmd ≠ r) } }

/-- Undo the steps of a load (R217). -/
def undoLoad (s : State) (r : CmdRef) (t : Nat) : State :=
  match loadOf s r with
  | none => s
  | some lr =>
    let s1 := lr.before.foldl (fun st q => modLeaf st t q.1 fun l => { l with pr := q.2.pr, pw := q.2.pw, px := q.2.px, e := q.2.e }) s
    let s2 := lr.ver.pins.foldl (fun st p => modAtlas (modLeaf st t p fun l => { l with pin := false }) fun a =>
      { a with migs := a.migs.map fun m => if m.tenant = t ∧ m.page = p then { m with pinAfter := false } else m }) s1
    dropLoad s2 r

/-- A step of a load has failed: it is undone and ends NOFIT with the item's bit (R217). -/
def failLoad (s : State) (r : CmdRef) (t bit : Nat) : State := complete (undoLoad s r t) r stNoFit (2 ^ bit) 0

/-- Make the jobs of a load, in order. -/
def makeJobs (s : State) : List Job → Option (State × List Nat)
  | [] => some (s, [])
  | j :: js =>
    match makeJob s j with
    | none => none
    | some (s1, id) => (makeJobs s1 js).map fun q => (q.1, id :: q.2)

/-- The cores of a version's pool jobs' masks (R254). -/
def poolCores (s : State) (t : Nat) (v : ModelVer) : BitVec 96 :=
  let one (k : Nat) : BitVec 96 :=
    let m := fieldAt (v.descs.getD k []) 24 12
    (if m = 0 then (tenAt s t).cores else BitVec.ofNat 96 m &&& (tenAt s t).cores) &&& s.enCores
  one (svN v 5 1) ||| one (svN v 6 1)

/-- Has a version two pools: a generator whose prefill and decode pools are different jobs (R254)? -/
def hasPools (v : ModelVer) : Bool := decide (v.serv.isSome ∧ svRole v = 1 ∧ svN v 5 1 ≠ svN v 6 1)

/-- Dies with cores in the pool masks. -/
def dieShares (s : State) (t : Nat) (v : ModelVer) : List Nat :=
  distinctN ((allCores.filter fun c => (poolCores s t v).getLsbD c).map dieOf)

/-- The shares in rising order. -/
def sharesUp (s : State) (t : Nat) (v : ModelVer) : List Nat := (List.range 8).filter fun d => (dieShares s t v).contains d

/-- Cores of a list of die shares. -/
def shareMask (s : State) (t : Nat) (v : ModelVer) (ds : List Nat) : BitVec 96 :=
  allCores.foldl (fun m c => if (poolCores s t v).getLsbD c ∧ ds.contains (dieOf c) then m ||| BitVec.ofNat 96 (2 ^ c) else m) 0

/-- The core whose die's copy of the meridian times a version's beats (R256): the lowest core of its decode pool stands for "the
decode die" where the pool spans several dies (DESIGN CHOICE, log 24). -/
def decodeCore (s : State) (t : Nat) (v : ModelVer) : Nat :=
  let m := if hasPools v then shareMask s t v v.sv.dc else poolCores s t v
  ((allCores.filter fun c => m.getLsbD c).head?).getD srcCp

/-- The pool masks take effect on the pool jobs (R238, R254). -/
def applyPools (s : State) (q : Nat × Nat) : State :=
  match verAt s q, modelAt s q.1 with
  | some v, some m =>
    if !hasPools v then s else
    let pf := shareMask s m.tenant v v.sv.pf
    let dc := shareMask s m.tenant v v.sv.dc
    placement (modJob (modJob s (v.jobs.getD (svN v 5 1) 0) fun j => { j with pool := some pf })
      (v.jobs.getD (svN v 6 1) 0) fun j => { j with pool := some dc })
  | _, _ => s

/-- Issue a section's hint without waiting (R218). -/
def hintSec (t : Nat) (s : State) (q : Nat × Nat × Nat × Nat) : State :=
  match q.2.1 / 2 % 4 with
  | 1 => (mappedIn s t (secPages q)).foldl (fun st p => hintWillneed st t walkHubControl p) s
  | 2 => (mappedIn s t (secPages q)).foldl (fun st p => hintDemote st t walkHubControl p) s
  | _ => s

/-- Free window numbers, lowest first. -/
def freeWins (s : State) (t n : Nat) : List Nat := ((List.range 4096).filter fun w => !tabHas (ctxAt s t).wins w).take n

/-- Create the windows of the remote shards, with the permissions of the ROWS section. -/
def makeWindows (s : State) (t : Nat) (v : ModelVer) : List (Nat × (Nat × Nat × Nat)) → State
  | [] => s
  | (w, m, p, n) :: qs =>
    let perm := match v.secs.find? fun z => decide (z.1 = 4 ∧ z.2.2.1 ≤ p ∧ p < z.2.2.1 + z.2.2.2) with
      | some z => secPerm v.tables z
      | none => (true, false, false)
    let s1 := updCtx s t fun c => { c with wins := tabPut c.wins w { lpage := p, rpage := p, npages := n, module := m } }
    makeWindows ((rangeOf (p * 65536) n).foldl (fun st z => setLeaf st t z (withPerm perm false { loc := .win w })) s1) t v qs

/-- The new version joins its model, and the load ends or waits for its swap (R219, R220). -/
def installVer (s : State) (r : CmdRef) (t base swapt : Nat) (v : ModelVer) : State :=
  match modelAt s base with
  | some m =>
    let n := m.lastVer + 1
    let v1 := { v with sv := { v.sv with per := { since := s.clk.ticks }, last := { since := s.clk.ticks } } }
    let s1 := modModel s base fun y => { y with vers := tabPut y.vers n v1, lastVer := n }
    let s2 := applyPools s1 (base, n)
    let res := n * 2 ^ 32 + base
    if swapt = 0 then complete s2 r stOk res 0
    else if swapt < merNow s + leadTicks then complete s2 r stLate res 0
    else if 256 ≤ s.time.acts.length then complete s2 r stBusy res 0
    else addAct s2 swapt (.model base n) (some r)
  | none =>
    match tabGap s.models.models 1 (2 ^ 32) with
    | none => failLoad s r t 11
    | some h =>
      let v1 := { v with fresh := false, sv := { v.sv with per := { since := s.clk.ticks }, last := { since := s.clk.ticks } } }
      let s1 := { s with models := { s.models with models := tabPut s.models.models h { tenant := t, vers := [(1, v1)], lastVer := 1 } } }
      complete (applyPools s1 (h, 1)) r stOk (2 ^ 32 + h) 0

/-- A version with its jobs, its windows and the shares of its pools, `pfinit` of them for prefill. -/
def loadedVer (s : State) (t pfinit : Nat) (v : ModelVer) (ids wins : List Nat) : ModelVer :=
  let sh := sharesUp s t v
  { v with jobs := ids, wins := wins
           sv := { v.sv with pf := if hasPools v then sh.take pfinit else [], dc := if hasPools v then sh.drop pfinit else [] } }

/-- Steps 3 to 6 of a load, once its pins hold (R218). -/
def finishLoad (s : State) (x : Inflight) (lr : LoadRun) (swapt : Nat) : State :=
  let t := cmdTenant x
  let r := x.ref
  let v := lr.ver
  let ws := rangeOf (v.wspage * 65536) v.wspages
  let shp := lr.shards.flatMap fun q => rangeOf (q.2.1 * 65536) q.2.2
  if mappedIn s t (ws ++ shp) ≠ [] ∨ (tenAt s t).tablim < framesWith s t (ws ++ shp) then failLoad s r t 9 else
  if 8 ≤ (match modelAt s lr.base with | some m => m.vers.length | none => 0) then failLoad s r t 11 else
  let wins := freeWins s t lr.shards.length
  if wins.length < lr.shards.length then failLoad s r t 10 else
  if lr.jobs.any fun j => decide (maskCores s j < j.mincores) then failLoad s r t 0 else
  match cmdReady s x t walkHubControl .write [pageOf v.imgva] with
  | .wait s1 => s1
  | .fault k c p => cmdFault (undoLoad s r t) x srcDma k 1 c p 0
  | .ready =>
    match makeJobs s lr.jobs with
    | none => failLoad s r t 3
    | some (s1, ids) =>
      let s2 := ws.foldl (fun st p => setLeaf st t p (withPerm (true, true, false) false {})) s1
      let s3 := makeWindows s2 t v (wins.zip lr.shards)
      let s4 := (enumFrom 0 ids).foldl (fun st q => hubWrite st t (v.imgva + 1024 + 64 * q.1 + 48) (leBytes 4 q.2)) s3
      let pfinit := match modelAt s4 lr.base with | some m => m.serve.pfinit | none => 1
      let s5 := v.secs.foldl (hintSec t) (dropLoad s4 r)
      installVer (placement s5) r t lr.base swapt (loadedVer s4 t pfinit v ids wins)

/-- Go on with a load whose pins have been started. -/
def goLoad (s : State) (x : Inflight) (lr : LoadRun) (swapt : Nat) : State :=
  let t := cmdTenant x
  let ps := lr.toPin
  if poisonedIn s t ps then complete (undoLoad s x.ref t) x.ref stPoison 0 0
  else if anyMig s t ps then s
  else if !(ps.all fun p => inT1 s t p) then failLoad s x.ref t 5
  else
    let s1 := ps.foldl (fun st p => modLeaf st t p fun l => { l with pin := true }) s
    finishLoad s1 x lr swapt

/-- What a load notes as it begins: the leaves before it, its pages to pin, its shards and jobs. -/
def loadRunOf (s : State) (x : Inflight) (base : Nat) (pl : LoadPlan) : LoadRun :=
  let t := cmdTenant x
  { cmd := x.ref, base := base, ver := pl.ver, toPin := pl.pinned, shards := pl.shards, jobs := pl.jobs
    before := (permPages s t pl.ver).filterMap fun q => (leafAt s t q.1).map fun l => (q.1, l) }

/-- Step 1 of a load: it is noted, and the permissions of its sections are set. -/
def loadPerms (s : State) (x : Inflight) (base : Nat) (pl : LoadPlan) : State :=
  let t := cmdTenant x
  let s1 := { s with models := { s.models with loads := s.models.loads ++ [loadRunOf s x base pl] } }
  dropTlbs ((permPages s t pl.ver).foldl (fun st q => modLeaf st t q.1 (withPerm q.2.1 q.2.2)) s1) t (lossPages s t pl.ver)

/-- Steps 1 and 2 of a load (R218). -/
def beginLoad (s : State) (x : Inflight) (base swapt : Nat) (pl : LoadPlan) : State :=
  let t := cmdTenant x
  if accessPending s t (lossPages s t pl.ver) ∨ anyMig s t pl.pinned then s else
  let s1 := loadPerms s x base pl
  match pinPages s1 t walkHubControl (!cmdBg x) (pl.pinned.filter (fun p => inT1 s t p) ++ pl.pinned.filter fun p => !inT1 s t p) with
  | .error _ => failLoad s1 x.ref t 5
  | .ok s2 => goLoad s2 x (loadRunOf s x base pl) swapt

/-- Is a load of the tenant that was fetched earlier still under way (R217)?  With its handle, when it is for one. -/
def earlierLoads (s : State) (x : Inflight) : List Inflight :=
  (s.inflight.takeWhile fun y => y.ref ≠ x.ref).filter fun y =>
    decide (entryOp y.entry = 0x0501) && decide (cmdTenant y = cmdTenant x) && y.status.isNone

def loadChecks (e : Bytes) : List (Nat × Bool) :=
  vaChecks e 0 ++ []

def execModelLoad (r : CmdRef) (s : State) : Res :=
  runCmd s r 0x0501 (fun _ e => loadChecks e) fun s1 x e =>
    let t := cmdTenant x
    let base := par e 8 4
    let swapt := if base = 0 then 0 else par e 16 8
    if schedWaits s1 r then s1 else
    match loadOf s1 r with
    | some lr => goLoad s1 x lr swapt
    | none =>
      let early := earlierLoads s1 x
      if base ≠ 0 ∧ early.any (fun y => decide (par y.entry 8 4 = base)) then complete s1 r stBusy 0 0
      else if early ≠ [] then s1
      else if base ≠ 0 ∧ (liveModel s1 t base).isNone then complete s1 r stNotFound 0 0
      else if swapt ≠ 0 ∧ !synced s1 then complete s1 r stBusy 0 0
      else flowEnd do
        let (s2, pl) ← loadPlan s1 x e
        let bits := notFitted s2 t base pl
        if bits ≠ 0 then return complete s2 r stNoFit bits 0
        return beginLoad s2 x base swapt pl

/-! ### MODEL.UNLOAD and MODEL.SWAP (R220, R221) -/

/-- Is the action a swap of a model, or a served set that names it?  Without the model neither can take effect (R354). -/
def namesModel (h : Nat) (k : SchedKind) : Bool :=
  match k with
  | .model a _ => decide (a = h)
  | .serve _ b => decide (fieldAt b 0 4 = h)
  | _ => false

/-- The status that refuses a version of a model. -/
def verRefuse (m : Model) (n : Nat) : Option Nat :=
  if tabHas m.vers n ∧ !m.endedVers.contains n then none else if n ≤ m.lastVer ∧ n ≠ 0 then some stStale else some stNotFound

def execModelUnload (r : CmdRef) (s : State) : Res :=
  runCmd s r 0x0502 noChecks fun s1 x e =>
    let h := par e 0 4
    let n := par e 4 4
    match liveModel s1 (cmdTenant x) h with
    | none => complete s1 r stNotFound 0 0
    | some m =>
      if armedKind s1 (namesModel h) then complete s1 r stBusy 0 0
      else if n = 0 then complete (settleModel (modModel s1 h fun y => { y with ended := true }) h) r stOk 0 0
      else match verRefuse m n with
        | some st => complete s1 r st 0 0
        | none =>
          if m.cur = n then complete s1 r stBusy 0 0
          else complete (settleModel (modModel s1 h fun y => { y with endedVers := y.endedVers ++ [n] }) h) r stOk 0 0

def execModelSwap (r : CmdRef) (s : State) : Res :=
  runCmd s r 0x0503 noChecks fun s1 x e =>
    if schedWaits s1 r then s1 else
    match liveModel s1 (cmdTenant x) (par e 0 4) with
    | none => complete s1 r stNotFound 0 0
    | some m =>
      match verRefuse m (par e 4 4) with
      | some st => complete s1 r st 0 0
      | none => schedCmd s1 r (par e 8 8) (.model (par e 0 4) (par e 4 4))

/-- A swap of a model takes effect, and its command ends (R220). -/
def swapModel (s : State) (h n : Nat) (cmd : Option CmdRef) : State :=
  let done (st : State) (status res : Nat) : State := match cmd with | some r => complete st r status res 0 | none => st
  match modelAt s h with
  | none => done s stNotFound 0
  | some m =>
    if m.ended then done s stNotFound 0
    else match verRefuse m n with
      | some st => done s st 0
      | none =>
        let load := (cmd.bind (inflAt s)).any fun c => decide (entryOp c.entry = 0x0501)
        let s1 := touchVer (modModel s h fun y => { y with cur := n }) (h, n)
        done (settleModel s1 h) stOk (if load then n * 2 ^ 32 + h else m.cur)

end Sys2Proof.Machine
end

