-- ==== Sys2Proof/Machine/Sample.lean ====
section
/-! DEFINITION. SAMPLE (R297). -/

namespace Sys2Proof.Machine

/-- Is TEMP in the range of Table 11.8: 0, or 0.01 to 100.0? -/
def tempOk (w : Nat) : Bool := decide (w % 2 ^ 31 = 0) || decide (0x3C23D70A ≤ w ∧ w ≤ 0x42C80000)

/-- Is TOPP in the range of Table 11.8: above 0, at most 1.0? -/
def toppOk (w : Nat) : Bool := decide (1 ≤ w ∧ w ≤ 0x3F800000)

/-- Weights of the elements against the first: the exponential of the scaled difference. -/
def sampleW (temp x0 x : Nat) : Nat :=
  let z := opDiv 0 (opSub .f32 0 x x0) temp
  opTrans Config.exp2 0 (opMul .f32 0 z 0x3FB8AA3B)

/-- An FP32 value as C40. -/
def toC40 (w : Nat) : Nat := fRound fmtC40 (fDecode fmtFp32 w)

/-- Running sums of weights, one combining step each (R67). -/
def sampleSums : Nat → List Nat → List Nat
  | _, [] => []
  | acc, w :: ws => let t := c40Add acc (toC40 w); t :: sampleSums t ws

/-- The first position of a list that satisfies a condition. -/
def firstAt (p : Nat → Bool) : List Nat → Nat → Option Nat
  | [], _ => none
  | x :: xs, i => if p x then some i else firstAt p xs (i + 1)

/-- The draw of SEED and POS: the top 32 bits of 8 bytes of SHAKE256. -/
def sampleDraw (seed pos : Nat) : Nat := leVal ((shake256 (leBytes 8 seed ++ leBytes 4 pos) 8).drop 4)

/-- The sampled token and its probability, from the elements that TOPK kept (R297). -/
def samplePick (seed pos temp topp : Nat) (es : List Elem) : Nat × Nat :=
  let x0 := (es.map (·.score)).headD 0
  if temp % 2 ^ 31 = 0 ∨ x0 % 2 ^ 31 = 0x7F800000 then ((es.map (·.id)).headD 0, 0x3F800000) else
  let ws := es.map fun e => sampleW temp x0 e.score
  let ps := sampleSums 0 ws
  let total := fDecode fmtC40 (ps.getLastD 0)
  let lim := fDecode fmtC40 (fRound fmtC40 (fMul (fDecode fmtFp32 topp) total))
  let m := ((firstAt (fun p => !fLt (fDecode fmtC40 p) lim) ps 0).getD (es.length - 1)) + 1
  let t := fDecode fmtC40 (fRound fmtC40 (fMul (fOfScaled (sampleDraw seed pos) (-32)) (fDecode fmtC40 (ps.getD (m - 1) 0))))
  let j := (firstAt (fun p => fLt t (fDecode fmtC40 p)) (ps.take m) 0).getD (m - 1)
  ((es.map (·.id)).getD j 0, fRound fmtFp32 (fDiv (fDecode fmtFp32 (ws.getD j 0)) total))

/-- Write lanes of VM: out, flags, prob, then zeros. -/
def sampleVm (v : Tab Word) (vm out flags prob : Nat) : Tab Word :=
  (List.range 64).foldl (fun w i =>
    vPut w vm i (BitVec.ofNat 32 (if i = 0 then out else if i = 1 then flags else if i = 2 then prob else 0))) v

/-- The registers after SAMPLE. -/
def vSample (v : Tab Word) (f : VopF) : Tab Word :=
  let l (i : Nat) : Nat := (vLane v f.vm i).toNat
  let topk := l 5
  if !tempOk (l 3) ∨ !toppOk (l 4) ∨ topk = 0 ∨ 512 < topk then sampleVm v f.vm 0xFFFFFFFF 2 0 else
  let o := netTopk .f32 false true (min topk (64 * f.grp)) (netElems v f)
  let v1 := netWrite v f o
  if o.count = 0 then sampleVm v1 f.vm 0xFFFFFFFF 1 0 else
  let q := samplePick (l 0 + 2 ^ 32 * l 1) (l 2) (l 3) (l 4) (o.elems.take o.count)
  sampleVm v1 f.vm q.1 0 q.2

def execVuSample (c slot : Nat) (s : State) : Res :=
  .next (vuIssue s c slot (selVop 0x48) fun _ _ sl b => vSample sl.ctx.vregs (vopF b))

end Sys2Proof.Machine
end

