-- ==== Sys2Proof/Machine/SeqAdmit.lean ====
section
/-! DEFINITION. Sequences enter: SEQ.SUBMIT, the admission unit, policies; SEQ.CANCEL, STATUS, POLICY, SERVE (R239 to R243,
R249, R254, R268 to R270, R275, R290, R291). -/

namespace Sys2Proof.Machine

/-! ### Text engines (R25, R276) -/

/-- Do two units work for one sequence or one command? -/
def sameUser (a b : TextUnit) : Bool := decide (unitSeq a = unitSeq b ∧ unitCmd a = unitCmd b)

/-- May a waiting unit be taken: it is the first of its sequence, and no engine has another of it? -/
def unitFirst (v : Serving) (u : TextUnit) : Bool :=
  !(v.engines.any fun e => sameUser e.2.2 u) && (match v.units.find? fun q => sameUser q.2 u with
    | some q => decide (q.2 = u)
    | none => false)

/-- Is a unit the packing of a sequence that a command holds at its step boundary (R273)? -/
def packHeld (v : Serving) (u : TextUnit) : Bool :=
  match u with
  | .pack i => match tabFind v.seqs i with | some x => x.xport.isSome | none => false
  | _ => false

/-- The waiting unit that is taken next: tenants round-robin, each tenant's in arrival order. -/
def nextUnit (v : Serving) : Option (Nat × TextUnit) :=
  let key (q : Nat × TextUnit) : Nat := (q.1 + 63 - v.lastTenant) % 64
  (v.units.filter fun q => unitFirst v q.2 && !packHeld v q.2).foldl (fun o q => match o with
    | none => some q
    | some b => if key q < key b then some q else some b) none

/-- Units go to idle engines, the lowest-numbered first. -/
def fillEngines : Nat → Serving → Serving
  | 0, v => v
  | n + 1, v =>
    match (List.range 8).find? fun e => !tabHas v.engines e, nextUnit v with
    | some e, some q => fillEngines n { v with engines := tabPut v.engines e q, units := v.units.erase q, lastTenant := q.1 }
    | _, _ => v

/-- Kinds of units (Table 11.1). -/
def isAdmission : TextUnit → Bool
  | .admission _ => true
  | _ => false
def isTokenise : TextUnit → Bool
  | .tokenise _ => true
  | _ => false
def isPack : TextUnit → Bool
  | .pack _ => true
  | _ => false
def isToken : TextUnit → Bool
  | .token _ => true
  | _ => false
def isDraft : TextUnit → Bool
  | .draft _ => true
  | _ => false

/-- An engine that has a unit of a kind, the next in the model's turn among them, so that one that waits for a page holds up no other. -/
def pickUnit (s : State) (p : TextUnit → Bool) : Option (State × Nat × (Nat × TextUnit)) :=
  let v := fillEngines 8 s.serving
  let key (e : Nat) : Nat := (e + 7 - v.lastEngine) % 8
  ((v.engines.filter fun e => p e.2.2).foldl (fun o e => match o with
    | none => some e
    | some b => if key e.1 < key b.1 then some e else some b) none).map fun e =>
      ({ s with serving := { v with lastEngine := e.1 } }, e.1, e.2)

/-- An engine has done a unit of a tenant. -/
def unitDone (s : State) (e : Nat) (q : Nat × TextUnit) : State :=
  let s1 := freeEngine (countEv s (srcText e) 0x0401 q.1) e
  match unitSeq q.2 with
  | some i => modSeq s1 i fun x => { x with eng := e }
  | none => s1

/-! ### Reads of a text engine, chained -/

/-- How the work of a unit stops short: it waits, or a fault ends it. -/
inductive UnitStop where
  | wait (s : State)
  | fault (s : State) (kind acc cause page : Nat)

/-- Read for a text engine. -/
def rdUnit (s : State) (t va n : Nat) : Except UnitStop (State × Bytes) :=
  if n = 0 then .ok (s, []) else
  match engRead s t walkHubControl va n with
  | .ok s1 bs => .ok (s1, bs)
  | .wait s1 => .error (.wait s1)
  | .fault s1 k c p => .error (.fault s1 k 0 c p)

/-! ### The gazetteer caches (R282) -/

/-- The line of an engine's cache with a tag, unless its tile is poisoned. -/
def gazLine (s : State) (e t va : Nat) (q : Nat × Nat) (k : Nat) : Option Bytes :=
  let psn := match leafAt s t (pageOf (va + 256 * k)) with | some l => l.psn | none => false
  if psn then none else
  ((tabGet s.serving.gaz e []).find? fun l => decide (l.tenant = t ∧ (l.handle, l.ver) = q ∧ l.line = k)).map (·.bytes)

/-- A line enters a cache of 64 sets of 16 ways; the oldest line of a full set gives way (log 25). -/
def gazPut (ls : List GazLine) (x : GazLine) : List GazLine :=
  let set (l : GazLine) : Bool := decide (l.line % 64 = x.line % 64)
  let mine := ls.filter set
  let old := if mine.length < 16 then ls else match mine with | l :: _ => ls.erase l | [] => ls
  old ++ [x]

/-- A version's gazetteer, its whole TEXT section (log 25): line by line from the engine's cache, and those that it does not hold from the
atlas. -/
def rdGaz (s : State) (e t : Nat) (h : Nat × Nat) (v : ModelVer) : Except UnitStop (State × Bytes) :=
  match v.text with
  | none => .ok (s, [])
  | some (va, n) =>
    let ks := List.range (ceilDiv n 256)
    let miss := ks.filter fun k => (gazLine s e t va h k).isNone
    let lenOf (k : Nat) : Nat := min 256 (n - 256 * k)
    let ps := distinctN (miss.flatMap fun k => bytePages (va + 256 * k) (lenOf k))
    match engReady s t walkHubControl .read ps with
    | .wait s1 => .error (.wait s1)
    | .fault k c p =>
      let s1 := if k = 0x04 then dropGaz s fun l => decide (l.tenant = t ∧ (l.handle, l.ver) = h) && decide (pageOf (va + 256 * l.line) = p) else s
      .error (.fault (countQuota (engForget s1 t [p]) walkHubControl t k) k 0 c p)
    | .ready =>
      let got (k : Nat) : Bytes := match gazLine s e t va h k with
        | some bs => bs
        | none => (pageParts (va + 256 * k) (lenOf k)).flatMap (engBytes s t)
      let new := miss.map fun k => ({ tenant := t, handle := h.1, ver := h.2, line := k, bytes := got k } : GazLine)
      let s1 := miss.foldl (fun st _ => countEv st (srcText e) 0x0402 t) (touchPages (engForget s t ps) t walkHubControl ps)
      let s2 := modServing s1 fun w => { w with gaz := if new = [] then w.gaz else tabPut w.gaz e (new.foldl gazPut (tabGet w.gaz e [])) }
      .ok (s2, ks.flatMap got)

/-- The constraint list, read in place (R290). -/
def rdCons (s : State) (t : Nat) (tcb : Bytes) : Except UnitStop (State × List Bytes) := do
  let (s1, bs) ← rdUnit s t (tcConva tcb) (136 * tcNcon tcb)
  return (s1, (List.range (tcNcon tcb)).map fun i => (bs.drop (136 * i)).take 136)

/-- Words of a template of the block's own table. -/
def rdTpl (s : State) (t : Nat) (ent : Bytes) : Except UnitStop (State × List Nat) := do
  let (s1, ws) ← rdUnit s t (fld ent 0 56 0) (4 * fieldAt ent 8 4)
  return (s1, (List.range (fieldAt ent 8 4)).map fun i => fieldAt ws (4 * i) 4)

/-! ### SEQ.SUBMIT (R242, Tables 10.3 and 10.4) -/

def submitChecks (fn : Nat) (b : Bytes) : List (Nat × Bool) :=
  let k := fieldAt b 8 1
  let vec := fld b 34 10 0
  [(8, decide (k = 0 ∨ 3 < k)), (9, decide (fld b 9 7 3 ≠ 0)), (10, decide (16 < fieldAt b 10 1)), (11, decide (fld b 11 7 1 ≠ 0)),
   (12, decide (fieldAt b 12 4 = 0 ∨ (k ≠ 1 ∧ 1048576 < fieldAt b 12 4))), (24, decide (fieldAt b 24 8 % 4096 ≠ 0)),
   (32, decide (fld b 32 7 5 ≠ 0 ∨ fld b 32 4 0 < 12 ∨ 24 < fld b 32 4 0)), (33, decide (fieldAt b 33 1 ≠ 0)),
   (34, decide (fld b 34 15 11 ≠ 0 ∨ (vec ≠ 0x7FF ∧ vecCount fn ≤ vec))), (36, decide (fieldAt b 36 4 = 0 ∨ 1048576 < fieldAt b 36 4)),
   (48, decide (fld b 48 63 57 ≠ 0 ∨ fld b 48 5 0 ≠ 0)), (56, decide (fld b 56 63 57 ≠ 0 ∨ fld b 56 5 0 ≠ 0)),
   (56, decide (k = 3 ∧ fld b 56 56 0 = 0 ∨ k ≠ 3 ∧ fld b 56 56 0 ≠ 0))]

/-- Fields of the ANSWER block. -/
def apK (a : Bytes) : Nat := fieldAt a 12 2
def apCand (a : Bytes) : Nat := fieldAt a 14 2
def apRrcand (a : Bytes) : Nat := fieldAt a 18 2
def apTemplate (a : Bytes) : Nat := fieldAt a 28 4

/-- Candidates the search returns. -/
def apWanted (a : Bytes) : Nat := if fieldAt a 8 4 = 0 then apK a else apRrcand a

/-- Is an ANSWER block well formed, apart from its template? -/
def answerOk (a : Bytes) (nquad : Nat) : Bool :=
  decide (1 ≤ apK a ∧ apK a ≤ 64) && decide (apWanted a ≤ apCand a ∧ apCand a ≤ 4096)
    && (if fieldAt a 8 4 = 0 then decide (apRrcand a = 0) else decide (apK a ≤ apRrcand a))
    && decide (1 ≤ fieldAt a 16 2 ∧ fieldAt a 16 2 ≤ 256 ∧ fieldAt a 16 2 ≤ nquad) && decide (fld a 32 63 57 = 0)
    && decide (1 ≤ fieldAt a 40 4 ∧ fieldAt a 40 4 ≤ 65536) && zeroBytes a 44 63

/-- A model that a sequence binds, in a role: the error is a status and, for BADPARAM, the block offset. -/
def bindRole (s : State) (t h n role off : Nat) : Except (Nat × Nat) (Nat × Nat) :=
  match bindVer s t h n with
  | .error st => .error (st, 0)
  | .ok q => match verAt s q with
    | some v => if v.serv.isSome ∧ svRole v = role then .ok q else .error (stBadParam, off)
    | none => .error (stNotFound, 0)

/-- The versions that a submission binds. -/
structure SeqBind where
  gen0 : Nat × Nat
  drafter : Option (Nat × Nat)
  encoder : Option (Nat × Nat)
  rerank : Option (Nat × Nat)

/-- Bind the models of a submission (R241, R242). -/
def bindSeq (s : State) (t : Nat) (b a : Bytes) : Except (Nat × Nat) SeqBind := do
  let g ← bindRole s t (fieldAt b 0 4) (fieldAt b 4 4) 1 0
  let draft := ((modelAt s g.1).map (·.serve.draft)).getD 0
  let d ← if fieldAt b 10 1 = 0 then .ok none
    else if draft = 0 then .error (stBadParam, 10)
    else (bindRole s t draft 0 4 10).map some
  if fieldAt b 8 1 ≠ 3 then return { gen0 := g, drafter := d, encoder := none, rerank := none }
  let e ← bindRole s t (fieldAt a 0 4) 0 2 56
  let r ← if fieldAt a 8 4 = 0 then .ok none else (bindRole s t (fieldAt a 8 4) 0 3 56).map some
  match openIx s t (fieldAt a 4 4) with
  | none => .error (stNotFound, 0)
  | some ix => if answerOk a ix.nquad then return { gen0 := g, drafter := d, encoder := some e, rerank := r } else .error (stBadParam, 56)

/-- Sequences that use a version. -/
def verSeqs (s : State) (q : Nat × Nat) : Nat := (s.serving.seqs.filter fun x => seqBinds x.2 q).length

/-- Have the module, the tenant and the versions room for one more sequence (R239)? -/
def seqRoom (s : State) (t : Nat) (k : SeqBind) : Bool :=
  let fits (q : Nat × Nat) : Bool := match verAt s q with | some v => decide (verSeqs s q < svSeqmax v) | none => false
  decide (s.serving.seqs.length < 16384 ∧ (s.serving.seqs.filter fun x => decide (x.2.tenant = t)).length < (polAt s t).seqlim)
    && fits k.gen0 && [k.drafter, k.encoder, k.rerank].all fun o => match o with | some q => fits q | none => true

/-- The lowest block-table page of a version that no sequence has (log 7). -/
def freeTable (s : State) (q : Nat × Nat) : Nat :=
  let used := s.serving.seqs.flatMap fun x => (if x.2.gen0 = q then [x.2.bt] else []) ++ if x.2.drafter = some q then [x.2.dbt] else []
  ((List.range 16384).find? fun n => !used.contains n).getD 0

/-- The lowest free sequence slot (log 7). -/
def freeSlot (s : State) : Option Nat := tabGap s.serving.seqs 0 16384

/-- A sequence in a slot. -/
def putSeq (s : State) (i : Nat) (x : Seq) : State := modServing s fun v => { v with seqs := tabPut v.seqs i x }

/-- Ask the host for a sequence's input (Table 13.1). -/
def askInput (s : State) (x : Inflight) : State :=
  if s.host.reads.contains (.cmd x.ref) then s else addReadP s (mboxPasid s x.ref.fn x.ref.mbox) (cmdTenant x) 6 (.cmd x.ref)

/-- End a refused submission. -/
def refuseSub (s : State) (r : CmdRef) (e : Nat × Nat) : State :=
  if e.1 = stBadParam then badBlock s r e.2 else complete s r e.1 0 0

/-- A submission whose block, ANSWER block and input have been read takes its slot and waits for its admission unit. -/
def enterSeq (s : State) (x : Inflight) (b a inp : Bytes) (k : SeqBind) : State :=
  let t := cmdTenant x
  if !seqRoom s t k then complete s x.ref stBusy 0 0 else
  match freeSlot s with
  | none => complete s x.ref stBusy 0 0
  | some i =>
    let y : Seq :=
      { gen := tabGet s.serving.gens i 1, tenant := t, fn := x.ref.fn, pasid := mboxPasid s x.ref.fn x.ref.mbox, blk := b, ablk := a, gen0 := k.gen0, drafter := k.drafter
        encoder := k.encoder, rerank := k.rerank, inp := inp, bt := freeTable s k.gen0
        dbt := match k.drafter with | some q => freeTable s q | none => 0
        st := if fieldAt b 8 1 = 3 then .retrieving else .queued, k := fieldAt b 10 1, submitt := x.at0, xport := some x.ref }
    let s1 := [some k.gen0, k.drafter, k.encoder, k.rerank].foldl (fun st o => match o with | some q => touchVer st q | none => st) s
    addUnit (putSeq (modInfl s1 x.ref fun z => { z with done := 1 }) i y) t (.admission i)

def execSeqSubmit (r : CmdRef) (s : State) : Res :=
  runBlock s r 0x0701 (fun _ b => submitChecks r.fn b) fun s1 x b =>
    let t := cmdTenant x
    if x.done ≠ 0 then s1 else
    let ap : Except State (State × Bytes) := if fieldAt b 8 1 = 3 then rdCmd s1 x (fld b 56 56 0) 64 else .ok (s1, [])
    match ap with
    | .error s2 => s2
    | .ok (s2, a) =>
      match bindSeq s2 t b a with
      | .error e => refuseSub s2 r e
      | .ok k =>
        let maxctx := ((verAt s2 k.gen0).map svMaxctx).getD 0
        if fieldAt b 8 1 = 1 ∧ maxctx ≤ fieldAt b 12 4 then badBlock s2 r 12 else
        match hostBuf x with
        | none => askInput s2 x
        | some inp => enterSeq s2 x b a inp k

/-! ### Policies at admission (R249, R268) -/

/-- Is the tenant's policy ADMIT? -/
def admits (s : State) (x : Seq) : Bool := (polAt s x.tenant).admitOn

/-- Blocks that a sequence reserves under ADMIT. -/
def resvOf (x : Seq) (len : Nat) : Nat := ceilDiv (len + sqMaxnew x + sqNdraft x) 64

/-- Blocks a sequence could take: free and cached ones that are not reserved (R249). -/
def roomFor (s : State) (q : Nat × Nat) (v : ModelVer) (hits : List Nat) : Nat :=
  (freeBlocks s q v).length + ((cachedBlocks s q v).filter fun b => !hits.contains b).length - reserved s q

/-- Hint of a block deferral: the shortfall over the blocks freed per µs in the last period (R268). -/
def blockHint (s : State) (q : Nat × Nat) (v : ModelVer) (short : Nat) : Nat :=
  let per := ((modelAt s q.1).map (·.serve.rebalus)).getD 0
  if v.sv.last.freed = 0 then 10000 else max 100 (short * per / v.sv.last.freed)

/-- Uncommitted prompt tokens of the QUEUED and PREFILL sequences of a version. -/
def queuedToks (s : State) (q : Nat × Nat) : Nat :=
  ((s.serving.seqs.filter fun x => decide (x.2.gen0 = q ∧ x.2.stage = .run ∧ (x.2.st = .queued ∨ x.2.st = .prefill))).map fun x =>
    x.2.toks.length - x.2.c).sum

/-- The hint of the time deferral of a prompt of `len` tokens, where the projection passes the goal; none without a prefill rate,
which leaves no projection (log 27). -/
def timeDefer (s : State) (q : Nat × Nat) (v : ModelVer) (x : Seq) (len : Nat) : Option Nat :=
  let sv := ((modelAt s q.1).map (·.serve)).getD {}
  let rate := v.sv.last.ptoks
  if rate = 0 then none else
  let eta := merNow s + (queuedToks s q + len) * sv.rebalus * usTicks / rate + sv.beat
  let goal := x.submitt + (polAt s x.tenant).ttftgoal * usTicks
  if goal < eta then some (max 100 ((eta - goal) / usTicks)) else none

/-- The hint with which a sequence whose prompt is known is deferred (R249, R268). -/
def lateDefer (s : State) (x : Seq) (toks : List Nat) : Option Nat :=
  if !admits s x then none else
  match verAt s x.gen0 with
  | none => none
  | some v =>
    let y := { x with toks := toks }
    let hits := if sqNocache x then [] else prefixRun y v (ceilDiv toks.length 64 - 1) 0 none
    let need := resvOf x toks.length - hits.length
    let room := roomFor s x.gen0 v hits
    if room < need then some (blockHint s x.gen0 v (need - room)) else timeDefer s x.gen0 v x toks.length

/-- The hint with which a submission is deferred because the batch is full (R268). -/
def batchDefer (s : State) (x : Seq) : Option Nat :=
  if !admits s x then none else
  match verAt s x.gen0 with
  | none => none
  | some v =>
    let n := (s.serving.seqs.filter fun y => decide (y.2.gen0 = x.gen0 ∧ y.2.st = .decode)).length
    if n < svDcbatch v then none
    else some (if v.sv.last.ended = 0 then 10000 else max 100 (v.sv.last.life / v.sv.last.ended / usTicks))

/-- A prompt is known: its blocks are reserved under ADMIT and the sequence is QUEUED for prefill; a prompt of MAXCTX tokens ends it,
and a deferral ends it DEFERRED (R249, R252, R266, R268). -/
def promptKnown (s : State) (i : Nat) (toks : List Nat) : State :=
  match seqAt s i with
  | none => s
  | some x =>
    let maxctx := ((verAt s x.gen0).map svMaxctx).getD 0
    if maxctx ≤ toks.length then endSeq (modSeq s i fun y => { y with plen := some toks.length }) i 5 stOk 0 else
    match lateDefer s x toks with
    | some h => endSeq (countEv s srcSeq 0x0505 x.tenant) i 7 stDeferred (min 0xFFFF (ceilDiv h 1000))
    | none =>
      enterQueued (modSeq s i fun y => { y with
        toks := toks, plen := some toks.length, resv := if admits s x then resvOf x toks.length else 0 }) i

/-! ### The admission unit (R290, R291, Table 11.8) -/

/-- Are the fields of a text control block in range? -/
def tcbOk (ntok : Nat) (t : Bytes) : Bool :=
  decide (fieldAt t 0 2 = 1 ∧ fld t 2 7 3 = 0) && decide (tcNeos t ≤ 4 ∧ tcNstop t ≤ 16) && decide (1 ≤ tcTopk t ∧ tcTopk t ≤ 512)
    && tempOk (tcTemp t) && toppOk (tcTopp t)
    && ((List.range 4).all fun i => let e := fieldAt t (24 + 4 * i) 4; if i < tcNeos t then decide (e < ntok) else decide (e = 0xFFFFFFFF))
    && decide (tcNcon t ≤ 4096 ∧ tcNtpl t ≤ 256 ∧ fieldAt t 44 4 = 0) && decide (fld t 48 63 57 = 0 ∧ fld t 56 63 57 = 0 ∧ fld t 64 63 57 = 0)
    && decide (tcConva t % 8 = 0)
    && ((List.range 16).all fun i => let n := tcStoplen t i; if i < tcNstop t then decide (1 ≤ n ∧ n ≤ 64) else decide (n = 0))
    && zeroBytes t 88 127

/-- Are the templates of the block's own table well formed? -/
def tplsOk (t ntok : Nat) : List Bytes → State → Except UnitStop (State × Bool)
  | [], s => .ok (s, true)
  | e :: es, s => do
    if fld e 0 63 57 ≠ 0 ∨ fieldAt e 12 4 ≠ 0 ∨ fieldAt e 8 4 = 0 ∨ 4096 < fieldAt e 8 4 then return (s, false)
    let (s1, ws) ← rdTpl s t e
    if tplOk ntok ws then tplsOk t ntok es s1 else return (s1, false)

/-- What an admission unit finds: the block and its stop strings, or the block offset it refuses. -/
def admission (s : State) (e : Nat) (x : Seq) (v : ModelVer) : Except UnitStop (State × Except Nat (Bytes × List Bytes)) := do
  let t := x.tenant
  let (s1, g) ← rdGaz s e t x.gen0 v
  let ntok := gzNtok g
  let (s2, tcb) ← if sqTcva x = 0 then .ok (s1, tcbDefault) else rdUnit s1 t (sqTcva x) 128
  if sqTcva x ≠ 0 ∧ !tcbOk ntok tcb then return (s2, .error 48)
  let (s3, sb) ← rdUnit s2 t (tcStopva tcb) (64 * tcNstop tcb)
  let stops := (List.range (tcNstop tcb)).map fun i => ((sb.drop (64 * i)).take (tcStoplen tcb i))
  if !stops.all utf8Valid then return (s3, .error 48)
  let (s4, cs) ← rdCons s3 t tcb
  if !cs.all (conOk ntok) then return (s4, .error 48)
  let (s5, tb) ← rdUnit s4 t (tcTplva tcb) (16 * tcNtpl tcb)
  let (s6, ok) ← tplsOk t ntok ((List.range (tcNtpl tcb)).map fun i => (tb.drop (16 * i)).take 16) s5
  if !ok then return (s6, .error 48)
  if sqKind x = 3 ∧ (if tcNtpl tcb = 0 then gzNtpl g else tcNtpl tcb) ≤ apTemplate x.ablk then return (s6, .error 56)
  if sqKind x = 1 ∧ !(u32List x.inp).all (fun w => decide (w < ntok)) then return (s6, .error 16)
  return (s6, .ok (tcb, stops))
where
  u32List (bs : Bytes) : List Nat := (List.range (bs.length / 4)).map fun i => fieldAt bs (4 * i) 4

/-- Input tokens of a GENERATE sequence. -/
def inputToks (x : Seq) : List Nat := (List.range (x.inp.length / 4)).map fun i => fieldAt x.inp (4 * i) 4

/-- A sequence that is not admitted is gone. -/
def dropAdmit (s : State) (i : Nat) : State :=
  match seqAt s i with
  | none => s
  | some x => settleModels (modServing s fun v => cutUnits (fun u => decide (unitSeq u = some i)) { v with
      seqs := tabDel v.seqs i, gens := tabPut v.gens i ((x.gen + 1) % 4096) })

/-- A checked sequence is admitted, or deferred (R268): its command completes. -/
def admitSeq (s : State) (i : Nat) (x : Seq) (tcb : Bytes) (stops : List Bytes) : State :=
  let r := x.xport.getD ⟨0, 0, 0⟩
  let toks := inputToks x
  let full := batchDefer s x
  match if full.isSome then full else if sqKind x = 1 then lateDefer s x toks else none with
  | some h => complete (dropAdmit (countEv s srcSeq 0x0505 x.tenant) i) r stDeferred (h * 2 ^ 32) 0
  | none =>
    let s1 := modServing (modSeq s i fun y => { y with
      ts := { tcb := tcb, stops := stops }, xport := none, order := s.serving.nextOrder, since := s.clk.ticks, lastStep := s.clk.ticks
      stage := .tokenise }) fun v => { v with nextOrder := v.nextOrder + 1 }
    let s2 := if sqKind x = 1 then promptKnown s1 i toks else addUnit (pendTab s1 i false) x.tenant (.tokenise i)
    complete s2 r stOk (seqIdOf i x) 0

def execAdmissionUnit (s : State) : Res :=
  match pickUnit s isAdmission with
  | some (s0, n, (t, .admission i)) =>
    .next (flushAreas (match seqAt s0 i with
    | none => freeEngine s0 n
    | some x =>
      match verAt s0 x.gen0 with
      | none => freeEngine s0 n
      | some v =>
        let gone (st : State) : State := unitDone st n (t, .admission i)
        match admission s0 n x v with
        | .error (.wait s1) => s1
        | .error (.fault s1 k a c p) =>
          let rec1 := atlasRecord (merNow s1) (srcText n) k 0xFF (seqIdOf i x) a p 0 0xFFFF 0 c
          completeFault (dropAdmit (gone s1) i) (x.xport.getD ⟨0, 0, 0⟩) (faultStatus k) 0 t rec1
        | .ok (s1, .error off) => badBlock (dropAdmit (gone s1) i) (x.xport.getD ⟨0, 0, 0⟩) off
        | .ok (s1, .ok (tcb, stops)) => admitSeq (gone s1) i x tcb stops))
  | _ => .next s

/-! ### SEQ.CANCEL (R269, R270) -/

/-- Is a job-core of a job halted? -/
def jobHalted (s : State) (j : Nat) : Bool :=
  match jobAt s j with
  | some job => job.jcores.any fun q => jcHalted s q.2
  | none => false

/-- Is a sequence HELD: in a step of a job that has a halted job-core (R271)? -/
def seqHeld (s : State) (i : Nat) (x : Seq) : Bool :=
  let id := seqIdOf i x
  ([some x.gen0, x.drafter, x.encoder, x.rerank].any fun o => match o.bind (verAt s) with
    | some v => v.sv.steps.any fun r => r.dealt && (r.ents.any fun e => decide (e.seq = id)) && jobHalted s r.job
    | none => false)

/-- Is a query of a sequence in a batch that runs? -/
def inBatch (s : State) (i : Nat) : Bool :=
  s.search.ixs.any fun q => q.2.batches.any fun b => b.2.queries.any fun z => match z.owner with | .seq j _ => decide (j = i) | _ => false

/-- A cancelled sequence ends now, whatever waits for its ring. -/
def cancelNow (s : State) (i : Nat) : State :=
  match seqAt s i with
  | none => s
  | some x => if x.ending.isSome then flushSeq (modSeq s i fun y => { y with ending := some (6, stCancelled, 0), outq := [] }) i
    else endSeq s i 6 stCancelled 0

/-- Forward a cancellation of a stub to the module that runs the sequence (R269). -/
def forwardCancel (s : State) (x : Seq) (now : Bool) : State :=
  match x.movedTo with
  | some (m, id) => sendSeq s (seqMsg x.tenant 4 m true (leBytes 4 mkCancel ++ leBytes 4 id ++ leBytes 4 (bit01 now)))
  | none => s

/-- Cancel a sequence with MODE NORMAL: at its next step boundary, or at once (R269). -/
def cancelNormal (s : State) (i : Nat) (y : Seq) : State :=
  if y.st = .moved then forwardCancel s y false
  else if (inAnyStep s i y && !seqHeld s i y) || inBatch s i then modSeq s i fun z => { z with cancelled := true }
  else cancelNow s i

/-- Cancel a sequence with MODE IMMEDIATE (R270). -/
def cancelImmediate (s : State) (i : Nat) (y : Seq) : State := if y.st = .moved then forwardCancel s y true else cancelNow s i

def execSeqCancelNormal (r : CmdRef) (s : State) : Res :=
  runCmdIf s r 0x0702 (fun e => !parFlg e 4 0) noChecks fun s1 x e =>
    match namedSeq s1 (cmdTenant x) (par e 0 4) with
    | .error st => complete s1 r st 0 0
    | .ok (i, y) => complete (cancelNormal s1 i y) r stOk 0 0

def execSeqCancelImmediate (r : CmdRef) (s : State) : Res :=
  runCmdIf s r 0x0702 (fun e => parFlg e 4 0) noChecks fun s1 x e =>
    if r.fn ≠ 0 then complete s1 r stNoPerm 0 0 else
    match namedSeq s1 (cmdTenant x) (par e 0 4) with
    | .error st => complete s1 r st 0 0
    | .ok (i, y) => complete (cancelImmediate s1 i y) r stOk 0 0

/-! ### SEQ.STATUS and SEQ.POLICY (R267, R268, R275) -/

/-- STATE code (Table 10.2). -/
def seqCode (s : State) (i : Nat) (x : Seq) : Nat :=
  if x.st ≠ .moved ∧ seqHeld s i x then 5 else
  match x.st with
  | .queued => 1 | .retrieving => 2 | .prefill => 3 | .decode => 4 | .moved => 6

def execSeqStatus (r : CmdRef) (s : State) : Res :=
  runCmd s r 0x0703 noChecks fun s1 x e =>
    let t := cmdTenant x
    if par e 0 4 = 0 then
      let p := polAt s1 t
      complete (modPol s1 t fun q => { q with ttftmiss := 0, tbtmiss := 0 }) r stOk (p.ttftmiss * 2 ^ 32 + p.tbtmiss) 0
    else match namedSeq s1 t (par e 0 4) with
      | .error st => complete s1 r st 0 0
      | .ok (i, y) => complete s1 r stOk (y.c * 2 ^ 32 + seqCode s1 i y * 2 ^ 24 + y.ngen % 2 ^ 24) 0

def policyChecks (e : Bytes) : List (Nat × Bool) :=
  let goal (off : Nat) : Bool := decide (par e off 4 = 0 ∨ 10000000 < par e off 4)
  [(20, goal 4), (24, goal 8), (28, decide (16384 < parFld e 12 14 0))]

def execSeqPolicy (r : CmdRef) (s : State) : Res :=
  runCmd s r 0x0708 (fun _ e => policyChecks e) fun s1 _ e =>
    complete (modPol s1 (parFld e 0 5 0) fun p => { p with
      admitOn := parFlg e 1 0, ttftgoal := par e 4 4, tbtgoal := par e 8 4, seqlim := parFld e 12 14 0 }) r stOk 0 0

/-! ### SEQ.SERVE (R254, R256, R275, Table 10.11) -/

def serveChecks (b : Bytes) : List (Nat × Bool) :=
  let beat := fieldAt b 16 4
  let reb := fieldAt b 24 4
  [(16, decide (beat ≠ 0 ∧ (beat < 40000 ∨ 4000000000 < beat))), (23, decide (fld b 23 7 1 ≠ 0)),
   (24, decide (reb ≠ 0 ∧ (reb < 100 ∨ 1000000 < reb))), (52, !zeroBytes b 52 63)]

/-- The set a block describes. -/
def serveSet (b : Bytes) : ServeSet :=
  { served := true, draft := fieldAt b 4 4, origin := fieldAt b 8 8, beat := fieldAt b 16 4, pfmin := fieldAt b 20 1, dcmin := fieldAt b 21 1
    pfinit := fieldAt b 22 1, missexp := flg b 23 0, rebalus := fieldAt b 24 4, dispdl := fieldAt b 28 4, exwait := fieldAt b 32 4
    kvcold := fieldAt b 36 4 }

/-- The first beat at or after meridian m (R256). -/
def nextBeatOf (m : Nat) (v : ServeSet) : Nat := if v.beat = 0 then 0 else ceilDiv (m - v.origin) v.beat

/-- Commit a set (R256). -/
def commitServe (s : State) (h : Nat) (b : Bytes) : State :=
  let v := serveSet b
  modModel s h fun m => { m with serve := v, vers := m.vers.map fun q =>
    (q.1, { q.2 with sv := { q.2.sv with nextBeat := nextBeatOf (merAt s (decodeCore s m.tenant q.2)) v } }) }

/-- Pool sizes of a version: cores of the prefill and the decode pool. -/
def poolSizes (s : State) (q : Nat × Nat) : Nat × Nat :=
  match verAt s q, modelAt s q.1 with
  | some v, some m =>
    let size (ds : List Nat) : Nat := let k := shareMask s m.tenant v ds; popc 96 k.toNat
    if hasPools v then (size v.sv.pf, size v.sv.dc) else let n := popc 96 (poolCores s m.tenant v).toNat; (n, n)
  | _, _ => (0, 0)

/-- Does a set ask for die shares that the version's pools do not have? -/
def sharesBad (s : State) (t : Nat) (v : ModelVer) (b : Bytes) : Bool :=
  let n := (sharesUp s t v).length
  let w := serveSet b
  decide (n < w.pfmin + w.dcmin ∨ w.pfinit < w.pfmin ∨ n - w.dcmin < w.pfinit)

/-- The gazetteer header of a version, as the engines hold it. -/
def gazNow (s : State) (t : Nat) (v : ModelVer) : Bytes :=
  match v.text with
  | some (va, _) => (pageParts va 256).flatMap (engBytes s t)
  | none => []

/-- The field for which a set cannot be committed as things stand (R275, Table 10.11). -/
def serveBad (s : State) (t : Nat) (b : Bytes) : Option Nat :=
  match bindRole s t (fieldAt b 0 4) 0 1 0 with
  | .error _ => some 0
  | .ok q =>
    match verAt s q with
    | none => some 0
    | some v =>
      let draftBad : Bool := match bindRole s t (fieldAt b 4 4) 0 4 4 with
        | .error _ => true
        | .ok d => match verAt s d with
          | some w => gzDiffer (gazNow s t v) (gazNow s t w)
          | none => true
      if fieldAt b 4 4 ≠ 0 ∧ draftBad then some 4 else if sharesBad s t v b then some 20 else none

/-- Commit and answer; a set that no longer fits is refused, and the one before stays in force (R275). -/
def finishServe (s : State) (x : Inflight) (b : Bytes) : State :=
  match serveBad s (cmdTenant x) b with
  | some o => badBlock s x.ref o
  | none =>
  let h := fieldAt b 0 4
  let s1 := commitServe s h b
  let n := poolSizes s1 (h, ((modelAt s1 h).map (·.cur)).getD 0)
  endBlock s1 x.ref stOk (leBytes 2 n.1 ++ leBytes 2 n.2)

/-- The header of a version's gazetteer, read for a command. -/
def gazHead (s : State) (x : Inflight) (v : ModelVer) : Except State (State × Bytes) :=
  match v.text with
  | some (va, _) => rdCmd s x va 256
  | none => .ok (s, [])

/-- Does the drafter suit the generator?  The error is the state in which the command waits or has ended. -/
def draftChecks (s : State) (x : Inflight) (v : ModelVer) (b : Bytes) : Except State State := do
  if fieldAt b 4 4 = 0 then return s
  match bindVer s (cmdTenant x) (fieldAt b 4 4) 0 with
  | .error st => throw (complete s x.ref st 0 0)
  | .ok q =>
    match verAt s q with
    | none => throw (complete s x.ref stNotFound 0 0)
    | some d =>
      if !d.serv.isSome ∨ svRole d ≠ 4 then throw (badBlock s x.ref 4)
      let (s1, g) ← gazHead s x v
      let (s2, gd) ← gazHead s1 x d
      if gzDiffer g gd then throw (badBlock s2 x.ref 4) else return s2

def execSeqServe (r : CmdRef) (s : State) : Res :=
  runBlock s r 0x0707 (fun _ b => serveChecks b) fun s1 x b =>
    match endWaiting x with
    | some (st, res) => blockDone s1 x st 0 0 res
    | none =>
      if schedWaits s1 r then s1 else
      let h := fieldAt b 0 4
      let epoch := fieldAt b 40 8
      match bindRole s1 (cmdTenant x) h 0 1 0 with
      | .error e => refuseSub s1 r e
      | .ok q =>
        match verAt s1 q with
        | none => complete s1 r stNotFound 0 0
        | some v =>
          match draftChecks s1 x v b with
          | .error s2 => s2
          | .ok s2 =>
            if sharesBad s2 (cmdTenant x) v b then badBlock s2 r 20
            else if epoch = 0 then whenBlock s2 x fun s3 => finishServe s3 x b else schedCmd s2 r epoch (.serve (cmdTenant x) b)

end Sys2Proof.Machine
end

