-- ==== Sys2Proof/Machine/PowerOps.lean ====
section
/-! DEFINITION. The effective cap, clamps, power plans and publications to the energy shelf (chapter 19). -/

namespace Sys2Proof.Machine

/-- Change the power state. -/
def modPower (s : State) (f : Power → Power) : State := { s with power := f s.power }

/-- The management controller posts its records with source 0x0600 and SUBUNIT 0x04 (Table 19.4). -/
def mgmtEvent (s : State) (code a0 a1 : Nat) : State := postEvent s srcCp code 4 0xFF a0 a1 0

/-! ### The effective cap (R462) -/

/-- Cap of a thermal stage (Table 19.2).  DEDUCED for stage 4, for which the table lists no cap: that of stage 3. -/
def stageCap : Nat → Option Nat
  | 0 => none
  | 1 => some 2200
  | 2 => some 1600
  | _ => some 1000

/-- The clamps in force on CAP: by the inlet, and by the stage. -/
def inletClamp (p : Power) : Bool := decide (300 < p.inlet ∧ 2800 < p.cap)
def stageClamp (p : Power) : Option Nat := match stageCap p.stage with
  | some c => if c < p.cap then some c else none
  | none => none

/-- The effective cap, W. -/
def effCap (p : Power) : Nat :=
  let a := if 300 < p.inlet then min p.cap 2800 else p.cap
  match stageCap p.stage with
  | some c => min a c
  | none => a

/-- Each clamp applied or released posts a CAP_CLAMP record. -/
def clampNote (before s : State) : State :=
  let s1 := if inletClamp before.power = inletClamp s.power then s else mgmtEvent s 0x0503 (effCap s.power) 0
  if stageClamp before.power = stageClamp s1.power then s1 else mgmtEvent s1 0x0503 (effCap s1.power) 0

/-- Arithmetic clock of a thermal stage, in eightieths of a cycle per tick: 1.8, 1.35, 0.9 GHz (R20, Table 19.2). -/
def stageRate : Nat → Nat
  | 0 => 36
  | 1 => 36
  | 2 => 27
  | _ => 18

/-! ### Publications (R468, Table 19.1) -/

/-- A power-step record. -/
def stepRecord (t pstart pend rate : Nat) (unplanned : Bool) : Bytes :=
  leBytes 8 t ++ leBytes 2 (min 65535 pstart) ++ leBytes 2 (min 65535 pend) ++ leBytes 2 rate ++ leBytes 2 (bit01 unplanned)

/-- A publication waits for the bus, while PUBEN is 1. -/
def addPub (s : State) (t : Nat) (bytes : Bytes) : State :=
  if s.power.puben then modPower s fun p => { p with pubs := p.pubs ++ [{ bytes := bytes, t := t, due := s.clk.ticks }] } else s

/-- An unplanned step to a level that is known. -/
def publishStep (s : State) (t pstart pend rate : Nat) : State := addPub s t (stepRecord t pstart pend rate true)

/-- An unplanned step that begins and, not limited by RAMP, ends now: from Pmeas to a level that the spec does not state
(log 29). -/
def publishDrop (s : State) : State :=
  freeTick (publishStep s (merNow s) s.power.pmeas ((freeNow s).toNat % 65536) 0xFFFF)

/-- A cap change is published: a ramp at RAMP from the effective cap before it (log 29). -/
def publishCap (before s : State) : State :=
  let a := effCap before.power
  let b := effCap s.power
  if a = b then s else
  publishStep s (merNow s + ceilDiv ((a - b + (b - a)) * msTicks) s.power.ramp) a b s.power.ramp

/-! ### Plans (R467) -/

/-- Ticks of a ramp between two levels. -/
def rampTicks (ramp a b : Nat) : Nat := if ramp = 0 then 0 else (a - b + (b - a)) * msTicks / ramp

/-- Insert an entry in T order. -/
def planInsert (e : PlanEnt) : List PlanEnt → List PlanEnt
  | [] => [e]
  | x :: xs => if x.t ≤ e.t then x :: planInsert e xs else e :: x :: xs

/-- The plan with the starting levels of its entries that have not begun, as the entries before them give. -/
def planLevels (p : Power) (now : Nat) : List PlanEnt → Nat → List PlanEnt
  | [], _ => []
  | e :: es, l =>
    let begun := decide (e.t - rampTicks p.ramp e.start e.pt ≤ now)
    let e1 := if begun then e else { e with start := l }
    e1 :: planLevels p now es e.pt

/-- Meridian at which an entry's ramp begins. -/
def rampStart (p : Power) (e : PlanEnt) : Nat := e.t - rampTicks p.ramp e.start e.pt

/-- Value of an entry's ramp at a meridian, W: linear, then PT. -/
def rampValue (p : Power) (e : PlanEnt) (m : Nat) : Nat :=
  let d := rampTicks p.ramp e.start e.pt
  if e.t ≤ m ∨ d = 0 then e.pt
  else
    let done := m - rampStart p e
    if e.start ≤ e.pt then e.start + (e.pt - e.start) * done / d else e.start - (e.start - e.pt) * done / d

/-- The entry whose ramp has begun last. -/
def rampNow (p : Power) (m : Nat) : Option PlanEnt := (p.plan.filter fun e => decide (rampStart p e ≤ m)).getLast?

/-- plan_ceiling (R463, R467). -/
def planCeiling (p : Power) (m : Nat) : Nat :=
  match rampNow p m with
  | some e => rampValue p e m
  | none => p.planLevel.getD (effCap p)

/-- The floor of a descending ramp, with DOWNRAMP = 1 (R467). -/
def planFloor (p : Power) (m : Nat) : Option Nat :=
  match rampNow p m with
  | some e => if e.pt < e.start ∧ m < e.t then some (rampValue p e m) else none
  | none => none

/-- Entries that have ended leave the plan, and the last one's level stands; one whose PT exceeds the effective cap at its T
is applied at the cap, with a CAP_CLAMP record. -/
def planEnd (s : State) (m : Nat) : State :=
  (s.power.plan.filter fun e => decide (e.t ≤ m)).foldl (fun st e =>
    let cap := effCap st.power
    let st1 := modPower st fun p => { p with plan := p.plan.filter fun x => decide (x ≠ e), planLevel := some (min e.pt cap) }
    if cap < e.pt then mgmtEvent st1 0x0503 cap 0 else st1) s

/-- The thermal stage gives the arithmetic clock a rate, which each core takes at its next command boundary (R20). -/
def setStageRate (s : State) (k : Nat) : State :=
  (List.range 96).foldl takeRate { s with clk := { s.clk with rate := stageRate k } }

end Sys2Proof.Machine
end

