-- ==== Sys2Proof/Machine/StepOps.lean ====
section
/-! DEFINITION. Steps: order of selection, step blocks, handing a step to its job (R244 to R248, R268, R294, Tables 10.6 and 11.10). -/

namespace Sys2Proof.Machine

/-! ### Kinds of step -/

/-- KIND code (Table 10.6). -/
def kindCode : StepKind → Nat
  | .prefill => 1 | .decode => 2 | .verify => 3 | .draft => 4 | .encode => 5 | .rerank => 6 | .expert => 7

/-- Index of the legend job that runs a kind (Table 10.1). -/
def kindJob (v : ModelVer) : StepKind → Nat
  | .prefill | .encode | .rerank => svN v 5 1
  | .decode | .verify | .draft => svN v 6 1
  | .expert => svN v 7 1

/-- Plot table entry of a kind: PTAB, NPLOT, TARGET (R235). -/
def kindPlots (v : ModelVer) (k : StepKind) : Nat × Nat × Nat :=
  let e := plotTabEnt v.plots (kindCode k)
  (fld e 0 56 0, fieldAt e 8 2, fieldAt e 10 1)

/-- Does a version run a kind? -/
def runsKind (v : ModelVer) (k : StepKind) : Bool := decide ((kindPlots v k).2.1 ≠ 0)

/-- The dealt step of a kind. -/
def stepOf (v : ModelVer) (k : StepKind) : Option StepRun := v.sv.steps.find? fun r => r.dealt && decide (r.kind = k)

/-- Replace a version's steps. -/
def modSteps (s : State) (q : Nat × Nat) (f : List StepRun → List StepRun) : State := modSv s q fun v => { v with steps := f v.steps }

/-! ### Order of selection (R268) -/

/-- A sequence's deadline: TTFT until its first commit, TBT after it (R267). -/
def seqDeadline (s : State) (x : Seq) : Nat :=
  let p := polAt s x.tenant
  match x.commits with
  | some c => c.2 + p.tbtgoal * usTicks
  | none => x.submitt + p.ttftgoal * usTicks

/-- Order key: PRIO, deadline, SEQID. -/
def seqKey (s : State) (q : Nat × Seq) : List Nat := [sqPrio q.2, seqDeadline s q.2, seqIdOf q.1 q.2]

/-- Insert into the order. -/
def seqInsert (s : State) (a : Nat × Seq) : List (Nat × Seq) → List (Nat × Seq)
  | [] => [a]
  | b :: bs => if keyLt (seqKey s a) (seqKey s b) then a :: b :: bs else b :: seqInsert s a bs

/-- Sequences that satisfy a condition, in the order of the latency policy. -/
def selectSeqs (s : State) (p : Nat → Seq → Bool) : List (Nat × Seq) :=
  (s.serving.seqs.filter fun q => p q.1 q.2).foldr (seqInsert s) []

/-- May a sequence enter a step: it has not ended, nothing stops it at this boundary, its ring has room (R257, R265, R269, R273)? -/
def seqFree (s : State) (i : Nat) (x : Seq) : Bool :=
  x.ending.isNone && x.xport.isNone && !x.cancelled && decide (x.outq = []) && decide (x.emit = []) && !x.emptyNext
    && !inAnyStep s i x && decide (x.st ≠ .moved)

/-! ### Poisoned KV tiles (R271) -/

/-- Poisoned blocks of a list. -/
def psnBlocks (s : State) (t : Nat) (q : Nat × Nat) (bs : List Nat) : List Nat :=
  match verAt s q with
  | some v => bs.filter (kvPoisoned s t v)
  | none => []

/-- End a sequence that refers to a poisoned tile; the poisoned blocks leave the prefix index. -/
def endPoisoned (s : State) (q : Nat × Seq) : State :=
  let a := psnBlocks s q.2.tenant q.2.gen0 q.2.btab
  let b : List Nat := match q.2.drafter with | some d => psnBlocks s q.2.tenant d q.2.dtab | none => []
  if a = [] ∧ b = [] then s else
  let s1 := a.foldl (fun st k => unpublish st q.2.gen0 k) s
  let s2 := match q.2.drafter with | some d => b.foldl (fun st k => unpublish st d k) s1 | none => s1
  endSeq s2 q.1 8 stPoison 0

/-- End every poisoned sequence among candidates. -/
def endAllPoisoned (s : State) (xs : List (Nat × Seq)) : State := xs.foldl endPoisoned s

/-! ### Planned entries and their step block -/

/-- The parameters of a control record: SEED, POS, TEMP, TOPP, TOPK, constraint set. -/
structure CtlPlan where
  seed : Nat
  pos : Nat
  temp : Nat
  topp : Nat
  topk : Nat
  set : ConSet

/-- An entry planned: SEQ, POS, tokens, outputs, block-table page, control records. -/
structure EntPlan where
  seq : Nat
  pos : Nat
  toks : List Nat := []
  ntok : Nat
  nout : Nat := 0
  btab : Nat := 0
  ctls : List CtlPlan := []

/-- Bytes to the next 64-byte boundary. -/
def align64 (n : Nat) : Nat := ceilDiv n 64 * 64

/-- Entries with TOKOFF and OUTOFF assigned. -/
def placeEnts : List EntPlan → Nat → Nat → List (EntPlan × Nat × Nat)
  | [], _, _ => []
  | e :: es, t, o => (e, t, o) :: placeEnts es (t + e.toks.length) (o + e.nout)

/-- Bytes of one output record of a kind. -/
def recSize (v : ModelVer) : StepKind → Nat
  | .encode => 4 * svOutdim v
  | .rerank => 4
  | _ => 8

/-- Offsets in the step block: tokens, outputs, control records, list area. -/
structure BlockMap where
  tok : Nat
  out : Nat
  ctl : Nat
  list : Nat
  size : Nat

def blockMap (v : ModelVer) (k : StepKind) (es : List EntPlan) : BlockMap :=
  let tok := align64 (64 + 32 * es.length)
  let out := align64 (tok + 4 * (es.map fun e => e.toks.length).sum)
  let ctl := align64 (out + recSize v k * (es.map (·.nout)).sum)
  let cs := es.flatMap (·.ctls)
  let list := align64 (ctl + 32 * cs.length)
  ⟨tok, out, ctl, list, list + 4 * (cs.map fun c => (conList c.set).length).sum⟩

/-- Control records and the list area. -/
def ctlBytes : List CtlPlan → Nat → Bytes × Bytes
  | [], _ => ([], [])
  | c :: cs, off =>
    let r := ctlBytes cs (off + (conList c.set).length)
    (ctlRecord c.seed c.pos c.temp c.topp c.topk c.set off ++ r.1, tokBytes (conList c.set) ++ r.2)

/-- Zero bytes up to a length. -/
def zeroTo (n : Nat) (bs : Bytes) : Bytes := bs ++ List.replicate (n - bs.length) 0

/-- The writes of a step block at an address: header, entries and tokens; then control records and lists. -/
def blockWrites (v : ModelVer) (k : StepKind) (num start base : Nat) (es : List EntPlan) : List (Nat × Bytes) :=
  let m := blockMap v k es
  let toks := es.flatMap (·.toks)
  let head := leBytes 1 (kindCode k) ++ leBytes 1 0 ++ leBytes 2 es.length ++ leBytes 4 ((es.map (·.ntok)).sum) ++ leBytes 8 num ++ leBytes 8 start
    ++ leBytes 8 (base + m.tok) ++ leBytes 8 (base + m.out) ++ leBytes 8 0 ++ leBytes 8 0 ++ leBytes 8 0
  let ent (q : EntPlan × Nat × Nat) : Bytes :=
    leBytes 4 q.1.seq ++ leBytes 4 q.1.pos ++ leBytes 4 q.1.ntok ++ leBytes 4 q.2.1 ++ leBytes 4 q.1.nout ++ leBytes 4 q.2.2 ++ leBytes 4 q.1.btab
      ++ leBytes 4 q.2.2
  let top := zeroTo m.tok (head ++ (placeEnts es 0 0).flatMap ent) ++ tokBytes toks
  let c := ctlBytes (es.flatMap (·.ctls)) 0
  (base, top) :: if c.1 = [] then [] else [(base + m.ctl, zeroTo (m.list - m.ctl) c.1 ++ c.2)]

/-- Entries that fit the slot with what precedes them, the others waiting. -/
def fitEnts (v : ModelVer) (k : StepKind) : List EntPlan → List EntPlan → List EntPlan
  | kept, [] => kept
  | kept, e :: es => if (blockMap v k (kept ++ [e])).size ≤ 1048576 then fitEnts v k (kept ++ [e]) es else kept

/-! ### Handing a step to its job (R238, R244) -/

/-- A fault of the sequencer's own access keeps a step from being dealt: its sequences end FAULT, each with a record (R271); requests
for an expert are dropped, and their origins' deadlines pass (R261). -/
def stepFault (s : State) (q : Nat × Nat) (k : StepKind) (es : List EntPlan) (reqs : List ExpReq) (kind acc cause page : Nat) : State :=
  if k = .expert then modSv s q fun sv => { sv with gathered := reqs.foldl (fun l r => l.erase r) sv.gathered }
  else (distinctN (es.map (·.seq))).foldl (fun st id => match seqOfId st id with
    | some x => seqFault st x.1 srcSeq kind acc cause page
    | none => st) s

/-- The job of a kind: the live one, or a new one made from its descriptor (R238).  The error is the state to go on with. -/
def stepJob (s : State) (t : Nat) (q : Nat × Nat) (v : ModelVer) (k : StepKind) (flt : State → Nat → Nat → Nat → Nat → State) :
    Except State (State × Nat) :=
  let i := kindJob v k
  let j := v.jobs.getD i 0
  match jobAt s j with
  | some job => if job.ending.isSome then .error s else .ok (s, j)
  | none =>
    let d := v.descs.getD i []
    match seqRead s t (fld d 16 56 0) (16 * fld d 8 5 0) with
    | .wait s1 => .error s1
    | .fault s1 kd c p => .error (flt s1 kd 0 c p)
    | .ok s1 rt =>
      match makeJob s1 (descJob t d rt) with
      | none => .error s1
      | some (s2, j1) => .ok (placement (applyPools (modVer s2 q fun y => { y with jobs := y.jobs.set i j1 }) q), j1)

/-- Make every write of a list ready, then write; what a fault leads to is given. -/
def seqWrites (s : State) (t : Nat) (flt : State → Nat → Nat → Nat → Nat → State) (ws : List (Nat × Bytes)) : Except State State :=
  let ps := distinctN (ws.flatMap fun w => bytePages w.1 w.2.length)
  match engReady s t walkHubControl .write ps with
  | .wait s1 => .error s1
  | .fault k c p => .error (flt (countQuota s walkHubControl t k) k 1 c p)
  | .ready => .ok (touchPages (ws.foldl (fun st w => hubWrite st t w.1 w.2) s) t walkHubControl ps)

/-- The lowest slot of the step area that no dealt step has (log 7). -/
def stepSlot (v : ModelVer) : Nat :=
  ((List.range 4).find? fun i => !(v.sv.steps.any fun r => r.dealt && decide (r.slot = i))).getD 0

/-- Address of a slot of the step area. -/
def slotVa (v : ModelVer) (i : Nat) : Nat := wsVa v (svN v 48 4 + 1 + 16 * i)

/-- The entries of a step as they are kept. -/
def keptEnts (es : List EntPlan) : List StepEnt :=
  (placeEnts es 0 0).map fun q => { seq := q.1.seq, pos := q.1.pos, ntok := q.1.ntok, nout := q.1.nout, outoff := q.2.2 }

/-- Write a step's block, its pointer and block tables, and hand its plots to its job (R244).  The error is the state to go on with
while the step waits for a page, for its job or for a sound plot table. -/
def dealStep (s : State) (t : Nat) (q : Nat × Nat) (k : StepKind) (num : Nat) (beat : Option Nat) (es : List EntPlan)
    (tabs : List (Nat × List Nat)) (reqs : List ExpReq) (extra : List (Nat × Bytes)) : Except State State := do
  match verAt s q with
  | none => throw s
  | some v =>
    let flt (st : State) (kd a c p : Nat) : State := stepFault st q k es reqs kd a c p
    let (s1, j) ← stepJob s t q v k flt
    let p := kindPlots v k
    match engReadAs s1 t walkHubControl .fetch p.1 (32 * p.2.1) with
    | .wait s2 => throw s2
    | .fault s2 kd c p => throw (flt s2 kd 2 c p)
    | .ok s2 pt =>
      let ds := (List.range p.2.1).map fun i => plotEntry pt i
      if ds.any plotBad then throw s2
      let slot := stepSlot v
      let base := slotVa v slot
      let ptr := (wsVa v (svN v 48 4) + 8 * kindCode k, leBytes 8 base)
      let bts := tabs.map fun b => (wsVa v (svN v 52 4 + b.1), tableBytes v b.2)
      let s3 ← seqWrites s2 t flt (blockWrites v k num (merNow s2) base es ++ [ptr] ++ bts ++ extra)
      match jobAt s3 j with
      | none => throw s3
      | some job =>
        let b := s3.jobs.nextBatch
        let run : StepRun := { kind := k, slot := slot, num := num, start := merNow s2, beat := beat, ents := keptEnts es, job := j, batch := b
                               outva := base + (blockMap v k es).out, reqs := reqs }
        return handPlots (modSteps (countEv s3 srcSeq 0x0501 t) q fun rs => rs ++ [run]) j job (if p.2.2 = 0xFF then none else some p.2.2) none
          (ds.map plotOf)

/-! ### Control records (R293, R294) -/

/-- What a sequence's constraint sets need: token count of its gazetteer and its constraint list. -/
def seqCons (s : State) (x : Seq) : Except UnitStop (State × Nat × List Bytes) := do
  let g ← match (verAt s x.gen0).bind (·.text) with
    | some (va, _) => rdUnit s x.tenant va 64
    | none => .ok (s, [])
  let (s2, cs) ← rdCons g.1 x.tenant x.ts.tcb
  return (s2, gzNtok g.2, cs)

/-- The control plan of a sequence's position after generated tokens h. -/
def ctlOf (x : Seq) (ntok : Nat) (cs : List Bytes) (draft : Bool) (pos : Nat) (h : List Nat) : CtlPlan :=
  let c := x.ts.tcb
  ⟨sqSeed x, pos, if draft then 0 else tcTemp c, tcTopp c, tcTopk c, conSet ntok cs h⟩

/-- The outcome of planning a sequence's entry. -/
inductive Plan where
  | ent (s : State) (e : EntPlan)
  | skip (s : State)
  | wait (s : State)

/-- Read what the control records need and plan with it; a fault ends the sequence (R271, R276). -/
def withCons (s : State) (i : Nat) (x : Seq) (k : State → Nat → List Bytes → EntPlan) : Plan :=
  match seqCons s x with
  | .ok (s1, n, cs) => .ent s1 (k s1 n cs)
  | .error (.wait s1) => .wait s1
  | .error (.fault s1 kd a c p) => .skip (seqFault s1 i (srcText x.eng) kd a c p)

end Sys2Proof.Machine
end

