-- ==== Sys2Proof/Machine/Steps.lean ====
section
/-! DEFINITION. Steps are formed: prefill, encode, re-rank, decode beats, drafting, verification (R243, R247 to R249, R253, R257,
R262, R264). -/

namespace Sys2Proof.Machine

/-- Sequences picked for a step so far. -/
structure Pick where
  st : State
  ents : List EntPlan := []
  tabs : List (Nat × List Nat) := []
  slots : List Nat := []
  used : Nat := 0
  wait : Bool := false
  full : Bool := false

/-- Pages whose block table a sequence has in a version's workspace. -/
def btPage (v : ModelVer) (bt : Nat) : Nat := svN v 52 4 + bt

/-- Add a planned entry unless the slot of the step area is full. -/
def pickAdd (v : ModelVer) (k : StepKind) (p : Pick) (i : Nat) (plan : Plan) : Pick :=
  match plan with
  | .wait s => { p with st := s, wait := true }
  | .skip s => { p with st := s }
  | .ent s e =>
    if 1048576 < (blockMap v k (p.ents ++ [e])).size then { p with st := s, full := true } else
    { p with st := s, ents := p.ents ++ [e], slots := p.slots ++ [i], used := p.used + e.toks.length }

/-- Add a sequence's block table to those that are written. -/
def pickTab (v : ModelVer) (draft : Bool) (p : Pick) (i : Nat) : Pick :=
  match seqAt p.st i with
  | none => p
  | some x =>
    let bs := if draft then x.dtab else x.btab
    { p with st := kvWillneed p.st x.tenant v bs, tabs := p.tabs ++ [((if draft then x.dbt else x.bt), bs)] }

/-- Take a step number; a prefill step is noted for the period (R254). -/
def takeStepNum (s : State) (q : Nat × Nat) (k : StepKind) : State :=
  modSv s q fun sv => { sv with nextStep := sv.nextStep + 1, per := { sv.per with pran := sv.per.pran || decide (k = .prefill) } }

/-- Deal what has been picked under the version's next step number, and mark its sequences. -/
def dealPick (p : Pick) (t : Nat) (q : Nat × Nat) (k : StepKind) (mark : Seq → Seq) : State :=
  if p.wait ∨ p.ents = [] then p.st else
  match dealStep p.st t q k (((verAt p.st q).map (·.sv.nextStep)).getD 0) none p.ents p.tabs [] [] with
  | .error s1 => s1
  | .ok s1 => p.slots.foldl (fun st i => modSeq st i fun x => mark { x with lastStep := s1.clk.ticks, coldDone := false }) (takeStepNum s1 q k)

/-- A version in service that may form a step of a kind now: no step of the kind runs. -/
def formable (s : State) (q : Nat × Nat) (k : StepKind) : Option (Model × ModelVer) :=
  match modelAt s q.1, verAt s q with
  | some m, some v => if v.serv.isSome && runsKind v k && (stepOf v k).isNone then some (m, v) else none
  | _, _ => none

/-! ### Prefill (R247, R253) -/

/-- Tokens a sequence contributes: a chunk, cut when it is the first and alone exceeds PFTOKENS. -/
def contribution (v : ModelVer) (first : Bool) (x : Seq) : Nat :=
  let n := min (x.toks.length - x.c) (svPfchunk v)
  if first ∧ svPftokens v < n then svPftokens v / 64 * 64 else n

/-- The entry of a prefill chunk. -/
def prefillPlan (s : State) (v : ModelVer) (i : Nat) (x : Seq) (n : Nat) : Plan :=
  let e : EntPlan := { seq := seqIdOf i x, pos := x.c, toks := (x.toks.drop x.c).take n, ntok := n, btab := btPage v x.bt }
  if x.c + n < x.toks.length then .ent s e else
  withCons s i x fun _ ntok cs => { e with nout := 1, ctls := [ctlOf x ntok cs false (x.c + n - 1) (genToks x 0)] }

/-- Add sequences until the next would push the step past PFTOKENS; one that lacks blocks is left out. -/
def prefillPick (q : Nat × Nat) (v : ModelVer) : List (Nat × Seq) → Pick → Pick
  | [], p => p
  | c :: cs, p =>
    match seqAt p.st c.1 with
    | none => prefillPick q v cs p
    | some x =>
      let n := contribution v (decide (p.slots = [])) x
      if p.wait || p.full || decide (p.slots ≠ [] ∧ svPftokens v < p.used + n) then p else
      if n = 0 ∨ x.st ≠ .queued then prefillPick q v cs p else
      match allocKv p.st q c.1 false p.slots (x.c + n) with
      | none => prefillPick q v cs p
      | some s1 =>
        let p1 := pickAdd v .prefill p c.1 (prefillPlan s1 v c.1 x n)
        prefillPick q v cs (if p1.slots = p.slots then p1 else pickTab v false p1 c.1)

def prefillForm (h n : Nat) (s : State) : State :=
  match formable s (h, n) .prefill with
  | none => s
  | some (m, v) =>
    let ready (st : State) (i : Nat) (x : Seq) : Bool :=
      decide (x.gen0 = (h, n) ∧ x.st = .queued ∧ x.stage = .run ∧ x.c < x.toks.length) && seqFree st i x
    let s1 := endAllPoisoned s (selectSeqs s (ready s))
    let p := prefillPick (h, n) v (selectSeqs s1 (ready s1)) { st := s1 }
    dealPick p m.tenant (h, n) .prefill fun x => { x with st := .prefill }

def execPrefillStepForm (h n : Nat) (s : State) : Res := .next (flushAreas (prefillForm h n s))

/-! ### Encode (R243) -/

/-- Queries that fit one step, the first cut to PFTOKENS. -/
def encodePick (v : ModelVer) : List (Nat × Seq) → Pick → Pick
  | [], p => p
  | c :: cs, p =>
    let ts := c.2.qenc.take (svPftokens v)
    if p.full || decide (p.slots ≠ [] ∧ svPftokens v < p.used + ts.length) then p else
    encodePick v cs (pickAdd v .encode p c.1 (.ent p.st { seq := seqIdOf c.1 c.2, pos := 0, toks := ts, ntok := ts.length, nout := 1 }))

def execEncodeStepForm (h n : Nat) (s : State) : Res :=
  match formable s (h, n) .encode with
  | none => .next s
  | some (m, v) =>
    let ready (i : Nat) (x : Seq) : Bool := decide (x.encoder = some (h, n) ∧ x.stage = .encode) && seqFree s i x
    let p := encodePick v (selectSeqs s ready) { st := s }
    .next (dealPick p m.tenant (h, n) .encode id)

/-! ### Re-rank (R243) -/

/-- A directory entry of a passage: address and length of its token run. -/
def passageDir (a : Bytes) (id : Nat) (s : State) (t : Nat) : Except UnitStop (State × Nat × Nat) := do
  let (s1, e) ← rdUnit s t (fld a 32 56 0 + 16 * id) 16
  return (s1, fld e 0 56 0, fieldAt e 8 4)

/-- A passage's first PASSMAX tokens; none when the directory has no entry for it. -/
def passage (a : Bytes) (id : Nat) (s : State) (t : Nat) : Except UnitStop (State × Option (List Nat)) := do
  let (s1, va, n) ← passageDir a id s t
  if n = 0 then return (s1, none)
  let k := min n (fieldAt a 40 4)
  let (s2, bs) ← rdUnit s1 t va (4 * k)
  return (s2, some ((List.range k).map fun i => fieldAt bs (4 * i) 4))

/-- Candidates whose passage has a directory entry. -/
def withEntry (a : Bytes) (t : Nat) : List Nat → State → Except UnitStop (State × List Nat)
  | [], s => .ok (s, [])
  | i :: is, s => do
    let (s1, _, n) ← passageDir a i s t
    let (s2, r) ← withEntry a t is s1
    return (s2, if n = 0 then r else i :: r)

/-- Entries for candidates while they fit: query tokens, then the passage's. -/
def rerankEnts (v : ModelVer) (x : Seq) (id : Nat) : List Nat → State → List EntPlan → Except UnitStop (State × List EntPlan)
  | [], s, es => .ok (s, es)
  | c :: cs, s, es => do
    let (s1, ps) ← passage x.ablk c s x.tenant
    let ts := (x.qgen ++ ps.getD []).take (svPftokens v)
    let e : EntPlan := { seq := id, pos := 0, toks := ts, ntok := ts.length, nout := 1 }
    if es ≠ [] ∧ (svPftokens v < (es.map fun y => y.ntok).sum + ts.length ∨ 1048576 < (blockMap v .rerank (es ++ [e])).size) then return (s1, es)
    else rerankEnts v x id cs s1 (es ++ [e])

/-- One sequence's step: its candidates without an entry are dropped first, then the next of them are scored. -/
def rerankOne (s : State) (i : Nat) (x : Seq) (v : ModelVer) : Except UnitStop (State × List EntPlan) := do
  let (s1, cs) ← if x.scores = [] then withEntry x.ablk x.tenant x.cands s else .ok (s, x.cands)
  let s2 := modSeq s1 i fun y => { y with cands := cs }
  rerankEnts v x (seqIdOf i x) (cs.drop x.scores.length) s2 []

/-- The passages of a sequence are known: it is packed (Table 10.5). -/
def toPack (s : State) (i : Nat) (ps : List Nat) : State :=
  match seqAt s i with
  | none => s
  | some x => addUnit (modSeq s i fun y => { y with stage := .pack, passages := ps }) x.tenant (.pack i)

def execRerankStepForm (h n : Nat) (s : State) : Res :=
  match formable s (h, n) .rerank with
  | none => .next s
  | some (m, v) =>
    match selectSeqs s fun i x => decide (x.rerank = some (h, n) ∧ x.stage = .rerank) && seqFree s i x with
    | [] => .next s
    | (i, x) :: _ =>
      match rerankOne s i x v with
      | .error (.wait s1) => .next s1
      | .error (.fault s1 kd a c p) => .next (seqFault s1 i srcSeq kd a c p)
      | .ok (s1, []) => .next (toPack s1 i [])
      | .ok (s1, es) =>
        .next (dealPick { st := s1, ents := es, slots := [i] } m.tenant (h, n) .rerank id)

/-! ### Decode beats (R257, R262, R264) -/

/-- Drafts that a sequence may take in its next step. -/
def draftRoom (v : ModelVer) (x : Seq) : Nat :=
  if x.drafter.isNone ∨ !runsKind v .verify then 0 else min x.k (min (svMaxctx v - x.c - 1) (sqMaxnew x - x.ngen - 1))

/-- May a sequence join the batch of a decode step? -/
def decodable (s : State) (q : Nat × Nat) (i : Nat) (x : Seq) : Bool :=
  decide (x.gen0 = q ∧ x.st = .decode ∧ x.movedTo = none) && seqFree s i x && !seqHeld s i x

/-- Blocks for a decode batch: sequences and their draft lengths; one that lacks blocks is left out. -/
def decodePick (q : Nat × Nat) (v : ModelVer) : List (Nat × Seq) → State → List (Nat × Nat) → State × List (Nat × Nat)
  | [], s, got => (s, got)
  | c :: cs, s, got =>
    if svDcbatch v ≤ got.length then (s, got) else
    match seqAt s c.1 with
    | none => decodePick q v cs s got
    | some x =>
      if x.st ≠ .decode then decodePick q v cs s got else
      let k := draftRoom v x
      match allocKv s q c.1 false (got.map (·.1)) (x.c + k + 1) with
      | none => decodePick q v cs s got
      | some s1 => decodePick q v cs (kvWillneed s1 x.tenant v (((seqAt s1 c.1).map (·.btab)).getD [])) (got ++ [(c.1, k)])

/-- The entry of a decode or verify step: the pending token and the drafts, a sample at each position. -/
def decodePlan (s : State) (v : ModelVer) (i : Nat) (x : Seq) (ds : List Nat) : Plan :=
  let ts := x.toks.drop x.c ++ ds
  withCons s i x fun _ ntok cs =>
    { seq := seqIdOf i x, pos := x.c, toks := ts, ntok := ts.length, nout := ts.length, btab := btPage v x.bt
      ctls := (List.range ts.length).map fun j => ctlOf x ntok cs false (x.c + j) (genToks x 0 ++ ds.take j) }

/-- Plan the entries of a decode or verify step. -/
def planDecode (v : ModelVer) (k : StepKind) : List Nat → Pick → Pick
  | [], p => p
  | i :: is, p =>
    match seqAt p.st i with
    | none => planDecode v k is p
    | some x =>
      if p.wait || p.full then p else
      let p1 := pickAdd v k p i (decodePlan p.st v i x (if k = .verify then x.drafts else []))
      planDecode v k is (if p1.slots = p.slots then p1 else pickTab v false p1 i)

/-- A verify step is planned: it waits for its drafts (R262). -/
def planVerify (s : State) (q : Nat × Nat) (num : Nat) (beat : Option Nat) (got : List (Nat × Nat)) : State :=
  let ents := got.filterMap fun g => (seqAt s g.1).map fun x => ({ seq := seqIdOf g.1 x, pos := x.c, ntok := g.2 + 1, nout := g.2 + 1 } : StepEnt)
  let s1 := modSteps s q fun rs => rs ++ [{ kind := .verify, num := num, start := merNow s, beat := beat, ents := ents, dealt := false }]
  got.foldl (fun st g =>
    let st1 := modSeq st g.1 fun x => { x with drafts := [], drafted := decide (g.2 = 0), dready := false, lastStep := s.clk.ticks, coldDone := false }
    if g.2 = 0 then st1 else addUnit st1 (((seqAt st1 g.1).map (·.tenant)).getD 0) (.draft g.1)) s1

/-- Has a version a decode or verify step that has not ended, or unchecked tokens of the last one (R257)? -/
def decodeBusy (s : State) (v : ModelVer) : Bool :=
  (v.sv.steps.any fun r => decide (r.kind = .decode ∨ r.kind = .verify))
    || s.serving.seqs.any fun q => v.sv.lastDec.contains (seqIdOf q.1 q.2) && (decide (q.2.emit ≠ []) || q.2.emptyNext)

/-- Form the decode or verify step of a beat; the version's beat advances unless the step has to wait for a page. -/
def formDecode (s : State) (m : Model) (q : Nat × Nat) (v : ModelVer) (num : Nat) (beat : Option Nat) : State :=
  let next (st : State) : State := if beat.isSome then modSv st q fun sv => { sv with nextBeat := num + 1 } else st
  let s1 := endAllPoisoned s (selectSeqs s (decodable s q))
  let (s2, got) := decodePick q v (selectSeqs s1 (decodable s1 q)) s1 []
  if got = [] then next s2 else
  let mark (st : State) : State := modSv (if beat.isSome then next st else takeStepNum st q .decode) q fun sv => { sv with lastDec := got.filterMap fun g => (seqAt st g.1).map fun x => seqIdOf g.1 x }
  if got.any fun g => decide (g.2 ≠ 0) then mark (planVerify s2 q num beat got) else
  let p := planDecode v .decode (got.map (·.1)) { st := s2 }
  if p.wait then p.st else
  if p.ents = [] then next p.st else
  match dealStep p.st m.tenant q .decode num beat p.ents p.tabs [] [] with
  | .error s3 => s3
  | .ok s3 => mark (p.slots.foldl (fun st i => modSeq st i fun x => { x with lastStep := s3.clk.ticks, coldDone := false }) s3)

/-- The decode step of a version at its next beat: the first one, of those it has not had, that the decode die's copy of the
meridian has not passed; a beat that finds the step before it unfinished is skipped and counted (R256, R257).  Without beats the
step follows the one before it. -/
def decodeBeat (h n : Nat) (s : State) : State :=
  match modelAt s h, verAt s (h, n) with
  | some m, some v =>
    if v.serv.isNone ∨ svRole v ≠ 1 ∨ !runsKind v .decode then s else
    let sv := m.serve
    if sv.beat = 0 then
      (if decodeBusy s v then s else formDecode s m (h, n) v v.sv.nextStep none)
    else
      let c := decodeCore s m.tenant v
      let k := max v.sv.nextBeat (nextBeatOf (merAt s c) sv)
      let at1 := sv.origin + k * sv.beat
      let s1 := advanceMer s (merWhen c at1)
      if decodeBusy s1 v then
        (modSv (countEv s1 srcSeq 0x0503 m.tenant) (h, n) fun y => { y with overrun := y.overrun + 1, nextBeat := k + 1 })
      else (formDecode s1 m (h, n) v k (some at1))
  | _, _ => s

def execDecodeBeat (h n : Nat) (s : State) : Res := .next (flushAreas (decodeBeat h n s))

/-! ### Drafting (R262, R296) -/

/-- Verify steps that wait for drafts. -/
def waitingVerify (s : State) : List ((Nat × Nat) × StepRun) :=
  s.models.models.flatMap fun m => m.2.vers.flatMap fun v =>
    (v.2.sv.steps.filter fun r => !r.dealt && decide (r.kind = .verify)).map fun r => ((m.1, v.1), r)

/-- Sequences of a drafter whose next draft may be made. -/
def draftable (s : State) (q : Nat × Nat) : List (Nat × Seq) :=
  ((waitingVerify s).flatMap fun w => w.2.ents.filterMap fun e => seqOfId s e.seq).filter fun x =>
    decide (x.2.drafter = some q) && !x.2.drafted && x.2.dready && x.2.ending.isNone

/-- The entry of a draft step: what the drafter has not seen, at most PFTOKENS of it; an output once that is all. -/
def draftPlan (s : State) (v : ModelVer) (i : Nat) (x : Seq) (n : Nat) : Plan :=
  let all := x.toks ++ x.drafts
  let e : EntPlan := { seq := seqIdOf i x, pos := x.cd, toks := (all.drop x.cd).take n, ntok := n, btab := btPage v x.dbt }
  if x.cd + n < all.length then .ent s e else
  withCons s i x fun _ ntok cs => { e with nout := 1, ctls := [ctlOf x ntok cs true (all.length - 1) (genToks x 0 ++ x.drafts)] }

/-- Plan a draft step; a sequence whose drafter blocks cannot be had drafts no more. -/
def draftPick (q : Nat × Nat) (v : ModelVer) : List (Nat × Seq) → Pick → Pick
  | [], p => p
  | c :: cs, p =>
    match seqAt p.st c.1 with
    | none => draftPick q v cs p
    | some x =>
      let n := min (x.toks.length + x.drafts.length - x.cd) (svPftokens v)
      if p.wait || p.full || decide (p.slots ≠ [] ∧ svPftokens v < p.used + n) then p else
      match allocKv p.st q c.1 true p.slots (x.cd + n) with
      | none => draftPick q v cs { p with st := modSeq p.st c.1 fun y => { y with drafted := true } }
      | some s1 =>
        let p1 := pickAdd v .draft p c.1 (draftPlan s1 v c.1 x n)
        draftPick q v cs (if p1.slots = p.slots then p1 else pickTab v true p1 c.1)

def draftForm (h n : Nat) (s : State) : State :=
  match formable s (h, n) .draft with
  | none => s
  | some (m, v) =>
    let s1 := endAllPoisoned s (draftable s (h, n))
    let p := draftPick (h, n) v (draftable s1 (h, n)) { st := s1 }
    dealPick p m.tenant (h, n) .draft id

def execDraftStepForm (h n : Nat) (s : State) : Res := .next (flushAreas (draftForm h n s))

/-! ### Verification (R262) -/

/-- Put a dealt verify step in the place of the one that waited. -/
def dropWaiting (s : State) (q : Nat × Nat) : State :=
  modSteps s q fun rs => rs.filter fun r => r.dealt || decide (r.kind ≠ .verify)

def verifyForm (h n : Nat) (s : State) : State :=
  match formable s (h, n) .verify with
  | none => s
  | some (m, v) =>
    match v.sv.steps.find? fun r => !r.dealt && decide (r.kind = .verify) with
    | none => s
    | some w =>
      let all (st : State) : List (Nat × Seq) := (w.ents.filterMap fun e => seqOfId st e.seq).filter fun x => x.2.ending.isNone
      let s0 := endAllPoisoned s (all s)
      let xs := all s0
      if xs.any fun x => !x.2.drafted then s0 else
      let s1 := dropWaiting s0 (h, n)
      if xs = [] then s1 else
      let p := planDecode v .verify (xs.map (·.1)) { st := s1 }
      if p.wait then (modSteps p.st (h, n) fun rs => rs ++ [w]) else
      if p.ents = [] then p.st else
      match dealStep p.st m.tenant (h, n) .verify w.num w.beat p.ents p.tabs [] [] with
      | .error s2 => (modSteps s2 (h, n) fun rs => rs ++ [w])
      | .ok s2 => (p.slots.foldl (fun st i => modSeq st i fun x => { x with lastStep := s2.clk.ticks, coldDone := false }) s2)

def execVerifyStepForm (h n : Nat) (s : State) : Res := .next (flushAreas (verifyForm h n s))

end Sys2Proof.Machine
end

