-- ==== Sys2Proof/Machine/StepEnd.lean ====
section
/-! DEFINITION. Expert dispatch; the end of a step (R244, R245, R251, R259 to R264, R269, R271, R272). -/

namespace Sys2Proof.Machine

/-! ### The expert area (R259, R260; layout: log 25) -/

def svTopHome (v : ModelVer) : Nat := svN v 23 1
def expVa (v : ModelVer) : Nat := wsVa v (svN v 64 4)

/-- Bytes of a request: activations in AFMT and the gate. -/
def reqLen (v : ModelVer) : Nat := (if svN v 26 1 = 0 then 2 * svN v 24 2 else svN v 24 2 + svN v 24 2 / 32) + 4

/-- Bytes of a result in RFMT. -/
def resLen (v : ModelVer) : Nat := if svN v 27 1 = 0 then 2 * svN v 24 2 else 5 * svN v 24 2

/-- A home's slot for a request and its result, the slots it has, and their addresses. -/
def homeSlot (v : ModelVer) : Nat := align64 (reqLen v) + align64 (resLen v)
def homeCap (v : ModelVer) : Nat := svN v 68 4 * 32768 / homeSlot v
def homeVa (v : ModelVer) (i : Nat) : Nat := expVa v + svN v 68 4 * 32768 + i * homeSlot v

/-- Address of an expert's table entry. -/
def expEntVa (v : ModelVer) (l e : Nat) : Nat := svN v 80 8 % 2 ^ 57 + (l * svN v 20 2 + e) * 32

/-- Module of a home. -/
def homeModule (ent : Bytes) (i : Nat) : Nat := fld ent (12 + 4 * i) 16 0

/-- Live homes in table order, by place (R259). -/
def liveHomes (s : State) (v : ModelVer) (ent : Bytes) : List Nat :=
  (List.range (svTopHome v)).filter fun i => peerLive s (homeModule ent i) 2

/-- The home a request is sent to. -/
def firstHome (s : State) (v : ModelVer) (ent : Bytes) (l e : Nat) : Option Nat :=
  let hs := liveHomes s v ent
  hs[(s.fab.module + l + e) % hs.length]?

/-- The next live home in table order (R261). -/
def nextHome (s : State) (v : ModelVer) (ent : Bytes) (last : Nat) : Option Nat :=
  ((List.range (svTopHome v - 1)).map fun i => (last + 1 + i) % svTopHome v).find? fun i => (liveHomes s v ent).contains i

/-! ### Messages of dispatch (log 25) -/

/-- What names a version on another module of its group. -/
def verName (v : ModelVer) : Bytes := leBytes 8 v.imgva ++ leBytes 4 v.modelid ++ leBytes 4 v.build

/-- Requests for one expert as a message body, and results. -/
def dispatchBody (v : ModelVer) (l e : Nat) (rs : List ExpReq) : Bytes :=
  leBytes 4 mkDispatch ++ verName v ++ leBytes 2 l ++ leBytes 2 e ++ leBytes 4 rs.length ++ rs.flatMap fun r => leBytes 8 r.num ++ r.data
def resultBody (v : ModelVer) (rs : List (Nat × Bytes)) : Bytes :=
  leBytes 4 mkResult ++ verName v ++ leBytes 4 rs.length ++ rs.flatMap fun r => leBytes 8 r.1 ++ r.2

/-- Cut a list into parts of n. -/
def chunksOf {α : Type} (n : Nat) : Nat → List α → List (List α)
  | 0, _ => []
  | _ + 1, [] => []
  | f + 1, x :: xs => (x :: xs).take (max n 1) :: chunksOf n f ((x :: xs).drop (max n 1))

/-- Items of a message at most: a payload holds 983,008 bytes. -/
def perMsg (item : Nat) : Nat := (983008 - 32) / (8 + item)

/-- Requests to one home join the requests of one expert: the module's own stay, others leave as messages of service 2 (R260). -/
def sendGroup (s : State) (t : Nat) (q : Nat × Nat) (v : ModelVer) (dst l e : Nat) (rs : List ExpReq) : State :=
  if dst = s.fab.module then
    modSv s q fun sv => { sv with gathered := sv.gathered ++ rs.map fun r => { r with due := s.clk.ticks } }
  else (chunksOf (perMsg (reqLen v)) rs.length rs).foldl (fun st g => sendSeq st (seqMsg t 2 dst false (dispatchBody v l e g))) s

/-- Distinct keys of requests: home module, layer, expert. -/
def reqKeys (rs : List (Nat × ExpReq)) : List (Nat × Nat × Nat) :=
  rs.foldl (fun ks r => let k := (r.1, r.2.layer, r.2.expert); if ks.contains k then ks else ks ++ [k]) []

/-- Send requests whose home module has been chosen, joined per home and expert. -/
def sendReqs (s : State) (t : Nat) (q : Nat × Nat) (v : ModelVer) (rs : List (Nat × ExpReq)) : State :=
  (reqKeys rs).foldl (fun st k =>
    sendGroup st t q v k.1 k.2.1 k.2.2 ((rs.filter fun r => decide ((r.1, r.2.layer, r.2.expert) = k)).map (·.2))) s

/-- A request without a live home, or timed out twice, is handled under MISSEXP: a result of zero, and EXPLOST or the sequence's end
(R261).  The error is the state in which the write waits. -/
def missExpert (s : State) (t : Nat) (q : Nat × Nat) (m : Model) (v : ModelVer) (r : ExpReq) : Except State State := do
  let drop (st : State) : State := modSv st q fun sv => { sv with sent := sv.sent.filter fun x => decide (x.num ≠ r.num) }
  let flt (st : State) (k a c p : Nat) : State := match seqOfId st r.seq with
    | some x => seqFault (drop st) x.1 srcSeq k a c p
    | none => drop st
  let s1 ← seqWrites s t flt [(expVa v + r.res, List.replicate (resLen v) 0)]
  let s2 := drop s1
  match seqOfId s2 r.seq with
  | none => return s2
  | some x => return if m.serve.missexp then endSeq s2 x.1 10 stFault 0 else setFlag s2 x.1 3

/-- What a dispatch is read as: its expert's entry and its request. -/
def readDispatch (s : State) (t : Nat) (v : ModelVer) (d : Dispatch) : Except UnitStop (State × Bytes × Bytes) := do
  let (s1, ent) ← rdUnit s t (expEntVa v d.layer d.expert) 32
  let (s2, data) ← rdUnit s1 t (expVa v + d.off) (reqLen v)
  return (s2, ent, data)

/-- Read a step's dispatches; one that faults ends its sequence.  The error is the state in which a page is waited for. -/
def readDispatches (t : Nat) (v : ModelVer) : List Dispatch → State → Except State (State × List (Dispatch × Bytes × Bytes))
  | [], s => .ok (s, [])
  | d :: ds, s =>
    match readDispatch s t v d with
    | .error (.wait s1) => .error s1
    | .error (.fault s1 k a c p) =>
      readDispatches t v ds (match seqOfId s1 d.seq with | some x => seqFault s1 x.1 srcSeq k a c p | none => s1)
    | .ok (s1, e, b) => (readDispatches t v ds s1).map fun r => (r.1, (d, e, b) :: r.2)

/-- Number the requests of a step and choose their homes: those with a home, and those without. -/
def chooseHomes (s : State) (m : Model) (v : ModelVer) (kind : Nat) : Nat → List (Dispatch × Bytes × Bytes) → List (Nat × ExpReq) × List ExpReq
  | _, [] => ([], [])
  | n, (d, e, b) :: ds =>
    let r := chooseHomes s m v kind (n + 1) ds
    let x : ExpReq := { layer := d.layer, expert := d.expert, seq := d.seq, origin := s.fab.module, num := n, data := b, res := d.res, kind := kind
                        sent := 1, due := s.clk.ticks + m.serve.dispdl }
    match firstHome s v e d.layer d.expert with
    | some i => ((homeModule e i, { x with home := i }) :: r.1, r.2)
    | none => (r.1, x :: r.2)

/-- A step's plots have written dispatch requests: the sequencer carries them (R260). -/
def dispatchAll (s : State) (q : Nat × Nat) (m : Model) (v : ModelVer) (kind : Nat) (ds : List Dispatch) : State :=
  match readDispatches m.tenant v ds s with
  | .error s1 => s1
  | .ok (s1, xs) =>
    let c := chooseHomes s1 m v kind v.sv.nextReq xs
    let lost : Except State State := c.2.foldl (fun st r => st.bind fun z => missExpert z m.tenant q m v r) (.ok s1)
    match lost with
    | .error s2 => s2
    | .ok s2 =>
      let s3 := modSv s2 q fun sv => { sv with sent := sv.sent ++ c.1.map (·.2), nextReq := sv.nextReq + xs.length }
      sendReqs s3 m.tenant q v c.1

/-- Results reach the origin's expert area; one that has been replaced or dropped is discarded (R261).  The error is the state in which
the write waits. -/
def takeResults (s : State) (t : Nat) (q : Nat × Nat) (v : ModelVer) (rs : List (Nat × Bytes)) : Except State State := do
  let found := rs.filterMap fun r => (v.sv.sent.find? fun x => decide (x.num = r.1)).map fun x => (x, r.2)
  let drop (st : State) : State := modSv st q fun sv => { sv with sent := sv.sent.filter fun x => !(rs.any fun r => decide (r.1 = x.num)) }
  let flt (st : State) (k a c p : Nat) : State := (distinctN (found.map fun f => f.1.seq)).foldl (fun z id => match seqOfId z id with
    | some x => seqFault z x.1 srcSeq k a c p
    | none => z) (drop st)
  let s1 ← seqWrites s t flt (found.map fun f => (expVa v + f.1.res, f.2))
  return drop s1

def execDispatchDeadline (h n num : Nat) (s : State) : Res :=
  match modelAt s h, verAt s (h, n) with
  | some m, some v =>
    match v.sv.sent.find? fun x => decide (x.num = num) with
    | none => .next s
    | some r =>
      let s1 := advanceTo s r.due
      let miss (st : State) : State := match missExpert st m.tenant (h, n) m v r with | .ok z => z | .error z => z
      if r.sent ≠ 1 then .next (miss s1) else
      match rdUnit s1 m.tenant (expEntVa v r.layer r.expert) 32 with
      | .error (.wait s2) => .next s2
      | .error (.fault s2 k a c p) => .next (miss (match seqOfId s2 r.seq with | some x => seqFault s2 x.1 srcSeq k a c p | none => s2))
      | .ok (s2, ent) =>
        match nextHome s2 v ent r.home with
        | none => .next (miss s2)
        | some i =>
          let r1 := { r with sent := 2, home := i, due := s2.clk.ticks + m.serve.dispdl }
          let s3 := modSv (countEv s2 srcSeq 0x0506 m.tenant) (h, n) fun sv => { sv with sent := sv.sent.map fun x => if x.num = num then r1 else x }
          .next (sendReqs s3 m.tenant (h, n) v [(homeModule ent i, r1)])
  | _, _ => .next s

/-! ### EXPERT steps (R260) -/

/-- Pages of an expert's weights. -/
def expertPages (ent : Bytes) : List Nat := rangeOf (fld ent 0 56 0) (fieldAt ent 8 4)

/-- Requests gathered for the expert of a request. -/
def sameExpert (v : ModelVer) (g : ExpReq) : List ExpReq := v.sv.gathered.filter fun r => decide (r.layer = g.layer ∧ r.expert = g.expert)

/-- The request whose expert runs next: the first one once EXWAIT has passed since it, else the first of an expert with 512 waiting, else
the first one, for whose EXWAIT the step waits. -/
def nextExpert (s : State) (m : Model) (v : ModelVer) : Option ExpReq :=
  let full := v.sv.gathered.find? fun r => decide (512 ≤ (sameExpert v r).length)
  match v.sv.gathered.head?, full with
  | some g, some f => if g.due + m.serve.exwait ≤ s.clk.ticks then some g else some f
  | g, _ => g

def execExpertStepStart (h n : Nat) (s : State) : Res :=
  match formable s (h, n) .expert with
  | none => .next s
  | some (m, v) =>
    match nextExpert s m v with
    | none => .next s
    | some g =>
      let rs := sameExpert v g
      let s1 := if 512 ≤ rs.length then s else advanceTo s (g.due + m.serve.exwait)
      let use := rs.take (min 512 (homeCap v))
      let rest (st : State) (us : List ExpReq) : State := modSv st (h, n) fun sv => { sv with gathered := us.foldl (fun l r => l.erase r) sv.gathered }
      match rdUnit s1 m.tenant (expEntVa v g.layer g.expert) 32 with
      | .error (.wait s2) => .next s2
      | .error (.fault s2 _ _ _ _) => .next (rest s2 rs)
      | .ok (s2, ent) =>
        let s3 := (expertPages ent).foldl (fun st p => hintWillneed st m.tenant walkHubControl p) s2
        let e : EntPlan := { seq := g.layer * 65536 + g.expert, pos := 0, ntok := use.length }
        let data := (enumFrom 0 use).map fun r => (homeVa v r.1, r.2.data)
        match dealStep s3 m.tenant (h, n) .expert v.sv.nextStep none [e] [] use data with
        | .error s4 => .next s4
        | .ok s4 => .next (rest (takeStepNum s4 (h, n) .expert) use)

/-- Results of an EXPERT step go back to their origins (R260). -/
def endExpert (s : State) (q : Nat × Nat) (m : Model) (v : ModelVer) (r : StepRun) : Except State State := do
  let rd (acc : Except State (State × List (Nat × Nat × Bytes))) (x : Nat × ExpReq) : Except State (State × List (Nat × Nat × Bytes)) := do
    let (s1, l) ← acc
    match rdUnit s1 m.tenant (homeVa v x.1 + align64 (reqLen v)) (resLen v) with
    | .ok (s2, bs) => return (s2, l ++ [(x.2.origin, x.2.num, bs)])
    | .error (.wait s2) => throw s2
    | .error (.fault s2 _ _ _ _) => return (s2, l)
  let (s1, res) ← (enumFrom 0 r.reqs).foldl rd (.ok (s, []))
  let s2 ← takeResults s1 m.tenant q v ((res.filter fun x => decide (x.1 = s.fab.module)).map (·.2))
  let others := distinctN ((res.map (·.1)).filter (· ≠ s.fab.module))
  return others.foldl (fun st o =>
    let mine := (res.filter fun x => decide (x.1 = o)).map (·.2)
    (chunksOf (perMsg (resLen v)) mine.length mine).foldl (fun z g => sendSeq z (seqMsg m.tenant 2 o false (resultBody v g))) st) s2

/-! ### Outputs are processed (R251, R262 to R264, R267) -/

/-- A step's tokens for a sequence: they join it, its commit is timed, and their token units follow. -/
def commitToks (s : State) (i : Nat) (ts : List Nat) (empty : Bool) : State :=
  match seqAt s i with
  | none => s
  | some x =>
    let now := merNow s
    let gap := match x.commits with | some c => now - c.2 | none => 0
    let late := decide (ts ≠ []) && x.commits.isSome && decide ((polAt s x.tenant).tbtgoal * usTicks < gap)
    let s1 := if late then modPol s x.tenant fun p => { p with tbtmiss := (p.tbtmiss + 1) % 2 ^ 32 } else s
    let s2 := publish (modSeq s1 i fun y => { y with
      toks := y.toks ++ ts, emit := ts, emptyNext := empty
      commits := if ts = [] then y.commits else some ((match y.commits with | some c => c.1 | none => now), now)
      after := if y.commits.isSome then y.after + ts.length else y.after
      tbtmax := if ts = [] then y.tbtmax else max y.tbtmax gap }) i
    if ts = [] then (if empty then endSeq s2 i 4 stConstraint 0 else s2) else addUnit s2 x.tenant (.token i)

/-- Output record j: token and EMPTY. -/
def outRec (outs : Bytes) (j : Nat) : Nat × Bool := (fieldAt outs (8 * j) 4, flg outs (8 * j + 4) 0)

/-- A prefill entry: C advances; the final chunk's output is the first token. -/
def endPrefillEnt (q : Nat × Nat) (outs : Bytes) (s : State) (e : StepEnt) : State :=
  match seqOfId s e.seq with
  | none => s
  | some (i, x) =>
    if x.ending.isSome then s else
    if x.cancelled then cancelNow s i else
    let s1 := modSv (modSeq s i fun y => { y with c := y.c + e.ntok, st := if e.nout = 0 then .queued else .decode }) q fun sv =>
      { sv with per := { sv.per with ptoks := sv.per.ptoks + e.ntok } }
    if e.nout = 0 then publish s1 i else
    let o := outRec outs e.outoff
    if o.2 then commitToks s1 i [] true else commitToks s1 i [o.1] false

/-- Accepted drafts (R263): how many of them equal the samples before them, EMPTY stopping. -/
def accepted (outs : Bytes) : List Nat → Nat → Nat
  | [], _ => 0
  | d :: ds, j => let o := outRec outs j; if !o.2 && decide (o.1 = d) then accepted outs ds (j + 1) + 1 else 0

/-- A decode or verify entry: acceptance (R263, R264). -/
def endDecodeEnt (outs : Bytes) (s : State) (e : StepEnt) : State :=
  match seqOfId s e.seq with
  | none => s
  | some (i, x) =>
    if x.ending.isSome then s else
    if x.cancelled then cancelNow s i else
    let ds := x.drafts.take (e.nout - 1)
    let m := accepted outs ds e.outoff
    let o := outRec outs (e.outoff + m)
    let ts := ds.take m ++ if o.2 then [] else [o.1]
    let s1 := modSeq s i fun y => { y with
      c := y.c + ts.length, cd := y.c + ts.length, drafts := [], drafted := false, dready := false
      k := min (sqNdraft y) (if m = ds.length then ds.length + 1 else m + 1) }
    commitToks s1 i ts o.2

/-- A draft entry: the draft joins, or drafting stops (R262, R296). -/
def endDraftEnt (outs : Bytes) (s : State) (e : StepEnt) : State :=
  match seqOfId s e.seq with
  | none => s
  | some (i, x) =>
    if x.ending.isSome then s else
    let s1 := modSeq s i fun y => { y with cd := y.cd + e.ntok }
    if e.nout = 0 then s1 else
    let o := outRec outs e.outoff
    if o.2 then modSeq s1 i fun y => { y with drafted := true } else
    let ds := x.drafts ++ [o.1]
    let want := ((waitingVerify s).flatMap fun w => (w.2.ents.filter fun z => decide (z.seq = e.seq)).map fun z => z.ntok - 1).sum
    let s2 := modSeq s1 i fun y => { y with drafts := ds, dready := false, drafted := decide (want ≤ ds.length) }
    if want ≤ ds.length then s2 else addUnit s2 x.tenant (.draft i)

/-- The query that an ANSWER block and an embedding make (R243). -/
def answerQuery (x : Seq) (i : Nat) (vec : Bytes) (now : Nat) : SQuery :=
  let a := x.ablk
  let flags := if fieldAt a 8 4 = 0 then 0 else 2
  let entry := leBytes 8 0 ++ leBytes 8 0 ++ leBytes 2 (apWanted a) ++ leBytes 2 (apCand a) ++ leBytes 2 (fieldAt a 16 2) ++ leBytes 1 flags
    ++ leBytes 1 0 ++ leBytes 4 (fieldAt a 20 4) ++ leBytes 4 (fieldAt a 24 4) ++ List.replicate 32 0
  { owner := .seq i vec, entry := entry, prio := sqPrio x, since := now }

/-- An encode entry: its embedding is the query vector of a search (R243). -/
def endEncodeEnt (v : ModelVer) (outs : Bytes) (s : State) (e : StepEnt) : State :=
  match seqOfId s e.seq with
  | none => s
  | some (i, x) =>
    if x.ending.isSome then s else
    if x.cancelled then cancelNow s i else
    let h := fieldAt x.ablk 4 4
    match openIx s x.tenant h with
    | none => endSeq s i 8 stFault 0
    | some ix =>
      if svOutdim v ≠ ix.d then endSeq s i 8 stBadParam 0 else
      let vec := (outs.drop (recSize v .encode * e.outoff)).take (recSize v .encode)
      modIx (modSeq s i fun y => { y with stage := .search }) h fun z => { z with waiting := z.waiting ++ [answerQuery x i vec s.clk.ticks] }

/-- A re-rank step: its scores join; once every candidate has one, the passages are their selection (R243). -/
def endRerank (outs : Bytes) (s : State) (es : List StepEnt) : State :=
  match (es.head?).bind fun e => seqOfId s e.seq with
  | none => s
  | some (i, x) =>
    if x.ending.isSome then s else
    if x.cancelled then cancelNow s i else
    let sc := x.scores ++ (List.range es.length).map fun j => fieldAt outs (4 * j) 4
    let s1 := modSeq s i fun y => { y with scores := sc }
    if sc.length < x.cands.length then s1 else
    let elems := (enumFrom 0 (x.cands.zip sc)).map fun c => (⟨c.2.2, c.2.1, c.1⟩ : Elem)
    toPack s1 i ((selectK .f32 false (apK x.ablk) elems).1.map (·.id))

/-- Bytes of a step's outputs. -/
def outBytes (v : ModelVer) (r : StepRun) : Nat := recSize v r.kind * (r.ents.map (·.nout)).sum

/-- A step is over: it leaves the version with its batch; a decode step counts for the period (R254). -/
def dropStep (s : State) (q : Nat × Nat) (r : StepRun) : State :=
  let s1 := modJob s r.job fun j => { j with batches := tabDel j.batches r.batch }
  modSv s1 q fun sv =>
    let p := sv.per
    { sv with steps := sv.steps.erase r
              per := if r.kind = .decode ∨ r.kind = .verify then
                { p with dsteps := p.dsteps + 1, dtime := p.dtime + (merNow s - r.beat.getD r.start) } else p }

/-- Every sequence of a step. -/
def stepSeqs (s : State) (r : StepRun) : List (Nat × Seq) := r.ents.filterMap fun e => if r.kind = .expert then none else seqOfId s e.seq

/-- The requests of a step are waited for no more. -/
def dropSent (s : State) (q : Nat × Nat) (k : StepKind) : State :=
  if k = .expert then s else modSv s q fun sv => { sv with sent := sv.sent.filter fun x => decide (x.kind ≠ kindCode k) }

/-- A step whose job has been aborted ends its sequences (R271). -/
def abortStep (s : State) (q : Nat × Nat) (r : StepRun) : State :=
  (stepSeqs s r).foldl (fun st x => endSeq st x.1 9 stAborted 0) (dropStep (dropSent s q r.kind) q r)

/-- Process the outputs of a step whose plots are all DONE. -/
def finishStep (s : State) (q : Nat × Nat) (m : Model) (v : ModelVer) (r : StepRun) : State :=
  match rdUnit s m.tenant r.outva (outBytes v r) with
  | .error (.wait s1) => s1
  | .error (.fault s1 k a c p) => (stepSeqs s1 r).foldl (fun st x => seqFault st x.1 srcSeq k a c p) (dropStep s1 q r)
  | .ok (s1, outs) =>
    let s2 := dropStep s1 q r
    match r.kind with
    | .prefill => r.ents.foldl (endPrefillEnt q outs) s2
    | .decode | .verify => r.ents.foldl (endDecodeEnt outs) s2
    | .draft => r.ents.foldl (endDraftEnt outs) s2
    | .encode => r.ents.foldl (endEncodeEnt v outs) s2
    | .rerank => endRerank outs s2 r.ents
    | .expert => match endExpert s1 q m v r with
      | .ok s3 => dropStep s3 q r
      | .error s3 => s3

/-- Hand the plots of a step over once more (R245, R272). -/
def redealStep (s : State) (q : Nat × Nat) (m : Model) (v : ModelVer) (r : StepRun) (job : Job) : State :=
  let p := kindPlots v r.kind
  match engReadAs s m.tenant walkHubControl .fetch p.1 (32 * p.2.1) with
  | .wait s1 => s1
  | .fault s1 _ _ _ => s1
  | .ok s1 pt =>
    let b := s1.jobs.nextBatch
    let s2 := modSteps (modJob (dropSent s1 q r.kind) r.job fun j => { j with batches := tabDel j.batches r.batch }) q fun rs =>
      rs.map fun x => if x = r then { x with batch := b } else x
    handPlots s2 r.job { job with batches := tabDel job.batches r.batch } (if p.2.2 = 0xFF then none else some p.2.2) none
      ((List.range p.2.1).map fun i => plotOf (plotEntry pt i))

def stepEnd (h n kind : Nat) (reqs : List Dispatch) (s : State) : State :=
  match modelAt s h, verAt s (h, n) with
  | some m, some v =>
    match v.sv.steps.find? fun r => r.dealt && decide (kindCode r.kind = kind) with
    | none => s
    | some r =>
      match jobAt s r.job with
      | none => (if r.fin then finishStep s (h, n) m v r else abortStep s (h, n) r)
      | some j =>
        match tabFind j.batches r.batch with
        | none => (abortStep s (h, n) r)
        | some b =>
          if reqs ≠ [] then
            (if svN v 20 2 = 0 ∨ kind = 7 then s else
              dispatchAll s (h, n) m v kind (reqs.filter fun d => decide (d.layer < svN v 8 2 ∧ d.expert < svN v 20 2)))
          else if b.done + b.dropped < b.total then s
          else if b.dropped ≠ 0 then
            (if j.ending.isSome then abortStep s (h, n) r else redealStep s (h, n) m v r j)
          else if kind ≠ 7 ∧ v.sv.sent.any (fun x => decide (x.kind = kind)) then s
          else (finishStep s (h, n) m v r)
  | _, _ => s

def execStepEnd (h n kind : Nat) (reqs : List Dispatch) (s : State) : Res := .next (flushAreas (stepEnd h n kind reqs s))

end Sys2Proof.Machine
end

