-- ==== Sys2Proof/Machine/Tables.lean ====
section
/-! DEFINITION. TABLE.GATHER and TABLE.SCATTER (R222 to R233). -/

namespace Sys2Proof.Machine

/-! ### Rows (Table 9.8) -/

/-- Payload bytes PB of a table's rows. -/
def tabPb (d : Bytes) : Nat :=
  let n := tabDim d
  match tabRcode d with
  | 0 => 4 * n
  | 3 => n
  | 4 => (n + 1) / 2
  | 5 => n + n / 32
  | 6 => 8 * n
  | _ => 2 * n

/-- Row bytes. -/
def tabRowBytes (d : Bytes) : Nat := tabPb d + if tabRcode d = 3 ∨ tabRcode d = 4 then 4 else 0

/-- FMA(scale, q, offset) of an I8SO or I4SO element, rounded once to FP32. -/
def soElem (row : Bytes) (pb : Nat) (q : Int) : Nat :=
  fRound fmtFp32 (fAdd (fMul (fDecode fmtFp16 (fieldAt row pb 2)) (fOfInt q)) (fDecode fmtFp16 (fieldAt row (pb + 2) 2)))

/-- Element k of a row as FP32 (R223). -/
def rowElem (d row : Bytes) (k : Nat) : Nat :=
  match tabRcode d with
  | 0 => fieldAt row (4 * k) 4
  | 1 => fRound fmtFp32 (fDecode fmtFp16 (fieldAt row (2 * k) 2))
  | 2 => fRound fmtFp32 (fDecode fmtBf16 (fieldAt row (2 * k) 2))
  | 3 => soElem row (tabPb d) (sext 8 (byteAt row k))
  | 4 => soElem row (tabPb d) (sext 4 (byteAt row (k / 2) / 16 ^ (k % 2)))
  | 5 => fRound fmtFp32 (fOfScaled (sext 8 (byteAt row k)) ((byteAt row (tabDim d + k / 32) : Nat) - 127))
  | _ => fRound fmtFp32 (fDecode fmtC40 (fieldAt row (8 * k) 8 % 2 ^ 40))

/-- A row decoded to FP32. -/
def rowWords (d row : Bytes) : List Nat := (List.range (tabDim d)).map (rowElem d row)

/-- An FP32 value widened to C40. -/
def fp32C40 (w : Nat) : Nat := fRound fmtC40 (fDecode fmtFp32 w)

/-- C40 sums of decoded rows, in order, one combining step each (R232). -/
def bagSums : List (List Nat) → List Nat
  | [] => []
  | r :: rs => rs.foldl (fun acc w => List.zipWith (fun a b => c40Add a (fp32C40 b)) acc w) (r.map fp32C40)

/-- The pooled row of a bag: SUM, or MEAN; an empty bag gives +0 (R232). -/
def pooled (dim : Nat) (mean : Bool) (rows : List (List Nat)) : List Nat :=
  if rows = [] then List.replicate dim 0 else
  (bagSums rows).map fun c =>
    let v := fDecode fmtC40 c
    fRound fmtFp32 (if mean then fDiv v (fOfInt rows.length) else v)

/-- FP32 values as bytes. -/
def wordBytes (ws : List Nat) : Bytes := ws.flatMap (leBytes 4)

/-! ### The parameter block (Table 9.10) -/

def tcMode (b : Bytes) : Nat := fld b 6 1 0
def tcFp32 (b : Bytes) : Bool := flg b 6 2
def tcNidx (b : Bytes) : Nat := fieldAt b 12 4
def tcIva (b : Bytes) : Nat := fld b 16 56 0
def tcDva (b : Bytes) : Nat := fld b 24 56 0
def tcBagva (b : Bytes) : Nat := fld b 32 56 0
def tcNbag (b : Bytes) : Nat := fieldAt b 40 4
def tcDstride (b : Bytes) : Nat := fieldAt b 44 4

/-- Checks of the block; those that need the table follow its lookup. -/
def tableChecks (gather : Bool) (b : Bytes) : List (Nat × Bool) :=
  let pool := gather && decide (tcMode b ≠ 0)
  [(4, decide (fieldAt b 4 2 = 0xFFFF)), (6, decide (fld b 6 7 3 ≠ 0)),
   (6, if gather then decide (tcMode b = 3) || (pool && !tcFp32 b) else tcFp32 b || decide (1 < tcMode b)),
   (7, decide (fld b 7 7 3 ≠ 0)), (12, decide (tcNidx b = 0 ∨ (if gather then 1048576 else 65536) < tcNidx b)),
   (16, decide (fld b 16 63 57 ≠ 0 ∨ tcIva b % 4 ≠ 0)), (24, decide (fld b 24 63 57 ≠ 0 ∨ tcDva b % 16 ≠ 0)),
   (32, if pool then decide (fld b 32 63 57 ≠ 0) else decide (fieldAt b 32 8 ≠ 0)),
   (40, if pool then decide (tcNbag b = 0 ∨ 65536 < tcNbag b) else decide (tcNbag b ≠ 0)), (44, decide (tcDstride b % 16 ≠ 0))]

/-! ### Start and end of a TABLE command (R219, R231) -/

def tabStart (s : State) (r : CmdRef) : Nat := ((s.models.starts.find? fun q => decide (q.1 = r)).map (·.2)).getD 0
def tabVer (s : State) (r : CmdRef) : Option (Nat × Nat) := (s.models.binds.find? fun q => decide (q.1 = r)).map (·.2)

/-- End a TABLE command with a status. -/
def tabStop (s : State) (r : CmdRef) (status done : Nat) : State := complete (forgetCmd s r) r status done 0

/-- End a TABLE command on a fault. -/
def tabFault (s : State) (x : Inflight) (acc kind cause page : Nat) : State :=
  cmdFault (forgetCmd s x.ref) x srcDma kind acc cause page 0

/-- A command starts: its version, table, checks against it, transient job and start meridian; the SCATTERs of one function
start at distinct ticks (R227). -/
def tabBegin (s : State) (x : Inflight) (gather : Bool) (b : Bytes) : State :=
  let t := cmdTenant x
  match bindVer s t (fieldAt b 0 4) (fieldAt b 8 4) with
  | .error st => complete s x.ref st 0 0
  | .ok q =>
    match (((verAt s q).map (·.tables)).getD []).find? fun tb => decide (fieldAt tb.d 0 2 = fieldAt b 4 2) with
    | none => complete s x.ref stNotFound 0 0
    | some tb =>
      if !gather && !tabWritable tb.d then complete s x.ref stNoPerm 0 0
      else if !gather && decide (tcMode b = 1 ∧ tabRcode tb.d ≠ 6) then badBlock s x.ref 6
      else if tcDstride b < (if tcFp32 b then 4 * tabDim tb.d else tabRowBytes tb.d) then badBlock s x.ref 44
      else match makeJob s { tenant := t, prio := fld b 7 2 0, mincores := 1, maxcores := 8, nseg := 2, nacc := 0 } with
        | none => complete s x.ref stBusy 0 0
        | some (s1, j) =>
          let at0 := if gather then merNow s1 else max (merNow s1) (tabGet s1.models.lastScat x.ref.fn 0 + 1)
          placement (touchVer { s1 with models := { s1.models with
            binds := s1.models.binds ++ [(x.ref, q)]
            tjobs := s1.models.tjobs ++ [(x.ref, j)]
            starts := s1.models.starts ++ [(x.ref, at0)]
            lastScat := if gather then s1.models.lastScat else tabPut s1.models.lastScat x.ref.fn at0 } } q)

/-- A command that has begun goes on with its table: it ends where its job has been ended, it is stopped, or its results
wait for the block (R393). -/
def tabGo (s : State) (x : Inflight) (b : Bytes) (k : Table → State) : State :=
  match endWaiting x with
  | some (st, res) => blockDone s x st 0 0 res
  | none =>
    match (tabVer s x.ref).bind (verAt s), tabJob s x.ref with
    | some v, some j =>
      if (jobAt s j).isNone ∨ ((jobAt s j).bind (·.ending)).isSome then tabStop s x.ref stAborted 0
      else if x.sent ≠ [] then s
      else match x.stopped with
        | some st => tabStop s x.ref st x.done
        | none =>
          if !jobRuns s j then s else
          match v.tables.find? fun tb => decide (fieldAt tb.d 0 2 = fieldAt b 4 2) with
          | some tb => k tb
          | none => s
    | _, _ => s

/-- Read for a TABLE command; the error is the state in which it waits or has ended. -/
def rdTab (s : State) (x : Inflight) (va n : Nat) : Except State (State × Bytes) :=
  match cmdRead s x (cmdTenant x) walkHubControl va n with
  | .wait s1 => .error s1
  | .fault k c p => .error (tabFault s x 0 k c p)
  | .ok s1 bs => .ok (s1, bs)

/-- Are the pages of a list of ranges ready for an access?  The error as for a read. -/
def readyTab (s : State) (x : Inflight) (acc : Acc) (rs : List (Nat × Nat)) : Except State Unit :=
  match cmdReady s x (cmdTenant x) walkHubControl acc (distinctN (rs.flatMap fun q => bytePages q.1 q.2)) with
  | .wait s1 => .error s1
  | .fault k c p => .error (tabFault s x (accCode acc) k c p)
  | .ready => .ok ()

/-- Results of the block: NINV, VUSED, START. -/
def tabResults (s : State) (r : CmdRef) (ninv : Nat) : Bytes :=
  leBytes 4 ninv ++ leBytes 4 (((tabVer s r).map (·.2)).getD 0) ++ leBytes 8 (tabStart s r)

/-- A command has done its work. -/
def tabEnd (s : State) (r : CmdRef) (ninv : Nat) : State :=
  let res := tabResults s r ninv
  endBlock (forgetCmd s r) r stOk res

/-! ### Logical rows (R224) -/

/-- The REMAP ranges that a list of logical indices reads. -/
def remapRanges (tb : Table) (is : List Nat) : List (Nat × Nat) :=
  match tb.remap with
  | none => []
  | some va => (is.filter fun i => decide (i < tabNrows tb.d)).map fun i => (va + 4 * i, 4)

/-- The stored row of a logical index; none for an invalid one. -/
def storedRow (s : State) (x : Inflight) (tb : Table) (i : Nat) : Option Nat :=
  if tabNrows tb.d ≤ i then none else
  let r := match tb.remap with
    | none => i
    | some va => leVal ((pageParts (va + 4 * i) 4).flatMap (partBytes s x (cmdTenant x)))
  if tabNrows tb.d ≤ r then none else some r

/-- Address of a stored row (R225). -/
def rowVa (tb : Table) (r : Nat) : Nat := tb.rows + r * tabStride tb.d

/-- Bytes of a range whose pages are ready. -/
def readyBytes (s : State) (x : Inflight) (va n : Nat) : Bytes := (pageParts va n).flatMap (partBytes s x (cmdTenant x))

/-- Row bytes of a logical index in the table's code: the stored row, or the default row. -/
def logicalRow (s : State) (x : Inflight) (tb : Table) (row : Option Nat) : Bytes :=
  let n := tabRowBytes tb.d
  match row, tb.defrow with
  | some r, _ => readyBytes s x (rowVa tb r) n
  | none, some va => readyBytes s x va n
  | none, none => List.replicate n 0

/-! ### GATHER (R232) -/

/-- BAG values as bounds, one bag each; none where they are refused. -/
def bagsOf (nidx : Nat) : List Nat → Option (List (Nat × Nat))
  | a :: b :: t => if b < a then none else (bagsOf nidx (b :: t)).map ((a, b - a) :: ·)
  | [a] => if a = nidx then some [] else none
  | [] => some []

/-- U32 values of a byte string. -/
def u32s (n : Nat) (bs : Bytes) : List Nat := (List.range n).map fun i => fieldAt bs (4 * i) 4

/-- Output rows of a gather. -/
def gatherRows (b : Bytes) (tb : Table) (bags : List (Nat × Nat)) (rows : List Bytes) : List Bytes :=
  if tcMode b = 0 then rows.map fun r => if tcFp32 b then wordBytes (rowWords tb.d r) else r
  else
    let ws := rows.map (rowWords tb.d)
    bags.map fun q => wordBytes (pooled (tabDim tb.d) (decide (tcMode b = 2)) ((ws.drop q.1).take q.2))

/-- Write rows in order as far as their pages are ready and remote operations have room; how many are written. -/
def writeRows (x : Inflight) : List (Nat × Bytes) → Nat → State → Except State (State × Nat)
  | [], n, s => .ok (s, n)
  | w :: ws, n, s =>
    let t := cmdTenant x
    match cmdReady s x t walkHubControl .write (bytePages w.1 w.2.length) with
    | .wait s1 => .ok (s1, n)
    | .fault k c p => .error (tabFault s x 1 k c p)
    | .ready =>
      let parts := pageParts w.1 w.2.length
      if !partsRoom s t (parts.map (·.1)) then .ok (s, n) else writeRows x ws (n + 1) (partsWrite s x t parts w.2)

/-- The gather once it runs: what it reads stays ready while it waits, and its rows are written one after another. -/
def gatherGo (s : State) (x : Inflight) (b : Bytes) (tb : Table) : Except State State := do
  let first := (tcIva b, 4 * tcNidx b) :: if tcMode b = 0 then [] else [(tcBagva b, 4 * (tcNbag b + 1))]
  let _ ← readyTab s x .read first
  let (s1, ib) ← rdTab s x (tcIva b) (4 * tcNidx b)
  let is := u32s (tcNidx b) ib
  let (s2, bb) ← if tcMode b = 0 then .ok (s1, []) else rdTab s1 x (tcBagva b) (4 * (tcNbag b + 1))
  match if tcMode b = 0 then some [] else bagsOf (tcNidx b) (u32s (tcNbag b + 1) bb) with
  | none => .error (badBlock (forgetCmd s2 x.ref) x.ref 32)
  | some bags =>
    let t := cmdTenant x
    let _ ← readyTab s2 x .read (first ++ remapRanges tb is)
    let rows := is.map (storedRow s2 x tb)
    let reads := rows.map fun q => match q, tb.defrow with
      | some r, _ => (rowVa tb r, tabRowBytes tb.d)
      | none, some va => (va, tabRowBytes tb.d)
      | none, none => (0, 0)
    let _ ← readyTab s2 x .read (first ++ remapRanges tb is ++ reads)
    let out := gatherRows b tb bags (rows.map (logicalRow s2 x tb))
    let writes := (enumFrom 0 out).map fun q => (tcDva b + q.1 * tcDstride b, q.2)
    let (s3, n) ← writeRows x (writes.drop x.acted.length) x.acted.length s2
    if n < writes.length then .ok (modInfl s3 x.ref fun y => { y with acted := List.replicate n (t, 0) }) else
    let ps := distinctN ((remapRanges tb is ++ reads ++ writes.map fun w => (w.1, w.2.length)).flatMap fun q => bytePages q.1 q.2)
    .ok (modInfl (touchCmd s3 x.ref t walkHubControl ps) x.ref fun y =>
      { y with done := 1, got := [((rows.filter (·.isNone)).length, [])] })

/-- A command whose writes are made ends when every peer has answered. -/
def tabSettle (s : State) (r : CmdRef) : State :=
  match inflAt s r with
  | some x =>
    if x.done ≠ 1 ∨ x.sent ≠ [] then s else
    match x.lost with
    | some (k, c, p) => tabFault s x 1 k c p
    | none => tabEnd s r ((x.got.head?.map (·.1)).getD 0)
  | none => s

def execTableGather (r : CmdRef) (s : State) : Res :=
  runBlock s r 0x0A01 (fun _ b => tableChecks true b) fun s1 x b =>
    if (tabVer s1 r).isNone ∧ (endWaiting x).isNone then tabBegin s1 x true b else
    tabGo s1 x b fun tb => if x.done = 1 then tabSettle s1 r else tabSettle (flowEnd (gatherGo s1 x b tb)) r

/-! ### SCATTER (R233) -/

/-- Mode of a scatter's writes: under its stamp, or added. -/
def tabMode (b : Bytes) : Nat := if tcMode b = 1 then 2 else 1

/-- Write one entry: the parts this module holds, and to the peers of window pages. -/
def scatterEntry (s : State) (x : Inflight) (mode va : Nat) (bs stamp : Bytes) : State :=
  let t := cmdTenant x
  (rowParts va bs.length (modeWidth mode)).foldl (fun st q =>
    match winOf s t (va + q.1) with
    | none =>
      (match leafAt st t (pageOf (va + q.1)) with
       | some l => if l.psn then modInfl st x.ref fun y => { y with lost := y.lost.orElse fun _ => some (0x04, l.cause, pageOf (va + q.1)) }
                   else modeWrite st t (va + q.1) mode ((bs.drop q.1).take q.2) stamp
       | none => st)
    | some pw =>
      let rva := (pw.rpage + (pageOf (va + q.1) - pw.lpage)) * 65536 + (va + q.1) % 65536
      match startRemote st { kind := 1, module := pw.module, tenant := t, va := rva, len := q.2, data := (bs.drop q.1).take q.2, mode := mode,
                             stamp := if mode = 1 then stamp else [], owner := .cmd x.ref.fn x.ref.mbox x.ref.cid, off := pageOf (va + q.1) } with
      | none => st
      | some (st1, tx) => modInfl st1 x.ref fun y => { y with sent := y.sent ++ [tx] }) s

/-- Apply entries in batch order from the n-th on, while their pages are ready and remote operations have room (R322); how many are
done.  A page lost since the check keeps no other entry from applying (R233). -/
def scatterLoop (x : Inflight) (mode : Nat) (stamp : Nat → Bytes) : List (Option Nat × Bytes) → Nat → State → State × Nat
  | [], n, s => (s, n)
  | (none, _) :: es, n, s => scatterLoop x mode stamp es (n + 1) s
  | (some va, bs) :: es, n, s =>
    if 32768 < s.fab.rem.length + 2 then (s, n) else
    match cmdReady s x (cmdTenant x) walkHubControl .write (bytePages va bs.length) with
    | .wait s1 => (s1, n)
    | .ready => scatterLoop x mode stamp es (n + 1) (scatterEntry s x mode va bs (stamp n))
    | .fault k c p =>
      let s1 := if k = 0x04 then s else modInfl s x.ref fun y => { y with lost := y.lost.orElse fun _ => some (k, c, p) }
      scatterLoop x mode stamp es (n + 1) (if k = 0x04 then scatterEntry s1 x mode va bs (stamp n) else s1)

/-- Check the destination pages in order, promoting each MISS (R233); how far the check has come is kept. -/
def checkDsts (s : State) (x : Inflight) (seen : List Nat) : List Nat → Except State Unit
  | [] => .ok ()
  | p :: ps =>
    if x.checked.contains p then checkDsts s x seen ps else
    match cmdPage s x (cmdTenant x) walkHubControl p .write with
    | .ready => checkDsts s x (seen ++ [p]) ps
    | .wait s1 => .error (modInfl s1 x.ref fun y => { y with checked := y.checked ++ seen })
    | .fault k c q => .error (tabFault s x 1 k c q)

/-- The scatter once it runs: every destination row is translated and checked before the first entry applies. -/
def scatterGo (s : State) (x : Inflight) (b : Bytes) (tb : Table) : Except State State := do
  let n := tabRowBytes tb.d
  let (s1, ib) ← rdTab s x (tcIva b) (4 * tcNidx b)
  let is := u32s (tcNidx b) ib
  let first := (tcIva b, 4 * tcNidx b) :: remapRanges tb is
  let _ ← readyTab s1 x .read first
  let rows := is.map fun i => (storedRow s1 x tb i).map (rowVa tb)
  let dsts := rows.filterMap fun q => q.map fun va => (va, n)
  let srcs := (List.range is.length).map fun i => (tcDva b + i * tcDstride b, n)
  let _ ← readyTab s1 x .read (first ++ srcs)
  let _ ← if x.acted = [] then checkDsts s1 x [] (distinctN (dsts.flatMap fun q => bytePages q.1 q.2)) else .ok ()
  let stamp (i : Nat) : Bytes := stampBytes { mer := tabStart s1 x.ref, module := s1.fab.module, source := 0x0800 + x.ref.fn, entry := i }
  let first := x.acted.length
  let es := (List.zip rows (srcs.map fun q => readyBytes s1 x q.1 n)).drop first
  let r := scatterLoop x (tabMode b) stamp es first s1
  let t := cmdTenant x
  let ps := if first = 0 then distinctN ((remapRanges tb is ++ srcs ++ dsts).flatMap fun q => bytePages q.1 q.2) else []
  let ninv := (rows.filter (·.isNone)).length
  .ok (modInfl (touchCmd r.1 x.ref t walkHubControl ps) x.ref fun y =>
    { y with acted := List.replicate r.2 (t, 0), done := if r.2 = is.length then 1 else 0,
             got := if r.2 = is.length then [(ninv, [])] else y.got })

def execTableScatter (r : CmdRef) (s : State) : Res :=
  runBlock s r 0x0A02 (fun _ b => tableChecks false b) fun s1 x b =>
    if (tabVer s1 r).isNone ∧ (endWaiting x).isNone then tabBegin s1 x false b else
    tabGo s1 x b fun tb => if x.done = 1 then tabSettle s1 r else tabSettle (flowEnd (scatterGo s1 x b tb)) r

end Sys2Proof.Machine
end

