-- ==== Sys2Proof/Machine/TextUnits.lean ====
section
/-! DEFINITION. Text engines' units for sequences, and the TEXT commands (R276, R281 to R301, Table 11.1). -/

namespace Sys2Proof.Machine

/-- Run a unit of a kind on its sequence: one that waits stays with its engine, a fault ends the sequence (R271, R276). -/
def unitRun (s : State) (p : TextUnit → Bool) (work : State → Nat → (Nat × TextUnit) → Nat → Seq → Except UnitStop State) : State :=
  match pickUnit s p with
  | none => s
  | some (s1, n, q) =>
    match (unitSeq q.2).bind fun i => (seqAt s1 i).map fun x => (i, x) with
    | none => freeEngine s1 n
    | some (i, x) =>
      match work s1 n q i x with
      | .ok s2 => s2
      | .error (.wait s2) => s2
      | .error (.fault s2 k a c p) => seqFault (unitDone s2 n q) i (srcText n) k a c p

/-- A sequence's gazetteer. -/
def seqGaz (s : State) (e : Nat) (x : Seq) (q : Nat × Nat) : Except UnitStop (State × Bytes) :=
  match verAt s q with
  | some v => rdGaz s e x.tenant q v
  | none => .ok (s, [])

/-! ### Tokenisation (R281, R283) -/

/-- Tokenise a sequence's input. -/
def tokeniseSeq (s : State) (n : Nat) (u : Nat × TextUnit) (i : Nat) (x : Seq) : Except UnitStop State := do
  let tcb := x.ts.tcb
  let (s1, g) ← seqGaz s n x x.gen0
  let ts := tokens g (tcSpecial tcb) x.inp
  if sqKind x ≠ 3 then return promptKnown (unitDone s1 n u) i (bosOf g (tcAddbos tcb) ++ ts)
  let (s2, ge) ← match x.encoder with
    | some q => seqGaz s1 n x q
    | none => .ok (s1, g)
  let te := if gzDiffer g ge then tokens ge (tcSpecial tcb) x.inp else ts
  return modSeq (unitDone s2 n u) i fun y => { y with qgen := ts, qenc := bosOf ge (tcAddbos tcb) ++ te, stage := .encode }

def execTokeniseUnit (s : State) : Res :=
  .next (flushAreas (unitRun s isTokenise tokeniseSeq))

/-! ### Packing (R287, R289) -/

/-- The passages' tokens in rank order; one without a directory entry is skipped. -/
def readPassages (a : Bytes) (t : Nat) : List Nat → State → Except UnitStop (State × List (List Nat))
  | [], s => .ok (s, [])
  | i :: is, s => do
    let (s1, p) ← passage a i s t
    let (s2, r) ← readPassages a t is s1
    return (s2, match p with | some ts => ts :: r | none => r)

/-- Words of a sequence's template: of its block's own table, or of the gazetteer (R287). -/
def seqTemplate (s : State) (x : Seq) (g : Bytes) : Except UnitStop (State × List Nat) :=
  let n := apTemplate x.ablk
  if tcNtpl x.ts.tcb = 0 then .ok (s, gzTpl g n) else do
  let (s1, e) ← rdUnit s x.tenant (tcTplva x.ts.tcb + 16 * n) 16
  rdTpl s1 x.tenant e

/-- Pack a sequence's prompt. -/
def packSeq (s : State) (e : Nat) (u : Nat × TextUnit) (i : Nat) (x : Seq) : Except UnitStop State := do
  let (s1, g) ← seqGaz s e x x.gen0
  let (s2, ws) ← seqTemplate s1 x g
  let (s3, ps) ← readPassages x.ablk x.tenant x.passages s2
  let maxctx := ((verAt s x.gen0).map svMaxctx).getD 0
  let s4 := unitDone s3 e u
  match packPrompt g (tcAddbos x.ts.tcb) ws x.qgen ps (maxctx - 1) with
  | none => return endSeq s4 i 5 stOk 0
  | some (ts, n) => return promptKnown (modSeq s4 i fun y => { y with npass := n }) i ts

def execPackUnit (s : State) : Res :=
  .next (flushAreas (unitRun s isPack packSeq))

/-! ### Tokens (R293, R295, R298 to R300) -/

/-- What follows a committed token that ends nothing: the next one, an EMPTY output, the context limit, or the ring. -/
def afterToken (s : State) (i : Nat) (x : Seq) (rest : List Nat) : State :=
  if rest ≠ [] then flushSeq (addUnit s x.tenant (.token i)) i
  else if x.emptyNext then endSeq s i 4 stConstraint 0
  else if ((verAt s x.gen0).map svMaxctx).getD 0 ≤ x.c then endSeq s i 5 stOk 0
  else flushSeq s i

/-- Render, check and release one committed token. -/
def renderToken (s : State) (i : Nat) (x : Seq) (g : Bytes) (t : Nat) (rest : List Nat) : State :=
  let tcb := x.ts.tcb
  let raw := x.ts.asm ++ tokenBytes g tcb t
  let a := assemble (raw.length + 1) raw
  let f := stopFeed x.ts.stops a.1 x.ts.held
  let s1 := modSeq (countEv s srcSeq 0x0502 x.tenant) i fun y => { y with
    emit := rest, ngen := y.ngen + 1, outq := y.outq ++ f.1, ts := { y.ts with asm := a.2, held := f.2.1 } }
  match f.2.2 with
  | some k => endSeq s1 i 3 stOk k
  | none =>
    if (tcEos g tcb).contains t then endSeq s1 i 1 stOk 0
    else if sqMaxnew x ≤ x.ngen + 1 then endSeq s1 i 2 stOk 0
    else afterToken s1 i x rest

/-- A sequence's token unit: a token outside its constraint set ends the sequence (R295). -/
def tokenSeq (s : State) (e : Nat) (u : Nat × TextUnit) (i : Nat) (x : Seq) : Except UnitStop State := do
  match x.emit with
  | [] => return freeEngine s e
  | t :: rest =>
    let (s1, g) ← seqGaz s e x x.gen0
    let (s2, cs) ← rdCons s1 x.tenant x.ts.tcb
    let s3 := unitDone s2 e u
    if !inSet (gzNtok g) (conSet (gzNtok g) cs (genToks x x.emit.length)) t then return endSeq s3 i 8 stBadParam 0
    else return renderToken s3 i x g t rest

def execTokenUnit (s : State) : Res :=
  .next (unitRun s isToken tokenSeq)

/-- A draft position's control record is prepared (R262, R294): the draft step that takes it may be formed. -/
def draftSeq (s : State) (e : Nat) (u : Nat × TextUnit) (i : Nat) (x : Seq) : Except UnitStop State := do
  let (s1, _, _) ← seqCons s x
  return modSeq (unitDone s1 e u) i fun y => { y with dready := true }

def execDraftPositionUnit (s : State) : Res :=
  .next (unitRun s isDraft draftSeq)

/-! ### TEXT commands (R301, Table 11.13) -/

def textChecks (tok : Bool) (b : Bytes) : List (Nat × Bool) :=
  [(8, decide (fld b 8 7 3 ≠ 0)), (8, if tok then flg b 8 2 else flg b 8 1 || flg b 8 0), (9, !zeroBytes b 9 15),
   (16, decide (fld b 16 63 57 ≠ 0)), (24, decide (fieldAt b 24 4 = 0 ∨ 1048576 < fieldAt b 24 4)), (32, decide (fld b 32 63 57 ≠ 0)),
   (40, !zeroBytes b 40 47), (56, !zeroBytes b 56 63)]

/-- End a TEXT command on a fault that its engine has met (R186, R301). -/
def textFault (s : State) (e : Nat) (x : Inflight) (acc kind cause page : Nat) : State :=
  cmdFault (forgetCmd s x.ref) x (srcText e) kind acc cause page 0

/-- Read for a TEXT command; the error is the state in which it waits or has ended. -/
def rdText (s : State) (e : Nat) (x : Inflight) (va n : Nat) : Except State (State × Bytes) :=
  match cmdRead s x (cmdTenant x) walkHubControl va n with
  | .wait s1 => .error s1
  | .fault k c p => .error (textFault s e x 0 k c p)
  | .ok s1 bs => .ok (s1, bs)

/-- Bind the version (R219), and wait for an engine: the error is the state in which the command waits or has ended. -/
def textStart (s : State) (x : Inflight) (b : Bytes) (u : TextUnit) : Except State (State × Nat) := do
  let s1 ← if (tabVer s x.ref).isSome then pure s else
    match bindVer s (cmdTenant x) (fieldAt b 0 4) (fieldAt b 4 4) with
    | .error st => throw (complete s x.ref st 0 0)
    | .ok q => pure (addUnit (touchVer { s with models := { s.models with binds := s.models.binds ++ [(x.ref, q)] } } q) (cmdTenant x) u)
  let s2 := modServing s1 (fillEngines 8)
  match s2.serving.engines.find? fun e => decide (e.2.2 = u) with
  | none => throw s2
  | some e => return (s2, e.1)

/-- The gazetteer of a command's version, read by its engine. -/
def textGaz (s : State) (e : Nat) (x : Inflight) : Except State (State × Bytes) :=
  match tabVer s x.ref with
  | none => .error s
  | some q =>
    match verAt s q with
    | none => .error s
    | some v =>
      if v.text.isNone then .error (badBlock (forgetCmd s x.ref) x.ref 0) else
      match rdGaz s e (cmdTenant x) q v with
      | .ok r => .ok r
      | .error (.wait s1) => .error s1
      | .error (.fault s1 k a c p) => .error (textFault s1 e x a k c p)

/-- Write a result of `full` elements, of which these bytes are the part that fits: the unit is done. -/
def textWrite (s : State) (e : Nat) (x : Inflight) (b : Bytes) (u : TextUnit) (full wrote : Nat) (bs : Bytes) : State :=
  match cmdWrite s x (cmdTenant x) walkHubControl (fld b 32 56 0) bs with
  | .wait s1 => s1
  | .fault k c p => textFault s e x 1 k c p
  | .ok s1 _ =>
    unitDone (modInfl s1 x.ref fun y => { y with done := 1, got := [(if wrote < full then stShort else stOk, leBytes 4 full ++ leBytes 4 wrote)] })
      e (cmdTenant x, u)

/-- Once every write is acknowledged the command ends. -/
def textSettle (s : State) (r : CmdRef) : State :=
  match inflAt s r with
  | some x =>
    if x.done ≠ 1 ∨ x.sent ≠ [] then s else
    match x.lost, x.got with
    | some (k, c, p), _ => textFault s 0 x 1 k c p
    | none, (st, res) :: _ => endBlock (forgetCmd s r) r st res
    | none, [] => s
  | none => s

/-- Run a TEXT command's body until its result is written. -/
def textGo (s : State) (x : Inflight) (go : Except State State) : State :=
  match endWaiting x with
  | some (st, res) => blockDone s x st 0 0 res
  | none =>
    if x.done = 1 then textSettle s x.ref else
    match x.stopped with
    | some st => complete (forgetCmd s x.ref) x.ref st 0 0
    | none => textSettle (flowEnd go) x.ref

def execTextTokenise (r : CmdRef) (s : State) : Res :=
  runBlock s r 0x0801 (fun _ b => textChecks true b) fun s1 x b =>
    textGo s1 x do
      let (s2, e) ← textStart s1 x b (.cmdTok r)
      let (s3, g) ← textGaz s2 e x
      let (s4, inp) ← rdText s3 e x (fld b 16 56 0) (fieldAt b 24 4)
      let ts := bosOf g (flg b 8 0) ++ tokens g (flg b 8 1) inp
      let out := ts.take (fieldAt b 28 4)
      return textWrite s4 e x b (.cmdTok r) ts.length out.length (tokBytes out)

/-- The characters that fit, whole. -/
def fitChars : Nat → List Bytes → Bytes
  | _, [] => []
  | room, c :: cs => if c.length ≤ room then c ++ fitChars (room - c.length) cs else []

/-- Text of a list of tokens without stop strings (R298), ended as EOS does. -/
def detokenise (g : Bytes) (showSpecial : Bool) (ts : List Nat) : List Bytes :=
  let tcb := tcbDefault.take 2 ++ leBytes 1 (bit01 showSpecial * 4 + 1) ++ tcbDefault.drop 3
  let raw := ts.flatMap (tokenBytes g tcb)
  (assemble (raw.length + 1) raw).1

/-- A token unit of the command has run and another follows. -/
def nextToken (s : State) (e : Nat) (x : Inflight) : State :=
  let t := cmdTenant x
  addUnit (unitDone (modInfl s x.ref fun y => { y with toks := y.toks + 1 }) e (t, .cmdDetok x.ref)) t (.cmdDetok x.ref)

/-- One token unit for each ID; the last one writes the text. -/
def execTextDetokenise (r : CmdRef) (s : State) : Res :=
  runBlock s r 0x0802 (fun _ b => textChecks false b) fun s1 x b =>
    textGo s1 x do
      let (s2, e) ← textStart s1 x b (.cmdDetok r)
      let (s3, g) ← textGaz s2 e x
      let n := fieldAt b 24 4
      let (s4, inp) ← rdText s3 e x (fld b 16 56 0) (4 * n)
      let ts := u32s n inp
      if ts.any fun t => decide (gzNtok g ≤ t) then throw (badBlock (forgetCmd s4 r) r 16)
      if x.toks + 1 < n then return nextToken s4 e x
      let cs := detokenise g (flg b 8 2) ts
      let out := fitChars (fieldAt b 28 4) cs
      return textWrite s4 e x b (.cmdDetok r) ((cs.map (·.length)).sum) out.length out

end Sys2Proof.Machine
end

