-- ==== Sys2Proof/Machine/SeqMoves.lean ====
section
/-! DEFINITION. Export, import and moves of sequences; messages of the sequencer (R265, R273, R274, R323, Table 10.10). -/

namespace Sys2Proof.Machine

/-! ### The image (R273, Table 10.10) -/

/-- Committed KV blocks of a sequence. -/
def imgBlocks (x : Seq) : Nat := ceilDiv x.c 64

/-- Tiles of the token area. -/
def tokTiles (c : Nat) : Nat := ceilDiv (4 * (c + 1)) 65536

/-- Pages of an image. -/
def imgPages (kvtiles c : Nat) : Nat := 2 + tokTiles c + ceilDiv c 64 * kvtiles

/-- The token ID at a position of a sequence; where its prompt is not known yet there is none to write (log 17). -/
def tokAt (x : Seq) (p : Nat) : Nat := x.toks.getD p (Config.noToken x.order p).toNat

/-- Header of an image. -/
def exportHead (v : ModelVer) (x : Seq) : Bytes :=
  leBytes 4 0x50584553 ++ leBytes 4 v.modelid ++ leBytes 4 v.build ++ leBytes 4 x.c ++ leBytes 4 (tokAt x x.c) ++ leBytes 4 x.ngen
    ++ leBytes 4 (sqMaxnew x) ++ leBytes 1 (sqNdraft x) ++ leBytes 1 (sqPrio x) ++ leBytes 2 x.flags ++ leBytes 8 (sqSalt x) ++ leBytes 8 x.prod
    ++ leBytes 8 x.submitt ++ leBytes 4 (imgBlocks x)

/-- A byte string with its length before it. -/
def lenBytes (bs : Bytes) : Bytes := leBytes 1 bs.length ++ bs

/-- What a text state holds, and its reading (R277). -/
def textBytes (t : TextState) : Bytes := t.tcb ++ leBytes 1 t.stops.length ++ t.stops.flatMap lenBytes ++ lenBytes t.asm ++ lenBytes t.held

/-- Byte strings with lengths before them, n of them, and the rest. -/
def takeLens : Nat → Bytes → List Bytes × Bytes
  | 0, bs => ([], bs)
  | n + 1, bs =>
    let k := fieldAt bs 0 1
    let r := takeLens n (bs.drop (1 + k))
    ((bs.drop 1).take k :: r.1, r.2)

def textOf (bs : Bytes) : TextState :=
  let n := fieldAt bs 128 1
  let a := takeLens n (bs.drop 129)
  let b := takeLens 2 a.2
  { tcb := bs.take 128, stops := a.1, asm := b.1.getD 0 [], held := b.1.getD 1 [] }

/-- The whole image of a sequence. -/
def exportImage (s : State) (x : Seq) (v : ModelVer) : Except UnitStop (State × Bytes) := do
  let n := svKvtiles v * 65536
  let rd (acc : Except UnitStop (State × Bytes)) (b : Nat) : Except UnitStop (State × Bytes) := do
    let (s1, bs) ← acc
    let (s2, k) ← rdUnit s1 x.tenant (wsVa v (svN v 60 4 + b * svKvtiles v)) n
    return (s2, bs ++ k)
  let (s1, kv) ← (x.btab.take (imgBlocks x)).foldl rd (.ok (s, []))
  return (s1, zeroTo 65536 (exportHead v x) ++ zeroTo (tokTiles x.c * 65536) (tokBytes ((List.range (x.c + 1)).map (tokAt x)))
    ++ leBytes 65536 (Config.textCode (BitVec.ofNat 524288 (leVal (textBytes x.ts)))).toNat ++ kv)

/-! ### A step boundary for a command (R273, R274) -/

/-- How a command finds its sequence. -/
inductive AtBound where
  | done (s : State)
  | wait (s : State)
  | ready (i : Nat) (x : Seq) (v : ModelVer)

/-- Is a sequence at a step boundary (Table 10.5): no step, batch or unit works on it, and none of its emitted tokens is being checked?  A
unit that waits for an engine is not at work, but the first boundary is the end of the tokenisation. -/
def atRest (s : State) (i : Nat) (x : Seq) : Bool :=
  x.ending.isNone && !x.cancelled && decide (x.emit = []) && !x.emptyNext && decide (x.outq = []) && !inAnyStep s i x && !inBatch s i
    && decide (x.stage ≠ .admission ∧ x.stage ≠ .tokenise) && !(s.serving.engines.any fun e => decide (unitSeq e.2.2 = some i))

/-- Wait until a sequence is at a step boundary, for a move also until it is DECODE; it enters no step meanwhile. -/
def atBoundary (s : State) (c : Inflight) (id : Nat) (move : Bool) : AtBound :=
  match namedSeq s (cmdTenant c) id with
  | .error st => .done (complete s c.ref st 0 0)
  | .ok (i, x) =>
    if x.st = .moved then .done (badParam s c.ref 16) else
    if x.xport.isSome ∧ x.xport ≠ some c.ref then .done (complete s c.ref stBusy 0 0) else
    match verAt s x.gen0 with
    | none => .done (complete s c.ref stNotFound 0 0)
    | some v =>
      let y := { x with xport := some c.ref }
      let s1 := modSeq s i fun z => { z with xport := some c.ref }
      if atRest s i x ∧ (move = false ∨ x.st = .decode) then .ready i y v else .wait s1

/-- The command lets go of its sequence. -/
def letGo (s : State) (i : Nat) : State := modSeq s i fun z => { z with xport := none }

/-- Read the image for a command, its sequence kept from entering a step; a fault of the sequencer ends the sequence (R271). -/
def readImage (s : State) (c : Inflight) (i : Nat) (x : Seq) (v : ModelVer) : Except State (State × Bytes) :=
  let s1 := modSeq s i fun z => { z with xport := some c.ref }
  match exportImage s1 x v with
  | .ok r => .ok r
  | .error (.wait s2) => .error s2
  | .error (.fault s2 k a p q) => .error (complete (seqFault (letGo s2 i) i srcSeq k a p q) c.ref (faultStatus k) 0 0)

/-! ### SEQ.EXPORT (R273) -/

def exportChecks (e : Bytes) : List (Nat × Bool) :=
  [(24, decide (par e 8 8 % 65536 ≠ 0))]

/-- Export a sequence: with DETACH it then ends CANCELLED, FLAGS.MOVED set. -/
def seqExport (s : State) (c : Inflight) (e : Bytes) (detach : Bool) : State :=
  if c.done = 1 then
    if c.sent ≠ [] then s else
    match namedSeq s (cmdTenant c) (par e 0 4) with
    | .error _ => complete s c.ref stOk ((c.got.head?.map (·.1)).getD 0) 0
    | .ok (i, _) =>
      match c.lost with
      | some (k, q, p) => cmdFault (letGo s i) c srcSeq k 1 q p 0
      | none =>
        let s1 := letGo s i
        complete (if detach then endSeq (setFlag s1 i 5) i 6 stCancelled 0 else s1) c.ref stOk ((c.got.head?.map (·.1)).getD 0) 0
  else
  match atBoundary s c (par e 0 4) false with
  | .done s1 => s1
  | .wait s1 => s1
  | .ready i x v =>
    let n := imgPages (svKvtiles v) x.c
    if par e 16 4 < n then complete (letGo s i) c.ref stNoFit 0 0 else
    match readImage s c i x v with
    | .error s1 => s1
    | .ok (s1, img) =>
      match cmdWrite s1 c (cmdTenant c) walkHubControl (parFld e 8 56 0) img with
      | .wait s2 => s2
      | .fault k q p => cmdFault (letGo s1 i) c srcSeq k 1 q p 0
      | .ok s2 _ => modInfl s2 c.ref fun y => { y with done := 1, got := [(n, [])] }

/-- A class U command is commanded until its writes are acknowledged; one without any ends at once. -/
def exportRun (s : State) (r : CmdRef) (e : Bytes) (detach : Bool) : State :=
  match inflAt s r with
  | none => s
  | some c =>
    let s1 := if c.done = 1 then s else seqExport s c e detach
    match inflAt s1 r with
    | some c1 => if c1.done = 1 then seqExport s1 c1 e detach else s1
    | none => s1

def execSeqExportSnapshot (r : CmdRef) (s : State) : Res :=
  runCmdIf s r 0x0705 (fun e => !parFlg e 4 0) (fun _ e => exportChecks e) fun s1 _ e => exportRun s1 r e false

def execSeqExportDetach (r : CmdRef) (s : State) : Res :=
  runCmdIf s r 0x0705 (fun e => parFlg e 4 0) (fun _ e => exportChecks e) fun s1 _ e => exportRun s1 r e true

/-! ### SEQ.IMPORT (R273) -/

/-- Where the text of an imported sequence goes, and who asked. -/
structure ImportTo where
  tenant : Nat
  fn : Nat
  pasid : Option Nat := none
  outaddr : Nat := 0
  outlog2 : Nat := 12
  vector : Nat := 0x7FF
  stub : Option (Nat × Nat) := none
  /-- Owner of the writes to host memory. -/
  owner : Nat := 0

/-- The submission block of an imported sequence. -/
def importBlk (h plen : Nat) (hd : Bytes) (d : ImportTo) : Bytes :=
  leBytes 4 h ++ leBytes 4 0 ++ leBytes 1 1 ++ leBytes 1 (fieldAt hd 29 1) ++ leBytes 1 (fieldAt hd 28 1) ++ leBytes 1 0 ++ leBytes 4 plen ++ leBytes 8 0
    ++ leBytes 8 d.outaddr ++ leBytes 1 d.outlog2 ++ leBytes 1 0 ++ leBytes 2 d.vector ++ leBytes 4 (fieldAt hd 24 4) ++ leBytes 8 (fieldAt hd 32 8)
    ++ List.replicate 16 0

/-- Is an image header good for a version? -/
def headGood (v : ModelVer) (hd : Bytes) : Bool :=
  decide (fieldAt hd 0 4 = 0x50584553 ∧ fieldAt hd 4 4 = v.modelid ∧ fieldAt hd 8 4 = v.build ∧ fieldAt hd 12 4 < svMaxctx v)
    && decide (fieldAt hd 56 4 = ceilDiv (fieldAt hd 12 4) 64 ∧ fieldAt hd 20 4 ≤ fieldAt hd 12 4 + 1)
    && decide (1 ≤ fieldAt hd 24 4 ∧ fieldAt hd 28 1 ≤ 16 ∧ fieldAt hd 29 1 ≤ 7) && zeroBytes hd 60 65535

/-- How an import goes on. -/
inductive Import where
  | refuse (status : Nat)
  | fault (s : State) (kind acc cause page : Nat)
  | wait (s : State)
  | ok (s : State) (slot : Nat)

/-- Enter the sequence that an image describes, its KV blocks written: `kv` holds them in order (R273). -/
def enterImage (s : State) (q : Nat × Nat) (v : ModelVer) (d : ImportTo) (hd : Bytes) (toks : List Nat) (ts : TextState) (kv : Bytes) : Import :=
  let draft := ((modelAt s q.1).map (·.serve.draft)).getD 0
  let dr := if fieldAt hd 28 1 = 0 ∨ draft = 0 then none else match bindRole s d.tenant draft 0 4 0 with | .ok z => some z | .error _ => none
  let k : SeqBind := { gen0 := q, drafter := dr, encoder := none, rerank := none }
  if !seqRoom s d.tenant k then .refuse stBusy else
  match freeSlot s with
  | none => .refuse stBusy
  | some i =>
    let c := fieldAt hd 12 4
    let plen := c + 1 - fieldAt hd 20 4
    let x : Seq :=
      { gen := tabGet s.serving.gens i 1, tenant := d.tenant, fn := d.fn, pasid := d.pasid, blk := importBlk q.1 plen hd d, gen0 := q, drafter := dr
        bt := freeTable s q, dbt := (match dr with | some z => freeTable s z | none => 0), st := .decode, stage := .run, toks := toks, plen := some plen
        c := c, ngen := fieldAt hd 20 4, k := fieldAt hd 28 1, flags := fieldAt hd 30 2, prod := fieldAt hd 40 8, cons := fieldAt hd 40 8
        submitt := fieldAt hd 48 8, order := s.serving.nextOrder, since := s.clk.ticks, lastStep := s.clk.ticks, ts := ts, stub := d.stub }
    let gate := (polAt s d.tenant).admitOn
    if gate ∧ roomFor s q v [] < resvOf x plen then .refuse stDeferred else
    let s1 := [some q, dr].foldl (fun st o => match o with | some z => touchVer st z | none => st) s
    let s2 := modServing (putSeq s1 i { x with resv := if gate then resvOf x plen else 0 }) fun w => { w with nextOrder := w.nextOrder + 1 }
    match allocKv s2 q i false [] c with
    | none => .refuse stNoFit
    | some s3 =>
      let n := svKvtiles v * 65536
      let bs := ((seqAt s3 i).map (·.btab)).getD []
      let ws := (enumFrom 0 bs).map fun b => (wsVa v (svN v 60 4 + b.2 * svKvtiles v), (kv.drop (n * b.1)).take n)
      match engReady s3 d.tenant walkHubControl .write (ws.flatMap fun w => bytePages w.1 w.2.length) with
      | .wait s4 => .wait { s4 with serving := s.serving, models := s.models }
      | .fault kd c1 p => .fault s kd 1 c1 p
      | .ready =>
        let s4 := ws.foldl (fun st w => hubWrite st d.tenant w.1 w.2) s3
        .ok (if d.stub.isSome then s4 else hostPutP s4 d.owner d.fn d.pasid d.tenant 6 d.outaddr (leBytes 8 x.prod)) i

/-- Split a whole image and enter its sequence. -/
def enterBytes (s : State) (q : Nat × Nat) (v : ModelVer) (d : ImportTo) (img : Bytes) : Import :=
  let hd := img.take 65536
  if !headGood v hd then .refuse stBadParam else
  let c := fieldAt hd 12 4
  let tt := tokTiles c * 65536
  let body := img.drop 65536
  let toks := (List.range (c + 1)).map fun i => fieldAt body (4 * i) 4
  enterImage s q v d hd toks (textOf (leBytes 65536 (Config.textCode.symm (BitVec.ofNat 524288 (leVal ((body.drop tt).take 65536)))).toNat)) (body.drop (tt + 65536))

def importChecks (fn : Nat) (e : Bytes) : List (Nat × Bool) :=
  let vec := parFld e 26 10 0
  [(24, decide (par e 8 8 % 65536 ≠ 0)), (32, decide (par e 16 8 % 4096 ≠ 0)),
   (40, decide (parFld e 24 4 0 < 12 ∨ 24 < parFld e 24 4 0)), (42, decide (vec ≠ 0x7FF ∧ vecCount fn ≤ vec))]

def execSeqImport (r : CmdRef) (s : State) : Res :=
  runCmd s r 0x0706 (fun _ e => importChecks r.fn e) fun s1 x e =>
    let t := cmdTenant x
    let va := parFld e 8 56 0
    let fault (st : State) (k a c p : Nat) : State := cmdFault st x srcSeq k a c p 0
    match bindRole s1 t (par e 0 4) 0 1 0 with
    | .error st => if st.1 = stBadParam then badParam s1 r 16 else complete s1 r st.1 0 0
    | .ok q =>
      match verAt s1 q with
      | none => complete s1 r stNotFound 0 0
      | some v =>
        match cmdRead s1 x t walkHubControl va 65536 with
        | .wait s2 => s2
        | .fault k c p => fault s1 k 0 c p
        | .ok s2 hd =>
          if !headGood v hd then badParam s2 r 24 else
          match cmdRead s2 x t walkHubControl va (imgPages (svKvtiles v) (fieldAt hd 12 4) * 65536) with
          | .wait s3 => s3
          | .fault k c p => fault s2 k 0 c p
          | .ok s3 img =>
            let d : ImportTo := { tenant := t, fn := r.fn, owner := ownCmd r, pasid := mboxPasid s r.fn r.mbox, outaddr := par e 16 8, outlog2 := parFld e 24 4 0, vector := parFld e 26 10 0 }
            match enterBytes s3 q v d img with
            | .refuse st => complete s3 r st 0 0
            | .fault s4 k a c p => fault s4 k a c p
            | .wait s4 => s4
            | .ok s4 i => complete s4 r stOk (match seqAt s4 i with | some y => seqIdOf i y | none => 0) 0

/-! ### SEQ.MOVE (R274) -/

/-- Bytes of an image in one message. -/
def moveChunk : Nat := 655360

/-- The messages that carry an image: kind, SEQID at the origin, THANDLE, length, bytes (log 25). -/
def moveMsgs (t dst id th total : Nat) : Nat → Bytes → List FabMsg
  | 0, _ => []
  | n + 1, bs =>
    if bs = [] then [] else
    seqMsg t 4 dst true (leBytes 4 mkMove ++ leBytes 4 id ++ leBytes 4 th ++ leBytes 8 total ++ leBytes 4 (bs.take moveChunk).length ++ bs.take moveChunk)
      :: moveMsgs t dst id th total n (bs.drop moveChunk)

def execSeqMove (r : CmdRef) (s : State) : Res :=
  runCmd s r 0x0704 noChecks fun s1 x e =>
    if x.done = 1 then
      (match namedSeq s1 (cmdTenant x) (par e 0 4) with
       | .ok _ => s1
       | .error st => complete s1 r st 0 0)
    else
    let m := parFld e 8 16 0
    if m = s1.fab.module then badParam s1 r 24 else
    match atBoundary s1 x (par e 0 4) true with
    | .done s2 => s2
    | .wait s2 => s2
    | .ready i y v =>
      if !peerLive s1 m 4 then complete (letGo s1 i) r stPoison 0 0 else
      match readImage s1 x i y v with
      | .error s2 => s2
      | .ok (s2, img) =>
        let s3 := (moveMsgs (cmdTenant x) m (par e 0 4) (par e 4 4) img.length (img.length / moveChunk + 1) img).foldl sendSeq s2
        modInfl (modSeq s3 i fun z => { z with movedTo := some (m, 0) }) r fun z => { z with done := 1 }

/-- The target's answer to a move: the origin frees the blocks and the sequence turns MOVED, or it goes on here (R274). -/
def moveAnswered (s : State) (src id status nid : Nat) : State :=
  match seqOfId s id with
  | none => s
  | some (i, x) =>
    if x.movedTo ≠ some (src, 0) ∨ x.st = .moved then s else
    let done (st : State) (c : Nat) : State := match x.xport with | some r => complete st r c 0 0 | none => st
    if status ≠ stOk then done (modSeq s i fun y => { y with movedTo := none, xport := none }) status else
    done (modSeq (setFlag (dropBlocks s i) i 5) i fun y => { y with
      st := .moved, movedTo := some (src, nid), xport := none, c := x.c, toks := [], ts := {} }) stOk

/-- The end record of a moved sequence reaches its stub: bytes 17 to 63 of the header as the target would write them. -/
def stubEnds (s : State) (i : Nat) (f : Bytes) : State :=
  let s1 := modSeq s i fun y => { y with
    flags := y.flags ||| fieldAt f 5 2, ngen := fieldAt f 11 4, tbtmax := max y.tbtmax (fieldAt f 23 4 * usTicks) }
  endSeq s1 i (fieldAt f 0 1) (fieldAt f 1 2) (fieldAt f 3 2)

/-- A segment of a move has arrived; the last one admits the sequence and answers the origin.  Where admission waits for a page, so
does the message; nothing of the segment is kept then. -/
def moveSegment (s : State) (t src : Nat) (body : Bytes) : Except State State :=
  let id := fieldAt body 4 4
  let h := fieldAt body 8 4
  let old := s.serving.arriving.find? fun a => decide (a.origin = src ∧ a.id = id)
  let got := (match old with | some a => a.got | none => []) ++ (body.drop 24).take (fieldAt body 20 4)
  let rest := s.serving.arriving.filter fun a => !(decide (a.origin = src ∧ a.id = id))
  if got.length < fieldAt body 12 8 then .ok (modServing s fun v => { v with arriving := rest ++ [{ origin := src, id := id, got := got }] }) else
  let s1 := modServing s fun v => { v with arriving := rest }
  let answer (st : State) (c n : Nat) : State := sendSeq st (seqMsg t 4 src true (leBytes 4 mkMoved ++ leBytes 4 id ++ leBytes 4 c ++ leBytes 4 n))
  match bindRole s1 t h 0 1 0 with
  | .error e => .ok (answer s1 e.1 0)
  | .ok q =>
    match verAt s1 q with
    | none => .ok (answer s1 stNotFound 0)
    | some v =>
      match enterBytes s1 q v { tenant := t, fn := 0, stub := some (src, id) } got with
      | .refuse st => .ok (answer s1 st 0)
      | .fault s2 k _ _ _ => .ok (answer s2 (faultStatus k) 0)
      | .wait s2 => .error { s2 with serving := s.serving }
      | .ok s2 i => .ok (answer s2 stOk (match seqAt s2 i with | some y => seqIdOf i y | none => 0))

/-! ### Messages of the sequencer (R260, R265, R274, R323) -/

/-- The version of a tenant that a message names. -/
def namedVer (s : State) (t : Nat) (b : Bytes) : Option ((Nat × Nat) × ModelVer) :=
  (s.models.models.filter fun m => decide (m.2.tenant = t)).findSome? fun m => (m.2.vers.find? fun v =>
    decide (v.2.imgva = fieldAt b 4 8 ∧ v.2.modelid = fieldAt b 12 4 ∧ v.2.build = fieldAt b 16 4)).map fun v => ((m.1, v.1), v.2)

/-- Requests for an expert reach their home; while its expert area is full they wait in the receive buffer (R260). -/
def takeDispatch (s : State) (t src : Nat) (b : Bytes) : Except State State :=
  match namedVer s t b with
  | none => .ok s
  | some (q, v) =>
    let n := fieldAt b 24 4
    let one (i : Nat) : ExpReq := { layer := fieldAt b 20 2, expert := fieldAt b 22 2, origin := src, num := fieldAt b (28 + i * (8 + reqLen v)) 8
                                    data := (b.drop (36 + i * (8 + reqLen v))).take (reqLen v), due := s.clk.ticks }
    let held := v.sv.gathered.length + (match stepOf v .expert with | some r => r.reqs.length | none => 0)
    if homeCap v < held + n ∧ held ≠ 0 then .error s
    else .ok (modSv s q fun sv => { sv with gathered := sv.gathered ++ (List.range n).map one })

/-- Results of an expert reach the origin. -/
def takeResultMsg (s : State) (t : Nat) (b : Bytes) : Except State State :=
  match namedVer s t b with
  | none => .ok s
  | some (q, v) =>
    takeResults s t q v ((List.range (fieldAt b 20 4)).map fun i =>
      (fieldAt b (24 + i * (8 + resLen v)) 8, (b.drop (32 + i * (8 + resLen v))).take (resLen v)))

/-- What a message to the sequencer does; the error is the state in which it waits. -/
def seqMessage (s : State) (m : FabMsg) : Except State State :=
  let b := m.data
  let kind := fieldAt b 0 4
  let mine := (seqOfId s (fieldAt b 4 4)).filter fun x => decide (x.2.tenant = m.tenant)
  if kind = mkDispatch then takeDispatch s m.tenant m.src b
  else if kind = mkResult then takeResultMsg s m.tenant b
  else if kind = mkMove then moveSegment s m.tenant m.src b
  else match mine with
    | none => .ok s
    | some (i, x) =>
      let fromTarget := decide (x.st = .moved ∧ (x.movedTo.map (·.1)) = some m.src)
      if kind = mkMoved then .ok (moveAnswered s m.src (fieldAt b 4 4) (fieldAt b 8 4) (fieldAt b 12 4))
      else if kind = mkText ∧ fromTarget then .ok (releaseText s i ((b.drop 12).take (fieldAt b 8 4)))
      else if kind = mkEnd ∧ fromTarget then .ok (stubEnds s i (b.drop 8))
      else if kind = mkCancel ∧ (x.stub.map (·.1)) = some m.src then .ok (if fieldAt b 8 4 = 0 then cancelNormal s i x else cancelImmediate s i x)
      else .ok s

/-- The oldest MSG of a service reaches its unit: the sequencer acts on it; no other unit has a use for one (R323). -/
def execMsgReceive (svc : Nat) (s : State) : Res :=
  match s.fab.inbox.find? fun q => decide (q.m.op = 4 ∧ q.m.service = svc) && inTurn s q with
  | none => .next s
  | some q =>
    let pl := police s q
    if pl.2 then .next (rejectMsg pl.1 q) else
    let q1 := { q with policed := true }
    let s1 := holdMsg pl.1 q q1
    if q.m.arg % 65536 ≠ srcSeq then .next (doneMsg s1 q1) else
    match seqMessage s1 q.m with
    | .ok s2 => .next (routeAll (doneMsg s2 q1))
    | .error s2 => .next s2

/-- An ordered flow has had no MACK for RTO: it is sent once more, then fails; sequences that move there are lost (R274, R323). -/
def execOrderedFlowTimeout (dst svc : Nat) (s : State) : Res :=
  let k := dst * 8 + svc
  match tabFind s.fab.txFlows k with
  | none => .next s
  | some f =>
    match f.deadline with
    | none => .next s
    | some d =>
      let s1 := advanceTo s d
      let put (st : State) (g : TxFlow) : State := { st with fab := { st.fab with txFlows := tabPut st.fab.txFlows k g } }
      if !f.resent then
        let s2 := put s1 { f with resent := true, deadline := some (s1.clk.ticks + s1.fab.rto * usTicks) }
        .next (routeAll (f.unacked.foldl sendMsg s2))
      else
        let s2 := put s1 { f with unacked := [], waiting := [], resent := false, deadline := none }
        .next (if svc = 4 then loseStubs s2 dst else s2)

/-! ### The output ring (R265) -/

def execStreamConsPoll (slot : Nat) (s : State) : Res :=
  match seqAt s slot with
  | none => .next s
  | some x =>
    match x.pollAt with
    | none => .next s
    | some t => .next (addReadP (modSeq (advanceTo s t) slot fun y => { y with pollAt := none }) x.pasid x.tenant 6 (.stream slot))

end Sys2Proof.Machine
end

