-- ==== Sys2Proof/Machine/StopCmds.lean ====
section
/-! DEFINITION. Stopping a command: timeouts and DEV.CANCEL (R393 to R395). -/

namespace Sys2Proof.Machine

/-! ### Stopping a command (R393 to R395) -/

/-- Undo what a stopped class X command has done (R393). -/
def undoCmd (s : State) (x : Inflight) : State :=
  match entryOp x.entry with
  | 0x0401 => x.acted.foldl (fun st q =>
      let st1 := match migOf st q.1 q.2 with
        | some m => dropMig (freeDst st m) q.1 q.2
        | none => st
      unmapPage st1 q.1 q.2) s
  | 0x0404 => undoPin s x
  | 0x0501 => undoLoad s x.ref (cmdTenant x)
  | 0x0701 => (s.serving.seqs.filter fun q => decide (q.2.stage = .admission ∧ q.2.xport = some x.ref)).foldl (fun st q => dropAdmit st q.1) s
  | _ => s

/-- Stop a command with a status (R393); whether it could be stopped.  One that waits for its fault record has ended. -/
def stopCmd (s : State) (x : Inflight) (st : Nat) : State × Bool :=
  if x.status.isSome then (s, true) else
  if !x.started then (complete s x.ref st 0 0, true) else
  match stopOf x.entry with
  | .u => (s, false)
  | .x =>
    let s1 := undoCmd s x
    if stepBusy s x then (modInfl s1 x.ref fun y => { y with stopped := some st }, true) else (complete s1 x.ref st 0 0, true)
  | .p =>
    if stepBusy s x then (modInfl s x.ref fun y => { y with stopped := some st }, true)
    else (complete (forgetCmd s x.ref) x.ref st (if entryOp x.entry = 0x0C01 then s.atlas.t4Pool else x.done) 0, true)

/-- A command's timeout expires (R394). -/
def execCommandTimeout (r : CmdRef) (s : State) : Res :=
  match inflAt s r with
  | none => .next s
  | some x =>
    match x.deadline with
    | none => .next s
    | some d =>
      let s1 := modInfl (advanceTo s d) r fun y => { y with deadline := none }
      if x.status.isSome then .next s1 else .next (stopCmd s1 { x with deadline := none } stTimeout).1

/-- The command a DEV.CANCEL names: the oldest of the mailbox with the CID, other than itself. -/
def cancelTarget (s : State) (r : CmdRef) (m cid : Nat) : Option Inflight :=
  let self := s.inflight.findIdx fun x => decide (x.ref = r)
  (enumFrom 0 s.inflight).findSome? fun q =>
    if q.1 ≠ self ∧ q.2.ref = ⟨r.fn, m, cid⟩ ∧ !q.2.mctp then some q.2 else none

/-- What DevCancel requires of its entry (R385): byte offset and whether the field there is at fault. -/
def chkDevCancel (_ : CmdRef) (_ : State) (e : Bytes) : List (Nat × Bool) :=
  [(16, decide (64 < parFld e 0 6 0))]

def execDevCancel (r : CmdRef) (s : State) : Res :=
  runCmd s r 0x0104 (chkDevCancel r)
    fun s1 _ e =>
      match cancelTarget s1 r (parFld e 0 6 0) (par e 2 2) with
      | none => complete s1 r stNotFound 0 0
      | some x =>
        if !x.started then complete (stopCmd s1 x stCancelled).1 r stOk stOk 0 else
        let d := stopCmd s1 x stCancelled
        if d.2 then complete d.1 r stOk stPending 0 else complete s1 r stBusy 0 0

end Sys2Proof.Machine
end

