-- ==== Sys2Proof/Machine/TrafficCmds.lean ====
section
/-! DEFINITION. The egress rows and the FAB group's traffic commands (chapter 13). -/

namespace Sys2Proof.Machine

/-! ### Egress, buckets, gates -/

/-- At a message boundary the port picks the next ready head (R334); the flits of a message that has begun go first. -/
def execEgressSchedule (port : Nat) (s : State) : Res :=
  if port = 48 then .next (hostEgress s)
  else if 48 < port then .next s
  else
    let p := portAt s port
    let s1 := match p.sending with
      | some x => advanceTo s (ceilDiv x.till 25)
      | none => s
    .next (fabEgress s1 port)

/-- At the next multiple of 64 ticks every enabled bucket of a port gains its tokens (R335). -/
def execTokenRefill (port : Nat) (s : State) : Res :=
  let s1 := advance s (64 - merAt s (srcPort port) % 64)
  let g := grainAt s1 (srcPort port)
  if tabHas s1.fab.ports port then
    .next (modPort s1 port fun p => { p with shapers := p.shapers.map fun q => (q.1, bucketFill q.2 g) })
  else .next s1

/-- The running entry of the list in force ends (R338); a message still being sent when its service closes is counted once
(R340). -/
def execGateEntryAdvance (port : Nat) (s : State) : Res :=
  let p0 := portAt s port
  match runningEntry p0 (gateInForce p0 (merAt s (srcPort port))).1 (merAt s (srcPort port)) with
  | none => .next s
  | some (_, left) =>
    let s1 := settleGate (advance s left) port
    let p := portAt s1 port
    match p.sending with
    | some x =>
      if !sentAll s1 p ∧ !x.counted ∧ !openAt p x.svc (merAt s1 (srcPort port)) then
        .next (countEv (modPort s1 port fun y => { y with sending := some { x with counted := true } }) (srcPort port) 0x0306 0)
      else .next s1
    | none => .next s1

/-- Ports a PORT field names. -/
def portsOf (n : Nat) : List Nat := if n = 0x3F then List.range 49 else [n]

/-- Gate commands whose every port has taken over complete. -/
def settleGateActs (s : State) : State :=
  let done := s.time.acts.filter fun a => match a.kind with
    | .gate n => (portsOf n).all fun p => (portAt s p).gpend.isNone
    | _ => false
  let s1 := modTime s fun t => { t with acts := t.acts.filter fun a => !done.contains a }
  done.foldl (fun st a => match a.cmd with | some r => complete st r stOk 0 0 | none => st) s1

/-- The pending list of a port takes over (R339). -/
def execGateTakeover (port : Nat) (s : State) : Res :=
  match (portAt s port).gpend with
  | none => .next s
  | some q =>
    let bound := s.time.acts.any fun a => a.change.isSome && (match a.kind with | .gate n => (portsOf n).contains port | _ => false)
    let loose := s.time.armonly && s.time.acts.any fun a => decide (a.t ≠ 0) && (match a.kind with | .gate n => (portsOf n).contains port | _ => false)
    if bound ∨ loose then .next s
    else .next (settleGateActs (settleGate (advance s (q.start - merAt s (srcPort port))) port))

/-! ### FAB.SHAPER (R337, R344) -/

/-- The set a FAB.SHAPER carries. -/
def shaperSet (e : Bytes) : Bucket :=
  { enable := parFlg e 4 0, empty := parFlg e 4 1, reject := parFlg e 4 2, ovh := sext 8 (par e 5 1), rate := par e 8 4,
    burst := parFld e 12 23 0 }

/-- A PORT field outside 0 to 48 and 0x3F. -/
def portBad (e : Bytes) (off : Nat) : Nat × Bool := (16 + off, decide (48 < parFld e off 5 0 ∧ parFld e off 5 0 ≠ 0x3F))

/-- Checks of FAB.SHAPER. -/
def shaperChecks (e : Bytes) : List (Nat × Bool) :=
  let lv := parFld e 0 1 0
  let b := shaperSet e
  [if lv = 3 then (17, false) else portBad e 1, (18, decide (lv ≠ 0 ∧ lv ≠ 3 ∧ parFld e 2 5 0 ≠ 0)), (19, decide (lv ≠ 1 ∧ parFld e 3 2 0 ≠ 0)),
   (20, decide (lv ≠ 3) && b.reject), (21, decide (b.ovh < -32 ∨ 96 < b.ovh)), (24, decide (2000000 < b.rate)), (28, decide (b.burst < 256))]

/-- Time, in meridian ticks, at which a port comes to its next message boundary. -/
def boundaryAt (s : State) (n : Nat) : Nat :=
  match (portAt s n).sending with
  | some x => merAt s (srcPort n) + (ceilDiv x.till 25 - s.clk.ticks)
  | none => merAt s (srcPort n)

/-- A FAB.SHAPER's set is committed at each bucket it names (R337). -/
def applyShaper (s : State) (e : Bytes) : State :=
  let b := shaperSet e
  let t := parFld e 2 5 0
  if parFld e 0 1 0 = 3 then
    let old := tabGet s.fab.policers t {}
    { s with fab := { s.fab with policers := tabPut s.fab.policers t (bucketCommit old b (grainAt s srcCp)) } }
  else
    let k := match parFld e 0 1 0 with | 0 => t | 1 => 64 + parFld e 3 2 0 | _ => 72
    (portsOf (parFld e 1 5 0)).foldl (fun st n => modPort st n fun p =>
      { p with shapers := tabPut p.shapers k (bucketCommit (shaperAt p k) b (boundaryAt s n / 64)) }) s

/-- EXCEEDED of the policer a FAB.SHAPER names, cleared by the read. -/
def readExceeded (s : State) (e : Bytes) : State × Nat :=
  if parFld e 0 1 0 ≠ 3 then (s, 0) else
  let t := parFld e 2 5 0
  let b := tabGet s.fab.policers t {}
  ({ s with fab := { s.fab with policers := tabUpd s.fab.policers t fun x => { x with exceeded := 0 } } }, b.exceeded)

/-- Commit and answer. -/
def finishShaper (s : State) (r : CmdRef) (e : Bytes) : State :=
  let s1 := applyShaper s e
  let x := readExceeded s1 e
  complete x.1 r stOk x.2 0

def execFabShaper (r : CmdRef) (s : State) : Res :=
  runCmd s r 0x0B07 (fun _ e => shaperChecks e) fun s1 _ e =>
    if schedWaits s1 r then s1
    else if par e 16 8 = 0 then finishShaper s1 r e
    else schedCmd s1 r (par e 16 8) (.shaper e)

/-! ### FAB.SCHED -/

/-- What FabSched requires of its entry (R385): byte offset and whether the field there is at fault. -/
def chkFabSched (_ : CmdRef) (_ : State) (e : Bytes) : List (Nat × Bool) :=
  [portBad e 0, (32, decide (par e 16 8 % 8 ≠ 0))]
    ++ (List.range 6).map fun i => (18 + i, decide (par e (2 + i) 1 = 0))

def execFabSched (r : CmdRef) (s : State) : Res :=
  runCmd s r 0x0B08 (chkFabSched r) fun s1 x e =>
    let ws := (List.range 6).map fun i => par e (2 + i) 1
    let put (st : State) : State := (portsOf (parFld e 0 5 0)).foldl (fun st2 n => modPort st2 n fun p => { p with wgt := ws }) st
    if par e 16 8 = 0 then complete (put s1) r stOk 0 0 else
    match hostBuf x with
    | none => askHost s1 x
    | some bs =>
      if bs.length < 64 ∨ (bs.take 64).any (fun b => decide (b = 0)) then badParam s1 r 32 else
      let sw : Tab Nat := (List.range 64).map fun t => (t, byteAt bs t)
      complete (put { s1 with fab := { s1.fab with swgt := sw } }) r stOk 0 0

/-! ### FAB.GATE (R338, R339) -/

/-- Do two entry ranges meet? -/
def entriesMeet (a n b m : Nat) : Bool := decide (0 < n ∧ 0 < m ∧ a < b + m ∧ b < a + n)

/-- Does an entry range touch the list in force, or a pending list? -/
def touchesList (p : Port) (a n : Nat) : Bool :=
  entriesMeet a n p.gate.base p.gate.len || (match p.gpend with | some q => entriesMeet a n q.base q.len | none => false)

/-- Reserved fields of FAB.GATE. -/
def gateChecks (e : Bytes) : List (Nat × Bool) :=
  [portBad e 0]

/-- What FabGateWrite requires of its entry (R385): byte offset and whether the field there is at fault. -/
def chkFabGateWrite (_ : CmdRef) (_ : State) (e : Bytes) : List (Nat × Bool) :=
  gateChecks e ++
    [(20, decide (512 < parFld e 2 8 0 + parFld e 4 8 0)), (32, decide (par e 16 2 ≠ 0)), (34, decide (par e 18 2 ≠ 0)),
     (40, decide (par e 24 8 ≠ 0)), (24, decide (par e 8 8 % 8 ≠ 0))]

def execFabGateWrite (r : CmdRef) (s : State) : Res :=
  runCmdIf s r 0x0B09 (fun e => !parFlg e 1 0) (chkFabGateWrite r) fun s1 x e =>
    let ps := portsOf (parFld e 0 5 0)
    let a := parFld e 2 8 0
    let n := parFld e 4 8 0
    let s2 := ps.foldl settleGate s1
    if ps.any fun p => touchesList (portAt s2 p) a n then complete s2 r stBusy 0 0
    else if n = 0 then complete s2 r stOk 0 0
    else match hostBuf x with
      | none => askHost s2 x
      | some bs =>
        let bad := (List.range n).any fun i => !zeroBytes bs (8 * i + 1) (8 * i + 3) || decide (fieldAt bs (8 * i + 4) 4 < 40)
        if bs.length < 8 * n ∨ bad then badParam s2 r 24
        else
          let put (tb : Tab (Nat × Nat)) (i : Nat) : Tab (Nat × Nat) := tabPut tb (a + i) (byteAt bs (8 * i), fieldAt bs (8 * i + 4) 4)
          complete (ps.foldl (fun st p => modPort st p fun y => { y with gmem := (List.range n).foldl put y.gmem }) s2) r stOk 0 0

/-- Meridian at which a new list takes over a port (R339). -/
def takeoverAt (p : Port) (t : Nat) : Nat :=
  let c := gateCycle p p.gate
  if p.gate.len = 0 ∨ c = 0 ∨ t ≤ p.gate.start then (if p.gate.len = 0 then t else max t p.gate.start)
  else p.gate.start + ceilDiv (t - p.gate.start) c * c

/-- Is a list refused at a port (R339)? -/
def listBad (p : Port) (g : GateList) : Bool :=
  decide (0 < g.len) && ((gateEntries p g).any (fun e => decide (e.2 < 40)) || decide (gateCycle p g < 4000 ∨ 2 ^ 40 < gateCycle p g)
    || entriesMeet g.base g.len p.gate.base p.gate.len)

/-- What FabGateCommit requires of its entry (R385): byte offset and whether the field there is at fault. -/
def chkFabGateCommit (_ : CmdRef) (_ : State) (e : Bytes) : List (Nat × Bool) :=
  gateChecks e ++
    [(18, decide (parFld e 2 8 0 ≠ 0)), (20, decide (parFld e 4 8 0 ≠ 0)), (24, decide (par e 8 8 ≠ 0)),
     (34, decide (256 < parFld e 18 8 0 ∨ 512 < parFld e 16 8 0 + parFld e 18 8 0))]

def execFabGateCommit (r : CmdRef) (s : State) : Res :=
  runCmdIf s r 0x0B09 (fun e => parFlg e 1 0) (chkFabGateCommit r) fun s1 _ e =>
    if schedWaits s1 r then settleGateActs s1 else
    let ps := portsOf (parFld e 0 5 0)
    let t := par e 24 8
    let s2 := settleGateActs (ps.foldl settleGate s1)
    match if t = 0 then none else schedRefuse s2 t with
    | some st => complete s2 r st 0 0
    | none =>
      if ps.any (fun p => (portAt s2 p).gpend.isSome) ∨ 256 ≤ s2.time.acts.length then complete s2 r stBusy 0 0
      else
        let g : GateList := { base := parFld e 16 8 0, len := parFld e 18 8 0 }
        if ps.any (fun p => listBad (portAt s2 p) g) then badParam s2 r 34 else
        let from0 (p : Nat) : Nat := if t = 0 then merAt s2 (srcPort p) else t
        let s3 := ps.foldl (fun st p => settleGate (modPort st p fun y => { y with gpend := some { g with start := takeoverAt y (from0 p) } }) p) s2
        settleGateActs (addAct s3 t (.gate (parFld e 0 5 0)) (some r))

/-! ### Sampling (R343) -/

/-- Bits set in a mask. -/
def bitList (n m : Nat) : List Nat := (List.range n).filter fun i => bitOf m i

/-- What FabSample requires of its entry (R385): byte offset and whether the field there is at fault. -/
def chkFabSample (_ : CmdRef) (_ : State) (e : Bytes) : List (Nat × Bool) :=
  let n := parFld e 16 4 0
  [(16, decide (n ≠ 0 ∧ par e 0 8 % 4096 ≠ 0)), (24, decide (n ≠ 0 ∧ par e 8 8 % 16 ≠ 0)), (32, decide (n ≠ 0 ∧ (n < 6 ∨ 20 < n))),
   (36, decide (n ≠ 0 ∧ (par e 20 4 < 10 ∨ 1000000 < par e 20 4))),
   (40, decide (4096 < popc 49 (parFld e 24 48 0) * popc 8 (par e 31 1) * popc 64 (par e 32 8)))]

def execFabSample (r : CmdRef) (s : State) : Res :=
  runCmd s r 0x0B0A (chkFabSample r) fun s1 _ e =>
    let sm : Option Sampling := if parFld e 16 4 0 = 0 then none else
      some { haddr := par e 0 8, paddr := par e 8 8, log2n := parFld e 16 4 0, interval := par e 20 4, ports := parFld e 24 48 0, svcs := par e 31 1, tens := par e 32 8 }
    let s2 := if sm.isSome then { s1 with fab := { s1.fab with ports := s1.fab.ports.map fun q => (q.1, { q.2 with maxdly := [] }) } } else s1
    complete { s2 with fab := { s2.fab with sampling := sm } } r stOk 0 0

/-- Flits and head delay of a queue. -/
def queueDepth (s : State) (p svc t : Nat) : Nat × Nat :=
  if p = 48 then
    let q := s.out.filter fun o => match outTlp o.2 with | some (a, b, _) => decide (a = svc ∧ b = t) | none => false
    ((q.map fun o => match outTlp o.2 with | some (_, _, n) => ceilDiv n 256 | none => 0).sum,
     match q with | o :: _ => min (2 ^ 32 - 1) (s.clk.ticks - o.1) | [] => 0)
  else
    let q := tabGet s.fab.queues (queueKey p svc t) []
    ((q.map fun m => nFlits m.m).sum, match q with | m :: _ => min (2 ^ 32 - 1) (s.clk.ticks - m.since) | [] => 0)

/-- A QUEUE record (Table 13.4). -/
def queueRec (s : State) (p svc t : Nat) : Bytes :=
  let d := queueDepth s p svc t
  leBytes 4 d.1 ++ leBytes 4 d.2 ++ leBytes 4 (min (2 ^ 32 - 1) (tabGet (portAt s p).maxdly (svc * 64 + t) 0))
    ++ leBytes 1 t ++ leBytes 1 svc ++ leBytes 1 p ++ leBytes 1 1

/-- Put records into a ring while it has room: producer count, records dropped. -/
def ringPut (s : State) (haddr size cons : Nat) (w : Nat) : List Bytes → Nat → Nat → State × Nat × Nat
  | [], prod, drop => (s, prod, drop)
  | b :: bs, prod, drop =>
    if size ≤ (prod + 2 ^ 32 - cons) % 2 ^ 32 then ringPut s haddr size cons w bs prod (drop + 1)
    else ringPut (hostPutS s ownRing 0 0 7 (haddr + w * (prod % size)) b) haddr size cons w bs ((prod + 1) % 2 ^ 32) drop

/-- A sample is taken at the next multiple of INTERVAL; `cons` is the host's consumer count (R343). -/
def execQueueSample (cons : Nat) (s : State) : Res :=
  match s.fab.sampling with
  | none => .next s
  | some c =>
    let per := c.interval * usTicks
    let s1 := advance s (per - merNow s % per)
    let qs := (bitList 49 c.ports).flatMap fun p => (bitList 8 c.svcs).flatMap fun v => (bitList 64 c.tens).map fun t => queueRec s1 p v t
    let mark := leBytes 8 (merNow s1) ++ leBytes 4 qs.length ++ leBytes 1 (min 255 c.dropped) ++ leBytes 2 0 ++ leBytes 1 2
    let m := ringPut s1 c.haddr (2 ^ c.log2n) (cons % 2 ^ 32) 16 [mark] c.prod 0
    let d0 := if m.2.2 = 0 then 0 else c.dropped + 1
    let x := ringPut m.1 c.haddr (2 ^ c.log2n) (cons % 2 ^ 32) 16 qs m.2.1 d0
    let s2 := hostPutS x.1 ownRing 0 0 7 c.paddr (leBytes 8 x.2.1)
    .next { s2 with fab := { s2.fab with
      sampling := some { c with prod := x.2.1, dropped := x.2.2 }
      ports := s2.fab.ports.map fun q => (q.1, { q.2 with maxdly := [] }) } }

/-- A bandwidth window of a port ends (R479). -/
def execPortWindowEnd (port : Nat) (s : State) : Res :=
  if 48 < port then .next s else
  let per := (portAt s port).winlen * usTicks
  let s1 := advance s (per - merAt s (srcPort port) % per)
  .next (modPort s1 port fun p => { p with
    txlast := p.tx, txmax := max p.txmax p.tx, tx := 0, rxlast := p.rxw, rxmax := max p.rxmax p.rxw, rxw := 0, winlen := p.winlenNew })

end Sys2Proof.Machine
end

