-- ==== Sys2Proof/Machine/Resets.lean ====
section
/-! DEFINITION. Resets: what each reaches, the effects of Table 15.11, and how they rank (R375 to R378, R396). -/

namespace Sys2Proof.Machine

/-! ### Ranks (R377) -/

/-- Rank of a reset, highest first. -/
def resetRank : ResetKind → Nat
  | .cold => 0 | .conv => 1 | .warm => 2 | .flr0 => 3 | .tenant => 4 | .flr1 => 5 | .fence => 6

/-- Code that LASTRESET takes (R376, Table 15.4): for the TENANT reset, TENANT or FLR as its cause gives. -/
def resetCode (k : ResetKind) (tenantCode : Nat) : Nat :=
  match k with
  | .cold => 0 | .conv => 1 | .warm => 2 | .flr0 => 3 | .flr1 => 3 | .tenant => tenantCode | .fence => 0

/-- Functions a reset reaches (Table 15.10). -/
def resetFns (k : ResetKind) (t : Nat) : List Nat :=
  match k with
  | .cold => List.range 65
  | .conv => List.range 65
  | .warm => List.range 65
  | .flr0 => List.range 64
  | .tenant => [t]
  | .flr1 => [64]
  | .fence => []

/-- Tenants whose contexts a reset clears (Table 15.11). -/
def resetCtxs (k : ResetKind) (t : Nat) : List Nat :=
  match k with
  | .cold => List.range 64
  | .conv => List.range 64
  | .flr0 => List.range 64
  | .tenant => [t]
  | _ => []

/-- Tenants whose jobs and sequences a reset ends. -/
def resetRuns (k : ResetKind) (t : Nat) : List Nat :=
  match k with
  | .tenant => [t]
  | .flr1 => []
  | _ => List.range 64

/-- A reset reaches a function: a reset of higher rank takes over one under way, and one of lower or equal rank completes
with it (R377).  READY clears. -/
def noteReset (k : ResetKind) (code : Nat) (s : State) (fn : Nat) : State :=
  let r : FnReset := match tabFind s.host.resets fn with
    | some o => if resetRank k < resetRank o.kind then { kind := k, code := code } else o
    | none => { kind := k, code := code }
  modFunc { s with host := { s.host with resets := tabPut s.host.resets fn r } } fn fun f => { f with ready := false }

/-! ### Commands whose mailboxes are cleared (R396) -/

/-- The references of a reset function go to nobody: answers that still come are discarded. -/
def orphanRems (s : State) (gone : RemOwner → Bool) : State :=
  let one (q : Nat × RemOp) : Nat × RemOp := if gone q.2.owner then (q.1, { q.2 with owner := .cmd 127 127 0 }) else q
  { s with fab := { s.fab with rem := s.fab.rem.map one } }

/-- A query of a command that is gone. -/
def goneQuery (fns : List Nat) (q : SQuery) : Bool :=
  match q.owner with
  | .cmd r => fns.contains r.fn
  | .seq _ _ => false

/-- An index without the queries and the resurvey of commands that are gone. -/
def dropCmdsIx (fns : List Nat) (ix : Index) : Index :=
  let lost : Bool := match ix.resurvey with | some r => fns.contains r.cmd.fn | none => false
  { ix with
    waiting := ix.waiting.filter fun q => !goneQuery fns q
    batches := ix.batches.map fun b => (b.1, { b.2 with queries := b.2.queries.filter fun q => !goneQuery fns q })
    resurvey := if lost then none else ix.resurvey }

/-- A job without what waits for commands that are gone. -/
def dropCmdsJob (fns : List Nat) (j : Job) : Job :=
  { j with
    batches := j.batches.filter fun b => match b.2.cmd with | some c => !fns.contains c.1 | none => true
    endCmds := j.endCmds.filter fun c => !fns.contains c.1 }

/-- A pending scheduled action of a command that is gone is dropped; an armed change it was bound to can no longer be
applied (R396, R357). -/
def dropAct (s : State) (a : SchedAct) : State :=
  let s1 := modTime s fun t => { t with
    acts := t.acts.filter fun b => b.num ≠ a.num
    changes := match a.change with
      | some (c, id) => t.changes.map fun p => if p.coord = c ∧ p.id = id then { p with broken := true } else p
      | none => t.changes }
  match a.kind with
  | .index h _ => { s1 with search := { s1.search with ixs := tabUpd s1.search.ixs h fun y => { y with swapping := false } } }
  | .gate n => (portsOf n).foldl (fun st p => modPort st p fun x => { x with gpend := none }) s1
  | .firmware => { s1 with ctl := { s1.ctl with act := none } }
  | _ => s1

/-- One command of a cleared mailbox is stopped at once and writes no completion: a started command of class X is undone,
the others stand as far as they have come. -/
def resetCmd (s : State) (x : Inflight) : State :=
  let s1 := forgetCmd s x.ref
  let s2 := if x.started ∧ x.status = none ∧ stopOf x.entry = .x then undoCmd s1 x else s1
  leaveStore s2 x

/-- Clear the mailboxes of some functions: their commands, and what waits for these.  A command over MCTP has no mailbox and
is dropped with the firmware that runs it (`mctp`). -/
def clearMboxes (s : State) (fns : List Nat) (mctp : Bool) : State :=
  let gone (x : Inflight) : Bool := if x.mctp then mctp else fns.contains x.ref.fn
  let isGone (r : CmdRef) : Bool := s.inflight.any fun x => decide (x.ref = r) && gone x
  let s1 := (s.inflight.filter gone).foldl resetCmd s
  let s2 := (s1.time.acts.filter fun a => match a.cmd with | some r => isGone r | none => false).foldl dropAct s1
  let s3 := modTime s2 fun t => { t with coords := t.coords.filter fun c => !isGone c.cmd }
  let s4 := { s3 with
    inflight := s3.inflight.filter fun x => !gone x
    mboxes := s3.mboxes.filter fun q => !fns.contains (q.1 / 128)
    jobs := { s3.jobs with jobs := s3.jobs.jobs.map fun q => (q.1, dropCmdsJob fns q.2) }
    search := { s3.search with
      ixs := s3.search.ixs.map fun q => (q.1, dropCmdsIx fns q.2)
      cmds := s3.search.cmds.filter fun q => !fns.contains q.1.fn }
    serving := { s3.serving with seqs := s3.serving.seqs.map fun q =>
      (q.1, { q.2 with xport := match q.2.xport with | some r => if fns.contains r.fn then none else some r | none => none }) }
    host := { s3.host with reads := s3.host.reads.filter fun x => match x with
      | .cmd r => !isGone r
      | .fetch f _ => !fns.contains f
      | .cq f _ => !fns.contains f
      | _ => true } }
  orphanRems s4 fun o => match o with
    | .cmd f m c => isGone ⟨f, m, c⟩
    | _ => false

/-! ### Sequences and jobs -/

/-- Sequences of some tenants end: without an end record (N), or with one of reason ABORTED (E). -/
def resetSeqs (s : State) (ts : List Nat) (record : Bool) : State :=
  let s1 := (s.serving.seqs.filter fun q => ts.contains q.2.tenant).foldl (fun st q =>
    if record then endSeq (modSeq st q.1 fun x => { x with ending := none }) q.1 9 stAborted 0 else killSeq st q.1) s
  modServing s1 fun v => { v with arriving := if ts.length = 64 then [] else v.arriving }

/-- The steps of a version are gone with its jobs. -/
def stopServe (v : ModelVer) : ModelVer :=
  { v with sv := { v.sv with steps := [], sent := [], gathered := [], lastDec := [] } }

/-- Jobs of some tenants are aborted at once (A, R211); their models' steps go with them. -/
def resetJobs (s : State) (ts : List Nat) : State :=
  let one (m : Nat × Model) : Nat × Model :=
    if ts.contains m.2.tenant then (m.1, { m.2 with vers := m.2.vers.map fun v => (v.1, stopServe v.2) }) else m
  let s1 := { s with models := { s.models with models := s.models.models.map one } }
  (s1.jobs.jobs.filter fun q => ts.contains q.2.tenant).foldl (fun st q => abortJob st q.1) s1

/-! ### Contexts -/

/-- Everything in a tenant's context goes: models, indexes, groups, semaphores, migrations and tiles; the released frames are
zeroed before anyone receives them.  A tenant that stays enabled has an empty context. -/
def clearCtx (s : State) (t : Nat) : State :=
  let s1 := (s.atlas.migs.filter fun m => m.tenant = t).foldl (fun st m => dropMig (freeDst st m) t m.page) s
  let s2 := (ctxAt s1 t).pages.foldl (fun st q => freeStorage st t q.1 q.2) s1
  let mine := (s2.models.models.filter fun m => m.2.tenant = t).map (·.1)
  let s3 := { s2 with
    models := { s2.models with
      models := s2.models.models.filter fun m => m.2.tenant ≠ t
      loads := s2.models.loads.filter fun l => fnTenant l.cmd.fn ≠ t
      binds := s2.models.binds.filter fun b => !mine.contains b.2.1 }
    search := { s2.search with ixs := s2.search.ixs.filter fun q => q.2.tenant ≠ t }
    jobs := { s2.jobs with sems := s2.jobs.sems.filter fun q => jobTenant q.2.owner ≠ t }
    cores := s2.cores.map fun q => (q.1, { q.2 with tlb := q.2.tlb.filter fun e => e.1 ≠ t })
    fab := { s2.fab with
      groups := s2.fab.groups.filter fun q => q.1 / 256 ≠ t
      got := s2.fab.got.filter fun g => g.1 ≠ t
      failed := s2.fab.failed.filter fun g => g.1 ≠ t }
    host := { s2.host with reads := s2.host.reads.filter fun x => match x with | .t3 u _ => decide (u ≠ t) | _ => true }
    atlas := { s2.atlas with
      mem := s2.atlas.mem.filter fun c => c.1 / 2 ^ 57 ≠ t
      ctx := if (tenAt s2 t).enabled then tabPut s2.atlas.ctx t {} else tabDel s2.atlas.ctx t } }
  orphanRems s3 fun o => match o with
    | .eng u _ => decide (u = t)
    | .mig u _ => decide (u = t)
    | _ => false

/-- T2 lending, P: the module's own lent tiles are poisoned with CAUSE PEER_LOST, and its lend pool's contents are freed. -/
def resetLending (s : State) : State :=
  let lent (l : Leaf) : Bool := match l.loc with | .lent _ _ => true | _ => false
  let hits := s.atlas.ctx.flatMap fun c => (c.2.pages.filter fun q => lent q.2 && !q.2.psn).map fun q => (c.1, q.1)
  let s1 := hits.foldl (fun st q =>
    poisonEvent (modLeaf st q.1 q.2 fun l => { l with psn := true, cause := 0x24 }) (srcHub (q.2 % 5)) q.1 q.2 0x24) s
  modAtlas s1 fun a => { a with lentSlots := [] }

/-! ### Functions -/

/-- A function's registers, MSI-X table and configuration space at their reset values; LASTRESET stands until READY. -/
def clearFunc (s : State) (fn : Nat) : State :=
  modFunc s fn fun f => { lastReset := f.lastReset, wasPresent := f.wasPresent }

/-- WARM keeps a function's registers; its pending messages are discarded (R376). -/
def warmFunc (s : State) (fn : Nat) : State :=
  modFunc s fn fun f => { f with vecs := f.vecs.map fun v => (v.1, { v.2 with count := 0, due := none }) }

/-- BAR2 requests and doorbells that wait are dropped; reads that wait return all-ones, unless their link is down. -/
def dropBarq (s : State) (fn : Nat) (answer : Bool) : State :=
  let q := (funcAt s fn).barq
  let s1 := modFunc s fn fun f => { f with barq := [] }
  let s2 := if answer then q.foldl (fun st r => match r with
      | .rd tag _ len _ _ _ => emit st (.hostData fn tag (onesBytes len))
      | _ => st) s1 else s1
  let s3 := { s2 with host := { s2.host with
    overCap := s2.host.overCap.filter (· ≠ fn)
    atc := s2.host.atc.filter fun e => e.1 ≠ fn
    inval := s2.host.inval.filter fun e => e.1 ≠ fn } }
  orphanRems s3 fun o => match o with
    | .host f _ => decide (f = fn)
    | _ => false

/-- The event-log ring setting and class filter clear (R409); contents and counters are kept, and so are the records that
waited for the ring, which wait for the next one (R495).  EVPROD and EVCONS are BAR0 registers: WARM keeps them (Table 15.11). -/
def clearLogRing (s : State) (warm : Bool) : State :=
  { s with log := { s.log with
    ring := none, classMask := 0xFF, stalled := false
    prod := if warm then s.log.prod else 0
    cons := if warm then s.log.cons else 0 } }

/-! ### A whole reset -/

/-- The effects of a reset of Table 15.11 that take place when it begins: `t` is the tenant of a TENANT reset, `code` the
LASTRESET code it will give. -/
def applyReset (s : State) (k : ResetKind) (t code : Nat) : State :=
  let fns := resetFns k t
  let here := fns.filter (fnPresent s)
  let mfns := fns.filter (· ≠ 64)
  let s1 := if mfns = [] then s else clearMboxes s mfns (decide (k = .warm))
  let s2 := match k with
    | .flr1 => s1
    | .warm => resetSeqs s1 (resetRuns k t) true
    | .fence => resetSeqs s1 (resetRuns k t) true
    | _ => resetSeqs s1 (resetRuns k t) false
  let s3 := resetJobs s2 (resetRuns k t)
  let s4 := (resetCtxs k t).foldl clearCtx s3
  let s5 := if k = .conv ∨ k = .warm ∨ k = .flr0 ∨ k = .fence then resetLending s4 else s4
  let s6 := if k = .conv ∨ k = .flr0 then modAtlas s5 fun a => { a with regions := [] } else s5
  let s7 := if k = .conv ∨ k = .warm ∨ k = .flr1 then nvReset s6 else s6
  let s8 := here.foldl (fun st fn =>
    let st1 := dropBarq st fn (decide (k ≠ .conv))
    if k = .warm then warmFunc st1 fn else clearFunc st1 fn) s7
  let s9 := if k = .conv ∨ k = .warm ∨ k = .flr0 then
      let u := clearLogRing s8 (decide (k = .warm))
      { u with ctl := { u.ctl with staging := [], staged := 0, act := none }
               store := { u.store with locks := [] } }
    else s8
  let s10 := if k = .conv ∨ k = .flr0 then { s9 with host := { s9.host with vfEnable := false, numVfs := 0 } } else s9
  let named := here ++ (resetCtxs k t).filter fun u => !here.contains u && (tenAt s u).enabled
  named.foldl (noteReset k code) s10

/-- A VF that is removed records the code of the reset that removed it (R364). -/
def removeVfs (s : State) (vfs : List Nat) (code : Nat) : State :=
  vfs.foldl (fun st fn => modFunc st fn fun f => { f with lastReset := code, ready := false }) s

/-- The VFs present. -/
def vfsNow (s : State) : List Nat := ((List.range 64).drop 1).filter (fnPresent s)

/-- The CONV reset (Table 15.10). -/
def convReset (s : State) : State :=
  let vfs := vfsNow s
  removeVfs (applyReset { s with host := { s.host with linkUp := false } } .conv 0 1) vfs 1

/-- The FENCE reset: all running work (Table 15.11). -/
def fenceReset (s : State) : State := applyReset s .fence 0 0

/-- The TENANT reset of a tenant: `code` is FLR or TENANT (R376). -/
def tenantReset (s : State) (t code : Nat) : State := applyReset s .tenant t code

/-- The module fences itself or is fenced (R330, R473): records, the unplanned step of R468, the ports, and the FENCE reset.
The spec gives no coding for ARG0, the cause (log 29). -/
def fenceModule (s : State) : State :=
  if s.fab.fenced then s else
  let s1 := freeTick (postEvent s srcCp 0x0301 0 0xFF (freeNow s).toNat 0 0)
  fenceReset (fencePorts (publishDrop s1))

end Sys2Proof.Machine
end

