-- ==== Sys2Proof/Machine/FwOps.lean ====
section
/-! DEFINITION. The ROM's choice of a slot, WARM and COLD starts, and the checks of firmware images (chapter 18). -/

namespace Sys2Proof.Machine

/-- Change the control die. -/
def modCtl (s : State) (f : Control → Control) : State := { s with ctl := f s.ctl }

/-- A firmware slot: 0 A, 1 B. -/
def fwSlot (c : Control) (n : Nat) : FwSlot := if n = 0 then c.slotA else c.slotB

/-- Replace a slot. -/
def putSlot (c : Control) (n : Nat) (f : FwSlot) : Control := if n = 0 then { c with slotA := f } else { c with slotB := f }

/-- Codes of Table 18.11. -/
def slEmpty : Nat := 0
def slValid : Nat := 1
def slActive : Nat := 2
def slTrial : Nat := 3
def slInvalid : Nat := 4

/-- The slot in a state, if there is one. -/
def slotIn (c : Control) (st : Nat) : Option Nat :=
  if c.slotA.st = st then some 0 else if c.slotB.st = st then some 1 else none

/-- Does a slot's image pass R450 at a start?  Its bytes were verified when they were written. -/
def slotStarts (c : Control) (f : FwSlot) : Bool :=
  decide (c.lifecycle ≠ 4) && decide (f.st = slValid ∨ f.st = slActive ∨ f.st = slTrial) && decide (c.minSecver ≤ f.secver)
    && !bitOf c.revoked f.keyidx

/-- Start a slot; where its image fails, the other one if it is VALID or ACTIVE; else ROM recovery mode (R454).  A trial start
whose CFGFMT exceeds the confirmed format converts the configuration store (R456). -/
def startSlot (c : Control) (n : Nat) : Control :=
  let f := fwSlot c n
  let o := fwSlot c (1 - n)
  if slotStarts c f then
    { c with running := n, trialFmt := if f.st = slTrial ∧ c.cfgFmt < f.cfgfmt then some f.cfgfmt else none }
  else if (o.st = slValid ∨ o.st = slActive) ∧ slotStarts c o then { c with running := 1 - n, trialFmt := none }
  else { c with recovery := true }

/-- The ROM chooses the slot to start (R454). -/
def romChoose (c : Control) : Control :=
  let c1 := { c with chosen := true, recovery := false }
  if c1.lifecycle = 4 ∨ c1.recReq then { c1 with recovery := true } else
  match slotIn c1 slTrial with
  | some n =>
    let f := fwSlot c1 n
    if f.tries = 0 then
      let c2 := putSlot c1 n { f with st := slValid }
      let c3 := { c2 with fallback := some f.version, trialFmt := none, confirms := none }
      match slotIn c3 slActive with
      | some a => startSlot c3 a
      | none => startSlot c3 n
    else startSlot (putSlot c1 n { f with tries := f.tries - 1 }) n
  | none =>
    match slotIn c1 slActive with
    | some a => startSlot c1 a
    | none => startSlot c1 0

/-- The ROM makes its choice, if it has not made it in this start. -/
def ensureChosen (s : State) : State := if s.ctl.chosen then s else modCtl s romChoose

/-- Is every stage-1 condition clear (Table 19.2)? -/
def stage1Clear (p : Power) : Bool := p.dies.all (fun d => decide (d < 950)) && decide (p.inlet ≤ 400 ∧ 450 ≤ p.flow)

/-- Thermal stage 4 is left by a WARM reset that starts once every stage-1 condition has cleared (R469). -/
def leaveStage4 (s : State) : State :=
  if s.power.stage = 4 ∧ stage1Clear s.power then
    let s1 := modPower s fun p => { p with stage := 0, clearSince := none }
    let s2 := setStageRate s1 0
    clampNote s (irqSet (freeTick (mgmtEvent s2 0x0501 0 (freeNow s2).toNat)) 0 irqTherm)
  else s

/-- The WARM reset (Table 15.10): published, applied, ports fenced until READY, and the ROM's choice made.  The spec gives no
coding for the cause in its WARM_START record (log 29). -/
def warmReset (s : State) : State :=
  let s1 := leaveStage4 (publishDrop s)
  let cause := (freeNow s1).toNat
  let s2 := fencePorts (applyReset (freeTick s1) .warm 0 2)
  modCtl s2 fun c =>
    let d := { c with start := .starting s2.clk.ticks false, recReq := false, warmCause := some cause, nonce := none }
    romChoose { d with confirms := d.confirms.map fun q => (q.1, 0) }

/-! ### COLD (R445, Table 15.11) -/

/-- Drop every namespace and return the configuration store to its factory values (Table 18.5). -/
def factoryStore (s : State) : State :=
  let s1 := (s.store.nss.map (·.1)).foldl (fun st n => wipeNs st n true) s
  modCtl (modStore s1 fun v => { v with nss := [], dmaw := 8, t4w := 8, gcw := 16, gclow := 400, gccrit := 64 })
    fun c => { c with trialFmt := none }

/-- The T4 pool at its factory size. -/
def factoryT4 (s : State) : State := modAtlas s fun a => { a with t4Pool := 0 }

/-- The ROM performs the erasures of a transition before any firmware runs (R445, Table 18.5). -/
def finishErase (s : State) : State :=
  match s.ctl.erase with
  | none => s
  | some (src, dst, key) =>
    let s1 := if dst = 2 ∨ dst = 3 then factoryT4 (factoryStore s) else s
    modCtl s1 fun c =>
      let c1 := { c with erase := none }
      match dst with
      | 1 => { c1 with mediaKey := c1.mediaKey + 1, identity := if src = 0 then true else c1.identity }
      | 2 => { c1 with owner := some key }
      | 3 => { c1 with owner := none, mediaKey := c1.mediaKey + 1 }
      | _ => { c1 with owner := none, mediaKey := c1.mediaKey + 1, identity := false, slotA := {}, slotB := {} }

/-- A flash channel after a loss of power: what was under way is gone, and no unit of the T4 pool is mapped. -/
def coldChan (ch : Chan) : Chan :=
  { ch with
    blocks := ch.blocks.map fun b => (b.1, { b.2 with valid := b.2.valid.filter fun u => 2 ^ 48 ≤ u.2 })
    gc := none, ops := [], deficit := [], turn := 0, given := false }

/-- What storage keeps through COLD: media, namespaces, weights, and the counts since manufacture (R414, R419, R430, R431). -/
def coldStore (s : State) : Store :=
  let v := s.store
  { nss := v.nss, chans := v.chans.map fun q => (q.1, coldChan q.2), map := v.map.filter fun q => 2 ^ 48 ≤ q.1
    lostUnits := v.lostUnits.filter fun u => 2 ^ 48 ≤ u
    dmaw := v.dmaw, t4w := v.t4w, gcw := v.gcw, gclow := v.gclow, gccrit := v.gccrit
    nandNs := v.nandNs, nandT4 := v.nandT4, nandGc := v.nandGc
    retProg := v.retProg, retErase := v.retErase, retRead := v.retRead
    gcAbandon := v.gcAbandon, gcRuns := v.gcRuns, refresh := v.refresh, lockHolds := v.lockHolds
    badShut := if v.wb = [] then v.badShut else satAdd 64 v.badShut 1
    powerCycles := v.powerCycles + 1, powerOn := v.powerOn + s.clk.ticks
    bytesRead := v.bytesRead, bytesWritten := v.bytesWritten, reads := v.reads, writes := v.writes
    mediaErrors := v.mediaErrors, errCount := v.errCount, busyTicks := v.busyTicks, temp := v.temp
    warmTicks := v.warmTicks, hotTicks := v.hotTicks }

/-- What the control die keeps through COLD: life cycle, keys and the boot partition (R438, R442, R444, R452). -/
def coldCtl (c : Control) (start : StartState) : Control :=
  { start := start, lifecycle := c.lifecycle, slotA := c.slotA, slotB := c.slotB, running := c.running
    minSecver := c.minSecver, raises := c.raises, revoked := c.revoked, returns := c.returns, owner := c.owner
    identity := c.identity, mediaKey := c.mediaKey, cfgFmt := c.cfgFmt, trialFmt := c.trialFmt, erase := c.erase
    confirms := c.confirms.map fun q => (q.1, 0), fallback := c.fallback }

/-- The state in which a COLD start begins: everything as at reset, but what power does not hold.  Sensors read as they did;
the ROM halts where the flow is below 1.0 L/min (R492). -/
def coldStart (s : State) : State :=
  let start : StartState := if s.power.flow < 100 then .coolant 0 else .starting 0 true
  let z := State.reset
  finishErase { z with
    ctl := coldCtl s.ctl start
    store := coldStore s
    atlas := { z.atlas with t4Pool := s.atlas.t4Pool }
    power := { z.power with inlet := s.power.inlet, outlet := s.power.outlet, flow := s.power.flow, dies := s.power.dies }
    host := { z.host with perst := s.host.perst }
    out := s.out.filter fun o => (outTlp o.2).isNone
    left := s.left
    freeCtr := s.freeCtr
    pending := s.pending }

/-! ### Boot-partition writes (R438, R439) -/

/-- Which of the two mirrors fail: bit 0 channel 0, bit 1 channel 39; a fenced channel cannot be written. -/
def mirrorsBad (s : State) (fail : Nat) : Nat :=
  (fail % 4) ||| (bit01 (!s.enChans.getLsbD 0)) ||| 2 * bit01 (!s.enChans.getLsbD 39)

/-! ### Images (R450, R451) -/

/-- How a check of an image ends. -/
inductive ImgCheck where
  /-- Accepted. -/
  | good
  /-- AUTH. -/
  | auth
  /-- BADPARAM: header offset. -/
  | bad (off : Nat)

/-- A byte of a directory entry. -/
def dirEnt (img : Bytes) (i : Nat) : Bytes := (img.drop (4096 + 64 * i)).take 64

/-- Offsets of the directory entries that break Table 18.9. -/
def dirBad (img : Bytes) (len : Nat) : List (Nat × Bool) :=
  let es := (List.range 6).map (dirEnt img)
  let kinds := es.map fun e => byteAt e 0
  let span (e : Bytes) : Nat × Nat := (fieldAt e 8 8, fieldAt e 16 8)
  let meets (a b : Nat × Nat) : Bool := decide (a.1 < b.1 + b.2 ∧ b.1 < a.1 + a.2)
  (enumFrom 0 es).flatMap fun q =>
    let o := 4096 + 64 * q.1
    let me := span q.2
    [(o, decide (byteAt q.2 0 = 0 ∨ 6 < byteAt q.2 0) || decide (1 < (kinds.filter (· = byteAt q.2 0)).length)),
     (o + 1, !zeroBytes q.2 1 7), (o + 24, !zeroBytes q.2 24 31),
     (o + 8, decide (me.1 % 4096 ≠ 0 ∨ me.1 < 4096 + 64 * 6)),
     (o + 16, decide (len < me.1 + me.2) || ((enumFrom 0 es).any fun p => decide (p.1 ≠ q.1) && meets me (span p.2)))]

/-- The checks of R450 on an image of a kind whose bytes are `img` (`staged` of them). -/
def imageCheck (s : State) (img : Bytes) (staged kind : Nat) : ImgCheck :=
  let h := img.take 4096
  let len := fieldAt h 16 8
  let full := decide (kind = 1)
  let fields : List (Nat × Bool) :=
    [(0, decide (fieldAt h 0 4 ≠ 0x4D524946)), (4, decide (fieldAt h 4 2 ≠ 1)), (6, decide (byteAt h 6 ≠ kind)),
     (7, decide (byteAt h 7 ≠ 2)), (12, full && decide (fieldAt h 12 4 ≠ 0)),
     (16, decide (2 ^ 30 < len ∨ len ≠ staged ∨ len < 4096)),
     (28, decide (fieldAt h 28 2 ≠ if full then 6 else 0)), (30, decide (3 < byteAt h 30)), (31, decide (byteAt h 31 ≠ 0)),
     (32, decide (fieldAt h 32 4 < s.ctl.cfgFmt)), (36, full && decide (fieldAt h 36 8 ≠ 0)), (44, !zeroBytes h 44 63),
     (3437, !zeroBytes h 3437 4095)]
  match firstBad (fields ++ (if full then dirBad img len else [])) with
  | some o => .bad o
  | none =>
    if fieldAt h 24 4 < s.ctl.minSecver ∨ bitOf s.ctl.revoked (byteAt h 30) then .auth
    else if !Config.mldsaVerify (Config.vendorKey (byteAt h 30)) (h.take 128) ((h.drop 128).take 3309) then .auth
    else if shake256 (h.take 64 ++ (img.drop 4096).take (len - 4096)) 64 ≠ (h.drop 64).take 64 then .auth
    else .good

/-- Apply a delta stream to the base image (R451): the target's bytes, in reverse pieces; none where an operation is bad. -/
def deltaApply (base : Bytes) : Nat → Bytes → List Bytes → Option Bytes
  | 0, _, acc => some acc.reverse.flatten
  | fuel + 1, ops, acc =>
    if ops = [] then some acc.reverse.flatten
    else
      let op := byteAt ops 0
      let n := fieldAt ops 4 4
      let src := fieldAt ops 8 8
      if ops.length < 16 ∨ n = 0 ∨ 2 ^ 31 < n ∨ !zeroBytes ops 1 3 ∨ (op ≠ 1 ∧ src ≠ 0) then none
      else match op with
      | 1 => if base.length < src + n then none else deltaApply base fuel (ops.drop 16) ((base.drop src).take n :: acc)
      | 2 =>
        let m := (n + 15) / 16 * 16
        if (ops.drop 16).length < m ∨ !zeroBytes (ops.drop 16) n (m - 1) then none
        else deltaApply base fuel (ops.drop (16 + m)) ((ops.drop 16).take n :: acc)
      | 3 => deltaApply base fuel (ops.drop 16) (List.replicate n 0 :: acc)
      | _ => none

/-- The image that a staged image commits: itself, or what a DELTA makes of the ACTIVE slot's image. -/
def imageOf (s : State) (img : Bytes) : Except ImgCheck Bytes :=
  if byteAt img 6 = 2 then
    match imageCheck s img s.ctl.staged 2 with
    | .good =>
      let base := fwSlot s.ctl ((slotIn s.ctl slActive).getD 0)
      if (slotIn s.ctl slActive).isNone ∨ base.version ≠ fieldAt img 12 4 then .error (.bad 12) else
      match deltaApply base.image img.length (img.drop 4096) [] with
      | none => .error (.bad 36)
      | some t =>
        if t.length ≠ fieldAt img 36 8 then .error (.bad 36)
        else if fieldAt t 8 4 ≠ fieldAt img 8 4 then .error (.bad 8)
        else match imageCheck s t t.length 1 with
          | .good => .ok t
          | o => .error o
    | o => .error o
  else match imageCheck s img s.ctl.staged 1 with
    | .good => .ok img
    | o => .error o

/-- The slot an accepted image makes. -/
def slotOfImage (img : Bytes) : FwSlot :=
  { st := slValid, version := fieldAt img 8 4, secver := fieldAt img 24 4, cfgfmt := fieldAt img 32 4, keyidx := byteAt img 30
    image := img }

/-- Measurement of component k of the running image: its directory digest (Tables 18.7 and 18.9). -/
def compMeas (c : Control) (k : Nat) : Bytes :=
  let img := (fwSlot c c.running).image
  if img = [] then padTo 32 (Config.shippedMeas k)
  else match (List.range 6).find? fun i => decide (byteAt (dirEnt img i) 0 = k) with
    | some i => (dirEnt img i).drop 32
    | none => List.replicate 32 0

/-- The measurements of this start, MEAS0 to MEAS7; in recovery mode the ROM's alone (R449). -/
def allMeas (c : Control) : Bytes :=
  padTo 32 Config.romMeas ++ (if c.recovery then [] else [1, 2, 3, 4, 5, 6].flatMap (compMeas c)) |> padTo 256

end Sys2Proof.Machine
end

