-- ==== Sys2Proof/Machine/UnitOps.lean ====
section
/-! DEFINITION. Fencing of units, and what each takes with it (R441, R471, R473, R497). -/

namespace Sys2Proof.Machine

/-! ### Quotas (R171, R473) -/

/-- Start demotions of a tenant's tiles out of a tier, at most n of them, as background migration. -/
def demoteMany (t tier : Nat) : Nat → State → State
  | 0, s => s
  | n + 1, s =>
    match demoteColdest s t tier (freestHub s) false with
    | .ok (s1, _) => demoteMany t tier n s1
    | .error _ => s

/-- The excess of a tenant over a quota that has been lowered leaves the tier (R171). -/
def demoteExcess (s : State) (t tier : Nat) : State := demoteMany t tier (tierCount s t tier - quota s t tier) s

/-- Tenants whose T1 counts exceed their quotas demote; where the sum of the quotas would break R167, every quota is reduced
in proportion and IRQ_CAUSE.TENANT is raised (R473). -/
def fitQuotas (s : State) : State :=
  let sum := sumQt1 s
  let room := tenantFrames s
  let s1 := if sum ≤ room then s else
    let cut (q : Nat × Tenant) : Nat × Tenant := (q.1, { q.2 with qt1 := q.2.qt1 * room / sum })
    let u := { s with tens := s.tens.map cut }
    (u.tens.map (·.1)).foldl (fun st t => irqSet st t irqTenant) u
  (s1.tens.map (·.1)).foldl (fun st t => demoteExcess st t 0) s1

/-! ### Fenced units -/

/-- Cores, stacks, channels and ports that are fenced, in number. -/
def fencedCount (s : State) : Nat × Nat × Nat × Nat :=
  (96 - popc 96 s.enCores.toNat, 20 - popc 20 s.enStacks.toNat, 40 - popc 40 s.enChans.toNat, 48 - popc 48 s.enPorts.toNat)

/-- Do the fenced units exceed the limits of R441? -/
def overLimits (s : State) : Bool :=
  let n := fencedCount s
  decide (8 < n.1 ∨ 2 < n.2.1 ∨ 4 < n.2.2.1 ∨ 8 < n.2.2.2)

/-- Each job-core on a core is aborted; a job that was ENDING ends where it has nothing left to run (R198, R210, R211). -/
def abortOn (s : State) (c : Nat) : State :=
  serveSems ((coreAt s c).slots.foldl (fun st q =>
    settleEnding (settleBatches (abortJc st q.2.jobid q.2.jcore) q.2.jobid false) q.2.jobid) s)

/-- Fence a core: its enable bit clears and its job-cores are aborted. -/
def fenceCore (s : State) (c : Nat) : State :=
  if !coreEnabled s c then s else
  let s1 := fenceMark { s with enCores := s.enCores &&& ~~~ (BitVec.ofNat 96 (2 ^ c)) } c
  placement (abortOn s1 c)

/-- A tile is poisoned where it lies. -/
def poisonTile (s : State) (src t p cause : Nat) : State :=
  match leafAt s t p with
  | none => s
  | some l => if l.psn then s else poisonEvent (modLeaf s t p fun x => { x with psn := true, cause := cause }) src t p cause

/-- Pages of a tenant whose leaf entries lie in the leaf table of a page. -/
def tableSpan (s : State) (t p : Nat) : List Nat := ((ctxAt s t).pages.map (·.1)).filter fun q => decide (q / 2 ^ 13 = p / 2 ^ 13)

/-- A translation table frame is lost: every page that it maps faults POISON with CAUSE HBM (Table 19.3). -/
def loseTable (s : State) (src t p : Nat) : State := (tableSpan s t p).foldl (fun st q => poisonTile st src t q 0x20) s

/-- A text state is lost: its sequence ends with reason FAULT and status POISON (Table 19.3). -/
def loseText (s : State) (i : Nat) : State := endSeq s i 8 stPoison 0

/-- A hardware error aborts a job at once, with a JOB_ECC_ABORT record (Tables 19.3 and 19.5). -/
def eccAbort (s : State) (src jobid : Nat) : State :=
  match jobAt s jobid with
  | none => s
  | some j => abortJob (postEvent s src 0x0102 0 j.tenant jobid 0 0) jobid

/-- Draw whether the fenced stack held an object of the reserve: the spec does not say where each lies (log 29). -/
def drawn (s : State) (f : State → State) : State := if (freeNow s).getLsbD 0 then f (freeTick s) else freeTick s

/-- Writes held in lost write-buffer frames are lost, and count one unsafe shutdown (R497). -/
def loseWb (s : State) : State :=
  let pick (q : Nat × WbEnt) : Bool := (Config.freeValue (s.freeCtr + q.1)).getLsbD 0
  let gone := (enumFrom 0 s.store.wb).filter pick
  let s1 := { s with freeCtr := s.freeCtr + s.store.wb.length }
  if gone = [] then s1 else
  modStore s1 fun v => { v with
    wb := ((enumFrom 0 v.wb).filter fun q => !pick q).map (·.2), badShut := satAdd 64 v.badShut 1 }

/-- What lay in the reserve frames of a fenced stack is lost (R497): leaf tables, save areas and text states each as drawn,
the staging area, and buffered writes as drawn. -/
def loseReserve (s : State) (src : Nat) : State :=
  let tabs := s.atlas.ctx.flatMap fun c => (distinctN (c.2.pages.map fun q => q.1 / 2 ^ 13)).map fun n => (c.1, n * 2 ^ 13)
  let s1 := tabs.foldl (fun st q => drawn st fun u => loseTable u src q.1 q.2) s
  let saved := s1.jobs.jobs.filter fun q => q.2.jcores.any fun c => c.2.area.isSome
  let s2 := saved.foldl (fun st q => drawn st fun u => eccAbort u src q.1) s1
  let s3 := (s2.serving.seqs.map (·.1)).foldl (fun st i => drawn st fun u => loseText u i) s2
  loseWb (modCtl s3 fun c => { c with staging := [], staged := 0 })

/-- Fence an HBM stack: its tiles are poisoned, its frames leave the tenant frames, and its share of the reserve is lost. -/
def fenceStack (s : State) (st : Nat) : State :=
  if !s.enStacks.getLsbD st then s else
  let src := srcHub (st / 4)
  let inSt (q : Nat × FrameUse) : Bool := decide (stackOfFrame q.1 = st)
  let tiles := (s.atlas.frames.filter inSt).filterMap fun q => match q.2 with | .tile t p => some (t, p) | _ => none
  let s1 := tiles.foldl (fun u q => poisonTile u src q.1 q.2 0x20) s
  let gone (q : Nat × FrameUse) : Nat × FrameUse := if inSt q then (q.1, .gone) else q
  let s2 := modAtlas s1 fun a => { a with frames := a.frames.map gone }
  let s3 := { s2 with enStacks := s2.enStacks &&& ~~~ (BitVec.ofNat 20 (2 ^ st)) }
  let s4 := irqAll (postEvent s3 src 0x0201 0 0xFF src 0 0) irqFence
  fitQuotas (loseReserve s4 src)

/-- Fence a flash channel: its units cannot be read any more. -/
def fenceChan (s : State) (c : Nat) : State :=
  if !s.enChans.getLsbD c then s else
  let lost := (s.store.map.filter fun q => decide (q.2.1 = c)).map (·.1)
  let s1 := modStore { s with enChans := s.enChans &&& ~~~ (BitVec.ofNat 40 (2 ^ c)) } fun v =>
    { v with lostUnits := v.lostUnits ++ lost.filter fun u => !v.lostUnits.contains u }
  critNote s (fenceMark s1 (srcChan c))

/-- Fence a fabric port: it leaves every route choice and is DISABLED. -/
def fencePort (s : State) (n : Nat) : State :=
  if !s.enPorts.getLsbD n then s else
  let s0 := { s with enPorts := s.enPorts &&& ~~~ (BitVec.ofNat 48 (2 ^ n)) }
  let s1 := if portUp s0 n then
      let u := setPortSt s0 n .disabled
      probePeer (timePortDown (reroutePort u n) n) (portAt s0 n).peer
    else setPortSt s0 n .disabled
  fenceMark s1 (srcPort n)

/-- The module fences itself once its fenced units exceed the limits (R473). -/
def checkLimits (s : State) : State := if overLimits s then fenceModule s else s

/-- A boot-partition write (R438, R439): none where both mirrors fail; one that fails is fenced, with a BOOT_MIRROR record. -/
def bootWrite (s : State) (fail : Nat) : Option State :=
  let m := mirrorsBad s fail
  if m % 4 = 3 then none
  else if fail % 2 = 1 ∧ s.enChans.getLsbD 0 then some (checkLimits (fenceChan (postEvent s (srcChan 0) 0x0205 0 0xFF 0 0 0) 0))
  else if fail / 2 % 2 = 1 ∧ s.enChans.getLsbD 39 then some (checkLimits (fenceChan (postEvent s (srcChan 39) 0x0205 0 0xFF 0 0 0) 39))
  else some s

end Sys2Proof.Machine
end

