-- ==== Sys2Proof/Machine/FwCmds.lean ====
section
/-! DEFINITION. Firmware, life cycle, attestation and the control die's watchdogs (chapter 18). -/

namespace Sys2Proof.Machine

/-! ### Watchdogs and failed starts (R435, R454, R455) -/

/-- Does the control die run: it has power and has not halted for low flow? -/
def ctlRuns (s : State) : Bool :=
  match s.ctl.start with
  | .starting _ _ => true
  | .up => true
  | _ => false

/-- The CP watchdog fires: a start that has not reached READY has failed, and a WARM reset follows. -/
def execCpWatchdogExpiry (s : State) : Res :=
  if ctlRuns s then .next (warmReset (ensureChosen s)) else .next s

/-- A text engine is reloaded alone: the sequence whose unit it held ends ABORTED; a unit of a command waits for an engine again, before
the others (log 25). -/
def reloadEngine (s : State) (e : Nat) : State :=
  let v := fillEngines 8 s.serving
  match tabFind v.engines e with
  | none => s
  | some q =>
    let s1 := { s with serving := { v with engines := tabDel v.engines e } }
    match unitSeq q.2 with
    | some i => endSeq s1 i 9 stAborted 0
    | none => modServing s1 fun w => { w with units := q :: w.units }

/-- A text engine that is silent is reloaded alone, and the sequence whose unit it held, which the state says, ends; any other helper
causes a WARM reset. -/
def execHelperHeartbeatTimeout (src _seq : Nat) (s : State) : Res :=
  if s.ctl.start ≠ .up ∨ s.ctl.recovery then .next s
  else if 0x480 ≤ src ∧ src < 0x488 then
    .next (reloadEngine (postEvent s src 0x0204 0 0xFF 0 0 0) (src - 0x480))
  else if src = 0x600 ∨ src = srcSeq ∨ (0x100 ≤ src ∧ src < 0x105) ∨ (0x200 ≤ src ∧ src < 0x206) then
    .next (warmReset (postEvent s src 0x0204 (if src = 0x600 then 4 else 0) 0xFF 0 0 0))
  else .next s

/-- READY has not set within 2 s of a WARM start or 3 s of a COLD start: the start has failed (R454). -/
def execStartFailureTimeout (s : State) : Res :=
  match s.ctl.start with
  | .starting since cold =>
    .next (warmReset (ensureChosen (advanceTo s (since + (if cold then 3000 else 2000) * msTicks))))
  | _ => .next s

/-- Set a trial's TRIES to 0 and start the WARM reset that falls back (R455). -/
def revertTrial (s : State) : State :=
  match slotIn s.ctl slTrial with
  | none => s
  | some n => warmReset (modCtl s fun c => putSlot c n { fwSlot c n with tries := 0 })

/-- CONFIRMS seconds after READY without FW.CONFIRM, the device reverts. -/
def execConfirmsTimeout (s : State) : Res :=
  match s.ctl.confirms with
  | none => .next s
  | some (n, ready) =>
    if ready = 0 ∨ (slotIn s.ctl slTrial).isNone then .next s
    else .next (revertTrial (advanceTo s (ready + n * 1000 * msTicks)))

/-- An SMBus recovery request in the ROM's poll (R440, R459). -/
def execRecoveryRequest (s : State) : Res :=
  match s.ctl.start with
  | .starting _ true => if s.ctl.chosen then .next s else .next (modCtl s fun c => { c with recReq := true })
  | _ => .next s

/-! ### FW commands (Table 18.13) -/

/-- What FwDownload requires of its entry (R385): byte offset and whether the field there is at fault. -/
def chkFwDownload (_ : CmdRef) (_ : State) (e : Bytes) : List (Nat × Bool) :=
  let off := par e 8 4
  [(16, decide (par e 0 8 % 8 ≠ 0)), (24, decide (off % 4096 ≠ 0)), (28, decide (2 ^ 30 < off + par e 12 4))]

def execFwDownload (r : CmdRef) (s : State) : Res :=
  runCmd s r 0x0D01 (chkFwDownload r) fun s1 x e =>
    let len := par e 12 4
    if len = 0 then complete s1 r stOk 0 0 else
    match hostBuf x with
    | none => askHost s1 x
    | some bs =>
      let s2 := modCtl s1 fun c => { c with
        staging := cellWrites c.staging (par e 8 4) (padTo len bs), staged := par e 8 4 + len }
      complete s2 r stOk len 0

/-- Is a slot named by a pending activation? -/
def slotPending (s : State) (n : Nat) : Bool := match s.ctl.act with | some a => decide (a.slot = n) | none => false

def execFwCommit (r : CmdRef) (fail : Nat) (s : State) : Res :=
  runCmd s r 0x0D02 noChecks fun s1 _ e =>
    let n := parFld e 0 0 0
    let f := fwSlot s1.ctl n
    if f.st = slActive ∨ f.st = slTrial ∨ slotPending s1 n then complete s1 r stBusy 0 0 else
    match imageOf s1 (cellReads s1.ctl.staging 0 s1.ctl.staged) with
    | .error (.bad o) => complete s1 r stBadParam 0 o
    | .error _ => complete s1 r stAuth 0 0
    | .ok img =>
      match bootWrite s1 fail with
      | none => complete (modCtl s1 fun c => putSlot c n { fwSlot c n with st := slInvalid }) r stMedia 0 0
      | some s2 =>
        let g := slotOfImage img
        complete (modCtl s2 fun c => putSlot c n g) r stOk g.version 0

/-- Can an activation of a slot be applied: it is VALID, no slot is in TRIAL, and its CFGFMT is allowed (R453, R456)? -/
def canActivate (s : State) (n : Nat) : Bool :=
  decide ((fwSlot s.ctl n).st = slValid) && (slotIn s.ctl slTrial).isNone && decide (s.ctl.cfgFmt ≤ (fwSlot s.ctl n).cfgfmt)

/-- Status of an activation that cannot be applied. -/
def activateRefuse (s : State) : Nat := if (slotIn s.ctl slTrial).isSome then stBusy else stBadParam

/-- An activation takes effect: the slot is in TRIAL, its command completes OK, and a WARM reset starts (R453); from recovery
mode the slot becomes ACTIVE at once (R460). -/
def activateSlot (s : State) (n confirms : Nat) (cmd : CmdRef) : State :=
  let f := fwSlot s.ctl n
  let s1 := modCtl s fun c =>
    if c.recovery then
      let c1 := match slotIn c slActive with
        | some a => putSlot c a { fwSlot c a with st := slValid }
        | none => c
      let c2 := putSlot c1 n { f with st := slActive, tries := 0 }
      { c2 with act := none, confirms := none, cfgFmt := max c.cfgFmt f.cfgfmt, trialFmt := none }
    else
      let c1 := putSlot c n { f with st := slTrial, tries := 2 }
      { c1 with act := none, confirms := if confirms = 0 then none else some (confirms, 0) }
  warmReset (complete s1 cmd stOk 0 0)

/-- What FwActivate requires of its entry (R385): byte offset and whether the field there is at fault. -/
def chkFwActivate (_ : CmdRef) (_ : State) (e : Bytes) : List (Nat × Bool) :=
  [(20, decide (86400 < par e 4 4))]

def execFwActivate (r : CmdRef) (s : State) : Res :=
  runCmd s r 0x0D03 (chkFwActivate r) fun s1 _ e =>
    let n := parFld e 0 0 0
    let t := par e 8 8
    if schedWaits s1 r then s1
    else if s1.ctl.recovery ∧ t ≠ 0 then complete s1 r stBadCmd 0 0
    else if s1.ctl.act.isSome then complete s1 r stBusy 0 0
    else if (fwSlot s1.ctl n).st ≠ slValid ∨ (fwSlot s1.ctl n).cfgfmt < s1.ctl.cfgFmt then complete s1 r stBadParam 0 16
    else if t = 0 then
      if canActivate s1 n then activateSlot s1 n (par e 4 4) r else complete s1 r (activateRefuse s1) 0 0
    else match schedRefuse s1 t with
      | some st => complete s1 r st 0 0
      | none => modCtl (addAct s1 t .firmware (some r)) fun c =>
          { c with act := some { slot := n, confirms := par e 4 4, t := t, cmd := r } }

/-- What FwConfirm requires of its entry (R385): byte offset and whether the field there is at fault. -/
def chkFwConfirm (_ : CmdRef) (s0 : State) (e : Bytes) : List (Nat × Bool) :=
  let mask := parFld e 1 3 0
  [(17, decide ((s0.ctl.revoked ||| mask) = 15 ∧ mask ≠ 0))]

def execFwConfirm (r : CmdRef) (fail : Nat) (s : State) : Res :=
  runCmd s r 0x0D04 (chkFwConfirm r)
    fun s1 _ e =>
      let sec := (fwSlot s1.ctl s1.ctl.running).secver
      let raise := parFlg e 0 0 && decide (s1.ctl.minSecver < sec)
      if raise ∧ 64 ≤ s1.ctl.raises then complete s1 r stLifecycle 0 0 else
      match bootWrite s1 fail with
      | none => complete s1 r stMedia 0 0
      | some s2 =>
        let s3 := match slotIn s2.ctl slTrial with
          | none => s2
          | some n =>
            let u := modCtl s2 fun c =>
              let c1 := match slotIn c slActive with
                | some a => putSlot c a { fwSlot c a with st := slValid }
                | none => c
              let c2 := putSlot c1 n { fwSlot c1 n with st := slActive, tries := 0 }
              { c2 with confirms := none, cfgFmt := c.trialFmt.getD c.cfgFmt, trialFmt := none }
            postEvent u srcCp 0x0601 0 0xFF (fwSlot u.ctl n).version 0 0
        let s4 := modCtl s3 fun c => { c with
          revoked := c.revoked ||| parFld e 1 3 0
          minSecver := if raise then sec else c.minSecver
          raises := if raise then c.raises + 1 else c.raises }
        complete s4 r stOk 0 0

def execFwRevert (r : CmdRef) (fail : Nat) (s : State) : Res :=
  runCmd s r 0x0D05 noChecks fun s1 _ _ =>
    if (slotIn s1.ctl slTrial).isNone then complete s1 r stBusy 0 0 else
    match bootWrite s1 fail with
    | none => complete s1 r stMedia 0 0
    | some s2 => revertTrial (complete s2 r stOk 0 0)

/-- A slot record of FW.STATUS. -/
def slotRecord (f : FwSlot) : Bytes :=
  leBytes 1 f.st ++ leBytes 1 f.tries ++ leBytes 2 0 ++ leBytes 4 f.version ++ leBytes 4 f.secver ++ leBytes 4 f.cfgfmt

/-- What FwStatus requires of its entry (R385): byte offset and whether the field there is at fault. -/
def chkFwStatus (_ : CmdRef) (_ : State) (e : Bytes) : List (Nat × Bool) :=
  [(16, decide (par e 0 8 % 8 ≠ 0))]

def execFwStatus (r : CmdRef) (s : State) : Res :=
  runCmd s r 0x0D06 (chkFwStatus r) fun s1 x e =>
    let c := s1.ctl
    let bs := slotRecord c.slotA ++ slotRecord c.slotB ++ leBytes 4 c.running ++ leBytes 4 c.minSecver ++ leBytes 4 c.cfgFmt
      ++ leBytes 8 (match c.act with | some a => a.t | none => 0)
    complete (cmdHostPut s1 x (par e 0 8) (padTo 64 bs)) r stOk 0 0

/-! ### SEC commands -/

/-- Are the debug TAP's instructions open (Table 18.4)? -/
def debugOpen (c : Control) : Bool := decide (c.lifecycle = 0 ∨ c.lifecycle = 3)

def execSecStatus (r : CmdRef) (s : State) : Res :=
  runCmd s r 0x0E01 noChecks fun s1 _ _ =>
    let c := s1.ctl
    let res := c.lifecycle + (8 - c.returns) * 2 ^ 8 + bit01 c.owner.isSome * 2 ^ 16 + bit01 (debugOpen c) * 2 ^ 17
      + c.revoked % 16 * 2 ^ 18 + c.minSecver % 2 ^ 32 * 2 ^ 32
    complete s1 r stOk res 0

/-- 32 bytes that the spec leaves open: drawn from the free values (log 4). -/
def freshBytes (s : State) : Bytes :=
  [0, 1, 2, 3].flatMap fun i => leBytes 8 (Config.freeValue (s.freeCtr + i)).toNat

/-- What SecNonce requires of its entry (R385): byte offset and whether the field there is at fault. -/
def chkSecNonce (_ : CmdRef) (_ : State) (e : Bytes) : List (Nat × Bool) :=
  [(16, decide (par e 0 8 % 8 ≠ 0))]

def execSecNonce (r : CmdRef) (s : State) : Res :=
  runCmd s r 0x0E02 (chkSecNonce r) fun s1 x e =>
    let n := freshBytes s1
    let s2 := modCtl { s1 with freeCtr := s1.freeCtr + 4 } fun c => { c with nonce := some n }
    complete (cmdHostPut s2 x (par e 0 8) n) r stOk 0 0

/-- What SecIdentity requires of its entry (R385): byte offset and whether the field there is at fault. -/
def chkSecIdentity (_ : CmdRef) (_ : State) (e : Bytes) : List (Nat × Bool) :=
  [(16, decide (par e 0 8 % 8 ≠ 0))]

def execSecIdentity (r : CmdRef) (s : State) : Res :=
  runCmd s r 0x0E03 (chkSecIdentity r) fun s1 x e =>
    let att := Config.attCert (allMeas s1.ctl)
    let chain := leBytes 4 Config.idCert.length ++ Config.idCert ++ leBytes 4 att.length ++ att
    let max := par e 8 4
    let s2 := cmdHostPut s1 x (par e 0 8) (chain.take max)
    complete s2 r (if max < chain.length then stShort else stOk) (chain.length % 2 ^ 32) 0

/-- The attestation report without its signature (Table 18.7). -/
def attestBody (s : State) (tenant : Nat) (nonce config : Bytes) : Bytes :=
  let c := s.ctl
  let f := fwSlot c c.running
  leBytes 4 0x54545441 ++ leBytes 2 1 ++ leBytes 1 c.lifecycle ++ leBytes 1 2 ++ leBytes 8 Config.serial.toNat
    ++ leBytes 4 f.version ++ leBytes 4 f.secver ++ leBytes 4 c.minSecver
    ++ leBytes 2 (bit01 c.recovery + 2 * bit01 (decide (f.st = slTrial)) + 4 * bit01 (debugOpen c))
    ++ leBytes 1 tenant ++ leBytes 1 0 ++ padTo 32 nonce ++ leBytes 8 (merNow s) ++ leBytes 4 (s.fab.module % 2 ^ 17) ++ leBytes 4 0
    ++ allMeas c ++ (match c.owner with | some k => shake256 k 32 | none => List.replicate 32 0) ++ config
    ++ List.replicate 48 0

/-- What SecAttest requires of its entry (R385): byte offset and whether the field there is at fault. -/
def chkSecAttest (_ : CmdRef) (_ : State) (e : Bytes) : List (Nat × Bool) :=
  [(16, decide (par e 0 8 % 8 ≠ 0))]

def execSecAttest (r : CmdRef) (s : State) : Res :=
  runCmd s r 0x0E04 (chkSecAttest r) fun s1 x e =>
    let body := attestBody s1 (cmdTenant x) ((e.drop 32).take 32) (freshBytes s1)
    let rep := padTo 3760 (body ++ padTo 3309 (Config.attSign (allMeas s1.ctl) body))
    complete (cmdHostPut { s1 with freeCtr := s1.freeCtr + 4 } x (par e 0 8) rep) r stOk 0 0

/-! ### SEC.LIFECYCLE (R444, R445) -/

/-- Key that signs a transition (Table 18.5): a vendor key, NEWKEY, or the owner key; none for no row. -/
def transitionKey (c : Control) (tok : Bytes) : Option (List (BitVec 8) × Bool) :=
  let k := byteAt tok 48
  let vendor := (Config.vendorKey k, decide (k ≤ 3) && !bitOf c.revoked k)
  let owner := (c.owner.getD [], c.owner.isSome && decide (k = 255))
  let newKey := ((tok.drop 64).take 1952, decide (k = 255))
  match byteAt tok 6, byteAt tok 7 with
  | 0, 1 => some vendor
  | 1, 2 => some newKey
  | 2, 2 => some owner
  | 2, 3 => some owner
  | 1, 3 => some vendor
  | 3, 1 => some vendor
  | 0, 4 => some vendor
  | 1, 4 => some vendor
  | 3, 4 => some vendor
  | 2, 4 => some owner
  | _, _ => none

/-- Does a token break its layout (Table 18.6)? -/
def tokenBad (tok : Bytes) : Bool :=
  decide (fieldAt tok 0 4 ≠ 0x4E4B4F54 ∨ fieldAt tok 4 2 ≠ 1) || !zeroBytes tok 49 63 || !zeroBytes tok 5325 5327
    || (decide (byteAt tok 7 ≠ 2) && !zeroBytes tok 64 2015)

/-- May the life cycle change now? -/
def lifecycleBusy (s : State) : Bool :=
  (s.tens.any fun q => decide (1 ≤ q.1) && q.2.enabled) || (s.store.sqs.any fun q => decide (q.1 ≠ 0))
    || (s.store.cqs.any fun q => decide (q.1 ≠ 0)) || (slotIn s.ctl slTrial).isSome

/-- Is a token authentic: its serial number, the nonce it answers, and the signature by the key of its transition (R444)? -/
def tokenAuth (c : Control) (tok key : Bytes) (may : Bool) : Bool :=
  decide (fieldAt tok 8 8 = Config.serial.toNat ∧ c.nonce = some ((tok.drop 16).take 32)) && may
    && Config.mldsaVerify key (tok.take 2016) ((tok.drop 2016).take 3309)

/-- The life cycle changes: fuses, the event record, the command's completion, and the COLD reset that performs the erasures
(R445). -/
def changeLife (s : State) (r : CmdRef) (tok : Bytes) : State :=
  let dst := byteAt tok 7
  let s1 := modCtl s fun c => { c with
    lifecycle := dst, returns := if dst = 3 then c.returns + 1 else c.returns
    erase := some (byteAt tok 6, dst, (tok.drop 64).take 1952) }
  let s2 := complete (postEvent s1 srcCp 0x0603 1 0xFF dst 0 0) r stOk 0 0
  coldStart { s2 with left := s2.left ++ (s2.out.filter fun o => (outTlp o.2).isSome).map (·.2) }

/-- What SecLifecycle requires of its entry (R385): byte offset and whether the field there is at fault. -/
def chkSecLifecycle (_ : CmdRef) (_ : State) (e : Bytes) : List (Nat × Bool) :=
  [(16, decide (par e 0 8 % 8 ≠ 0))]

def execSecLifecycle (r : CmdRef) (fail : Nat) (s : State) : Res :=
  runCmd s r 0x0E05 (chkSecLifecycle r) fun s1 x _ =>
    if lifecycleBusy s1 then complete s1 r stBusy 0 0 else
    match hostBuf x with
    | none => askHost s1 x
    | some raw =>
      let tok := padTo 5328 raw
      let dst := byteAt tok 7
      if tokenBad tok ∨ byteAt tok 6 ≠ s1.ctl.lifecycle then complete s1 r stBadParam 0 16 else
      match transitionKey s1.ctl tok with
      | none => complete s1 r stBadParam 0 16
      | some (key, may) =>
        let s2 := modCtl s1 fun c => { c with nonce := none }
        if !tokenAuth s1.ctl tok key may then complete s2 r stAuth 0 0
        else if dst = 3 ∧ 8 ≤ s2.ctl.returns then complete s2 r stLifecycle 0 0
        else match bootWrite s2 fail with
        | none => complete s2 r stMedia 0 0
        | some s3 => changeLife s3 r tok

end Sys2Proof.Machine
end

