-- ==== Sys2Proof/Machine/HostCmds.lean ====
section
/-! DEFINITION. Events of the host attachment: resets and their completion, BAR2, MSI-X, ATS, completions, ingress shaping;
FAB.FENCE and DEV.RESET (chapters 12, 15, 16 and 20). -/

namespace Sys2Proof.Machine

/-! ### FAB.FENCE and DEV.RESET (R330, R402) -/

def execFabFence (r : CmdRef) (s : State) : Res :=
  runCmdIf s r 0x0B05 (fun e => parFlg e 1 0) noChecks fun s1 _ e =>
    let mask := par e 0 1
    complete (if mask = 0xFF then fenceModule s1 else fenceServices s1 mask) r stOk 0 0

/-- What DevReset requires of its entry (R385): byte offset and whether the field there is at fault. -/
def chkDevReset (_ : CmdRef) (_ : State) (e : Bytes) : List (Nat × Bool) :=
  [(16, decide (parFld e 0 1 0 ≠ 0))]

def execDevReset (r : CmdRef) (s : State) : Res :=
  runCmd s r 0x0103 (chkDevReset r) fun s1 _ _ =>
    warmReset (complete s1 r stOk 0 0)

/-! ### PERST# and the link (R376, R482) -/

def modHost (s : State) (f : HostIf → HostIf) : State := { s with host := f s.host }

/-- PERST# asserted for 100 µs: the CONV reset. -/
def execPerstAssert (s : State) : Res :=
  if s.host.perst then .next s else
  let s1 := modHost (advance s (100 * usTicks)) fun h => { h with perst := true, linkUp := false, link := none }
  .next (if ctlRuns s then convReset s1 else s1)

def execPerstDeassert (s : State) : Res := .next (modHost s fun h => { h with perst := false })

/-- Rates (2 stands for 2.5 GT/s) and widths at which the link trains (R362). -/
def linkOk (rate width : Nat) : Bool := [128, 64, 32, 16, 8, 5, 2].contains rate && [8, 4, 2, 1].contains width

/-- The link reaches L0: no earlier than the controller's release 150 ms after power-up (R482). -/
def execPcieLinkUp (rate width : Nat) (s : State) : Res :=
  if s.host.perst ∨ s.host.linkUp ∨ !ctlRuns s ∨ !linkOk rate width ∨ s.power.extest.contains 0 then .next s else
  let s1 := advanceTo s (150 * msTicks)
  .next (modHost s1 fun h => { h with linkUp := true, link := some (rate, width), linkAt := s1.clk.ticks })

/-- Hot Reset, Link Disable, or the link going down. -/
def execPcieLinkReset (s : State) : Res :=
  if s.host.linkUp then .next (modHost (convReset s) fun h => { h with link := none }) else .next s

/-! ### Function-level resets (R364, R375) -/

/-- FLR of PF0: VF Enable clears, and every VF is removed. -/
def execFlrPf0 (s : State) : Res :=
  if !ctlRuns s then .next s else
  let vfs := vfsNow s
  .next (removeVfs (applyReset s .flr0 0 3) vfs 3)

/-- FLR of VFt: the TENANT reset of its tenant. -/
def execFlrVf (t : Nat) (s : State) : Res :=
  if ctlRuns s ∧ 1 ≤ t ∧ t ≤ 63 ∧ fnPresent s t then .next (tenantReset s t 3) else .next s

/-- FLR of PF1: the NVMe controller. -/
def execFlrPf1 (s : State) : Res :=
  if ctlRuns s then .next (applyReset s .flr1 0 3) else .next s

/-- A VF becomes present: it starts as after an FLR, with READY 0 and LASTRESET as R364 gives. -/
def appearVf (s : State) (t : Nat) : State :=
  let f := funcAt s t
  let code := if f.wasPresent then f.lastReset else 0
  modFunc (noteReset .tenant code (clearFunc s t) t) t fun x => { x with wasPresent := true }

/-- Numbers of the VFs from `lo` to `hi`. -/
def vfRange (lo hi : Nat) : List Nat := (List.range (hi + 1 - lo)).map (lo + ·)

/-- A write of VF Enable (R364). -/
def execVfEnableWrite (v : Bool) (s : State) : Res :=
  if v = s.host.vfEnable then .next s
  else if v then
    let s1 := modHost s fun h => { h with vfEnable := true }
    .next ((vfRange 1 s.host.numVfs).foldl appearVf s1)
  else
    let vfs := vfsNow s
    let s1 := vfs.foldl (fun st t => tenantReset st t 3) s
    .next (removeVfs (modHost s1 fun h => { h with vfEnable := false }) vfs 3)

/-- A write of NumVFs (R364): TotalVFs is 63. -/
def execNumvfsWrite (n : Nat) (s : State) : Res :=
  if 63 < n then .next s else
  let was := s.host.numVfs
  if !s.host.vfEnable then .next (modHost s fun h => { h with numVfs := n })
  else if was ≤ n then .next ((vfRange (was + 1) n).foldl appearVf (modHost s fun h => { h with numVfs := n }))
  else
    let vfs := vfRange (n + 1) was
    let s1 := vfs.foldl (fun st t => tenantReset st t 4) s
    .next (removeVfs (modHost s1 fun h => { h with numVfs := n }) vfs 4)

/-! ### READY (R376 to R378) -/

/-- Tenants whose jobs a function's reset waits for: none while one of their remote operations is outstanding (R378). -/
def resetBusy (s : State) (fn : Nat) (r : FnReset) : Bool :=
  let ts := if fn = 64 then [] else if r.kind = .tenant then [fn] else resetRuns r.kind fn
  s.jobs.jobs.any fun q => ts.contains q.2.tenant && decide (q.2.remWait ≠ [])

/-- JOIN after a WARM start: the ports carry traffic again, and services that stay fenced are named again (R330, Table 15.11). -/
def joinAfterWarm (s : State) : State :=
  if !s.fab.fenced then s else
  let s1 := { s with fab := { s.fab with fenced := false } }
  let s2 := flood s1 4 s1.fab.module none
  let s3 := if s1.fab.fencedSvc = 0 then s2 else flood s2 (3 + s1.fab.fencedSvc * 256) s1.fab.module none
  routeAll (irqAll s3 irqFence)

/-- PF0's READY ends a start (R440, R454 to R460): records of a fall-back and of the WARM start, the ports, and the count of
CONFIRMS. -/
def startDone (s0 : State) (cold : Bool) : State :=
  let s := ensureChosen s0
  let s1 := modCtl s fun c => { c with
    start := .up, recReq := false, fallback := none, warmCause := none
    confirms := c.confirms.map fun q => (q.1, s.clk.ticks) }
  let s2 := match s.ctl.fallback with | some v => postEvent s1 srcCp 0x0602 0 0xFF v 0 0 | none => s1
  let s3 := match s.ctl.warmCause with | some c => postEvent s2 srcCp 0x0303 0 0xFF c 0 0 | none => s2
  if s3.ctl.recovery then
    (List.range 48).foldl (fun st n => if (portAt st n).st = .disabled then st else setPortSt (timePortDown st n) n .disabled) s3
  else if !cold ∧ s3.power.stage ≠ 4 then joinAfterWarm s3 else s3

/-- Is a start under way, and is it COLD? -/
def startingCold (s : State) : Option Bool :=
  match s.ctl.start with
  | .starting _ c => some c
  | _ => none

/-- A function's reset ends (R376): READY and LASTRESET, and IRQ_CAUSE.READY. -/
def execResetComplete (fn : Nat) (s : State) : Res :=
  match tabFind s.host.resets fn with
  | none => .next s
  | some r =>
    let early : Bool := match startingCold s with | some _ => decide (fn ≠ 0) | none => s.ctl.recovery && decide (fn ≠ 0)
    if !ctlRuns s ∨ resetBusy s fn r ∨ early ∨ (r.kind = .conv ∧ !s.host.linkUp) then .next s else
    let s1 := match startingCold s with
      | some cold => startDone s cold
      | none => s
    let s2 := modHost s1 fun h => { h with resets := tabDel h.resets fn }
    if !fnPresent s2 fn then .next s2 else
    let s3 := modFunc s2 fn fun f => { f with ready := true, lastReset := r.code, wasPresent := true }
    .next (if fn = 64 then s3 else irqSet s3 fn irqReady)

/-! ### BAR2 (R366, R367) -/

/-- Bytes of a function's BAR2 (Table 15.2). -/
def bar2Size (fn : Nat) : Nat := if fn = 0 then 2 ^ 36 else 2 ^ 32

/-- TLP data that arrive from the host count at port 48 and at the function (Tables 19.7 and 19.9). -/
def tlpIn (s : State) (fn n : Nat) : State :=
  let s1 := modPort s 48 fun p => { p with rxw := p.rxw + n }
  countEv (countEvs s1 (srcPort 48) 0x0302 (fnTenant fn) (ceilDiv n 256)) (srcFn fn) 0x0801 0

/-- Is an access one to the window of a present function? -/
def bar2Hit (s : State) (fn off n : Nat) : Bool :=
  decide (fn < 64 ∧ 1 ≤ n ∧ off + n ≤ bar2Size fn) && fnPresent s fn

/-- A host read through the window arrives: 8 ms from now it is answered whatever happens (R367). -/
def execBar2Read (fn tag off len : Nat) (s : State) : Res :=
  if !bar2Hit s fn off len ∨ 4096 < len then .next s else
  let s1 := tlpIn s fn 0
  if !(funcAt s fn).ready then .next (emit s1 (.hostData fn tag (onesBytes len))) else
  .next (barArrive s1 fn (.rd tag ((funcAt s fn).winBase * 65536 + off) len (s.clk.ticks + 8 * msTicks) false none))

/-- A host write through the window arrives. -/
def execBar2Write (fn off : Nat) (bytes : Bytes) (s : State) : Res :=
  if !bar2Hit s fn off bytes.length ∨ 512 < bytes.length then .next s else
  let s1 := tlpIn s fn bytes.length
  if !(funcAt s fn).ready then .next s1 else
  .next (barArrive s1 fn (.wr ((funcAt s fn).winBase * 65536 + off) bytes false))

/-- Is it a read of the host? -/
def isRd (q : BarReq) : Bool := match q with | .rd .. => true | _ => false

/-- A queue without its oldest read. -/
def dropRd : List BarReq → List BarReq
  | [] => []
  | q :: qs => if isRd q then qs else q :: dropRd qs

/-- A function's oldest read still waits at 8 ms: all-ones, and IRQ_CAUSE.BAR2TO. -/
def execBar2ReadTimeout (fn : Nat) (s : State) : Res :=
  match (funcAt s fn).barq.find? isRd with
  | some (.rd tag _ len dl _ _) =>
    let s1 := modFunc (advanceTo s dl) fn fun f => { f with barq := dropRd f.barq }
    let s2 := orphanRems s1 fun o => match o with | .host f t => decide (f = fn ∧ t = tag) | _ => false
    .next (serveAll (irqSet (emit s2 (.hostData fn tag (onesBytes len))) fn irqBar2to))
  | _ => .next s

/-- A BAR0 access that is not a naturally aligned 4-byte or 8-byte access (R365). -/
def execBar0BadAccess (fn : Nat) (isRead : Bool) (s : State) : Res :=
  if 64 ≤ fn ∨ !fnPresent s fn then .next s else
  let s1 := irqSet (tlpIn s fn 0) fn irqAccerr
  .next (if isRead then emit s1 (.regData fn 0) else s1)

/-- The commit of WIN_BASE: a write of the high word, or an 8-byte write (R366). -/
def execWinBaseWrite (fn : Nat) (wide : Bool) (value : Nat) (s : State) : Res :=
  if 64 ≤ fn ∨ !fnPresent s fn then .next s else
  let low := if wide then bitsOf value 31 16 else (funcAt s fn).winLow
  let high := if wide then bitsOf value 56 32 else value % 2 ^ 25
  .next (modFunc (tlpIn s fn (if wide then 8 else 4)) fn fun f => { f with winLow := low, winBase := high * 2 ^ 16 + low })

/-! ### MSI-X (R370) -/

/-- DELAY after the first counted event has passed. -/
def execMsixModerationTimer (fn v : Nat) (s : State) : Res :=
  let x := vecAt (funcAt s fn) v
  match x.due with
  | none => .next s
  | some t =>
    let s1 := advanceTo s t
    if vecMasked (funcAt s fn) x then .next (putVec s1 fn v { x with pba := true, count := 0, due := none })
    else .next (sendMsix s1 fn v x)

/-- A vector that is no longer masked sends one message for its PBA bit. -/
def sendPending (fn : Nat) (s : State) (v : Nat) : State :=
  let f := funcAt s fn
  let x := vecAt f v
  if x.pba ∧ f.ready ∧ !vecMasked f x then sendMsix s fn v x else s

/-- A vector's mask clears, or the function mask (`v` none). -/
def execMsixUnmask (fn : Nat) (v : Option Nat) (s : State) : Res :=
  if !fnPresent s fn then .next s else
  match v with
  | some i =>
    if vecCount fn ≤ i then .next s else
    .next (sendPending fn (putVec s fn i { vecAt (funcAt s fn) i with mask := false }) i)
  | none =>
    let s1 := modFunc s fn fun f => { f with msixMask := false }
    .next (((funcAt s1 fn).vecs.map (·.1)).foldl (sendPending fn) s1)

/-! ### ATS (R372) -/

/-- An Invalidate Request for n pages of 4 KiB: at most 32 of a function wait (R363). -/
def execAtsInvalidate (fn page n : Nat) (s : State) : Res :=
  if 64 ≤ fn ∨ !fnPresent s fn ∨ 32 ≤ (s.host.inval.filter fun q => q.1 = fn).length then .next s else
  .next (settleInval (modHost s fun h => { h with
    atc := h.atc.filter fun e => !(decide (e.1 = fn ∧ page ≤ e.2.2 ∧ e.2.2 < page + n))
    inval := h.inval ++ [(fn, page, n)] }))

/-! ### Completions of the device's own requests (R373) -/

/-- Function under whose requester ID a transfer runs, and the tenant its failure concerns. -/
def xferWho (s : State) (x : HostXfer) : Nat × Nat :=
  match x with
  | .fetch f _ => (f, fnTenant f)
  | .cq f _ => (f, fnTenant f)
  | .cmd r => (r.fn, fnTenant r.fn)
  | .t3 t _ => (0, t)
  | .stream i => (match seqAt s i with | some q => (q.fn, q.tenant) | none => (0, 0))
  | .nvme _ _ => (64, 0)

/-- The record of a failed host request: a bus address of a tenant's own function is not named (R475). -/
def hostReqFail (s : State) (x : HostXfer) (addr code : Nat) : State :=
  let w := xferWho s x
  postEvent s (srcFn w.1) 0x0103 0 w.2 (if w.1 = 0 then addr else hideAddr w.2 addr) code 0

/-- Drop a read from those outstanding. -/
def dropRead (s : State) (x : HostXfer) : State := modHost s fun h => { h with reads := h.reads.filter (· ≠ x) }

/-- A command whose transfer failed ends with FAULT; what a class X command had done is undone. -/
def cmdHostFail (s : State) (x : Inflight) : State :=
  let s1 := forgetCmd s x.ref
  let s2 := if x.started ∧ stopOf x.entry = .x then undoCmd s1 x else s1
  complete s2 x.ref stFault (if stopOf x.entry = .p then x.done else 0) 0

/-- Tick at which CONS is read again: the next beat, or 100 µs from now (R265). -/
def consPollTick (s : State) (x : Seq) : Nat :=
  match modelAt s x.gen0.1 with
  | some m =>
    if m.serve.served ∧ m.serve.beat ≠ 0 then
      let c := match verAt s x.gen0 with | some v => decodeCore s m.tenant v | none => srcCp
      s.clk.ticks + (m.serve.origin + nextBeatOf (merAt s c + 1) m.serve * m.serve.beat - merAt s c)
    else s.clk.ticks + 100 * usTicks
  | none => s.clk.ticks + 100 * usTicks

/-- CONS has been read: text that fits leaves, or the ring still lacks room and the STALL flag sets (R265). -/
def consArrive (s : State) (i cons : Nat) : State :=
  match seqAt s i with
  | none => s
  | some x =>
    let s1 := modSeq s i fun y => { y with cons := min cons y.prod }
    if 2 ^ sqOutlog2 x ≤ x.prod - min cons x.prod then
      modSeq s1 i fun y => { y with flags := y.flags ||| 2 ^ 6, pollAt := some (consPollTick s x) }
    else flushSeq s1 i

/-- A stream's request failed: its sequence ends with reason FAULT, and text that has not left stays behind.  DEDUCED: R265
states no consequence; Table 16.5 gives FAULT to a failed host request (log 30). -/
def streamFail (s : State) (i : Nat) : State := endSeq (modSeq s i fun x => { x with outq := [] }) i 8 stFault 0

/-- A transfer fails with a code of R373. -/
def xferFail (s : State) (x : HostXfer) (addr code : Nat) : State :=
  let s1 := hostReqFail (dropRead s x) x addr code
  match x with
  | .fetch f m => mboxError s1 f m fun b => { b with fetcherr := true }
  | .cq f m => mboxError s1 f m fun b => { b with cqerr := true }
  | .cmd r => (match inflAt s1 r with | some y => cmdHostFail s1 y | none => s1)
  | .t3 t p => (match migOf s1 t p with | some m => poisonMig s1 m 0x23 | none => s1)
  | .stream i => streamFail s1 i
  | .nvme q c => nvArrive s1 q c code []

/-- Can a transfer fail now with a code: it is under way; or it is one of the device's writes, which a denied translation
alone can fail (R373)? -/
def canFail (s : State) (x : HostXfer) (code : Nat) : Bool :=
  match x with
  | .fetch f m => canFetchMbox s f m
  | .cq f m => decide (code = 5) && fnPresent s f && decide ((mboxAt s f m).st = .enabled)
  | .t3 _ _ => decide (code ≠ 5) && s.host.reads.contains x
  | .cmd r => s.host.reads.contains x ||
      (decide (code = 5) && (match inflAt s r with | some y => !y.mctp && decide (y.status = none) | none => false))
  | .stream i => s.host.reads.contains x || (decide (code = 5) && (seqAt s i).isSome)
  | .nvme _ _ => s.host.reads.contains x

/-- A completion for a read of the device arrives. -/
def execHostCompletion (x : HostXfer) (code addr : Nat) (data : Bytes) (s : State) : Res :=
  if 5 < code ∨ code = 4 then .next s
  else if code ≠ 0 then (if canFail s x code then .next (serveAll (settleInval (xferFail s x addr code))) else .next s)
  else if !s.host.reads.contains x then .next s else
  let w := xferWho s x
  let s1 := tlpIn (dropRead s x) w.1 data.length
  let pasid := match x with | .cmd r => mboxPasid s r.fn r.mbox | _ => none
  let s2 := modHost s1 fun h => noteAtc h w.1 (match x with | .t3 _ _ => 5 | _ => 7) addr pasid
  .next (settleInval (match x with
    | .cmd r => modInfl s2 r fun y => { y with hdata := some data }
    | .stream i => consArrive s2 i (fieldAt data 0 8)
    | .nvme q c => nvArrive s2 q c 0 data
    | _ => s2))

/-- A read of the device times out: kind 0x04. -/
def execCompletionTimeout (x : HostXfer) (addr : Nat) (s : State) : Res :=
  if canFail s x 4 then .next (serveAll (settleInval (xferFail s x addr 4))) else .next s

/-! ### Host ingress shaping (R374) -/

/-- The bucket that an entry's shadows describe. -/
def ingressSet (g : Ingress) : Bucket :=
  { rate := g.shRate, burst := bitsOf g.shWord 23 0, enable := bitOf g.shWord 29, empty := bitOf g.shWord 30 }

/-- A write of word +8 of a host ingress entry: with COMMIT 1 the shadows are committed, or CBAD sets. -/
def execHostIngressCommit (f word : Nat) (s : State) : Res :=
  if 64 < f then .next s else
  let s1 := modIngress (tlpIn s 0 4) f fun g => { g with shWord := bitsOf word 30 29 * 2 ^ 29 + bitsOf word 23 0 }
  if !bitOf word 31 then .next s1
  else if bucketGood (ingressSet (ingressAt s1 f)) then
    .next (serveAll (modIngress s1 f fun g => { g with bucket := bucketCommit g.bucket (ingressSet g) (grainAt s1 (srcFn 0)) }))
  else .next (modHost s1 fun h => { h with hqCbad := true })

end Sys2Proof.Machine
end

