-- ==== Sys2Proof/Machine/Electrical.lean ====
section
/-! DEFINITION. Power, coolant, boundary scan, and writes of register fields that have no row of their own (chapters 0, 15, 16,
18 and 20). -/

namespace Sys2Proof.Machine

/-! ### Power and coolant (R440, R441, R487, R492) -/

/-- Units that fail their bring-up tests, as masks of cores, stacks, channels and ports, are fenced; a start in which too many
fail, or the control die itself, has failed and a WARM reset follows (R441, R454). -/
def bringUp (s : State) (cores hbms chans ports : Nat) (ctlFail : Bool) : State :=
  let ones (n m : Nat) : List Nat := (List.range n).filter fun i => bitOf m i
  let s1 := (ones 96 cores).foldl fenceCore s
  let s2 := (ones 20 hbms).foldl fenceStack s1
  let s3 := (ones 40 chans).foldl fenceChan s2
  let s4 := (ones 48 ports).foldl fencePort s3
  if ctlFail ∨ overLimits s4 then warmReset (ensureChosen s4) else s4

/-- The state without power: what power does not hold is gone (R419, R486, R487). -/
def powerGone (s : State) : State :=
  let s1 := coldStart s
  let s2 := modCtl s1 fun c => { c with start := .off }
  modStore s2 fun v => { v with powerCycles := s.store.powerCycles }

/-- 54 V has been within range for 100 ms: COLD (R487).  Below 1.0 L/min the ROM halts before the units are brought up. -/
def execPowerApplied (cores hbms chans ports : Nat) (ctlFail : Bool) (s : State) : Res :=
  let s0 := if s.ctl.start = .off then s else powerGone s
  let s1 := modStore (coldStart s0) fun v => { v with powerOn := s0.store.powerOn }
  match s1.ctl.start with
  | .coolant _ => .next s1
  | _ => .next (bringUp s1 cores hbms chans ports ctlFail)

/-- The input leaves its range: every activity ends at once. -/
def execInputShutdown (s : State) : Res := if s.ctl.start = .off then .next s else .next (powerGone s)

/-- The flow (0.01 L/min) has been at least 4.5 L/min for 1 s: the COLD start begins now. -/
def execCoolantWaitEnd (flow cores hbms chans ports : Nat) (ctlFail : Bool) (s : State) : Res :=
  match s.ctl.start with
  | .coolant _ =>
    if flow < 450 then .next s else
    let s1 := advance s (1000 * msTicks)
    let s2 := modCtl { s1 with power := { s1.power with flow := flow } } fun c => { c with start := .starting s1.clk.ticks true }
    .next (bringUp s2 cores hbms chans ports ctlFail)
  | _ => .next s

/-! ### Alert signals (R484) -/

/-- ALERT# is asserted while the thermal stage is 1 or higher.  The thresholds of PLDM sensors, which it also shows, arrive by messages
that the spec does not give (log 36). -/
def alertOut (s : State) : Bool := decide (1 ≤ s.power.stage)

/-! ### Boundary scan (R443, R493) -/

/-- A TAP instruction is loaded on a device of the chain: 0 the control die, 1 to 6 the link dies, 7 to 11 the hub dies, 12 to 19
the compute dies.  EXTEST disconnects the die's I/O: the control die's link goes down, a link die's ports lose theirs.  What any
other instruction does where the debug TAP is open, the spec does not say. -/
def execJtagInstructionLoad (dev : Nat) (i : TapInstr) (s : State) : Res :=
  if 20 ≤ dev ∨ s.ctl.start = .off then .next s else
  let s1 := modCtl s fun c => { c with tap := tabPut c.tap dev i }
  match i with
  | .extest =>
    let s2 := { s1 with power := { s1.power with extest := if s1.power.extest.contains dev then s1.power.extest else s1.power.extest ++ [dev] } }
    if dev = 0 then .next (if s2.host.linkUp then modHost (convReset s2) fun h => { h with link := none } else s2)
    else if dev ≤ 6 then .next ((List.range 8).foldl (fun st k => portDown st (8 * (dev - 1) + k)) s2)
    else .next s2
  | .other _ => if debugOpen s.ctl then .fault .undescribedUnit else .next s1
  | _ => .next s1

/-! ### Register writes (R6, R7, R9 to R12) -/

/-- A 32-bit write in PF0's or a VF's identity, datum and interrupt blocks. -/
def writeBlock (s : State) (fn off v : Nat) : State :=
  if off = 0x50 then modFunc s fn fun f => { f with winLow := bitsOf v 31 16 }
  else if off = 0x1008 then modTime s fun t => { t with ppsloss := t.ppsloss && !bitOf v 9, slewmax := t.slewmax && !bitOf v 8 }
  else if off = 0x2000 then modFunc s fn fun f => { f with irqCause := f.irqCause % 256 - (f.irqCause % 256 &&& v) }
  else if off = 0x2004 then modFunc s fn fun f => { f with irqEnable := if fn = 0 then v % 256 else v % 256 &&& 0xBC }
  else if off = 0x2008 then (if vecCount fn ≤ v % 2048 then s else modFunc s fn fun f => { f with irqVec := v % 2048 })
  else if off = 0x2014 then modAtlas s fun a => { a with ctx := tabUpd a.ctx fn fun c =>
    { c with full := c.full && !bitOf v 1, werr := c.werr && !bitOf v 2 } }
  else if 0x2100 ≤ off ∧ off < 0x2140 then
    (if v % 256 = 0 then s else modFunc s fn fun f =>
      { f with profiles := tabPut f.profiles ((off - 0x2100) / 4) { delay := bitsOf v 23 8, count := v % 256 } })
  else if 0x2400 ≤ off ∧ off < 0x2400 + vecCount fn / 2 then
    (List.range 8).foldl (fun st j => let n := (off - 0x2400) * 2 + j
      putVec st fn n { vecAt (funcAt st fn) n with prof := bitsOf v (4 * j + 3) (4 * j) }) s
  else s

/-- A 32-bit write in PF0's host ingress block (Table 15.9) or of HQ_STAT. -/
def writeIngress (s : State) (off v : Nat) : State :=
  if off = 0x410 then modHost s fun h => { h with hqCbad := h.hqCbad && !bitOf v 0 }
  else if 64 < off / 16 then s
  else if off % 16 = 0 then
    (if bitsOf v 23 16 = 0 ∨ 128 < bitsOf v 23 16 ∨ v % 256 = 0 then s
     else serveAll (capCheck (modIngress s (off / 16) fun g => { g with cap := bitsOf v 23 16, wgt := v % 256 }) (off / 16)))
  else if off % 16 = 4 then modIngress s (off / 16) fun g => { g with shRate := v }
  else s

/-- Replace a half of a 64-bit value. -/
def putHalf (old : Nat) (high : Bool) (v : Nat) : Nat :=
  if high then v % 2 ^ 32 * 2 ^ 32 + old % 2 ^ 32 else old / 2 ^ 32 * 2 ^ 32 + v % 2 ^ 32

/-- An RWB field of an admin mailbox: discarded with WREJ unless the mailbox is OFF (R10, R379). -/
def writeRwb (s : State) (fn : Nat) (f : Mbox → Mbox) : State :=
  let b := mboxAt s fn 0
  setMbox s fn 0 (if b.st = .off then f b else { b with wrej := true })

/-- A 32-bit write in a doorbell page (Table 16.1), but for its doorbells and EN. -/
def writePage (s : State) (fn m off v : Nat) : State :=
  if off = 0x008 then
    let b := mboxAt s fn m
    setMbox s fn m { b with cfgerr := b.cfgerr && !bitOf v 7, cqerr := b.cqerr && !bitOf v 6, fetcherr := b.fetcherr && !bitOf v 5
                            dberr := b.dberr && !bitOf v 4, wrej := b.wrej && !bitOf v 3 }
  else if m ≠ 0 then s
  else if off = 0x010 then writeRwb s fn fun b => { b with sqBase := putHalf b.sqBase false (v / 4096 * 4096) }
  else if off = 0x014 then writeRwb s fn fun b => { b with sqBase := putHalf b.sqBase true v }
  else if off = 0x018 then writeRwb s fn fun b => { b with cqBase := putHalf b.cqBase false (v / 4096 * 4096) }
  else if off = 0x01C then writeRwb s fn fun b => { b with cqBase := putHalf b.cqBase true v }
  else if off = 0x020 then writeRwb s fn fun b => { b with vector := bitsOf v 26 16, cqLog2 := bitsOf v 12 8, sqLog2 := v % 32 }
  else if off = 0x024 then setMbox s fn 0 { mboxAt s fn 0 with defto := v }
  else s

/-- A 32-bit write of an MSI-X table entry; a mask that clears lets a pending message out (R370). -/
def writeVec (s : State) (fn n off v : Nat) : State :=
  if vecCount fn ≤ n then s else
  let x := vecAt (funcAt s fn) n
  if off = 0 then putVec s fn n { x with addr := putHalf x.addr false (v / 4 * 4) }
  else if off = 4 then putVec s fn n { x with addr := putHalf x.addr true v }
  else if off = 8 then putVec s fn n { x with data := v }
  else sendPending fn (putVec s fn n { x with mask := bitOf v 0 }) n

/-- A 32-bit write in PF1's BAR0: NVMe controller registers and the MSI-X table. -/
def writeNvme (s : State) (off v : Nat) : State :=
  if 0x8000 ≤ off then writeVec s 64 ((off - 0x8000) / 16) (off % 16) v
  else if off = 0x0C then modStore s fun x => { x with intm := x.intm ||| v }
  else if off = 0x10 then modStore s fun x => { x with intm := x.intm - (x.intm &&& v) }
  else if off = 0x14 then writeCc s v
  else if off = 0x24 then modStore s fun x => { x with aqa := v &&& 0x0FFF0FFF }
  else if off = 0x28 then modStore s fun x => { x with asq := putHalf x.asq false (v / 4096 * 4096) }
  else if off = 0x2C then modStore s fun x => { x with asq := putHalf x.asq true v }
  else if off = 0x30 then modStore s fun x => { x with acq := putHalf x.acq false (v / 4096 * 4096) }
  else if off = 0x34 then modStore s fun x => { x with acq := putHalf x.acq true v }
  else s

/-- A 32-bit write of a BAR0 offset (Table 15.3).  Fields with a row of their own are not written here. -/
def writeWord (fn : Nat) (s : State) (off v : Nat) : State :=
  if fn = 64 then (if (funcAt s 64).ready then writeNvme s off v else s)
  else if off < 0x3000 then writeBlock s fn off v
  else if fn = 0 then
    if 0x4000 ≤ off ∧ off < 0x5000 then writeIngress s (off - 0x4000) v
    else if 0x10000 ≤ off ∧ off < 0x51000 then writePage s 0 ((off - 0x10000) / 0x1000) (off % 0x1000) v
    else if 0x80000 ≤ off ∧ off < 0x88000 then writeVec s 0 ((off - 0x80000) / 16) (off % 16) v
    else s
  else
    if 0x10000 ≤ off ∧ off < 0x20400 then writePage s fn ((off - 0x10000) / 0x400) (off % 0x400) v
    else if 0x30000 ≤ off ∧ off < 0x30400 then writeVec s fn ((off - 0x30000) / 16) (off % 16) v
    else s

/-- A register write of the host. -/
def execRegisterWrite (fn : Nat) (w : RegWrite) (s : State) : Res :=
  if !fnPresent s fn ∨ !ctlRuns s then .next s else
  match w with
  | .bar0 off len v =>
    if (len ≠ 4 ∧ len ≠ 8) ∨ off % len ≠ 0 then .next (if fn = 64 then s else irqSet s fn irqAccerr)
    else
      let s1 := if fn = 64 then s else tlpIn s fn len
      let s2 := writeWord fn s1 off (v % 2 ^ 32)
      .next (if len = 8 then writeWord fn s2 (off + 4) (v / 2 ^ 32 % 2 ^ 32) else s2)
  | .msixControl en fm =>
    let s1 := modFunc s fn fun f => { f with msixEn := en, msixMask := fm }
    .next (((funcAt s1 fn).vecs.map (·.1)).foldl (sendPending fn) s1)
  | .atsEnable v => .next (if fn = 64 then s else modFunc s fn fun f => { f with atsEn := v })
  | .pasidEnable v => .next (if fn = 64 then s else modFunc s fn fun f => { f with pasidEn := v })

end Sys2Proof.Machine
end

