-- ==== Sys2Proof/Machine/FaultRing.lean ====
section
/-! DEFINITION. Fault rings: waiting records are written (R187 to R189, R495). -/

namespace Sys2Proof.Machine

/-- What a written record held goes on (R189): a command completes; a core's job-core may resume or end; a sequence may end. -/
def releaseHolder (s : State) (h : FaultHolder) : State :=
  match h with
  | .cmd f m c =>
    if s.atlas.ctx.any (fun q => q.2.waiting.any fun w => decide (w.holder = h)) then s else
    match (s.inflight.find? fun x => x.ref = ⟨f, m, c⟩).bind (·.status) with
    | some (st, res, d) => complete s ⟨f, m, c⟩ st res d
    | none => s
  | .core _ _ j => settleCore s j
  | .seq i => flushSeq s i
  | _ => s

/-- Mark a record as waiting for room. -/
def ringFull (s : State) (t : Nat) : State := updCtx s t fun c => { c with full := true }

/-- The oldest waiting record of a tenant is written to its ring, then the producer count; `ok` false: the write failed
(R373). -/
def execFaultRingWrite (t : Nat) (ok : Bool) (s : State) : Res :=
  let c := ctxAt s t
  match c.waiting with
  | [] => .next s
  | rcd :: rest =>
    if ringNoRoom c then .next (ringFull s t)
    else if c.stalled then .next s
    else if !ok then .next (setCtx s t { c with werr := true, stalled := true })
    else match c.ring with
    | none => .next s
    | some g =>
      let slot := c.prod % 2 ^ g.log2n
      let prod := (c.prod + 1) % 2 ^ 32
      let s1 := hostPut (setCtx s t { c with waiting := rest, prod := prod }) t (g.haddr + 32 * slot) rcd.bytes
      let s2 := hostPut s1 t g.paddr (leBytes 8 prod)
      let s3 := if c.prod = c.cidx then msixEvent s2 t g.vector else s2
      .next (releaseHolder s3 rcd.holder)

end Sys2Proof.Machine
end

