-- ==== Sys2Proof/Machine/TenCmds.lean ====
section
/-! DEFINITION. The TEN group (R404 to R406). -/

namespace Sys2Proof.Machine

/-- While its tenant is under reset a TEN command waits (R378). -/
def tenWaits (s : State) (t : Nat) : Bool := tabHas s.host.resets t

/-- Checks of TEN.ENABLE: tenant 0 cannot be disabled. -/
def tenEnChecks (e : Bytes) : List (Nat × Bool) :=
  [(16, decide (parFld e 0 5 0 = 0) && !parFlg e 1 0)]

/-- Change a tenant's configuration. -/
def modTen (s : State) (t : Nat) (f : Tenant → Tenant) : State := { s with tens := tabPut s.tens t (f (tenAt s t)) }

def execTenEnable (r : CmdRef) (s : State) : Res :=
  runCmdIf s r 0x0301 (fun e => parFlg e 1 0) (fun _ e => tenEnChecks e) fun s1 _ e =>
    let t := parFld e 0 5 0
    if tenWaits s1 t then s1
    else if (tenAt s1 t).enabled then complete s1 r stOk 0 0
    else
      let s2 := setCtx (modTen s1 t fun x => { x with enabled := true }) t {}
      complete (irqSet s2 t irqTenant) r stOk 0 0

/-- Disabling: the TENANT reset, and the context is destroyed; the command completes when the reset has. -/
def execTenDisable (r : CmdRef) (s : State) : Res :=
  runCmdIf s r 0x0301 (fun e => !parFlg e 1 0) (fun _ e => tenEnChecks e) fun s1 x e =>
    let t := parFld e 0 5 0
    if tenWaits s1 t then s1
    else if !(tenAt s1 t).enabled then complete s1 r stOk 0 0
    else
      let s2 := modTen (tenantReset s1 t 4) t fun y => { y with enabled := false }
      let s3 := irqSet (modAtlas s2 fun a => { a with ctx := tabDel a.ctx t }) t irqTenant
      modInfl s3 x.ref fun y => { y with done := 1 }

/-- The set that a TEN.CONFIG carries (Table 16.9). -/
def tenSet (e : Bytes) (old : Tenant) : Tenant :=
  { old with
    svcmask := par e 1 1, joblim := parFld e 2 12 0, tablim := par e 4 4, cores := BitVec.ofNat 96 (par e 8 12)
    qt1 := par e 20 4, qt2 := par e 24 4, qt3 := par e 28 4, qt4 := par e 32 4 }

/-- Would the set break R167, R171 or the table share (R405)? -/
def tenNoFit (s : State) (t : Nat) (new : Tenant) : Bool :=
  let old := tenAt s t
  let rest := tabDel s.tens t
  decide (tenantFrames s < (rest.map fun q => q.2.qt1).sum + new.qt1)
    || decide (new.qt1 < old.qt1 ∧ new.qt1 < pinnedCount s t)
    || decide (new.tablim < framesWith s t [])
    || decide (132352 < (rest.map fun q => q.2.tablim).sum + new.tablim)

/-- Job-cores of a tenant on cores that have left its mask are pre-empted at once: RESIDENT ones are saved, RESTORING ones stop
(R198). -/
def leaveCores (s : State) (t : Nat) : State :=
  let out (st : JcState) : List (Nat × Nat) := (s.jobs.jobs.filter fun q => q.2.tenant = t).flatMap fun q =>
    (q.2.jcores.filter fun c => decide (c.2.st = st) && !(tenAt s t).cores.getLsbD c.2.core).map fun c => (q.1, c.1)
  (out .restoring).foldl (fun st q => stopRestore st q.1 q.2) ((out .resident).foldl (fun st q => startSave st q.1 q.2) s)

/-- What TenConfig requires of its entry (R385): byte offset and whether the field there is at fault. -/
def chkTenConfig (_ : CmdRef) (_ : State) (e : Bytes) : List (Nat × Bool) :=
  [(17, decide (par e 1 1 % 4 ≠ 3)), (18, decide (4096 < parFld e 2 12 0))]

def execTenConfig (r : CmdRef) (s : State) : Res :=
  runCmd s r 0x0302 (chkTenConfig r) fun s1 _ e =>
    let t := parFld e 0 5 0
    if tenWaits s1 t then s1 else
    let new := tenSet e (tenAt s1 t)
    if tenNoFit s1 t new then complete s1 r stNoFit 0 0 else
    let s2 := modTen s1 t fun _ => new
    let s3 := [0, 1, 2, 3].foldl (fun st k => demoteExcess st t k) s2
    complete (irqSet (placement (leaveCores s3 t)) t irqTenant) r stOk 0 0

/-- The 128 bytes of TEN.QUERY. -/
def tenData (s : State) (t : Nat) : Bytes :=
  let x := tenAt s t
  padTo 128 (leBytes 1 t ++ leBytes 1 x.svcmask ++ leBytes 2 x.joblim ++ leBytes 4 x.tablim ++ leBytes 12 x.cores.toNat
    ++ leBytes 4 x.qt1 ++ leBytes 4 x.qt2 ++ leBytes 4 x.qt3 ++ leBytes 4 x.qt4 ++ leBytes 4 0
    ++ leBytes 4 (tierCount s t 0) ++ leBytes 4 (tierCount s t 1) ++ leBytes 4 (tierCount s t 2) ++ leBytes 4 (tierCount s t 3)
    ++ leBytes 4 (s.jobs.jobs.filter fun q => q.2.tenant = t).length
    ++ leBytes 4 (s.serving.seqs.filter fun q => q.2.tenant = t).length ++ leBytes 4 (framesWith s t []))

/-- What TenQuery requires of its entry (R385): byte offset and whether the field there is at fault. -/
def chkTenQuery (_ : CmdRef) (_ : State) (e : Bytes) : List (Nat × Bool) :=
  [(24, decide (par e 8 8 % 8 ≠ 0))]

def execTenQuery (r : CmdRef) (s : State) : Res :=
  runCmd s r 0x0303 (chkTenQuery r) fun s1 x e =>
    let t := parFld e 0 5 0
    if r.fn ≠ 0 ∧ t ≠ r.fn then complete s1 r stNoPerm 0 0
    else if tenWaits s1 t then s1
    else complete (cmdHostPut s1 x (par e 8 8) (tenData s1 t)) r stOk 0 0

end Sys2Proof.Machine
end

