-- ==== Sys2Proof/Machine/PerfCmds.lean ====
section
/-! DEFINITION. Counters, unit records and surveys: the PERF group (R410, R411, R477, R478). -/

namespace Sys2Proof.Machine

/-! ### Units and events (Tables 1.6 and 19.7) -/

/-- Ranges of source numbers in use: first, last (Table 1.6). -/
def unitRanges : List (Nat × Nat) :=
  [(0, 0x5F), (0x100, 0x104), (0x200, 0x205), (0x300, 0x330), (0x480, 0x487), (0x500, 0x500), (0x600, 0x600), (0x680, 0x680),
   (0x700, 0x727), (0x800, 0x840)]

/-- Does a unit with this source number exist? -/
def unitExists (src : Nat) : Bool := unitRanges.any fun r => decide (r.1 ≤ src ∧ src ≤ r.2)

/-- Every unit, in ascending source order. -/
def allUnits : List Nat := unitRanges.flatMap fun r => (List.range (r.2 + 1 - r.1)).map (r.1 + ·)

/-- The first event code of a unit's kind and its events' tenant marks (Table 19.7). -/
def unitEvents (src : Nat) : Nat × List Bool :=
  if src < 0x100 then (0x0001, [true, true, false, true, true, false, true, false, true, true, true, true, true, true])
  else if src < 0x200 then (0x0101, [true, true, true, true, true, true, true, true, true])
  else if src < 0x300 then (0x0201, [false, false, true, false])
  else if src < 0x400 then (0x0301, [true, true, false, false, false, false])
  else if src < 0x500 then (0x0401, [true, true, true])
  else if src < 0x600 then (0x0501, [false, true, false, true, true, false])
  else if src < 0x680 then (0x0601, [true, false])
  else if src < 0x700 then (0x0681, [true, false])
  else if src < 0x800 then (0x0701, [true, false, false, false, false])
  else (0x0801, [false, false, false])

/-- Does a unit offer an event, and is it tenant-filterable? -/
def unitEvent (src ev : Nat) : Option Bool :=
  let u := unitEvents src
  if ev < u.1 then none else u.2[ev - u.1]?

/-- A unit's cycle counter: its own clock from COLD (R477, Table 19.7). -/
def unitCycles (s : State) (src : Nat) : Nat :=
  let t := s.clk.ticks
  if src < 0x100 then cycNow s src
  else if src < 0x200 ∨ (0x700 ≤ src ∧ src < 0x800) then t / 2
  else if src < 0x400 then t * 25 / 64
  else t / 4

/-- A unit's status. -/
def unitAt (s : State) (src : Nat) : UnitStat := tabGet s.units src {}

/-- Change a unit's status. -/
def modUnit (s : State) (src : Nat) (f : UnitStat → UnitStat) : State :=
  { s with units := tabPut s.units src (f (unitAt s src)) }

/-! ### PERF.SELECT (R410) -/

/-- Checks of PERF.SELECT: the unit, its event, chaining and the filter (R410, R477). -/
def selectChecks (e : Bytes) : List (Nat × Bool) :=
  let src := par e 0 2
  let ev := par e 4 2
  let chain := parFlg e 6 0
  let filt := parFlg e 6 1
  [(16, !unitExists src), (20, decide (ev ≠ 0) && (unitEvent src ev).isNone), (20, chain && decide (ev ≠ 0)),
   (22, chain && decide (par e 2 1 % 2 = 0)), (22, filt && !chain && decide (ev ≠ 0) && decide (unitEvent src ev = some false))]

def execPerfSelect (r : CmdRef) (s : State) : Res :=
  runCmd s r 0x1001 (fun _ e => selectChecks e) fun s1 _ e =>
    let c : Ctr := { event := par e 4 2, chain := parFlg e 6 0, tfilt := parFlg e 6 1, tenant := parFld e 7 5 0 }
    complete (modUnit s1 (par e 0 2) fun u => { u with ctrs := tabPut u.ctrs (parFld e 2 2 0) c }) r stOk 0 0

/-! ### Unit records (R359, R478) -/

/-- Events that count the cycles in which a condition holds (Table 19.7): the model has no such cycles (log 32). -/
def cycleEvent (ev : Nat) : Bool :=
  [0x0001, 0x0002, 0x0003, 0x0004, 0x0006, 0x0007, 0x0008, 0x0009, 0x000A, 0x0305, 0x0403, 0x0682].contains ev

/-- Does counter k count such cycles, or the wraps of one that does? -/
def cycleCtr (u : UnitStat) (k : Nat) : Bool :=
  let c := tabGet u.ctrs k {}
  cycleEvent (if c.chain then (tabGet u.ctrs (k - 1) {}).event else c.event)

/-- A unit's status as its record shows it: a counter of cycles, and whether it has wrapped, is a free value (log 32). -/
def shownStat (s : State) (src : Nat) : UnitStat :=
  (List.range 8).foldl (fun u k =>
    if cycleCtr u k then
      let v := Config.cycleCount s.freeCtr src k
      { u with ctrs := tabUpd u.ctrs k fun c => { c with value := v.toNat % 2 ^ 32 }
               ovf := u.ovf - (if bitOf u.ovf k then 2 ^ k else 0) + (if v.getLsbD 32 then 2 ^ k else 0) }
    else u) (unitAt s src)

/-- A unit's record now (Tables 14.8 and 19.8). -/
def unitRecord (s : State) (src : Nat) : Bytes :=
  let u := shownStat s src
  leBytes 8 (merAt s src) ++ leBytes 4 s.fab.module ++ leBytes 2 src ++ leBytes 2 (tabGet s.log.seqs src 0)
    ++ leBytes 8 (unitCycles s src) ++ (List.range 8).flatMap (fun k => leBytes 4 (tabGet u.ctrs k {}).value)
    ++ leBytes 1 u.ovf ++ leBytes 1 0 ++ leBytes 2 u.drops ++ leBytes 4 0

/-- A unit's record has been written: its OVF flags start anew, and its posting count has gone on. -/
def recordTaken (s : State) (src : Nat) : State :=
  let s1 := { freeTick s with log := { s.log with seqs := tabPut s.log.seqs src ((tabGet s.log.seqs src 0 + 1) % 65536) } }
  if (unitAt s src).ovf = 0 then s1 else modUnit s1 src fun u => { u with ovf := 0 }

/-- Units whose source numbers lie in a range. -/
def unitsFrom (lo hi : Nat) : List Nat := allUnits.filter fun u => decide (lo ≤ u ∧ u ≤ hi)

def execPerfRead (r : CmdRef) (s : State) : Res :=
  runCmd s r 0x1002 noChecks fun s1 x e =>
    let us := unitsFrom (par e 8 2) (par e 10 2)
    let s2 := us.foldl recordTaken s1
    complete (cmdHostPut s2 x (par e 0 8) (us.flatMap (unitRecord s1))) r stOk us.length 0

/-! ### Surveys (R411) -/

/-- What PerfSurvey requires of its entry (R385): byte offset and whether the field there is at fault. -/
def chkPerfSurvey (_ : CmdRef) (_ : State) (e : Bytes) : List (Nat × Bool) :=
  let n := par e 16 1
  [(16, decide (n ≠ 0 ∧ par e 0 8 % 4096 ≠ 0)), (32, decide (n ≠ 0 ∧ (n < 6 ∨ 20 < n))), (36, decide (n ≠ 0 ∧ (par e 20 4 < 10 ∨ 1000000 < par e 20 4)))]

def execPerfSurvey (r : CmdRef) (s : State) : Res :=
  runCmd s r 0x1003 (chkPerfSurvey r) fun s1 _ e =>
    let n := par e 16 1
    let v : Survey := { haddr := par e 0 8, paddr := par e 8 8, log2n := n, period := par e 20 4, first := par e 24 2, last := par e 26 2 }
    complete { s1 with survey := if n = 0 then none else some v } r stOk 0 0

/-- One unit's record of a survey goes to the ring, or is dropped and counted. -/
def surveyPut (v : Survey) (cons : Nat) (q : State × Nat) (src : Nat) : State × Nat :=
  let s := q.1
  if 2 ^ v.log2n ≤ (q.2 + 2 ^ 32 - cons) % 2 ^ 32 then
    (modUnit s src fun u => { u with drops := min 65535 (u.drops + 1) }, q.2)
  else
    let s1 := recordTaken (hostPutS s ownRing 0 0 7 (v.haddr + 64 * (q.2 % 2 ^ v.log2n)) (unitRecord s src)) src
    (if (unitAt s1 src).drops = 0 then s1 else modUnit s1 src fun u => { u with drops := 0 }, (q.2 + 1) % 2 ^ 32)

/-- A survey's period begins, at the next meridian multiple of PERIOD; `cons` is the host's consumer count. -/
def execSurveyPeriod (cons : Nat) (s : State) : Res :=
  match s.survey with
  | none => .next s
  | some v =>
    let per := v.period * usTicks
    let s1 := advance s (per - merNow s % per)
    let q := (unitsFrom v.first v.last).foldl (surveyPut v (cons % 2 ^ 32)) (s1, v.prod)
    .next { hostPutS q.1 ownRing 0 0 7 v.paddr (leBytes 8 q.2) with survey := some { v with prod := q.2 } }

end Sys2Proof.Machine
end

