-- ==== Sys2Proof/Machine/PowerCmds.lean ====
section
/-! DEFINITION. The issue governor's period, sensors and thermal stages, publications, hardware errors (chapters 19 and 20). -/

namespace Sys2Proof.Machine

/-! ### The governor's period (R463 to R467) -/

/-- Demand of a die in a period: the cost issued, and the cost of the passes held (R463). -/
def dieDemand (s : State) (d : Nat) : Nat :=
  let held (c : Nat) : Nat := ((coreAt s c).slots.map fun q => govHeld s c (coreAt s c) q.1 q.2).sum
  s.power.dieUsed.getD d 0 + ((List.range 12).map fun i => held (12 * d + i)).sum

/-- The ceiling of the next period, in hundredths of a watt: R463's; stage 3 is not bound by RAMP, and stages 1 and 2 come down
at RAMP (Table 19.2, R470). -/
def govCeil (p : Power) (m pmeas : Nat) : Int :=
  let cap : Int := 100 * (min (effCap p) (planCeiling p m) : Nat)
  let now : Int := 100 * pmeas
  if 3 ≤ p.stage then cap
  else
    let c := min cap (now + p.ramp)
    if 1 ≤ p.stage then max c (now - p.ramp) else c

/-- Array cycles that a power in hundredths of a watt runs for 10 µs at CW, rounded down (log 20). -/
def cwCycles (centi : Int) : Int := if Config.cw = 0 then 0 else centi * 100000 / (Config.cw : Int)

/-- The allowance of the next period (R463). -/
def govAllowance (s : State) (m pmeas : Nat) : Nat :=
  (clampI 0 1728000 ((s.power.dieUsed.sum : Nat) + cwCycles (govCeil s.power m pmeas - 100 * pmeas))).toNat

/-- Allowances of the compute dies: in proportion to demand, at most 216,000; with no demand the spec gives no division, and
each is free (log 29). -/
def dieShare (s : State) (a d : Nat) : Nat :=
  let ds := (List.range 8).map (dieDemand s)
  if ds.sum = 0 then min 216000 ((Config.freeValue (s.freeCtr + d)).toNat % (a + 1))
  else min 216000 (a * ds.getD d 0 / ds.sum)

/-- Ballast quota of the next period (R466): what work will not use of the energy that keeps power at the floor. -/
def ballastQuota (s : State) (m pmeas work : Nat) : Nat :=
  let p := s.power
  if !p.downramp ∨ 1 ≤ p.stage ∨ s.fab.fenced then 0 else
  let floor : Int := match planFloor p m with
    | some f => 100 * f
    | none => 100 * pmeas - p.ramp
  (clampI 0 1728000 ((p.dieUsed.sum : Nat) + (p.ballast : Nat) + cwCycles (floor - 100 * pmeas) - work)).toNat

/-- The end of a governor period: `pmeas` W were measured, work is expected to use `work` array cycles of the next one, and
`flashOver` says whether the flash takes the module above the effective cap at zero allowance (R465). -/
def execGovernorPeriod (pmeas work : Nat) (flashOver : Bool) (s0 : State) : Res :=
  if !ctlRuns s0 then .next s0 else
  let s := planEnd (advance s0 (40000 - merNow s0 % 40000)) (merNow (advance s0 (40000 - merNow s0 % 40000)))
  let m := merNow s
  let a := govAllowance s m pmeas
  let dies := (List.range 8).map (dieShare s a)
  let q := ballastQuota s m pmeas (min work a)
  let s1 := modPower { s with freeCtr := s.freeCtr + 8 } fun p => { p with
    pmeas := pmeas, psum := p.psum + pmeas, pcount := p.pcount + 1
    allow := a, dieAllow := dies, dieUsed := [0, 0, 0, 0, 0, 0, 0, 0]
    ballastLast := p.ballast, ballast := q, flashHeld := flashOver }
  .next (modStore s1 fun v => { v with
    psNow := if flashOver ∧ v.psNow = 0 then 1 else if !flashOver ∧ s.power.flashHeld ∧ v.psNow = 1 then min 1 v.ps else v.psNow })

/-! ### Sensors and stages (R469, R470) -/

/-- The hottest die, 0.1 °C. -/
def hottest (p : Power) : Int := p.dies.foldl max (p.dies.headD 0)

/-- Entry conditions of the stages (Table 19.2), each eased by a margin of 0.1 °C and 0.01 L/min units. -/
def stageMeets (p : Power) (k : Nat) (dt : Int) (df : Nat) : Bool :=
  let die (x : Int) : Bool := p.dies.any fun d => decide (x - dt ≤ d) && decide (dt = 0 ∨ x - dt < d)
  let inl (x : Int) : Bool := decide (x - dt < p.inlet)
  let flow (x : Nat) : Bool := decide (p.flow < x + df)
  match k with
  | 0 => false
  | 1 => die 950 || inl 400 || flow 450
  | 2 => die 1000 || inl 450 || flow 350
  | 3 => die 1050 || flow 200
  | _ => die 1150

/-- Has the flow been below 1.0 L/min for 1 s? -/
def flowLost (s : State) : Bool := match s.power.lowSince with | some t => decide (t + 1000 * msTicks ≤ s.clk.ticks) | none => false

/-- The highest stage whose entry condition a sensor meets. -/
def entryStage (s : State) : Nat :=
  let p := s.power
  if stageMeets p 4 0 0 || flowLost s then 4
  else if stageMeets p 3 0 0 then 3 else if stageMeets p 2 0 0 then 2 else if stageMeets p 1 0 0 then 1 else 0

/-- The stage after a reading: up at once; down one stage once every condition of the stage has been clear by 5 °C or
0.5 L/min for 100 ms; never down from 4. -/
def nextStage (s : State) : Nat :=
  let p := s.power
  let e := entryStage s
  if p.stage ≤ e ∨ p.stage = 4 then max p.stage e
  else match p.clearSince with
    | some t => if t + 100 * msTicks ≤ s.clk.ticks then p.stage - 1 else p.stage
    | none => p.stage

/-- A stage change and what it does (R470, Table 19.2).  The spec gives no coding for the sensor in the record (log 29). -/
def enterStage (s : State) (k : Nat) : State :=
  if s.power.stage = k then s else
  let s1 := modPower s fun p => { p with stage := k, clearSince := none, shStage := k }
  let s2 := setStageRate s1 k
  let s3 := freeTick (mgmtEvent (irqSet s2 0 irqTherm) 0x0501 k (freeNow s2).toNat)
  let s4 := clampNote s s3
  let s5 := if 3 ≤ k then publishDrop s4 else s4
  if k = 4 then modStore (fenceModule s5) fun v => { v with psNow := 2 } else s5

/-- Since when every condition of the stage has been clear, and the flow lost. -/
def sinceMarks (s : State) : State :=
  modPower s fun p => { p with
    lowSince := if p.flow < 100 then some (p.lowSince.getD s.clk.ticks) else none
    clearSince := if p.stage = 0 ∨ stageMeets p p.stage 50 50 then none else some (p.clearSince.getD s.clk.ticks) }

/-- The management shadow is refreshed (Table 15.8). -/
def refreshShadow (s : State) : State :=
  modPower s fun p => { p with
    pwrnow := if p.pcount = 0 then p.pmeas else p.psum / p.pcount, psum := 0, pcount := 0, pwrcap := effCap p
    tinlet := p.inlet, tdiemax := hottest p, shStage := p.stage, updated := merNow s }

/-- The readings of the 1 ms sample: inlet and outlet and the 40 dies in 0.1 °C, flow in 0.01 L/min, the hottest flash package
in K (R430, R469). -/
def execSensorSample (inlet outlet : Int) (flow : Nat) (dies : List Int) (temp : Nat) (s : State) : Res :=
  match s.ctl.start with
  | .off => .next s
  | _ =>
    let dt := msTicks - s.clk.ticks % msTicks
    let s1 := modPower (advance s dt) fun p => { p with inlet := inlet, outlet := outlet, flow := flow, dies := dies.take 40 }
    if !ctlRuns s then .next s1 else
    let s2 := critNote s1 (modStore s1 fun v => { v with
      warmTicks := if 348 ≤ v.temp then v.warmTicks + dt else v.warmTicks
      hotTicks := if 358 ≤ v.temp then v.hotTicks + dt else v.hotTicks
      temp := temp })
    let s3 := sinceMarks (clampNote s s2)
    .next (refreshShadow (enterStage s3 (nextStage s3)))

/-! ### Publications on PMBus (R468, R488) -/

/-- The first publication that a predicate holds of. -/
def pubFirst (p : Pub → Bool) : List Pub → Option (Pub × List Pub × List Pub)
  | [] => none
  | x :: xs => if p x then some (x, [], xs) else (pubFirst p xs).map fun q => (q.1, x :: q.2.1, q.2.2)

/-- A write of a publication: acknowledged, or not; after two retries PLAN_NAK is posted. -/
def pubWrite (s : State) (q : Pub × List Pub × List Pub) (ack : Bool) : State :=
  let put (l : List Pub) : State := modPower s fun p => { p with pubs := q.2.1 ++ l ++ q.2.2 }
  if ack then emit (put []) (.pmbus s.power.shelf ([0xD0, 0x10] ++ q.1.bytes))
  else if 2 ≤ q.1.nak then mgmtEvent (put []) 0x0502 q.1.t 0
  else put [{ q.1 with nak := q.1.nak + 1, due := s.clk.ticks + msTicks, again := false }]

/-- The oldest publication not yet written goes to the shelf. -/
def execPlanPublish (ack : Bool) (s : State) : Res :=
  match pubFirst (fun x => decide (x.nak = 0) || x.again) s.power.pubs with
  | none => .next s
  | some q => .next (pubWrite s q ack)

/-- The oldest publication not acknowledged is written again, 1 ms after. -/
def execPlanPublishRetry (ack : Bool) (s : State) : Res :=
  match pubFirst (fun x => decide (x.nak ≠ 0) && !x.again) s.power.pubs with
  | none => .next s
  | some q => .next (pubWrite (advanceTo s q.1.due) q ack)

/-- The write under way lost arbitration: it is sent again as soon as the bus is free, and this is no retry (R488). -/
def execPmbusArbitrationLoss (s : State) : Res :=
  match pubFirst (fun x => decide (x.nak = 0 ∨ x.due ≤ s.clk.ticks) && !x.again) s.power.pubs with
  | none => .next s
  | some q => .next (modPower s fun p => { p with pubs := q.2.1 ++ { q.1 with again := true } :: q.2.2 })

/-! ### Retiring frames (R471) -/

/-- 24 hours in ticks. -/
def dayTicks : Nat := 345600000000000

/-- A frame is retired; 16 of a stack within 24 h fence it. -/
def frameGone (s : State) (f : Nat) : State :=
  let s1 := modPower (tagFrame s f .gone) fun p => { p with
    retiring := p.retiring.filter (· ≠ f), frameCe := tabDel p.frameCe f
    retired := (p.retired.filter fun q => decide (s.clk.ticks < q.2 + dayTicks)) ++ [(stackOfFrame f, s.clk.ticks)] }
  let s2 := postEvent s1 (srcHub (hubOfFrame f)) 0x0202 0 0xFF 0 0 0
  if 16 ≤ (s2.power.retired.filter fun q => decide (q.1 = stackOfFrame f)).length then checkLimits (fenceStack s2 (stackOfFrame f)) else s2

/-- A frame with 3 corrected errors is retired: at once where it is free, or once its tile has migrated to another frame; it
waits for a migration of the tile that is under way, or for its zeroing. -/
def retireFrame (s : State) (f : Nat) : State :=
  let wait := if s.power.retiring.contains f then s else modPower s fun p => { p with retiring := p.retiring ++ [f] }
  match tabFind s.atlas.frames f with
  | none => frameGone s f
  | some .gone => s
  | some .zeroing => wait
  | some (.tile t p) =>
    match leafAt s t p with
    | none => wait
    | some l =>
      if l.mig ∨ l.loc ≠ .t1 f then wait else
      match allocFrame s (hubOfFrame f) with
      | none => wait
      | some g => frameGone (setLeaf (tagFrame s g (.tile t p)) t p { l with loc := .t1 g }) f

/-- A released frame is zeroed and free again (R376), or retired if it was to be. -/
def execFrameZeroed (frame : Nat) (s : State) : Res :=
  if tabFind s.atlas.frames frame = some .zeroing then
    let s1 := modAtlas s fun a => { a with frames := tabDel a.frames frame }
    .next (if s.power.retiring.contains frame then frameGone s1 frame else s1)
  else .next s

/-! ### Hardware errors (R471, Table 19.3) -/

/-- A corrected error of a fabric port is a codeword that its FEC has corrected (R331, FEC_CORR of Table 19.7; log 40). -/
def fecNote (s : State) (unit : Nat) : State :=
  if 0x300 ≤ unit ∧ unit < 0x330 then
    countEv (modPort s (unit - 0x300) fun p => { p with fecCorr := min (2 ^ 32 - 1) (p.fecCorr + 1) }) unit 0x0304 0
  else s

/-- A corrected error at a site of Table 19.3: a record, the unit's CE count, and a frame's count of 24 h.  `arg` is the
frame or address; `from0` is the source number, and of the control die its SUBUNIT (Table 19.4: 0 the control processor, 1 the
root of trust) in bits 18:16. -/
def execCorrectedError (site from0 arg : Nat) (s : State) : Res :=
  let unit := from0 % 65536
  let sub := from0 / 65536
  if !ctlRuns s ∨ 10 < site ∨ !unitExists unit ∨ 5 < sub ∨ (unit ≠ srcCp ∧ sub ≠ 0) then .next s else
  let t := if site ≠ 0 then 0xFF else match tabFind s.atlas.frames arg with | some (.tile t _) => t | _ => 0xFF
  let s1 := postEvent s unit 0x0001 sub t site arg 0
  let s2 := fecNote (modUnit s1 unit fun u => { u with ce := min (2 ^ 32 - 1) (u.ce + 1) }) unit
  if site ≠ 0 then .next s2 else
  let at1 := (tabGet s2.power.frameCe arg []).filter (fun x => decide (s.clk.ticks < x + dayTicks)) ++ [s.clk.ticks]
  let s3 := modPower s2 fun p => { p with frameCe := tabPut p.frameCe arg at1 }
  .next (if 3 ≤ at1.length then serveAll (retireFrame s3 arg) else s3)

/-- The job of a JOBID is resident on a core. -/
def jobOn (s : State) (c jobid : Nat) : Bool := (coreAt s c).slots.any fun q => decide (q.2.jobid = jobid)

/-- The action of an uncorrectable error at a site (Table 19.3): `a` and `b` name what it hit (a frame; tenant and page of a
table; a job; a sequence slot; a stack). -/
def errorAct (s : State) (site unit a b : Nat) : State :=
  match site with
  | 0 => (match tabFind s.atlas.frames a with | some (.tile t p) => poisonTile s unit t p 0x20 | _ => s)
  | 1 => loseTable s unit a b
  | 2 => if (jobAt s a).any fun j => j.jcores.any fun c => c.2.area.isSome then eccAbort s unit a else s
  | 3 => if unit < 96 ∧ jobOn s unit a then eccAbort s unit a else s
  | 4 => if unit < 96 then checkLimits (fenceCore s unit) else s
  | 5 => loseText s a
  | 8 => if 0x300 ≤ unit ∧ unit < 0x330 then checkLimits (portDown s (unit - 0x300)) else s
  | 9 => if a < 20 then checkLimits (fenceStack s a) else s
  | 10 => warmReset s
  | _ => s

/-- An uncorrectable error: the unit's UE count and the site's action. -/
def execUncorrectableError (site unit a b : Nat) (s : State) : Res :=
  if !ctlRuns s ∨ 10 < site ∨ site = 7 ∨ !unitExists unit then .next s else
  .next (serveAll (errorAct (modUnit s unit fun u => { u with ue := min (2 ^ 32 - 1) (u.ue + 1) }) site unit a b))

end Sys2Proof.Machine
end

