-- ==== Sys2Proof/Machine/PwrCmds.lean ====
section
/-! DEFINITION. The PWR group and unit status blocks (R480, R70, R89, R116, R479, Tables 19.6, 19.9 and 19.10). -/

namespace Sys2Proof.Machine

/-! ### PWR.CAP (R462, R466, R480) -/

/-- The set of a PWR.CAP is committed: a clamp is noted and a cap change is published. -/
def applyCap (s : State) (e : Bytes) : State :=
  let s1 := modPower s fun p => { p with cap := par e 0 2, ramp := par e 2 2, downramp := parFlg e 4 0 }
  publishCap s (clampNote s s1)

/-- Commit and answer. -/
def finishCap (s : State) (r : CmdRef) (e : Bytes) : State := complete (applyCap s e) r stOk 0 0

/-- What PwrCap requires of its entry (R385): byte offset and whether the field there is at fault. -/
def chkPwrCap (_ : CmdRef) (_ : State) (e : Bytes) : List (Nat × Bool) :=
  [(16, decide (par e 0 2 < 1600 ∨ 3000 < par e 0 2)), (18, decide (par e 2 2 < 10 ∨ 2000 < par e 2 2))]

def execPwrCap (r : CmdRef) (s : State) : Res :=
  runCmd s r 0x0F01 (chkPwrCap r) fun s1 _ e =>
    if schedWaits s1 r then s1
    else if par e 8 8 = 0 then finishCap s1 r e
    else schedCmd s1 r (par e 8 8) (.cap e)

/-! ### PWR.PLAN (R467, R468) -/

/-- Entries of a host buffer. -/
def planEnts (bs : Bytes) (n : Nat) : List PlanEnt :=
  (List.range n).map fun i => { t := fieldAt bs (16 * i) 8, pt := fieldAt bs (16 * i + 8) 2 }

/-- Does an entry's ramp begin too early after now (R467)? -/
def planLate (p : Power) (now : Nat) (e : PlanEnt) : Bool := decide (rampStart p e < now + p.publead * msTicks)

/-- Load plan entries: they join those that stay, in T order, and each is published. -/
def loadEntries (s : State) (keep new : List PlanEnt) : Option State :=
  let p := s.power
  let all := planLevels p (merNow s) (new.foldl (fun l e => planInsert e l) keep) (p.planLevel.getD (effCap p))
  let mine := all.filter fun e => new.any fun x => decide (x.t = e.t ∧ x.pt = e.pt)
  if mine.any (planLate p (merNow s)) then none else
  some (mine.foldl (fun st e => addPub st e.t (stepRecord e.t e.start e.pt p.ramp false)) (modPower s fun q => { q with plan := all }))

/-- What PwrPlan requires of its entry (R385): byte offset and whether the field there is at fault. -/
def chkPwrPlan (_ : CmdRef) (_ : State) (e : Bytes) : List (Nat × Bool) :=
  [(24, decide (64 < parFld e 8 6 0))]

def execPwrPlan (r : CmdRef) (s : State) : Res :=
  runCmd s r 0x0F02 (chkPwrPlan r)
    fun s1 x e =>
      let n := parFld e 8 6 0
      let begun := s1.power.plan.filter fun q => decide (rampStart s1.power q ≤ merNow s1)
      let keep := if parFlg e 9 0 ∧ n ≠ 0 then s1.power.plan else begun
      let load (new : List PlanEnt) : State :=
        if 64 < keep.length + new.length then complete s1 r stNoFit 0 0 else
        match loadEntries s1 keep new with
        | none => complete s1 r stLate 0 0
        | some s2 => complete s2 r stOk 0 0
      if n = 0 then load [] else
      match hostBuf x with
      | none => askHost s1 x
      | some bs =>
        if bs.length < 16 * n ∨ (List.range n).any (fun i => !zeroBytes bs (16 * i + 10) (16 * i + 15)) then badParam s1 r 16
        else load (planEnts bs n)

/-! ### PWR.STATUS, PWR.SHELF, PWR.FENCE -/

/-- The management shadow's 32 bytes (Table 15.8). -/
def shadowBytes (p : Power) : Bytes :=
  leBytes 4 p.pwrnow ++ leBytes 4 p.pwrcap ++ leBytes 2 (twos 16 p.tinlet) ++ leBytes 2 0 ++ leBytes 2 (twos 16 p.tdiemax)
    ++ leBytes 2 0 ++ leBytes 1 p.shStage ++ leBytes 7 0 ++ leBytes 8 p.updated

def execPwrStatus (r : CmdRef) (s : State) : Res :=
  runCmd s r 0x0F03 noChecks fun s1 x e =>
    let p := s1.power
    let bs := shadowBytes p ++ leBytes 4 Config.cwFp32.toNat ++ leBytes 4 p.pmeas ++ leBytes 4 p.allow
      ++ (List.range 8).flatMap (fun d => leBytes 4 (p.dieAllow.getD d 0)) ++ leBytes 2 (twos 16 p.inlet) ++ leBytes 2 (twos 16 p.outlet)
      ++ leBytes 2 p.flow ++ leBytes 2 0 ++ leBytes 4 p.ballastLast
    complete (cmdHostPut s1 x (par e 0 8) (padTo 128 bs)) r stOk 0 0

/-- What PwrShelf requires of its entry (R385): byte offset and whether the field there is at fault. -/
def chkPwrShelf (_ : CmdRef) (_ : State) (e : Bytes) : List (Nat × Bool) :=
  [(20, decide (par e 4 4 < 1 ∨ 10000 < par e 4 4))]

def execPwrShelf (r : CmdRef) (s : State) : Res :=
  runCmd s r 0x0F04 (chkPwrShelf r)
    fun s1 _ e =>
      complete (modPower s1 fun p => { p with shelf := parFld e 0 6 0, puben := parFlg e 1 0, publead := par e 4 4 }) r stOk 0 0

/-- Fence the unit that a PWR.FENCE names; none where it names no fenceable unit. -/
def fenceNamed (s : State) (src sub : Nat) : Option State :=
  if src < 96 then some (fenceCore s src)
  else if 0x100 ≤ src ∧ src < 0x105 then some (fenceStack s (4 * (src - 0x100) + sub))
  else if 0x300 ≤ src ∧ src < 0x330 then some (fencePort s (src - 0x300))
  else if 0x700 ≤ src ∧ src < 0x728 then some (fenceChan s (src - 0x700))
  else none

def execPwrFence (r : CmdRef) (s : State) : Res :=
  runCmd s r 0x0F05 noChecks fun s1 _ e =>
    match fenceNamed s1 (par e 0 2) (parFld e 2 1 0) with
    | none => complete s1 r stBusy 0 0
    | some s2 => if overLimits s2 ∧ !overLimits s1 then complete s1 r stBusy 0 0 else complete s2 r stOk 0 0

/-! ### Unit status blocks: reads -/

/-- Code of a segment's power state (Table 4.6). -/
def segCode : SegPower → Nat
  | .off => 0 | .waking => 1 | .on => 2 | .closing => 3

/-- CORE_SPSEG. -/
def spsegWord (k : Core) : Nat := ((List.range 16).map fun i => segCode (segState k i) * 4 ^ i).sum

/-- CORE_SBSTAT. -/
def sbstatWord (k : Core) : Nat := sbShare k * 2 ^ 24 + nResident k * 2 ^ 16 + k.hiwat % 64 * 2 ^ 8 + k.sb.length % 64

/-- CORE_STEAL: committed values. -/
def stealWord (k : Core) : Nat :=
  k.retry * 2 ^ 16 + k.pqdepth * 2 ^ 12 + k.minRemote * 2 ^ 8 + k.minLocal * 16 + bit01 k.xdieEn * 2 + bit01 k.stealEn

/-- Queue entries in use. -/
def cmdsQueued (k : Core) : Nat := (k.slots.map fun q => q.2.ctx.queue.length).sum

/-- CORE_QSTAT. -/
def qstatWord (k : Core) : Nat := queueShare k * 2 ^ 16 + cmdsQueued k

/-- CORE_CSTAT. -/
def cstatWord (k : Core) : Nat :=
  (k.slots.map fun q => if q.2.ctx.halt.isSome then 2 ^ (8 + q.1) else 0).sum + bit01 k.cbad * 2 + bit01 k.wrej

/-- A 64-bit register of a port window (Table 19.9). -/
def portWide (p : Port) (off : Nat) : Nat :=
  match off with
  | 0x88 => p.txlast | 0x90 => p.txmax | 0x98 => p.rxlast | 0xA0 => p.rxmax | _ => 0

/-- A 32-bit register of a unit status block; 0 at an unassigned offset. -/
def unitReg (s : State) (src off : Nat) : Nat :=
  let u := unitAt s src
  let k := coreNow s src
  if off % 4 ≠ 0 then 0
  else if off = 0 then src
  else if off = 4 then bit01 u.fenced
  else if off = 8 then u.ce
  else if off = 0xC then u.ue
  else if src < 96 then
    match off with
    | 0x40 => k.nstat.toNat | 0x44 => k.wloss | 0x50 => spsegWord k | 0x54 => sbstatWord k | 0x60 => stealWord k
    | 0x64 => qstatWord k | 0x68 => cstatWord k | _ => 0
  else if 0x300 ≤ src ∧ src ≤ 0x330 then
    let p := portAt s (src - 0x300)
    if off = 0x80 then p.winlenNew else portWide p (off / 8 * 8) / 2 ^ (off % 8 * 8) % 2 ^ 32
  else 0

/-- What a read clears: RC fields. -/
def unitRegRead (s : State) (src off : Nat) : State :=
  if off = 8 then modUnit s src fun u => { u with ce := 0 }
  else if off = 0xC then modUnit s src fun u => { u with ue := 0 }
  else if src < 96 then
    match off with
    | 0x44 => modCore s src fun k => { k with wloss := 0 }
    | 0x54 => modCore s src fun k => { k with hiwat := 0 }
    | _ => s
  else if 0x300 ≤ src ∧ src ≤ 0x330 then
    let n := src - 0x300
    match off with
    | 0x90 => modPort s n fun p => { p with txmax := p.txmax / 2 ^ 32 * 2 ^ 32 }
    | 0x94 => modPort s n fun p => { p with txmax := p.txmax % 2 ^ 32 }
    | 0xA0 => modPort s n fun p => { p with rxmax := p.rxmax / 2 ^ 32 * 2 ^ 32 }
    | 0xA4 => modPort s n fun p => { p with rxmax := p.rxmax % 2 ^ 32 }
    | _ => s
  else s

/-! ### Unit status blocks: writes -/

/-- A write of CORE_STEAL: a reserved PQDEPTH discards it whole (R7); while a job is resident the write of PQDEPTH is
discarded, whatever its value, and sets WREJ (R10, R116). -/
def writeSteal (k : Core) (v : Nat) : Core :=
  let depth := bitsOf v 13 12
  if depth = 3 then k else
  let busy := decide (nResident k ≠ 0)
  { k with
    stealEn := bitOf v 0, xdieEn := bitOf v 1, shLocal := bitsOf v 7 4, shRemote := bitsOf v 11 8, shRetry := bitsOf v 23 16
    pqdepth := if busy then k.pqdepth else depth, wrej := k.wrej || busy }

/-- CORE_SCOMMIT.COMMIT: the shadows are committed, or CBAD sets. -/
def commitSteal (k : Core) : Core :=
  if 2 ≤ k.shLocal ∧ k.shLocal ≤ k.shRemote ∧ 1 ≤ k.shRetry then
    { k with minLocal := k.shLocal, minRemote := k.shRemote, retry := k.shRetry }
  else { k with cbad := true }

/-- A write of a 32-bit register under its access code (R9, R480). -/
def unitRegWrite (s : State) (src off v : Nat) : State :=
  if src < 96 then
    match off with
    | 0x40 => modCore s src fun k => { k with nstat := k.nstat &&& ~~~ (BitVec.ofNat 3 v) }
    | 0x60 => modCore s src fun k => writeSteal k v
    | 0x68 => modCore s src fun k => { k with cbad := k.cbad && !bitOf v 1, wrej := k.wrej && !bitOf v 0 }
    | 0x6C => if bitOf v 0 then modCore s src commitSteal else s
    | _ => s
  else if 0x300 ≤ src ∧ src ≤ 0x330 ∧ off = 0x80 then
    let n := bitsOf v 19 0
    if n = 0 ∨ 1000000 < n then s else modPort s (src - 0x300) fun p => { p with winlenNew := n }
  else s

/-! ### PWR.UNITREG -/

/-- Checks of PWR.UNITREG. -/
def unitregChecks (e : Bytes) : List (Nat × Bool) :=
  [(16, !unitExists (par e 0 2)), (20, parFlg e 3 0 && decide (par e 4 2 % 8 ≠ 0))]

/-- The register, of 4 or 8 bytes. -/
def unitRegGet (s : State) (src off : Nat) (wide : Bool) : Nat :=
  unitReg s src off + (if wide then unitReg s src (off + 4) * 2 ^ 32 else 0)

def execPwrUnitregRead (r : CmdRef) (s : State) : Res :=
  runCmdIf s r 0x0F06 (fun e => !parFlg e 2 0) (fun _ e => unitregChecks e) fun s1 _ e =>
    let src := par e 0 2
    let off := par e 4 2
    let s2 := unitRegRead s1 src off
    let s3 := if parFlg e 3 0 then unitRegRead s2 src (off + 4) else s2
    complete s3 r stOk (unitRegGet s1 src off (parFlg e 3 0)) 0

def execPwrUnitregWrite (r : CmdRef) (s : State) : Res :=
  runCmdIf s r 0x0F06 (fun e => parFlg e 2 0) (fun _ e => unitregChecks e) fun s1 _ e =>
    let src := par e 0 2
    let off := par e 4 2
    let s2 := unitRegWrite s1 src off (par e 8 4)
    let s3 := if parFlg e 3 0 then unitRegWrite s2 src (off + 4) (par e 12 4) else s2
    complete s3 r stOk (unitRegGet s3 src off (parFlg e 3 0)) 0

end Sys2Proof.Machine
end

