-- ==== Sys2Proof/Machine/ModeCmds.lean ====
section
/-! DEFINITION. Scheduled actions at their time, and mode changes across modules (R353 to R358). -/

namespace Sys2Proof.Machine

/-! ### What an action does at T -/

/-- Can a pending action still be applied (R356, R357)? -/
def canApply (s : State) (a : SchedAct) : Bool :=
  match a.kind with
  | .route => shadowGood s
  | .gate n => (portsOf n).all fun p => (portAt s p).gpend.isSome
  | .shaper _ => true
  | .serve t b => (serveBad s t b).isNone
  | .model h n => (modelAt s h).any fun m => !m.ended && (verRefuse m n).isNone
  | .index h n => (ixAt s h).any fun x =>
      !x.closing && decide (x.built = some n) && (tabFind x.vers n).any fun v => !overflows x (replay s x v).deltas
  | .firmware => match s.ctl.act with | some f => canActivate s f.slot | none => false
  | .cap _ => true

/-- Take an action out of those that are pending. -/
def takeAct (s : State) (num : Nat) : State := modTime s fun t => { t with acts := t.acts.filter fun b => b.num ≠ num }

/-- End the command of an action: a MODEL.LOAD with SWAPT answers its version and handle, and a SEARCH.RESURVEY its version and epoch, on
LATE too (R153, R234). -/
def endAct (s : State) (a : SchedAct) (status : Nat) : State :=
  match a.cmd with
  | none => s
  | some r =>
    let op := ((inflAt s r).map fun x => entryOp x.entry).getD 0
    match a.kind with
    | .model h n => complete s r status (if op = 0x0501 ∧ status = stLate then n * 2 ^ 32 + h else 0) 0
    | .index h n =>
      if op = 0x0905 ∧ status = stLate then
        endBlock s r status (leBytes 4 n ++ leBytes 4 0 ++ leBytes 8 ((((ixAt s h).bind fun x => tabFind x.vers n).map (·.epoch0)).getD 0))
      else complete s r status 0 0
    | _ => complete s r status 0 0

/-- The action has come to its time and takes effect (R353).  A gate list's ports take over at their own cycle ends from here
on (R339): its T and its change have been met. -/
def applyAct (s : State) (a : SchedAct) : State :=
  let s1 := takeAct s a.num
  match a.kind with
  | .route => if shadowGood s1 then endAct (commitRoutes s1) a stOk else (match a.cmd with | some r => badParam s1 r 16 | none => s1)
  | .gate _ => settleGateActs (modTime s fun t =>
      { t with acts := t.acts.map fun b => if b.num = a.num then { b with t := 0, change := none } else b })
  | .shaper e => (match a.cmd with | some r => finishShaper s1 r e | none => applyShaper s1 e)
  | .serve _ b => (match a.cmd.bind (inflAt s1) with | some x => finishServe s1 x b | none => s1)
  | .model h n => swapModel s1 h n a.cmd
  | .index h n => swapIndex s1 h n a.cmd
  | .firmware => (match s1.ctl.act with
      | none => s1
      | some f =>
        if canActivate s1 f.slot then activateSlot s1 f.slot f.confirms f.cmd
        else endAct (modCtl s1 fun c => { c with act := none }) a (activateRefuse s1))
  | .cap e => (match a.cmd with | some r => finishCap s1 r e | none => applyCap s1 e)

/-- An action is dropped, and its command ends with a status. -/
def dropEnd (status : Nat) (s : State) (a : SchedAct) : State := endAct (dropAct s a) a status

/-- A pending action comes to its time (R353): one that ARMONLY asks to be bound, and no change has bound, is dropped LATE
(R355); a bound one waits for its change. -/
def execScheduledActionApply (num : Nat) (s : State) : Res :=
  match s.time.acts.find? fun a => decide (a.num = num) with
  | none => .next s
  | some a =>
    if a.change.isSome then .next s else
    let s1 := advanceMer s a.t
    .next (if s1.time.armonly ∧ a.t ≠ 0 then dropEnd stLate s1 a else applyAct s1 a)

/-! ### A participant (R354, R356, R357) -/

/-- A delivered mode-change message of a kind. -/
def modeMsgOf (s : State) (kind : Nat) : Option RMsg := mgmtOf s [kind]

/-- Fields of a mode-change message (Table 14.6). -/
def modeId (m : FabMsg) : Nat := fieldAt m.data 0 4
def modeCoord (m : FabMsg) : Nat := fieldAt m.data 4 4 % 2 ^ 17
def modeT (m : FabMsg) : Nat := fieldAt m.data 8 8
def modeMask (m : FabMsg) : Nat := fieldAt m.data 16 1

/-- The message has been read: policed, and its buffer given back. -/
def modeRead (s : State) (q : RMsg) : State := doneMsg (police s q).1 q

/-- Why a participant answers NOTARMED, the first of Table 14.6's results that holds: 0 where it answers ARMED (R356). -/
def armRefuse (s : State) (t mask : Nat) : Nat :=
  let mine := s.time.acts.filter fun a => decide (a.t = t)
  if mine = [] then 1
  else if 64 ≤ s.time.changes.length ∨ mine.any fun a => a.change.isSome || !canApply s a then 2
  else if s.fab.fenced ∨ s.fab.fencedSvc &&& mask ≠ 0 then 3
  else if !synced s then 4
  else 0

/-- ARM: the actions at T are bound, and ARMED is answered; or NOTARMED. -/
def execArmMessage (s : State) : Res :=
  match modeMsgOf s 0x10 with
  | none => .next s
  | some q =>
    let s1 := modeRead s q
    let id := modeId q.m
    let co := modeCoord q.m
    let t := modeT q.m
    let why := armRefuse s1 t (modeMask q.m)
    if why ≠ 0 then .next (routeAll (sendOrd s1 (modeMsg 0x12 why id co t (modeMask q.m) co)))
    else
      let c : PartChange := { coord := co, id := id, t := t, svcmask := modeMask q.m }
      let s2 := modTime s1 fun u => { u with
        acts := u.acts.map fun a => if a.t = t then { a with change := some (co, id) } else a
        changes := u.changes ++ [c] }
      .next (routeAll (sendOrd s2 (modeMsg 0x11 0 id co t (modeMask q.m) co)))

/-- CONFIRM is held until T. -/
def execConfirmMessage (s : State) : Res :=
  match modeMsgOf s 0x13 with
  | none => .next s
  | some q =>
    let set (c : PartChange) : PartChange := if c.coord = modeCoord q.m ∧ c.id = modeId q.m then { c with verdict := some true } else c
    .next (modTime (modeRead s q) fun u => { u with changes := u.changes.map set })

/-- Actions bound to a change. -/
def boundActs (s : State) (coord id : Nat) : List SchedAct := s.time.acts.filter fun a => decide (a.change = some (coord, id))

/-- A change is over at this participant. -/
def dropChange (s : State) (coord id : Nat) : State :=
  modTime s fun u => { u with changes := u.changes.filter fun c => !(decide (c.coord = coord ∧ c.id = id)) }

/-- DISARM: every bound action is dropped, and its command completes LATE. -/
def execDisarmMessage (s : State) : Res :=
  match modeMsgOf s 0x14 with
  | none => .next s
  | some q =>
    let s1 := dropChange (modeRead s q) (modeCoord q.m) (modeId q.m)
    .next ((boundActs s1 (modeCoord q.m) (modeId q.m)).foldl (dropEnd stLate) s1)

/-- Is an action a firmware activation? -/
def isFirmware (a : SchedAct) : Bool := decide (a.kind = .firmware)

/-- At T a participant that holds CONFIRM applies every bound action, an activation last, after its REPORT; one that cannot
fences the services of SVCMASK, its commands complete MODE_FAULT, and it posts the record (R357). -/
def execModeChangeActivate (coord id : Nat) (s : State) : Res :=
  match s.time.changes.find? fun c => decide (c.coord = coord ∧ c.id = id) with
  | none => .next s
  | some c =>
    let s1 := dropChange (advanceMer s c.t) coord id
    let acts := boundActs s1 coord id
    let report (st : State) (result : Nat) : State := routeAll (sendOrd st (modeMsg 0x15 result id coord c.t c.svcmask coord))
    if c.verdict = some true ∧ !c.broken ∧ acts.all (canApply s1) then
      let s2 := report ((acts.filter fun a => !isFirmware a).foldl applyAct s1) 0
      .next ((acts.filter isFirmware).foldl applyAct s2)
    else
      let s2 := acts.foldl (dropEnd stModeFault) (fenceServices s1 c.svcmask)
      .next (report (postEvent s2 srcCp 0x0302 0 0xFF id c.t 0) 1)

/-! ### The coordinator (R356, R358) -/

/-- ARMED: recorded for a participant of a change that is not decided. -/
def execArmedMessage (s : State) : Res :=
  match modeMsgOf s 0x11 with
  | none => .next s
  | some q =>
    .next (modCoord (modeRead s q) (modeId q.m) fun c =>
      if c.decided.isNone ∧ c.parts.contains q.m.src ∧ !c.armed.contains q.m.src then { c with armed := c.armed ++ [q.m.src] } else c)

/-- NOTARMED: the participant does not count as armed. -/
def execNotarmedMessage (s : State) : Res :=
  match modeMsgOf s 0x12 with
  | none => .next s
  | some q => .next (modCoord (modeRead s q) (modeId q.m) fun c => { c with armed := c.armed.filter fun m => m ≠ q.m.src })

/-- At T − GUARD the coordinator decides. -/
def execArmDecision (id : Nat) (s : State) : Res :=
  match coordOf s id with
  | none => .next s
  | some c =>
    if c.decided.isSome then .next s else
    let s1 := advanceMer s (c.t - c.guard)
    .next (if c.parts.all c.armed.contains then modCoord (sendParts s1 c 0x13) id fun d => { d with decided := some true }
      else disarm s1 c)

/-- TIME.ARM completes: OK where every participant has switched, else MODE_FAULT; its result counts both kinds of REPORT. -/
def endArm (s : State) (c : CoordChange) : State :=
  let ok : Bool := decide (c.switched.length = c.parts.length)
  complete (modTime s fun t => { t with coords := t.coords.filter fun d => d.id ≠ c.id }) c.cmd (if ok then stOk else stModeFault)
    (c.switched.length * 2 ^ 32 + c.faulted.length) 0

/-- REPORT: counted; with the last one TIME.ARM completes. -/
def execReportMessage (s : State) : Res :=
  match modeMsgOf s 0x15 with
  | none => .next s
  | some q =>
    let from1 := q.m.src
    let s1 := modCoord (modeRead s q) (modeId q.m) fun c =>
      if c.decided ≠ some true ∨ !c.parts.contains from1 ∨ c.switched.contains from1 ∨ c.faulted.contains from1 then c
      else if q.m.arg / 256 % 256 = 0 then { c with switched := c.switched ++ [from1] } else { c with faulted := c.faulted ++ [from1] }
    match coordOf s1 (modeId q.m) with
    | none => .next s1
    | some c => .next (if c.switched.length + c.faulted.length = c.parts.length then endArm s1 c else s1)

/-- T + GUARD: a participant without a REPORT counts as faulty. -/
def execReportDeadline (id : Nat) (s : State) : Res :=
  match coordOf s id with
  | none => .next s
  | some c => if c.decided ≠ some true then .next s else .next (endArm (advanceMer s (c.t + c.guard)) c)

end Sys2Proof.Machine
end

