-- ==== Sys2Proof/Machine/Pools.lean ====
section
/-! DEFINITION. Pools: rebalance periods, moves of die shares, COLD hints after KVCOLD (R248, R254, R255). -/

namespace Sys2Proof.Machine

/-- The highest die of a list. -/
def maxDie (ds : List Nat) : Nat := ds.foldl max 0

/-- Cores of a list of die shares that lie in the pool masks. -/
def shareCores (s : State) (t : Nat) (v : ModelVer) (ds : List Nat) : Nat := popc 96 (shareMask s t v ds).toNat

/-- The figures that R254's rule compares: u as a fraction, the tokens queued, the goal. -/
structure Rates where
  un : Nat
  ud : Nat
  q : Nat
  goal : Nat

/-- Figures of the period that ends. -/
def rates (s : State) (q : Nat × Nat) (m : Model) (v : ModelVer) : Rates :=
  let p := v.sv.per
  let ud := if m.serve.beat = 0 then m.serve.rebalus * usTicks else p.dsteps * m.serve.beat
  { un := p.dtime, ud := ud, q := queuedToks s q, goal := (polAt s m.tenant).ttftgoal }

/-- The move that R254's rule chooses: die, and whether to the decode pool. -/
def chooseMove (s : State) (m : Model) (v : ModelVer) (r : Rates) : Option (Nat × Bool) :=
  let sv := v.sv
  let pfDie := maxDie sv.pf
  let dcDie := maxDie sv.dc
  let some' := decide (sv.per.dsteps ≠ 0)
  let nd := shareCores s m.tenant v sv.dc
  let n := shareCores s m.tenant v [dcDie]
  if some' ∧ 9 * r.ud < 10 * r.un ∧ m.serve.pfmin < sv.pf.length then some (pfDie, true)
  else if 0 < r.q ∧ 0 < sv.per.ptoks ∧ r.goal * sv.per.ptoks < 2 * r.q * m.serve.rebalus
      ∧ n < nd ∧ (some' = false ∨ 4 * r.un * nd < 3 * r.ud * (nd - n)) ∧ m.serve.dcmin < sv.dc.length then some (dcDie, false)
  else if sv.per.pran = false ∧ m.serve.pfmin < sv.pf.length then some (pfDie, true)
  else none

/-- Index of the giving pool's job. -/
def givingJob (v : ModelVer) (toDecode : Bool) : Nat := if toDecode then svN v 5 1 else svN v 6 1

/-- A move begins: the giving pool's plots are dealt to the moving share no more. -/
def startMove (s : State) (q : Nat × Nat) (m : Model) (v : ModelVer) (mv : Nat × Bool) : State :=
  let left := (if mv.2 then v.sv.pf else v.sv.dc).filter (· ≠ mv.1)
  let mask := shareMask s m.tenant v left
  modJob (modSv s q fun sv => { sv with moving := some mv }) (v.jobs.getD (givingJob v mv.2) 0) fun j => { j with pool := some mask }

/-- Every REBALUS µs the rule is applied where there are two pools, at most one move at a time; a new period begins, with whose rates R268
defers. -/
def execRebalancePeriod (h n : Nat) (s : State) : Res :=
  match modelAt s h, verAt s (h, n) with
  | some m, some v =>
    if m.serve.rebalus = 0 then .next s else
    let s1 := advanceTo s (v.sv.per.since + m.serve.rebalus * usTicks)
    let mv := if !hasPools v ∨ v.sv.moving.isSome then none else chooseMove s1 m v (rates s1 (h, n) m v)
    let s2 := modSv s1 (h, n) fun sv => { sv with last := sv.per, per := { since := s1.clk.ticks } }
    .next (match mv with | some x => startMove s2 (h, n) m v x | none => s2)
  | _, _ => .next s

/-- A job-core of the giving job on a core of the moving share leaves it empty (Table 8.1). -/
def emptyJc (j : Nat) (mask : BitVec 96) (s : State) (c : Nat × JobCore) : State :=
  if mask.getLsbD c.2.core ∧ (c.2.st = .resident ∨ c.2.st = .restoring) then
    let loss := match slotAt s c.2.core c.2.slot with | some sl => sl.ctx.loss | none => 0
    modJc (unplaceJc (clearSlot s c.2.core c.2.slot) j c.1 loss) j c.1 fun x => { x with pendingSince := s.clk.ticks }
  else s

/-- At the giving pool's step boundary its job-cores leave the share, both masks change, and the receiving pool is placed there
(R255). -/
def execPoolMoveRelease (h n : Nat) (s : State) : Res :=
  match modelAt s h, verAt s (h, n) with
  | some m, some v =>
    match v.sv.moving with
    | none => .next s
    | some (die, toDecode) =>
      let busy := if toDecode then (stepOf v .prefill).isSome else (stepOf v .decode).isSome || (stepOf v .verify).isSome
      if busy then .next s else
      let j := v.jobs.getD (givingJob v toDecode) 0
      let mask := shareMask s m.tenant v [die]
      let s1 := match jobAt s j with
        | some job => job.jcores.foldl (emptyJc j mask) s
        | none => s
      let s2 := modSv s1 (h, n) fun sv => { sv with
        moving := none
        pf := if toDecode then sv.pf.filter (· ≠ die) else sv.pf ++ [die]
        dc := if toDecode then sv.dc ++ [die] else sv.dc.filter (· ≠ die) }
      .next (applyPools s2 (h, n))
  | _, _ => .next s

/-- The blocks of a sequence that has been in no step for KVCOLD µs are hinted COLD (R248). -/
def execKvColdTimer (slot : Nat) (s : State) : Res :=
  match seqAt s slot with
  | none => .next s
  | some x =>
    if x.coldDone ∨ inAnyStep s slot x ∨ (x.btab = [] ∧ x.dtab = []) then .next s else
    let us := ((modelAt s x.gen0.1).map (·.serve.kvcold)).getD 100000
    let s1 := advanceTo s (x.lastStep + us * usTicks)
    let s2 := match verAt s1 x.gen0 with
      | some v => kvCold s1 x.tenant v x.btab
      | none => s1
    let s3 := match x.drafter.bind fun q => verAt s2 q with
      | some v => kvCold s2 x.tenant v x.dtab
      | none => s2
    .next (modSeq s3 slot fun y => { y with coldDone := true })

end Sys2Proof.Machine
end

