-- ==== Sys2Proof/Machine/Dispatch.lean ====
section
/-! DEFINITION. One arm per command: its meaning, called by its full name. -/

namespace Sys2Proof.Machine

/-- The effect of a command on everything but the queue. -/
def exec (i : Instr) (s : State) : Host.Outcome State Fault Refusal :=
  match i with
  | .commandFetch c slot => Sys2Proof.Machine.execCommandFetch c slot s
  | .nop c slot => Sys2Proof.Machine.execNop c slot s
  | .fenceLocal c slot => Sys2Proof.Machine.execFenceLocal c slot s
  | .fenceAtlas c slot => Sys2Proof.Machine.execFenceAtlas c slot s
  | .semWait c slot => Sys2Proof.Machine.execSemWait c slot s
  | .semSignal c slot => Sys2Proof.Machine.execSemSignal c slot s
  | .semWaitTimeout jobid jcore => Sys2Proof.Machine.execSemWaitTimeout jobid jcore s
  | .memWait c slot => Sys2Proof.Machine.execMemWait c slot s
  | .memWaitPoll c slot => Sys2Proof.Machine.execMemWaitPoll c slot s
  | .memWaitTimeout c slot => Sys2Proof.Machine.execMemWaitTimeout c slot s
  | .memAtomic c slot => Sys2Proof.Machine.execMemAtomic c slot s
  | .spadRegion c slot => Sys2Proof.Machine.execSpadRegion c slot s
  | .spadSegmentUp c slot => Sys2Proof.Machine.execSpadSegmentUp c slot s
  | .spadSegmentDown c slot => Sys2Proof.Machine.execSpadSegmentDown c slot s
  | .segmentWakeDone c seg => Sys2Proof.Machine.execSegmentWakeDone c seg s
  | .segmentOff c seg => Sys2Proof.Machine.execSegmentOff c seg s
  | .arrayPass c slot => Sys2Proof.Machine.execArrayPass c slot s
  | .passFirstPlane c => Sys2Proof.Machine.execPassFirstPlane c s
  | .accumulatorWrite c => Sys2Proof.Machine.execAccumulatorWrite c s
  | .arrayDrain c slot => Sys2Proof.Machine.execArrayDrain c slot s
  | .drainStart c => Sys2Proof.Machine.execDrainStart c s
  | .drainComplete c => Sys2Proof.Machine.execDrainComplete c s
  | .tmMove c slot => Sys2Proof.Machine.execTmMove c slot s
  | .tmGather c slot => Sys2Proof.Machine.execTmGather c slot s
  | .tmScatter c slot => Sys2Proof.Machine.execTmScatter c slot s
  | .tmRunDone c id => Sys2Proof.Machine.execTmRunDone c id s
  | .tmHintWillneed c slot => Sys2Proof.Machine.execTmHintWillneed c slot s
  | .tmHintCold c slot => Sys2Proof.Machine.execTmHintCold c slot s
  | .tmHintDemote c slot => Sys2Proof.Machine.execTmHintDemote c slot s
  | .vuLd c slot => Sys2Proof.Machine.execVuLd c slot s
  | .vuSt c slot => Sys2Proof.Machine.execVuSt c slot s
  | .vuAdd c slot => Sys2Proof.Machine.execVuAdd c slot s
  | .vuSub c slot => Sys2Proof.Machine.execVuSub c slot s
  | .vuMul c slot => Sys2Proof.Machine.execVuMul c slot s
  | .vuFma c slot => Sys2Proof.Machine.execVuFma c slot s
  | .vuMin c slot => Sys2Proof.Machine.execVuMin c slot s
  | .vuMax c slot => Sys2Proof.Machine.execVuMax c slot s
  | .vuAbs c slot => Sys2Proof.Machine.execVuAbs c slot s
  | .vuNeg c slot => Sys2Proof.Machine.execVuNeg c slot s
  | .vuDiv c slot => Sys2Proof.Machine.execVuDiv c slot s
  | .vuSqrt c slot => Sys2Proof.Machine.execVuSqrt c slot s
  | .vuAnd c slot => Sys2Proof.Machine.execVuAnd c slot s
  | .vuOr c slot => Sys2Proof.Machine.execVuOr c slot s
  | .vuXor c slot => Sys2Proof.Machine.execVuXor c slot s
  | .vuShl c slot => Sys2Proof.Machine.execVuShl c slot s
  | .vuShr c slot => Sys2Proof.Machine.execVuShr c slot s
  | .vuSar c slot => Sys2Proof.Machine.execVuSar c slot s
  | .vuPopc c slot => Sys2Proof.Machine.execVuPopc c slot s
  | .vuHamm c slot => Sys2Proof.Machine.execVuHamm c slot s
  | .vuCvt c slot => Sys2Proof.Machine.execVuCvt c slot s
  | .vuCmp c slot => Sys2Proof.Machine.execVuCmp c slot s
  | .vuSel c slot => Sys2Proof.Machine.execVuSel c slot s
  | .vuRsum c slot => Sys2Proof.Machine.execVuRsum c slot s
  | .vuRmax c slot => Sys2Proof.Machine.execVuRmax c slot s
  | .vuExp2 c slot => Sys2Proof.Machine.execVuExp2 c slot s
  | .vuLog2 c slot => Sys2Proof.Machine.execVuLog2 c slot s
  | .vuRsqrt c slot => Sys2Proof.Machine.execVuRsqrt c slot s
  | .vuTanh c slot => Sys2Proof.Machine.execVuTanh c slot s
  | .vuSoftmax c slot => Sys2Proof.Machine.execVuSoftmax c slot s
  | .vuBsort c slot => Sys2Proof.Machine.execVuBsort c slot s
  | .vuBmerge c slot => Sys2Proof.Machine.execVuBmerge c slot s
  | .vuTopk c slot => Sys2Proof.Machine.execVuTopk c slot s
  | .vuCompact c slot => Sys2Proof.Machine.execVuCompact c slot s
  | .vuSample c slot => Sys2Proof.Machine.execVuSample c slot s
  | .plotDone c slot => Sys2Proof.Machine.execPlotDone c slot s
  | .stealRequest c jobid => Sys2Proof.Machine.execStealRequest c jobid s
  | .stealRequestArrival c jobid => Sys2Proof.Machine.execStealRequestArrival c jobid s
  | .stealRetry c jobid => Sys2Proof.Machine.execStealRetry c jobid s
  | .searchOpen r => Sys2Proof.Machine.execSearchOpen r s
  | .searchClose r => Sys2Proof.Machine.execSearchClose r s
  | .searchQuery r => Sys2Proof.Machine.execSearchQuery r s
  | .searchUpdate r => Sys2Proof.Machine.execSearchUpdate r s
  | .searchResurveyStart r => Sys2Proof.Machine.execSearchResurveyStart r s
  | .searchResurveyAbort r => Sys2Proof.Machine.execSearchResurveyAbort r s
  | .searchSwap r => Sys2Proof.Machine.execSearchSwap r s
  | .searchBatchStart h => Sys2Proof.Machine.execSearchBatchStart h s
  | .searchBatchEnd h b => Sys2Proof.Machine.execSearchBatchEnd h b s
  | .resurveyBuildDone h => Sys2Proof.Machine.execResurveyBuildDone h s
  | .resurveyYield h => Sys2Proof.Machine.execResurveyYield h s
  | .atlasMap r => Sys2Proof.Machine.execAtlasMap r s
  | .atlasUnmap r => Sys2Proof.Machine.execAtlasUnmap r s
  | .atlasProtect r => Sys2Proof.Machine.execAtlasProtect r s
  | .atlasPin r => Sys2Proof.Machine.execAtlasPin r s
  | .atlasUnpin r => Sys2Proof.Machine.execAtlasUnpin r s
  | .atlasHintWillneed r => Sys2Proof.Machine.execAtlasHintWillneed r s
  | .atlasHintCold r => Sys2Proof.Machine.execAtlasHintCold r s
  | .atlasHintDemote r => Sys2Proof.Machine.execAtlasHintDemote r s
  | .atlasZero r => Sys2Proof.Machine.execAtlasZero r s
  | .atlasPeerCreate r => Sys2Proof.Machine.execAtlasPeerCreate r s
  | .atlasPeerRemove r => Sys2Proof.Machine.execAtlasPeerRemove r s
  | .atlasLend r => Sys2Proof.Machine.execAtlasLend r s
  | .atlasHreg r => Sys2Proof.Machine.execAtlasHreg r s
  | .atlasHunreg r => Sys2Proof.Machine.execAtlasHunreg r s
  | .atlasFring r => Sys2Proof.Machine.execAtlasFring r s
  | .atlasPolicy r => Sys2Proof.Machine.execAtlasPolicy r s
  | .atlasQueryEntries r => Sys2Proof.Machine.execAtlasQueryEntries r s
  | .atlasQueryUsage r => Sys2Proof.Machine.execAtlasQueryUsage r s
  | .atlasTranspose r => Sys2Proof.Machine.execAtlasTranspose r s
  | .translationWalk c id => Sys2Proof.Machine.execTranslationWalk c id s
  | .promotionComplete t page cause => Sys2Proof.Machine.execPromotionComplete t page cause s
  | .demotionComplete t page res slot => Sys2Proof.Machine.execDemotionComplete t page res slot s
  | .hubAccess c id => Sys2Proof.Machine.execHubAccess c id s
  | .heatDecay t => Sys2Proof.Machine.execHeatDecay t s
  | .frameZeroed frame => Sys2Proof.Machine.execFrameZeroed frame s
  | .faultRingWrite t ok => Sys2Proof.Machine.execFaultRingWrite t ok s
  | .fringCidxWrite fn value => Sys2Proof.Machine.execFringCidxWrite fn value s
  | .jobCreate r => Sys2Proof.Machine.execJobCreate r s
  | .jobPlots r => Sys2Proof.Machine.execJobPlots r s
  | .jobResumeRetry r => Sys2Proof.Machine.execJobResumeRetry r s
  | .jobResumeSkip r => Sys2Proof.Machine.execJobResumeSkip r s
  | .jobAbortFinish r => Sys2Proof.Machine.execJobAbortFinish r s
  | .jobAbortBoundary r => Sys2Proof.Machine.execJobAbortBoundary r s
  | .jobAbortImmediate r => Sys2Proof.Machine.execJobAbortImmediate r s
  | .jobSemCreate r => Sys2Proof.Machine.execJobSemCreate r s
  | .jobSemDestroy r => Sys2Proof.Machine.execJobSemDestroy r s
  | .jobPrio r => Sys2Proof.Machine.execJobPrio r s
  | .jobStatus r => Sys2Proof.Machine.execJobStatus r s
  | .jobPolicy r => Sys2Proof.Machine.execJobPolicy r s
  | .saveQuiesceEnd c slot => Sys2Proof.Machine.execSaveQuiesceEnd c slot s
  | .saveDrainEnd c slot => Sys2Proof.Machine.execSaveDrainEnd c slot s
  | .saveEnd c slot => Sys2Proof.Machine.execSaveEnd c slot s
  | .saveReleaseEnd c slot => Sys2Proof.Machine.execSaveReleaseEnd c slot s
  | .restoreEnd c slot => Sys2Proof.Machine.execRestoreEnd c slot s
  | .inhtoExpiry jobid => Sys2Proof.Machine.execInhtoExpiry jobid s
  | .modelLoad r => Sys2Proof.Machine.execModelLoad r s
  | .modelUnload r => Sys2Proof.Machine.execModelUnload r s
  | .modelSwap r => Sys2Proof.Machine.execModelSwap r s
  | .tableGather r => Sys2Proof.Machine.execTableGather r s
  | .tableScatter r => Sys2Proof.Machine.execTableScatter r s
  | .seqSubmit r => Sys2Proof.Machine.execSeqSubmit r s
  | .seqCancelNormal r => Sys2Proof.Machine.execSeqCancelNormal r s
  | .seqCancelImmediate r => Sys2Proof.Machine.execSeqCancelImmediate r s
  | .seqStatus r => Sys2Proof.Machine.execSeqStatus r s
  | .seqMove r => Sys2Proof.Machine.execSeqMove r s
  | .seqExportSnapshot r => Sys2Proof.Machine.execSeqExportSnapshot r s
  | .seqExportDetach r => Sys2Proof.Machine.execSeqExportDetach r s
  | .seqImport r => Sys2Proof.Machine.execSeqImport r s
  | .seqServe r => Sys2Proof.Machine.execSeqServe r s
  | .seqPolicy r => Sys2Proof.Machine.execSeqPolicy r s
  | .prefillStepForm h n => Sys2Proof.Machine.execPrefillStepForm h n s
  | .decodeBeat h n => Sys2Proof.Machine.execDecodeBeat h n s
  | .encodeStepForm h n => Sys2Proof.Machine.execEncodeStepForm h n s
  | .rerankStepForm h n => Sys2Proof.Machine.execRerankStepForm h n s
  | .draftStepForm h n => Sys2Proof.Machine.execDraftStepForm h n s
  | .verifyStepForm h n => Sys2Proof.Machine.execVerifyStepForm h n s
  | .stepEnd h n kind reqs => Sys2Proof.Machine.execStepEnd h n kind reqs s
  | .expertStepStart h n => Sys2Proof.Machine.execExpertStepStart h n s
  | .dispatchDeadline h n num => Sys2Proof.Machine.execDispatchDeadline h n num s
  | .rebalancePeriod h n => Sys2Proof.Machine.execRebalancePeriod h n s
  | .poolMoveRelease h n => Sys2Proof.Machine.execPoolMoveRelease h n s
  | .kvColdTimer slot => Sys2Proof.Machine.execKvColdTimer slot s
  | .streamConsPoll slot => Sys2Proof.Machine.execStreamConsPoll slot s
  | .tokeniseUnit => Sys2Proof.Machine.execTokeniseUnit s
  | .packUnit => Sys2Proof.Machine.execPackUnit s
  | .tokenUnit => Sys2Proof.Machine.execTokenUnit s
  | .draftPositionUnit => Sys2Proof.Machine.execDraftPositionUnit s
  | .admissionUnit => Sys2Proof.Machine.execAdmissionUnit s
  | .textTokenise r => Sys2Proof.Machine.execTextTokenise r s
  | .textDetokenise r => Sys2Proof.Machine.execTextDetokenise r s
  | .flitReceive port flit fecOk => Sys2Proof.Machine.execFlitReceive port flit fecOk s
  | .nakReceive port seq => Sys2Proof.Machine.execNakReceive port seq s
  | .fencedReceive port => Sys2Proof.Machine.execFencedReceive port s
  | .pcsLockLoss port => Sys2Proof.Machine.execPcsLockLoss port s
  | .linkSilenceTimeout port => Sys2Proof.Machine.execLinkSilenceTimeout port s
  | .portTrained port peer peerPort creds => Sys2Proof.Machine.execPortTrained port peer peerPort creds s
  | .treadReceive => Sys2Proof.Machine.execTreadReceive s
  | .twriteReceive => Sys2Proof.Machine.execTwriteReceive s
  | .atomicReceive => Sys2Proof.Machine.execAtomicReceive s
  | .msgReceive svc => Sys2Proof.Machine.execMsgReceive svc s
  | .collReceive => Sys2Proof.Machine.execCollReceive s
  | .rdataReceive => Sys2Proof.Machine.execRdataReceive s
  | .wackReceive => Sys2Proof.Machine.execWackReceive s
  | .avalReceive => Sys2Proof.Machine.execAvalReceive s
  | .mackReceive => Sys2Proof.Machine.execMackReceive s
  | .erespReceive => Sys2Proof.Machine.execErespReceive s
  | .remoteOpTimeout tx => Sys2Proof.Machine.execRemoteOpTimeout tx s
  | .responseTableExpiry => Sys2Proof.Machine.execResponseTableExpiry s
  | .orderedFlowTimeout dst svc => Sys2Proof.Machine.execOrderedFlowTimeout dst svc s
  | .busyRetry tx => Sys2Proof.Machine.execBusyRetry tx s
  | .mgmtProbe => Sys2Proof.Machine.execMgmtProbe s
  | .probeTimeout m => Sys2Proof.Machine.execProbeTimeout m s
  | .lostNotice => Sys2Proof.Machine.execLostNotice s
  | .joinNotice => Sys2Proof.Machine.execJoinNotice s
  | .fabConfig r => Sys2Proof.Machine.execFabConfig r s
  | .fabRouteWrite r => Sys2Proof.Machine.execFabRouteWrite r s
  | .fabRouteCommit r => Sys2Proof.Machine.execFabRouteCommit r s
  | .fabPortDisable r => Sys2Proof.Machine.execFabPortDisable r s
  | .fabPortEnable r => Sys2Proof.Machine.execFabPortEnable r s
  | .fabPortSetcred r => Sys2Proof.Machine.execFabPortSetcred r s
  | .fabStatusPorts r => Sys2Proof.Machine.execFabStatusPorts r s
  | .fabStatusReach r => Sys2Proof.Machine.execFabStatusReach r s
  | .fabFence r => Sys2Proof.Machine.execFabFence r s
  | .fabUnfence r => Sys2Proof.Machine.execFabUnfence r s
  | .fabGroupCreate r => Sys2Proof.Machine.execFabGroupCreate r s
  | .fabGroupDestroy r => Sys2Proof.Machine.execFabGroupDestroy r s
  | .collectiveTrigger t g => Sys2Proof.Machine.execCollectiveTrigger t g s
  | .collectiveDone t g => Sys2Proof.Machine.execCollectiveDone t g s
  | .egressSchedule port => Sys2Proof.Machine.execEgressSchedule port s
  | .tokenRefill port => Sys2Proof.Machine.execTokenRefill port s
  | .gateEntryAdvance port => Sys2Proof.Machine.execGateEntryAdvance port s
  | .gateTakeover port => Sys2Proof.Machine.execGateTakeover port s
  | .queueSample cons => Sys2Proof.Machine.execQueueSample cons s
  | .fabShaper r => Sys2Proof.Machine.execFabShaper r s
  | .fabSched r => Sys2Proof.Machine.execFabSched r s
  | .fabGateWrite r => Sys2Proof.Machine.execFabGateWrite r s
  | .fabGateCommit r => Sys2Proof.Machine.execFabGateCommit r s
  | .fabSample r => Sys2Proof.Machine.execFabSample r s
  | .meridianRead64 fn => Sys2Proof.Machine.execMeridianRead64 fn s
  | .meridianLowRead fn => Sys2Proof.Machine.execMeridianLowRead fn s
  | .meridianHighRead fn => Sys2Proof.Machine.execMeridianHighRead fn s
  | .ppsEdge => Sys2Proof.Machine.execPpsEdge s
  | .ppsLossTimeout => Sys2Proof.Machine.execPpsLossTimeout s
  | .timeSend port => Sys2Proof.Machine.execTimeSend port s
  | .timeReceive names => Sys2Proof.Machine.execTimeReceive names s
  | .scheduledActionApply num => Sys2Proof.Machine.execScheduledActionApply num s
  | .timeConfig r => Sys2Proof.Machine.execTimeConfig r s
  | .timeArm r => Sys2Proof.Machine.execTimeArm r s
  | .timeDisarm r => Sys2Proof.Machine.execTimeDisarm r s
  | .timeStatus r => Sys2Proof.Machine.execTimeStatus r s
  | .armMessage => Sys2Proof.Machine.execArmMessage s
  | .armedMessage => Sys2Proof.Machine.execArmedMessage s
  | .notarmedMessage => Sys2Proof.Machine.execNotarmedMessage s
  | .confirmMessage => Sys2Proof.Machine.execConfirmMessage s
  | .disarmMessage => Sys2Proof.Machine.execDisarmMessage s
  | .reportMessage => Sys2Proof.Machine.execReportMessage s
  | .armDecision id => Sys2Proof.Machine.execArmDecision id s
  | .modeChangeActivate coord id => Sys2Proof.Machine.execModeChangeActivate coord id s
  | .reportDeadline id => Sys2Proof.Machine.execReportDeadline id s
  | .powerApplied cores hbms chans ports ctlFail => Sys2Proof.Machine.execPowerApplied cores hbms chans ports ctlFail s
  | .inputShutdown => Sys2Proof.Machine.execInputShutdown s
  | .coolantWaitEnd flow cores hbms chans ports ctlFail => Sys2Proof.Machine.execCoolantWaitEnd flow cores hbms chans ports ctlFail s
  | .perstAssert => Sys2Proof.Machine.execPerstAssert s
  | .pcieLinkReset => Sys2Proof.Machine.execPcieLinkReset s
  | .flrPf0 => Sys2Proof.Machine.execFlrPf0 s
  | .flrVf t => Sys2Proof.Machine.execFlrVf t s
  | .flrPf1 => Sys2Proof.Machine.execFlrPf1 s
  | .vfEnableWrite v => Sys2Proof.Machine.execVfEnableWrite v s
  | .numvfsWrite n => Sys2Proof.Machine.execNumvfsWrite n s
  | .resetComplete fn => Sys2Proof.Machine.execResetComplete fn s
  | .bar2Read fn tag off len => Sys2Proof.Machine.execBar2Read fn tag off len s
  | .bar2Write fn off bytes => Sys2Proof.Machine.execBar2Write fn off bytes s
  | .bar2ReadTimeout fn => Sys2Proof.Machine.execBar2ReadTimeout fn s
  | .bar0BadAccess fn isRead => Sys2Proof.Machine.execBar0BadAccess fn isRead s
  | .winBaseWrite fn wide value => Sys2Proof.Machine.execWinBaseWrite fn wide value s
  | .msixModerationTimer fn v => Sys2Proof.Machine.execMsixModerationTimer fn v s
  | .msixUnmask fn v => Sys2Proof.Machine.execMsixUnmask fn v s
  | .atsInvalidate fn page n => Sys2Proof.Machine.execAtsInvalidate fn page n s
  | .hostCompletion x code addr data => Sys2Proof.Machine.execHostCompletion x code addr data s
  | .completionTimeout x addr => Sys2Proof.Machine.execCompletionTimeout x addr s
  | .hostIngressCommit f word => Sys2Proof.Machine.execHostIngressCommit f word s
  | .sqTailWrite fn mbox value => Sys2Proof.Machine.execSqTailWrite fn mbox value s
  | .cqHeadWrite fn mbox value => Sys2Proof.Machine.execCqHeadWrite fn mbox value s
  | .mboxEnable fn => Sys2Proof.Machine.execMboxEnable fn s
  | .mboxDisable fn => Sys2Proof.Machine.execMboxDisable fn s
  | .mboxFetch entry => Sys2Proof.Machine.execMboxFetch entry s
  | .commandTimeout r => Sys2Proof.Machine.execCommandTimeout r s
  | .devIdentify r => Sys2Proof.Machine.execDevIdentify r s
  | .devMboxCreate r => Sys2Proof.Machine.execDevMboxCreate r s
  | .devMboxRemove r => Sys2Proof.Machine.execDevMboxRemove r s
  | .devReset r => Sys2Proof.Machine.execDevReset r s
  | .devCancel r => Sys2Proof.Machine.execDevCancel r s
  | .tenEnable r => Sys2Proof.Machine.execTenEnable r s
  | .tenDisable r => Sys2Proof.Machine.execTenDisable r s
  | .tenConfig r => Sys2Proof.Machine.execTenConfig r s
  | .tenQuery r => Sys2Proof.Machine.execTenQuery r s
  | .dmaCopy r => Sys2Proof.Machine.execDmaCopy r s
  | .dmaPieceComplete r => Sys2Proof.Machine.execDmaPieceComplete r s
  | .logRing r => Sys2Proof.Machine.execLogRing r s
  | .logFilter r => Sys2Proof.Machine.execLogFilter r s
  | .logRead r => Sys2Proof.Machine.execLogRead r s
  | .evconsWrite value => Sys2Proof.Machine.execEvconsWrite value s
  | .logRingWrite ok => Sys2Proof.Machine.execLogRingWrite ok s
  | .perfSelect r => Sys2Proof.Machine.execPerfSelect r s
  | .perfRead r => Sys2Proof.Machine.execPerfRead r s
  | .perfSurvey r => Sys2Proof.Machine.execPerfSurvey r s
  | .surveyPeriod cons => Sys2Proof.Machine.execSurveyPeriod cons s
  | .mctpRequest entry data => Sys2Proof.Machine.execMctpRequest entry data s
  | .nvmeCreateIoSq sq cid entry => Sys2Proof.Machine.execNvmeCreateIoSq sq cid entry s
  | .nvmeCreateIoCq sq cid entry => Sys2Proof.Machine.execNvmeCreateIoCq sq cid entry s
  | .nvmeDeleteIoSq sq cid entry => Sys2Proof.Machine.execNvmeDeleteIoSq sq cid entry s
  | .nvmeDeleteIoCq sq cid entry => Sys2Proof.Machine.execNvmeDeleteIoCq sq cid entry s
  | .nvmeGetLogPage sq cid entry => Sys2Proof.Machine.execNvmeGetLogPage sq cid entry s
  | .nvmeIdentify sq cid entry => Sys2Proof.Machine.execNvmeIdentify sq cid entry s
  | .nvmeAbort sq cid entry => Sys2Proof.Machine.execNvmeAbort sq cid entry s
  | .nvmeSetFeatures sq cid entry => Sys2Proof.Machine.execNvmeSetFeatures sq cid entry s
  | .nvmeGetFeatures sq cid entry => Sys2Proof.Machine.execNvmeGetFeatures sq cid entry s
  | .nvmeAsyncEventRequest sq cid entry => Sys2Proof.Machine.execNvmeAsyncEventRequest sq cid entry s
  | .nvmeNamespaceManagement sq cid entry => Sys2Proof.Machine.execNvmeNamespaceManagement sq cid entry s
  | .nvmeNamespaceAttachment sq cid entry => Sys2Proof.Machine.execNvmeNamespaceAttachment sq cid entry s
  | .nvmeFormatNvm sq cid entry => Sys2Proof.Machine.execNvmeFormatNvm sq cid entry s
  | .nvmeSanitize sq cid entry => Sys2Proof.Machine.execNvmeSanitize sq cid entry s
  | .nvmeAbsentCommand sq cid entry => Sys2Proof.Machine.execNvmeAbsentCommand sq cid entry s
  | .nvmeRead sq cid entry => Sys2Proof.Machine.execNvmeRead sq cid entry s
  | .nvmeWrite sq cid entry => Sys2Proof.Machine.execNvmeWrite sq cid entry s
  | .nvmeFlush sq cid entry => Sys2Proof.Machine.execNvmeFlush sq cid entry s
  | .nvmeWriteZeroes sq cid entry => Sys2Proof.Machine.execNvmeWriteZeroes sq cid entry s
  | .nvmeDatasetManagement sq cid entry => Sys2Proof.Machine.execNvmeDatasetManagement sq cid entry s
  | .nvmeShutdownNotify shn => Sys2Proof.Machine.execNvmeShutdownNotify shn s
  | .nvmeDoorbellWrite off value => Sys2Proof.Machine.execNvmeDoorbellWrite off value s
  | .storeSplit r => Sys2Proof.Machine.execStoreSplit r s
  | .storeLockCreate r => Sys2Proof.Machine.execStoreLockCreate r s
  | .storeLockRelease r => Sys2Proof.Machine.execStoreLockRelease r s
  | .storeLockList r => Sys2Proof.Machine.execStoreLockList r s
  | .storeArb r => Sys2Proof.Machine.execStoreArb r s
  | .storeHealth r => Sys2Proof.Machine.execStoreHealth r s
  | .lockActivate lock => Sys2Proof.Machine.execLockActivate lock s
  | .lockExpiry lock => Sys2Proof.Machine.execLockExpiry lock s
  | .channelSchedule chan => Sys2Proof.Machine.execChannelSchedule chan s
  | .writeBufferProgram => Sys2Proof.Machine.execWriteBufferProgram s
  | .gcCopyVerified chan high => Sys2Proof.Machine.execGcCopyVerified chan high s
  | .flashProgramFail chan blk => Sys2Proof.Machine.execFlashProgramFail chan blk s
  | .flashEraseFail chan blk => Sys2Proof.Machine.execFlashEraseFail chan blk s
  | .flashReadFail chan blk place => Sys2Proof.Machine.execFlashReadFail chan blk place s
  | .apstIdleTimer => Sys2Proof.Machine.execApstIdleTimer s
  | .cpWatchdogExpiry => Sys2Proof.Machine.execCpWatchdogExpiry s
  | .helperHeartbeatTimeout src seq => Sys2Proof.Machine.execHelperHeartbeatTimeout src seq s
  | .startFailureTimeout => Sys2Proof.Machine.execStartFailureTimeout s
  | .fwDownload r => Sys2Proof.Machine.execFwDownload r s
  | .fwCommit r fail => Sys2Proof.Machine.execFwCommit r fail s
  | .fwActivate r => Sys2Proof.Machine.execFwActivate r s
  | .fwConfirm r fail => Sys2Proof.Machine.execFwConfirm r fail s
  | .fwRevert r fail => Sys2Proof.Machine.execFwRevert r fail s
  | .fwStatus r => Sys2Proof.Machine.execFwStatus r s
  | .confirmsTimeout => Sys2Proof.Machine.execConfirmsTimeout s
  | .secStatus r => Sys2Proof.Machine.execSecStatus r s
  | .secNonce r => Sys2Proof.Machine.execSecNonce r s
  | .secIdentity r => Sys2Proof.Machine.execSecIdentity r s
  | .secAttest r => Sys2Proof.Machine.execSecAttest r s
  | .secLifecycle r fail => Sys2Proof.Machine.execSecLifecycle r fail s
  | .recoveryRequest => Sys2Proof.Machine.execRecoveryRequest s
  | .governorPeriod pmeas work flashOver => Sys2Proof.Machine.execGovernorPeriod pmeas work flashOver s
  | .planPublish ack => Sys2Proof.Machine.execPlanPublish ack s
  | .planPublishRetry ack => Sys2Proof.Machine.execPlanPublishRetry ack s
  | .pmbusArbitrationLoss => Sys2Proof.Machine.execPmbusArbitrationLoss s
  | .sensorSample inlet outlet flow dies temp => Sys2Proof.Machine.execSensorSample inlet outlet flow dies temp s
  | .correctedError site unit arg => Sys2Proof.Machine.execCorrectedError site unit arg s
  | .uncorrectableError site unit a b => Sys2Proof.Machine.execUncorrectableError site unit a b s
  | .eventCoalesceClose src code arg0 => Sys2Proof.Machine.execEventCoalesceClose src code arg0 s
  | .portWindowEnd port => Sys2Proof.Machine.execPortWindowEnd port s
  | .pwrCap r => Sys2Proof.Machine.execPwrCap r s
  | .pwrPlan r => Sys2Proof.Machine.execPwrPlan r s
  | .pwrStatus r => Sys2Proof.Machine.execPwrStatus r s
  | .pwrShelf r => Sys2Proof.Machine.execPwrShelf r s
  | .pwrFence r => Sys2Proof.Machine.execPwrFence r s
  | .pwrUnitregRead r => Sys2Proof.Machine.execPwrUnitregRead r s
  | .pwrUnitregWrite r => Sys2Proof.Machine.execPwrUnitregWrite r s
  | .jtagInstructionLoad dev load => Sys2Proof.Machine.execJtagInstructionLoad dev load s
  | .registerWrite fn w => Sys2Proof.Machine.execRegisterWrite fn w s
  | .vectorUnitComplete c => Sys2Proof.Machine.execVectorUnitComplete c s
  | .eraseComplete chan blk => Sys2Proof.Machine.execEraseComplete chan blk s
  | .perstDeassert => Sys2Proof.Machine.execPerstDeassert s
  | .pcieLinkUp rate width => Sys2Proof.Machine.execPcieLinkUp rate width s
  | .meridianHoldEnd => Sys2Proof.Machine.execMeridianHoldEnd s
  | .interruptCoalescingTimer cq => Sys2Proof.Machine.execInterruptCoalescingTimer cq s

end Sys2Proof.Machine
end

