-- ==== Sys2Proof/Safety.lean ====
section
/-! DEFINITION. What counts as a safe step, and what every command keeps: the relations in which the whole-machine claims
are stated. -/

namespace Sys2Proof.Safety

open Sys2Proof.Machine

/-- The step does not stop the machine: it ends in a next state. -/
def Safe (o : Host.Outcome State Fault Refusal) : Prop := ∃ t, o = .next t

/-- Every byte memory of the block is in its canonical form: the atlas, the firmware staging area, the namespaces. -/
def MemoryOk (s : State) : Prop :=
  Memory.wf s.atlas.mem = true ∧ Memory.wf s.ctl.staging = true ∧ ∀ n ∈ s.store.nss, Memory.wf n.2.data = true

/-- What the fuses hold: the life-cycle state, MINSECVER and how often it was raised, the revoked keys, the passes
through RETURN (R442, R444, R446, R458). -/
def fuses (c : Control) : Nat × Nat × Nat × Nat × Nat := (c.lifecycle, c.minSecver, c.raises, c.revoked, c.returns)

/-- What every command but FW.CONFIRM and SEC.LIFECYCLE keeps: the queue of waiting commands, the fuses, the TLPs that
have left, the free values drawn, and the canonical form of the memories. -/
structure Kept (s t : State) : Prop where
  queue : t.pending = s.pending
  fuses : fuses t.ctl = fuses s.ctl
  sent : s.left <+: t.left
  drawn : s.freeCtr ≤ t.freeCtr
  memory : MemoryOk s → MemoryOk t

/-! ### When a command is there to run -/

/-- The issue stage of core c picks slot i, whose job-core is `sl`, and its head command `q` can issue (R93). -/
abbrev Issues (s : State) (c i : Nat) (sl : Slot) (q : QCmd) : Prop :=
  nextSlot s c = some i ∧ slotAt s c i = some sl ∧ slotHead sl = some q ∧ verdict (coreNow s c) i sl q = .go

/-- The state after the head of a slot has left its stream and taken its scoreboard entries (R82, R93). -/
def issued (s : State) (c i : Nat) (sl : Slot) (q : QCmd) : State :=
  modCore (popHead (setCore s c (coreNow s c)) c i) c fun k =>
    sbTake (sbTake k i (sbOwner (coreAt s c).nextId) (cmdRanges q.bytes sl).2) i (sbOwnerEarly (coreAt s c).nextId)
      (cmdRanges q.bytes sl).1

/-- A mailbox or MCTP command of opcode `op` is in flight, its work has not begun, and nothing holds its start (R390). -/
abbrev Offered (s : State) (r : CmdRef) (op : Nat) (x : Inflight) : Prop :=
  inflAt s r = some x ∧ entryOp x.entry = op ∧ x.status = none ∧ x.started = false ∧ mayStart s x = true

/-- A command is offered and its entry passes its checks (R385). -/
abbrev Takes (s : State) (r : CmdRef) (op : Nat) (x : Inflight) (chk : List (Nat × Bool)) : Prop :=
  Offered s r op x ∧ firstBad chk = none

/-- The command's work begins. -/
def begun (s : State) (r : CmdRef) : State := modInfl s r fun y => { y with started := true }

/-- A command with a parameter block is offered, and its block can be read and passes its checks (R392): `w` is the state
once the block is read, `b` the block. -/
abbrev TakesBlock (s : State) (r : CmdRef) (op : Nat) (x : Inflight) (w : State) (b : Bytes) (chk : List (Nat × Bool)) : Prop :=
  Takes s r op x (blockChecks x.entry) ∧ x.block = none ∧ x.done = 0 ∧
  cmdRead (begun s r) { x with started := true } (cmdTenant x) walkHubControl (parFld x.entry 0 56 0) 64 = .ok w b ∧
  firstBad chk = none

/-- The block is held with the command. -/
def blockHeld (w : State) (r : CmdRef) (b : Bytes) : State := modInfl w r fun y => { y with block := some b }

/-- A command in flight whose work has begun and that nothing has stopped. -/
abbrev Running (s : State) (r : CmdRef) (op : Nat) (x : Inflight) : Prop :=
  inflAt s r = some x ∧ entryOp x.entry = op ∧ x.status = none ∧ x.started = true ∧ x.stopped = none

/-- The NVMe command with an identifier at the head of a queue, or taken before, is one of an opcode that can run: `u` is the
state once it is taken, `c` the command (R416, R417, R425). -/
structure NvTakes (s : State) (sq cid : Nat) (entry : Bytes) (admin : Bool) (op : Nat) (u : State) (c : NvCmd) : Prop where
  taken : nvTake s sq cid entry = some (u, c)
  queue : decide (sq = 0) = admin
  opcode : byteAt c.e 0 = op
  room : nvRoom u sq = true
  cool : admin = true ∨ u.power.stage ≠ 4
  live : c.aborted = false ∧ c.xfer = false
  prp : bitsOf (byteAt c.e 1) 1 0 = 0 ∧ bitsOf (byteAt c.e 1) 7 6 = 0

/-- n bytes lie in the host pages that a command names, and a PRP list they need has been read. -/
abbrev NvFits (s : State) (c : NvCmd) (n : Nat) : Prop :=
  ¬ (prpList (nvPage s) c n = true ∧ c.prps = none) ∧ prpBad (nvPage s) c n = false

/-- No lock keeps a command from the LBAs it touches, and no command of its queue is held before it (R422). -/
abbrev NvFree (s : State) (c : NvCmd) (ranges : List (Nat × Nat × Nat)) (writes : Bool) : Prop :=
  c.started = false ∧ (∀ l ∈ s.store.locks, ∀ r ∈ ranges, lockHits l.2 r.1 r.2.1 r.2.2 writes = false) ∧
    (c.held = true → heldBefore s c = false)

/-- An NVMe command executes from now on. -/
def nvBegun (s : State) (c : NvCmd) : State := modNv s c fun x => { x with started := true }

/-- The lane-wise operations of VU.OP: row, operation code (Table 5.7), value of a lane from the lanes of A, B and C. -/
def laneOps : List ((Nat → Nat → Instr) × Nat × (VopF → Nat → Nat → Nat → Nat)) :=
  [ (.vuAdd, 0x00, fun f a b _ => opAdd f.ty f.rnd a b),
    (.vuSub, 0x01, fun f a b _ => opSub f.ty f.rnd a b),
    (.vuMul, 0x02, fun f a b _ => opMul f.ty f.rnd a b),
    (.vuFma, 0x03, fun f a b d => opFma f.ty f.rnd a b d),
    (.vuMin, 0x04, fun f a b _ => opMin f.ty f.rnd a b),
    (.vuMax, 0x05, fun f a b _ => opMax f.ty f.rnd a b),
    (.vuAbs, 0x06, fun f a _ _ => opAbs f.ty f.rnd a),
    (.vuNeg, 0x07, fun f a _ _ => opNeg f.ty f.rnd a),
    (.vuDiv, 0x08, fun f a b _ => opDiv f.rnd a b),
    (.vuSqrt, 0x09, fun f a _ _ => opSqrt f.rnd a),
    (.vuAnd, 0x10, fun _ a b _ => opAnd a b),
    (.vuOr, 0x11, fun _ a b _ => opOr a b),
    (.vuXor, 0x12, fun _ a b _ => opXor a b),
    (.vuShl, 0x13, fun _ a b _ => opShl a b),
    (.vuShr, 0x14, fun _ a b _ => opShr a b),
    (.vuSar, 0x15, fun _ a b _ => opSar a b),
    (.vuPopc, 0x16, fun _ a _ _ => opPopc a),
    (.vuHamm, 0x17, fun _ a b _ => opHamm a b),
    (.vuCvt, 0x20, fun f a _ _ => opCvt (vopSrcTy f) f.ty f.rnd a),
    (.vuCmp, 0x21, fun f a b _ => opCmp f.ty (f.imm % 8) a b),
    (.vuSel, 0x22, fun f a b d =>
      if f.ty = .f32 ∧ f.rnd ≠ 0 then vRound .f32 f.rnd (tyVal .f32 (if d ≠ 0 then a else b)) else if d ≠ 0 then a else b),
    (.vuExp2, 0x30, fun f a _ _ => opTrans Config.exp2 f.rnd a),
    (.vuLog2, 0x31, fun f a _ _ => opTrans Config.log2 f.rnd a),
    (.vuRsqrt, 0x32, fun f a _ _ => opTrans Config.rsqrt f.rnd a),
    (.vuTanh, 0x33, fun f a _ _ => opTrans Config.tanh f.rnd a) ]

end Sys2Proof.Safety
end

