-- ==== Sys2Proof/Certificates/Slice0/Obligations.lean ====
section
/-! DEFINITION. The statements for the provers. -/

open Sys2Proof Sys2Proof.Machine Sys2Proof.Safety

/-- The step takes the command at the front of the queue and answers what that command's effect gives on the state with the queue's rest (how commands reach the block is the model's own: assumption log 1). -/
def Obligations.StepRunsFront : Prop :=
  ∀ (c : Instr) (rest : List Instr) (s : State), s.pending = c :: rest → step s = exec c { s with pending := rest }

/-- With no command waiting the step answers the same state (the model's own choice: assumption log 1). -/
def Obligations.EmptyQueueIdles : Prop := ∀ s : State, s.pending = [] → step s = .next s

/-- At State.reset the atlas memory, the firmware staging area and the data of the namespaces are in the model's canonical form (how memory is held is the model's own; no rule of the spec gives it). -/
def Obligations.MemoriesCanonicalAtReset : Prop := MemoryOk State.reset

/-- From every state whose atlas memory, firmware staging area and namespace data are in canonical form (addresses strictly rising, no byte listed that an unlisted address reads as), a step that answers a next state leaves them so (the form is the model's own; that every command's writes go through it is what is claimed). -/
def Obligations.MemoriesStayCanonical : Prop :=
  ∀ s t : State, MemoryOk s → step s = .next t → MemoryOk t

/-- When the issue stage picks a slot whose head command can issue (R93), the command leaves the stream, takes its scoreboard entries and has its effect: NOP none; FENCE LOCAL and FENCE ATLAS hold what follows; SEM.WAIT on a semaphore of its tenant queues at it and is granted if its turn has come; SEM.SIGNAL adds to the count; MEM.WAIT reads its word; SPAD.REGION commits a region; SPAD.SEGMENT UP wakes and DOWN closes the selected segments. -/
def Obligations.StreamCommandsIssue : Prop :=
  ∀ (s : State) (c i : Nat) (sl : Slot) (q : QCmd), Issues s c i sl q →
    (cmdOp q.bytes = 0x00 → exec (.nop c i) s = .next (settleHalt (issued s c i sl q) c i)) ∧
    (cmdOp q.bytes = 0x02 → fld q.bytes 8 1 0 = 0 → exec (.fenceLocal c i) s =
      .next (modCtx (issued s c i sl q) c i fun x => { x with wait := some (.fence false q) })) ∧
    (cmdOp q.bytes = 0x02 → fld q.bytes 8 1 0 = 1 → exec (.fenceAtlas c i) s =
      .next (modCtx (issued s c i sl q) c i fun x => { x with wait := some (.fence true q) })) ∧
    (∀ m, cmdOp q.bytes = 0x03 → tabFind s.jobs.sems (fld q.bytes 8 12 0) = some m →
      jobTenant m.owner = jobTenant sl.jobid → exec (.semWait c i) s =
      .next (semGrant (modCtx (setSem { issued s c i sl q with jobs := { s.jobs with nextWait := s.jobs.nextWait + 1 } } (fld q.bytes 8 12 0)
          { m with waiters := m.waiters ++ [{ jobid := sl.jobid, jcore := sl.jcore, amount := fieldAt q.bytes 12 4,
                                              num := s.jobs.nextWait }] }) c i
        fun x => { x with wait := some (.sem (fld q.bytes 8 12 0) (fieldAt q.bytes 12 4)
          (usDeadline s (fieldAt q.bytes 16 4)) q) }) (fld q.bytes 8 12 0))) ∧
    (cmdOp q.bytes = 0x04 → signalBad s sl.jobid (fld q.bytes 8 12 0) (fieldAt q.bytes 12 4) = none →
      exec (.semSignal c i) s = .next (semAdd (issued s c i sl q) (fld q.bytes 8 12 0) (fieldAt q.bytes 12 4))) ∧
    (cmdOp q.bytes = 0x05 → exec (.memWait c i) s = .next (memRead (issued s c i sl q) c i sl (fld q.bytes 16 56 0)
      (fld q.bytes 8 1 0) (fieldAt q.bytes 24 8) (usDeadline s (fieldAt q.bytes 32 4)) q)) ∧
    (cmdOp q.bytes = 0x08 → exec (.spadRegion c i) s = .next (modCtx (issued s c i sl q) c i fun x =>
      { x with regions := regionCommit x.regions (regionOf (q.bytes.drop 8)).1 (regionOf (q.bytes.drop 8)).2 })) ∧
    (cmdOp q.bytes = 0x09 → flg q.bytes 8 0 = true → exec (.spadSegmentUp c i) s =
      .next (segStart (issued s c i sl q) c i (coreAt s c).nextId ((selSegs sl q.bytes).filter fun g =>
        segState (coreAt (issued s c i sl q) c) g = .off) true .waking 3600)) ∧
    (cmdOp q.bytes = 0x09 → flg q.bytes 8 0 = false → exec (.spadSegmentDown c i) s =
      .next (segStart (issued s c i sl q) c i (coreAt s c).nextId (selSegs sl q.bytes) false .closing 32))

/-- When the issue stage picks a slot whose head command can issue (R93), an ARRAY.PASS joins the array's passes and its cost is taken from the governor's allowance (R464), an ARRAY.DRAIN joins the drain path, TM.MOVE, TM.GATHER, TM.SCATTER and MEM.ATOMIC join the tile mover, a TM.HINT hints each page it names and joins it, VU.LD writes its registers, and VU.ST its scratchpad bytes. -/
def Obligations.UnitCommandsIssue : Prop :=
  ∀ (s : State) (c i : Nat) (sl : Slot) (q : QCmd), Issues s c i sl q →
    (cmdOp q.bytes = 0x10 → exec (.arrayPass c i) s = .next
      (let s1 := issued s c i sl q
       let k0 := coreAt s1 c
       let keeps := match tagAhead k0 with | some w => tagKeeps w sl.jobid (passF q.bytes) | none => false
       modCore (govIssue s1 c (passCost k0 sl.jobid q.bytes)) c fun k =>
        { (if keeps then sbRelease k (sbOwnerEarly (coreAt s c).nextId) else k) with passes := k.passes ++
          [{ id := (coreAt s c).nextId, slot := i, cmd := q, issueCyc := cycNow s1 c, regs := sl.ctx.regions
             hold := drainHold k0 i sl q.bytes }] })) ∧
    (cmdOp q.bytes = 0x11 → exec (.arrayDrain c i) s = .next (modCore (issued s c i sl q) c fun k =>
      { k with drains := k.drains ++ [{ id := (coreAt s c).nextId, slot := i, cmd := q, regs := sl.ctx.regions }] })) ∧
    (cmdOp q.bytes = 0x20 → exec (.tmMove c i) s = .next (modCore (issued s c i sl q) c fun k =>
      { k with tm := k.tm ++ [{ id := (coreAt s c).nextId, slot := i, cmd := q, regs := sl.ctx.regions, at0 := merAt s c }] })) ∧
    (cmdOp q.bytes = 0x21 → exec (.tmGather c i) s = .next (modCore (issued s c i sl q) c fun k =>
      { k with tm := k.tm ++ [{ id := (coreAt s c).nextId, slot := i, cmd := q, regs := sl.ctx.regions, at0 := merAt s c }] })) ∧
    (cmdOp q.bytes = 0x22 → exec (.tmScatter c i) s = .next (modCore (issued s c i sl q) c fun k =>
      { k with tm := k.tm ++ [{ id := (coreAt s c).nextId, slot := i, cmd := q, regs := sl.ctx.regions, at0 := merAt s c }] })) ∧
    (cmdOp q.bytes = 0x06 → exec (.memAtomic c i) s = .next (modCore (issued s c i sl q) c fun k =>
      { k with tm := k.tm ++ [{ id := (coreAt s c).nextId, slot := i, cmd := q, regs := sl.ctx.regions, at0 := merAt s c }] })) ∧
    (cmdOp q.bytes = 0x23 → fld q.bytes 8 1 0 = 0 → exec (.tmHintWillneed c i) s = .next (modCore
      ((hintPages (fld q.bytes 16 56 0) (fieldAt q.bytes 24 4) (fieldAt q.bytes 28 4)).foldl
        (fun u p => hintWillneed u (jobTenant sl.jobid) (walkHubCore c) p) (issued s c i sl q)) c fun k =>
      { k with tm := k.tm ++ [{ id := (coreAt s c).nextId, slot := i, cmd := q, stage := .applied, regs := sl.ctx.regions }] })) ∧
    (cmdOp q.bytes = 0x23 → fld q.bytes 8 1 0 = 1 → exec (.tmHintCold c i) s = .next (modCore
      ((hintPages (fld q.bytes 16 56 0) (fieldAt q.bytes 24 4) (fieldAt q.bytes 28 4)).foldl
        (fun u p => hintCold u (jobTenant sl.jobid) p) (issued s c i sl q)) c fun k =>
      { k with tm := k.tm ++ [{ id := (coreAt s c).nextId, slot := i, cmd := q, stage := .applied, regs := sl.ctx.regions }] })) ∧
    (cmdOp q.bytes = 0x23 → fld q.bytes 8 1 0 = 2 → exec (.tmHintDemote c i) s = .next (modCore
      ((hintPages (fld q.bytes 16 56 0) (fieldAt q.bytes 24 4) (fieldAt q.bytes 28 4)).foldl
        (fun u p => hintDemote u (jobTenant sl.jobid) (walkHubCore c) p) (issued s c i sl q)) c fun k =>
      { k with tm := k.tm ++ [{ id := (coreAt s c).nextId, slot := i, cmd := q, stage := .applied, regs := sl.ctx.regions }] })) ∧
    (cmdOp q.bytes = 0x30 → exec (.vuLd c i) s = .next
      (modCore (modCtx (issued s c i sl q) c i fun x => { x with vregs := vLoad (coreAt (issued s c i sl q) c) sl q.bytes }) c fun k =>
        { k with vu := k.vu ++ [{ id := (coreAt s c).nextId, slot := i }] })) ∧
    (cmdOp q.bytes = 0x31 → exec (.vuSt c i) s = .next (modCore (issued s c i sl q) c fun k =>
      { spadPut k (vStoreCells sl q.bytes) with vu := k.vu ++ [{ id := (coreAt s c).nextId, slot := i }] }))

/-- Each lane-wise VU.OP of Table 5.7, when the issue stage picks it and it can issue (R93), completes its issue: its destination registers get, lane by lane, the operation's value of the source lanes under the command's type, rounding, immediate and mask (R105), and the vector unit holds it. -/
def Obligations.VectorLaneCommandsIssue : Prop :=
  ∀ p ∈ laneOps, ∀ (s : State) (c i : Nat) (sl : Slot) (q : QCmd), Issues s c i sl q → selVop p.2.1 q.bytes = true →
    exec (p.1 c i) s = .next (modCore (modCtx (issued s c i sl q) c i fun x =>
      { x with vregs := vMap sl.ctx.vregs (vopF q.bytes) (p.2.2 (vopF q.bytes)) }) c fun k =>
        { k with vu := k.vu ++ [{ id := (coreAt s c).nextId, slot := i }] })

/-- RSUM, RMAX, SOFTMAX, BSORT, BMERGE, TOPK, COMPACT and SAMPLE, when the issue stage picks the command and it can issue (R93), write their result registers (R105, R121 to R126, R297) and the vector unit holds them; BMERGE of unsorted halves takes its order from the free values (assumption log 4). -/
def Obligations.VectorGroupCommandsIssue : Prop :=
  ∀ (s : State) (c i : Nat) (sl : Slot) (q : QCmd), Issues s c i sl q →
    let f := vopF q.bytes
    let done (v : Tab Word) : State := modCore (modCtx (issued s c i sl q) c i fun x => { x with vregs := v }) c fun k =>
      { k with vu := k.vu ++ [{ id := (coreAt s c).nextId, slot := i }] }
    let net (o : NetOut) : State := done (netWrite sl.ctx.vregs f o)
    let xs := netElems sl.ctx.vregs f
    (selVop 0x28 q.bytes = true → exec (.vuRsum c i) s =
      .next (done (vReduce sl.ctx.vregs f (opRsum f.ty f.rnd (vGroup sl.ctx.vregs f))))) ∧
    (selVop 0x29 q.bytes = true → exec (.vuRmax c i) s =
      .next (done (vReduce sl.ctx.vregs f (opRmax f.ty f.rnd (vGroup sl.ctx.vregs f))))) ∧
    (selVop 0x38 q.bytes = true → exec (.vuSoftmax c i) s = .next (done (vSoftmax sl.ctx.vregs f))) ∧
    (selVop 0x40 q.bytes = true → exec (.vuBsort c i) s = .next (net (netBsort f.ty (bitOf f.imm 0) xs))) ∧
    (selVop 0x41 q.bytes = true → exec (.vuBmerge c i) s = .next { net (netBmerge f.ty (bitOf f.imm 0) (bitOf f.imm 1) xs
      fun n => (Config.freeValue (s.freeCtr + n)).toNat) with freeCtr := s.freeCtr + 512 }) ∧
    (selVop 0x42 q.bytes = true → exec (.vuTopk c i) s =
      .next (net (netTopk f.ty (bitOf f.imm 0) (bitOf f.imm 1) (bitsOf f.imm 17 8) xs))) ∧
    (selVop 0x43 q.bytes = true → exec (.vuCompact c i) s =
      .next (net (netCompact f.ty (bitOf f.imm 0) (bitOf f.imm 2) (vLane sl.ctx.vregs f.vm 0).toNat xs))) ∧
    (selVop 0x48 q.bytes = true → exec (.vuSample c i) s = .next (done (vSample sl.ctx.vregs f)))

/-- A slot that may fetch (R92) and whose next command's page is in T1 gets the 64 bytes read there; a SEM.WAIT past its TIMEOUT is withdrawn and halts its job (R110); a MEM.WAIT beyond the watches reads its word at its poll and halts its job at its TIMEOUT (R114); a WAKING segment turns ON zeroed and a CLOSING one OFF (R86, R87); a complete plot ends: the context is as at a plot's start, the plot counts as done, its semaphore is signalled and plots are dealt (R106). -/
def Obligations.StreamEventsComplete : Prop :=
  ∀ (s : State) (c i : Nat) (sl : Slot), slotAt s c i = some sl →
    (∀ va l, canFetch s (coreAt s c) sl = true → fetchVa (fetchPrep sl.ctx) = some va →
      let tn := jobTenant sl.jobid
      let s0 := modCtx s c i fun _ => fetchPrep sl.ctx
      let s1 := coreWalk (if (fetchPrep sl.ctx).plotq.length < sl.ctx.plotq.length then deal s0 sl.jobid else s0) c tn (pageOf va)
      checkPage s1 tn (pageOf va) .fetch = .ok l → l.mig = false →
      exec (.commandFetch c i) s = .next (touchPage (modCtx (hubRead s1 tn va 64) c i fun y =>
        fetchPush y (readMem s tn va 64)) tn (pageOf va) (walkHubCore c))) ∧
    (∀ j jc x h n d q, jcCtx s j jc = some x → x.wait = some (.sem h n (some d) q) →
      exec (.semWaitTimeout j jc) s =
        .next (semGrant (haltWaiter (semWithdraw (advanceTo s d) j jc) j jc stTimeout h) h)) ∧
    (∀ va cond value dl np q, sl.ctx.wait = some (.mem va cond value dl none np q) → slotResident s sl = true →
      exec (.memWaitPoll c i) s = .next (memRead (advanceTo s np) c i sl va cond value dl q)) ∧
    (∀ va cond value d hub np q, sl.ctx.wait = some (.mem va cond value (some d) hub np q) → slotResident s sl = true →
      exec (.memWaitTimeout c i) s =
        .next (haltCmd (modCtx (advanceTo s d) c i fun x => { x with wait := none }) c i q stTimeout 0)) ∧
    (∀ g d, segState (coreAt s c) g = .waking → tabFind (coreAt s c).segDue g = some d →
      exec (.segmentWakeDone c g) s = .next (segFinish (modCore (advanceToCyc s c d) c fun k =>
        { spadZero k g with segs := tabPut k.segs g .on, segDue := tabDel k.segDue g }) c)) ∧
    (∀ g d, segState (coreAt s c) g = .closing → tabFind (coreAt s c).segDue g = some d →
      exec (.segmentOff c g) s = .next (segFinish (modCore (advanceToCyc s c d) c fun k =>
        { spadZero k g with segs := tabDel k.segs g, segDue := tabDel k.segDue g }) c)) ∧
    (∀ r j, plotComplete s (coreAt s c) i sl = true → sl.ctx.run = some r → jobAt s sl.jobid = some j →
      exec (.plotDone c i) s = .next (settleEnding (deal (settleBatches (settleHalt (donesemSignal
        (modJob (modCtx s c i (plotReset j.rtab)) sl.jobid fun x => { x with
          plots := x.plots + 1, batches := tabUpd x.batches r.plot.batch fun b => { b with done := b.done + 1 } })
        c i sl r.plot) c i) sl.jobid false) sl.jobid) sl.jobid))

/-- The next pass that no drain stands before (R42) loads or keeps its weights and its tag follows (R33, R34, R45); a started pass writes its next vector into its accumulator entry in all 512 columns, by the rules of its mode (R58 to R61), and after its last vector it is complete; a drain whose earlier passes are done reads and converts its entries after the drain before it, clearing them under CLEAR (R42, R43); the oldest started drain's bytes land in the scratchpad and it completes (R80, R84); the oldest vector-unit command completes (R93). -/
def Obligations.ArrayEventsComplete : Prop :=
  ∀ (s : State) (c : Nat),
    (∀ p0 sl, (coreAt s c).passes.find? (fun p => p.start = none) = some p0 → slotAt s c p0.slot = some sl →
      drainBlocks (coreAt s c) sl p0 = false →
      let k := coreAt s c
      let p := feedPass k sl p0
      let f := passF p.cmd.bytes
      let keep := keepsWeights k sl.jobid f
      let w := if keep then k.wtag.getD {} else loadWeights k sl p.regs f
      let t := passStart k p (!keep)
      exec (.passFirstPlane c) s = .next (advanceToCyc (setCore s c { k with
        wtag := some w
        passes := k.passes.map fun x => if x.id = p.id then { p with start := some t, weights := some w } else x
        rowFree := t + inputBefore p.acts f f.nvec
        lastShadow := if keep then k.lastShadow else some t
        sbDue := tabPut (tabPut k.sbDue (sbOwnerEarly p.id) (passFrees p t).1) (sbOwner p.id) (passFrees p t).2 }) c t)) ∧
    (∀ p sl, (coreAt s c).passes.find? (fun p => p.start ≠ none) = some p → slotAt s c p.slot = some sl →
      let k := coreAt s c
      let f := passF p.cmd.bytes
      let v := p.nextVec
      let entry := sl.accBase + f.accbase + v
      let ups := (List.range 512).map fun j =>
        (j, columnUpd p f (p.acts.getD v []) v j (tabGet k.acc (accKey entry j) {}))
      let s1 := setCore s c { k with
        acc := ups.foldl (fun m q => tabPut m (accKey entry q.1) { x := q.2.x, a := q.2.a }) k.acc
        passes := if f.nvec ≤ v + 1 then k.passes.filter (fun x => x.id ≠ p.id)
          else k.passes.map fun x => if x.id = p.id then { x with nextVec := v + 1 } else x }
      let s2 := addLoss (setNstat s1 c p.slot 1 (ups.any fun q => q.2.aovf)) c p.slot (ups.filter fun q => q.2.lossy).length
      let s3 := advanceToCyc s2 c (p.start.getD 0 + inputBefore p.acts f (v + 1) + 513 + 511)
      exec (.accumulatorWrite c) s = .next (if f.nvec ≤ v + 1 then releaseCmd s3 c p.id else s3)) ∧
    (∀ d sl, (coreAt s c).drains.find? (fun d => !d.started) = some d → slotAt s c d.slot = some sl →
      drainReady (coreAt s c) sl d = true →
      let k := coreAt s c
      let f := drainF d.cmd.bytes
      let t := max (cycNow s c) k.drainFree
      let done := t + drainCycles f
      exec (.drainStart c) s = .next (advanceToCyc (setNstat (setCore s c { k with
        acc := drainClear sl f k.acc
        drainFree := done
        passes := k.passes.map fun p => if p.slot = d.slot ∧ d.id < p.id ∧ entriesClash sl p.cmd.bytes d.cmd.bytes
          then { p with hold := max p.hold (done + 1) } else p
        drains := k.drains.map fun x =>
          if x.id = d.id then { x with started := true, readEnd := done, out := (drainOut k sl d.regs f).1 } else x })
        c d.slot 2 (drainOut k sl d.regs f).2) c t)) ∧
    (∀ d rest, (coreAt s c).drains = d :: rest → d.started = true →
      exec (.drainComplete c) s = .next (releaseCmd (advanceToCyc
        (setCore s c { spadPut (coreAt s c) d.out with drains := rest }) c d.readEnd) c d.id)) ∧
    (∀ v rest, (coreAt s c).vu = v :: rest →
      exec (.vectorUnitComplete c) s = .next (releaseCmd (modCore s c fun k => { k with vu := rest }) c v.id))

/-- When the oldest started pass of a core writes its next vector v (R31, R41), column j of accumulator entry accBase + ACCBASE + v takes, for each of the 512 columns, the update of its old value by the exact products of that column (R58 to R60), and every value of every other entry of the core is as before. -/
def Obligations.AccumulatorWriteUpdatesEveryColumn : Prop :=
  ∀ (s t : State) (c : Nat) (p : Pass) (sl : Slot), (coreAt s c).passes.find? (fun p => p.start ≠ none) = some p →
    slotAt s c p.slot = some sl → exec (.accumulatorWrite c) s = .next t →
    let f := passF p.cmd.bytes
    let entry := sl.accBase + f.accbase + p.nextVec
    (∀ j < 512, tabGet (coreAt t c).acc (accKey entry j) {} =
      let u := columnUpd p f (p.acts.getD p.nextVec []) p.nextVec j (tabGet (coreAt s c).acc (accKey entry j) {})
      { x := u.x, a := u.a }) ∧
    (∀ e j, e ≠ entry → j < 512 → tabGet (coreAt t c).acc (accKey e j) {} = tabGet (coreAt s c).acc (accKey e j) {})

/-- A resident job's tile-mover command translates the tiles of its next run (R98, R162); a run whose tiles are all here is applied at their hubs and its tiles gain HEAT (R18, R160, R172); an applied run that is not the last advances the progress point, and after the last the command completes, an atomic with RET having its old value written to its element (R84, R98, R115). -/
def Obligations.TileMoverEventsComplete : Prop :=
  ∀ (s : State) (c id : Nat) (x : TmCmd) (sl : Slot), (coreAt s c).tm.find? (fun y => y.id = id) = some x →
    slotAt s c x.slot = some sl →
    (∀ g, x.stage = .translate → sl.ctx.halt ≠ some (.parked id) → slotResident s sl = true →
      tmRange (coreAt s c) (boundSlot sl x.regs) x.cmd.bytes x.progress = some g →
      exec (.translationWalk c id) s =
        .next (settleHalt (translatePages s c id (jobTenant sl.jobid) g.acc (rangePages g)) c x.slot)) ∧
    (∀ g, x.stage = .ready → tmRange (coreAt s c) (boundSlot sl x.regs) x.cmd.bytes x.progress = some g →
      (∀ p ∈ rangePages g, arriveAt s c (jobTenant sl.jobid) g.acc p = .here) →
      exec (.hubAccess c id) s = .next (modTm (touchRun (applyRun s c (boundSlot sl x.regs) x (jobTenant sl.jobid) (some g))
        c id (jobTenant sl.jobid) x.touched (rangePages g)) c id fun y => { y with stage := .applied })) ∧
    (x.stage = .applied → cmdOp x.cmd.bytes ≠ 0x23 → x.progress + 1 < tmRuns x.cmd.bytes →
      exec (.tmRunDone c id) s = .next (modTm s c id fun y => { y with progress := y.progress + 1, stage := .translate })) ∧
    (x.stage = .applied → cmdOp x.cmd.bytes ≠ 0x23 → tmRuns x.cmd.bytes ≤ x.progress + 1 →
      exec (.tmRunDone c id) s = .next (tmComplete (atomicRet s c (boundSlot sl x.regs) x) c x))

/-- A core that may steal for a job and has a victim notes its request with the victim, threshold and arrival time (R108); at its arrival a victim with enough stealable plots gives its youngest to the thief (R109), one without refuses and the thief's retry falls due; a retry chooses again (R109). -/
def Obligations.StealsComplete : Prop :=
  ∀ (s : State) (c j : Nat),
    (∀ v n, maySteal s c j = true → chooseVictim s c j = some (v, n) → exec (.stealRequest c j) s =
      .next (modCore s c fun k => { k with steals := k.steals ++
        [{ jobid := j, victim := v, thresh := n, due := cycNow s c + if dieOf v = dieOf c then 48 else 420 }] })) ∧
    (∀ r v me p q, (coreAt s c).steals.find? (fun x => decide (x.jobid = j) && decide (x.retryAt = none)) = some r →
      let u := advanceToCyc s c r.due
      slotOfJob (coreAt u r.victim) j = some v → slotOfJob (coreAt u c) j = some me → r.thresh ≤ stealable u r.victim j →
      takeYoungest v.2.ctx.plotq = some (p, q) →
      exec (.stealRequestArrival c j) s = .next (deal (countEv (modCore (modCtx (modCtx u r.victim v.1 fun x =>
        { x with plotq := q }) c me.1 fun x => { x with plotq := x.plotq ++ [p] }) c fun k =>
          { k with steals := k.steals.filter fun x => x.jobid ≠ j }) r.victim 0x000B (jobTenant j)) j)) ∧
    (∀ r, (coreAt s c).steals.find? (fun x => decide (x.jobid = j) && decide (x.retryAt ≠ none)) = some r →
      let u := modCore (advanceToCyc s c (r.retryAt.getD 0)) c fun k => { k with steals := k.steals.filter fun x => x.jobid ≠ j }
      maySteal u c j = true → (chooseVictim u c j).isSome = true →
      ∃ v n, exec (.stealRetry c j) s = .next (modCore u c fun k => { k with steals := k.steals ++
        [{ jobid := j, victim := v, thresh := n, due := cycNow u c + if dieOf v = dieOf c then 48 else 420 }] }))

/-- An ATLAS command that is offered and whose entry is well formed completes with OK: MAP maps each page of the range without storage under PERM (R161, R162); UNMAP, with no access or migration pending on the range, frees and unmaps the mapped pages and reports their number; PROTECT sets PERM of the mapped pages and drops translations that lose a permission; PIN with every page in T1 pins them, and unpinning takes the pins away; the hints COLD sets HEAT to 0, and WILLNEED and DEMOTE move the pages they may (R176, R177), here those that start no move; ZERO turns mapped pages into Z pages. -/
def Obligations.AtlasMappingCommandsComplete : Prop :=
  ∀ (s : State) (r : CmdRef) (x : Inflight),
    let u := begun s r
    let t := cmdTenant x
    let e := x.entry
    (Takes s r 0x0401 x (chkAtlasMap r s e) → x.acted = [] → framesWith u t (cmdRange e) ≤ (tenAt u t).tablim →
      bitOf (par e 12 1) 4 = false → exec (.atlasMap r) s =
      .next (complete ((cmdRange e).foldl (fun v p => setLeaf v t p (permLeaf (par e 12 1) {})) u) r stOk 0 0)) ∧
    (Takes s r 0x0402 x (chkAtlasUnmap r s e) → anyMig u t (mappedIn u t (cmdRange e)) = false →
      accessPending u t (mappedIn u t (cmdRange e)) = false → exec (.atlasUnmap r) s =
      .next (complete (dropTlbs ((mappedIn u t (cmdRange e)).foldl (fun v p => unmapPage v t p) u) t (mappedIn u t (cmdRange e)))
        r stOk (mappedIn u t (cmdRange e)).length 0)) ∧
    (Takes s r 0x0403 x (chkAtlasProtect r s e) →
      let less := losers u t (par e 12 1) (mappedIn u t (cmdRange e))
      accessPending u t less = false → exec (.atlasProtect r) s =
      .next (complete (dropTlbs ((mappedIn u t (cmdRange e)).foldl (fun v p => modLeaf v t p (permLeaf (par e 12 1))) u) t less)
        r stOk (mappedIn u t (cmdRange e)).length 0)) ∧
    (Takes s r 0x0404 x (pinChecks e) → parFlg e 12 0 = true → x.acted = [] →
      (mappedIn u t (cmdRange e)).length = (cmdRange e).length → anyMig u t (cmdRange e) = false →
      poisonedIn u t (cmdRange e) = false → winIn u t (cmdRange e) = false →
      ∀ v, pinPages u t walkHubControl true ((cmdRange e).filter (fun p => inT1 u t p) ++ (cmdRange e).filter fun p => !inT1 u t p) = .ok v →
        anyMig v t (cmdRange e) = false →
        exec (.atlasPin r) s = .next (complete v r stOk (cmdRange e).length 0)) ∧
    (Takes s r 0x0404 x (pinChecks e) → parFlg e 12 0 = false →
      (mappedIn u t (cmdRange e)).length = (cmdRange e).length → anyMig u t (cmdRange e) = false → exec (.atlasUnpin r) s =
      .next (complete ((cmdRange e).foldl (fun v p => modLeaf v t p fun l => { l with pin := false }) u) r stOk (cmdRange e).length 0)) ∧
    (Takes s r 0x0405 x (hintChecks e) → parFld e 12 1 0 = 0 → x.acted = [] →
      let v := (cmdRange e).foldl (fun v p => hintWillneed v t walkHubControl p) u
      v.atlas.migs = [] → exec (.atlasHintWillneed r) s = .next (complete v r stOk 0 0)) ∧
    (Takes s r 0x0405 x (hintChecks e) → parFld e 12 1 0 = 1 → exec (.atlasHintCold r) s =
      .next (complete ((cmdRange e).foldl (fun v p => hintCold v t p) u) r stOk 0 0)) ∧
    (Takes s r 0x0405 x (hintChecks e) → parFld e 12 1 0 = 2 → x.acted = [] →
      let v := (cmdRange e).foldl (fun v p => hintDemote v t walkHubControl p) u
      v.atlas.migs = [] → exec (.atlasHintDemote r) s = .next (complete v r stOk 0 0)) ∧
    (Takes s r 0x0406 x (chkAtlasZero r s e) → anyMig u t (mappedIn u t (cmdRange e)) = false → exec (.atlasZero r) s =
      .next (complete ((mappedIn u t (cmdRange e)).foldl (fun v p => match leafAt v t p with
        | some l => setLeaf (freeStorage v t p l) t p { l with loc := .zero, psn := false, cause := 0, pin := false, clen := 0 }
        | none => v) u) r stOk (mappedIn u t (cmdRange e)).length 0))

/-- An ATLAS command that is offered and whose entry is well formed completes with OK: PEER CREATE makes a window and maps its pages to it, and REMOVE takes both away (R179); LEND sets the lend pool and the peers (R178); HREG registers a host region and HUNREG, of a region that holds no tile, removes it (R181, R182); FRING sets the fault ring and restarts its counts (R188); POLICY sets the migration policy (R172); QUERY writes the leaf entries of a range, or the tier counts and quotas, to the host; TRANSPOSE of one destination tile that is ready writes its elements (R183). -/
def Obligations.AtlasConfigurationCommandsComplete : Prop :=
  ∀ (s : State) (r : CmdRef) (x : Inflight),
    let u := begun s r
    let t := cmdTenant x
    let e := x.entry
    (Takes s r 0x0407 x (chkAtlasPeerCreate r s e) → parFlg e 26 4 = true → tabFind (ctxAt u t).wins (parFld e 24 11 0) = none →
      framesWith u t (rangeOf (parFld e 0 56 0) (par e 16 4)) ≤ (tenAt u t).tablim → exec (.atlasPeerCreate r) s =
      .next (complete ((rangeOf (parFld e 0 56 0) (par e 16 4)).foldl (fun v p =>
          setLeaf v t p (permLeaf (parFld e 26 2 0) { loc := .win (parFld e 24 11 0) }))
        (updCtx u t fun c => { c with wins := tabPut c.wins (parFld e 24 11 0) ⟨pageOf (parFld e 0 56 0), pageOf (parFld e 8 56 0), par e 16 4, parFld e 20 16 0⟩ }))
        r stOk 0 0)) ∧
    (∀ w, Takes s r 0x0407 x (peerChecks e) → parFlg e 26 4 = false → tabFind (ctxAt u t).wins (parFld e 24 11 0) = some w →
      let ps := mappedIn u t (rangeOf (w.lpage * 65536) w.npages)
      accessPending u t ps = false → exec (.atlasPeerRemove r) s =
      .next (complete (updCtx (dropTlbs (ps.foldl (fun v p => unmapPage v t p) u) t ps) t fun c =>
        { c with wins := tabDel c.wins (parFld e 24 11 0) }) r stOk 0 0)) ∧
    (Takes s r 0x0408 x (chkAtlasLend r s e) → u.atlas.lentSlots.length ≤ parFld e 0 22 0 →
      ¬ nStacks u * 786432 - 524288 < parFld e 0 22 0 + sumQt1 u → exec (.atlasLend r) s =
      .next (complete (modAtlas u fun a => { a with
        lendPool := parFld e 0 22 0, lastPeer := 7, borrow := (List.range (parFld e 4 3 0)).map fun i => parFld e (8 + 4 * i) 16 0 }) r stOk 0 0)) ∧
    (Takes s r 0x0409 x (chkAtlasHreg r s e) → tabHas u.atlas.regions (par e 0 1) = false → exec (.atlasHreg r) s =
      .next (complete (modAtlas u fun a => { a with regions := tabPut a.regions (par e 0 1) ⟨par e 8 8, parFld e 16 45 0, false⟩ }) r stOk 0 0)) ∧
    (∀ h, Takes s r 0x040A x (noChecks s e) → tabFind u.atlas.regions (par e 0 1) = some h →
      let v := modAtlas u fun a => { a with regions := tabPut a.regions (par e 0 1) { h with draining := true } }
      regionTiles v (par e 0 1) = [] → exec (.atlasHunreg r) s =
      .next (complete (modAtlas v fun a => { a with regions := tabDel a.regions (par e 0 1) }) r stOk 0 0)) ∧
    (Takes s r 0x040B x (chkAtlasFring r s e) → ringUnread (ctxAt u t) = false → exec (.atlasFring r) s =
      .next (complete (setCtx u t { ctxAt u t with
        ring := if parFld e 16 4 0 = 0 then none else some { haddr := par e 0 8, paddr := par e 8 8, log2n := parFld e 16 4 0, vector := parFld e 18 10 0 },
        prod := 0, cidx := 0, stalled := false }) r stOk 0 0)) ∧
    (Takes s r 0x040C x (chkAtlasPolicy r s e) → exec (.atlasPolicy r) s =
      .next (complete (updCtx u t fun c => { c with heatper := par e 0 4, promote := par e 4 1, hyst := par e 5 1, dorder := parFld e 6 1 0 })
        r stOk 0 0)) ∧
    (Takes s r 0x040D x (queryChecks e) → parFlg e 12 0 = false → exec (.atlasQueryEntries r) s =
      .next (complete (cmdHostPut u { x with started := true } (par e 16 8) ((cmdRange e).flatMap fun p =>
        leBytes 8 (match leafAt u t p with | some l => leafBits l | none => 0))) r stOk 0 0)) ∧
    (Takes s r 0x040D x (queryChecks e) → parFlg e 12 0 = true → exec (.atlasQueryUsage r) s =
      .next (complete (cmdHostPut u { x with started := true } (par e 16 8)
        ([0, 1, 2, 3].flatMap (fun k => leBytes 8 (tierCount u t k)) ++ [0, 1, 2, 3].flatMap fun k => leBytes 8 (quota u t k))) r stOk 0 0)) ∧
    (Takes s r 0x040E x (transChecks e) →
      let f := transF e
      let y := { x with started := true }
      let es := transElems f (pageOf f.dst)
      let ws := transWrites u y t f (pageOf f.dst) es
      let v := touchCmd (ws.foldl (fun w q => partWrite w y t q.1 q.2) u) r t walkHubControl
        (transPages f es ++ (if es = [] then [] else [pageOf f.dst]))
      x.sent = [] → x.done = 0 → x.stopped = none → (f.dst % 65536 + f.dstSpan - 1) / 65536 = 0 →
      cmdReady u y t walkHubControl .read (transPages f es) = .ready →
      cmdReady u y t walkHubControl .write (if es = [] then [] else [pageOf f.dst]) = .ready →
      partsRoom u t (ws.map (·.1)) = true → ((inflAt v r).map (·.sent)).getD [] = [] → x.ref = r →
      exec (.atlasTranspose r) s = .next (complete v r stOk 1 0))

/-- A promotion with its data at hand and a frame switches its tile's entry to the frame and wakes what waited (R172 to R174); a demotion with a place in a lower tier switches the entry to it and releases the frame (R168, R169); every HEATPER each tile's HEAT is halved (R172); a released frame that is not to be retired is free once zeroed (R376); the oldest waiting fault record is written to a ring with room, then the producer count (R188, R189); the host's consumer count frees the ring (R188, R495). -/
def Obligations.AtlasEventsComplete : Prop :=
  ∀ (s : State),
    (∀ t p m l f, migOf s t p = some m → leafAt s t p = some l → m.tier = 0 → migReady s m = true → migServed s m = true →
      t4Lost s l = false → promoFrame s m = some f → exec (.promotionComplete t p 0) s =
      .next (serveAll (wakeWatches (resumeMiss (settleRooms (setLeaf (noteTurn (dropMig (tagFrame s f (.tile t p)) t p) m) t p
        { l with loc := .t1 f, clen := 0, mig := false,
                 heat := if l.loc = .zero then l.heat else (ctxAt s t).promote, pin := l.pin || m.pinAfter })) t p)
        t (p * 65536) 65536))) ∧
    (∀ t p slot m l f0 loc, migOf s t p = some m → leafAt s t p = some l → m.tier ≠ 0 → migReady s m = true →
      migServed s m = true → l.loc = .t1 f0 → t4Lost s l = false → m.dst = some loc → (∀ k, loc ≠ .t4 k) → t4Idle s loc = false →
      locTier l.loc ≠ m.tier →
      let c := if m.tier = 1 then 0 else tileClen s t p
      let s1 := noteTurn (setLeaf (dropMig (writeT3 s t p loc c) t p) t p
        { l with loc := writtenAt loc slot, clen := c, mig := false }) m
      exec (.demotionComplete t p 0 slot) s = .next (serveAll (resumeMiss (settleRooms
        (countEv (releaseTo s1 t p (some f0)) (srcHub m.hub) 0x0103 t)) t p))) ∧
    (∀ t, exec (.heatDecay t) s = .next (setCtx (advance s ((ctxAt s t).heatper * usTicks - merNow s % ((ctxAt s t).heatper * usTicks))) t
      { ctxAt s t with pages := (ctxAt s t).pages.map fun q => (q.1, { q.2 with heat := q.2.heat / 2 }) })) ∧
    (∀ f, tabFind s.atlas.frames f = some .zeroing → s.power.retiring.contains f = false → exec (.frameZeroed f) s =
      .next (modAtlas s fun a => { a with frames := tabDel a.frames f })) ∧
    (∀ t rcd rest g, (ctxAt s t).waiting = rcd :: rest → ringNoRoom (ctxAt s t) = false → (ctxAt s t).stalled = false →
      (ctxAt s t).ring = some g → (ctxAt s t).prod ≠ (ctxAt s t).cidx → exec (.faultRingWrite t true) s =
      .next (releaseHolder (hostPut (hostPut (setCtx s t { ctxAt s t with waiting := rest, prod := ((ctxAt s t).prod + 1) % 2 ^ 32 }) t
        (g.haddr + 32 * ((ctxAt s t).prod % 2 ^ g.log2n)) rcd.bytes) t g.paddr (leBytes 8 (((ctxAt s t).prod + 1) % 2 ^ 32))) rcd.holder)) ∧
    (∀ fn v, fnPresent s fn = true → fn < 64 → exec (.fringCidxWrite fn v) s =
      .next (updCtx s (fnTenant fn) fun c => { c with cidx := v % 2 ^ 32, stalled := false }))

/-- A doorbell of a function that is up posts its write on its way (R380, R382); EN = 1 enables an OFF admin mailbox whose sizes and vector fit, and EN = 0 turns an enabled one DRAINING (R380); the CP fetches the next entry of the mailbox whose turn it is: its position moves and the command enters the in-flight list, or ends at once on a check (R387 to R389); a class A command arrives over MCTP (R412); the timeout of a command that has not started completes it with TIMEOUT (R394); a stored record is written to the host log ring (R408), whose consumer count frees it; an open record is posted when its millisecond closes (R476); a survey's period writes its units' records and its producer count (R411). -/
def Obligations.MailboxEventsComplete : Prop :=
  ∀ (s : State),
    (∀ fn m v, fn < 64 → m ≤ 64 → fnPresent s fn = true → (funcAt s fn).ready = true →
      exec (.sqTailWrite fn m v) s = .next (barArrive (countEv s (srcFn fn) 0x0802 0) fn (.sq m (v % 65536))) ∧
      exec (.cqHeadWrite fn m v) s = .next (barArrive (countEv s (srcFn fn) 0x0802 0) fn (.cq m (v % 65536)))) ∧
    (∀ fn, let b := mboxAt s fn 0
      fn < 64 → fnPresent s fn = true → (funcAt s fn).ready = true → b.st = .off → 2 ≤ b.sqLog2 → b.sqLog2 ≤ 16 → 2 ≤ b.cqLog2 →
      b.cqLog2 ≤ 16 → b.vector < vecCount fn → exec (.mboxEnable fn) s =
      .next (setMbox s fn 0 { b with st := .enabled, sqTail := 0, cqHead := 0, fetchPos := 0, postPos := 0, phase := true, posted := 0 })) ∧
    (∀ fn, (mboxAt s fn 0).st = .enabled → exec (.mboxDisable fn) s =
      .next (drainCheck (setMbox s fn 0 { mboxAt s fn 0 with st := .draining }) fn 0)) ∧
    (∀ entry fn m turn, cpPick s = some (fn, m, turn) →
      let b := mboxAt s fn m
      let e := padTo 64 entry
      exec (.mboxFetch entry) s = .next (settleTurn (enterCmd
        (setMbox { s with cp := { turn with last := if m = 0 then turn.last else tabPut turn.last fn m } } fn m
          { b with fetchPos := (b.fetchPos + 1) % 2 ^ b.sqLog2 })
        { ref := ⟨fn, m, fieldAt e 2 2⟩, entry := e, at0 := merNow s
          deadline := if timeoutMs b e = 0 then none else some (s.clk.ticks + timeoutMs b e * msTicks) } m))) ∧
    (∀ entry data, mctpUp s.ctl = true → s.inflight.any (fun x => x.mctp) = false →
      let e := padTo 64 entry
      exec (.mctpRequest entry data) s = .next (enterCmd s
        { ref := ⟨0, 128, fieldAt e 2 2⟩, entry := e, mctp := true, hdata := some (data.take 4096), at0 := merNow s
          deadline := if fieldAt e 8 4 = 0 then none else some (s.clk.ticks + fieldAt e 8 4 * msTicks) } 0)) ∧
    (∀ r x d, inflAt s r = some x → x.deadline = some d → x.status = none → x.started = false →
      exec (.commandTimeout r) s =
      .next (complete (modInfl (advanceTo s d) r fun y => { y with deadline := none }) x.ref stTimeout 0 0)) ∧
    (∀ ha n num rest y, s.log.ring = some (ha, n) → s.log.waiting = num :: rest → logFull s.log = false → s.log.stalled = false →
      s.log.prod ≠ s.log.cons → s.log.store.find? (fun x => x.num = num) = some y → exec (.logRingWrite true) s =
      .next (hostPut { s with log := { s.log with waiting := rest, prod := (s.log.prod + 1) % 2 ^ 32 } } 0
        (ha + 64 * (s.log.prod % 2 ^ n)) (evBytes y))) ∧
    (∀ v, exec (.evconsWrite v) s = .next { s with log := { s.log with cons := v % 2 ^ 32, stalled := false } }) ∧
    (∀ src code arg0 e, s.log.opened.find? (fun y => decide (y.src = src ∧ y.code = code ∧ y.arg0 = arg0)) = some e →
      let u := advanceTo s e.closeAt
      exec (.eventCoalesceClose src code arg0) s =
      .next (logStore { u with log := { u.log with opened := u.log.opened.filter (· ≠ e) } } e)) ∧
    (∀ cons v, s.survey = some v →
      let per := v.period * usTicks
      let q := (unitsFrom v.first v.last).foldl (surveyPut v (cons % 2 ^ 32)) (advance s (per - merNow s % per), v.prod)
      exec (.surveyPeriod cons) s = .next { hostPutS q.1 ownRing 0 0 7 v.paddr (leBytes 8 q.2) with survey := some { v with prod := q.2 } })

/-- A DEV, TEN or LOG command that is offered and whose entry is well formed completes with OK: IDENTIFY writes the identify data (R400); MBOX CREATE of an OFF mailbox enables it as given (R401); MBOX REMOVE of one with nothing in flight turns it OFF (R401); RESET is answered and starts the module WARM (R402); CANCEL of a command that has not started completes that with CANCELLED, and is answered OK (R395); TEN.ENABLE of a disabled tenant gives it an empty context, and TEN.DISABLE of an enabled one resets it and destroys its context, completing when the reset has (R404); CONFIG of a set that fits takes effect, demoting what exceeds it (R405); QUERY writes the tenant's set and counts (R406); LOG.RING removes or sets the ring, FILTER the class mask, READ returns records (R408, R409). -/
def Obligations.MailboxCommandsComplete : Prop :=
  ∀ (s : State) (r : CmdRef) (x : Inflight),
    let u := begun s r
    let y := { x with started := true }
    let e := x.entry
    (Takes s r 0x0101 x (chkDevIdentify r s e) → exec (.devIdentify r) s =
      .next (complete (cmdHostPut u y (par e 0 8) (identifyData u r.fn)) r stOk 0 0)) ∧
    (Takes s r 0x0102 x (chkDevMboxCreate r s e) → parFlg e 0 0 = true → (mboxAt u r.fn (par e 1 1)).st = .off →
      exec (.devMboxCreate r) s = .next (complete (setMbox u r.fn (par e 1 1)
        { st := .enabled, sqBase := par e 16 8, cqBase := par e 24 8, vector := parFld e 4 10 0, sqLog2 := parFld e 2 4 0,
          cqLog2 := parFld e 3 4 0, defto := par e 12 4, pv := parFlg e 6 0, pasid := parFld e 8 19 0 }) r stOk 0 0)) ∧
    (Takes s r 0x0102 x (chkDevMboxRemove r s e) → parFlg e 0 0 = false → (mboxAt u r.fn (par e 1 1)).st ≠ .off →
      (mboxAt u r.fn (par e 1 1)).st ≠ .draining → inflOf u r.fn (par e 1 1) = 0 → exec (.devMboxRemove r) s =
      .next (complete (setMbox u r.fn (par e 1 1) {}) r stOk 0 0)) ∧
    (Takes s r 0x0103 x (chkDevReset r s e) → exec (.devReset r) s = .next (warmReset (complete u r stOk 0 0))) ∧
    (∀ y, Takes s r 0x0104 x (chkDevCancel r s e) → cancelTarget u r (parFld e 0 6 0) (par e 2 2) = some y → y.started = false →
      y.status = none → exec (.devCancel r) s = .next (complete (complete u y.ref stCancelled 0 0) r stOk stOk 0)) ∧
    (let t := parFld e 0 5 0
     Takes s r 0x0301 x (tenEnChecks e) → tenWaits u t = false →
      (parFlg e 1 0 = true → (tenAt u t).enabled = false → exec (.tenEnable r) s =
        .next (complete (irqSet (setCtx (modTen u t fun z => { z with enabled := true }) t {}) t irqTenant) r stOk 0 0)) ∧
      (parFlg e 1 0 = false → (tenAt u t).enabled = true → exec (.tenDisable r) s =
        .next (modInfl (irqSet (modAtlas (modTen (tenantReset u t 4) t fun z => { z with enabled := false })
          fun a => { a with ctx := tabDel a.ctx t }) t irqTenant) x.ref fun z => { z with done := 1 }))) ∧
    (let t := parFld e 0 5 0
     Takes s r 0x0302 x (chkTenConfig r s e) → tenWaits u t = false → tenNoFit u t (tenSet e (tenAt u t)) = false →
      exec (.tenConfig r) s = .next (complete (irqSet (placement (leaveCores
        ([0, 1, 2, 3].foldl (fun st k => demoteExcess st t k) (modTen u t fun z => tenSet e z)) t)) t irqTenant) r stOk 0 0)) ∧
    (let t := parFld e 0 5 0
     Takes s r 0x0303 x (chkTenQuery r s e) → (r.fn = 0 ∨ t = r.fn) → tenWaits u t = false → exec (.tenQuery r) s =
      .next (complete (cmdHostPut u y (par e 8 8) (tenData u t)) r stOk 0 0)) ∧
    (let n := parFld e 8 4 0
     Takes s r 0x1101 x (chkLogRing r s e) →
      (n = 0 → exec (.logRing r) s = .next (complete { u with log := { u.log with
        ring := none, prod := 0, cons := 0, stalled := false } } r stOk 0 0)) ∧
      (n ≠ 0 → parFlg e 9 0 = false → exec (.logRing r) s = .next (complete { u with log := { u.log with
        ring := some (par e 0 8, n), prod := 0, cons := 0, stalled := false } } r stOk 0 0))) ∧
    (Takes s r 0x1102 x (noChecks s e) → exec (.logFilter r) s =
      .next (complete { u with log := { u.log with classMask := par e 0 1 } } r stOk 0 0)) ∧
    (let rs := (recsFrom u.log (par e 8 8)).take (par e 16 4)
     Takes s r 0x1103 x (chkLogRead r s e) → exec (.logRead r) s =
      .next (complete (cmdHostPut u y (par e 0 8) (rs.flatMap evBytes)) r stOk (rs.length + u.log.lost * 2 ^ 32) 0))

/-- A DMA.COPY between the atlas and the host with no list starts and its pieces can move (R407); a piece that holds a transfer context (R436), from the atlas to a host range, whose source page can be read goes to the host; its context is free again, and the next piece follows or the command completes with the bytes moved (R407, R420); PERF.SELECT sets a counter of a unit, from 0; READ writes the records of the units of a range, and their postings go on; SURVEY sets or stops the survey (R410, R411, R477, R478). -/
def Obligations.TransferCommandsComplete : Prop :=
  ∀ (s : State) (r : CmdRef) (x : Inflight),
    let u := begun s r
    let e := x.entry
    (Takes s r 0x1201 x (dcChecks e) → dcNs e = false → dcNlist e = 0 → exec (.dmaCopy r) s = .next (serveFunnel u)) ∧
    (∀ v bs, let s0 := serveFunnel s
      let n := pieceLen x
      Running s r 0x1201 x → s0.host.funnel.held.contains r = true → dcSkind e = 2 → dcDkind e = 0 → x.after = none → x.sent = [] →
      x.acted = [] → x.ref = r → cmdRead s0 x (cmdTenant x) walkHubControl (dcSrc e + x.done) n = .ok v bs →
      let w := dcPieceDone (hostPutP v (ownCmd r) r.fn (mboxPasid v r.fn r.mbox) (cmdTenant x) 7 (dcDst e + x.done) (bs.take n)) x n
      (inflAt w r).map (·.done) ≠ some x.done → exec (.dmaPieceComplete r) s = .next (serveFunnel (leaveFunnel w r))) ∧
    (Takes s r 0x1001 x (selectChecks e) → exec (.perfSelect r) s =
      .next (complete (modUnit u (par e 0 2) fun k => { k with
        ctrs := tabPut k.ctrs (parFld e 2 2 0) ⟨par e 4 2, parFlg e 6 0, parFlg e 6 1, parFld e 7 5 0, 0⟩ }) r stOk 0 0)) ∧
    (let us := unitsFrom (par e 8 2) (par e 10 2)
     Takes s r 0x1002 x (noChecks s e) → exec (.perfRead r) s =
      .next (complete (cmdHostPut (us.foldl recordTaken u) { x with started := true } (par e 0 8) (us.flatMap (unitRecord u)))
        r stOk us.length 0)) ∧
    (Takes s r 0x1003 x (chkPerfSurvey r s e) → exec (.perfSurvey r) s =
      .next (complete { u with survey := if par e 16 1 = 0 then none else some { haddr := par e 0 8, paddr := par e 8 8, log2n := par e 16 1, period := par e 20 4, first := par e 24 2, last := par e 26 2 } }
        r stOk 0 0))

/-- A JOB command that is offered and whose entry is well formed takes effect on a live job of its tenant: CREATE reads the descriptor and region table, makes the job, writes its identifier into the descriptor and places job-cores (R192, R194, R195); PLOTS reads its table and hands the plots to the job (R199); RESUME of a halted job-core gives it the resume, retrying or skipping (R205); ABORT FINISH waits for the job's end, IMMEDIATE by the administrator ends it at once (R210, R211), BOUNDARY discards undealt, targeted and queued plots; SEM CREATE takes the lowest free handle and DESTROY removes a semaphore of the tenant (R207); PRIO sets the priority and places again; STATUS answers window losses, state and job-core counts (R212); POLICY sets INHTO and NOPREEMPT. -/
def Obligations.JobCommandsComplete : Prop :=
  ∀ (s : State) (r : CmdRef) (x : Inflight),
    let u := begun s r
    let y := { x with started := true }
    let e := x.entry
    let t := cmdTenant x
    (∀ s2 s3 s4 s5 d rt id w, let dva := parFld e 0 56 0
      Takes s r 0x0601 x (chkJobCreate r s e) → cmdRead u y t walkHubControl dva 64 = .ok s2 d → firstBad (descChecks s2 t d) = none →
      cmdRead s2 y t walkHubControl (fld d 16 56 0) (16 * fld d 8 5 0) = .ok s3 rt → rtabOk rt (fld d 8 5 0) (fld d 4 4 0) = true →
      makeJob s3 (descJob t d rt) = some (s4, id) → cmdWrite s4 y t walkHubControl (dva + 48) (leBytes 4 id) = .ok s5 w →
      exec (.jobCreate r) s = .next (complete (placement s5) r stOk id 0)) ∧
    (∀ j, let va := parFld e 8 56 0
      let n := par e 4 2
      let ds := (List.range n).map fun k => plotEntry ((pageParts va (32 * n)).flatMap (partBytes u y j.tenant)) k
      Takes s r 0x0602 x (chkJobPlots r s e) → x.acted = [] → namedJob u y (par e 0 4) = .ok j → par e 6 1 = 0xFF → j.ending = none →
      earlierPlots u y = false → inflAt u r = some y → cmdReady u y j.tenant walkHubControl .fetch (bytePages va (32 * n)) = .ready →
      (∀ b ∈ ds, plotBad b = false) → exec (.jobPlots r) s =
      .next (handPlots (modInfl (touchCmd u r j.tenant walkHubControl (bytePages va (32 * n))) r fun z => { z with acted := [(j.tenant, pageOf va)] })
        (par e 0 4) j none (some (r.fn, r.mbox, r.cid)) (ds.map plotOf))) ∧
    (∀ j jc, let i := parFld e 4 6 0
      Takes s r 0x0603 x (noChecks s e) → namedJob u y (par e 0 4) = .ok j → tabFind j.jcores i = some jc → jcHalted u jc = true →
      (parFlg e 5 0 = false → exec (.jobResumeRetry r) s = .next (complete (giveResume u (par e 0 4) i jc false) r stOk 0 0)) ∧
      (parFlg e 5 0 = true → exec (.jobResumeSkip r) s = .next (complete (giveResume u (par e 0 4) i jc true) r stOk 0 0))) ∧
    (∀ j, let id := par e 0 4
      Takes s r 0x0604 x (abortChecks e) → namedJob u y id = .ok j →
      (parFld e 4 1 0 = 0 → exec (.jobAbortFinish r) s = .next (settleEnding (joinEnd u r id 0) id)) ∧
      (parFld e 4 1 0 = 1 → exec (.jobAbortBoundary r) s = .next (placement (settleEnding (settleBatches (cancelBatches
        (j.jcores.foldl (fun st q => boundaryJc st id q.1 q.2)
          (dropPlots (modJob (joinEnd u r id 1) id fun z => { z with undealt := [] }) id j.undealt)) id) id false) id))) ∧
      (parFld e 4 1 0 = 2 → r.fn = 0 → j.ending ≠ some 2 → exec (.jobAbortImmediate r) s = .next (abortJob (joinEnd u r id 2) id))) ∧
    (∀ j h, Takes s r 0x0605 x (chkJobSemCreate r s e) → parFlg e 0 0 = true → namedJob u y (par e 4 4) = .ok j →
      tabGap u.jobs.sems 0 8192 = some h → exec (.jobSemCreate r) s =
      .next (complete (setSem u h { owner := par e 4 4, lock := parFlg e 1 0, count := par e 8 4 }) r stOk h 0)) ∧
    (∀ m, Takes s r 0x0605 x (chkJobSemDestroy r s e) → parFlg e 0 0 = false → tabFind u.jobs.sems (parFld e 2 12 0) = some m →
      jobTenant m.owner = t → exec (.jobSemDestroy r) s = .next (complete (inheritStep (semDestroy u (parFld e 2 12 0))) r stOk 0 0)) ∧
    (∀ j, Takes s r 0x0606 x (noChecks s e) → namedJob u y (par e 0 4) = .ok j → exec (.jobPrio r) s =
      .next (complete (placement (inheritStep (modJob u (par e 0 4) fun z => { z with prio := parFld e 4 2 0 }))) r stOk 0 0)) ∧
    (∀ j, let count (p : JobCore → Bool) : Nat := (j.jcores.filter fun q => p q.2).length
      Takes s r 0x0607 x (noChecks s e) → namedJob u y (par e 0 4) = .ok j → exec (.jobStatus r) s =
      .next (complete u r stOk (jobLoss u j * 2 ^ 32 + (if j.ending.isSome then 2 else 1) * 2 ^ 24
        + count (fun c => c.st = .resident) * 2 ^ 16 + count (fun c => c.st = .saved) * 2 ^ 8 + count (jcHalted u)) 0)) ∧
    (Takes s r 0x0608 x (chkJobPolicy r s e) → exec (.jobPolicy r) s =
      .next (complete { u with jobs := { u.jobs with inhto := par e 0 4, nopreempt := BitVec.ofNat 64 (par e 8 8) } } r stOk 0 0))

/-- QUIESCE ends when every issued command has finished or parked: SAVE starts, and takes what its ON segments and accumulators need (R202, R203); DRAIN ends when no remote operation of the job-core is outstanding; the end of SAVE writes the save area and RELEASE begins; the end of RELEASE frees the slot, and the job-core is SAVED and pending (R202, R201); a restore ends with its area written back and the job-core RESIDENT (R205); with no job-core of a LOCK's holder RESIDENT within INHTO, the best waiter is parked for it (R209). -/
def Obligations.JobEventsComplete : Prop :=
  ∀ (s : State) (c i : Nat) (sl : Slot) (jc : JobCore),
    let k := coreAt s c
    (jcIn s c i .saving = some (sl, jc) → jc.phase = .quiesce → quiesced k i sl = true → exec (.saveQuiesceEnd c i) s =
      .next (modJc (modCore s c fun k1 => { k1 with tm := k1.tm.map fun x =>
          if x.slot = i ∧ x.stage = .ready then { x with stage := .translate } else x }) sl.jobid sl.jcore fun y => { y with
        phase := .save, due := cycNow s c + saveCycles (saveBytes (sl.segs.filter fun g => segState k g = .on).length sl.nacc) })) ∧
    (jcIn s c i .saving = some (sl, jc) → s.fab.rem = [] → exec (.saveDrainEnd c i) s =
      .next (modJc s sl.jobid sl.jcore fun y => { y with drained := true })) ∧
    (jcIn s c i .saving = some (sl, jc) → jc.phase = .save → jc.drained = true →
      let u := advanceToCyc s c jc.due
      exec (.saveEnd c i) s = .next (modJc (modSlot u c i fun y => { y with release := some (cycNow u c + 32) })
        sl.jobid sl.jcore fun y => { y with
          area := some (captureArea (coreAt u c) i sl), savedFrom := c, phase := .release })) ∧
    (∀ d, slotAt s c i = some sl → sl.release = some d →
      let u := advanceToCyc s c d
      exec (.saveReleaseEnd c i) s = .next (placement (inheritStep (feedReserve (modJc (clearSlot u c i) sl.jobid sl.jcore fun y =>
        { y with st := .saved, area := y.area.map fun a => { a with ctx := sl.ctx }, pendingSince := u.clk.ticks }) c sl)))) ∧
    (jcIn s c i .restoring = some (sl, jc) → (sl.segs.any fun g => segState k g = .waking) = false → jc.area = none →
      exec (.restoreEnd c i) s = .next (settleEnding (deal (settleCore (inheritStep (modJc
        (modCore (advanceToCyc s c jc.due) c fun k1 => { k1 with order := k1.order ++ [i] }) sl.jobid sl.jcore fun y =>
        { y with st := .resident, area := none })) sl.jobid) sl.jobid) sl.jobid)) ∧
    (∀ a, jcIn s c i .restoring = some (sl, jc) → (sl.segs.any fun g => segState k g = .waking) = false → jc.area = some a →
      let u := advanceToCyc s c jc.due
      exec (.restoreEnd c i) s = .next (settleEnding (deal (settleCore (inheritStep (modJc
        (modCore (modCtx (setCore u c (writeBack (coreAt u c) i sl a)) c i (restoredCtx u (coreAt u c) a)) c fun k1 =>
          { k1 with order := k1.order ++ [i] }) sl.jobid sl.jcore fun y =>
        { y with st := .resident, area := none })) sl.jobid) sl.jobid) sl.jobid)) ∧
    (∀ id q j w, s.jobs.inherit.find? (fun z => decide (z.1 = id) && !z.2.2) = some q →
      let u := advanceTo s (q.2.1 + tabGet s.jobs.inhtoAt id 500 * usTicks)
      let v := { u with jobs := { u.jobs with inherit := u.jobs.inherit.map fun z => if z.1 = id then (z.1, z.2.1, true) else z } }
      jobAt v id = some j → jobHas j (fun z => z.st = .resident) = false → bestWaiter v (lockWaiters v id) = some w →
      exec (.inhtoExpiry id) s = .next (inheritStep (parkWaiter v id w)))

/-- A SEARCH command whose block is well formed, and whose results can be written, takes effect on an open index of its tenant: OPEN reads the index section and the directory and opens the index under the lowest free handle, version 1 (R150); CLOSE, with no swap armed, ends the resurvey and closes the index; QUERY with every entry well formed puts its queries in the index's queue (R151); UPDATE takes the next epoch with its items (R140, R143); RESURVEY START takes tiles for the new version and begins, ABORT ends the resurvey (R145, R148); SWAP of a built version at a time in reach becomes a pending action (R153). -/
def Obligations.SearchCommandsComplete : Prop :=
  ∀ (s : State) (r : CmdRef) (x : Inflight) (w : State) (b : Bytes),
    let y := { x with started := true, block := some b }
    let v := blockHeld w r b
    let t := cmdTenant x
    let room (u : State) : Prop := cmdReady u y t walkHubControl .write (bytePages (blockVa y + 48) 16) = .ready
    (∀ s2 sec s3 dir h, let ix := indexOf t b sec
      let tiles := Config.deltaTiles ix.nquad ix.deltacap (itemLen ix)
      TakesBlock s r 0x0901 x w b (openChecks b) → cmdRead v y t walkHubControl (fld b 0 56 0) 512 = .ok s2 sec → sectionOk ix sec = true →
      cmdRead s2 y t walkHubControl (ix.imgva + ix.diroff) (16 * ix.nquad) = .ok s3 dir → directoryOk ix (fieldAt sec 48 8) dir = true →
      ¬ quota s3 t 0 < tierCount s3 t 0 + tiles → ¬ itemLimit < allItems s3 + ix.nitems → tabGap s3.search.ixs 1 (2 ^ 32) = some h → room s3 →
      exec (.searchOpen r) s = .next (endBlock (modSearch s3 fun z => { z with ixs := tabPut z.ixs h { ix with
        vers := [(1, { image := true, tiles := tiles })] } }) r stOk (leBytes 4 h ++ leBytes 4 1))) ∧
    (∀ ix, let h := fieldAt b 0 4
      TakesBlock s r 0x0902 x w b [(4, !zeroBytes b 4 63)] → openIx v t h = some ix → armedKind v (isSwapOf h) = false → room v →
      exec (.searchClose r) s = .next (endBlock (settleIndex (modIx (dropBuilt (abortResurvey v h) h) h fun z => { z with closing := true }) h)
        r stOk [])) ∧
    (∀ ix s2 es fs, let h := fieldAt b 0 4
      let got := es.filterMap id
      TakesBlock s r 0x0903 x w b (searchChecks b) → sqAt v r = none → openIx v t h = some ix → pinRefuse ix (fieldAt b 4 4) = none →
      readTable y t ((List.range (fieldAt b 8 2)).map fun i => fld b 16 56 0 + 64 * i) v = .ok (s2, es, fs) →
      got.all (queryEntryOk ix) = true → exec (.searchQuery r) s =
      .next (goQueries (modSearch (modIx s2 h fun z => { z with waiting := z.waiting ++ got.map fun e =>
          { owner := .cmd r, entry := e, pin := fieldAt b 4 4, prio := fld b 10 2 0, since := s2.clk.ticks } })
        fun z => { z with cmds := z.cmds ++ [(r, { left := got.length, nfault := es.length - got.length, faults := fs })] }) r t)) ∧
    (∀ ix n s2 tab s3 items, let h := fieldAt b 0 4
      let es := (List.range (fieldAt b 4 4)).map fun i => (tab.drop (32 * i)).take 32
      TakesBlock s r 0x0904 x w b (updateChecks b) → updateWaits v y h = false → openIx v t h = some ix → tabFind ix.vers ix.cur = some n →
      cmdRead v y t walkHubControl (fld b 8 56 0) (32 * fieldAt b 4 4) = .ok s2 tab → es.all updateEntryOk = true →
      readItems y t (itemLen ix) es s2 = .ok (s3, items, none) → exec (.searchUpdate r) s = .next (acceptUpdate s3 y h ix n items)) ∧
    (∀ ix s2 j, let h := fieldAt b 0 4
      let tiles := Config.versionTiles ix.nitems ix.nquad (itemLen ix) + Config.deltaTiles ix.nquad ix.deltacap (itemLen ix)
      TakesBlock s r 0x0905 x w b (resurveyChecks b) → flg b 4 0 = false → resurveyWaits v r = false → openIx v t h = some ix →
      ix.resurvey = none → ix.built = none → fieldAt b 8 8 = 0 → ¬ quota v t 0 < tierCount v t 0 + tiles →
      makeJob v { tenant := t, prio := 7, mincores := 1, maxcores := min (fieldAt b 6 2) (maskSize v t), nseg := 2, nacc := 0 } = some (s2, j) →
      exec (.searchResurveyStart r) s =
      .next (placement (modIx s2 h fun z => { z with
        resurvey := some { cmd := r, e0 := ix.epoch, iters := fieldAt b 5 1, rcores := fieldAt b 6 2, swapt := 0, num := ix.lastVer + 1, tiles := tiles, job := j }
        ulog := [] }))) ∧
    (∀ rv, let h := fieldAt b 0 4
      TakesBlock s r 0x0905 x w b (resurveyChecks b) → flg b 4 0 = true → (openIx v t h).bind (·.resurvey) = some rv → room v →
      exec (.searchResurveyAbort r) s = .next (endBlock (abortResurvey v h) r stOk [])) ∧
    (∀ ix n, let h := fieldAt b 0 4
      TakesBlock s r 0x0906 x w b (swapChecks b) → schedWaits v r = false → openIx v t h = some ix → ix.resurvey = none → ix.swapping = false →
      ix.built = some n → schedRefuse v (fieldAt b 8 8) = none → exec (.searchSwap r) s =
      .next (addAct (modIx v h fun z => { z with swapping := true }) (fieldAt b 8 8) (.index h n) (some r)))

/-- A batch starts with the queries that wait, up to 512 that bind to one version, at the time the oldest has waited BATCHUS unless 512 wait (R139); a batch ends when each of its queries has run (R139); a resurvey that has built its version ends, or waits for its swap (R147, R153); a resurvey pauses while the foreground needs its cores (R146). -/
def Obligations.SearchEventsComplete : Prop :=
  ∀ (s : State) (h : Nat) (ix : Index), ixAt s h = some ix →
    (∀ q rest, (ix.waiting.filter fun z => !queryHeld s z) = q :: rest → let n := if q.pin = 0 then ix.cur else q.pin
      let takes (z : SQuery) : Bool := bindsTo ix n z && !queryHeld s z
      let mine := (ix.waiting.filter takes).take 512
      exec (.searchBatchStart h) s = .next (modIx (if 512 ≤ (ix.waiting.filter fun z => !queryHeld s z).length then s
          else advanceTo s (q.since + ix.batchus * usTicks)) h fun y => { y with
        waiting := (y.waiting.filter fun z => !takes z) ++ (y.waiting.filter takes).drop 512
        batches := tabPut y.batches y.nextBatch { ver := n, snap := snapOf ix n, prio := mine.foldl (fun m z => min m z.prio) 7, queries := mine }
        nextBatch := y.nextBatch + 1 })) ∧
    (∀ k bt, tabFind ix.batches k = some bt → exec (.searchBatchEnd h k) s = .next (closeBatch (bt.queries.foldl (batchQuery h k) s) h k)) ∧
    (∀ rv n j, ix.resurvey = some rv → tabFind ix.vers ix.cur = some n → jobAt s rv.job = some j → j.ending = none → rv.paused = false →
      jobRuns s rv.job = true → imgReady s 7 ix.tenant (corePages ix n) = .ready →
      imgReady s 7 ix.tenant ((List.range ix.nquad).flatMap (quadPages s ix n)) = .ready →
      let all := distinctN (corePages ix n ++ (List.range ix.nquad).flatMap (quadPages s ix n))
      exec (.resurveyBuildDone h) s =
        .next (engForget (touchPages (endBuild s h ix n rv) ix.tenant walkHubControl all) ix.tenant all)) ∧
    (∀ rv, ix.resurvey = some rv → exec (.resurveyYield h) s = .next (modIx s h fun y => { y with
      resurvey := some { rv with paused := decide (maskSize s ix.tenant - rv.rcores < foreDemand s ix.tenant) } }))

/-- A MODEL.LOAD of a new model whose image is read and accepted, and which fits, begins its steps (R214 to R217); with no access or migration pending on its pages these set permissions, pin its sections and, once they are in T1, go on (R218): the load maps its workspace, creates jobs, writes the identifiers into the descriptors, issues the hints, and version 1 of a new model is current (R219), the command completing OK; the second and third clauses say what the steps leave. -/
def Obligations.ModelLoadCompletes : Prop :=
  ∀ (s : State) (r : CmdRef) (x : Inflight),
    let u := begun s r
    let y := { x with started := true }
    let e := x.entry
    let t := cmdTenant x
    (∀ s2 pl, Takes s r 0x0501 x (loadChecks e) → schedWaits u r = false → loadOf u r = none → earlierLoads u y = [] → par e 8 4 = 0 →
      loadPlan u y e = .ok (s2, pl) → notFitted s2 t 0 pl = 0 → exec (.modelLoad r) s = .next (beginLoad s2 y 0 0 pl)) ∧
    (∀ (s2 : State) (z : Inflight) pl s3, let t := cmdTenant z
      accessPending s2 t (lossPages s2 t pl.ver) = false → anyMig s2 t pl.pinned = false →
      pinPages (loadPerms s2 z 0 pl) t walkHubControl (!cmdBg z)
        (pl.pinned.filter (fun p => inT1 s2 t p) ++ pl.pinned.filter fun p => !inT1 s2 t p) = .ok s3 →
      poisonedIn s3 t pl.pinned = false → anyMig s3 t pl.pinned = false → (pl.pinned.all fun p => inT1 s3 t p) = true →
      beginLoad s2 z 0 0 pl = finishLoad (pl.pinned.foldl (fun st p => modLeaf st t p fun l => { l with pin := true }) s3) z
        (loadRunOf s2 z 0 pl) 0) ∧
    (∀ (v : State) (z : Inflight) lr s1 ids h, let t := cmdTenant z
      let ws := rangeOf (lr.ver.wspage * 65536) lr.ver.wspages
      lr.base = 0 → lr.shards = [] → mappedIn v t ws = [] → framesWith v t ws ≤ (tenAt v t).tablim → modelAt v 0 = none →
      lr.jobs.any (fun j => decide (maskCores v j < j.mincores)) = false →
      cmdReady v z t walkHubControl .write [pageOf lr.ver.imgva] = .ready → makeJobs v lr.jobs = some (s1, ids) →
      let s3 := (enumFrom 0 ids).foldl (fun st q => hubWrite st t (lr.ver.imgva + 1024 + 64 * q.1 + 48) (leBytes 4 q.2))
        (ws.foldl (fun st p => setLeaf st t p (withPerm (true, true, false) false {})) s1)
      modelAt s3 0 = none →
      let v1 := loadedVer s3 t 1 lr.ver ids []
      let s4 := placement (lr.ver.secs.foldl (hintSec t) (dropLoad s3 z.ref))
      modelAt s4 0 = none → tabGap s4.models.models 1 (2 ^ 32) = some h →
      let per : Period := { since := s4.clk.ticks }
      let m1 : Model := { tenant := t, vers := [(1, { v1 with fresh := false, sv := { v1.sv with per := per, last := per } })], lastVer := 1 }
      finishLoad v z lr 0 = complete (applyPools { s4 with models := { s4.models with models := tabPut s4.models.models h m1 } } (h, 1))
        z.ref stOk (2 ^ 32 + h) 0)

/-- MODEL.UNLOAD of a model with no swap armed ends it, and frees what nothing holds; of a version that is not current, that version (R221). SWAP of a live version at a time in reach becomes a pending action (R220, R353). -/
def Obligations.ModelCommandsComplete : Prop :=
  ∀ (s : State) (r : CmdRef) (x : Inflight),
    let u := begun s r
    let e := x.entry
    let t := cmdTenant x
    (∀ m, let h := par e 0 4
      Takes s r 0x0502 x (noChecks s e) → liveModel u t h = some m → armedKind u (namesModel h) = false →
      (par e 4 4 = 0 → exec (.modelUnload r) s = .next (complete (settleModel (modModel u h fun z => { z with ended := true }) h) r stOk 0 0)) ∧
      (par e 4 4 ≠ 0 → verRefuse m (par e 4 4) = none → m.cur ≠ par e 4 4 → exec (.modelUnload r) s =
        .next (complete (settleModel (modModel u h fun z => { z with endedVers := z.endedVers ++ [par e 4 4] }) h) r stOk 0 0))) ∧
    (∀ m, Takes s r 0x0503 x (noChecks s e) → schedWaits u r = false → liveModel u t (par e 0 4) = some m →
      verRefuse m (par e 4 4) = none → schedRefuse u (par e 8 8) = none → exec (.modelSwap r) s =
      .next (addAct u (par e 8 8) (.model (par e 0 4) (par e 4 4)) (some r)))

/-- A TABLE command whose block is well formed and whose version, table and stride are good starts: it holds its version, gets its transient job and its start meridian, which for SCATTERs of one function rise (R219, R227, R231). Once a job-core of that job is RESIDENT, GATHER reads indices, rows and bags and writes the output rows (R232); SCATTER applies its entries in batch order (R233); with every remote part answered it completes with NINV, the version and the start in its block. -/
def Obligations.TableCommandsComplete : Prop :=
  ∀ (s : State) (r : CmdRef) (x : Inflight),
    let t := cmdTenant x
    (∀ w b q v tb s1 j, let y := { x with started := true, block := some b }
      let u := blockHeld w r b
      let starts (gather : Bool) (at0 : Nat) : State := placement (touchVer { s1 with models := { s1.models with
        binds := s1.models.binds ++ [(x.ref, q)]
        tjobs := s1.models.tjobs ++ [(x.ref, j)]
        starts := s1.models.starts ++ [(x.ref, at0)]
        lastScat := if gather then s1.models.lastScat else tabPut s1.models.lastScat x.ref.fn at0 } } q)
      bindVer u t (fieldAt b 0 4) (fieldAt b 8 4) = .ok q → verAt u q = some v → tabVer u r = none →
      v.tables.find? (fun z => decide (fieldAt z.d 0 2 = fieldAt b 4 2)) = some tb →
      (if tcFp32 b then 4 * tabDim tb.d else tabRowBytes tb.d) ≤ tcDstride b →
      makeJob u { tenant := t, prio := fld b 7 2 0, mincores := 1, maxcores := 8, nseg := 2, nacc := 0 } = some (s1, j) →
      (TakesBlock s r 0x0A01 x w b (tableChecks true b) → exec (.tableGather r) s = .next (starts true (merNow s1))) ∧
      (TakesBlock s r 0x0A02 x w b (tableChecks false b) → tabWritable tb.d = true → (tcMode b = 1 → tabRcode tb.d = 6) → y.done = 0 →
        exec (.tableScatter r) s = .next (starts false (max (merNow s1) (tabGet s1.models.lastScat x.ref.fn 0 + 1))))) ∧
    (∀ b q v j job tb w z, x.block = some b → tabVer s r = some q → verAt s q = some v → tabJob s r = some j → jobAt s j = some job →
      x.ref = r → job.ending = none → x.sent = [] → jobRuns s j = true → v.tables.find? (fun z => decide (fieldAt z.d 0 2 = fieldAt b 4 2)) = some tb → x.done = 0 →
      inflAt w r = some z → z.done = 1 → z.sent = [] → z.lost = none →
      (Running s r 0x0A01 x → gatherGo s x b tb = .ok w → exec (.tableGather r) s = .next (tabEnd w r ((z.got.head?.map (·.1)).getD 0))) ∧
      (Running s r 0x0A02 x → scatterGo s x b tb = .ok w → exec (.tableScatter r) s = .next (tabEnd w r ((z.got.head?.map (·.1)).getD 0))))

/-- A SEQ.SUBMIT of a block that is well formed and whose models bind asks the host for its input, and with the input a sequence with room takes the lowest free slot, bound to its versions, and waits for its admission unit (R239, R241, R242). CANCEL NORMAL of a sequence that is in a step that is not HELD marks it, of any other in no batch ends it CANCELLED; IMMEDIATE by the administrator ends it (R269, R270). STATUS of 0 answers and clears the tenant's misses, of a sequence its C, state and NGEN (R275). POLICY sets the tenant's policy (R268). SERVE at once commits the set and answers the pool sizes; at a later time in reach it becomes a pending action (R254, R256). -/
def Obligations.SeqCommandsComplete : Prop :=
  ∀ (s : State) (r : CmdRef) (x : Inflight),
    let u := begun s r
    let e := x.entry
    let t := cmdTenant x
    let id := par e 0 4
    (∀ w b a k s2, let y := { x with started := true, block := some b }
      TakesBlock s r 0x0701 x w b (submitChecks r.fn b) → bindSeq s2 t b a = .ok k →
      (fieldAt b 8 1 = 1 → fieldAt b 12 4 < ((verAt s2 k.gen0).map svMaxctx).getD 0) →
      (if fieldAt b 8 1 = 3 then cmdRead (blockHeld w r b) y t walkHubControl (fld b 56 56 0) 64 else .ok (blockHeld w r b) []) = .ok s2 a →
      (hostBuf y = none → s2.host.reads.contains (.cmd x.ref) = false →
        exec (.seqSubmit r) s = .next (addReadP s2 (mboxPasid s2 x.ref.fn x.ref.mbox) t 6 (.cmd x.ref))) ∧
      (∀ inp i, hostBuf y = some inp → seqRoom s2 t k = true → tabGap s2.serving.seqs 0 16384 = some i →
        let q : Seq :=
          { gen := tabGet s2.serving.gens i 1, tenant := t, fn := x.ref.fn, pasid := mboxPasid s2 x.ref.fn x.ref.mbox, blk := b, ablk := a, gen0 := k.gen0,
            drafter := k.drafter, encoder := k.encoder, rerank := k.rerank, inp := inp, bt := freeTable s2 k.gen0,
            dbt := (match k.drafter with | some d => freeTable s2 d | none => 0),
            st := if fieldAt b 8 1 = 3 then .retrieving else .queued, k := fieldAt b 10 1, submitt := x.at0, xport := some x.ref }
        let s3 := [some k.gen0, k.drafter, k.encoder, k.rerank].foldl (fun st o => match o with | some d => touchVer st d | none => st) s2
        exec (.seqSubmit r) s = .next (modServing (modInfl s3 x.ref fun z => { z with done := 1 }) fun v => { v with
          seqs := tabPut v.seqs i q, units := v.units ++ [(t, .admission i)] }))) ∧
    (∀ i q, Takes s r 0x0702 x (noChecks s e) → namedSeq u t id = .ok (i, q) → q.st ≠ .moved →
      (parFlg e 4 0 = false → inAnyStep u i q = true → seqHeld u i q = false → exec (.seqCancelNormal r) s =
        .next (complete (modSeq u i fun z => { z with cancelled := true }) r stOk 0 0)) ∧
      (parFlg e 4 0 = false → inAnyStep u i q = false → inBatch u i = false → seqAt u i = some q → q.ending = none → exec (.seqCancelNormal r) s =
        .next (complete (endSeq u i 6 stCancelled 0) r stOk 0 0)) ∧
      (parFlg e 4 0 = true → r.fn = 0 → seqAt u i = some q → q.ending = none → exec (.seqCancelImmediate r) s =
        .next (complete (endSeq u i 6 stCancelled 0) r stOk 0 0))) ∧
    (Takes s r 0x0703 x (noChecks s e) → id = 0 → exec (.seqStatus r) s =
      .next (complete (modPol u t fun q => { q with ttftmiss := 0, tbtmiss := 0 }) r stOk ((polAt u t).ttftmiss * 2 ^ 32 + (polAt u t).tbtmiss) 0)) ∧
    (∀ i q, Takes s r 0x0703 x (noChecks s e) → id ≠ 0 → namedSeq u t id = .ok (i, q) → exec (.seqStatus r) s =
      .next (complete u r stOk (q.c * 2 ^ 32 + (if q.st = .moved then 6 else if seqHeld u i q = true then 5 else
        match q.st with | .queued => 1 | .retrieving => 2 | .prefill => 3 | _ => 4) * 2 ^ 24 + q.ngen % 2 ^ 24) 0)) ∧
    (Takes s r 0x0708 x (policyChecks e) → exec (.seqPolicy r) s =
      .next (complete (modPol u (parFld e 0 5 0) fun p => { p with
        admitOn := parFlg e 1 0, ttftgoal := par e 4 4, tbtgoal := par e 8 4, seqlim := parFld e 12 14 0 }) r stOk 0 0)) ∧
    (∀ w b q v, let y := { x with started := true, block := some b }
      let s1 := blockHeld w r b
      TakesBlock s r 0x0707 x w b (serveChecks b) → schedWaits s1 r = false → endWaiting y = none → bindRole s1 t (fieldAt b 0 4) 0 1 0 = .ok q →
      verAt s1 q = some v → fieldAt b 4 4 = 0 → sharesBad s1 t v b = false →
      (fieldAt b 40 8 = 0 → cmdReady s1 y t walkHubControl .write (bytePages (blockVa y + 48) 16) = .ready → serveBad s1 t b = none →
        let h := fieldAt b 0 4
        let s2 := modModel s1 h fun m => { m with serve := serveSet b, vers := m.vers.map fun z => (z.1, { z.2 with sv := { z.2.sv with
          nextBeat := nextBeatOf (merAt s1 (decodeCore s1 m.tenant z.2)) (serveSet b) } }) }
        let p := poolSizes s2 (h, ((modelAt s2 h).map (·.cur)).getD 0)
        exec (.seqServe r) s = .next (endBlock s2 x.ref stOk (leBytes 2 p.1 ++ leBytes 2 p.2))) ∧
      (fieldAt b 40 8 ≠ 0 → schedRefuse s1 (fieldAt b 40 8) = none →
        exec (.seqServe r) s = .next (addAct s1 (fieldAt b 40 8) (.serve t b) (some r))))

/-- With its sequence at a step boundary, EXPORT reads the image and writes it; once the writes are acknowledged, SNAPSHOT lets the sequence go on, DETACH ends it CANCELLED with FLAGS.MOVED (R273); MOVE sends the image to a reachable module and waits for its answer (R274); IMPORT of a sound image admits the sequence, whose SEQID is its result (R273). -/
def Obligations.SeqTransfersComplete : Prop :=
  ∀ (s : State) (r : CmdRef) (x : Inflight), x.ref = r →
    let u := begun s r
    let y := { x with started := true }
    let e := x.entry
    let t := cmdTenant x
    let id := par e 0 4
    (∀ i q v s1 img s2 k, let n := imgPages (svKvtiles v) q.c
      let s3 := modInfl s2 r fun z => { z with done := 1, got := [(n, [])] }
      let go (d : Bool) : State := match inflAt s3 r with | some z => if z.done = 1 then seqExport s3 z e d else s3 | none => s3
      Takes s r 0x0705 x (exportChecks e) → x.done = 0 → inflAt u r = some y → atBoundary u y id false = .ready i q v → ¬ par e 16 4 < n → readImage u y i q v = .ok (s1, img) →
      cmdWrite s1 y t walkHubControl (parFld e 8 56 0) img = .ok s2 k →
      (parFlg e 4 0 = false → exec (.seqExportSnapshot r) s = .next (go false)) ∧ (parFlg e 4 0 = true → exec (.seqExportDetach r) s = .next (go true))) ∧
    (∀ i q v s1 img, let m := parFld e 8 16 0
      Takes s r 0x0704 x (noChecks s e) → x.done = 0 → m ≠ u.fab.module → atBoundary u y id true = .ready i q v → peerLive u m 4 = true →
      readImage u y i q v = .ok (s1, img) → exec (.seqMove r) s =
      .next (modInfl (modSeq ((moveMsgs t m id (par e 4 4) img.length (img.length / moveChunk + 1) img).foldl sendSeq s1) i
        fun z => { z with movedTo := some (m, 0) }) r fun z => { z with done := 1 })) ∧
    (∀ q v s2 hd s3 img s4 i z, let va := parFld e 8 56 0
      Takes s r 0x0706 x (importChecks r.fn e) → bindRole u t id 0 1 0 = .ok q → verAt u q = some v → cmdRead u y t walkHubControl va 65536 = .ok s2 hd →
      headGood v hd = true → cmdRead s2 y t walkHubControl va (imgPages (svKvtiles v) (fieldAt hd 12 4) * 65536) = .ok s3 img →
      enterBytes s3 q v { tenant := t, fn := r.fn, owner := ownCmd r, pasid := mboxPasid s r.fn r.mbox, outaddr := par e 16 8, outlog2 := parFld e 24 4 0, vector := parFld e 26 10 0 } img = .ok s4 i →
      seqAt s4 i = some z → exec (.seqImport r) s = .next (complete s4 r stOk (seqIdOf i z) 0)) ∧
    (∀ i q n, Running s r 0x0705 x → x.done = 1 → x.sent = [] → x.lost = none → x.got = [(n, [])] → namedSeq s t id = .ok (i, q) →
      (parFlg e 4 0 = false → exec (.seqExportSnapshot r) s = .next (complete (letGo s i) r stOk n 0)) ∧
      (parFlg e 4 0 = true → exec (.seqExportDetach r) s = .next (complete (endSeq (setFlag (letGo s i) i 5) i 6 stCancelled 0) r stOk n 0)))

/-- A version that runs a kind, none of which runs, forms a step of what its rule picks, and once the step is dealt its sequences are marked: prefill chunks in the order of the latency policy (R247, R253), queries to encode, candidates to re-rank (R243), a draft position of each waiting sequence (R262), the planned verify step once every draft is there, a decode step of at most DCBATCH sequences (R257, R264). A beat at which the last decode step has not ended is counted in OVERRUN. Deal step and picks are the functions of chapter 10 that the meaning uses. -/
def Obligations.StepsAreFormed : Prop :=
  ∀ (s : State) (h n : Nat) (m : Model) (v : ModelVer),
    let q := (h, n)
    let seen (s2 : State) (f : Machine.Seq → Machine.Seq) (slots : List Nat) (s3 : State) : State :=
      slots.foldl (fun st i => modSeq st i fun x => f { x with lastStep := s2.clk.ticks, coldDone := false }) s3
    let dealt (p : Pick) (k : StepKind) (s2 : State) : Prop := p.wait = false ∧ p.ents ≠ [] ∧
      dealStep p.st m.tenant q k (((verAt p.st q).map (·.sv.nextStep)).getD 0) none p.ents p.tabs [] [] = .ok s2
    let num (s2 : State) (pre : Bool) : State := modSv s2 q fun sv => { sv with nextStep := sv.nextStep + 1, per := { sv.per with pran := sv.per.pran || pre } }
    (∀ s2, let ready (st : State) (i : Nat) (x : Machine.Seq) : Bool := decide (x.gen0 = q ∧ x.st = .queued ∧ x.stage = .run ∧ x.c < x.toks.length) && seqFree st i x
      let s1 := endAllPoisoned s (selectSeqs s (ready s))
      let p := prefillPick q v (selectSeqs s1 (ready s1)) { st := s1 }
      formable s q .prefill = some (m, v) → dealt p .prefill s2 → exec (.prefillStepForm h n) s = .next (flushAreas (seen s2 (fun x => { x with st := .prefill }) p.slots (num s2 true)))) ∧
    (∀ s2, let p := encodePick v (selectSeqs s fun i x => decide (x.encoder = some q ∧ x.stage = .encode) && seqFree s i x) { st := s }
      formable s q .encode = some (m, v) → dealt p .encode s2 → exec (.encodeStepForm h n) s = .next (seen s2 id p.slots (num s2 false))) ∧
    (∀ i x rest s1 es s2, formable s q .rerank = some (m, v) →
      selectSeqs s (fun i x => decide (x.rerank = some q ∧ x.stage = .rerank) && seqFree s i x) = (i, x) :: rest → rerankOne s i x v = .ok (s1, es) →
      dealt { st := s1, ents := es, slots := [i] } .rerank s2 → exec (.rerankStepForm h n) s = .next (seen s2 id [i] (num s2 false))) ∧
    (∀ s2, let s1 := endAllPoisoned s (draftable s q)
      let p := draftPick q v (draftable s1 q) { st := s1 }
      formable s q .draft = some (m, v) → dealt p .draft s2 → exec (.draftStepForm h n) s = .next (flushAreas (seen s2 id p.slots (num s2 false)))) ∧
    (∀ w s2, let all (st : State) : List (Nat × Machine.Seq) := (w.ents.filterMap fun e => seqOfId st e.seq).filter fun x => x.2.ending.isNone
      let s1 := endAllPoisoned s (all s)
      let xs := all s1
      let p := planDecode v .verify (xs.map (·.1)) { st := modSteps s1 q fun rs => rs.filter fun r => r.dealt || decide (r.kind ≠ .verify) }
      formable s q .verify = some (m, v) → v.sv.steps.find? (fun r => !r.dealt && decide (r.kind = .verify)) = some w → xs.all (fun x => x.2.drafted) = true → xs ≠ [] →
      p.wait = false → p.ents ≠ [] → dealStep p.st m.tenant q .verify w.num w.beat p.ents p.tabs [] [] = .ok s2 →
      exec (.verifyStepForm h n) s = .next (flushAreas (seen s2 id p.slots s2))) ∧
    (modelAt s h = some m → verAt s q = some v → v.serv ≠ none → svRole v = 1 → runsKind v .decode = true →
      (m.serve.beat = 0 → decodeBusy s v = false →
        let s1 := endAllPoisoned s (selectSeqs s (decodable s q))
        ∀ s2 got s3, decodePick q v (selectSeqs s1 (decodable s1 q)) s1 [] = (s2, got) → got ≠ [] → (got.any fun g => decide (g.2 ≠ 0)) = false →
          let p := planDecode v .decode (got.map (·.1)) { st := s2 }
          p.wait = false → p.ents ≠ [] → dealStep p.st m.tenant q .decode v.sv.nextStep none p.ents p.tabs [] [] = .ok s3 →
          let s4 := seen s3 id p.slots s3
          exec (.decodeBeat h n) s = .next (flushAreas (modSv (num s4 false) q fun sv => { sv with lastDec := got.filterMap fun g => (seqAt s4 g.1).map fun x => seqIdOf g.1 x }))) ∧
      (m.serve.beat ≠ 0 → let c := decodeCore s m.tenant v
        let k := max v.sv.nextBeat (nextBeatOf (merAt s c) m.serve)
        let s1 := advanceMer s (merWhen c (m.serve.origin + k * m.serve.beat))
        decodeBusy s1 v = true → exec (.decodeBeat h n) s =
        .next (flushAreas (modSv (countEv s1 srcSeq 0x0503 m.tenant) q fun y => { y with overrun := y.overrun + 1, nextBeat := k + 1 }))))

/-- A step whose plots are all DONE and whose requests are answered is over, and its outputs are processed as its kind says (R245, R251, R262 to R264); dispatch requests of a running step are carried to homes (R260). An EXPERT step is formed of the gathered requests of one expert (R260); a request without a result by its deadline goes to the next live home (R261). The rebalance period ends and R254's rule may start a move, which is done at the giving pool's step boundary (R255). Blocks of a sequence that has been in no step for KVCOLD are hinted COLD (R248); CONS of a full ring is polled (R265). -/
def Obligations.StepsEndAndPoolsMove : Prop :=
  ∀ (s : State) (h n : Nat) (m : Model) (v : ModelVer), modelAt s h = some m → verAt s (h, n) = some v →
    let q := (h, n)
    (∀ (r : StepRun) (j : Job) (b : Batch), let k := kindCode r.kind
      v.sv.steps.find? (fun z => z.dealt && decide (kindCode z.kind = k)) = some r → jobAt s r.job = some j → tabFind j.batches r.batch = some b →
      (∀ d ds, svN v 20 2 ≠ 0 → k ≠ 7 → exec (.stepEnd h n k (d :: ds)) s =
        .next (flushAreas (dispatchAll s q m v k ((d :: ds).filter fun z => decide (z.layer < svN v 8 2 ∧ z.expert < svN v 20 2))))) ∧
      (∀ s1 outs, b.total ≤ b.done + b.dropped → b.dropped = 0 → (k = 7 ∨ (v.sv.sent.any fun x => decide (x.kind = k)) = false) →
        rdUnit s m.tenant r.outva (outBytes v r) = .ok (s1, outs) → let s2 := dropStep s1 q r
        (r.kind = .prefill → exec (.stepEnd h n k []) s = .next (flushAreas (r.ents.foldl (endPrefillEnt q outs) s2))) ∧
        (r.kind = .decode ∨ r.kind = .verify → exec (.stepEnd h n k []) s = .next (flushAreas (r.ents.foldl (endDecodeEnt outs) s2))) ∧
        (r.kind = .draft → exec (.stepEnd h n k []) s = .next (flushAreas (r.ents.foldl (endDraftEnt outs) s2))) ∧
        (r.kind = .encode → exec (.stepEnd h n k []) s = .next (flushAreas (r.ents.foldl (endEncodeEnt v outs) s2))) ∧
        (r.kind = .rerank → exec (.stepEnd h n k []) s = .next (flushAreas (endRerank outs s2 r.ents))) ∧
        (∀ s3, r.kind = .expert → endExpert s1 q m v r = .ok s3 → exec (.stepEnd h n k []) s = .next (flushAreas (dropStep s3 q r))))) ∧
    (∀ g s2 ent s4, let rs := v.sv.gathered.filter fun r => decide (r.layer = g.layer ∧ r.expert = g.expert)
      let use := rs.take (min 512 (homeCap v))
      formable s q .expert = some (m, v) → nextExpert s m v = some g →
      rdUnit (if 512 ≤ rs.length then s else advanceTo s (g.due + m.serve.exwait)) m.tenant (expEntVa v g.layer g.expert) 32 = .ok (s2, ent) →
      dealStep ((rangeOf (fld ent 0 56 0) (fieldAt ent 8 4)).foldl (fun st p => hintWillneed st m.tenant walkHubControl p) s2) m.tenant q .expert v.sv.nextStep none
        [{ seq := g.layer * 65536 + g.expert, pos := 0, ntok := use.length }] [] use ((enumFrom 0 use).map fun r => (homeVa v r.1, r.2.data)) = .ok s4 →
      exec (.expertStepStart h n) s = .next (modSv (takeStepNum s4 q .expert) q fun sv => { sv with gathered := use.foldl (fun l r => l.erase r) sv.gathered })) ∧
    (∀ r s2 ent i, v.sv.sent.find? (fun x => decide (x.num = r.num)) = some r → r.sent = 1 →
      rdUnit (advanceTo s r.due) m.tenant (expEntVa v r.layer r.expert) 32 = .ok (s2, ent) → nextHome s2 v ent r.home = some i →
      let r1 := { r with sent := 2, home := i, due := s2.clk.ticks + m.serve.dispdl }
      exec (.dispatchDeadline h n r.num) s = .next (sendReqs (modSv (countEv s2 srcSeq 0x0506 m.tenant) q fun sv => { sv with
        sent := sv.sent.map fun x => if x.num = r.num then r1 else x }) m.tenant q v [(homeModule ent i, r1)])) ∧
    (m.serve.rebalus ≠ 0 → let s1 := advanceTo s (v.sv.per.since + m.serve.rebalus * usTicks)
      let s2 := modSv s1 q fun sv => { sv with last := sv.per, per := { since := s1.clk.ticks } }
      exec (.rebalancePeriod h n) s = .next (match if !hasPools v ∨ v.sv.moving.isSome then none else chooseMove s1 m v (rates s1 q m v) with
        | some x => startMove s2 q m v x | none => s2)) ∧
    (∀ die dec, v.sv.moving = some (die, dec) → (if dec then (stepOf v .prefill).isSome else (stepOf v .decode).isSome || (stepOf v .verify).isSome) = false →
      let j := v.jobs.getD (if dec then svN v 5 1 else svN v 6 1) 0
      let s1 := match jobAt s j with | some job => job.jcores.foldl (emptyJc j (shareMask s m.tenant v [die])) s | none => s
      exec (.poolMoveRelease h n) s = .next (applyPools (modSv s1 q fun sv => { sv with
        moving := none
        pf := if dec then sv.pf.filter (· ≠ die) else sv.pf ++ [die]
        dc := if dec then sv.dc ++ [die] else sv.dc.filter (· ≠ die) }) q)) ∧
    (∀ i x, seqAt s i = some x → x.gen0 = q → x.drafter = none → x.coldDone = false → inAnyStep s i x = false → x.btab ≠ [] →
      let s1 := advanceTo s (x.lastStep + m.serve.kvcold * usTicks)
      exec (.kvColdTimer i) s = .next (modSeq (kvCold s1 x.tenant v x.btab) i fun y => { y with coldDone := true })) ∧
    (∀ i x t, seqAt s i = some x → x.pollAt = some t → exec (.streamConsPoll i) s =
      .next (addReadP (modSeq (advanceTo s t) i fun y => { y with pollAt := none }) x.pasid x.tenant 6 (.stream i)))

/-- The unit an engine picks is done once what it reads is there: an admitted sequence gets its text state, its order and its SEQID answered, and is tokenised, or is QUEUED where its input is tokens (R239, R268, R290); tokenising gives the prompt, or the query for encoder and packing (R281, R283); packing gives the prompt (R287, R289); a committed token inside its constraint set is rendered, checked and released (R293, R295, R298 to R300); a draft position's control record is prepared (R262, R294). -/
def Obligations.TextUnitsComplete : Prop :=
  ∀ (s z : State) (n t i : Nat) (x : Machine.Seq), seqAt z i = some x →
    (∀ v s1 tcb stops, let s2 := unitDone s1 n (t, .admission i)
      let r := x.xport.getD ⟨0, 0, 0⟩
      let s3 := modServing (modSeq s2 i fun y => { y with ts := { tcb := tcb, stops := stops }, xport := none, order := s2.serving.nextOrder, since := s2.clk.ticks, lastStep := s2.clk.ticks, stage := .tokenise })
        fun z => { z with nextOrder := z.nextOrder + 1 }
      pickUnit s isAdmission = some (z, n, (t, .admission i)) → verAt z x.gen0 = some v →
      admission z n x v = .ok (s1, .ok (tcb, stops)) → (polAt s2 x.tenant).admitOn = false →
      (sqKind x ≠ 1 → exec .admissionUnit s = .next (flushAreas (complete (modServing (pendTab s3 i false) fun z => { z with units := z.units ++ [(x.tenant, .tokenise i)] }) r stOk (seqIdOf i x) 0))) ∧
      (sqKind x = 1 → exec .admissionUnit s = .next (flushAreas (complete (promptKnown s3 i (inputToks x)) r stOk (seqIdOf i x) 0)))) ∧
    (∀ s1 g, pickUnit s isTokenise = some (z, n, (t, .tokenise i)) → seqGaz z n x x.gen0 = .ok (s1, g) →
      let ts := tokens g (tcSpecial x.ts.tcb) x.inp
      (sqKind x ≠ 3 → exec .tokeniseUnit s = .next (flushAreas (promptKnown (unitDone s1 n (t, .tokenise i)) i (bosOf g (tcAddbos x.ts.tcb) ++ ts)))) ∧
      (∀ q s2 ge, sqKind x = 3 → x.encoder = some q → seqGaz s1 n x q = .ok (s2, ge) → exec .tokeniseUnit s =
        .next (flushAreas (modSeq (unitDone s2 n (t, .tokenise i)) i fun y => { y with
          qgen := ts, qenc := bosOf ge (tcAddbos x.ts.tcb) ++ (if gzDiffer g ge then tokens ge (tcSpecial x.ts.tcb) x.inp else ts), stage := .encode })))) ∧
    (∀ s1 g s2 ws s3 ps ts k, pickUnit s isPack = some (z, n, (t, .pack i)) → seqGaz z n x x.gen0 = .ok (s1, g) →
      seqTemplate s1 x g = .ok (s2, ws) → readPassages x.ablk x.tenant x.passages s2 = .ok (s3, ps) →
      packPrompt g (tcAddbos x.ts.tcb) ws x.qgen ps (((verAt z x.gen0).map svMaxctx).getD 0 - 1) = some (ts, k) → exec .packUnit s =
      .next (flushAreas (promptKnown (modSeq (unitDone s3 n (t, .pack i)) i fun y => { y with npass := k }) i ts))) ∧
    (∀ k rest s1 g s2 cs, pickUnit s isToken = some (z, n, (t, .token i)) → x.emit = k :: rest → seqGaz z n x x.gen0 = .ok (s1, g) →
      rdCons s1 x.tenant x.ts.tcb = .ok (s2, cs) → inSet (gzNtok g) (conSet (gzNtok g) cs (genToks x (rest.length + 1))) k = true →
      exec .tokenUnit s = .next (renderToken (unitDone s2 n (t, .token i)) i x g k rest)) ∧
    (∀ s1 k cs, pickUnit s isDraft = some (z, n, (t, .draft i)) → seqCons z x = .ok (s1, k, cs) →
      exec .draftPositionUnit s = .next (modSeq (unitDone s1 n (t, .draft i)) i fun y => { y with dready := true }))

/-- A TEXT command whose block is well formed binds its version (R219) and has a text engine's turn (R25); its unit reads the gazetteer and the input. TOKENISE writes the tokens after BOS where asked, the part that fits. DETOKENISE runs one token unit for each ID: while IDs are left the next unit joins the tenant's units; the last writes the whole characters of the tokens' text that fit. The command then ends OK, or SHORT where not all fit, once its writes are acknowledged (R301). -/
def Obligations.TextCommandsComplete : Prop :=
  ∀ (s : State) (r : CmdRef) (x : Inflight) (b : Bytes) (v : State) (y : Inflight) (s1 : State) (e : Nat) (s2 : State) (g : Bytes) (s3 : State) (inp : Bytes) (s4 : State) (k : Bytes),
    let at1 (op : Nat) (tok : Bool) : Prop :=
      (∃ w, TakesBlock s r op x w b (textChecks tok b) ∧ v = blockHeld w r b ∧ y = { x with started := true, block := some b }) ∨
      (Running s r op x ∧ x.block = some b ∧ v = s ∧ y = x)
    let t := cmdTenant y
    let n := fieldAt b 24 4
    let ended (u : TextUnit) (full wrote : Nat) : State := textSettle (unitDone (modInfl s4 y.ref fun z => { z with
      done := 1, got := [(if wrote < full then stShort else stOk, leBytes 4 full ++ leBytes 4 wrote)] }) e (t, u)) y.ref
    y.stopped = none → endWaiting y = none → y.done ≠ 1 → textGaz s1 e y = .ok (s2, g) →
    (let ts := bosOf g (flg b 8 0) ++ tokens g (flg b 8 1) inp
      let out := ts.take (fieldAt b 28 4)
      at1 0x0801 true → textStart v y b (.cmdTok r) = .ok (s1, e) → rdText s2 e y (fld b 16 56 0) n = .ok (s3, inp) →
      cmdWrite s3 y t walkHubControl (fld b 32 56 0) (tokBytes out) = .ok s4 k → exec (.textTokenise r) s = .next (ended (.cmdTok r) ts.length out.length)) ∧
    (at1 0x0802 false → textStart v y b (.cmdDetok r) = .ok (s1, e) → rdText s2 e y (fld b 16 56 0) (4 * n) = .ok (s3, inp) →
      ((u32s n inp).any fun z => decide (gzNtok g ≤ z)) = false →
      (y.toks + 1 < n → exec (.textDetokenise r) s = .next (textSettle (modServing
        (unitDone (modInfl s3 y.ref fun z => { z with toks := z.toks + 1 }) e (t, .cmdDetok y.ref)) fun z => { z with units := z.units ++ [(t, .cmdDetok y.ref)] }) y.ref)) ∧
      (let cs := detokenise g (flg b 8 2) (u32s n inp)
        let out := fitChars (fieldAt b 28 4) cs
        n ≤ y.toks + 1 → cmdWrite s3 y t walkHubControl (fld b 32 56 0) out = .ok s4 k →
        exec (.textDetokenise r) s = .next (ended (.cmdDetok r) (cs.map (·.length)).sum out.length)))

/-- On an UP port, a flit with a good CRC and the SEQ due is accepted: its trailer's ACK and credits are taken and a HEAD or BODY flit joins its message (R304 to R308); a flit with a bad CRC is discarded and NAKed (that an uncorrectable codeword is counted: R309). A NAK resends from the SEQ named; CTRL FENCED turns the port FENCED and its peer is lost (R309, R330); loss of lock, or silence of 2 µs, turns the port DOWN: its messages are routed again and its peer is probed (R309, R328), the sixteenth time within 1 s fencing the port (Table 19.3). Training turns a port UP with its peer's credits (R307). A probe is answered, a reply ends it, a timeout or a LOST notice loses the module to its services and JOIN restores it (R328). -/
def Obligations.LinkEventsComplete : Prop :=
  ∀ (s : State) (n : Nat), let p := portAt s n
    let downs (u : State) : State :=
      let at16 := (p.downAt.filter fun t => decide (u.clk.ticks < t + 4000000000)).take 15
      let u1 := postEvent (modPort (setPortSt u n .down) n fun x => { x with downs := min (2 ^ 32 - 1) (x.downs + 1), downAt := u.clk.ticks :: at16 }) (srcPort n) 0x0401 0 0xFF n 0 0
      let u2 := probePeer (timePortDown (reroutePort u1 n) n) p.peer
      if 15 ≤ at16.length then setPortSt (fenceMark { u2 with enPorts := u2.enPorts &&& ~~~ (BitVec.ofNat 48 (2 ^ n)) } (srcPort n)) n .disabled else u2
    (∀ flit, let fl := padTo 256 flit
      let kind := fld fl 245 7 6
      p.st = .up →
      (crc64 (fl.take 248) = fieldAt fl 248 8 → fieldAt fl 240 2 = p.rxSeq →
        let u := modPort s n fun _ => takeTrailer { p with gap := false, lastRx := s.clk.ticks, nakRun := (0, 0), rxSeq := if kind = 0 then p.rxSeq else (p.rxSeq + 1) % 65536 } fl
        exec (.flitReceive n flit true) s = .next (routeAll (if kind = 1 ∨ kind = 2 then acceptFlit u n fl else u))) ∧
      (let run := if p.nakRun.1 = p.rxSeq then p.nakRun.2 + 1 else 1;
        crc64 (fl.take 248) ≠ fieldAt fl 248 8 → run < 16 → exec (.flitReceive n flit true) s =
        .next (countEv (sendCtrl (modPort s n fun x => { x with gap := true, naks := min (2 ^ 32 - 1) (x.naks + 1), nakRun := (x.rxSeq, run) }) n [0, p.rxSeq]) (srcPort n) 0x0303 0)) ∧
      (let recent := p.fecAt.filter fun t => decide (s.clk.ticks < t + msTicks);
        let u := modPort s n fun x => { x with fecBad := min (2 ^ 32 - 1) (x.fecBad + 1), fecAt := s.clk.ticks :: recent }
        recent.length < 31 → exec (.flitReceive n flit false) s = exec (.flitReceive n flit true) u)) ∧
    (∀ seq, p.st = .up → let rs := ackReplay (seq % 65536) p.replay
      exec (.nakReceive n seq) s = .next (rs.foldl (fun st q => (q.flits.drop q.acked).foldl (fun u f => emit u (.flit n (againFlit p.rxSeq f))) st)
        (modPort s n fun x => { x with replay := rs }))) ∧
    (p.st = .up → exec (.fencedReceive n) s = .next (loseModule (timePortDown (reroutePort (setPortSt s n .fenced) n) n) p.peer 0xFF none)) ∧
    (p.st = .up → exec (.pcsLockLoss n) s = .next (downs s)) ∧
    (p.st = .up → exec (.linkSilenceTimeout n) s = .next (downs (advanceTo s (p.lastRx + 2 * usTicks)))) ∧
    (∀ peer pp creds, mayTrain s n = true → p.st = .training ∨ p.st = .down →
      let u := modPort (setPortSt s n .up) n fun x =>
        { x with peer := peer % 131072, peerPort := pp % 256, peerCreds := creds, txCred := (List.range 16).map fun k => (k, if k % 2 = 0 then creds.getD (k / 2) 0 else 32),
                 txSeq := 0, rxSeq := 1, gap := false, lastRx := s.clk.ticks, replay := [], rx := none, rxBuf := [], nakRun := (0, 0) }
      exec (.portTrained n peer pp creds) s =
      .next (routeAll (joinModule (sendCtrl (postEvent u (srcPort n) 0x0402 0 0xFF n 0 0) n ([1, s.fab.module, n] ++ p.creds)) (peer % 131072) none))) ∧
    (∀ q, mgmtOf s [1, 2] = some q → let u := doneMsg (police s q).1 q
      (q.m.arg % 256 = 1 → exec .mgmtProbe s = .next (routeAll (sendMsg u { mgmtMsg 2 s.fab.module with dst := q.m.src }))) ∧
      (q.m.arg % 256 = 2 → exec .mgmtProbe s = .next { u with fab := { u.fab with probes := u.fab.probes.filter fun x => decide (x.1 ≠ q.m.src) } })) ∧
    (∀ m t, s.fab.probes.find? (fun x => decide (x.1 = m)) = some (m, t) → let u := advanceTo s t
      exec (.probeTimeout m) s = .next (loseModule { u with fab := { u.fab with probes := u.fab.probes.filter fun y => decide (y.1 ≠ m) } } m 0xFF none)) ∧
    (∀ q, mgmtOf s [3] = some q → exec .lostNotice s = .next (loseModule (doneMsg (police s q).1 q) (q.m.addr % 131072) (q.m.arg / 256 % 256) q.inPort)) ∧
    (∀ q, mgmtOf s [4] = some q → exec .joinNotice s = .next (routeAll (joinModule
      ((List.range 48).foldl (fun st k => unfencePort st k (q.m.addr % 131072)) (doneMsg (police s q).1 q)) (q.m.addr % 131072) q.inPort)))

/-- The oldest access of an operation that no earlier access of its port to its hub or page precedes (R18, R317), that no policer rejects, that is not a repeated one and that passes the target's checks has its effect and is answered (R318, R320 to R322): TREAD reads its tile bytes, TWRITE writes in its mode, ATOMIC applies at the hub and answers the old value; the response is kept for 4 × RTO but for TREAD's. The oldest MSG of a service that is the sequencer's acts as its kind says (R323); a COLL segment or abort joins its group's operation or waits for it (R327). A kept response is dropped when due, and withheld credits are returned (R322). -/
def Obligations.RequestsAreServed : Prop :=
  ∀ (s : State),
    (∀ q, (police s q).2 = false → let q1 := { q with policed := true }
      let u := holdMsg (police s q).1 q q1
      let m := q.m
      let va := m.addr % 2 ^ 57
      let n := m.arg % 65536 + 1
      let mode := m.arg / 65536 % 4
      let v := touchPages u m.tenant (unitLink (q.inPort.getD 0 / 8)) [pageOf va]
      let due (op : Nat) : Prop := nextAccess s op [] s.fab.inbox = some q
      let room := u.fab.kept.length < 65536
      let resp (op : Nat) (data : Bytes) : FabMsg := { op := op, service := m.service, tenant := m.tenant, dst := m.src, txid := m.txid, data := data }
      (due 1 → targetCheck u q1 n .read = .ready → let r := resp 0x81 (readMem v m.tenant va n)
        exec .treadReceive s = .next (serveAll (routeAll (sendMsg (doneMsg (hubRead v m.tenant va n) q1) r)))) ∧
      (due 2 → m.retry = false → room → targetCheck u q1 (if 2 ≤ mode then min n (65536 - m.addr % 65536) else n) .write = .ready →
        exec .twriteReceive s = .next (serveAll (routeAll (sendMsg (doneMsg (keepResp (modeWrite v m.tenant va mode (padTo n m.data) (m.data.drop n)) m (resp 0x82 [])) q1) (resp 0x82 []))))) ∧
      (due 3 → m.retry = false → room → m.arg % 8 ≤ 4 → m.addr % 8 = 0 → targetCheck u q1 8 .atomic = .ready →
        let a := hubAtomic v m.tenant va (m.arg % 8) (fieldAt m.data 0 8) (fieldAt m.data 8 8)
        let r := resp 0x83 (leBytes 8 a.2)
        exec .atomicReceive s = .next (serveAll (routeAll (sendMsg (doneMsg (keepResp a.1 m r) q1) r)))) ∧
      (∀ svc, s.fab.inbox.find? (fun z => decide (z.m.op = 4 ∧ z.m.service = svc) && inTurn s z) = some q →
        (∀ w, m.arg % 65536 = srcSeq → seqMessage u m = .ok w → exec (.msgReceive svc) s = .next (routeAll (doneMsg w q1))) ∧
        (m.arg % 65536 ≠ srcSeq → exec (.msgReceive svc) s = .next (doneMsg u q1)))) ∧
    (∀ q g run, inboxOf s 5 = some q → let u := countColl (police s q).1 q
      let num := q.m.arg / 256 % 2 ^ 24
      let k := groupKey q.m.tenant (q.m.arg % 256)
      let seg := q.m.addr % 2 ^ 32
      tabFind u.fab.groups k = some g → g.run = some run → num = g.count % 2 ^ 24 → bitOf q.m.addr 32 = false → exec .collReceive s =
        .next (doneMsg (relay (modGroup u k fun x => if num = x.count % 2 ^ 24 ∧ x.run.isSome then
            match x.run with
            | some z => { x with run := some { z with parts := tabPut z.parts seg q.m.data } }
            | none => x
          else { x with early := x.early ++ [(num, seg, q.m.data)] }) q.m.tenant (q.m.arg % 256) num g [(seg, q.m.data)]) q)) ∧
    (∀ k ks, s.fab.kept = k :: ks → let u := advanceTo s k.due
      exec .responseTableExpiry s = .next (s.fab.withheld.foldl (fun st w => modPort st w.1 fun x =>
          { x with crOut := tabPut x.crOut (laneKey w.2.1 false) (tabGet x.crOut (laneKey w.2.1 false) 0 + w.2.2) })
        { u with fab := { u.fab with kept := ks, withheld := [] } }))

/-- A response to an outstanding operation of its kind is delivered to the unit that waits, and the operation is over (R322); BUSY sets a retry after RTO, any other ERESP fails the operation with the target's KIND and CAUSE, bit 7 set where it came by a port (R320, R342), or as this module's own router answers (R328). MACK ends what it acknowledges and lets waiting ordered messages go (R319). An operation without a response by its deadline is sent once more with RETRY, then fails with PEER_LOST (R322); an ordered flow likewise, then it is emptied (R323). -/
def Obligations.AnswersComplete : Prop :=
  ∀ (s : State),
    (∀ q o, let u := doneMsg (police s q).1 q
      let tx := q.m.txid
      let gone := { u with fab := { u.fab with rem := tabDel u.fab.rem tx } }
      tabFind u.fab.rem tx = some o →
      (inboxOf s 0x81 = some q → o.kind = 0 → exec .rdataReceive s = .next (serveAll (remOver (deliverAnswer gone tx o q.m.data) tx))) ∧
      (inboxOf s 0x82 = some q → o.kind = 1 → exec .wackReceive s = .next (serveAll (remOver (deliverAnswer gone tx o q.m.data) tx))) ∧
      (inboxOf s 0x83 = some q → o.kind = 2 → exec .avalReceive s = .next (serveAll (remOver (deliverAnswer gone tx o q.m.data) tx))) ∧
      (inboxOf s 0x8F = some q → q.m.arg % 65536 = stBusy → exec .erespReceive s =
        .next { u with fab := { u.fab with rem := tabPut u.fab.rem tx { o with busyAt := some (u.clk.ticks + u.fab.rto * usTicks) } } }) ∧
      (let cause := q.m.arg / 2 ^ 24 % 256;
        inboxOf s 0x8F = some q → q.m.arg % 65536 ≠ stBusy → exec .erespReceive s =
        .next (serveAll (remOver (failAnswer gone tx o (q.m.arg / 65536 % 256) (if q.inPort.isNone then cause else cause ||| 0x80)) tx)))) ∧
    (∀ q f, let u := doneMsg (police s q).1 q
      let k := q.m.src * 8 + q.m.service
      inboxOf s 0x84 = some q → tabFind u.fab.txFlows k = some f →
      let left := f.unacked.filter fun m => decide (32768 ≤ ahead (q.m.arg % 65536) m.oseq)
      let g := { f with unacked := left, deadline := if left = [] then none else some (u.clk.ticks + u.fab.rto * usTicks), resent := if left.length < f.unacked.length then false else f.resent }
      exec .mackReceive s = .next (routeAll (pumpFlow { u with fab := { u.fab with txFlows := tabPut u.fab.txFlows k g } } k f.waiting.length))) ∧
    (∀ tx o, tabFind s.fab.rem tx = some o →
      (o.busyAt = none → let u := advanceTo s o.deadline
        (o.resent = false → let o1 := { o with resent := true, deadline := u.clk.ticks + u.fab.rto * usTicks }
          exec (.remoteOpTimeout tx) s = .next (routeAll (sendMsg { u with fab := { u.fab with rem := tabPut u.fab.rem tx o1 } } { remMsg tx o1 with retry := true }))) ∧
        (o.resent = true → exec (.remoteOpTimeout tx) s =
          .next (serveAll (remOver (failAnswer { u with fab := { u.fab with rem := tabDel u.fab.rem tx } } tx o 0x04 0x24) tx)))) ∧
      (∀ b, o.busyAt = some b → let u := advanceTo s b
        let o1 := { o with busyAt := none, deadline := u.clk.ticks + u.fab.rto * usTicks }
        exec (.busyRetry tx) s = .next (routeAll (sendMsg { u with fab := { u.fab with rem := tabPut u.fab.rem tx o1 } } { remMsg tx o1 with retry := true })))) ∧
    (∀ dst svc f d, let k := dst * 8 + svc
      tabFind s.fab.txFlows k = some f → f.deadline = some d → let u := advanceTo s d
      (f.resent = false → exec (.orderedFlowTimeout dst svc) s = .next (routeAll (f.unacked.foldl sendMsg { u with fab := { u.fab with
        txFlows := tabPut u.fab.txFlows k { f with resent := true, deadline := some (u.clk.ticks + u.fab.rto * usTicks) } } }))) ∧
      (f.resent = true → svc ≠ 4 → exec (.orderedFlowTimeout dst svc) s = .next { u with fab := { u.fab with
        txFlows := tabPut u.fab.txFlows k { f with unacked := [], waiting := [], resent := false, deadline := none } } }))

/-- A FAB command that is offered and whose entry is well formed takes effect (R330, R331). CONFIG writes MODULE, NDIM, the dimension widths and kinds and the times, which with ENABLE set may only be the same, and ports train or are DISABLED as ENABLE says. ROUTE WRITE puts its entries into the shadow table, asking the host for them first; COMMIT makes the shadow the committed set at once, or at a later time within reach (R315). PORT disables, enables or gives a DISABLED port its 8 credits. STATUS writes the 48 port records to the host buffer and clears their counters, or writes the reachability of the 131,072 modules. FENCE fences the services named, all of them the module; UNFENCE ends it. -/
def Obligations.FabCommandsComplete : Prop :=
  ∀ (s : State) (r : CmdRef) (x : Inflight),
    let u := begun s r
    let y := { x with started := true }
    let e := x.entry
    let n := par e 0 1
    (Takes s r 0x0B01 x (chkFabConfig r s e) →
      (u.fab.enable = true → u.fab.module = parFld e 0 16 0 ∧ u.fab.ndim = parFld e 4 2 0 ∧ u.fab.widths = cfgWidths e ∧ u.fab.kinds = parFld e 10 4 0) →
      exec (.fabConfig r) s = .next (complete (enablePorts { u with fab := { u.fab with
        module := parFld e 0 16 0, mvalid := true, ndim := parFld e 4 2 0, widths := cfgWidths e, kinds := parFld e 10 4 0,
        enable := parFlg e 11 0, rto := par e 16 4, nmwait := par e 20 2, probeto := par e 22 2 } } (parFlg e 11 0)) r stOk 0 0)) ∧
    (let k := par e 8 4;
      Takes s r 0x0B02 x (chkFabRouteWrite r s e) → parFlg e 24 0 = false → k ≠ 0 →
      (hostBuf x = none → exec (.fabRouteWrite r) s = .next (askHost u y)) ∧
      (∀ bs, hostBuf x = some bs → 16 * k ≤ bs.length → ((List.range k).any fun i => !routeEntGood ((bs.drop (16 * i)).take 16)) = false →
        exec (.fabRouteWrite r) s = .next (complete { u with fab := { u.fab with
          shadow := (List.range k).foldl (fun tb i => tabPut tb (parFld e 0 2 0 * 131072 + par e 4 4 + i) (routeEnt ((bs.drop (16 * i)).take 16))) u.fab.shadow } } r stOk 0 0))) ∧
    (let t := par e 32 8;
      Takes s r 0x0B02 x (chkFabRouteCommit r s e) → parFlg e 24 0 = true → schedWaits u r = false → armedKind u (fun k => decide (k = .route)) = false →
      par e 8 4 = 0 → shadowGood u = true →
      (t = 0 → exec (.fabRouteCommit r) s = .next (complete (routeAll { u with fab := { u.fab with routes := u.fab.shadow, routed := true } }) r stOk 0 0)) ∧
      (t ≠ 0 → schedRefuse u t = none → exec (.fabRouteCommit r) s = .next (schedCmd u r t .route))) ∧
    (Takes s r 0x0B03 x (chkFabPortDisable r s e) → parFld e 1 1 0 = 0 → let v := modPort u n fun p => { p with off := true }
      exec (.fabPortDisable r) s = .next (complete (if (portAt v n).st = .disabled then v
        else timePortDown (reroutePort (setPortSt v n .disabled) n) n) r stOk 0 0)) ∧
    (Takes s r 0x0B03 x (chkFabPortEnable r s e) → parFld e 1 1 0 = 1 → let v := modPort u n fun p => { p with off := false }
      exec (.fabPortEnable r) s = .next (complete (if mayTrain v n = true ∧ (portAt v n).st = .disabled then setPortSt v n .training else v) r stOk 0 0)) ∧
    (let cs := (List.range 8).map fun i => par e (4 + 2 * i) 2;
      Takes s r 0x0B03 x (portChecks e) → parFld e 1 1 0 = 2 → (portAt u n).st = .disabled → (∀ c ∈ cs, 16 ≤ c) → cs.sum + 256 ≤ 8192 →
      exec (.fabPortSetcred r) s = .next (complete (modPort u n fun p => { p with creds := cs }) r stOk 0 0)) ∧
    (Takes s r 0x0B04 x (fabStatusChecks e) → parFlg e 8 0 = false → exec (.fabStatusPorts r) s =
      .next (complete (cmdHostPut ((List.range 48).foldl (fun st k => if tabHas st.fab.ports k = true then
        modPort st k fun p => { p with fecCorr := 0, fecBad := 0, naks := 0, downs := 0 } else st) u) y (par e 0 8)
        ((List.range 48).flatMap fun k => portRec (portAt u k))) r stOk 0 0)) ∧
    (Takes s r 0x0B04 x (fabStatusChecks e) → parFlg e 8 0 = true → exec (.fabStatusReach r) s =
      .next (complete (cmdHostPut u y (par e 0 8) ((List.range 131072).map fun m => BitVec.ofNat 8 (reachOf u m))) r stOk 0 0)) ∧
    (Takes s r 0x0B05 x (noChecks s e) → parFlg e 1 0 = true → exec (.fabFence r) s =
      .next (complete (if n = 0xFF then fenceModule u else fenceServices u n) r stOk 0 0)) ∧
    (let v : State := { u with fab := { u.fab with
        fencedSvc := u.fab.fencedSvc &&& (0xFF - n % 256), fenced := if n % 256 = 0xFF then false else u.fab.fenced } }
      let w := flood v 4 v.fab.module none
      Takes s r 0x0B05 x (noChecks s e) → parFlg e 1 0 = false → exec (.fabUnfence r) s =
        .next (complete (routeAll (irqAll (if v.fab.fencedSvc = 0 then w else flood w (3 + v.fab.fencedSvc * 256) v.fab.module none) irqFence)) r stOk 0 0))

/-- A FAB.GROUP block that is well formed makes a group that is not there, writing its size and this module's rank into the block, or removes one that is there (R324). A group without an operation waits for NTRIG of its TSEM; with it taken it reads its next descriptor, which if it is not refused makes it read its input and send its contribution on (R325, R326). With every contribution there the output is written and the descriptor ends OK; one with an error, or of a lost member, ends with its status, its output undefined: free values (R325, R327). -/
def Obligations.CollectivesComplete : Prop :=
  ∀ (s : State),
    (∀ r x w b v o, let u := blockHeld w r b
      let y := { x with started := true, block := some b, done := 1 }
      let k := groupKey (cmdTenant x) (fieldAt b 0 1)
      let writes (st : State) (res : Bytes) : CmdAcc := cmdWrite (modInfl st r fun z => { z with done := 1 }) y (cmdTenant x) walkHubControl (parFld x.entry 0 56 0 + 48) (padTo 16 res)
      TakesBlock s r 0x0B06 x w b (groupChecks w b) →
      (flg b 1 0 = true → tabHas u.fab.groups k = false → let g := groupOf u b
        writes (groupWait (freeTick { u with fab := { u.fab with groups := tabPut u.fab.groups k g } }) k)
          (leBytes 4 (groupSize g) ++ leBytes 4 ((rankOf g u.fab.module).getD ((freeNow u).toNat % 2 ^ 32))) = .ok v o →
        exec (.fabGroupCreate r) s = .next (complete v x.ref stOk 0 0)) ∧
      (flg b 1 0 = false → tabHas u.fab.groups k = true → writes (serveSems (groupLeave { u with fab := { u.fab with groups := tabDel u.fab.groups k } } k)) [] = .ok v o →
        exec (.fabGroupDestroy r) s = .next (complete v x.ref stOk 0 0))) ∧
    (∀ t g gr, tabFind s.fab.groups (groupKey t g) = some gr →
      (∀ s2 d s3 src, let u := groupWait s (groupKey t g)
        gr.run = none → ((tabFind u.fab.groups (groupKey t g)).any fun x => x.taken) = true →
        engRead u t (unitLink 0) (gr.ringva + 64 * (gr.count % 2 ^ gr.log2n)) 64 = .ok s2 d →
        clBad d (groupSize gr) = false →
        engRead s2 t (unitLink 0) (clSrc d) (clPart d ((rankOf gr s2.fab.module).getD 0) * clSize (clIfmt d)) = .ok s3 src →
        exec (.collectiveTrigger t g) s = .next (collStart s3 t g gr d src)) ∧
      (∀ run st v o, gr.run = some run → (∀ w ∈ (ctxAt s t).waiting, w.holder ≠ .group t g) → collEnd s gr run = some st →
        (st ≠ stOk → exec (.collectiveDone t g) s = .next (collFinish (clobber s t (clDst run.d) (clOutLen run.d (groupSize gr))) t g gr run st)) ∧
        (st = stOk → engWrite s t (unitLink 0) (clDst run.d) (clResult t g gr run ((rankOf gr s.fab.module).getD 0)) = .ok v o →
          exec (.collectiveDone t g) s = .next (collFinish v t g gr run stOk))))

/-- R442 whole: the life-cycle state (in the model one field, which stands for the record and its mirror in the fuses) is one of the five of Table 18.4, numbered 0 BLANK to 4 SCRAP, in every next state of a state in which it is; no command but SEC.LIFECYCLE changes it, so no reset, no removal of power and no event does; after reset it is VENDOR, the state in which modules ship. -/
def Obligations.LifeCycleChangesOnlyBySecLifecycle : Prop :=
  State.reset.ctl.lifecycle = 1 ∧
  (∀ (c : Instr) (s t : State), s.ctl.lifecycle ≤ 4 → exec c s = .next t → t.ctl.lifecycle ≤ 4) ∧
  (∀ (c : Instr) (s t : State), (∀ r n, c ≠ .secLifecycle r n) → exec c s = .next t → t.ctl.lifecycle = s.ctl.lifecycle)

/-- Whatever command ends in a next state: the queue of waiting commands is as it was; the TLPs that have left the module stay sent, with new ones after them; free values once drawn are not drawn again; and what the fuses hold (life cycle, MINSECVER and its raises, revoked keys, passes through RETURN: R442, R444, R446, R458) changes only by FW.CONFIRM and SEC.LIFECYCLE. The queue, the list of sent TLPs and the count of free values are the model's own fields. -/
def Obligations.EveryCommandKeepsQueueFusesAndSentTlps : Prop :=
  ∀ (c : Instr) (s t : State), exec c s = .next t →
    t.pending = s.pending ∧ s.left <+: t.left ∧ s.freeCtr ≤ t.freeCtr ∧
    ((∀ r n, c ≠ .secLifecycle r n) → (∀ r n, c ≠ .fwConfirm r n) → fuses t.ctl = fuses s.ctl)

/-- The update of R58, in rationals: V is the entry's value (0 for SET) plus the terms; the anchor is the least at or above the old one (−512 for SET) at which the floor of V over its weight fits 64 bits, and X is that floor. If that anchor is above 511, the anchor stays at 511, X saturates and AOVF sets (R59). A window loss is reported exactly when X times its weight differs from V (R61), and always with AOVF. -/
def Obligations.ExactWindowUpdate : Prop :=
  ∀ (set : Bool) (v : BitVec 64) (a : Int) (ts : List (Int × Int)), a ≤ 511 →
    let x0 : Int := if set then 0 else v.toInt
    let a0 : Int := if set then -512 else a
    let V : ℚ := (x0 : ℚ) * 2 ^ a0 + (ts.map fun q => (q.1 : ℚ) * 2 ^ q.2).sum
    let fits (k : Int) : Prop := min64 ≤ ⌊V / 2 ^ k⌋ ∧ ⌊V / 2 ^ k⌋ ≤ max64
    let u := accScaled set v a ts
    ((∃ k, a0 ≤ k ∧ k ≤ 511 ∧ fits k) →
      a0 ≤ u.a ∧ u.a ≤ 511 ∧ fits u.a ∧ (∀ k, a0 ≤ k → fits k → u.a ≤ k) ∧ u.x.toInt = ⌊V / 2 ^ u.a⌋ ∧ u.aovf = false) ∧
    ((∀ k, a0 ≤ k → k ≤ 511 → ¬ fits k) →
      u.a = 511 ∧ u.aovf = true ∧ u.lossy = true ∧ u.x.toInt = if 0 < V then max64 else min64) ∧
    (u.lossy = true ↔ (u.x.toInt : ℚ) * 2 ^ u.a ≠ V)

/-- R63 whole: for every integer format of Table 3.3 the value X × 2^A is rounded to the nearest integer, ties to even; Sn clamps it to −2^(n−1) to 2^(n−1) − 1 and writes two's complement sign-extended to the element; Un clamps it to 0 to 2^n − 1 and writes it zero-extended. The integer written lies in the format's range, so it is a valid activation of that width and signedness; with A = 0 the value converts without rounding. -/
def Obligations.IntegerDrainRoundsAndClamps : Prop :=
  ∀ (code : Nat) (f : OutFmt) (u : AccUpd), outFmt code = some f →
    let v : ℚ := (u.x.toInt : ℚ) * 2 ^ u.a
    let rounds (r : Int) : Prop := |v - r| ≤ 1 / 2 ∧ (|v - r| = 1 / 2 → r % 2 = 0)
    (∀ n, f = .s n → ∃ r : Int, rounds r ∧ (u.a = 0 → r = u.x.toInt) ∧
      let y := max (-(2 : Int) ^ (n - 1)) (min r ((2 : Int) ^ (n - 1) - 1))
      (((drainConv f u).1 : Int) = if y < 0 then y + 2 ^ (8 * outSize f) else y) ∧ n ≤ 8 * outSize f ∧ 2 ≤ n) ∧
    (∀ n, f = .u n → ∃ r : Int, rounds r ∧ (u.a = 0 → r = u.x.toInt) ∧
      ((drainConv f u).1 : Int) = max 0 (min r ((2 : Int) ^ n - 1)) ∧ n ≤ 8 * outSize f ∧ 1 ≤ n)

/-- Every encoding of FP32, FP16, BF16 and C40 that is not a NaN (R53) stands for a value that the one rounding (R55, R64) turns back into that encoding: no encoding is lost, subnormals are kept, the sign of zero and the infinities too. A NaN becomes the canonical one. -/
def Obligations.FloatEncodingsRoundToThemselves : Prop :=
  ∀ f ∈ [fmtFp32, fmtFp16, fmtBf16, fmtC40], ∀ w < 2 ^ (1 + f.eb + f.fb),
    (fDecode f w ≠ .nan → fRound f (fDecode f w) = w) ∧ (fDecode f w = .nan → fRound f (fDecode f w) = fNan f)

/-- R123 whole, of the network's operation on any list of elements of a type it takes (the 64 × G elements of the command): the output has as many elements, its valid elements are the input's rearranged, each element precedes every later one (R119; two elements neither of which precedes the other have equal scores, order words and IDs, or are both invalid), and every invalid element is the sentinel. -/
def Obligations.SortPutsBetterElementsFirst : Prop :=
  ∀ t ∈ [VType.f32, VType.s32, VType.u32], ∀ (asc : Bool) (xs : List Elem),
    let ys := (netBsort t asc xs).elems
    ys.length = xs.length ∧ (ys.filter (elemValid t)).Perm (xs.filter (elemValid t)) ∧
    (∀ y ∈ ys, elemValid t y = false → y = sentinel t asc) ∧
    ys.Pairwise fun a b => elemPrec t asc a b = true ∨ (elemValid t a = false ∧ elemValid t b = false) ∨
      (elemValid t a = true ∧ elemValid t b = true ∧ scoreEq t a.score b.score = true ∧ a.ord = b.ord ∧ a.id = b.id)

/-- Bytes stored at an address of a tenant's atlas and not reaching past the end of the address space are read back from there; every byte of another tenant, and of another address of the same tenant, reads as before; nothing but the memory changes, and its canonical form is kept. The memory is the model's form of the tiles' contents. -/
def Obligations.AtlasBytesReadBack : Prop :=
  ∀ (s : State) (t va : Nat) (bs : Bytes), va + bs.length ≤ 2 ^ 57 → Memory.wf s.atlas.mem = true →
    let u := writeMem s t va bs
    readMem u t va bs.length = bs ∧ Memory.wf u.atlas.mem = true ∧
    (∀ t' a, a < 2 ^ 57 → t' ≠ t ∨ a < va ∨ va + bs.length ≤ a → readMem u t' a 1 = readMem s t' a 1) ∧
    u = { s with atlas := { s.atlas with mem := u.atlas.mem } }

/-- R476 whole: an event of class 0 or 4 whose source, CODE and ARG0 an open record has advances that record's COUNT by 1 and its LAST to the meridian of the source's die, and changes nothing else; with no such record, it opens one that closes 1 ms later; the record is posted, with its COUNT and LAST, and is open no more, when its millisecond closes (EVENT_COALESCE_CLOSE, which moves time to that moment); an event of another class is posted at once. -/
def Obligations.EventsCoalesce : Prop :=
  ∀ (s : State) (src code sub ten a0 a1 a2 : Nat),
    let e : EvRec := { src := src, mer := merAt s src, code := code, subunit := sub, tenant := ten, arg0 := a0, arg1 := a1, arg2 := a2,
                       last := merAt s src, closeAt := s.clk.ticks + msTicks }
    let same (o : EvRec) : Bool := decide (o.src = src ∧ o.code = code ∧ o.arg0 = a0)
    (code / 256 = 0 ∨ code / 256 = 4 →
      (s.log.opened.any same = true → postEvent s src code sub ten a0 a1 a2 = { s with log := { s.log with
        opened := s.log.opened.map fun o => if same o then { o with count := o.count + 1, last := merAt s src } else o } }) ∧
      (s.log.opened.any same = false → postEvent s src code sub ten a0 a1 a2 = { s with log := { s.log with opened := s.log.opened ++ [e] } })) ∧
    (¬ (code / 256 = 0 ∨ code / 256 = 4) → postEvent s src code sub ten a0 a1 a2 = logStore s e) ∧
    (∀ o, s.log.opened.find? same = some o →
      let u := advanceTo s o.closeAt
      exec (.eventCoalesceClose src code a0) s = .next (logStore { u with log := { u.log with opened := u.log.opened.filter (· ≠ o) } } o))

/-- A fabric port that is UP and between messages begins the head that R334 picks among its ready queues, and sends an IDLE flit when none is ready (R304); port 48 sends the TLP that R334 picks. At the next multiple of 64 ticks each enabled bucket of a port gains RATE × 2 for each grain, up to its burst (R335); the running gate entry ends (R338); a pending list takes over, and a FAB.GATE whose every port has taken over completes (R339). At the next multiple of INTERVAL the sample's marker and its queue records join the ring while it has room (R343). At a window's end the port's byte counts become its last and largest (R479). -/
def Obligations.EgressAndGatesComplete : Prop :=
  ∀ (s : State) (n : Nat), let p := portAt s n
    (n < 48 → p.sending = none → let u := pumpCtrl (settleGate (routeAll s) n) n
      let pu := portAt u n
      let hs := portHeads u n
      let picked := pickQueue u pu ((hs.filter (headReady u n pu)).map fun q => ⟨q.1, q.2.1, 256 * nFlits q.2.2.m⟩)
      pu.st = .up → pu.sending = none →
      (∀ svc t p1 q, picked = some (svc, t, p1) → hs.find? (fun q => decide (q.1 = svc ∧ q.2.1 = t)) = some q →
        exec (.egressSchedule n) s = .next (sendBy u n p1 svc t q.2.2)) ∧
      (picked = none → (∀ q ∈ hs, credOf u n q.2.2.m.service q.2.2.m.esc ≠ 0) → exec (.egressSchedule n) s = .next (idleFlit u n))) ∧
    (∀ svc t p1 o rest k, let u := settleGate s 48
      let rs := (tlpHeads (tlpFree u.out []) []).filter fun r => shapedOk (grainAt u (srcPort 48)) (portAt u 48) r.svc r.ten && openAt (portAt u 48) r.svc (merNow u)
      pickQueue u (portAt u 48) rs = some (svc, t, p1) → takeTlp svc t u.out [] = some (o, rest) → outTlp o.2 = some k →
      let p2 := debitPath (grainAt u (srcPort 48)) p1 svc t k.2.2
      exec (.egressSchedule 48) s = .next (countEvs (settleInval { modPort u 48 (fun _ => { p2 with
        tx := p2.tx + k.2.2, maxdly := tabPut p2.maxdly (svc * 64 + t) (max (tabGet p2.maxdly (svc * 64 + t) 0) (u.clk.ticks - o.1)) }) with
        out := rest, left := u.left ++ [o.2] }) (srcPort 48) 0x0301 t (ceilDiv k.2.2 256))) ∧
    (let u := advance s (64 - merAt s (srcPort n) % 64);
      tabHas s.fab.ports n = true → exec (.tokenRefill n) s = .next (modPort u n fun x => { x with shapers := x.shapers.map fun q => (q.1,
        if q.2.enable = false ∨ merAt u (srcPort n) / 64 ≤ q.2.last then q.2 else { q.2 with
          tokens := min (q.2.burst * 1000 : Nat) (q.2.tokens + ((merAt u (srcPort n) / 64 - q.2.last) * q.2.rate * 2 : Nat)), last := merAt u (srcPort n) / 64 }) })) ∧
    (∀ e left, runningEntry p (gateInForce p (merAt s (srcPort n))).1 (merAt s (srcPort n)) = some (e, left) → p.sending = none → p.gpend = none →
      exec (.gateEntryAdvance n) s = .next (advance s left)) ∧
    (∀ q, p.gpend = some q → (∀ a ∈ s.time.acts, a.change = none) → s.time.armonly = false → let u := advance s (q.start - merAt s (srcPort n))
      q.start ≤ merAt u (srcPort n) → exec (.gateTakeover n) s = .next (settleGateActs (modPort u n fun x => { x with gate := q, gpend := none }))) ∧
    (∀ cons c, s.fab.sampling = some c → let u := advance s (c.interval * usTicks - merNow s % (c.interval * usTicks))
      let qs := (bitList 49 c.ports).flatMap fun p => (bitList 8 c.svcs).flatMap fun v => (bitList 64 c.tens).map fun t => queueRec u p v t
      let mark := leBytes 8 (merNow u) ++ leBytes 4 qs.length ++ leBytes 1 (min 255 c.dropped) ++ leBytes 2 0 ++ leBytes 1 2
      let m := ringPut u c.haddr (2 ^ c.log2n) (cons % 2 ^ 32) 16 [mark] c.prod 0
      let x := ringPut m.1 c.haddr (2 ^ c.log2n) (cons % 2 ^ 32) 16 qs m.2.1 (if m.2.2 = 0 then 0 else c.dropped + 1)
      let w := hostPutS x.1 ownRing 0 0 7 c.paddr (leBytes 8 x.2.1)
      exec (.queueSample cons) s = .next { w with fab := { w.fab with
        sampling := some { c with prod := x.2.1, dropped := x.2.2 }, ports := w.fab.ports.map fun q => (q.1, { q.2 with maxdly := [] }) } }) ∧
    (n ≤ 48 → let per := p.winlen * usTicks
      exec (.portWindowEnd n) s = .next (modPort (advance s (per - merAt s (srcPort n) % per)) n fun x => { x with
        txlast := x.tx, txmax := max x.txmax x.tx, tx := 0, rxlast := x.rxw, rxmax := max x.rxmax x.rxw, rxw := 0, winlen := x.winlenNew }))

/-- A FAB.SHAPER whose set is in range commits it at once at the buckets it names, or becomes a pending action at a later time within reach (R337, R344), and answers the policer's EXCEEDED, which the read clears (R341). SCHED writes the ports' service weights, and the subscribers' weights where a buffer of 64 nonzero bytes is given, after asking the host for it. GATE WRITE writes gate entries that no list in force or pending uses; COMMIT makes a good list pending, to take over at the port's cycle boundary (R338, R339). SAMPLE sets or ends the sampling, with the head delays cleared (R343). -/
def Obligations.TrafficCommandsComplete : Prop :=
  ∀ (s : State) (r : CmdRef) (x : Inflight),
    let u := begun s r
    let y := { x with started := true }
    let e := x.entry
    let ps := portsOf (parFld e 0 5 0)
    (Takes s r 0x0B07 x (shaperChecks e) → schedWaits u r = false →
      (par e 16 8 = 0 → let w := applyShaper u e
        (parFld e 0 1 0 ≠ 3 → exec (.fabShaper r) s = .next (complete w r stOk 0 0)) ∧
        (parFld e 0 1 0 = 3 → let t := parFld e 2 5 0;
          exec (.fabShaper r) s = .next (complete { w with fab := { w.fab with policers := tabUpd w.fab.policers t fun b => { b with exceeded := 0 } } }
            r stOk (tabGet w.fab.policers t {}).exceeded 0))) ∧
      (par e 16 8 ≠ 0 → schedRefuse u (par e 16 8) = none → exec (.fabShaper r) s = .next (addAct u (par e 16 8) (.shaper e) (some r)))) ∧
    (Takes s r 0x0B08 x (chkFabSched r s e) → let ws := (List.range 6).map fun i => par e (2 + i) 1
      let put (st : State) : State := ps.foldl (fun z n => modPort z n fun p => { p with wgt := ws }) st;
      (par e 16 8 = 0 → exec (.fabSched r) s = .next (complete (put u) r stOk 0 0)) ∧
      (par e 16 8 ≠ 0 → hostBuf x = none → exec (.fabSched r) s = .next (askHost u y)) ∧
      (∀ bs, par e 16 8 ≠ 0 → hostBuf x = some bs → 64 ≤ bs.length → (∀ b ∈ bs.take 64, b ≠ 0) → exec (.fabSched r) s =
        .next (complete (put { u with fab := { u.fab with swgt := (List.range 64).map fun t => (t, byteAt bs t) } }) r stOk 0 0))) ∧
    (Takes s r 0x0B09 x (chkFabGateWrite r s e) → parFlg e 1 0 = false → let a := parFld e 2 8 0
      let k := parFld e 4 8 0
      let w := ps.foldl settleGate u;
      (∀ p ∈ ps, touchesList (portAt w p) a k = false) →
      (k = 0 → exec (.fabGateWrite r) s = .next (complete w r stOk 0 0)) ∧
      (k ≠ 0 → hostBuf x = none → exec (.fabGateWrite r) s = .next (askHost w y)) ∧
      (∀ bs, k ≠ 0 → hostBuf x = some bs → 8 * k ≤ bs.length → (∀ i < k, zeroBytes bs (8 * i + 1) (8 * i + 3) = true ∧ 40 ≤ fieldAt bs (8 * i + 4) 4) →
        let put (tb : Tab (Nat × Nat)) (i : Nat) : Tab (Nat × Nat) := tabPut tb (a + i) (byteAt bs (8 * i), fieldAt bs (8 * i + 4) 4)
        exec (.fabGateWrite r) s = .next (complete (ps.foldl (fun st p => modPort st p fun z => { z with gmem := (List.range k).foldl put z.gmem }) w) r stOk 0 0))) ∧
    (Takes s r 0x0B09 x (chkFabGateCommit r s e) → parFlg e 1 0 = true → let w := settleGateActs (ps.foldl settleGate u)
      let t := par e 24 8
      let g : GateList := { base := parFld e 16 8 0, len := parFld e 18 8 0 };
      schedWaits u r = false → (t ≠ 0 → schedRefuse w t = none) → w.time.acts.length < 256 →
      (∀ p ∈ ps, (portAt w p).gpend = none ∧ listBad (portAt w p) g = false) → exec (.fabGateCommit r) s =
      .next (settleGateActs (addAct (ps.foldl (fun st p => settleGate (modPort st p fun z =>
        { z with gpend := some { g with start := takeoverAt z (if t = 0 then merAt w (srcPort p) else t) } }) p) w) t (.gate (parFld e 0 5 0)) (some r)))) ∧
    (Takes s r 0x0B0A x (chkFabSample r s e) →
      (parFld e 16 4 0 = 0 → exec (.fabSample r) s = .next (complete { u with fab := { u.fab with sampling := none } } r stOk 0 0)) ∧
      (parFld e 16 4 0 ≠ 0 → exec (.fabSample r) s = .next (complete { u with fab := { u.fab with
        ports := u.fab.ports.map fun q => (q.1, { q.2 with maxdly := [] }), sampling := some { haddr := par e 0 8, paddr := par e 8 8, log2n := parFld e 16 4 0, interval := par e 20 4, ports := parFld e 24 48 0, svcs := par e 31 1, tens := par e 32 8 } } } r stOk 0 0)))

/-- A present function reads the meridian whole; a read of its low word latches the high word, which a read of the high word answers and consumes, or the current one where nothing is latched (R346). A 1PPS edge that is not discarded compares the meridian with SECONDS, which counts on (R348); no edge for 1.5 s sets PPSLOSS, and a module under BOTH seeks a parent, one under HOST that was LOCKED turns HOLDOVER (R348, R352). After its hold the meridian runs LOCKED (R345). A port that is UP sends its TIME message (R349); a received one is taken as its port's announcement, and the parent's message that answers this module's gives a measurement (R349, R350). A pending action comes to its time and takes effect (R353). That stray edges are counted from the last edge kept, and that the sender is named as its parent by an operand, are the model's choices (log 24). -/
def Obligations.MeridianCommandsComplete : Prop :=
  ∀ (s : State) (fn n : Nat) (names : Bool),
    (fnPresent s fn = true →
      exec (.meridianRead64 fn) s = .next (emit s (.regData fn (merNow s))) ∧
      exec (.meridianLowRead fn) s = .next (emit { s with time := { s.time with latches := tabPut s.time.latches fn (merNow s / 2 ^ 32) } } (.regData fn (merNow s % 2 ^ 32))) ∧
      (tabFind s.time.latches fn = none → exec (.meridianHighRead fn) s =
        .next (emit { s with time := { s.time with latches := tabDel s.time.latches fn } } (.regData fn (merNow s / 2 ^ 32)))) ∧
      (∀ v, tabFind s.time.latches fn = some v → exec (.meridianHighRead fn) s =
        .next (emit { s with time := { s.time with latches := tabDel s.time.latches fn } } (.regData fn v)))) ∧
    (s.time.source ≠ 1 → edgeStray s = false →
      (s.time.seconds = none → exec .ppsEdge s = .next (datumNote s { s with time := { s.time with
        ppsAt := some s.clk.ticks, st := if s.time.st = .free then .acquiring else s.time.st } })) ∧
      (∀ v, s.time.seconds = some v →
        let u := takeOffset { s with time := { s.time with ppsAt := some s.clk.ticks, seconds := some ((v + 1) % 2 ^ 64), parent := 0x3F } } (aheadOf s (v * 4000000000))
        (u.time.st = .locked → exec .ppsEdge s = .next (datumNote s (lockBound { u with time := { u.time with stratum := 0 } }))) ∧
        (u.time.st ≠ .locked → exec .ppsEdge s = .next (datumNote s u)))) ∧
    (∀ a, s.time.ppsAt = some a → s.time.source ≠ 1 → let u := advanceTo s (a + 6000000000)
      let v := datumNote u { u with time := { u.time with ppsloss := true, ppsAt := none } };
      (v.time.source = 2 → exec .ppsLossTimeout s = .next (seekParent v)) ∧
      (v.time.source ≠ 2 → v.time.st = .locked → exec .ppsLossTimeout s = .next (toHoldover v)) ∧
      (v.time.source ≠ 2 → v.time.st ≠ .locked → exec .ppsLossTimeout s = .next v)) ∧
    (s.time.hold ≠ 0 → let u := advance s s.time.hold
      exec .meridianHoldEnd s = .next (datumNote u (lockBound { u with time := { u.time with
        st := .locked, lockedOnce := true, slew := 0, stratum := if fabricTime u then u.time.stratum else 0 } }))) ∧
    (n < 48 → (portAt s n).st = .up → let t := tabGet s.time.ports n {}
      let u := match t.sentAt with | some a => advanceTo s (a + s.time.syncper * usTicks) | none => s
      let w := modTPort u n fun x => { x with sentAt := some u.clk.ticks }
      exec (.timeSend n) s = .next (sendLocal w n { op := 6, service := 1, data := leBytes 8 0 ++ leBytes 8 t.rxTx ++ leBytes 8 t.rxAt ++ leBytes 1 w.time.stratum ++ leBytes 1 (syncCode w.time.st) ++ leBytes 2 0 ++ leBytes 4 (boundNow w) ++ List.replicate 176 0 })) ∧
    (∀ q p, inboxOf s 6 = some q → q.inPort = some p → let b := q.m.data
      let r2 := merAt s (srcPort p)
      let s1 := modTPort (doneMsg (police s q).1 q) p fun t => { t with stratum := fld b 24 4 0, bound := fieldAt b 28 4, child := names, rxTx := fieldAt b 0 8, rxAt := r2 }
      let s3 := followParent s1
      (fabricTime s1 = false → exec (.timeReceive names) s = .next s1) ∧
      (fabricTime s1 = true → s3.time.parent ≠ p → exec (.timeReceive names) s = .next s3) ∧
      (fabricTime s1 = true → s3.time.parent = p → fieldAt b 8 8 ≠ 0 →
        let fw : Int := (r2 : Int) - fieldAt b 0 8
        let bw : Int := (fieldAt b 16 8 : Int) - fieldAt b 8 8
        exec (.timeReceive names) s = .next (datumNote s3 (takeSample s3 p ((fw - bw).tdiv 2 - (tabGet s3.time.ports p {}).asym) ((fw + bw).tdiv 2))))) ∧
    (∀ a, s.time.acts.find? (fun a => decide (a.num = n)) = some a → a.change = none → let u := advanceMer s a.t
      u.time.armonly = false ∨ a.t = 0 → exec (.scheduledActionApply n) s = .next (applyAct u a))

/-- TIME.CONFIG sets ARMONLY, SYNCPER, SECONDS and SOURCE, and the ports' asymmetries from a host buffer (Table 14.9); TIME.STATUS writes the 48 port records and clears the discard counts. TIME.ARM of a change within reach sends ARM to every participant, with itself among them (R356); TIME.DISARM before T − GUARD sends DISARM and ends both commands (R358). A participant binds the actions at T and answers ARMED, or answers NOTARMED with its reason (R356); it holds CONFIRM until T and drops the bound actions LATE on DISARM. At T a participant that holds CONFIRM applies every bound action, an activation after its REPORT; another fences the services of SVCMASK, ends the commands MODE_FAULT and posts the record (R357). The coordinator counts ARMED, NOTARMED and REPORT, decides at T − GUARD, and ends TIME.ARM with the last REPORT or at T + GUARD (R356, R358). That TIME.CONFIG with the SOURCE in force is accepted while ACQUIRING is the model's choice (log 40). -/
def Obligations.ModeChangesComplete : Prop :=
  ∀ (s : State) (r : CmdRef) (x : Inflight) (id co : Nat),
    let u := begun s r
    let y := { x with started := true }
    let e := x.entry
    let up (st : State) (q : RMsg) : State := doneMsg (police st q).1 q
    (Takes s r 0x0201 x (chkTimeConfig r s e) → (s.time.st = .acquiring → parFld e 0 1 0 = s.time.source) →
      let set (st : State) : State := complete (setSource { st with time := { st.time with
        armonly := parFlg e 1 1, syncper := par e 4 2, seconds := if parFlg e 1 0 then some (par e 8 8) else st.time.seconds } } (parFld e 0 1 0)) r stOk 0 0;
      (par e 16 8 = 0 → exec (.timeConfig r) s = .next (set u)) ∧
      (par e 16 8 ≠ 0 → hostBuf x = none → exec (.timeConfig r) s = .next (askHost u y)) ∧
      (∀ bs, par e 16 8 ≠ 0 → hostBuf x = some bs → exec (.timeConfig r) s =
        .next (set ((List.range 48).foldl (fun st p => modTPort st p fun t => { t with asym := asymOf bs p }) u)))) ∧
    (Takes s r 0x0204 x (chkTimeStatus r s e) → exec (.timeStatus r) s = .next (complete ((List.range 48).foldl (fun st p =>
      if tabHas st.time.ports p then modTPort st p fun t => { t with discarded := 0 } else st)
        (cmdHostPut u y (par e 0 8) ((List.range 48).flatMap fun p => timeRec (tabGet u.time.ports p {})))) r stOk 0 0)) ∧
    (Takes s r 0x0202 x (chkTimeArm r s e) → let cid := par e 0 4
      let guard := par e 4 4 * usTicks
      let t := par e 8 8
      (∀ c ∈ s.time.coords, c.cmd ≠ r) → synced s = true → merNow s + 2 * guard ≤ t → s.time.coords.length < 64 → coordOf s cid = none →
      (hostBuf x = none → exec (.timeArm r) s = .next (askHost u y)) ∧
      (∀ bs, hostBuf x = some bs → let ms := distinctN ((words4 (par e 20 4) bs).map (· % 2 ^ 17))
        let c : CoordChange := { id := cid, t := t, guard := guard, svcmask := par e 16 1, cmd := r, parts := if s.fab.module ∈ (words4 (par e 20 4) bs).map (· % 2 ^ 17) then ms else s.fab.module :: ms }
        exec (.timeArm r) s = .next (sendParts { u with time := { u.time with coords := u.time.coords ++ [c] } } c 0x10))) ∧
    (∀ c, Takes s r 0x0203 x (noChecks s e) → coordOf s (par e 0 4) = some c → c.decided = none → merNow s < c.t - c.guard →
      exec (.timeDisarm r) s = .next (complete (disarm u c) r stOk 0 0)) ∧
    (∀ q, modeMsgOf s 0x10 = some q → let w := up s q
      let m := q.m
      let why := armRefuse w (modeT m) (modeMask m)
      let c : PartChange := { coord := modeCoord m, id := modeId m, t := modeT m, svcmask := modeMask m };
      (why ≠ 0 → exec .armMessage s = .next (routeAll (sendOrd w (modeMsg 0x12 why c.id c.coord c.t c.svcmask c.coord)))) ∧
      (why = 0 → exec .armMessage s = .next (routeAll (sendOrd { w with time := { w.time with
        acts := w.time.acts.map fun a => if a.t = c.t then { a with change := some (c.coord, c.id) } else a
        changes := w.time.changes ++ [c] } } (modeMsg 0x11 0 c.id c.coord c.t c.svcmask c.coord))))) ∧
    (∀ q, modeMsgOf s 0x13 = some q → let w := up s q
      let set (c : PartChange) : PartChange := if c.coord = modeCoord q.m ∧ c.id = modeId q.m then { c with verdict := some true } else c
      exec .confirmMessage s = .next { w with time := { w.time with changes := w.time.changes.map set } }) ∧
    (∀ q, modeMsgOf s 0x14 = some q → let w := dropChange (up s q) (modeCoord q.m) (modeId q.m)
      exec .disarmMessage s = .next ((boundActs w (modeCoord q.m) (modeId q.m)).foldl (dropEnd stLate) w)) ∧
    (∀ c, s.time.changes.find? (fun c => decide (c.coord = co ∧ c.id = id)) = some c →
      let w := dropChange (advanceMer s c.t) co id
      let acts := boundActs w co id
      let report (st : State) (k : Nat) : State := routeAll (sendOrd st (modeMsg 0x15 k id co c.t c.svcmask co));
      (c.verdict = some true → c.broken = false → (∀ a ∈ acts, canApply w a = true) → exec (.modeChangeActivate co id) s =
        .next ((acts.filter isFirmware).foldl applyAct (report ((acts.filter fun a => !isFirmware a).foldl applyAct w) 0))) ∧
      (c.verdict ≠ some true ∨ c.broken = true ∨ (∃ a ∈ acts, canApply w a = false) → exec (.modeChangeActivate co id) s =
        .next (report (postEvent (acts.foldl (dropEnd stModeFault) (fenceServices w c.svcmask)) srcCp 0x0302 0 0xFF id c.t 0) 1))) ∧
    (∀ q, modeMsgOf s 0x11 = some q → exec .armedMessage s = .next (modCoord (up s q) (modeId q.m) fun c =>
      if c.decided = none ∧ q.m.src ∈ c.parts ∧ q.m.src ∉ c.armed then { c with armed := c.armed ++ [q.m.src] } else c)) ∧
    (∀ q, modeMsgOf s 0x12 = some q → exec .notarmedMessage s = .next (modCoord (up s q) (modeId q.m) fun c =>
      { c with armed := c.armed.filter fun m => m ≠ q.m.src })) ∧
    (∀ c, coordOf s id = some c → c.decided = none → let w := advanceMer s (c.t - c.guard)
      ((∀ m ∈ c.parts, m ∈ c.armed) → exec (.armDecision id) s = .next (modCoord (sendParts w c 0x13) id fun d => { d with decided := some true })) ∧
      ((∃ m ∈ c.parts, m ∉ c.armed) → exec (.armDecision id) s = .next (disarm w c))) ∧
    (∀ q, modeMsgOf s 0x15 = some q → let f := q.m.src
      let w := modCoord (up s q) (modeId q.m) fun c =>
        if c.decided ≠ some true ∨ f ∉ c.parts ∨ f ∈ c.switched ∨ f ∈ c.faulted then c
        else if q.m.arg / 256 % 256 = 0 then { c with switched := c.switched ++ [f] } else { c with faulted := c.faulted ++ [f] };
      (coordOf w (modeId q.m) = none → exec .reportMessage s = .next w) ∧
      (∀ c, coordOf w (modeId q.m) = some c → exec .reportMessage s =
        .next (if c.switched.length + c.faulted.length = c.parts.length then endArm w c else w))) ∧
    (∀ c, coordOf s id = some c → c.decided = some true → exec (.reportDeadline id) s = .next (endArm (advanceMer s (c.t + c.guard)) c))

/-- Power within range begins a COLD start: below 1.0 L/min it halts for coolant, else the units that failed their tests are fenced, and too many of them, or a failed control die, end the start with a WARM reset (R441, R487, R492). The input's loss ends every activity. A flow of 4.5 L/min for 1 s ends the halt. PERST# held 100 µs and a link that goes down are CONV resets (R376). The link reaches L0 no earlier than 150 ms after power-up (R482). A reset of PF0, of a VF and of PF1 has its effects (R375); VF Enable and NumVFs make VFs appear or be removed (R364). A reset of a present function ends with READY, LASTRESET and IRQ_CAUSE.READY (R376), PF0's with the end of the start. -/
def Obligations.StartsAndHostResetsComplete : Prop :=
  ∀ (s : State) (cores hbms chans ports n t : Nat) (fail : Bool),
    let mh (st : State) (f : HostIf → HostIf) : State := { st with host := f st.host };
    (let z := if s.ctl.start = .off then s else powerGone s
      let w := modStore (coldStart z) fun v => { v with powerOn := z.store.powerOn };
      (∀ k, w.ctl.start = .coolant k → exec (.powerApplied cores hbms chans ports fail) s = .next w) ∧
      (∀ k c, w.ctl.start = .starting k c → exec (.powerApplied cores hbms chans ports fail) s = .next (bringUp w cores hbms chans ports fail))) ∧
    (s.ctl.start ≠ .off → exec .inputShutdown s = .next (powerGone s)) ∧
    (∀ k, s.ctl.start = .coolant k → 450 ≤ n → let w := advance s (1000 * msTicks)
      exec (.coolantWaitEnd n cores hbms chans ports fail) s =
        .next (bringUp { w with power := { w.power with flow := n }, ctl := { w.ctl with start := .starting w.clk.ticks true } } cores hbms chans ports fail)) ∧
    (s.host.perst = false → ctlRuns s = true →
      exec .perstAssert s = .next (convReset (mh (advance s (100 * usTicks)) fun h => { h with perst := true, linkUp := false, link := none }))) ∧
    exec .perstDeassert s = .next (mh s fun h => { h with perst := false }) ∧
    (s.host.perst = false → s.host.linkUp = false → ctlRuns s = true → linkOk n t = true → 0 ∉ s.power.extest →
      let w := advanceTo s (150 * msTicks)
      exec (.pcieLinkUp n t) s = .next (mh w fun h => { h with linkUp := true, link := some (n, t), linkAt := w.clk.ticks })) ∧
    (s.host.linkUp = true → exec .pcieLinkReset s = .next (mh (convReset s) fun h => { h with link := none })) ∧
    (ctlRuns s = true → exec .flrPf0 s = .next (removeVfs (applyReset s .flr0 0 3) (vfsNow s) 3) ∧
      exec .flrPf1 s = .next (applyReset s .flr1 0 3) ∧
      (1 ≤ t → t ≤ 63 → fnPresent s t = true → exec (.flrVf t) s = .next (applyReset s .tenant t 3))) ∧
    (s.host.vfEnable = false → exec (.vfEnableWrite true) s =
      .next ((vfRange 1 s.host.numVfs).foldl appearVf (mh s fun h => { h with vfEnable := true }))) ∧
    (s.host.vfEnable = true → exec (.vfEnableWrite false) s =
      .next (removeVfs (mh ((vfsNow s).foldl (fun st t => applyReset st .tenant t 3) s) fun h => { h with vfEnable := false }) (vfsNow s) 3)) ∧
    (n ≤ 63 →
      (s.host.vfEnable = false → exec (.numvfsWrite n) s = .next (mh s fun h => { h with numVfs := n })) ∧
      (s.host.vfEnable = true → s.host.numVfs ≤ n → exec (.numvfsWrite n) s =
        .next ((vfRange (s.host.numVfs + 1) n).foldl appearVf (mh s fun h => { h with numVfs := n }))) ∧
      (s.host.vfEnable = true → n < s.host.numVfs → let vfs := vfRange (n + 1) s.host.numVfs
        exec (.numvfsWrite n) s = .next (removeVfs (mh (vfs.foldl (fun st t => applyReset st .tenant t 4) s) fun h => { h with numVfs := n }) vfs 4))) ∧
    (∀ r, tabFind s.host.resets n = some r → ctlRuns s = true → resetBusy s n r = false → (r.kind = .conv → s.host.linkUp = true) →
      let fin (st : State) : State := modFunc (mh st fun h => { h with resets := tabDel h.resets n }) n fun f => { f with ready := true, lastReset := r.code, wasPresent := true };
      (∀ cold, startingCold s = some cold → n = 0 → exec (.resetComplete 0) s = .next (irqSet (fin (startDone s cold)) 0 irqReady)) ∧
      (startingCold s = none → (s.ctl.recovery = true → n = 0) → fnPresent s n = true →
        exec (.resetComplete n) s = .next (if n = 64 then fin s else irqSet (fin s) n irqReady)))

/-- A BAR2 read or write inside the window of a present function counts at port 48 and the function, and waits in arrival order, or, before READY, is answered all-ones or dropped (R366, R367, R376); a read that waited 8 ms is answered all-ones with IRQ_CAUSE.BAR2TO. A misaligned BAR0 access sets ACCERR (R365). WIN_BASE commits. A moderation timer and an unmasked vector let their message out (R370). An Invalidate Request drops the ATC's pages and joins those that wait, at most 32 (R363, R372). A completion brings the device its data, or an error or the timeout fails its transfer (R373). A good commit of an ingress entry takes its shadows, a bad one sets CBAD (R374). A register write writes each of its words; a TAP load records the instruction, and EXTEST cuts the die's I/O (R9, R443, R493). What other instructions do where debug is open the spec does not say. -/
def Obligations.HostAccessesComplete : Prop :=
  ∀ (s : State) (fn n v k : Nat) (bs : Bytes) (x : HostXfer) (b : Bool),
    let mh (st : State) (f : HostIf → HostIf) : State := { st with host := f st.host }
    let f := funcAt s fn;
    (bar2Hit s fn n k = true → k ≤ 4096 → let w := tlpIn s fn 0;
      (f.ready = false → exec (.bar2Read fn v n k) s = .next (emit w (.hostData fn v (onesBytes k)))) ∧
      (f.ready = true → exec (.bar2Read fn v n k) s = .next (barArrive w fn (.rd v (f.winBase * 65536 + n) k (s.clk.ticks + 8 * msTicks) false none)))) ∧
    (bar2Hit s fn n bs.length = true → bs.length ≤ 512 → let w := tlpIn s fn bs.length;
      (f.ready = false → exec (.bar2Write fn n bs) s = .next w) ∧
      (f.ready = true → exec (.bar2Write fn n bs) s = .next (barArrive w fn (.wr (f.winBase * 65536 + n) bs false)))) ∧
    (∀ tag va len dl sent got, f.barq.find? isRd = some (.rd tag va len dl sent got) →
      let w := orphanRems (modFunc (advanceTo s dl) fn fun g => { g with barq := dropRd g.barq }) fun o => match o with | .host g t => decide (g = fn ∧ t = tag) | _ => false;
      exec (.bar2ReadTimeout fn) s = .next (serveAll (irqSet (emit w (.hostData fn tag (onesBytes len))) fn irqBar2to))) ∧
    (fn < 64 → fnPresent s fn = true →
      (let w := irqSet (tlpIn s fn 0) fn irqAccerr;
        exec (.bar0BadAccess fn b) s = .next (if b then emit w (.regData fn 0) else w)) ∧
      exec (.winBaseWrite fn true v) s = .next (modFunc (tlpIn s fn 8) fn fun g => { g with winLow := bitsOf v 31 16, winBase := bitsOf v 56 32 * 2 ^ 16 + bitsOf v 31 16 }) ∧
      exec (.winBaseWrite fn false v) s = .next (modFunc (tlpIn s fn 4) fn fun g => { g with winLow := f.winLow, winBase := v % 2 ^ 25 * 2 ^ 16 + f.winLow }) ∧
      ((s.host.inval.filter fun q => q.1 = fn).length < 32 → exec (.atsInvalidate fn n k) s = .next (settleInval (mh s fun h => { h with
        atc := h.atc.filter fun e => !(decide (e.1 = fn ∧ n ≤ e.2.2 ∧ e.2.2 < n + k)), inval := h.inval ++ [(fn, n, k)] })))) ∧
    (∀ t, (vecAt f n).due = some t → let w := advanceTo s t
      let z := vecAt f n
      exec (.msixModerationTimer fn n) s = .next (if vecMasked f z then putVec w fn n { z with pba := true, count := 0, due := none } else sendMsix w fn n z)) ∧
    (fnPresent s fn = true →
      (n < vecCount fn → exec (.msixUnmask fn (some n)) s = .next (sendPending fn (putVec s fn n { vecAt f n with mask := false }) n)) ∧
      (let w := modFunc s fn fun g => { g with msixMask := false };
        exec (.msixUnmask fn none) s = .next (((funcAt w fn).vecs.map (·.1)).foldl (sendPending fn) w))) ∧
    (x ∈ s.host.reads → let who := xferWho s x
      let w := tlpIn (dropRead s x) who.1 bs.length;
      (∀ r, x = .cmd r → exec (.hostCompletion x 0 n bs) s = .next (settleInval (modInfl (mh w fun h => noteAtc h who.1 7 n (mboxPasid s r.fn r.mbox)) r fun y => { y with hdata := some bs }))) ∧
      (∀ i, x = .stream i → exec (.hostCompletion x 0 n bs) s = .next (settleInval (consArrive (mh w fun h => noteAtc h who.1 7 n none) i (fieldAt bs 0 8)))) ∧
      (∀ q c, x = .nvme q c → exec (.hostCompletion x 0 n bs) s = .next (settleInval (nvArrive (mh w fun h => noteAtc h who.1 7 n none) q c 0 bs))) ∧
      (∀ t p, x = .t3 t p → exec (.hostCompletion x 0 n bs) s = .next (settleInval (mh w fun h => noteAtc h who.1 5 n none)))) ∧
    (canFail s x k = true → (k = 1 ∨ k = 2 ∨ k = 3 ∨ k = 5) → exec (.hostCompletion x k n bs) s = .next (serveAll (settleInval (xferFail s x n k)))) ∧
    (canFail s x 4 = true → exec (.completionTimeout x n) s = .next (serveAll (settleInval (xferFail s x n 4)))) ∧
    (fn ≤ 64 → let w := modIngress (tlpIn s 0 4) fn fun g => { g with shWord := bitsOf v 30 29 * 2 ^ 29 + bitsOf v 23 0 }
      let g := ingressSet (ingressAt w fn);
      (bitOf v 31 = false → exec (.hostIngressCommit fn v) s = .next w) ∧
      (bitOf v 31 = true → bucketGood g = true → exec (.hostIngressCommit fn v) s =
        .next (serveAll (modIngress w fn fun i => { i with bucket := bucketCommit i.bucket (ingressSet i) (grainAt w (srcFn 0)) }))) ∧
      (bitOf v 31 = true → bucketGood g = false → exec (.hostIngressCommit fn v) s = .next (mh w fun h => { h with hqCbad := true }))) ∧
    (fnPresent s fn = true → ctlRuns s = true →
      (∀ z : Nat, let w := if fn = 64 then s else tlpIn s fn 4;
        n % 4 = 0 → exec (.registerWrite fn (.bar0 n 4 z)) s = .next (writeWord fn w n (z % 2 ^ 32))) ∧
      (∀ z : Nat, let w := if fn = 64 then s else tlpIn s fn 8;
        n % 8 = 0 → exec (.registerWrite fn (.bar0 n 8 z)) s = .next (writeWord fn (writeWord fn w n (z % 2 ^ 32)) (n + 4) (z / 2 ^ 32 % 2 ^ 32))) ∧
      (∀ en fm, let w := modFunc s fn fun g => { g with msixEn := en, msixMask := fm }
        exec (.registerWrite fn (.msixControl en fm)) s = .next (((funcAt w fn).vecs.map (·.1)).foldl (sendPending fn) w)) ∧
      (fn ≠ 64 → exec (.registerWrite fn (.atsEnable b)) s = .next (modFunc s fn fun g => { g with atsEn := b }) ∧
        exec (.registerWrite fn (.pasidEnable b)) s = .next (modFunc s fn fun g => { g with pasidEn := b }))) ∧
    (n < 20 → s.ctl.start ≠ .off → let tap (i : TapInstr) : State := { s with ctl := { s.ctl with tap := tabPut s.ctl.tap n i } }
      exec (.jtagInstructionLoad n .bypass) s = .next (tap .bypass) ∧ exec (.jtagInstructionLoad n .sample) s = .next (tap .sample) ∧
      exec (.jtagInstructionLoad n .idcode) s = .next (tap .idcode) ∧
      (debugOpen s.ctl = false → exec (.jtagInstructionLoad n (.other k)) s = .next (tap (.other k))) ∧
      (let ex := s.power.extest
        let w : State := { tap .extest with power := { s.power with extest := if n ∈ ex then ex else ex ++ [n] } };
        (n = 0 → exec (.jtagInstructionLoad n .extest) s = .next (if s.host.linkUp then mh (convReset w) fun h => { h with link := none } else w)) ∧
        (1 ≤ n → n ≤ 6 → exec (.jtagInstructionLoad n .extest) s = .next ((List.range 8).foldl (fun st j => portDown st (8 * (n - 1) + j)) w)) ∧
        (7 ≤ n → exec (.jtagInstructionLoad n .extest) s = .next w)))

/-- An admin command that arbitration gives or that was taken before, with room for its completion, has its effect and completes: the queue commands create and delete I/O queues; Identify and Get Log Page write their data to the host (Table 17.3), reading a page ends the masking of its event; Set and Get Features act on the supported features, PS2 only while no T4 pool and no copy uses the flash (R425); Abort aborts a command that has not begun; an Asynchronous Event Request waits; Namespace Management creates a namespace of the least free identifier or deletes namespaces without locks, Namespace Attachment attaches and detaches (R415); Format and Sanitize erase what no lock holds (R415, R422); a command the controller lacks ends with Invalid Opcode (R416). Encodings and statuses are those of the NVM Express specifications that R416 names, taken from outside the spec (log 11). -/
def Obligations.NvmeAdminComplete : Prop :=
  ∀ (s u : State) (sq cid : Nat) (entry : Bytes) (c : NvCmd),
    let T (op : Nat) : Prop := NvTakes s sq cid entry true op u c
    let ms (st : State) (f : Store → Store) : State := { st with store := f st.store }
    let q := cdw c 10 % 65536
    let h := cdw c 10 / 65536
    let w := cdw c 11
    let n := nvNsid c
    let fid := cdw c 10 % 256;
    (T 0x05 → 1 ≤ q → q ≤ 128 → ioCqAt u q = none → 1 ≤ h → w % 2 = 1 → w / 65536 ≤ 128 → fieldAt c.e 24 8 % nvPage u = 0 → exec (.nvmeCreateIoCq sq cid entry) s =
      .next (nvDone (ms u fun v => { v with cqs := tabPut v.cqs q { base := fieldAt c.e 24 8, size := h + 1, vector := w / 65536, ien := bitOf w 1 } }) c 0 0)) ∧
    (T 0x01 → 1 ≤ q → q ≤ 128 → ioSqAt u q = none → 1 ≤ h → w % 2 = 1 → w / 65536 ≠ 0 → (ioCqAt u (w / 65536)).isSome → fieldAt c.e 24 8 % nvPage u = 0 →
      exec (.nvmeCreateIoSq sq cid entry) s =
      .next (nvDone (ms u fun v => { v with sqs := tabPut v.sqs q { base := fieldAt c.e 24 8, size := h + 1, cq := w / 65536, prio := bitsOf w 2 1 } }) c 0 0)) ∧
    (T 0x00 → q ≠ 0 → (ioSqAt u q).isSome →
      let z := dropChanOps (ms u fun v => { v with sqs := tabDel v.sqs q, cmds := v.cmds.filter fun x => decide (x.sq ≠ q) }) fun o => match o with | .nvme a _ _ => decide (a = q) | .dma _ _ => false;
      exec (.nvmeDeleteIoSq sq cid entry) s = .next (nvDone { z with host := { z.host with reads := z.host.reads.filter fun x => match x with | .nvme a _ => decide (a ≠ q) | _ => true } } c 0 0)) ∧
    (T 0x04 → q ≠ 0 → (ioCqAt u q).isSome → (∀ x ∈ u.store.sqs, x.2.cq ≠ q) → exec (.nvmeDeleteIoCq sq cid entry) s =
      .next (nvDone (ms u fun v => { v with cqs := tabDel v.cqs q }) c 0 0)) ∧
    (∀ bs, T 0x06 → idData u c = .ok bs → NvFits u c bs.length → exec (.nvmeIdentify sq cid entry) s = .next (nvDone (nvWrite u c bs) c 0 0)) ∧
    (∀ p, T 0x02 → logPage u fid = some p → let off := fieldAt c.e 48 8
      let bs := padTo ((h + w % 65536 * 65536 + 1) * 4) (p.drop off)
      off ≤ p.length → off % 4 = 0 → (fid = 2 → n = 0 ∨ n = 0xFFFFFFFF) → NvFits u c bs.length →
      exec (.nvmeGetLogPage sq cid entry) s = .next (nvDeliver 8 (nvDone (logRead (nvWrite u c bs) c fid) c 0 0))) ∧
    (T 0x09 → bitOf (cdw c 10) 31 = false →
      (fid = 2 → w ≤ 2 → (w = 2 → u.atlas.t4Pool = 0 ∧ dmaNs u = false) → exec (.nvmeSetFeatures sq cid entry) s =
        .next (nvDone (ms u fun v => { v with ps := w, psNow := if u.power.stage = 4 then 2 else heldPs u w }) c 0 0)) ∧
      (fid = 4 → (bitsOf w 19 16 = 0 ∨ bitsOf w 19 16 = 15) → bitsOf w 21 20 ≤ 1 → w / 2 ^ 22 = 0 → exec (.nvmeSetFeatures sq cid entry) s =
        .next (nvDone (critNote u (setFeat u 4 (bitsOf w 21 20 * 16) (w % 65536))) c 0 0)) ∧
      (fid = 5 → w / 2 ^ 16 = 0 → exec (.nvmeSetFeatures sq cid entry) s = .next (nvDone (setFeat u 5 0 w) c 0 0)) ∧
      (fid = 6 → w / 2 = 0 → exec (.nvmeSetFeatures sq cid entry) s = .next (nvDone (setFeat u 6 0 w) c 0 0)) ∧
      (fid = 7 → w % 65536 ≠ 65535 → w / 65536 ≠ 65535 → exec (.nvmeSetFeatures sq cid entry) s = .next (nvDone u c 0 (127 + 127 * 65536))) ∧
      (fid = 9 → w % 65536 ≤ 128 → w / 2 ^ 17 = 0 → exec (.nvmeSetFeatures sq cid entry) s = .next (nvDone (setFeat u 9 (w % 65536) w) c 0 0)) ∧
      (∀ d, fid = 0x0C → w / 2 = 0 → NvFits u c 256 → c.hdata = some d → let es := (List.range 32).map fun i => fieldAt (padTo 256 d) (8 * i) 8;
        (∀ e ∈ es, bitsOf e 7 3 ≤ 2 ∧ (u.atlas.t4Pool = 0 ∨ e / 256 = 0 ∨ bitsOf e 7 3 ≠ 2)) → exec (.nvmeSetFeatures sq cid entry) s =
          .next (nvDone (ms (setFeat u 0x0C 0 w) fun v => { v with apst := enumFrom 0 es }) c 0 0)) ∧
      (∀ d, fid = 0x0E → NvFits u c 8 → c.hdata = some d → exec (.nvmeSetFeatures sq cid entry) s =
        .next (nvDone (ms u fun v => { v with stamp := (fieldAt (padTo 8 d) 0 6, u.clk.ticks) }) c 0 0)) ∧
      (fid = 1 ∨ fid = 8 ∨ fid = 0x0B → exec (.nvmeSetFeatures sq cid entry) s = .next (nvDone (setFeat u fid 0 w) c 0 0))) ∧
    (T 0x0A → bitsOf (cdw c 10) 10 8 = 0 →
      (fid = 2 → exec (.nvmeGetFeatures sq cid entry) s = .next (nvDone u c 0 u.store.ps)) ∧
      (fid = 4 → bitsOf w 19 16 = 0 → exec (.nvmeGetFeatures sq cid entry) s = .next (nvDone u c 0 (featAt u 4 (bitsOf w 21 20 * 16)))) ∧
      (fid = 9 → w % 65536 ≤ 128 → exec (.nvmeGetFeatures sq cid entry) s = .next (nvDone u c 0 (featAt u 9 (w % 65536) / 65536 * 65536 + w % 65536))) ∧
      (let bs := (List.range 32).flatMap fun i => leBytes 8 (tabGet u.store.apst i 0);
        fid = 0x0C → NvFits u c bs.length → let z := nvWrite u c bs
        exec (.nvmeGetFeatures sq cid entry) s = .next (nvDone z c 0 (featAt z 0x0C 0))) ∧
      (let bs := leBytes 6 (stampNow u) ++ leBytes 2 2;
        fid = 0x0E → NvFits u c bs.length → exec (.nvmeGetFeatures sq cid entry) s = .next (nvDone (nvWrite u c bs) c 0 0)) ∧
      (fid ∈ [1, 5, 6, 7, 8, 0x0B] → exec (.nvmeGetFeatures sq cid entry) s = .next (nvDone u c 0 (featAt u fid 0)))) ∧
    (T 0x08 → let found := u.store.cmds.find? fun x => decide (x.sq = q ∧ x.cid = h ∧ !(q = sq ∧ h = cid));
      (∀ x, found = some x → x.started = false → nvRoom u q = true → let z := nvDone u x nvAborted 0
        nvRoom z sq = true → exec (.nvmeAbort sq cid entry) s = .next (nvDone z c 0 0)) ∧
      (∀ x, found = some x → x.started = false → nvRoom u q = false → exec (.nvmeAbort sq cid entry) s = .next (nvDone (modNv u x fun y => { y with aborted := true }) c 0 0)) ∧
      (found = none ∨ (∃ x, found = some x ∧ x.started = true) → exec (.nvmeAbort sq cid entry) s = .next (nvDone u c 0 1))) ∧
    (T 0x0C → u.store.aers.length < 8 → exec (.nvmeAsyncEventRequest sq cid entry) s =
      .next (nvDeliver 8 (ms u fun v => { v with aers := v.aers ++ [cid], cmds := v.cmds.filter fun x => decide ¬(x.sq = c.sq ∧ x.cid = c.cid) }))) ∧
    (T 0x0D → inTrial u = false →
      (∀ d i, cdw c 10 % 16 = 0 → NvFits u c 4096 → c.hdata = some d → let p := padTo 4096 d
        let size := fieldAt p 0 8
        let big := decide (byteAt p 26 % 16 = 1)
        byteAt p 26 ≤ 1 → byteAt p 29 = 0 → byteAt p 30 = 0 → size ≠ 0 → fieldAt p 8 8 = size →
        nsCap u + size * (if big then 4096 else 512) ≤ usableFlash - u.atlas.t4Pool * 4096 → tabGap u.store.nss 1 33 = some i → exec (.nvmeNamespaceManagement sq cid entry) s =
          .next (nvDone (ms u fun v => { v with nss := tabPut v.nss i { nsze := size, big := big, key := v.nextWb + 1 } }) c 0 i)) ∧
      (let gone := if n = 0xFFFFFFFF then u.store.nss.map (·.1) else [n];
        cdw c 10 % 16 = 1 → (n = 0xFFFFFFFF ∨ (nsAt u n).isSome) → (∀ i ∈ gone, nsLocked u i = false) → exec (.nvmeNamespaceManagement sq cid entry) s =
          .next (nvDone (gone.foldl (fun st i => wipeNs st i true) u) c 0 0))) ∧
    (∀ x d, T 0x15 → inTrial u = false → cdw c 10 % 16 ≤ 1 → nsAt u n = some x → NvFits u c 4096 → c.hdata = some d →
      fieldAt (padTo 4096 d) 0 2 = 1 → fieldAt (padTo 4096 d) 2 2 = 0 → x.attached = decide (cdw c 10 % 16 = 1) → exec (.nvmeNamespaceAttachment sq cid entry) s =
        .next (nvDone (ms u fun v => { v with nss := tabPut v.nss n { x with attached := decide (cdw c 10 % 16 = 0) } }) c 0 0)) ∧
    (T 0x80 → inTrial u = false → cdw c 10 % 16 ≤ 1 → bitsOf (cdw c 10) 8 4 = 0 → bitsOf (cdw c 10) 11 9 ≤ 2 → (n = 0xFFFFFFFF ∨ (nsSeen u n).isSome) → spareOut u = false →
      NvFree u c (nvRanges u c) true → let z := nvBegun u c
      let big := decide (cdw c 10 % 16 = 1)
      exec (.nvmeFormatNvm sq cid entry) s = .next (nvDone (((z.store.nss.filter fun p => decide (n = 0xFFFFFFFF ∨ p.1 = n)).map (·.1)).foldl (fun a i => ms (eraseNs a i) fun v => { v with
        nss := tabUpd v.nss i fun x => { x with big := big, nsze := nsBytesOf x / (if big then 4096 else 512) } }) z) { c with started := true } 0 0)) ∧
    (T 0x84 → inTrial u = false → let act := cdw c 10 % 8;
      (act = 1 → exec (.nvmeSanitize sq cid entry) s = .next (nvDone u c 0 0)) ∧
      (act = 2 ∨ act = 4 → spareOut u = false → NvFree u c (nvRanges u c) true → let z := nvBegun u c
        exec (.nvmeSanitize sq cid entry) s =
          .next (nvDone ((z.store.nss.map (·.1)).foldl (fun a i => if act = 4 then eraseNs a i else wipeNs a i false) z) { c with started := true } 0 0))) ∧
    (nvTake s sq cid entry = some (u, c) → nvRoom u sq = true →
      byteAt c.e 0 ∉ (if sq = 0 then [0x00, 0x01, 0x02, 0x04, 0x05, 0x06, 0x08, 0x09, 0x0A, 0x0C, 0x0D, 0x15, 0x80, 0x84] else [0x00, 0x01, 0x02, 0x08, 0x09]) →
      exec (.nvmeAbsentCommand sq cid entry) s = .next (nvDone u c nvBadOp 0))

/-- A Read of LBAs that an attached namespace holds queues the reads of its units at their channels, and completes with the data, or with a media error where a unit's data are lost (R417, R420). A Write asks for its data and puts them in the write buffer while that has room; it completes then, or once durable where FUA is set or the write cache is off (R418); Write Zeroes likewise; a Flush completes once the buffer it found is durable; Dataset Management deallocates whole units (R426). No lock stands against them (R422). A doorbell sets a queue's tail or head, or posts an error event for a queue or value that is none (R416). A shutdown notification writes CC.SHN (R418). The aggregation timer sends the held interrupt; the idle timer of APST enters its state, PS2 only while nothing else uses the flash (R425). What the NVM Express specifications fix is taken from outside the spec (log 11). -/
def Obligations.NvmeIoComplete : Prop :=
  ∀ (s u : State) (sq cid : Nat) (entry : Bytes) (c : NvCmd) (ns : Ns),
    let T (op : Nat) : Prop := NvTakes s sq cid entry false op u c
    let ms (st : State) (f : Store → Store) : State := { st with store := f st.store }
    let n := nvNsid c
    let off := ioSlba c * lbaBytes ns
    let len := ioNlb c * lbaBytes ns
    let rs := [(n, ioSlba c, ioNlb c)]
    let fua := bitOf (cdw c 12) 30
    let z := nvBegun u c
    let c1 := { c with started := true }
    let seen : Prop := 1 ≤ n ∧ n ≤ 32 ∧ nsSeen u n = some ns ∧ ns.attached = true
    let held : Prop := seen ∧ ioSlba c + ioNlb c ≤ ns.nsze;
    (T 0x02 → held → len ≤ mdts →
      (NvFree u c rs false → exec (.nvmeRead sq cid entry) s = .next (queueReads z (nvClass z c.sq) (.nvme c.sq c.cid) (mediaUnits z n off len))) ∧
      (c.started = true → nvReading u c = false → c.failed = false → readLost u n off len = false → let bs := nsReads u n off len
        NvFits u c bs.length → exec (.nvmeRead sq cid entry) s =
          .next (nvDone (ms (nvWrite u c bs) fun v => { v with reads := v.reads + 1, bytesRead := v.bytesRead + len }) c 0 0)) ∧
      (c.started = true → nvReading u c = false → (c.failed = true ∨ readLost u n off len = true) → exec (.nvmeRead sq cid entry) s =
        .next (nvDone (ms u fun v => { v with mediaErrors := v.mediaErrors + 1 }) c nvReadErr 0))) ∧
    (∀ k, c.after = some k → wbDurable u k = true →
      (T 0x01 → exec (.nvmeWrite sq cid entry) s = .next (nvDone u c 0 0)) ∧ (T 0x08 → exec (.nvmeWriteZeroes sq cid entry) s = .next (nvDone u c 0 0)) ∧
      (T 0x00 → exec (.nvmeFlush sq cid entry) s = .next (nvDone u c 0 0)) ∧ (T 0x09 → exec (.nvmeDatasetManagement sq cid entry) s = .next (nvDone u c 0 0))) ∧
    (T 0x01 → c.after = none → held → len ≤ mdts → spareOut u = false →
      (NvFree u c rs true → c.hdata = none → NvFits z c1 len → exec (.nvmeWrite sq cid entry) s = .next (nvAsk z c1 false)) ∧
      (∀ d, c.started = true → c.hdata = some d → NvFits u c len → wbUsed u + len ≤ 2 ^ 30 → exec (.nvmeWrite sq cid entry) s =
        .next (wrDone (wbPush u { nsid := n, off := off, len := len, data := padTo len d }) c fua len))) ∧
    (T 0x08 → c.after = none → held → spareOut u = false → NvFree u c rs true → exec (.nvmeWriteZeroes sq cid entry) s =
      .next (wrDone (wbPush z { nsid := n, off := off, len := len, drop := bitOf (cdw c 12) 25 }) c1 fua 0)) ∧
    (T 0x00 → c.after = none → (n = 0xFFFFFFFF ∨ seen) → NvFree u c [] true →
      (u.store.wb = [] → exec (.nvmeFlush sq cid entry) s = .next (nvDone z c1 0 0)) ∧
      (u.store.wb ≠ [] → exec (.nvmeFlush sq cid entry) s = .next (modNv z c1 fun y => { y with after := some (z.store.nextWb - 1) }))) ∧
    (∀ d, T 0x09 → c.after = none → seen → let m := 16 * (cdw c 10 % 256 + 1)
      let c0 := { c with hdata := some (padTo m d) }
      let rs := nvRanges u c0
      let z := nvBegun u c0
      let z2 := rs.foldl (fun a r => if r.2.2 = 0 then a else wbPush a { nsid := r.1, off := r.2.1 * lbaBytes ns, len := r.2.2 * lbaBytes ns, drop := true }) z
      NvFits u c m → c.hdata = some d → (∀ r ∈ rs, r.2.1 + r.2.2 ≤ ns.nsze) →
      (bitOf (cdw c 11) 2 = false → exec (.nvmeDatasetManagement sq cid entry) s = .next (nvDone u c 0 0)) ∧
      (bitOf (cdw c 11) 2 = true → spareOut u = false → NvFree u c0 rs true → exec (.nvmeDatasetManagement sq cid entry) s =
        .next (if featAt z2 6 0 % 2 = 0 ∧ z2.store.wb ≠ [] then modNv z2 { c0 with started := true } fun y => { y with after := some (z2.store.nextWb - 1) }
          else nvDone z2 { c0 with started := true } 0 0))) ∧
    (∀ k value, let w := countEv s (srcFn 64) 0x0802 0
      nvUp w = true →
      (∀ x, ioSqAt w k = some x → value < x.size → exec (.nvmeDoorbellWrite (0x1000 + 8 * k) value) s = .next (ms w fun v => { v with sqs := tabPut v.sqs k { x with tail := value } })) ∧
      (∀ x, ioCqAt w k = some x → value < x.size → exec (.nvmeDoorbellWrite (0x1004 + 8 * k) value) s =
        .next (nvDeliver 8 (ms w fun v => { v with cqs := tabPut v.cqs k { x with head := value } }))) ∧
      (∀ x, ioSqAt w k = some x → x.size ≤ value → exec (.nvmeDoorbellWrite (0x1000 + 8 * k) value) s = .next (nvEvent w (0, 1, 1))) ∧
      (∀ x, ioCqAt w k = some x → x.size ≤ value → exec (.nvmeDoorbellWrite (0x1004 + 8 * k) value) s = .next (nvEvent w (0, 1, 1))) ∧
      (ioSqAt w k = none → exec (.nvmeDoorbellWrite (0x1000 + 8 * k) value) s = .next (nvEvent w (0, 0, 1))) ∧
      (ioCqAt w k = none → exec (.nvmeDoorbellWrite (0x1004 + 8 * k) value) s = .next (nvEvent w (0, 0, 1)))) ∧
    (∀ shn, (funcAt s 64).ready = true → exec (.nvmeShutdownNotify shn) s = .next (writeCc s (s.store.cc % 2 ^ 14 + shn % 4 * 2 ^ 14 + s.store.cc / 2 ^ 16 * 2 ^ 16))) ∧
    (∀ q x, ioCqAt s q = some x → x.held ≠ 0 → let w := advanceTo s (x.heldAt + featAt s 8 0 / 256 % 256 * 100 * usTicks)
      exec (.interruptCoalescingTimer q) s = .next (msixEvent (ms w fun v => { v with cqs := tabPut v.cqs q { x with held := 0 } }) 64 x.vector)) ∧
    (let e := tabGet s.store.apst s.store.psNow 0
      let p := bitsOf e 7 3
      let w := advanceTo s (s.store.lastIo + e / 256 % 2 ^ 24 * msTicks)
      featAt s 0x0C 0 % 2 = 1 → e / 256 % 2 ^ 24 ≠ 0 → nvBusy s = false → (p = 2 → s.atlas.t4Pool = 0 ∧ dmaNs s = false) →
        exec .apstIdleTimer s = .next (ms w fun v => { v with psNow := heldPs w p }))

/-- An enabled channel outside PS2 starts a critical garbage collection, else serves the oldest urgent read, else the weighted classes by deficit round-robin, else collects a block that frees something (Table 17.4). The write buffer's oldest write is programmed and made durable (R418, R426). A copy whose blocks read back below the refresh threshold switches its mappings and the source is erased (R427); else it is abandoned and its block fails. A program failure closes and retires an open block or the target of a copy; an erase failure retires the block at once; a read that fails loses its unit, and the reads that wait for it learn of it (R428). An erased block joins the free list. A pending lock turns active once nothing that executes overlaps it, and ends its STORE.LOCK; an explicit lock is released at its time (R422, R423). -/
def Obligations.FlashWorkComplete : Prop :=
  ∀ (s : State) (c b p : Nat) (high : List Nat),
    let ch := chanAt s c
    let ms (st : State) (f : Store → Store) : State := { st with store := f st.store }
    let live := t4Live s;
    (c < 40 → s.enChans.getLsbD c = true → s.store.psNow ≠ 2 → let src := gcPick s c;
      (∀ k, src = some k → gcCritical s c k = true → exec (.channelSchedule c) s = .next (gcStart s live c k)) ∧
      ((∀ k, src = some k → gcCritical s c k = false) →
        (∀ o, opOf ch .urgent = some o → exec (.channelSchedule c) s = .next (serveOp s c o)) ∧
        (opOf ch .urgent = none → (∃ i < 5, wrrHas s c src i = true) → exec (.channelSchedule c) s = .next (wrrServe s c (wrrHas s c src) (wrrDo live c src) 12)) ∧
        (∀ k, opOf ch .urgent = none → (∀ i < 5, wrrHas s c src i = false) → src = some k → exec (.channelSchedule c) s = .next (gcStart s live c k)))) ∧
    (∀ e rest w, s.store.wb = e :: rest → (s.store.psNow ≠ 2 ∨ s.power.stage ≠ 4) → programEnt s e = some w →
      exec .writeBufferProgram s = .next (nvShutdown (ms w fun v => { v with wb := rest }))) ∧
    (∀ g, ch.gc = some g → let w := high.foldl (fun st k => modChan st c fun x => { x with blocks := tabUpd x.blocks k fun y => { y with refresh := true } }) s;
      (g.dst ∈ high → exec (.gcCopyVerified c high) s = .next (failBlk (gcAbandonRun w c) live c g.dst 1)) ∧
      (g.dst ∉ high → let v := g.copied.foldl (gcSwitch c g.src g.dst) (modChan w c fun x => { x with gc := none })
        exec (.gcCopyVerified c high) s = .next (critNote s (gcFinish v (t4Live v) c g.src)))) ∧
    (∀ g, ch.gc = some g → g.dst = b → exec (.flashProgramFail c b) s = .next (critNote s (failBlk (gcAbandonRun s c) live c b 1))) ∧
    ((∀ g, ch.gc = some g → g.dst ≠ b) → (ch.openHost = some b ∨ ch.openT4 = some b) → exec (.flashProgramFail c b) s = .next (critNote s (failBlk s live c b 1))) ∧
    (b ∈ ch.erasing → exec (.flashEraseFail c b) s = .next (critNote s (retireBlk s c b 2)) ∧
      exec (.eraseComplete c b) s = .next (countEv (modChan s c fun x => { x with
        erasing := x.erasing.filter (· ≠ b), taken := x.taken.filter (· ≠ b), erases := x.erases + 1 }) (srcChan c) 0x0703 0xFF)) ∧
    (∀ x k, tabFind ch.blocks b = some x → tabFind x.valid p = some k →
      let w := ms (unmapUnit s k) fun v => { v with lostUnits := k :: v.lostUnits }
      let hit := (chanAt w c).ops.filter fun o => match o.2 with | .nvme _ _ u => decide (u = k) | .dma _ u => decide (u = k)
      let z := countEv (hit.foldl (fun st o => serveOp st c o.2) w) (srcChan c) 0x0705 0xFF
      exec (.flashReadFail c b p) s = .next (critNote s (failBlk z (t4Live z) c b 3))) ∧
    (∀ l, tabFind s.store.locks p = some l →
      (l.active = false → lockBusy s l = false → let w := ms s fun v => { v with locks := tabPut v.locks p { l with active := true, cmd := none } };
        (∀ r, l.cmd = some r → exec (.lockActivate p) s = .next (complete w r stOk p 0)) ∧ (l.cmd = none → exec (.lockActivate p) s = .next w)) ∧
      (l.expires ≠ 0 → l.dma = none → exec (.lockExpiry p) s = .next (releaseLock (advanceMer s l.expires) p stTimeout)))

/-- STORE.SPLIT outside a trial grows the T4 pool while the flash has room beside the namespaces, and wakes the flash where it must; it shrinks the pool at once where no tile reaches beyond the new end, and else starts the moves of the tiles that can move and waits (R414). STORE.LOCK enters a lock in the lowest free entry, which waits to become active; releases an explicit lock, ending a STORE.LOCK that still waits CANCELLED; or writes the 64 entries (R421 to R423, R432). STORE.ARB sets the channels' weights and thresholds. STORE.HEALTH writes the vendor log page (R431). That a lock released while its STORE.LOCK waits ends that command CANCELLED is the model's choice (log 19). -/
def Obligations.StoreCommandsComplete : Prop :=
  ∀ (s : State) (r : CmdRef) (x : Inflight),
    let u := begun s r
    let y := { x with started := true }
    let e := x.entry
    let ms (st : State) (f : Store → Store) : State := { st with store := f st.store }
    let n := par e 0 8
    let setPool (st : State) : State := complete { st with store := { st.store with t4Drain := none }, atlas := { st.atlas with t4Pool := n } } r stOk n 0;
    (Takes s r 0x0C01 x (noChecks s e) → inTrial u = false →
      (u.atlas.t4Pool ≤ n → n * 4096 + nsCap u ≤ usableFlash → exec (.storeSplit r) s = .next (setPool (ms u fun v => { v with
        psNow := if n ≠ 0 ∧ v.psNow = 2 ∧ u.power.stage ≠ 4 then heldPs u 0 else v.psNow }))) ∧
      (n < u.atlas.t4Pool → let w := ms u fun v => { v with t4Drain := some n }
        let ts := t4Beyond w n;
        (ts = [] → exec (.storeSplit r) s = .next (setPool w)) ∧
        (ts ≠ [] → let d := (drainT4s w (untried y ts)).1;
          (∃ q ∈ t4Beyond d n, q.2.2.mig = true) → exec (.storeSplit r) s = .next (noteTried d r (untried y ts))))) ∧
    (∀ ns i, Takes s r 0x0C02 x (lockChecks e) → parFld e 0 1 0 = 0 → (∀ l ∈ u.store.locks, l.2.cmd ≠ some r) → nsAt u (par e 4 4) = some ns →
      par e 8 8 < ns.nsze → par e 16 8 ≠ 0 → par e 8 8 + par e 16 8 ≤ ns.nsze → tabGap u.store.locks 0 64 = some i → exec (.storeLockCreate r) s =
      .next (ms u fun v => { v with locks := tabPut v.locks i { deny := parFlg e 1 1, excl := parFlg e 1 0, cmd := some x.ref, nsid := par e 4 4, slba := par e 8 8, nlb := par e 16 8, expires := if par e 24 4 = 0 then 0 else merNow u + par e 24 4 * msTicks } })) ∧
    (∀ l, Takes s r 0x0C02 x (lockChecks e) → parFld e 0 1 0 = 1 → tabFind u.store.locks (parFld e 2 5 0) = some l → l.dma = none → let w := freeLock u (parFld e 2 5 0);
      (l.cmd = none → exec (.storeLockRelease r) s = .next (complete w r stOk 0 0)) ∧
      (∀ c, l.cmd = some c → exec (.storeLockRelease r) s = .next (complete (complete w c stCancelled 0 0) r stOk 0 0))) ∧
    (Takes s r 0x0C02 x (lockChecks e) → parFld e 0 1 0 = 2 → exec (.storeLockList r) s =
      .next (complete (cmdHostPut u y (par e 32 8) ((List.range 64).flatMap fun i => lockBytes (tabFind u.store.locks i))) r stOk 0 0)) ∧
    (Takes s r 0x0C03 x (chkStoreArb r s e) → inTrial u = false → exec (.storeArb r) s = .next (complete (ms u fun v => { v with
      dmaw := par e 0 1, t4w := par e 1 1, gcw := par e 2 1, gclow := par e 4 2, gccrit := par e 6 2 }) r stOk 0 0)) ∧
    (Takes s r 0x0C04 x (chkStoreHealth r s e) → exec (.storeHealth r) s = .next (complete (cmdHostPut u y (par e 0 8) (vendorLog u)) r stOk 0 0))

/-- A watchdog of a control die that runs, a silent helper, and a start without READY in time end in a WARM reset, after the helper's record; a silent text engine is reloaded alone (R435, R454). A trial that FW.CONFIRM does not confirm in time is reverted (R455), and a recovery request in the ROM's poll is noted (R459). FW.DOWNLOAD stages its buffer. FW.COMMIT checks the staged image and writes it to a slot that is not in use (R450 to R452). FW.ACTIVATE puts a VALID slot in TRIAL at once, or at a time within reach (R453); FW.CONFIRM makes the trial ACTIVE, revokes keys and raises MINSECVER (R446, R456); FW.REVERT falls back; FW.STATUS writes its record. -/
def Obligations.FirmwareComplete : Prop :=
  ∀ (s : State) (r : CmdRef) (x : Inflight) (src seq fail : Nat),
    let u := begun s r
    let y := { x with started := true }
    let e := x.entry
    let mc (st : State) (f : Control → Control) : State := { st with ctl := f st.ctl };
    (ctlRuns s = true → exec .cpWatchdogExpiry s = .next (warmReset (ensureChosen s))) ∧
    (s.ctl.start = .up → s.ctl.recovery = false →
      (0x480 ≤ src → src < 0x488 → exec (.helperHeartbeatTimeout src seq) s = .next (reloadEngine (postEvent s src 0x0204 0 0xFF 0 0 0) (src - 0x480))) ∧
      (src = 0x600 ∨ src = srcSeq ∨ (0x100 ≤ src ∧ src < 0x105) ∨ (0x200 ≤ src ∧ src < 0x206) → exec (.helperHeartbeatTimeout src seq) s =
        .next (warmReset (postEvent s src 0x0204 (if src = 0x600 then 4 else 0) 0xFF 0 0 0)))) ∧
    (∀ t cold, s.ctl.start = .starting t cold → exec .startFailureTimeout s =
      .next (warmReset (ensureChosen (advanceTo s (t + (if cold then 3000 else 2000) * msTicks))))) ∧
    (∀ n ready k, s.ctl.confirms = some (n, ready) → ready ≠ 0 → slotIn s.ctl slTrial = some k → exec .confirmsTimeout s =
      .next (revertTrial (advanceTo s (ready + n * 1000 * msTicks)))) ∧
    (∀ t, s.ctl.start = .starting t true → s.ctl.chosen = false → exec .recoveryRequest s = .next (mc s fun c => { c with recReq := true })) ∧
    (Takes s r 0x0D01 x (chkFwDownload r s e) → let len := par e 12 4;
      (len = 0 → exec (.fwDownload r) s = .next (complete u r stOk 0 0)) ∧
      (len ≠ 0 → hostBuf x = none → exec (.fwDownload r) s = .next (askHost u y)) ∧
      (∀ bs, len ≠ 0 → hostBuf x = some bs → exec (.fwDownload r) s = .next (complete (mc u fun c => { c with
        staging := cellWrites c.staging (par e 8 4) (padTo len bs), staged := par e 8 4 + len }) r stOk len 0))) ∧
    (Takes s r 0x0D02 x (noChecks s e) → let n := parFld e 0 0 0
      let f := fwSlot u.ctl n
      f.st ≠ slActive → f.st ≠ slTrial → slotPending u n = false → exec (.fwCommit r fail) s = .next
        (match imageOf u (cellReads u.ctl.staging 0 u.ctl.staged) with
        | .error (.bad o) => complete u r stBadParam 0 o
        | .error _ => complete u r stAuth 0 0
        | .ok img => match bootWrite u fail with
          | none => complete (mc u fun c => putSlot c n { fwSlot c n with st := slInvalid }) r stMedia 0 0
          | some w => complete (mc w fun c => putSlot c n (slotOfImage img)) r stOk (slotOfImage img).version 0)) ∧
    (Takes s r 0x0D03 x (chkFwActivate r s e) → let n := parFld e 0 0 0
      let t := par e 8 8
      schedWaits u r = false → u.ctl.act = none → canActivate u n = true →
      (t = 0 → exec (.fwActivate r) s = .next (activateSlot u n (par e 4 4) r)) ∧
      (t ≠ 0 → u.ctl.recovery = false → schedRefuse u t = none → exec (.fwActivate r) s =
        .next (mc (addAct u t .firmware (some r)) fun c => { c with act := some { slot := n, confirms := par e 4 4, t := t, cmd := r } }))) ∧
    (∀ w, Takes s r 0x0D04 x (chkFwConfirm r s e) → let sec := (fwSlot u.ctl u.ctl.running).secver
      let raise := parFlg e 0 0 && decide (u.ctl.minSecver < sec)
      let fuse (st : State) : State := mc st fun c => { c with revoked := c.revoked ||| parFld e 1 3 0, minSecver := if raise then sec else c.minSecver, raises := if raise then c.raises + 1 else c.raises };
      (raise = true → u.ctl.raises < 64) → bootWrite u fail = some w →
      (slotIn w.ctl slTrial = none → exec (.fwConfirm r fail) s = .next (complete (fuse w) r stOk 0 0)) ∧
      (∀ n, slotIn w.ctl slTrial = some n → let z := mc w fun c =>
          let c1 := match slotIn c slActive with | some a => putSlot c a { fwSlot c a with st := slValid } | none => c
          { putSlot c1 n { fwSlot c1 n with st := slActive, tries := 0 } with confirms := none, cfgFmt := c.trialFmt.getD c.cfgFmt, trialFmt := none }
        exec (.fwConfirm r fail) s = .next (complete (fuse (postEvent z srcCp 0x0601 0 0xFF (fwSlot z.ctl n).version 0 0)) r stOk 0 0))) ∧
    (∀ w n, Takes s r 0x0D05 x (noChecks s e) → slotIn u.ctl slTrial = some n → bootWrite u fail = some w → exec (.fwRevert r fail) s =
      .next (revertTrial (complete w r stOk 0 0))) ∧
    (Takes s r 0x0D06 x (chkFwStatus r s e) → let c := u.ctl
      exec (.fwStatus r) s = .next (complete (cmdHostPut u y (par e 0 8) (padTo 64 (slotRecord c.slotA ++ slotRecord c.slotB ++ leBytes 4 c.running ++ leBytes 4 c.minSecver ++ leBytes 4 c.cfgFmt
        ++ leBytes 8 (match c.act with | some a => a.t | none => 0)))) r stOk 0 0))

/-- SEC.STATUS reports the life-cycle state, the passes through RETURN that remain, the owner key, the debug port, the revoked keys and MINSECVER. SEC.NONCE draws a fresh nonce, holds it and writes it. SEC.IDENTITY writes as much of the certificate chain as the buffer takes, and answers SHORT where that is not all. SEC.ATTEST writes the signed report over the tenant, the caller's nonce, the time and the measurements (Table 18.7). SEC.LIFECYCLE, while nothing it would cut is in use, asks for its token; a well-formed token of a transition from the present state uses up the nonce, and changes the fuses, posts the record and starts the COLD reset when it is authentic, the count of returns allows it and the boot write succeeds (R444, R445); else it is refused. Nonces and signatures are free values (log 4): the equations hold for every value of them. -/
def Obligations.SecurityComplete : Prop :=
  ∀ (s : State) (r : CmdRef) (x : Inflight) (fail : Nat),
    let u := begun s r
    let y := { x with started := true }
    let e := x.entry
    let c := u.ctl
    let mc (st : State) (f : Control → Control) : State := { st with ctl := f st.ctl };
    (Takes s r 0x0E01 x (noChecks s e) → exec (.secStatus r) s = .next (complete u r stOk
      (c.lifecycle + (8 - c.returns) * 2 ^ 8 + bit01 c.owner.isSome * 2 ^ 16 + bit01 (debugOpen c) * 2 ^ 17 + c.revoked % 16 * 2 ^ 18 + c.minSecver % 2 ^ 32 * 2 ^ 32) 0)) ∧
    (Takes s r 0x0E02 x (chkSecNonce r s e) → exec (.secNonce r) s = .next (complete (cmdHostPut (mc { u with freeCtr := u.freeCtr + 4 } fun c => { c with nonce := some (freshBytes u) }) y (par e 0 8) (freshBytes u)) r stOk 0 0)) ∧
    (Takes s r 0x0E03 x (chkSecIdentity r s e) → let att := Config.attCert (allMeas c)
      let chain := leBytes 4 Config.idCert.length ++ Config.idCert ++ leBytes 4 att.length ++ att
      exec (.secIdentity r) s = .next (complete (cmdHostPut u y (par e 0 8) (chain.take (par e 8 4))) r (if par e 8 4 < chain.length then stShort else stOk) (chain.length % 2 ^ 32) 0)) ∧
    (Takes s r 0x0E04 x (chkSecAttest r s e) → let body := attestBody u (cmdTenant x) ((e.drop 32).take 32) (freshBytes u)
      exec (.secAttest r) s = .next (complete (cmdHostPut { u with freeCtr := u.freeCtr + 4 } y (par e 0 8) (padTo 3760 (body ++ padTo 3309 (Config.attSign (allMeas c) body)))) r stOk 0 0)) ∧
    (Takes s r 0x0E05 x (chkSecLifecycle r s e) → lifecycleBusy u = false →
      (hostBuf x = none → exec (.secLifecycle r fail) s = .next (askHost u y)) ∧
      (∀ raw key may, hostBuf x = some raw → let tok := padTo 5328 raw
        let w := mc u fun c => { c with nonce := none }
        tokenBad tok = false → byteAt tok 6 = c.lifecycle → transitionKey c tok = some (key, may) → exec (.secLifecycle r fail) s = .next
          (if tokenAuth c tok key may = false then complete w r stAuth 0 0
          else if byteAt tok 7 = 3 ∧ 8 ≤ c.returns then complete w r stLifecycle 0 0
          else match bootWrite w fail with
            | none => complete w r stMedia 0 0
            | some z => changeLife z r tok)))

/-- At the end of a governor period the entries of the plan that have ended leave it, and the next period's allowance, its division among the dies and the ballast quota take force (R463 to R467). A sensor sample at the next millisecond takes the readings, notes the clamps and the thermal stage, and refreshes the shadow (R469, R470, Table 15.8). The oldest publication not written goes to the shelf, a refused one again 1 ms later, and PLAN_NAK is posted after two retries; one that lost arbitration is sent again (R468, R488). A corrected error posts its record and counts, and the third of a frame in 24 h retires the frame; an uncorrectable error counts and has its site's action (R471, Table 19.3). With no demand the division is free, and a flash above the cap is told by an operand (log 29). -/
def Obligations.PowerEventsComplete : Prop :=
  ∀ (s : State) (pmeas work flow temp site unit sub arg b : Nat) (ovr ack : Bool) (inlet outlet : Int) (dies : List Int),
    let mp (st : State) (f : Power → Power) : State := { st with power := f st.power }
    let ms (st : State) (f : Store → Store) : State := { st with store := f st.store };
    (ctlRuns s = true →
      (let z := advance s (40000 - merNow s % 40000)
        let w := planEnd z (merNow z)
        let a := govAllowance w (merNow w) pmeas
        let v := mp { w with freeCtr := w.freeCtr + 8 } fun p => { p with
          pmeas := pmeas, psum := p.psum + pmeas, pcount := p.pcount + 1, allow := a, dieAllow := (List.range 8).map (dieShare w a), dieUsed := [0, 0, 0, 0, 0, 0, 0, 0], ballastLast := p.ballast, ballast := ballastQuota w (merNow w) pmeas (min work a), flashHeld := ovr }
        exec (.governorPeriod pmeas work ovr) s = .next (ms v fun x => { x with
          psNow := if ovr ∧ x.psNow = 0 then 1 else if !ovr ∧ w.power.flashHeld ∧ x.psNow = 1 then min 1 x.ps else x.psNow })) ∧
      (let dt := msTicks - s.clk.ticks % msTicks
        let w := mp (advance s dt) fun p => { p with inlet := inlet, outlet := outlet, flow := flow, dies := dies.take 40 }
        let v := sinceMarks (clampNote s (critNote w (ms w fun x => { x with
          warmTicks := if 348 ≤ x.temp then x.warmTicks + dt else x.warmTicks, hotTicks := if 358 ≤ x.temp then x.hotTicks + dt else x.hotTicks, temp := temp })))
        exec (.sensorSample inlet outlet flow dies temp) s = .next (refreshShadow (enterStage v (nextStage v)))) ∧
      (site ≤ 10 → unit < 65536 → unitExists unit = true → sub ≤ 5 → (unit = srcCp ∨ sub = 0) →
        let t := match tabFind s.atlas.frames arg with | some (.tile t _) => t | _ => 0xFF
        let w := fecNote (modUnit (postEvent s unit 0x0001 sub (if site ≠ 0 then 0xFF else t) site arg 0) unit fun u => { u with ce := min (2 ^ 32 - 1) (u.ce + 1) }) unit
        let at1 := (tabGet w.power.frameCe arg []).filter (fun k => decide (s.clk.ticks < k + dayTicks)) ++ [s.clk.ticks]
        let v := mp w fun p => { p with frameCe := tabPut p.frameCe arg at1 };
        (site ≠ 0 → exec (.correctedError site (unit + 65536 * sub) arg) s = .next w) ∧
        (site = 0 → exec (.correctedError site (unit + 65536 * sub) arg) s = .next (if 3 ≤ at1.length then serveAll (retireFrame v arg) else v))) ∧
      (site ≤ 10 → site ≠ 7 → unitExists unit = true → exec (.uncorrectableError site unit arg b) s =
        .next (serveAll (errorAct (modUnit s unit fun u => { u with ue := min (2 ^ 32 - 1) (u.ue + 1) }) site unit arg b)))) ∧
    (∀ q, pubFirst (fun x => decide (x.nak = 0) || x.again) s.power.pubs = some q → let put (l : List Pub) : State := mp s fun p => { p with pubs := q.2.1 ++ l ++ q.2.2 }
      exec (.planPublish true) s = .next (emit (put []) (.pmbus s.power.shelf ([0xD0, 0x10] ++ q.1.bytes))) ∧
      (2 ≤ q.1.nak → exec (.planPublish false) s = .next (mgmtEvent (put []) 0x0502 q.1.t 0)) ∧
      (q.1.nak < 2 → exec (.planPublish false) s = .next (put [{ q.1 with nak := q.1.nak + 1, due := s.clk.ticks + msTicks, again := false }]))) ∧
    (∀ q, pubFirst (fun x => decide (x.nak ≠ 0) && !x.again) s.power.pubs = some q → exec (.planPublishRetry ack) s = .next (pubWrite (advanceTo s q.1.due) q ack)) ∧
    (∀ q, pubFirst (fun x => decide (x.nak = 0 ∨ x.due ≤ s.clk.ticks) && !x.again) s.power.pubs = some q →
      exec .pmbusArbitrationLoss s = .next (mp s fun p => { p with pubs := q.2.1 ++ { q.1 with again := true } :: q.2.2 }))

/-- PWR.CAP sets the cap and the ramps at once, with its clamp note and publication, or at a time within reach (R462, R466). PWR.PLAN, once its buffer is in, lets the entries whose ramp has begun stay (all of them, under APPEND with entries of its own), and answers NOFIT above 64 in all, LATE where a ramp would begin too early, else loads and publishes each (R467, R468); with no entry it clears what has not begun. PWR.STATUS writes its record; PWR.SHELF sets the shelf's address and publication. PWR.FENCE fences a core, a stack, a port or a flash channel, BUSY for another unit or where the fence would pass a limit that was not yet passed (R477, R478). PWR.UNITREG reads a register, or a pair, and clears its RC fields, or writes it under its access code and answers what it holds (R9, R480). -/
def Obligations.PowerCommandsComplete : Prop :=
  ∀ (s : State) (r : CmdRef) (x : Inflight),
    let u := begun s r
    let y := { x with started := true }
    let e := x.entry
    let p := u.power
    let ok (st : State) : State := complete st r stOk 0 0
    let mp (f : Power → Power) : State := { u with power := f p };
    (Takes s r 0x0F01 x (chkPwrCap r s e) → let t := par e 8 8
      let v := mp fun q => { q with cap := par e 0 2, ramp := par e 2 2, downramp := parFlg e 4 0 };
      schedWaits u r = false → (t = 0 → exec (.pwrCap r) s = .next (ok (publishCap u (clampNote u v)))) ∧
        (t ≠ 0 → schedRefuse u t = none → exec (.pwrCap r) s = .next (addAct u t (.cap e) (some r)))) ∧
    (Takes s r 0x0F02 x (chkPwrPlan r s e) → let n := parFld e 8 6 0
      let keep := if parFlg e 9 0 ∧ n ≠ 0 then p.plan else p.plan.filter fun q => decide (rampStart p q ≤ merNow u)
      let load (new : List PlanEnt) : State := if 64 < keep.length + new.length then complete u r stNoFit 0 0 else
        let all := planLevels p (merNow u) (new.foldl (fun l k => planInsert k l) keep) (p.planLevel.getD (effCap p))
        let mine := all.filter fun k => new.any fun k2 => decide (k2.t = k.t ∧ k2.pt = k.pt)
        if mine.any fun k => decide (rampStart p k < merNow u + p.publead * msTicks) then complete u r stLate 0 0
        else ok (mine.foldl (fun st k => addPub st k.t (stepRecord k.t k.start k.pt p.ramp false)) (mp fun q => { q with plan := all }));
      (n = 0 → exec (.pwrPlan r) s = .next (load [])) ∧
      (n ≠ 0 → hostBuf x = none → exec (.pwrPlan r) s = .next (askHost u y)) ∧
      (∀ bs, n ≠ 0 → hostBuf x = some bs → 16 * n ≤ bs.length → (∀ i < n, zeroBytes bs (16 * i + 10) (16 * i + 15) = true) → exec (.pwrPlan r) s =
        .next (load ((List.range n).map fun i => { t := fieldAt bs (16 * i) 8, pt := fieldAt bs (16 * i + 8) 2 })))) ∧
    (Takes s r 0x0F03 x (noChecks s e) → exec (.pwrStatus r) s = .next (ok (cmdHostPut u y (par e 0 8) (padTo 128
      (shadowBytes p ++ leBytes 4 Config.cwFp32.toNat ++ leBytes 4 p.pmeas ++ leBytes 4 p.allow ++ (List.range 8).flatMap (fun d => leBytes 4 (p.dieAllow.getD d 0))
        ++ leBytes 2 (twos 16 p.inlet) ++ leBytes 2 (twos 16 p.outlet) ++ leBytes 2 p.flow ++ leBytes 2 0 ++ leBytes 4 p.ballastLast))))) ∧
    (Takes s r 0x0F04 x (chkPwrShelf r s e) → exec (.pwrShelf r) s =
      .next (ok (mp fun q => { q with shelf := parFld e 0 6 0, puben := parFlg e 1 0, publead := par e 4 4 }))) ∧
    (Takes s r 0x0F05 x (noChecks s e) → let n := par e 0 2
      let sub := parFld e 2 1 0
      let put (v : State) : State := if overLimits v ∧ !overLimits u then complete u r stBusy 0 0 else ok v;
      (n < 96 → exec (.pwrFence r) s = .next (put (fenceCore u n))) ∧
      (0x100 ≤ n → n < 0x105 → exec (.pwrFence r) s = .next (put (fenceStack u (4 * (n - 0x100) + sub)))) ∧
      (0x300 ≤ n → n < 0x330 → exec (.pwrFence r) s = .next (put (fencePort u (n - 0x300)))) ∧
      (0x700 ≤ n → n < 0x728 → exec (.pwrFence r) s = .next (put (fenceChan u (n - 0x700)))) ∧
      (96 ≤ n → ¬(0x100 ≤ n ∧ n < 0x105) → ¬(0x300 ≤ n ∧ n < 0x330) → ¬(0x700 ≤ n ∧ n < 0x728) → exec (.pwrFence r) s = .next (complete u r stBusy 0 0))) ∧
    (Takes s r 0x0F06 x (unitregChecks e) → let n := par e 0 2
      let off := par e 4 2
      let wide := parFlg e 3 0
      let get (v : State) : Nat := unitReg v n off + if wide then unitReg v n (off + 4) * 2 ^ 32 else 0;
      (parFlg e 2 0 = false → let v := unitRegRead u n off
        exec (.pwrUnitregRead r) s = .next (complete (if wide then unitRegRead v n (off + 4) else v) r stOk (get u) 0)) ∧
      (parFlg e 2 0 = true → let v := unitRegWrite u n off (par e 8 4)
        let w := if wide then unitRegWrite v n (off + 4) (par e 12 4) else v
        exec (.pwrUnitregWrite r) s = .next (complete w r stOk (get w) 0)))

/-- Whatever the state and the operands, a command answers a next state, no fault and no refusal: nothing a sender sends stops the block. The one exception is a JTAG instruction that the spec names nowhere, loaded while the debug port is open, which reaches a unit the spec does not describe (R443); that one stops. -/
def Obligations.EveryCommandIsAnswered : Prop :=
  ∀ (c : Instr) (s : State),
    ((∀ dev n, c ≠ .jtagInstructionLoad dev (.other n)) ∨ debugOpen s.ctl = false → ∃ t, exec c s = .next t) ∧
    (∀ dev n, debugOpen s.ctl = true → exec (.jtagInstructionLoad dev (.other n)) s = .fault .undescribedUnit)
end

