-- ==== Sys2Proof/Laws/Issue.lean ====
section
/-! SUPPORT. Once for all commands: what the issue stage and the mailbox layer do with a command that is there to run, and
what issue leaves as it was. -/

namespace Sys2Proof.Laws

open Sys2Proof.Machine Sys2Proof.Safety

theorem sbReleases_nextId (os : List Nat) (k : Core) : (os.foldl sbRelease k).nextId = k.nextId := by
  induction os generalizing k with
  | nil => rfl
  | cons o os ih => exact ih _

/-- Releasing what has come due leaves the numbering of commands. -/
@[simp] theorem coreNow_nextId (s : State) (c : Nat) : (coreNow s c).nextId = (coreAt s c).nextId := by
  unfold coreNow sbSettle
  dsimp only
  split
  · rfl
  · exact sbReleases_nextId _ _

/-- A head command that can issue is issued, and its body runs. -/
theorem issueCmd_go {s : State} {c i : Nat} {sl : Slot} {q : QCmd} {sel : Bytes → Bool}
    {body : State → Slot → QCmd → Nat → State} (h : Issues s c i sl q) (hs : sel q.bytes = true) :
    issueCmd s c i sel body = body (issued s c i sl q) sl q (coreAt s c).nextId := by
  obtain ⟨h1, h2, h3, h4⟩ := h
  simp [issueCmd, issued, h1, h2, h3, h4, hs]

/-- A started command acts in the tenant it acted in. -/
@[simp] theorem cmdTenant_started (x : Inflight) : cmdTenant { x with started := true } = cmdTenant x := rfl

theorem begun_def (s : State) (r : CmdRef) : (modInfl s r fun y => { y with started := true }) = begun s r := rfl

/-- A command that is offered and passes its checks starts, and its body runs. -/
theorem runCmd_go {s : State} {r : CmdRef} {op : Nat} {x : Inflight} {checks : State → Bytes → List (Nat × Bool)}
    {body : State → Inflight → Bytes → State} (h : Offered s r op x) (hc : firstBad (checks s x.entry) = none) :
    runCmd s r op checks body = .next (body (begun s r) { x with started := true } x.entry) := by
  obtain ⟨h1, h2, h3, h4, h5⟩ := h
  simp [runCmd, runnable, h1, h2, h3, h4, h5, hc, begun]

/-- A command whose work has begun may go on. -/
theorem running_mayStart {s : State} {r : CmdRef} {op : Nat} {x : Inflight} (h : Running s r op x) : mayStart s x = true := by
  simp [mayStart, h.2.2.2.1]

/-- A command whose work has begun goes on, and its body runs. -/
theorem runCmd_on {s : State} {r : CmdRef} {op : Nat} {x : Inflight} {checks : State → Bytes → List (Nat × Bool)}
    {body : State → Inflight → Bytes → State} (h : Running s r op x) :
    runCmd s r op checks body = .next (body s x x.entry) := by
  obtain ⟨h1, h2, h3, h4, h5⟩ := h
  simp [runCmd, runnable, h1, h2, h3, h4, h5, mayStart]

/-- The row of one operation of an opcode runs the command when the entry asks for that operation. -/
theorem runCmdIf_sel {s : State} {r : CmdRef} {op : Nat} {x : Inflight} {sel : Bytes → Bool}
    {checks : State → Bytes → List (Nat × Bool)} {body : State → Inflight → Bytes → State} (h : inflAt s r = some x)
    (hs : sel x.entry = true) : runCmdIf s r op sel checks body = runCmd s r op checks body := by
  simp [runCmdIf, h, hs]

/-- A command that violates a check is refused with BADPARAM at the first field at fault, and has no effect (R385). -/
theorem runCmd_bad {s : State} {r : CmdRef} {op o : Nat} {x : Inflight} {checks : State → Bytes → List (Nat × Bool)}
    {body : State → Inflight → Bytes → State} (h : Offered s r op x) (hc : firstBad (checks s x.entry) = some o) :
    runCmd s r op checks body = .next (badParam s r o) := by
  obtain ⟨h1, h2, h3, h4, h5⟩ := h
  simp [runCmd, runnable, h1, h2, h3, h4, h5, hc]

theorem blockHeld_def (w : State) (r : CmdRef) (b : Bytes) : (modInfl w r fun y => { y with block := some b }) = blockHeld w r b :=
  rfl

/-- A command with a parameter block that is offered and passes its checks starts, and its body runs. -/
theorem runBlock_go {s w : State} {r : CmdRef} {op : Nat} {x : Inflight} {b : Bytes}
    {checks : State → Bytes → List (Nat × Bool)} {body : State → Inflight → Bytes → State}
    (h : TakesBlock s r op x w b (checks w b)) :
    runBlock s r op checks body = .next (body (blockHeld w r b) { x with started := true, block := some b } b) := by
  obtain ⟨⟨h1, h2⟩, h3, h4, h5, h6⟩ := h
  unfold runBlock
  rw [runCmd_go h1 h2]
  dsimp only
  rw [h3] at h5 ⊢
  simp only [cmdTenant] at h5 ⊢
  simp only [h5, h6, blockHeld]

/-- A command with a parameter block that was read goes on, and its body runs. -/
theorem runBlock_on {s : State} {r : CmdRef} {op : Nat} {x : Inflight} {b : Bytes} {checks : State → Bytes → List (Nat × Bool)}
    {body : State → Inflight → Bytes → State} (h : Running s r op x) (hb : x.block = some b) :
    runBlock s r op checks body = .next (body s x b) := by
  unfold runBlock
  rw [runCmd_on h]
  simp only [hb]

/-- `runCmd_go` from the one hypothesis. -/
theorem runCmd_takes {s : State} {r : CmdRef} {op : Nat} {x : Inflight} {checks : State → Bytes → List (Nat × Bool)}
    {body : State → Inflight → Bytes → State} (h : Takes s r op x (checks s x.entry)) :
    runCmd s r op checks body = .next (body (begun s r) { x with started := true } x.entry) :=
  runCmd_go h.1 h.2

/-- `runCmd_takes` for the row of one operation of an opcode. -/
theorem runCmdIf_takes {s : State} {r : CmdRef} {op : Nat} {x : Inflight} {sel : Bytes → Bool}
    {checks : State → Bytes → List (Nat × Bool)} {body : State → Inflight → Bytes → State}
    (h : Takes s r op x (checks s x.entry)) (hs : sel x.entry = true) :
    runCmdIf s r op sel checks body = .next (body (begun s r) { x with started := true } x.entry) :=
  (runCmdIf_sel h.1.1 hs).trans (runCmd_takes h)

/-! ### NVMe commands -/

/-- The row of an NVMe command that can run runs its body. -/
theorem nvRow_takes {s u : State} {sq cid op : Nat} {entry : Bytes} {admin : Bool} {c : NvCmd} {body : State → NvCmd → State}
    (h : NvTakes s sq cid entry admin op u c) : nvRow s sq cid entry admin op body = .next (body u c) := by
  unfold nvRow
  rw [h.taken]
  dsimp only
  rw [if_neg (by rw [h.queue, h.opcode, h.room]; rcases h.cool with g | g <;> simp [g]), h.live.1, h.live.2,
    if_neg (by simp), if_neg (by simp), if_neg (by rw [h.prp.1, h.prp.2]; simp)]

/-- Data that fit are written to the host buffer, and the command goes on. -/
theorem nvPut_fits {s : State} {c : NvCmd} {bs : Bytes} {done : State → State} (h : NvFits s c bs.length) :
    nvPut s c bs done = done (nvWrite s c bs) := by
  unfold nvPut
  dsimp only
  rw [if_neg h.1, h.2]
  rfl

/-- Host data that have been read go to the command. -/
theorem nvGet_fits {s : State} {c : NvCmd} {n : Nat} {d : Bytes} {k : State → Bytes → State} (h : NvFits s c n)
    (hd : c.hdata = some d) : nvGet s c n k = k s (padTo n d) := by
  unfold nvGet
  dsimp only
  rw [if_neg h.1, h.2, hd]
  rfl

/-- Host data that have not been read are asked for. -/
theorem nvGet_asks {s : State} {c : NvCmd} {n : Nat} {k : State → Bytes → State} (h : NvFits s c n) (hd : c.hdata = none) :
    nvGet s c n k = nvAsk s c false := by
  unfold nvGet
  dsimp only
  rw [if_neg h.1, h.2, hd]
  rfl

/-- A command that no lock holds executes. -/
theorem nvStart_free {s : State} {c : NvCmd} {rs : List (Nat × Nat × Nat)} {w : Bool} {k : State → NvCmd → State}
    (h : NvFree s c rs w) : nvStart s c rs w k = k (nvBegun s c) { c with started := true } := by
  obtain ⟨h1, h2, h3⟩ := h
  have e : (s.store.locks.filter fun l => rs.any fun r => lockHits l.2 r.1 r.2.1 r.2.2 w) = [] := by
    rw [List.filter_eq_nil_iff]
    intro l hl
    simp only [List.any_eq_true, not_exists, not_and]
    intro r hr
    rw [h2 l hl r hr]
    simp
  unfold nvStart
  rw [h1, if_neg (by simp)]
  dsimp only
  rw [e, if_neg (by simp), if_neg]
  · rfl
  · rintro (g | ⟨g1, g2⟩)
    · exact g rfl
    · rw [h3 g1] at g2
      simp at g2

/-! ### What issue leaves -/

theorem countEv_units (s : State) (u e t : Nat) : ∃ m, countEv s u e t = { s with units := m } := by
  unfold countEv
  dsimp only
  split
  · exact ⟨s.units, rfl⟩
  · exact ⟨_, rfl⟩

theorem popHead_only (s : State) (c i : Nat) : ∃ m u, popHead s c i = { s with cores := m, units := u } := by
  unfold popHead
  exact (countEv_units _ _ _ _).elim fun u h => ⟨_, u, h⟩

/-- Issue writes the core and the counters of the module, nothing else. -/
theorem issued_only (s : State) (c i : Nat) (sl : Slot) (q : QCmd) :
    ∃ m u, issued s c i sl q = { s with cores := m, units := u } := by
  obtain ⟨m, u, h⟩ := popHead_only (setCore s c (coreNow s c)) c i
  unfold issued
  rw [h]
  exact ⟨_, u, rfl⟩

@[simp] theorem issued_jobs (s : State) (c i : Nat) (sl : Slot) (q : QCmd) : (issued s c i sl q).jobs = s.jobs := by
  obtain ⟨m, u, h⟩ := issued_only s c i sl q; rw [h]

@[simp] theorem issued_clk (s : State) (c i : Nat) (sl : Slot) (q : QCmd) : (issued s c i sl q).clk = s.clk := by
  obtain ⟨m, u, h⟩ := issued_only s c i sl q; rw [h]

@[simp] theorem issued_atlas (s : State) (c i : Nat) (sl : Slot) (q : QCmd) : (issued s c i sl q).atlas = s.atlas := by
  obtain ⟨m, u, h⟩ := issued_only s c i sl q; rw [h]

@[simp] theorem issued_freeCtr (s : State) (c i : Nat) (sl : Slot) (q : QCmd) :
    (issued s c i sl q).freeCtr = s.freeCtr := by
  obtain ⟨m, u, h⟩ := issued_only s c i sl q; rw [h]

@[simp] theorem issued_power (s : State) (c i : Nat) (sl : Slot) (q : QCmd) : (issued s c i sl q).power = s.power := by
  obtain ⟨m, u, h⟩ := issued_only s c i sl q; rw [h]

@[simp] theorem merNow_issued (s : State) (c i : Nat) (sl : Slot) (q : QCmd) : merNow (issued s c i sl q) = merNow s := by
  simp [merNow]

@[simp] theorem merAt_issued (s : State) (c i : Nat) (sl : Slot) (q : QCmd) (src : Nat) :
    merAt (issued s c i sl q) src = merAt s src := by
  simp [merAt]

end Sys2Proof.Laws
end

