-- ==== Sys2Proof/Laws/Memory.lean ====
section
/-! SUPPORT. The canonical form of byte memories: every operation keeps it, and a write is read back and touches no other
byte; the same for the tables the state is made of. -/

namespace Sys2Proof.Laws

open Sys2Proof.Machine

/-! ### Tables -/

theorem tabFind_put_self {α : Type} (t : Tab α) (n : Nat) (v : α) : tabFind (tabPut t n v) n = some v := by
  induction t with
  | nil => simp [tabPut, tabFind]
  | cons p t ih =>
    obtain ⟨k, w⟩ := p
    unfold tabPut
    split
    · simp [tabFind]
    · split
      · simp [tabFind]
      · simp [tabFind, *]

theorem tabFind_put_other {α : Type} (t : Tab α) {n m : Nat} (v : α) (h : m ≠ n) :
    tabFind (tabPut t n v) m = tabFind t m := by
  induction t with
  | nil => simp [tabPut, tabFind, Ne.symm h]
  | cons p t ih =>
    obtain ⟨k, w⟩ := p
    unfold tabPut
    split
    · rename_i hk; subst hk; simp [tabFind, Ne.symm h]
    · split
      · simp [tabFind, Ne.symm h]
      · simp [tabFind, ih]

@[simp] theorem tabGet_put_self {α : Type} (t : Tab α) (n : Nat) (v d : α) : tabGet (tabPut t n v) n d = v := by
  simp [tabGet, tabFind_put_self]

theorem tabGet_put_other {α : Type} (t : Tab α) {n m : Nat} (v d : α) (h : m ≠ n) :
    tabGet (tabPut t n v) m d = tabGet t m d := by
  simp [tabGet, tabFind_put_other t v h]

/-- What a table holds after a put was put there or was there before. -/
theorem mem_tabPut {α : Type} {t : Tab α} {n : Nat} {v : α} {p : Nat × α} (h : p ∈ tabPut t n v) :
    p = (n, v) ∨ p ∈ t := by
  induction t with
  | nil => simp [tabPut] at h; exact .inl h
  | cons q t ih =>
    obtain ⟨k, w⟩ := q
    unfold tabPut at h
    split at h
    · rcases List.mem_cons.mp h with h | h
      · exact .inl h
      · exact .inr (List.mem_cons_of_mem _ h)
    · split at h
      · rcases List.mem_cons.mp h with h | h
        · exact .inl h
        · exact .inr h
      · rcases List.mem_cons.mp h with h | h
        · exact .inr (h ▸ List.mem_cons_self)
        · exact (ih h).imp id (List.mem_cons_of_mem _)

/-- An entry that a key finds is in the table. -/
theorem mem_of_tabFind {α : Type} {t : Tab α} {n : Nat} {v : α} (h : tabFind t n = some v) : (n, v) ∈ t := by
  induction t with
  | nil => simp [tabFind] at h
  | cons q t ih =>
    obtain ⟨k, w⟩ := q
    unfold tabFind at h
    split at h
    · rename_i hk; subst hk; simp_all
    · exact List.mem_cons_of_mem _ (ih h)

/-! ### Byte memories -/

/-- The canonical form says: keys strictly rising, no zero listed. -/
theorem wf_iff (m : List Host.Cell) :
    Memory.wf m = true ↔ m.Pairwise (fun p q => p.1 < q.1) ∧ ∀ p ∈ m, p.2 ≠ 0 := by
  induction m with
  | nil => simp [Memory.wf]
  | cons p t ih =>
    obtain ⟨k, v⟩ := p
    cases t with
    | nil => simp [Memory.wf]
    | cons q t =>
      obtain ⟨k', v'⟩ := q
      simp only [Memory.wf, Bool.and_eq_true, decide_eq_true_eq, ih, List.pairwise_cons, List.mem_cons, forall_eq_or_imp]
      constructor
      · rintro ⟨⟨h1, h2⟩, ⟨h3, h4⟩, h5, h6⟩
        exact ⟨⟨⟨h2, fun a ha => Nat.lt_trans h2 (h3 a ha)⟩, h3, h4⟩, h1, h5, h6⟩
      · rintro ⟨⟨⟨h2, -⟩, h3, h4⟩, h1, h5, h6⟩
        exact ⟨⟨h1, h2⟩, ⟨h3, h4⟩, h5, h6⟩

theorem wf_nil : Memory.wf [] = true := rfl

/-- What a memory holds after a write was written there or was there before. -/
theorem mem_cellWrite {m : List Host.Cell} {n : Nat} {v : Byte} {p : Host.Cell} (h : p ∈ cellWrite m n v) :
    p = (n, v) ∨ p ∈ m := by
  induction m with
  | nil =>
    unfold cellWrite at h
    split at h
    · simp at h
    · simp at h; exact .inl h
  | cons q t ih =>
    obtain ⟨k, w⟩ := q
    unfold cellWrite at h
    split at h
    · split at h
      · exact .inr (List.mem_cons_of_mem _ h)
      · rcases List.mem_cons.mp h with h | h
        · exact .inl h
        · exact .inr (List.mem_cons_of_mem _ h)
    · split at h
      · split at h
        · exact .inr h
        · rcases List.mem_cons.mp h with h | h
          · exact .inl h
          · exact .inr h
      · rcases List.mem_cons.mp h with h | h
        · exact .inr (h ▸ List.mem_cons_self)
        · exact (ih h).imp id (List.mem_cons_of_mem _)

/-- A write of one byte keeps the canonical form. -/
theorem cellWrite_wf (m : List Host.Cell) (n : Nat) (v : Byte) (h : Memory.wf m = true) :
    Memory.wf (cellWrite m n v) = true := by
  rw [wf_iff] at h ⊢
  induction m with
  | nil =>
    unfold cellWrite
    split
    · simp
    · simpa using ‹¬ v = 0›
  | cons q t ih =>
    obtain ⟨k, w⟩ := q
    obtain ⟨hp, hz⟩ := h
    rw [List.pairwise_cons] at hp
    have hz' := fun p hp => hz p (List.mem_cons_of_mem _ hp)
    unfold cellWrite
    split
    · rename_i hk
      subst hk
      split
      · exact ⟨hp.2, hz'⟩
      · exact ⟨List.pairwise_cons.mpr hp, fun p hm => (List.mem_cons.mp hm).elim (fun e => e ▸ ‹_›) (hz' p)⟩
    · split
      · split
        · exact ⟨List.pairwise_cons.mpr hp, hz⟩
        · refine ⟨List.pairwise_cons.mpr ⟨?_, List.pairwise_cons.mpr hp⟩, ?_⟩
          · intro p hm
            rcases List.mem_cons.mp hm with e | hm
            · subst e; assumption
            · exact Nat.lt_trans ‹_› (hp.1 p hm)
          · intro p hm
            rcases List.mem_cons.mp hm with e | hm
            · subst e; assumption
            · exact hz p hm
      · have hr := ih ⟨hp.2, hz'⟩
        refine ⟨List.pairwise_cons.mpr ⟨?_, hr.1⟩, ?_⟩
        · intro p hm
          rcases mem_cellWrite hm with e | hm
          · subst e; simp only; omega
          · exact hp.1 p hm
        · intro p hm
          rcases List.mem_cons.mp hm with e | hm
          · subst e; exact hz _ List.mem_cons_self
          · exact hr.2 p hm

/-- A write of a run of bytes keeps the canonical form. -/
theorem cellWrites_wf (m : List Host.Cell) (a : Nat) (bs : Bytes) (h : Memory.wf m = true) :
    Memory.wf (cellWrites m a bs) = true := by
  induction bs generalizing m a with
  | nil => exact h
  | cons b bs ih => exact ih _ _ (cellWrite_wf m a b h)

/-- Leaving cells out keeps the canonical form. -/
theorem filter_wf (m : List Host.Cell) (p : Host.Cell → Bool) (h : Memory.wf m = true) :
    Memory.wf (m.filter p) = true := by
  rw [wf_iff] at h ⊢
  exact ⟨h.1.filter _, fun q hq => h.2 q (List.mem_of_mem_filter hq)⟩

/-- Clearing a run of bytes keeps the canonical form. -/
theorem cellClear_wf (m : List Host.Cell) (a n : Nat) (h : Memory.wf m = true) :
    Memory.wf (cellClear m a n) = true := filter_wf m _ h

/-- Reading a byte just written gives what was written. -/
theorem cellRead_write_self (m : List Host.Cell) (a : Nat) (v : Byte) (h : Memory.wf m = true) :
    cellRead (cellWrite m a v) a = v := by
  rw [wf_iff] at h
  have hn : ∀ (t : List Host.Cell), (∀ q ∈ t, a < q.1) → tabFind t a = none := by
    intro t
    induction t with
    | nil => intro _; rfl
    | cons q t ih =>
      intro hq
      have := hq q List.mem_cons_self
      obtain ⟨k, w⟩ := q
      simp only [tabFind, Nat.ne_of_gt this, if_false]
      exact ih fun r hr => hq r (List.mem_cons_of_mem _ hr)
  unfold cellRead tabGet
  induction m with
  | nil =>
    unfold cellWrite
    split
    · simp_all [tabFind]
    · simp [tabFind]
  | cons q t ih =>
    obtain ⟨k, w⟩ := q
    obtain ⟨hp, hz⟩ := h
    rw [List.pairwise_cons] at hp
    unfold cellWrite
    split
    · rename_i hk
      subst hk
      split
      · rw [hn t fun q hq => hp.1 q hq]; simp_all
      · simp [tabFind]
    · split
      · split
        · have : tabFind ((k, w) :: t) a = none := hn _ fun q hq => by
            rcases List.mem_cons.mp hq with e | hq
            · subst e; assumption
            · exact Nat.lt_trans ‹_› (hp.1 q hq)
          rw [this]; simp_all
        · simp [tabFind]
      · simp only [tabFind, if_neg ‹¬ k = a›]
        exact ih ⟨hp.2, fun p hp => hz p (List.mem_cons_of_mem _ hp)⟩

/-- A write of one byte leaves every other byte as it was. -/
theorem cellRead_write_other (m : List Host.Cell) {a b : Nat} (v : Byte) (h : b ≠ a) (hw : Memory.wf m = true) :
    cellRead (cellWrite m a v) b = cellRead m b := by
  rw [wf_iff] at hw
  unfold cellRead tabGet
  induction m with
  | nil => unfold cellWrite; split <;> simp [tabFind, Ne.symm h]
  | cons q t ih =>
    obtain ⟨k, w⟩ := q
    obtain ⟨hp, hz⟩ := hw
    rw [List.pairwise_cons] at hp
    unfold cellWrite
    split
    · rename_i hk; subst hk
      split <;> simp [tabFind, Ne.symm h]
    · split
      · split
        · rfl
        · simp [tabFind, Ne.symm h]
      · simp only [tabFind]
        split
        · rfl
        · exact ih ⟨hp.2, fun p hp => hz p (List.mem_cons_of_mem _ hp)⟩

/-- A write of a run of bytes leaves every byte outside it as it was. -/
theorem cellRead_writes_other (m : List Host.Cell) (a : Nat) (bs : Bytes) (b : Nat) (h : b < a ∨ a + bs.length ≤ b)
    (hw : Memory.wf m = true) : cellRead (cellWrites m a bs) b = cellRead m b := by
  induction bs generalizing m a with
  | nil => rfl
  | cons x xs ih =>
    simp only [List.length_cons] at h
    rw [cellWrites, ih _ _ (by omega) (cellWrite_wf m a x hw), cellRead_write_other m x (by omega) hw]

end Sys2Proof.Laws
end

