-- ==== Sys2Proof/Laws/Keep.lean ====
section
/-! SUPPORT. The relation `Kept` carried through the shapes in which meanings are written: record updates, results with a
state inside, folds.  The lemmas of each operation are in the files beside this one. -/

namespace Sys2Proof.Laws

open Sys2Proof.Machine Sys2Proof.Safety

theorem Kept.refl (s : State) : Kept s s :=
  ⟨rfl, rfl, List.prefix_rfl, Nat.le_refl _, id⟩

theorem Kept.trans {r s t : State} (h : Kept r s) (g : Kept s t) : Kept r t :=
  ⟨g.queue.trans h.queue, g.fuses.trans h.fuses, h.sent.trans g.sent, h.drawn.trans g.drawn, g.memory ∘ h.memory⟩

/-- A state that agrees with a kept one in what the relation speaks of is kept. -/
theorem Kept.of {r s t : State} (h : Kept r s) (e1 : t.pending = s.pending) (e2 : fuses t.ctl = fuses s.ctl)
    (e3 : t.left = s.left) (e4 : t.freeCtr = s.freeCtr) (e5 : t.atlas.mem = s.atlas.mem)
    (e6 : t.ctl.staging = s.ctl.staging) (e7 : t.store.nss = s.store.nss) : Kept r t :=
  ⟨e1.trans h.queue, e2.trans h.fuses, e3 ▸ h.sent, e4 ▸ h.drawn, fun k => by
    have := h.memory k
    unfold MemoryOk at *
    rw [e5, e6, e7]; exact this⟩

/-- What the relation says of a state, from the parts it speaks of. -/
def KeptParts (r : State) (pending : List Instr) (ctl : Control) (left : List Out) (freeCtr : Nat) (atlas : Atlas)
    (store : Store) : Prop :=
  pending = r.pending ∧ fuses ctl = fuses r.ctl ∧ r.left <+: left ∧ r.freeCtr ≤ freeCtr ∧
    (MemoryOk r → Memory.wf atlas.mem = true ∧ Memory.wf ctl.staging = true ∧
      ∀ n ∈ store.nss, Memory.wf n.2.data = true)

/-- The relation for a state written out as its fields. -/
theorem Kept.mk_iff {r : State} {clk cores enCores enStacks enChans enPorts atlas jobs fab log ctl cp host time search
    models serving units tens mboxes inflight store power survey out left freeCtr pending} :
    Kept r (State.mk clk cores enCores enStacks enChans enPorts atlas jobs fab log ctl cp host time search models serving
      units tens mboxes inflight store power survey out left freeCtr pending) ↔
      KeptParts r pending ctl left freeCtr atlas store :=
  ⟨fun h => ⟨h.queue, h.fuses, h.sent, h.drawn, h.memory⟩, fun h => ⟨h.1, h.2.1, h.2.2.1, h.2.2.2.1, h.2.2.2.2⟩⟩

/-- Parts that agree with a kept state's in what the relation speaks of. -/
theorem KeptParts.of {r s : State} {pending ctl left freeCtr atlas store} (e1 : pending = s.pending)
    (e2 : fuses ctl = fuses s.ctl) (e3 : left = s.left) (e4 : freeCtr = s.freeCtr) (e5 : atlas.mem = s.atlas.mem)
    (e6 : ctl.staging = s.ctl.staging) (e7 : store.nss = s.store.nss) (h : Kept r s) :
    KeptParts r pending ctl left freeCtr atlas store := by
  subst e1 e3 e4
  refine ⟨h.queue, e2.trans h.fuses, h.sent, h.drawn, fun k => ?_⟩
  rw [e5, e6, e7]
  exact h.memory k

/-- Drawing free values keeps. -/
theorem Kept.draw {r s : State} {n : Nat} (h : Kept r s) : Kept r { s with freeCtr := s.freeCtr + n } :=
  ⟨h.queue, h.fuses, h.sent, Nat.le_trans h.drawn (Nat.le_add_right _ _), h.memory⟩

/-- A fold of kept steps keeps. -/
theorem Kept.foldl {α : Type} {r s : State} {f : State → α → State} {l : List α} (h : Kept r s)
    (hf : ∀ t a, Kept r t → Kept r (f t a)) : Kept r (l.foldl f s) := by
  induction l generalizing s with
  | nil => exact h
  | cons a l ih => exact ih (hf _ _ h)

/-- A fold from the right of kept steps keeps. -/
theorem Kept.foldr {α : Type} {r s : State} {f : α → State → State} {l : List α} (h : Kept r s)
    (hf : ∀ a t, Kept r t → Kept r (f a t)) : Kept r (l.foldr f s) := by
  induction l with
  | nil => exact h
  | cons a l ih => exact hf _ _ ih

/-! ### Results with a state inside -/

/-- The state of a pair is kept. -/
structure KP {α : Type} (r : State) (p : State × α) : Prop where
  fst : Kept r p.1

/-- What an option holds, if anything. -/
structure KO {α : Type} (P : α → Prop) (o : Option α) : Prop where
  of : ∀ a, o = some a → P a

/-- What either side of a result holds. -/
structure KE {ε α : Type} (P : ε → Prop) (Q : α → Prop) (x : Except ε α) : Prop where
  ofErr : ∀ e, x = .error e → P e
  ofOk : ∀ a, x = .ok a → Q a

/-- No claim. -/
structure KT {α : Type} (a : α) : Prop where
  triv : a = a

/-- The next state of an outcome is kept. -/
structure KR (r : State) (o : Host.Outcome State Fault Refusal) : Prop where
  of : ∀ t, o = .next t → Kept r t

variable {α β ε : Type} {r s t : State}

theorem KT.intro (a : α) : KT a := ⟨rfl⟩

theorem KP.intro {x : α} (h : Kept r s) : KP r (s, x) := ⟨h⟩
theorem KP.get {p : State × α} {x : α} (e : p = (t, x)) (h : KP r p) : Kept r t := by subst e; exact h.fst
theorem KP.foldl {f : State × α → β → State × α} {l : List β} {p : State × α} (h : KP r p)
    (hf : ∀ q b, KP r q → KP r (f q b)) : KP r (l.foldl f p) := by
  induction l generalizing p with
  | nil => exact h
  | cons a l ih => exact ih (hf _ _ h)

theorem KO.none {P : α → Prop} : KO P none := ⟨fun _ h => by cases h⟩
theorem KO.some {P : α → Prop} {a : α} (h : P a) : KO P (some a) := ⟨fun _ e => by cases e; exact h⟩
theorem KO.get {o : Option State} (e : o = .some t) (h : KO (Kept r) o) : Kept r t := h.of _ e
theorem KO.getP {o : Option (State × α)} {x : α} (e : o = .some (t, x)) (h : KO (KP r) o) : Kept r t := (h.of _ e).fst
theorem KO.getP' {o : Option (State × α)} {p : State × α} (e : o = .some p) (h : KO (KP r) o) : Kept r p.1 := (h.of _ e).fst
theorem KO.val (h : KO (Kept r) (.some t)) : Kept r t := h.of _ rfl
theorem KO.getD {o : Option State} (h : KO (Kept r) o) (g : Kept r s) : Kept r (o.getD s) := by
  cases o with
  | none => exact g
  | some t => exact h.of _ rfl
theorem KO.map {P : α → Prop} {Q : β → Prop} {o : Option α} {f : α → β} (h : KO P o) (hf : ∀ a, P a → Q (f a)) :
    KO Q (o.map f) := by
  cases o with
  | none => exact KO.none
  | some a => exact KO.some (hf _ (h.of _ rfl))
theorem KO.foldl {P : α → Prop} {f : Option α → β → Option α} {l : List β} {o : Option α} (h : KO P o)
    (hf : ∀ q b, KO P q → KO P (f q b)) : KO P (l.foldl f o) := by
  induction l generalizing o with
  | nil => exact h
  | cons a l ih => exact ih (hf _ _ h)

theorem KE.ok {P : ε → Prop} {Q : α → Prop} {a : α} (h : Q a) : KE P Q (.ok a) :=
  ⟨fun _ e => (by cases e), fun _ e => (by cases e; exact h)⟩
theorem KE.error {P : ε → Prop} {Q : α → Prop} {a : ε} (h : P a) : KE P Q (.error a) :=
  ⟨fun _ e => (by cases e; exact h), fun _ e => (by cases e)⟩
theorem KE.getOkS {x : Except State State} (e : x = .ok t) (h : KE (Kept r) (Kept r) x) : Kept r t := h.ofOk _ e
theorem KE.getOkPS {x : Except State (State × α)} {a : α} (e : x = .ok (t, a)) (h : KE (Kept r) (KP r) x) : Kept r t :=
  (h.ofOk _ e).fst
theorem KE.getOkQS {x : Except State (State × α)} {p : State × α} (e : x = .ok p) (h : KE (Kept r) (KP r) x) :
    Kept r p.1 := (h.ofOk _ e).fst
theorem KE.getOkN {x : Except Nat State} (e : x = .ok t) (h : KE (KT) (Kept r) x) : Kept r t := h.ofOk _ e
theorem KE.getOkPN {x : Except Nat (State × α)} {a : α} (e : x = .ok (t, a)) (h : KE (KT) (KP r) x) : Kept r t :=
  (h.ofOk _ e).fst
theorem KE.getOkQN {x : Except Nat (State × α)} {p : State × α} (e : x = .ok p) (h : KE (KT) (KP r) x) :
    Kept r p.1 := (h.ofOk _ e).fst
theorem KE.getErr {x : Except State State} (e : x = .error t) (h : KE (Kept r) (Kept r) x) : Kept r t := h.ofErr _ e
theorem KE.getErrP {x : Except State (State × α)} (e : x = .error t) (h : KE (Kept r) (KP r) x) : Kept r t := h.ofErr _ e
theorem KE.getErrU {x : Except State Unit} (e : x = .error t) (h : KE (Kept r) KT x) : Kept r t := h.ofErr _ e
theorem KE.foldl {P : ε → Prop} {Q : α → Prop} {f : Except ε α → β → Except ε α} {l : List β} {x : Except ε α}
    (h : KE P Q x) (hf : ∀ q b, KE P Q q → KE P Q (f q b)) : KE P Q (l.foldl f x) := by
  induction l generalizing x with
  | nil => exact h
  | cons a l ih => exact ih (hf _ _ h)

theorem KR.next (h : Kept r t) : KR r (.next t) := ⟨fun _ e => by cases e; exact h⟩
theorem KR.fault {f : Fault} : KR r (.fault f) := ⟨fun _ e => by cases e⟩
theorem KR.refused {f : Refusal} : KR r (.refused f) := ⟨fun _ e => by cases e⟩
theorem KR.get {o : Host.Outcome State Fault Refusal} (e : o = .next t) (h : KR r o) : Kept r t := h.of _ e

/-! ### The results of the operations that keep a state of their own -/

/-- The state inside a `Served` is kept. -/
structure KServed (r : State) (o : Served) : Prop where
  ofDone : ∀ s, o = .done s → Kept r s
  ofWait : ∀ s q, o = .wait s q → Kept r s

theorem KServed.done (h : Kept r s) : KServed r (.done s) :=
  ⟨fun _ e => (by cases e; exact h), fun _ _ e => (by cases e)⟩
theorem KServed.getDone {o : Served} (e : o = .done t) (h : KServed r o) : Kept r t := h.ofDone _ e
theorem KServed.wait {q} (h : Kept r s) : KServed r (.wait s q) :=
  ⟨fun _ e => (by cases e), fun _ _ e => (by cases e; exact h)⟩
theorem KServed.getWait {o : Served} {q} (e : o = .wait t q) (h : KServed r o) : Kept r t := h.ofWait _ _ e

/-- The state inside a `PageAcc` is kept. -/
structure KPageAcc (r : State) (o : PageAcc) : Prop where
  ofWait : ∀ s, o = .wait s → Kept r s

theorem KPageAcc.ready : KPageAcc r (.ready) :=
  ⟨fun _ e => (by cases e)⟩
theorem KPageAcc.wait (h : Kept r s) : KPageAcc r (.wait s) :=
  ⟨fun _ e => (by cases e; exact h)⟩
theorem KPageAcc.getWait {o : PageAcc} (e : o = .wait t) (h : KPageAcc r o) : Kept r t := h.ofWait _ e
theorem KPageAcc.fault {k c p} : KPageAcc r (.fault k c p) :=
  ⟨fun _ e => (by cases e)⟩

/-- The state inside a `Target` is kept. -/
structure KTarget (r : State) (o : Target) : Prop where
  ofWait : ∀ s, o = .wait s → Kept r s

theorem KTarget.ready : KTarget r (.ready) :=
  ⟨fun _ e => (by cases e)⟩
theorem KTarget.wait (h : Kept r s) : KTarget r (.wait s) :=
  ⟨fun _ e => (by cases e; exact h)⟩
theorem KTarget.getWait {o : Target} (e : o = .wait t) (h : KTarget r o) : Kept r t := h.ofWait _ e
theorem KTarget.err {a k c} : KTarget r (.err a k c) :=
  ⟨fun _ e => (by cases e)⟩

/-- The state inside a `CmdAcc` is kept. -/
structure KCmdAcc (r : State) (o : CmdAcc) : Prop where
  ofOk : ∀ s bs, o = .ok s bs → Kept r s
  ofWait : ∀ s, o = .wait s → Kept r s

theorem KCmdAcc.ok {bs} (h : Kept r s) : KCmdAcc r (.ok s bs) :=
  ⟨fun _ _ e => (by cases e; exact h), fun _ e => (by cases e)⟩
theorem KCmdAcc.getOk {o : CmdAcc} {bs} (e : o = .ok t bs) (h : KCmdAcc r o) : Kept r t := h.ofOk _ _ e
theorem KCmdAcc.wait (h : Kept r s) : KCmdAcc r (.wait s) :=
  ⟨fun _ _ e => (by cases e), fun _ e => (by cases e; exact h)⟩
theorem KCmdAcc.getWait {o : CmdAcc} (e : o = .wait t) (h : KCmdAcc r o) : Kept r t := h.ofWait _ e
theorem KCmdAcc.fault {k c p} : KCmdAcc r (.fault k c p) :=
  ⟨fun _ _ e => (by cases e), fun _ e => (by cases e)⟩

/-- The state inside a `SeqAcc` is kept. -/
structure KSeqAcc (r : State) (o : SeqAcc) : Prop where
  ofOk : ∀ s bs, o = .ok s bs → Kept r s
  ofWait : ∀ s, o = .wait s → Kept r s
  ofFault : ∀ s k c p, o = .fault s k c p → Kept r s

theorem KSeqAcc.ok {bs} (h : Kept r s) : KSeqAcc r (.ok s bs) :=
  ⟨fun _ _ e => (by cases e; exact h), fun _ e => (by cases e), fun _ _ _ _ e => (by cases e)⟩
theorem KSeqAcc.getOk {o : SeqAcc} {bs} (e : o = .ok t bs) (h : KSeqAcc r o) : Kept r t := h.ofOk _ _ e
theorem KSeqAcc.wait (h : Kept r s) : KSeqAcc r (.wait s) :=
  ⟨fun _ _ e => (by cases e), fun _ e => (by cases e; exact h), fun _ _ _ _ e => (by cases e)⟩
theorem KSeqAcc.getWait {o : SeqAcc} (e : o = .wait t) (h : KSeqAcc r o) : Kept r t := h.ofWait _ e
theorem KSeqAcc.fault {k c p} (h : Kept r s) : KSeqAcc r (.fault s k c p) :=
  ⟨fun _ _ e => (by cases e), fun _ e => (by cases e), fun _ _ _ _ e => (by cases e; exact h)⟩
theorem KSeqAcc.getFault {o : SeqAcc} {k c p} (e : o = .fault t k c p) (h : KSeqAcc r o) : Kept r t := h.ofFault _ _ _ _ e

/-- The state inside a `QStep` is kept. -/
structure KQStep (r : State) (o : QStep) : Prop where
  ofWait : ∀ s, o = .wait s → Kept r s
  ofFault : ∀ s k a c p, o = .fault s k a c p → Kept r s
  ofDone : ∀ s q ps, o = .done s q ps → Kept r s

theorem KQStep.wait (h : Kept r s) : KQStep r (.wait s) :=
  ⟨fun _ e => (by cases e; exact h), fun _ _ _ _ _ e => (by cases e), fun _ _ _ e => (by cases e)⟩
theorem KQStep.getWait {o : QStep} (e : o = .wait t) (h : KQStep r o) : Kept r t := h.ofWait _ e
theorem KQStep.fault {k a c p} (h : Kept r s) : KQStep r (.fault s k a c p) :=
  ⟨fun _ e => (by cases e), fun _ _ _ _ _ e => (by cases e; exact h), fun _ _ _ e => (by cases e)⟩
theorem KQStep.getFault {o : QStep} {k a c p} (e : o = .fault t k a c p) (h : KQStep r o) : Kept r t := h.ofFault _ _ _ _ _ e
theorem KQStep.done {q ps} (h : Kept r s) : KQStep r (.done s q ps) :=
  ⟨fun _ e => (by cases e), fun _ _ _ _ _ e => (by cases e), fun _ _ _ e => (by cases e; exact h)⟩
theorem KQStep.getDone {o : QStep} {q ps} (e : o = .done t q ps) (h : KQStep r o) : Kept r t := h.ofDone _ _ _ e

/-- The state inside a `UnitStop` is kept. -/
structure KUnitStop (r : State) (o : UnitStop) : Prop where
  ofWait : ∀ s, o = .wait s → Kept r s
  ofFault : ∀ s k a c p, o = .fault s k a c p → Kept r s

theorem KUnitStop.wait (h : Kept r s) : KUnitStop r (.wait s) :=
  ⟨fun _ e => (by cases e; exact h), fun _ _ _ _ _ e => (by cases e)⟩
theorem KUnitStop.getWait {o : UnitStop} (e : o = .wait t) (h : KUnitStop r o) : Kept r t := h.ofWait _ e
theorem KUnitStop.fault {k a c p} (h : Kept r s) : KUnitStop r (.fault s k a c p) :=
  ⟨fun _ e => (by cases e), fun _ _ _ _ _ e => (by cases e; exact h)⟩
theorem KUnitStop.getFault {o : UnitStop} {k a c p} (e : o = .fault t k a c p) (h : KUnitStop r o) : Kept r t := h.ofFault _ _ _ _ _ e
theorem KUnitStop.err {x : Except UnitStop State} {o : UnitStop} (e : x = .error o)
    (h : KE (KUnitStop r) (Kept r) x) : KUnitStop r o := h.ofErr _ e
theorem KUnitStop.errP {x : Except UnitStop (State × α)} {o : UnitStop} (e : x = .error o)
    (h : KE (KUnitStop r) (KP r) x) : KUnitStop r o := h.ofErr _ e
theorem KE.getOkV {x : Except UnitStop State} (e : x = .ok t) (h : KE (KUnitStop r) (Kept r) x) : Kept r t := h.ofOk _ e
theorem KE.getOkPV {x : Except UnitStop (State × α)} {a : α} (e : x = .ok (t, a)) (h : KE (KUnitStop r) (KP r) x) :
    Kept r t := (h.ofOk _ e).fst
theorem KE.getOkQV {x : Except UnitStop (State × α)} {p : State × α} (e : x = .ok p) (h : KE (KUnitStop r) (KP r) x) :
    Kept r p.1 := (h.ofOk _ e).fst

/-- The state inside a `AtBound` is kept. -/
structure KAtBound (r : State) (o : AtBound) : Prop where
  ofDone : ∀ s, o = .done s → Kept r s
  ofWait : ∀ s, o = .wait s → Kept r s

theorem KAtBound.done (h : Kept r s) : KAtBound r (.done s) :=
  ⟨fun _ e => (by cases e; exact h), fun _ e => (by cases e)⟩
theorem KAtBound.getDone {o : AtBound} (e : o = .done t) (h : KAtBound r o) : Kept r t := h.ofDone _ e
theorem KAtBound.wait (h : Kept r s) : KAtBound r (.wait s) :=
  ⟨fun _ e => (by cases e), fun _ e => (by cases e; exact h)⟩
theorem KAtBound.getWait {o : AtBound} (e : o = .wait t) (h : KAtBound r o) : Kept r t := h.ofWait _ e
theorem KAtBound.ready {i x v} : KAtBound r (.ready i x v) :=
  ⟨fun _ e => (by cases e), fun _ e => (by cases e)⟩

/-- The state inside a `Import` is kept. -/
structure KImport (r : State) (o : Import) : Prop where
  ofFault : ∀ s k a c p, o = .fault s k a c p → Kept r s
  ofWait : ∀ s, o = .wait s → Kept r s
  ofOk : ∀ s slot, o = .ok s slot → Kept r s

theorem KImport.refuse {st} : KImport r (.refuse st) :=
  ⟨fun _ _ _ _ _ e => (by cases e), fun _ e => (by cases e), fun _ _ e => (by cases e)⟩
theorem KImport.fault {k a c p} (h : Kept r s) : KImport r (.fault s k a c p) :=
  ⟨fun _ _ _ _ _ e => (by cases e; exact h), fun _ e => (by cases e), fun _ _ e => (by cases e)⟩
theorem KImport.getFault {o : Import} {k a c p} (e : o = .fault t k a c p) (h : KImport r o) : Kept r t := h.ofFault _ _ _ _ _ e
theorem KImport.wait (h : Kept r s) : KImport r (.wait s) :=
  ⟨fun _ _ _ _ _ e => (by cases e), fun _ e => (by cases e; exact h), fun _ _ e => (by cases e)⟩
theorem KImport.getWait {o : Import} (e : o = .wait t) (h : KImport r o) : Kept r t := h.ofWait _ e
theorem KImport.ok {slot} (h : Kept r s) : KImport r (.ok s slot) :=
  ⟨fun _ _ _ _ _ e => (by cases e), fun _ e => (by cases e), fun _ _ e => (by cases e; exact h)⟩
theorem KImport.getOk {o : Import} {slot} (e : o = .ok t slot) (h : KImport r o) : Kept r t := h.ofOk _ _ e

/-- The state inside a `Plan` is kept. -/
structure KPlan (r : State) (o : Plan) : Prop where
  ofEnt : ∀ s e, o = .ent s e → Kept r s
  ofSkip : ∀ s, o = .skip s → Kept r s
  ofWait : ∀ s, o = .wait s → Kept r s

theorem KPlan.ent {e} (h : Kept r s) : KPlan r (.ent s e) :=
  ⟨fun _ _ e => (by cases e; exact h), fun _ e => (by cases e), fun _ e => (by cases e)⟩
theorem KPlan.getEnt {o : Plan} {e} (e : o = .ent t e) (h : KPlan r o) : Kept r t := h.ofEnt _ _ e
theorem KPlan.skip (h : Kept r s) : KPlan r (.skip s) :=
  ⟨fun _ _ e => (by cases e), fun _ e => (by cases e; exact h), fun _ e => (by cases e)⟩
theorem KPlan.getSkip {o : Plan} (e : o = .skip t) (h : KPlan r o) : Kept r t := h.ofSkip _ e
theorem KPlan.wait (h : Kept r s) : KPlan r (.wait s) :=
  ⟨fun _ _ e => (by cases e), fun _ e => (by cases e), fun _ e => (by cases e; exact h)⟩
theorem KPlan.getWait {o : Plan} (e : o = .wait t) (h : KPlan r o) : Kept r t := h.ofWait _ e

end Sys2Proof.Laws
end

