-- ==== Sys2Proof/Laws/State.lean ====
section
/-! SUPPORT. What each update of one field of the state leaves of every field: one lemma per field per update. -/

namespace Sys2Proof.Machine

/-! ### setCore: `cores` -/

@[simp] theorem setCore_clk (s : State) (c : Nat) (k : Core) : (setCore s c k).clk = s.clk := rfl
@[simp] theorem setCore_enCores (s : State) (c : Nat) (k : Core) : (setCore s c k).enCores = s.enCores := rfl
@[simp] theorem setCore_enStacks (s : State) (c : Nat) (k : Core) : (setCore s c k).enStacks = s.enStacks := rfl
@[simp] theorem setCore_enChans (s : State) (c : Nat) (k : Core) : (setCore s c k).enChans = s.enChans := rfl
@[simp] theorem setCore_enPorts (s : State) (c : Nat) (k : Core) : (setCore s c k).enPorts = s.enPorts := rfl
@[simp] theorem setCore_atlas (s : State) (c : Nat) (k : Core) : (setCore s c k).atlas = s.atlas := rfl
@[simp] theorem setCore_jobs (s : State) (c : Nat) (k : Core) : (setCore s c k).jobs = s.jobs := rfl
@[simp] theorem setCore_fab (s : State) (c : Nat) (k : Core) : (setCore s c k).fab = s.fab := rfl
@[simp] theorem setCore_log (s : State) (c : Nat) (k : Core) : (setCore s c k).log = s.log := rfl
@[simp] theorem setCore_ctl (s : State) (c : Nat) (k : Core) : (setCore s c k).ctl = s.ctl := rfl
@[simp] theorem setCore_cp (s : State) (c : Nat) (k : Core) : (setCore s c k).cp = s.cp := rfl
@[simp] theorem setCore_host (s : State) (c : Nat) (k : Core) : (setCore s c k).host = s.host := rfl
@[simp] theorem setCore_time (s : State) (c : Nat) (k : Core) : (setCore s c k).time = s.time := rfl
@[simp] theorem setCore_search (s : State) (c : Nat) (k : Core) : (setCore s c k).search = s.search := rfl
@[simp] theorem setCore_models (s : State) (c : Nat) (k : Core) : (setCore s c k).models = s.models := rfl
@[simp] theorem setCore_serving (s : State) (c : Nat) (k : Core) : (setCore s c k).serving = s.serving := rfl
@[simp] theorem setCore_units (s : State) (c : Nat) (k : Core) : (setCore s c k).units = s.units := rfl
@[simp] theorem setCore_tens (s : State) (c : Nat) (k : Core) : (setCore s c k).tens = s.tens := rfl
@[simp] theorem setCore_mboxes (s : State) (c : Nat) (k : Core) : (setCore s c k).mboxes = s.mboxes := rfl
@[simp] theorem setCore_inflight (s : State) (c : Nat) (k : Core) : (setCore s c k).inflight = s.inflight := rfl
@[simp] theorem setCore_store (s : State) (c : Nat) (k : Core) : (setCore s c k).store = s.store := rfl
@[simp] theorem setCore_power (s : State) (c : Nat) (k : Core) : (setCore s c k).power = s.power := rfl
@[simp] theorem setCore_survey (s : State) (c : Nat) (k : Core) : (setCore s c k).survey = s.survey := rfl
@[simp] theorem setCore_out (s : State) (c : Nat) (k : Core) : (setCore s c k).out = s.out := rfl
@[simp] theorem setCore_left (s : State) (c : Nat) (k : Core) : (setCore s c k).left = s.left := rfl
@[simp] theorem setCore_freeCtr (s : State) (c : Nat) (k : Core) : (setCore s c k).freeCtr = s.freeCtr := rfl
@[simp] theorem setCore_pending (s : State) (c : Nat) (k : Core) : (setCore s c k).pending = s.pending := rfl

/-! ### modCore: `cores` -/

@[simp] theorem modCore_clk (s : State) (c : Nat) (f : Core → Core) : (modCore s c f).clk = s.clk := rfl
@[simp] theorem modCore_enCores (s : State) (c : Nat) (f : Core → Core) : (modCore s c f).enCores = s.enCores := rfl
@[simp] theorem modCore_enStacks (s : State) (c : Nat) (f : Core → Core) : (modCore s c f).enStacks = s.enStacks := rfl
@[simp] theorem modCore_enChans (s : State) (c : Nat) (f : Core → Core) : (modCore s c f).enChans = s.enChans := rfl
@[simp] theorem modCore_enPorts (s : State) (c : Nat) (f : Core → Core) : (modCore s c f).enPorts = s.enPorts := rfl
@[simp] theorem modCore_atlas (s : State) (c : Nat) (f : Core → Core) : (modCore s c f).atlas = s.atlas := rfl
@[simp] theorem modCore_jobs (s : State) (c : Nat) (f : Core → Core) : (modCore s c f).jobs = s.jobs := rfl
@[simp] theorem modCore_fab (s : State) (c : Nat) (f : Core → Core) : (modCore s c f).fab = s.fab := rfl
@[simp] theorem modCore_log (s : State) (c : Nat) (f : Core → Core) : (modCore s c f).log = s.log := rfl
@[simp] theorem modCore_ctl (s : State) (c : Nat) (f : Core → Core) : (modCore s c f).ctl = s.ctl := rfl
@[simp] theorem modCore_cp (s : State) (c : Nat) (f : Core → Core) : (modCore s c f).cp = s.cp := rfl
@[simp] theorem modCore_host (s : State) (c : Nat) (f : Core → Core) : (modCore s c f).host = s.host := rfl
@[simp] theorem modCore_time (s : State) (c : Nat) (f : Core → Core) : (modCore s c f).time = s.time := rfl
@[simp] theorem modCore_search (s : State) (c : Nat) (f : Core → Core) : (modCore s c f).search = s.search := rfl
@[simp] theorem modCore_models (s : State) (c : Nat) (f : Core → Core) : (modCore s c f).models = s.models := rfl
@[simp] theorem modCore_serving (s : State) (c : Nat) (f : Core → Core) : (modCore s c f).serving = s.serving := rfl
@[simp] theorem modCore_units (s : State) (c : Nat) (f : Core → Core) : (modCore s c f).units = s.units := rfl
@[simp] theorem modCore_tens (s : State) (c : Nat) (f : Core → Core) : (modCore s c f).tens = s.tens := rfl
@[simp] theorem modCore_mboxes (s : State) (c : Nat) (f : Core → Core) : (modCore s c f).mboxes = s.mboxes := rfl
@[simp] theorem modCore_inflight (s : State) (c : Nat) (f : Core → Core) : (modCore s c f).inflight = s.inflight := rfl
@[simp] theorem modCore_store (s : State) (c : Nat) (f : Core → Core) : (modCore s c f).store = s.store := rfl
@[simp] theorem modCore_power (s : State) (c : Nat) (f : Core → Core) : (modCore s c f).power = s.power := rfl
@[simp] theorem modCore_survey (s : State) (c : Nat) (f : Core → Core) : (modCore s c f).survey = s.survey := rfl
@[simp] theorem modCore_out (s : State) (c : Nat) (f : Core → Core) : (modCore s c f).out = s.out := rfl
@[simp] theorem modCore_left (s : State) (c : Nat) (f : Core → Core) : (modCore s c f).left = s.left := rfl
@[simp] theorem modCore_freeCtr (s : State) (c : Nat) (f : Core → Core) : (modCore s c f).freeCtr = s.freeCtr := rfl
@[simp] theorem modCore_pending (s : State) (c : Nat) (f : Core → Core) : (modCore s c f).pending = s.pending := rfl

/-! ### modSlot: `cores` -/

@[simp] theorem modSlot_clk (s : State) (c i : Nat) (f : Slot → Slot) : (modSlot s c i f).clk = s.clk := rfl
@[simp] theorem modSlot_enCores (s : State) (c i : Nat) (f : Slot → Slot) : (modSlot s c i f).enCores = s.enCores := rfl
@[simp] theorem modSlot_enStacks (s : State) (c i : Nat) (f : Slot → Slot) : (modSlot s c i f).enStacks = s.enStacks := rfl
@[simp] theorem modSlot_enChans (s : State) (c i : Nat) (f : Slot → Slot) : (modSlot s c i f).enChans = s.enChans := rfl
@[simp] theorem modSlot_enPorts (s : State) (c i : Nat) (f : Slot → Slot) : (modSlot s c i f).enPorts = s.enPorts := rfl
@[simp] theorem modSlot_atlas (s : State) (c i : Nat) (f : Slot → Slot) : (modSlot s c i f).atlas = s.atlas := rfl
@[simp] theorem modSlot_jobs (s : State) (c i : Nat) (f : Slot → Slot) : (modSlot s c i f).jobs = s.jobs := rfl
@[simp] theorem modSlot_fab (s : State) (c i : Nat) (f : Slot → Slot) : (modSlot s c i f).fab = s.fab := rfl
@[simp] theorem modSlot_log (s : State) (c i : Nat) (f : Slot → Slot) : (modSlot s c i f).log = s.log := rfl
@[simp] theorem modSlot_ctl (s : State) (c i : Nat) (f : Slot → Slot) : (modSlot s c i f).ctl = s.ctl := rfl
@[simp] theorem modSlot_cp (s : State) (c i : Nat) (f : Slot → Slot) : (modSlot s c i f).cp = s.cp := rfl
@[simp] theorem modSlot_host (s : State) (c i : Nat) (f : Slot → Slot) : (modSlot s c i f).host = s.host := rfl
@[simp] theorem modSlot_time (s : State) (c i : Nat) (f : Slot → Slot) : (modSlot s c i f).time = s.time := rfl
@[simp] theorem modSlot_search (s : State) (c i : Nat) (f : Slot → Slot) : (modSlot s c i f).search = s.search := rfl
@[simp] theorem modSlot_models (s : State) (c i : Nat) (f : Slot → Slot) : (modSlot s c i f).models = s.models := rfl
@[simp] theorem modSlot_serving (s : State) (c i : Nat) (f : Slot → Slot) : (modSlot s c i f).serving = s.serving := rfl
@[simp] theorem modSlot_units (s : State) (c i : Nat) (f : Slot → Slot) : (modSlot s c i f).units = s.units := rfl
@[simp] theorem modSlot_tens (s : State) (c i : Nat) (f : Slot → Slot) : (modSlot s c i f).tens = s.tens := rfl
@[simp] theorem modSlot_mboxes (s : State) (c i : Nat) (f : Slot → Slot) : (modSlot s c i f).mboxes = s.mboxes := rfl
@[simp] theorem modSlot_inflight (s : State) (c i : Nat) (f : Slot → Slot) : (modSlot s c i f).inflight = s.inflight := rfl
@[simp] theorem modSlot_store (s : State) (c i : Nat) (f : Slot → Slot) : (modSlot s c i f).store = s.store := rfl
@[simp] theorem modSlot_power (s : State) (c i : Nat) (f : Slot → Slot) : (modSlot s c i f).power = s.power := rfl
@[simp] theorem modSlot_survey (s : State) (c i : Nat) (f : Slot → Slot) : (modSlot s c i f).survey = s.survey := rfl
@[simp] theorem modSlot_out (s : State) (c i : Nat) (f : Slot → Slot) : (modSlot s c i f).out = s.out := rfl
@[simp] theorem modSlot_left (s : State) (c i : Nat) (f : Slot → Slot) : (modSlot s c i f).left = s.left := rfl
@[simp] theorem modSlot_freeCtr (s : State) (c i : Nat) (f : Slot → Slot) : (modSlot s c i f).freeCtr = s.freeCtr := rfl
@[simp] theorem modSlot_pending (s : State) (c i : Nat) (f : Slot → Slot) : (modSlot s c i f).pending = s.pending := rfl

/-! ### modJob: `jobs` -/

@[simp] theorem modJob_clk (s : State) (j : Nat) (f : Job → Job) : (modJob s j f).clk = s.clk := rfl
@[simp] theorem modJob_cores (s : State) (j : Nat) (f : Job → Job) : (modJob s j f).cores = s.cores := rfl
@[simp] theorem modJob_enCores (s : State) (j : Nat) (f : Job → Job) : (modJob s j f).enCores = s.enCores := rfl
@[simp] theorem modJob_enStacks (s : State) (j : Nat) (f : Job → Job) : (modJob s j f).enStacks = s.enStacks := rfl
@[simp] theorem modJob_enChans (s : State) (j : Nat) (f : Job → Job) : (modJob s j f).enChans = s.enChans := rfl
@[simp] theorem modJob_enPorts (s : State) (j : Nat) (f : Job → Job) : (modJob s j f).enPorts = s.enPorts := rfl
@[simp] theorem modJob_atlas (s : State) (j : Nat) (f : Job → Job) : (modJob s j f).atlas = s.atlas := rfl
@[simp] theorem modJob_fab (s : State) (j : Nat) (f : Job → Job) : (modJob s j f).fab = s.fab := rfl
@[simp] theorem modJob_log (s : State) (j : Nat) (f : Job → Job) : (modJob s j f).log = s.log := rfl
@[simp] theorem modJob_ctl (s : State) (j : Nat) (f : Job → Job) : (modJob s j f).ctl = s.ctl := rfl
@[simp] theorem modJob_cp (s : State) (j : Nat) (f : Job → Job) : (modJob s j f).cp = s.cp := rfl
@[simp] theorem modJob_host (s : State) (j : Nat) (f : Job → Job) : (modJob s j f).host = s.host := rfl
@[simp] theorem modJob_time (s : State) (j : Nat) (f : Job → Job) : (modJob s j f).time = s.time := rfl
@[simp] theorem modJob_search (s : State) (j : Nat) (f : Job → Job) : (modJob s j f).search = s.search := rfl
@[simp] theorem modJob_models (s : State) (j : Nat) (f : Job → Job) : (modJob s j f).models = s.models := rfl
@[simp] theorem modJob_serving (s : State) (j : Nat) (f : Job → Job) : (modJob s j f).serving = s.serving := rfl
@[simp] theorem modJob_units (s : State) (j : Nat) (f : Job → Job) : (modJob s j f).units = s.units := rfl
@[simp] theorem modJob_tens (s : State) (j : Nat) (f : Job → Job) : (modJob s j f).tens = s.tens := rfl
@[simp] theorem modJob_mboxes (s : State) (j : Nat) (f : Job → Job) : (modJob s j f).mboxes = s.mboxes := rfl
@[simp] theorem modJob_inflight (s : State) (j : Nat) (f : Job → Job) : (modJob s j f).inflight = s.inflight := rfl
@[simp] theorem modJob_store (s : State) (j : Nat) (f : Job → Job) : (modJob s j f).store = s.store := rfl
@[simp] theorem modJob_power (s : State) (j : Nat) (f : Job → Job) : (modJob s j f).power = s.power := rfl
@[simp] theorem modJob_survey (s : State) (j : Nat) (f : Job → Job) : (modJob s j f).survey = s.survey := rfl
@[simp] theorem modJob_out (s : State) (j : Nat) (f : Job → Job) : (modJob s j f).out = s.out := rfl
@[simp] theorem modJob_left (s : State) (j : Nat) (f : Job → Job) : (modJob s j f).left = s.left := rfl
@[simp] theorem modJob_freeCtr (s : State) (j : Nat) (f : Job → Job) : (modJob s j f).freeCtr = s.freeCtr := rfl
@[simp] theorem modJob_pending (s : State) (j : Nat) (f : Job → Job) : (modJob s j f).pending = s.pending := rfl

/-! ### modAtlas: `atlas` -/

@[simp] theorem modAtlas_clk (s : State) (f : Atlas → Atlas) : (modAtlas s f).clk = s.clk := rfl
@[simp] theorem modAtlas_cores (s : State) (f : Atlas → Atlas) : (modAtlas s f).cores = s.cores := rfl
@[simp] theorem modAtlas_enCores (s : State) (f : Atlas → Atlas) : (modAtlas s f).enCores = s.enCores := rfl
@[simp] theorem modAtlas_enStacks (s : State) (f : Atlas → Atlas) : (modAtlas s f).enStacks = s.enStacks := rfl
@[simp] theorem modAtlas_enChans (s : State) (f : Atlas → Atlas) : (modAtlas s f).enChans = s.enChans := rfl
@[simp] theorem modAtlas_enPorts (s : State) (f : Atlas → Atlas) : (modAtlas s f).enPorts = s.enPorts := rfl
@[simp] theorem modAtlas_atlas (s : State) (f : Atlas → Atlas) : (modAtlas s f).atlas = f s.atlas := rfl
@[simp] theorem modAtlas_jobs (s : State) (f : Atlas → Atlas) : (modAtlas s f).jobs = s.jobs := rfl
@[simp] theorem modAtlas_fab (s : State) (f : Atlas → Atlas) : (modAtlas s f).fab = s.fab := rfl
@[simp] theorem modAtlas_log (s : State) (f : Atlas → Atlas) : (modAtlas s f).log = s.log := rfl
@[simp] theorem modAtlas_ctl (s : State) (f : Atlas → Atlas) : (modAtlas s f).ctl = s.ctl := rfl
@[simp] theorem modAtlas_cp (s : State) (f : Atlas → Atlas) : (modAtlas s f).cp = s.cp := rfl
@[simp] theorem modAtlas_host (s : State) (f : Atlas → Atlas) : (modAtlas s f).host = s.host := rfl
@[simp] theorem modAtlas_time (s : State) (f : Atlas → Atlas) : (modAtlas s f).time = s.time := rfl
@[simp] theorem modAtlas_search (s : State) (f : Atlas → Atlas) : (modAtlas s f).search = s.search := rfl
@[simp] theorem modAtlas_models (s : State) (f : Atlas → Atlas) : (modAtlas s f).models = s.models := rfl
@[simp] theorem modAtlas_serving (s : State) (f : Atlas → Atlas) : (modAtlas s f).serving = s.serving := rfl
@[simp] theorem modAtlas_units (s : State) (f : Atlas → Atlas) : (modAtlas s f).units = s.units := rfl
@[simp] theorem modAtlas_tens (s : State) (f : Atlas → Atlas) : (modAtlas s f).tens = s.tens := rfl
@[simp] theorem modAtlas_mboxes (s : State) (f : Atlas → Atlas) : (modAtlas s f).mboxes = s.mboxes := rfl
@[simp] theorem modAtlas_inflight (s : State) (f : Atlas → Atlas) : (modAtlas s f).inflight = s.inflight := rfl
@[simp] theorem modAtlas_store (s : State) (f : Atlas → Atlas) : (modAtlas s f).store = s.store := rfl
@[simp] theorem modAtlas_power (s : State) (f : Atlas → Atlas) : (modAtlas s f).power = s.power := rfl
@[simp] theorem modAtlas_survey (s : State) (f : Atlas → Atlas) : (modAtlas s f).survey = s.survey := rfl
@[simp] theorem modAtlas_out (s : State) (f : Atlas → Atlas) : (modAtlas s f).out = s.out := rfl
@[simp] theorem modAtlas_left (s : State) (f : Atlas → Atlas) : (modAtlas s f).left = s.left := rfl
@[simp] theorem modAtlas_freeCtr (s : State) (f : Atlas → Atlas) : (modAtlas s f).freeCtr = s.freeCtr := rfl
@[simp] theorem modAtlas_pending (s : State) (f : Atlas → Atlas) : (modAtlas s f).pending = s.pending := rfl

/-! ### modGroup: `fab` -/

@[simp] theorem modGroup_clk (s : State) (k : Nat) (f : Group → Group) : (modGroup s k f).clk = s.clk := rfl
@[simp] theorem modGroup_cores (s : State) (k : Nat) (f : Group → Group) : (modGroup s k f).cores = s.cores := rfl
@[simp] theorem modGroup_enCores (s : State) (k : Nat) (f : Group → Group) : (modGroup s k f).enCores = s.enCores := rfl
@[simp] theorem modGroup_enStacks (s : State) (k : Nat) (f : Group → Group) : (modGroup s k f).enStacks = s.enStacks := rfl
@[simp] theorem modGroup_enChans (s : State) (k : Nat) (f : Group → Group) : (modGroup s k f).enChans = s.enChans := rfl
@[simp] theorem modGroup_enPorts (s : State) (k : Nat) (f : Group → Group) : (modGroup s k f).enPorts = s.enPorts := rfl
@[simp] theorem modGroup_atlas (s : State) (k : Nat) (f : Group → Group) : (modGroup s k f).atlas = s.atlas := rfl
@[simp] theorem modGroup_jobs (s : State) (k : Nat) (f : Group → Group) : (modGroup s k f).jobs = s.jobs := rfl
@[simp] theorem modGroup_log (s : State) (k : Nat) (f : Group → Group) : (modGroup s k f).log = s.log := rfl
@[simp] theorem modGroup_ctl (s : State) (k : Nat) (f : Group → Group) : (modGroup s k f).ctl = s.ctl := rfl
@[simp] theorem modGroup_cp (s : State) (k : Nat) (f : Group → Group) : (modGroup s k f).cp = s.cp := rfl
@[simp] theorem modGroup_host (s : State) (k : Nat) (f : Group → Group) : (modGroup s k f).host = s.host := rfl
@[simp] theorem modGroup_time (s : State) (k : Nat) (f : Group → Group) : (modGroup s k f).time = s.time := rfl
@[simp] theorem modGroup_search (s : State) (k : Nat) (f : Group → Group) : (modGroup s k f).search = s.search := rfl
@[simp] theorem modGroup_models (s : State) (k : Nat) (f : Group → Group) : (modGroup s k f).models = s.models := rfl
@[simp] theorem modGroup_serving (s : State) (k : Nat) (f : Group → Group) : (modGroup s k f).serving = s.serving := rfl
@[simp] theorem modGroup_units (s : State) (k : Nat) (f : Group → Group) : (modGroup s k f).units = s.units := rfl
@[simp] theorem modGroup_tens (s : State) (k : Nat) (f : Group → Group) : (modGroup s k f).tens = s.tens := rfl
@[simp] theorem modGroup_mboxes (s : State) (k : Nat) (f : Group → Group) : (modGroup s k f).mboxes = s.mboxes := rfl
@[simp] theorem modGroup_inflight (s : State) (k : Nat) (f : Group → Group) : (modGroup s k f).inflight = s.inflight := rfl
@[simp] theorem modGroup_store (s : State) (k : Nat) (f : Group → Group) : (modGroup s k f).store = s.store := rfl
@[simp] theorem modGroup_power (s : State) (k : Nat) (f : Group → Group) : (modGroup s k f).power = s.power := rfl
@[simp] theorem modGroup_survey (s : State) (k : Nat) (f : Group → Group) : (modGroup s k f).survey = s.survey := rfl
@[simp] theorem modGroup_out (s : State) (k : Nat) (f : Group → Group) : (modGroup s k f).out = s.out := rfl
@[simp] theorem modGroup_left (s : State) (k : Nat) (f : Group → Group) : (modGroup s k f).left = s.left := rfl
@[simp] theorem modGroup_freeCtr (s : State) (k : Nat) (f : Group → Group) : (modGroup s k f).freeCtr = s.freeCtr := rfl
@[simp] theorem modGroup_pending (s : State) (k : Nat) (f : Group → Group) : (modGroup s k f).pending = s.pending := rfl

/-! ### modPort: `fab` -/

@[simp] theorem modPort_clk (s : State) (p : Nat) (f : Port → Port) : (modPort s p f).clk = s.clk := rfl
@[simp] theorem modPort_cores (s : State) (p : Nat) (f : Port → Port) : (modPort s p f).cores = s.cores := rfl
@[simp] theorem modPort_enCores (s : State) (p : Nat) (f : Port → Port) : (modPort s p f).enCores = s.enCores := rfl
@[simp] theorem modPort_enStacks (s : State) (p : Nat) (f : Port → Port) : (modPort s p f).enStacks = s.enStacks := rfl
@[simp] theorem modPort_enChans (s : State) (p : Nat) (f : Port → Port) : (modPort s p f).enChans = s.enChans := rfl
@[simp] theorem modPort_enPorts (s : State) (p : Nat) (f : Port → Port) : (modPort s p f).enPorts = s.enPorts := rfl
@[simp] theorem modPort_atlas (s : State) (p : Nat) (f : Port → Port) : (modPort s p f).atlas = s.atlas := rfl
@[simp] theorem modPort_jobs (s : State) (p : Nat) (f : Port → Port) : (modPort s p f).jobs = s.jobs := rfl
@[simp] theorem modPort_log (s : State) (p : Nat) (f : Port → Port) : (modPort s p f).log = s.log := rfl
@[simp] theorem modPort_ctl (s : State) (p : Nat) (f : Port → Port) : (modPort s p f).ctl = s.ctl := rfl
@[simp] theorem modPort_cp (s : State) (p : Nat) (f : Port → Port) : (modPort s p f).cp = s.cp := rfl
@[simp] theorem modPort_host (s : State) (p : Nat) (f : Port → Port) : (modPort s p f).host = s.host := rfl
@[simp] theorem modPort_time (s : State) (p : Nat) (f : Port → Port) : (modPort s p f).time = s.time := rfl
@[simp] theorem modPort_search (s : State) (p : Nat) (f : Port → Port) : (modPort s p f).search = s.search := rfl
@[simp] theorem modPort_models (s : State) (p : Nat) (f : Port → Port) : (modPort s p f).models = s.models := rfl
@[simp] theorem modPort_serving (s : State) (p : Nat) (f : Port → Port) : (modPort s p f).serving = s.serving := rfl
@[simp] theorem modPort_units (s : State) (p : Nat) (f : Port → Port) : (modPort s p f).units = s.units := rfl
@[simp] theorem modPort_tens (s : State) (p : Nat) (f : Port → Port) : (modPort s p f).tens = s.tens := rfl
@[simp] theorem modPort_mboxes (s : State) (p : Nat) (f : Port → Port) : (modPort s p f).mboxes = s.mboxes := rfl
@[simp] theorem modPort_inflight (s : State) (p : Nat) (f : Port → Port) : (modPort s p f).inflight = s.inflight := rfl
@[simp] theorem modPort_store (s : State) (p : Nat) (f : Port → Port) : (modPort s p f).store = s.store := rfl
@[simp] theorem modPort_power (s : State) (p : Nat) (f : Port → Port) : (modPort s p f).power = s.power := rfl
@[simp] theorem modPort_survey (s : State) (p : Nat) (f : Port → Port) : (modPort s p f).survey = s.survey := rfl
@[simp] theorem modPort_out (s : State) (p : Nat) (f : Port → Port) : (modPort s p f).out = s.out := rfl
@[simp] theorem modPort_left (s : State) (p : Nat) (f : Port → Port) : (modPort s p f).left = s.left := rfl
@[simp] theorem modPort_freeCtr (s : State) (p : Nat) (f : Port → Port) : (modPort s p f).freeCtr = s.freeCtr := rfl
@[simp] theorem modPort_pending (s : State) (p : Nat) (f : Port → Port) : (modPort s p f).pending = s.pending := rfl

/-! ### modStore: `store` -/

@[simp] theorem modStore_clk (s : State) (f : Store → Store) : (modStore s f).clk = s.clk := rfl
@[simp] theorem modStore_cores (s : State) (f : Store → Store) : (modStore s f).cores = s.cores := rfl
@[simp] theorem modStore_enCores (s : State) (f : Store → Store) : (modStore s f).enCores = s.enCores := rfl
@[simp] theorem modStore_enStacks (s : State) (f : Store → Store) : (modStore s f).enStacks = s.enStacks := rfl
@[simp] theorem modStore_enChans (s : State) (f : Store → Store) : (modStore s f).enChans = s.enChans := rfl
@[simp] theorem modStore_enPorts (s : State) (f : Store → Store) : (modStore s f).enPorts = s.enPorts := rfl
@[simp] theorem modStore_atlas (s : State) (f : Store → Store) : (modStore s f).atlas = s.atlas := rfl
@[simp] theorem modStore_jobs (s : State) (f : Store → Store) : (modStore s f).jobs = s.jobs := rfl
@[simp] theorem modStore_fab (s : State) (f : Store → Store) : (modStore s f).fab = s.fab := rfl
@[simp] theorem modStore_log (s : State) (f : Store → Store) : (modStore s f).log = s.log := rfl
@[simp] theorem modStore_ctl (s : State) (f : Store → Store) : (modStore s f).ctl = s.ctl := rfl
@[simp] theorem modStore_cp (s : State) (f : Store → Store) : (modStore s f).cp = s.cp := rfl
@[simp] theorem modStore_host (s : State) (f : Store → Store) : (modStore s f).host = s.host := rfl
@[simp] theorem modStore_time (s : State) (f : Store → Store) : (modStore s f).time = s.time := rfl
@[simp] theorem modStore_search (s : State) (f : Store → Store) : (modStore s f).search = s.search := rfl
@[simp] theorem modStore_models (s : State) (f : Store → Store) : (modStore s f).models = s.models := rfl
@[simp] theorem modStore_serving (s : State) (f : Store → Store) : (modStore s f).serving = s.serving := rfl
@[simp] theorem modStore_units (s : State) (f : Store → Store) : (modStore s f).units = s.units := rfl
@[simp] theorem modStore_tens (s : State) (f : Store → Store) : (modStore s f).tens = s.tens := rfl
@[simp] theorem modStore_mboxes (s : State) (f : Store → Store) : (modStore s f).mboxes = s.mboxes := rfl
@[simp] theorem modStore_inflight (s : State) (f : Store → Store) : (modStore s f).inflight = s.inflight := rfl
@[simp] theorem modStore_store (s : State) (f : Store → Store) : (modStore s f).store = f s.store := rfl
@[simp] theorem modStore_power (s : State) (f : Store → Store) : (modStore s f).power = s.power := rfl
@[simp] theorem modStore_survey (s : State) (f : Store → Store) : (modStore s f).survey = s.survey := rfl
@[simp] theorem modStore_out (s : State) (f : Store → Store) : (modStore s f).out = s.out := rfl
@[simp] theorem modStore_left (s : State) (f : Store → Store) : (modStore s f).left = s.left := rfl
@[simp] theorem modStore_freeCtr (s : State) (f : Store → Store) : (modStore s f).freeCtr = s.freeCtr := rfl
@[simp] theorem modStore_pending (s : State) (f : Store → Store) : (modStore s f).pending = s.pending := rfl

/-! ### modCtl: `ctl` -/

@[simp] theorem modCtl_clk (s : State) (f : Control → Control) : (modCtl s f).clk = s.clk := rfl
@[simp] theorem modCtl_cores (s : State) (f : Control → Control) : (modCtl s f).cores = s.cores := rfl
@[simp] theorem modCtl_enCores (s : State) (f : Control → Control) : (modCtl s f).enCores = s.enCores := rfl
@[simp] theorem modCtl_enStacks (s : State) (f : Control → Control) : (modCtl s f).enStacks = s.enStacks := rfl
@[simp] theorem modCtl_enChans (s : State) (f : Control → Control) : (modCtl s f).enChans = s.enChans := rfl
@[simp] theorem modCtl_enPorts (s : State) (f : Control → Control) : (modCtl s f).enPorts = s.enPorts := rfl
@[simp] theorem modCtl_atlas (s : State) (f : Control → Control) : (modCtl s f).atlas = s.atlas := rfl
@[simp] theorem modCtl_jobs (s : State) (f : Control → Control) : (modCtl s f).jobs = s.jobs := rfl
@[simp] theorem modCtl_fab (s : State) (f : Control → Control) : (modCtl s f).fab = s.fab := rfl
@[simp] theorem modCtl_log (s : State) (f : Control → Control) : (modCtl s f).log = s.log := rfl
@[simp] theorem modCtl_ctl (s : State) (f : Control → Control) : (modCtl s f).ctl = f s.ctl := rfl
@[simp] theorem modCtl_cp (s : State) (f : Control → Control) : (modCtl s f).cp = s.cp := rfl
@[simp] theorem modCtl_host (s : State) (f : Control → Control) : (modCtl s f).host = s.host := rfl
@[simp] theorem modCtl_time (s : State) (f : Control → Control) : (modCtl s f).time = s.time := rfl
@[simp] theorem modCtl_search (s : State) (f : Control → Control) : (modCtl s f).search = s.search := rfl
@[simp] theorem modCtl_models (s : State) (f : Control → Control) : (modCtl s f).models = s.models := rfl
@[simp] theorem modCtl_serving (s : State) (f : Control → Control) : (modCtl s f).serving = s.serving := rfl
@[simp] theorem modCtl_units (s : State) (f : Control → Control) : (modCtl s f).units = s.units := rfl
@[simp] theorem modCtl_tens (s : State) (f : Control → Control) : (modCtl s f).tens = s.tens := rfl
@[simp] theorem modCtl_mboxes (s : State) (f : Control → Control) : (modCtl s f).mboxes = s.mboxes := rfl
@[simp] theorem modCtl_inflight (s : State) (f : Control → Control) : (modCtl s f).inflight = s.inflight := rfl
@[simp] theorem modCtl_store (s : State) (f : Control → Control) : (modCtl s f).store = s.store := rfl
@[simp] theorem modCtl_power (s : State) (f : Control → Control) : (modCtl s f).power = s.power := rfl
@[simp] theorem modCtl_survey (s : State) (f : Control → Control) : (modCtl s f).survey = s.survey := rfl
@[simp] theorem modCtl_out (s : State) (f : Control → Control) : (modCtl s f).out = s.out := rfl
@[simp] theorem modCtl_left (s : State) (f : Control → Control) : (modCtl s f).left = s.left := rfl
@[simp] theorem modCtl_freeCtr (s : State) (f : Control → Control) : (modCtl s f).freeCtr = s.freeCtr := rfl
@[simp] theorem modCtl_pending (s : State) (f : Control → Control) : (modCtl s f).pending = s.pending := rfl

/-! ### modHost: `host` -/

@[simp] theorem modHost_clk (s : State) (f : HostIf → HostIf) : (modHost s f).clk = s.clk := rfl
@[simp] theorem modHost_cores (s : State) (f : HostIf → HostIf) : (modHost s f).cores = s.cores := rfl
@[simp] theorem modHost_enCores (s : State) (f : HostIf → HostIf) : (modHost s f).enCores = s.enCores := rfl
@[simp] theorem modHost_enStacks (s : State) (f : HostIf → HostIf) : (modHost s f).enStacks = s.enStacks := rfl
@[simp] theorem modHost_enChans (s : State) (f : HostIf → HostIf) : (modHost s f).enChans = s.enChans := rfl
@[simp] theorem modHost_enPorts (s : State) (f : HostIf → HostIf) : (modHost s f).enPorts = s.enPorts := rfl
@[simp] theorem modHost_atlas (s : State) (f : HostIf → HostIf) : (modHost s f).atlas = s.atlas := rfl
@[simp] theorem modHost_jobs (s : State) (f : HostIf → HostIf) : (modHost s f).jobs = s.jobs := rfl
@[simp] theorem modHost_fab (s : State) (f : HostIf → HostIf) : (modHost s f).fab = s.fab := rfl
@[simp] theorem modHost_log (s : State) (f : HostIf → HostIf) : (modHost s f).log = s.log := rfl
@[simp] theorem modHost_ctl (s : State) (f : HostIf → HostIf) : (modHost s f).ctl = s.ctl := rfl
@[simp] theorem modHost_cp (s : State) (f : HostIf → HostIf) : (modHost s f).cp = s.cp := rfl
@[simp] theorem modHost_host (s : State) (f : HostIf → HostIf) : (modHost s f).host = f s.host := rfl
@[simp] theorem modHost_time (s : State) (f : HostIf → HostIf) : (modHost s f).time = s.time := rfl
@[simp] theorem modHost_search (s : State) (f : HostIf → HostIf) : (modHost s f).search = s.search := rfl
@[simp] theorem modHost_models (s : State) (f : HostIf → HostIf) : (modHost s f).models = s.models := rfl
@[simp] theorem modHost_serving (s : State) (f : HostIf → HostIf) : (modHost s f).serving = s.serving := rfl
@[simp] theorem modHost_units (s : State) (f : HostIf → HostIf) : (modHost s f).units = s.units := rfl
@[simp] theorem modHost_tens (s : State) (f : HostIf → HostIf) : (modHost s f).tens = s.tens := rfl
@[simp] theorem modHost_mboxes (s : State) (f : HostIf → HostIf) : (modHost s f).mboxes = s.mboxes := rfl
@[simp] theorem modHost_inflight (s : State) (f : HostIf → HostIf) : (modHost s f).inflight = s.inflight := rfl
@[simp] theorem modHost_store (s : State) (f : HostIf → HostIf) : (modHost s f).store = s.store := rfl
@[simp] theorem modHost_power (s : State) (f : HostIf → HostIf) : (modHost s f).power = s.power := rfl
@[simp] theorem modHost_survey (s : State) (f : HostIf → HostIf) : (modHost s f).survey = s.survey := rfl
@[simp] theorem modHost_out (s : State) (f : HostIf → HostIf) : (modHost s f).out = s.out := rfl
@[simp] theorem modHost_left (s : State) (f : HostIf → HostIf) : (modHost s f).left = s.left := rfl
@[simp] theorem modHost_freeCtr (s : State) (f : HostIf → HostIf) : (modHost s f).freeCtr = s.freeCtr := rfl
@[simp] theorem modHost_pending (s : State) (f : HostIf → HostIf) : (modHost s f).pending = s.pending := rfl

/-! ### modFunc: `host` -/

@[simp] theorem modFunc_clk (s : State) (fn : Nat) (f : Func → Func) : (modFunc s fn f).clk = s.clk := rfl
@[simp] theorem modFunc_cores (s : State) (fn : Nat) (f : Func → Func) : (modFunc s fn f).cores = s.cores := rfl
@[simp] theorem modFunc_enCores (s : State) (fn : Nat) (f : Func → Func) : (modFunc s fn f).enCores = s.enCores := rfl
@[simp] theorem modFunc_enStacks (s : State) (fn : Nat) (f : Func → Func) : (modFunc s fn f).enStacks = s.enStacks := rfl
@[simp] theorem modFunc_enChans (s : State) (fn : Nat) (f : Func → Func) : (modFunc s fn f).enChans = s.enChans := rfl
@[simp] theorem modFunc_enPorts (s : State) (fn : Nat) (f : Func → Func) : (modFunc s fn f).enPorts = s.enPorts := rfl
@[simp] theorem modFunc_atlas (s : State) (fn : Nat) (f : Func → Func) : (modFunc s fn f).atlas = s.atlas := rfl
@[simp] theorem modFunc_jobs (s : State) (fn : Nat) (f : Func → Func) : (modFunc s fn f).jobs = s.jobs := rfl
@[simp] theorem modFunc_fab (s : State) (fn : Nat) (f : Func → Func) : (modFunc s fn f).fab = s.fab := rfl
@[simp] theorem modFunc_log (s : State) (fn : Nat) (f : Func → Func) : (modFunc s fn f).log = s.log := rfl
@[simp] theorem modFunc_ctl (s : State) (fn : Nat) (f : Func → Func) : (modFunc s fn f).ctl = s.ctl := rfl
@[simp] theorem modFunc_cp (s : State) (fn : Nat) (f : Func → Func) : (modFunc s fn f).cp = s.cp := rfl
@[simp] theorem modFunc_time (s : State) (fn : Nat) (f : Func → Func) : (modFunc s fn f).time = s.time := rfl
@[simp] theorem modFunc_search (s : State) (fn : Nat) (f : Func → Func) : (modFunc s fn f).search = s.search := rfl
@[simp] theorem modFunc_models (s : State) (fn : Nat) (f : Func → Func) : (modFunc s fn f).models = s.models := rfl
@[simp] theorem modFunc_serving (s : State) (fn : Nat) (f : Func → Func) : (modFunc s fn f).serving = s.serving := rfl
@[simp] theorem modFunc_units (s : State) (fn : Nat) (f : Func → Func) : (modFunc s fn f).units = s.units := rfl
@[simp] theorem modFunc_tens (s : State) (fn : Nat) (f : Func → Func) : (modFunc s fn f).tens = s.tens := rfl
@[simp] theorem modFunc_mboxes (s : State) (fn : Nat) (f : Func → Func) : (modFunc s fn f).mboxes = s.mboxes := rfl
@[simp] theorem modFunc_inflight (s : State) (fn : Nat) (f : Func → Func) : (modFunc s fn f).inflight = s.inflight := rfl
@[simp] theorem modFunc_store (s : State) (fn : Nat) (f : Func → Func) : (modFunc s fn f).store = s.store := rfl
@[simp] theorem modFunc_power (s : State) (fn : Nat) (f : Func → Func) : (modFunc s fn f).power = s.power := rfl
@[simp] theorem modFunc_survey (s : State) (fn : Nat) (f : Func → Func) : (modFunc s fn f).survey = s.survey := rfl
@[simp] theorem modFunc_out (s : State) (fn : Nat) (f : Func → Func) : (modFunc s fn f).out = s.out := rfl
@[simp] theorem modFunc_left (s : State) (fn : Nat) (f : Func → Func) : (modFunc s fn f).left = s.left := rfl
@[simp] theorem modFunc_freeCtr (s : State) (fn : Nat) (f : Func → Func) : (modFunc s fn f).freeCtr = s.freeCtr := rfl
@[simp] theorem modFunc_pending (s : State) (fn : Nat) (f : Func → Func) : (modFunc s fn f).pending = s.pending := rfl

/-! ### modInfl: `inflight` -/

@[simp] theorem modInfl_clk (s : State) (r : CmdRef) (f : Inflight → Inflight) : (modInfl s r f).clk = s.clk := rfl
@[simp] theorem modInfl_cores (s : State) (r : CmdRef) (f : Inflight → Inflight) : (modInfl s r f).cores = s.cores := rfl
@[simp] theorem modInfl_enCores (s : State) (r : CmdRef) (f : Inflight → Inflight) : (modInfl s r f).enCores = s.enCores := rfl
@[simp] theorem modInfl_enStacks (s : State) (r : CmdRef) (f : Inflight → Inflight) : (modInfl s r f).enStacks = s.enStacks := rfl
@[simp] theorem modInfl_enChans (s : State) (r : CmdRef) (f : Inflight → Inflight) : (modInfl s r f).enChans = s.enChans := rfl
@[simp] theorem modInfl_enPorts (s : State) (r : CmdRef) (f : Inflight → Inflight) : (modInfl s r f).enPorts = s.enPorts := rfl
@[simp] theorem modInfl_atlas (s : State) (r : CmdRef) (f : Inflight → Inflight) : (modInfl s r f).atlas = s.atlas := rfl
@[simp] theorem modInfl_jobs (s : State) (r : CmdRef) (f : Inflight → Inflight) : (modInfl s r f).jobs = s.jobs := rfl
@[simp] theorem modInfl_fab (s : State) (r : CmdRef) (f : Inflight → Inflight) : (modInfl s r f).fab = s.fab := rfl
@[simp] theorem modInfl_log (s : State) (r : CmdRef) (f : Inflight → Inflight) : (modInfl s r f).log = s.log := rfl
@[simp] theorem modInfl_ctl (s : State) (r : CmdRef) (f : Inflight → Inflight) : (modInfl s r f).ctl = s.ctl := rfl
@[simp] theorem modInfl_cp (s : State) (r : CmdRef) (f : Inflight → Inflight) : (modInfl s r f).cp = s.cp := rfl
@[simp] theorem modInfl_host (s : State) (r : CmdRef) (f : Inflight → Inflight) : (modInfl s r f).host = s.host := rfl
@[simp] theorem modInfl_time (s : State) (r : CmdRef) (f : Inflight → Inflight) : (modInfl s r f).time = s.time := rfl
@[simp] theorem modInfl_search (s : State) (r : CmdRef) (f : Inflight → Inflight) : (modInfl s r f).search = s.search := rfl
@[simp] theorem modInfl_models (s : State) (r : CmdRef) (f : Inflight → Inflight) : (modInfl s r f).models = s.models := rfl
@[simp] theorem modInfl_serving (s : State) (r : CmdRef) (f : Inflight → Inflight) : (modInfl s r f).serving = s.serving := rfl
@[simp] theorem modInfl_units (s : State) (r : CmdRef) (f : Inflight → Inflight) : (modInfl s r f).units = s.units := rfl
@[simp] theorem modInfl_tens (s : State) (r : CmdRef) (f : Inflight → Inflight) : (modInfl s r f).tens = s.tens := rfl
@[simp] theorem modInfl_mboxes (s : State) (r : CmdRef) (f : Inflight → Inflight) : (modInfl s r f).mboxes = s.mboxes := rfl
@[simp] theorem modInfl_inflight (s : State) (r : CmdRef) (f : Inflight → Inflight) : (modInfl s r f).inflight = modInflIn r f s.inflight := rfl
@[simp] theorem modInfl_store (s : State) (r : CmdRef) (f : Inflight → Inflight) : (modInfl s r f).store = s.store := rfl
@[simp] theorem modInfl_power (s : State) (r : CmdRef) (f : Inflight → Inflight) : (modInfl s r f).power = s.power := rfl
@[simp] theorem modInfl_survey (s : State) (r : CmdRef) (f : Inflight → Inflight) : (modInfl s r f).survey = s.survey := rfl
@[simp] theorem modInfl_out (s : State) (r : CmdRef) (f : Inflight → Inflight) : (modInfl s r f).out = s.out := rfl
@[simp] theorem modInfl_left (s : State) (r : CmdRef) (f : Inflight → Inflight) : (modInfl s r f).left = s.left := rfl
@[simp] theorem modInfl_freeCtr (s : State) (r : CmdRef) (f : Inflight → Inflight) : (modInfl s r f).freeCtr = s.freeCtr := rfl
@[simp] theorem modInfl_pending (s : State) (r : CmdRef) (f : Inflight → Inflight) : (modInfl s r f).pending = s.pending := rfl

/-! ### modModel: `models` -/

@[simp] theorem modModel_clk (s : State) (h : Nat) (f : Model → Model) : (modModel s h f).clk = s.clk := rfl
@[simp] theorem modModel_cores (s : State) (h : Nat) (f : Model → Model) : (modModel s h f).cores = s.cores := rfl
@[simp] theorem modModel_enCores (s : State) (h : Nat) (f : Model → Model) : (modModel s h f).enCores = s.enCores := rfl
@[simp] theorem modModel_enStacks (s : State) (h : Nat) (f : Model → Model) : (modModel s h f).enStacks = s.enStacks := rfl
@[simp] theorem modModel_enChans (s : State) (h : Nat) (f : Model → Model) : (modModel s h f).enChans = s.enChans := rfl
@[simp] theorem modModel_enPorts (s : State) (h : Nat) (f : Model → Model) : (modModel s h f).enPorts = s.enPorts := rfl
@[simp] theorem modModel_atlas (s : State) (h : Nat) (f : Model → Model) : (modModel s h f).atlas = s.atlas := rfl
@[simp] theorem modModel_jobs (s : State) (h : Nat) (f : Model → Model) : (modModel s h f).jobs = s.jobs := rfl
@[simp] theorem modModel_fab (s : State) (h : Nat) (f : Model → Model) : (modModel s h f).fab = s.fab := rfl
@[simp] theorem modModel_log (s : State) (h : Nat) (f : Model → Model) : (modModel s h f).log = s.log := rfl
@[simp] theorem modModel_ctl (s : State) (h : Nat) (f : Model → Model) : (modModel s h f).ctl = s.ctl := rfl
@[simp] theorem modModel_cp (s : State) (h : Nat) (f : Model → Model) : (modModel s h f).cp = s.cp := rfl
@[simp] theorem modModel_host (s : State) (h : Nat) (f : Model → Model) : (modModel s h f).host = s.host := rfl
@[simp] theorem modModel_time (s : State) (h : Nat) (f : Model → Model) : (modModel s h f).time = s.time := rfl
@[simp] theorem modModel_search (s : State) (h : Nat) (f : Model → Model) : (modModel s h f).search = s.search := rfl
@[simp] theorem modModel_serving (s : State) (h : Nat) (f : Model → Model) : (modModel s h f).serving = s.serving := rfl
@[simp] theorem modModel_units (s : State) (h : Nat) (f : Model → Model) : (modModel s h f).units = s.units := rfl
@[simp] theorem modModel_tens (s : State) (h : Nat) (f : Model → Model) : (modModel s h f).tens = s.tens := rfl
@[simp] theorem modModel_mboxes (s : State) (h : Nat) (f : Model → Model) : (modModel s h f).mboxes = s.mboxes := rfl
@[simp] theorem modModel_inflight (s : State) (h : Nat) (f : Model → Model) : (modModel s h f).inflight = s.inflight := rfl
@[simp] theorem modModel_store (s : State) (h : Nat) (f : Model → Model) : (modModel s h f).store = s.store := rfl
@[simp] theorem modModel_power (s : State) (h : Nat) (f : Model → Model) : (modModel s h f).power = s.power := rfl
@[simp] theorem modModel_survey (s : State) (h : Nat) (f : Model → Model) : (modModel s h f).survey = s.survey := rfl
@[simp] theorem modModel_out (s : State) (h : Nat) (f : Model → Model) : (modModel s h f).out = s.out := rfl
@[simp] theorem modModel_left (s : State) (h : Nat) (f : Model → Model) : (modModel s h f).left = s.left := rfl
@[simp] theorem modModel_freeCtr (s : State) (h : Nat) (f : Model → Model) : (modModel s h f).freeCtr = s.freeCtr := rfl
@[simp] theorem modModel_pending (s : State) (h : Nat) (f : Model → Model) : (modModel s h f).pending = s.pending := rfl

/-! ### modUnit: `units` -/

@[simp] theorem modUnit_clk (s : State) (src : Nat) (f : UnitStat → UnitStat) : (modUnit s src f).clk = s.clk := rfl
@[simp] theorem modUnit_cores (s : State) (src : Nat) (f : UnitStat → UnitStat) : (modUnit s src f).cores = s.cores := rfl
@[simp] theorem modUnit_enCores (s : State) (src : Nat) (f : UnitStat → UnitStat) : (modUnit s src f).enCores = s.enCores := rfl
@[simp] theorem modUnit_enStacks (s : State) (src : Nat) (f : UnitStat → UnitStat) : (modUnit s src f).enStacks = s.enStacks := rfl
@[simp] theorem modUnit_enChans (s : State) (src : Nat) (f : UnitStat → UnitStat) : (modUnit s src f).enChans = s.enChans := rfl
@[simp] theorem modUnit_enPorts (s : State) (src : Nat) (f : UnitStat → UnitStat) : (modUnit s src f).enPorts = s.enPorts := rfl
@[simp] theorem modUnit_atlas (s : State) (src : Nat) (f : UnitStat → UnitStat) : (modUnit s src f).atlas = s.atlas := rfl
@[simp] theorem modUnit_jobs (s : State) (src : Nat) (f : UnitStat → UnitStat) : (modUnit s src f).jobs = s.jobs := rfl
@[simp] theorem modUnit_fab (s : State) (src : Nat) (f : UnitStat → UnitStat) : (modUnit s src f).fab = s.fab := rfl
@[simp] theorem modUnit_log (s : State) (src : Nat) (f : UnitStat → UnitStat) : (modUnit s src f).log = s.log := rfl
@[simp] theorem modUnit_ctl (s : State) (src : Nat) (f : UnitStat → UnitStat) : (modUnit s src f).ctl = s.ctl := rfl
@[simp] theorem modUnit_cp (s : State) (src : Nat) (f : UnitStat → UnitStat) : (modUnit s src f).cp = s.cp := rfl
@[simp] theorem modUnit_host (s : State) (src : Nat) (f : UnitStat → UnitStat) : (modUnit s src f).host = s.host := rfl
@[simp] theorem modUnit_time (s : State) (src : Nat) (f : UnitStat → UnitStat) : (modUnit s src f).time = s.time := rfl
@[simp] theorem modUnit_search (s : State) (src : Nat) (f : UnitStat → UnitStat) : (modUnit s src f).search = s.search := rfl
@[simp] theorem modUnit_models (s : State) (src : Nat) (f : UnitStat → UnitStat) : (modUnit s src f).models = s.models := rfl
@[simp] theorem modUnit_serving (s : State) (src : Nat) (f : UnitStat → UnitStat) : (modUnit s src f).serving = s.serving := rfl
@[simp] theorem modUnit_tens (s : State) (src : Nat) (f : UnitStat → UnitStat) : (modUnit s src f).tens = s.tens := rfl
@[simp] theorem modUnit_mboxes (s : State) (src : Nat) (f : UnitStat → UnitStat) : (modUnit s src f).mboxes = s.mboxes := rfl
@[simp] theorem modUnit_inflight (s : State) (src : Nat) (f : UnitStat → UnitStat) : (modUnit s src f).inflight = s.inflight := rfl
@[simp] theorem modUnit_store (s : State) (src : Nat) (f : UnitStat → UnitStat) : (modUnit s src f).store = s.store := rfl
@[simp] theorem modUnit_power (s : State) (src : Nat) (f : UnitStat → UnitStat) : (modUnit s src f).power = s.power := rfl
@[simp] theorem modUnit_survey (s : State) (src : Nat) (f : UnitStat → UnitStat) : (modUnit s src f).survey = s.survey := rfl
@[simp] theorem modUnit_out (s : State) (src : Nat) (f : UnitStat → UnitStat) : (modUnit s src f).out = s.out := rfl
@[simp] theorem modUnit_left (s : State) (src : Nat) (f : UnitStat → UnitStat) : (modUnit s src f).left = s.left := rfl
@[simp] theorem modUnit_freeCtr (s : State) (src : Nat) (f : UnitStat → UnitStat) : (modUnit s src f).freeCtr = s.freeCtr := rfl
@[simp] theorem modUnit_pending (s : State) (src : Nat) (f : UnitStat → UnitStat) : (modUnit s src f).pending = s.pending := rfl

/-! ### modPower: `power` -/

@[simp] theorem modPower_clk (s : State) (f : Power → Power) : (modPower s f).clk = s.clk := rfl
@[simp] theorem modPower_cores (s : State) (f : Power → Power) : (modPower s f).cores = s.cores := rfl
@[simp] theorem modPower_enCores (s : State) (f : Power → Power) : (modPower s f).enCores = s.enCores := rfl
@[simp] theorem modPower_enStacks (s : State) (f : Power → Power) : (modPower s f).enStacks = s.enStacks := rfl
@[simp] theorem modPower_enChans (s : State) (f : Power → Power) : (modPower s f).enChans = s.enChans := rfl
@[simp] theorem modPower_enPorts (s : State) (f : Power → Power) : (modPower s f).enPorts = s.enPorts := rfl
@[simp] theorem modPower_atlas (s : State) (f : Power → Power) : (modPower s f).atlas = s.atlas := rfl
@[simp] theorem modPower_jobs (s : State) (f : Power → Power) : (modPower s f).jobs = s.jobs := rfl
@[simp] theorem modPower_fab (s : State) (f : Power → Power) : (modPower s f).fab = s.fab := rfl
@[simp] theorem modPower_log (s : State) (f : Power → Power) : (modPower s f).log = s.log := rfl
@[simp] theorem modPower_ctl (s : State) (f : Power → Power) : (modPower s f).ctl = s.ctl := rfl
@[simp] theorem modPower_cp (s : State) (f : Power → Power) : (modPower s f).cp = s.cp := rfl
@[simp] theorem modPower_host (s : State) (f : Power → Power) : (modPower s f).host = s.host := rfl
@[simp] theorem modPower_time (s : State) (f : Power → Power) : (modPower s f).time = s.time := rfl
@[simp] theorem modPower_search (s : State) (f : Power → Power) : (modPower s f).search = s.search := rfl
@[simp] theorem modPower_models (s : State) (f : Power → Power) : (modPower s f).models = s.models := rfl
@[simp] theorem modPower_serving (s : State) (f : Power → Power) : (modPower s f).serving = s.serving := rfl
@[simp] theorem modPower_units (s : State) (f : Power → Power) : (modPower s f).units = s.units := rfl
@[simp] theorem modPower_tens (s : State) (f : Power → Power) : (modPower s f).tens = s.tens := rfl
@[simp] theorem modPower_mboxes (s : State) (f : Power → Power) : (modPower s f).mboxes = s.mboxes := rfl
@[simp] theorem modPower_inflight (s : State) (f : Power → Power) : (modPower s f).inflight = s.inflight := rfl
@[simp] theorem modPower_store (s : State) (f : Power → Power) : (modPower s f).store = s.store := rfl
@[simp] theorem modPower_power (s : State) (f : Power → Power) : (modPower s f).power = f s.power := rfl
@[simp] theorem modPower_survey (s : State) (f : Power → Power) : (modPower s f).survey = s.survey := rfl
@[simp] theorem modPower_out (s : State) (f : Power → Power) : (modPower s f).out = s.out := rfl
@[simp] theorem modPower_left (s : State) (f : Power → Power) : (modPower s f).left = s.left := rfl
@[simp] theorem modPower_freeCtr (s : State) (f : Power → Power) : (modPower s f).freeCtr = s.freeCtr := rfl
@[simp] theorem modPower_pending (s : State) (f : Power → Power) : (modPower s f).pending = s.pending := rfl

/-! ### modSearch: `search` -/

@[simp] theorem modSearch_clk (s : State) (f : Search → Search) : (modSearch s f).clk = s.clk := rfl
@[simp] theorem modSearch_cores (s : State) (f : Search → Search) : (modSearch s f).cores = s.cores := rfl
@[simp] theorem modSearch_enCores (s : State) (f : Search → Search) : (modSearch s f).enCores = s.enCores := rfl
@[simp] theorem modSearch_enStacks (s : State) (f : Search → Search) : (modSearch s f).enStacks = s.enStacks := rfl
@[simp] theorem modSearch_enChans (s : State) (f : Search → Search) : (modSearch s f).enChans = s.enChans := rfl
@[simp] theorem modSearch_enPorts (s : State) (f : Search → Search) : (modSearch s f).enPorts = s.enPorts := rfl
@[simp] theorem modSearch_atlas (s : State) (f : Search → Search) : (modSearch s f).atlas = s.atlas := rfl
@[simp] theorem modSearch_jobs (s : State) (f : Search → Search) : (modSearch s f).jobs = s.jobs := rfl
@[simp] theorem modSearch_fab (s : State) (f : Search → Search) : (modSearch s f).fab = s.fab := rfl
@[simp] theorem modSearch_log (s : State) (f : Search → Search) : (modSearch s f).log = s.log := rfl
@[simp] theorem modSearch_ctl (s : State) (f : Search → Search) : (modSearch s f).ctl = s.ctl := rfl
@[simp] theorem modSearch_cp (s : State) (f : Search → Search) : (modSearch s f).cp = s.cp := rfl
@[simp] theorem modSearch_host (s : State) (f : Search → Search) : (modSearch s f).host = s.host := rfl
@[simp] theorem modSearch_time (s : State) (f : Search → Search) : (modSearch s f).time = s.time := rfl
@[simp] theorem modSearch_search (s : State) (f : Search → Search) : (modSearch s f).search = f s.search := rfl
@[simp] theorem modSearch_models (s : State) (f : Search → Search) : (modSearch s f).models = s.models := rfl
@[simp] theorem modSearch_serving (s : State) (f : Search → Search) : (modSearch s f).serving = s.serving := rfl
@[simp] theorem modSearch_units (s : State) (f : Search → Search) : (modSearch s f).units = s.units := rfl
@[simp] theorem modSearch_tens (s : State) (f : Search → Search) : (modSearch s f).tens = s.tens := rfl
@[simp] theorem modSearch_mboxes (s : State) (f : Search → Search) : (modSearch s f).mboxes = s.mboxes := rfl
@[simp] theorem modSearch_inflight (s : State) (f : Search → Search) : (modSearch s f).inflight = s.inflight := rfl
@[simp] theorem modSearch_store (s : State) (f : Search → Search) : (modSearch s f).store = s.store := rfl
@[simp] theorem modSearch_power (s : State) (f : Search → Search) : (modSearch s f).power = s.power := rfl
@[simp] theorem modSearch_survey (s : State) (f : Search → Search) : (modSearch s f).survey = s.survey := rfl
@[simp] theorem modSearch_out (s : State) (f : Search → Search) : (modSearch s f).out = s.out := rfl
@[simp] theorem modSearch_left (s : State) (f : Search → Search) : (modSearch s f).left = s.left := rfl
@[simp] theorem modSearch_freeCtr (s : State) (f : Search → Search) : (modSearch s f).freeCtr = s.freeCtr := rfl
@[simp] theorem modSearch_pending (s : State) (f : Search → Search) : (modSearch s f).pending = s.pending := rfl

/-! ### modServing: `serving` -/

@[simp] theorem modServing_clk (s : State) (f : Serving → Serving) : (modServing s f).clk = s.clk := rfl
@[simp] theorem modServing_cores (s : State) (f : Serving → Serving) : (modServing s f).cores = s.cores := rfl
@[simp] theorem modServing_enCores (s : State) (f : Serving → Serving) : (modServing s f).enCores = s.enCores := rfl
@[simp] theorem modServing_enStacks (s : State) (f : Serving → Serving) : (modServing s f).enStacks = s.enStacks := rfl
@[simp] theorem modServing_enChans (s : State) (f : Serving → Serving) : (modServing s f).enChans = s.enChans := rfl
@[simp] theorem modServing_enPorts (s : State) (f : Serving → Serving) : (modServing s f).enPorts = s.enPorts := rfl
@[simp] theorem modServing_atlas (s : State) (f : Serving → Serving) : (modServing s f).atlas = s.atlas := rfl
@[simp] theorem modServing_jobs (s : State) (f : Serving → Serving) : (modServing s f).jobs = s.jobs := rfl
@[simp] theorem modServing_fab (s : State) (f : Serving → Serving) : (modServing s f).fab = s.fab := rfl
@[simp] theorem modServing_log (s : State) (f : Serving → Serving) : (modServing s f).log = s.log := rfl
@[simp] theorem modServing_ctl (s : State) (f : Serving → Serving) : (modServing s f).ctl = s.ctl := rfl
@[simp] theorem modServing_cp (s : State) (f : Serving → Serving) : (modServing s f).cp = s.cp := rfl
@[simp] theorem modServing_host (s : State) (f : Serving → Serving) : (modServing s f).host = s.host := rfl
@[simp] theorem modServing_time (s : State) (f : Serving → Serving) : (modServing s f).time = s.time := rfl
@[simp] theorem modServing_search (s : State) (f : Serving → Serving) : (modServing s f).search = s.search := rfl
@[simp] theorem modServing_models (s : State) (f : Serving → Serving) : (modServing s f).models = s.models := rfl
@[simp] theorem modServing_serving (s : State) (f : Serving → Serving) : (modServing s f).serving = f s.serving := rfl
@[simp] theorem modServing_units (s : State) (f : Serving → Serving) : (modServing s f).units = s.units := rfl
@[simp] theorem modServing_tens (s : State) (f : Serving → Serving) : (modServing s f).tens = s.tens := rfl
@[simp] theorem modServing_mboxes (s : State) (f : Serving → Serving) : (modServing s f).mboxes = s.mboxes := rfl
@[simp] theorem modServing_inflight (s : State) (f : Serving → Serving) : (modServing s f).inflight = s.inflight := rfl
@[simp] theorem modServing_store (s : State) (f : Serving → Serving) : (modServing s f).store = s.store := rfl
@[simp] theorem modServing_power (s : State) (f : Serving → Serving) : (modServing s f).power = s.power := rfl
@[simp] theorem modServing_survey (s : State) (f : Serving → Serving) : (modServing s f).survey = s.survey := rfl
@[simp] theorem modServing_out (s : State) (f : Serving → Serving) : (modServing s f).out = s.out := rfl
@[simp] theorem modServing_left (s : State) (f : Serving → Serving) : (modServing s f).left = s.left := rfl
@[simp] theorem modServing_freeCtr (s : State) (f : Serving → Serving) : (modServing s f).freeCtr = s.freeCtr := rfl
@[simp] theorem modServing_pending (s : State) (f : Serving → Serving) : (modServing s f).pending = s.pending := rfl

/-! ### modTen: `tens` -/

@[simp] theorem modTen_clk (s : State) (t : Nat) (f : Tenant → Tenant) : (modTen s t f).clk = s.clk := rfl
@[simp] theorem modTen_cores (s : State) (t : Nat) (f : Tenant → Tenant) : (modTen s t f).cores = s.cores := rfl
@[simp] theorem modTen_enCores (s : State) (t : Nat) (f : Tenant → Tenant) : (modTen s t f).enCores = s.enCores := rfl
@[simp] theorem modTen_enStacks (s : State) (t : Nat) (f : Tenant → Tenant) : (modTen s t f).enStacks = s.enStacks := rfl
@[simp] theorem modTen_enChans (s : State) (t : Nat) (f : Tenant → Tenant) : (modTen s t f).enChans = s.enChans := rfl
@[simp] theorem modTen_enPorts (s : State) (t : Nat) (f : Tenant → Tenant) : (modTen s t f).enPorts = s.enPorts := rfl
@[simp] theorem modTen_atlas (s : State) (t : Nat) (f : Tenant → Tenant) : (modTen s t f).atlas = s.atlas := rfl
@[simp] theorem modTen_jobs (s : State) (t : Nat) (f : Tenant → Tenant) : (modTen s t f).jobs = s.jobs := rfl
@[simp] theorem modTen_fab (s : State) (t : Nat) (f : Tenant → Tenant) : (modTen s t f).fab = s.fab := rfl
@[simp] theorem modTen_log (s : State) (t : Nat) (f : Tenant → Tenant) : (modTen s t f).log = s.log := rfl
@[simp] theorem modTen_ctl (s : State) (t : Nat) (f : Tenant → Tenant) : (modTen s t f).ctl = s.ctl := rfl
@[simp] theorem modTen_cp (s : State) (t : Nat) (f : Tenant → Tenant) : (modTen s t f).cp = s.cp := rfl
@[simp] theorem modTen_host (s : State) (t : Nat) (f : Tenant → Tenant) : (modTen s t f).host = s.host := rfl
@[simp] theorem modTen_time (s : State) (t : Nat) (f : Tenant → Tenant) : (modTen s t f).time = s.time := rfl
@[simp] theorem modTen_search (s : State) (t : Nat) (f : Tenant → Tenant) : (modTen s t f).search = s.search := rfl
@[simp] theorem modTen_models (s : State) (t : Nat) (f : Tenant → Tenant) : (modTen s t f).models = s.models := rfl
@[simp] theorem modTen_serving (s : State) (t : Nat) (f : Tenant → Tenant) : (modTen s t f).serving = s.serving := rfl
@[simp] theorem modTen_units (s : State) (t : Nat) (f : Tenant → Tenant) : (modTen s t f).units = s.units := rfl
@[simp] theorem modTen_mboxes (s : State) (t : Nat) (f : Tenant → Tenant) : (modTen s t f).mboxes = s.mboxes := rfl
@[simp] theorem modTen_inflight (s : State) (t : Nat) (f : Tenant → Tenant) : (modTen s t f).inflight = s.inflight := rfl
@[simp] theorem modTen_store (s : State) (t : Nat) (f : Tenant → Tenant) : (modTen s t f).store = s.store := rfl
@[simp] theorem modTen_power (s : State) (t : Nat) (f : Tenant → Tenant) : (modTen s t f).power = s.power := rfl
@[simp] theorem modTen_survey (s : State) (t : Nat) (f : Tenant → Tenant) : (modTen s t f).survey = s.survey := rfl
@[simp] theorem modTen_out (s : State) (t : Nat) (f : Tenant → Tenant) : (modTen s t f).out = s.out := rfl
@[simp] theorem modTen_left (s : State) (t : Nat) (f : Tenant → Tenant) : (modTen s t f).left = s.left := rfl
@[simp] theorem modTen_freeCtr (s : State) (t : Nat) (f : Tenant → Tenant) : (modTen s t f).freeCtr = s.freeCtr := rfl
@[simp] theorem modTen_pending (s : State) (t : Nat) (f : Tenant → Tenant) : (modTen s t f).pending = s.pending := rfl

/-! ### modTime: `time` -/

@[simp] theorem modTime_clk (s : State) (f : TimeUnit → TimeUnit) : (modTime s f).clk = s.clk := rfl
@[simp] theorem modTime_cores (s : State) (f : TimeUnit → TimeUnit) : (modTime s f).cores = s.cores := rfl
@[simp] theorem modTime_enCores (s : State) (f : TimeUnit → TimeUnit) : (modTime s f).enCores = s.enCores := rfl
@[simp] theorem modTime_enStacks (s : State) (f : TimeUnit → TimeUnit) : (modTime s f).enStacks = s.enStacks := rfl
@[simp] theorem modTime_enChans (s : State) (f : TimeUnit → TimeUnit) : (modTime s f).enChans = s.enChans := rfl
@[simp] theorem modTime_enPorts (s : State) (f : TimeUnit → TimeUnit) : (modTime s f).enPorts = s.enPorts := rfl
@[simp] theorem modTime_atlas (s : State) (f : TimeUnit → TimeUnit) : (modTime s f).atlas = s.atlas := rfl
@[simp] theorem modTime_jobs (s : State) (f : TimeUnit → TimeUnit) : (modTime s f).jobs = s.jobs := rfl
@[simp] theorem modTime_fab (s : State) (f : TimeUnit → TimeUnit) : (modTime s f).fab = s.fab := rfl
@[simp] theorem modTime_log (s : State) (f : TimeUnit → TimeUnit) : (modTime s f).log = s.log := rfl
@[simp] theorem modTime_ctl (s : State) (f : TimeUnit → TimeUnit) : (modTime s f).ctl = s.ctl := rfl
@[simp] theorem modTime_cp (s : State) (f : TimeUnit → TimeUnit) : (modTime s f).cp = s.cp := rfl
@[simp] theorem modTime_host (s : State) (f : TimeUnit → TimeUnit) : (modTime s f).host = s.host := rfl
@[simp] theorem modTime_time (s : State) (f : TimeUnit → TimeUnit) : (modTime s f).time = f s.time := rfl
@[simp] theorem modTime_search (s : State) (f : TimeUnit → TimeUnit) : (modTime s f).search = s.search := rfl
@[simp] theorem modTime_models (s : State) (f : TimeUnit → TimeUnit) : (modTime s f).models = s.models := rfl
@[simp] theorem modTime_serving (s : State) (f : TimeUnit → TimeUnit) : (modTime s f).serving = s.serving := rfl
@[simp] theorem modTime_units (s : State) (f : TimeUnit → TimeUnit) : (modTime s f).units = s.units := rfl
@[simp] theorem modTime_tens (s : State) (f : TimeUnit → TimeUnit) : (modTime s f).tens = s.tens := rfl
@[simp] theorem modTime_mboxes (s : State) (f : TimeUnit → TimeUnit) : (modTime s f).mboxes = s.mboxes := rfl
@[simp] theorem modTime_inflight (s : State) (f : TimeUnit → TimeUnit) : (modTime s f).inflight = s.inflight := rfl
@[simp] theorem modTime_store (s : State) (f : TimeUnit → TimeUnit) : (modTime s f).store = s.store := rfl
@[simp] theorem modTime_power (s : State) (f : TimeUnit → TimeUnit) : (modTime s f).power = s.power := rfl
@[simp] theorem modTime_survey (s : State) (f : TimeUnit → TimeUnit) : (modTime s f).survey = s.survey := rfl
@[simp] theorem modTime_out (s : State) (f : TimeUnit → TimeUnit) : (modTime s f).out = s.out := rfl
@[simp] theorem modTime_left (s : State) (f : TimeUnit → TimeUnit) : (modTime s f).left = s.left := rfl
@[simp] theorem modTime_freeCtr (s : State) (f : TimeUnit → TimeUnit) : (modTime s f).freeCtr = s.freeCtr := rfl
@[simp] theorem modTime_pending (s : State) (f : TimeUnit → TimeUnit) : (modTime s f).pending = s.pending := rfl

end Sys2Proof.Machine
end

