-- ==== Sys2Proof/WellFormed.lean ====
section
/-! DEFINITION. Well-formed commands: each operand in the range the spec gives it. -/

namespace Sys2Proof

/-- A core number (R17). -/
def coreOk (c : Nat) : Bool := decide (c < 96)

/-- A slot of a core: up to eight job-cores are resident (R93). -/
def slotOk (n : Nat) : Bool := decide (n < 8)

/-- A scratchpad segment (R72, R86). -/
def segOk (n : Nat) : Bool := decide (n < 16)

/-- A sequence slot (R239). -/
def seqSlotOk (n : Nat) : Bool := decide (n < 16384)

/-- A 32-bit number. -/
def wordOk (v : Nat) : Bool := decide (v < 2 ^ 32)

/-- A 64-bit number. -/
def prodOk (v : Nat) : Bool := decide (v < 2 ^ 64)

/-- A 16-bit number: TXID, CID, CODE. -/
def txOk (v : Nat) : Bool := decide (v < 2 ^ 16)

/-- A job-core (R193). -/
def jcoreOk (n : Nat) : Bool := decide (n < 96)

/-- A tenant (R154). -/
def tenantOk (t : Nat) : Bool := decide (t < 64)

/-- A page of the atlas (R156). -/
def pageOk (p : Nat) : Bool := decide (p < 2 ^ 41)

/-- A tenant frame or a frame of the reserve (R166). -/
def frameOk (n : Nat) : Bool := decide (n < 15728640)

/-- A fabric port, or port 48 toward the host (R302, R332). -/
def portOk (p : Nat) : Bool := decide (p ≤ 48)

/-- A service (R317). -/
def svcOk (n : Nat) : Bool := decide (n < 8)

/-- A module number (R311). -/
def moduleOk (m : Nat) : Bool := decide (m < 2 ^ 17)

/-- A collective group (R324). -/
def groupOk (g : Nat) : Bool := decide (g < 256)

/-- A flit (R304). -/
def flitOk (bs : Bytes) : Bool := decide (bs.length = 256)

/-- A flit's SEQ (Table 12.2). -/
def seqOk (n : Nat) : Bool := decide (n < 2 ^ 16)

/-- A flash channel (R17). -/
def chanOk (n : Nat) : Bool := decide (n < 40)

/-- A function index (Table 15.2). -/
def fnOk (f : Nat) : Bool := decide (f ≤ 64)

/-- A mailbox (R379). -/
def mboxOk (m : Nat) : Bool := decide (m ≤ 64)

/-- NumVFs (R363). -/
def vfsOk (n : Nat) : Bool := decide (n ≤ 63)

/-- A vector of some function (Table 15.2). -/
def vectorOk (v : Nat) : Bool := decide (v < 2048)

/-- A vector, or the function mask. -/
def maskOk (v : Option Nat) : Bool := v.all vectorOk

/-- A submission entry (R383). -/
def entryOk (bs : Bytes) : Bool := decide (bs.length = 64)

/-- A command in flight: one of a mailbox, or the one over MCTP, which the model numbers 128 (R412). -/
def refOk (r : CmdRef) : Bool := decide (r.fn < 64 ∧ (r.mbox ≤ 64 ∨ (r.fn = 0 ∧ r.mbox = 128)) ∧ r.cid < 2 ^ 16)

/-- An NVMe queue (R416). -/
def queueOk (q : Nat) : Bool := decide (q ≤ 128)

/-- CC.SHN (R418). -/
def shnOk (n : Nat) : Bool := decide (n < 4)

/-- A source number (Table 1.6). -/
def sourceOk (n : Nat) : Bool := decide (n < 2 ^ 16)

/-- A site of Table 19.3. -/
def siteOk (n : Nat) : Bool := decide (n ≤ 10)

/-- Which mirrors of a boot-partition write fail (R438). -/
def mirrorsOk (n : Nat) : Bool := decide (n < 4)

/-- Masks of the units that fail their bring-up tests (R441). -/
def coresOk (n : Nat) : Bool := decide (n < 2 ^ 96)
def hbmsOk (n : Nat) : Bool := decide (n < 2 ^ 20)
def chansOk (n : Nat) : Bool := decide (n < 2 ^ 40)
def portsOk (n : Nat) : Bool := decide (n < 2 ^ 48)

/-- Temperatures of the 20 dies (R462). -/
def diesOk (ts : List Int) : Bool := decide (ts.length ≤ 20)

/-- A device of the boundary-scan chain (R493). -/
def devOk (n : Nat) : Bool := decide (n < 20)

/-- Payload of a write TLP: at most Max_Payload_Size (R363). -/
def payloadOk (bs : Bytes) : Bool := decide (1 ≤ bs.length ∧ bs.length ≤ 512)

/-- Length of a read request: at most Max_Read_Request_Size (R363). -/
def readLenOk (n : Nat) : Bool := decide (1 ≤ n ∧ n ≤ 4096)

/-- A failure of a host request (R373), 0 for none. -/
def codeOk (n : Nat) : Bool := decide (n ≤ 5)

/-- A rate of the link, 2 for 2.5 GT/s (R362). -/
def rateOk (n : Nat) : Bool := [128, 64, 32, 16, 8, 5, 2].contains n

/-- A width of the link (R362). -/
def widthOk (n : Nat) : Bool := [8, 4, 2, 1].contains n

/-- A transfer with the host. -/
def xferOk (x : HostXfer) : Bool :=
  match x with
  | .fetch fn m => fnOk fn && mboxOk m
  | .cq fn m => fnOk fn && mboxOk m
  | .cmd r => refOk r
  | .t3 t p => tenantOk t && pageOk p
  | .stream q => seqSlotOk q
  | .nvme q c => queueOk q && txOk c

/-- A register write: 4 or 8 bytes of value. -/
def regOk (w : RegWrite) : Bool :=
  match w with
  | .bar0 off _ v => decide (off < 2 ^ 20) && prodOk v
  | _ => true

/-- Is every operand of a command in range? -/
def Instr.wf (i : Instr) : Bool :=
  match i with
  | .commandFetch c slot => coreOk c && slotOk slot
  | .nop c slot => coreOk c && slotOk slot
  | .fenceLocal c slot => coreOk c && slotOk slot
  | .fenceAtlas c slot => coreOk c && slotOk slot
  | .semWait c slot => coreOk c && slotOk slot
  | .semSignal c slot => coreOk c && slotOk slot
  | .semWaitTimeout jobid jcore => wordOk jobid && jcoreOk jcore
  | .memWait c slot => coreOk c && slotOk slot
  | .memWaitPoll c slot => coreOk c && slotOk slot
  | .memWaitTimeout c slot => coreOk c && slotOk slot
  | .memAtomic c slot => coreOk c && slotOk slot
  | .spadRegion c slot => coreOk c && slotOk slot
  | .spadSegmentUp c slot => coreOk c && slotOk slot
  | .spadSegmentDown c slot => coreOk c && slotOk slot
  | .segmentWakeDone c seg => coreOk c && segOk seg
  | .segmentOff c seg => coreOk c && segOk seg
  | .arrayPass c slot => coreOk c && slotOk slot
  | .passFirstPlane c => coreOk c
  | .accumulatorWrite c => coreOk c
  | .arrayDrain c slot => coreOk c && slotOk slot
  | .drainStart c => coreOk c
  | .drainComplete c => coreOk c
  | .tmMove c slot => coreOk c && slotOk slot
  | .tmGather c slot => coreOk c && slotOk slot
  | .tmScatter c slot => coreOk c && slotOk slot
  | .tmRunDone c _ => coreOk c
  | .tmHintWillneed c slot => coreOk c && slotOk slot
  | .tmHintCold c slot => coreOk c && slotOk slot
  | .tmHintDemote c slot => coreOk c && slotOk slot
  | .vuLd c slot => coreOk c && slotOk slot
  | .vuSt c slot => coreOk c && slotOk slot
  | .vuAdd c slot => coreOk c && slotOk slot
  | .vuSub c slot => coreOk c && slotOk slot
  | .vuMul c slot => coreOk c && slotOk slot
  | .vuFma c slot => coreOk c && slotOk slot
  | .vuMin c slot => coreOk c && slotOk slot
  | .vuMax c slot => coreOk c && slotOk slot
  | .vuAbs c slot => coreOk c && slotOk slot
  | .vuNeg c slot => coreOk c && slotOk slot
  | .vuDiv c slot => coreOk c && slotOk slot
  | .vuSqrt c slot => coreOk c && slotOk slot
  | .vuAnd c slot => coreOk c && slotOk slot
  | .vuOr c slot => coreOk c && slotOk slot
  | .vuXor c slot => coreOk c && slotOk slot
  | .vuShl c slot => coreOk c && slotOk slot
  | .vuShr c slot => coreOk c && slotOk slot
  | .vuSar c slot => coreOk c && slotOk slot
  | .vuPopc c slot => coreOk c && slotOk slot
  | .vuHamm c slot => coreOk c && slotOk slot
  | .vuCvt c slot => coreOk c && slotOk slot
  | .vuCmp c slot => coreOk c && slotOk slot
  | .vuSel c slot => coreOk c && slotOk slot
  | .vuRsum c slot => coreOk c && slotOk slot
  | .vuRmax c slot => coreOk c && slotOk slot
  | .vuExp2 c slot => coreOk c && slotOk slot
  | .vuLog2 c slot => coreOk c && slotOk slot
  | .vuRsqrt c slot => coreOk c && slotOk slot
  | .vuTanh c slot => coreOk c && slotOk slot
  | .vuSoftmax c slot => coreOk c && slotOk slot
  | .vuBsort c slot => coreOk c && slotOk slot
  | .vuBmerge c slot => coreOk c && slotOk slot
  | .vuTopk c slot => coreOk c && slotOk slot
  | .vuCompact c slot => coreOk c && slotOk slot
  | .vuSample c slot => coreOk c && slotOk slot
  | .plotDone c slot => coreOk c && slotOk slot
  | .stealRequest c jobid => coreOk c && wordOk jobid
  | .stealRequestArrival c jobid => coreOk c && wordOk jobid
  | .stealRetry c jobid => coreOk c && wordOk jobid
  | .searchOpen r => refOk r
  | .searchClose r => refOk r
  | .searchQuery r => refOk r
  | .searchUpdate r => refOk r
  | .searchResurveyStart r => refOk r
  | .searchResurveyAbort r => refOk r
  | .searchSwap r => refOk r
  | .searchBatchStart h => wordOk h
  | .searchBatchEnd h _ => wordOk h
  | .resurveyBuildDone h => wordOk h
  | .resurveyYield h => wordOk h
  | .atlasMap r => refOk r
  | .atlasUnmap r => refOk r
  | .atlasProtect r => refOk r
  | .atlasPin r => refOk r
  | .atlasUnpin r => refOk r
  | .atlasHintWillneed r => refOk r
  | .atlasHintCold r => refOk r
  | .atlasHintDemote r => refOk r
  | .atlasZero r => refOk r
  | .atlasPeerCreate r => refOk r
  | .atlasPeerRemove r => refOk r
  | .atlasLend r => refOk r
  | .atlasHreg r => refOk r
  | .atlasHunreg r => refOk r
  | .atlasFring r => refOk r
  | .atlasPolicy r => refOk r
  | .atlasQueryEntries r => refOk r
  | .atlasQueryUsage r => refOk r
  | .atlasTranspose r => refOk r
  | .translationWalk c _ => coreOk c
  | .promotionComplete t page _ => tenantOk t && pageOk page
  | .demotionComplete t page _ _ => tenantOk t && pageOk page
  | .hubAccess c _ => coreOk c
  | .heatDecay t => tenantOk t
  | .frameZeroed frame => frameOk frame
  | .faultRingWrite t _ => tenantOk t
  | .fringCidxWrite fn value => fnOk fn && wordOk value
  | .jobCreate r => refOk r
  | .jobPlots r => refOk r
  | .jobResumeRetry r => refOk r
  | .jobResumeSkip r => refOk r
  | .jobAbortFinish r => refOk r
  | .jobAbortBoundary r => refOk r
  | .jobAbortImmediate r => refOk r
  | .jobSemCreate r => refOk r
  | .jobSemDestroy r => refOk r
  | .jobPrio r => refOk r
  | .jobStatus r => refOk r
  | .jobPolicy r => refOk r
  | .saveQuiesceEnd c slot => coreOk c && slotOk slot
  | .saveDrainEnd c slot => coreOk c && slotOk slot
  | .saveEnd c slot => coreOk c && slotOk slot
  | .saveReleaseEnd c slot => coreOk c && slotOk slot
  | .restoreEnd c slot => coreOk c && slotOk slot
  | .inhtoExpiry jobid => wordOk jobid
  | .modelLoad r => refOk r
  | .modelUnload r => refOk r
  | .modelSwap r => refOk r
  | .tableGather r => refOk r
  | .tableScatter r => refOk r
  | .seqSubmit r => refOk r
  | .seqCancelNormal r => refOk r
  | .seqCancelImmediate r => refOk r
  | .seqStatus r => refOk r
  | .seqMove r => refOk r
  | .seqExportSnapshot r => refOk r
  | .seqExportDetach r => refOk r
  | .seqImport r => refOk r
  | .seqServe r => refOk r
  | .seqPolicy r => refOk r
  | .prefillStepForm h _ => wordOk h
  | .decodeBeat h _ => wordOk h
  | .encodeStepForm h _ => wordOk h
  | .rerankStepForm h _ => wordOk h
  | .draftStepForm h _ => wordOk h
  | .verifyStepForm h _ => wordOk h
  | .stepEnd h _ _ _ => wordOk h
  | .expertStepStart h _ => wordOk h
  | .dispatchDeadline h _ _ => wordOk h
  | .rebalancePeriod h _ => wordOk h
  | .poolMoveRelease h _ => wordOk h
  | .kvColdTimer slot => seqSlotOk slot
  | .streamConsPoll slot => seqSlotOk slot
  | .tokeniseUnit => true
  | .packUnit => true
  | .tokenUnit => true
  | .draftPositionUnit => true
  | .admissionUnit => true
  | .textTokenise r => refOk r
  | .textDetokenise r => refOk r
  | .flitReceive port flit _ => portOk port && flitOk flit
  | .nakReceive port seq => portOk port && seqOk seq
  | .fencedReceive port => portOk port
  | .pcsLockLoss port => portOk port
  | .linkSilenceTimeout port => portOk port
  | .portTrained port peer _ _ => portOk port && moduleOk peer
  | .treadReceive => true
  | .twriteReceive => true
  | .atomicReceive => true
  | .msgReceive svc => svcOk svc
  | .collReceive => true
  | .rdataReceive => true
  | .wackReceive => true
  | .avalReceive => true
  | .mackReceive => true
  | .erespReceive => true
  | .remoteOpTimeout tx => txOk tx
  | .responseTableExpiry => true
  | .orderedFlowTimeout dst svc => moduleOk dst && svcOk svc
  | .busyRetry tx => txOk tx
  | .mgmtProbe => true
  | .probeTimeout m => moduleOk m
  | .lostNotice => true
  | .joinNotice => true
  | .fabConfig r => refOk r
  | .fabRouteWrite r => refOk r
  | .fabRouteCommit r => refOk r
  | .fabPortDisable r => refOk r
  | .fabPortEnable r => refOk r
  | .fabPortSetcred r => refOk r
  | .fabStatusPorts r => refOk r
  | .fabStatusReach r => refOk r
  | .fabFence r => refOk r
  | .fabUnfence r => refOk r
  | .fabGroupCreate r => refOk r
  | .fabGroupDestroy r => refOk r
  | .collectiveTrigger t g => tenantOk t && groupOk g
  | .collectiveDone t g => tenantOk t && groupOk g
  | .egressSchedule port => portOk port
  | .tokenRefill port => portOk port
  | .gateEntryAdvance port => portOk port
  | .gateTakeover port => portOk port
  | .queueSample cons => prodOk cons
  | .fabShaper r => refOk r
  | .fabSched r => refOk r
  | .fabGateWrite r => refOk r
  | .fabGateCommit r => refOk r
  | .fabSample r => refOk r
  | .meridianRead64 fn => fnOk fn
  | .meridianLowRead fn => fnOk fn
  | .meridianHighRead fn => fnOk fn
  | .ppsEdge => true
  | .ppsLossTimeout => true
  | .timeSend port => portOk port
  | .timeReceive _ => true
  | .scheduledActionApply _ => true
  | .timeConfig r => refOk r
  | .timeArm r => refOk r
  | .timeDisarm r => refOk r
  | .timeStatus r => refOk r
  | .armMessage => true
  | .armedMessage => true
  | .notarmedMessage => true
  | .confirmMessage => true
  | .disarmMessage => true
  | .reportMessage => true
  | .armDecision id => wordOk id
  | .modeChangeActivate coord id => moduleOk coord && wordOk id
  | .reportDeadline id => wordOk id
  | .powerApplied cores hbms chans ports _ => coresOk cores && hbmsOk hbms && chansOk chans && portsOk ports
  | .inputShutdown => true
  | .coolantWaitEnd _ cores hbms chans ports _ => coresOk cores && hbmsOk hbms && chansOk chans && portsOk ports
  | .perstAssert => true
  | .pcieLinkReset => true
  | .flrPf0 => true
  | .flrVf t => tenantOk t
  | .flrPf1 => true
  | .vfEnableWrite _ => true
  | .numvfsWrite n => vfsOk n
  | .resetComplete fn => fnOk fn
  | .bar2Read fn _ _ len => fnOk fn && readLenOk len
  | .bar2Write fn _ bytes => fnOk fn && payloadOk bytes
  | .bar2ReadTimeout fn => fnOk fn
  | .bar0BadAccess fn _ => fnOk fn
  | .winBaseWrite fn _ value => fnOk fn && prodOk value
  | .msixModerationTimer fn v => fnOk fn && vectorOk v
  | .msixUnmask fn v => fnOk fn && maskOk v
  | .atsInvalidate fn _ _ => fnOk fn
  | .hostCompletion x code _ _ => xferOk x && codeOk code
  | .completionTimeout x _ => xferOk x
  | .hostIngressCommit f word => fnOk f && wordOk word
  | .sqTailWrite fn mbox value => fnOk fn && mboxOk mbox && wordOk value
  | .cqHeadWrite fn mbox value => fnOk fn && mboxOk mbox && wordOk value
  | .mboxEnable fn => fnOk fn
  | .mboxDisable fn => fnOk fn
  | .mboxFetch entry => entryOk entry
  | .commandTimeout r => refOk r
  | .devIdentify r => refOk r
  | .devMboxCreate r => refOk r
  | .devMboxRemove r => refOk r
  | .devReset r => refOk r
  | .devCancel r => refOk r
  | .tenEnable r => refOk r
  | .tenDisable r => refOk r
  | .tenConfig r => refOk r
  | .tenQuery r => refOk r
  | .dmaCopy r => refOk r
  | .dmaPieceComplete r => refOk r
  | .logRing r => refOk r
  | .logFilter r => refOk r
  | .logRead r => refOk r
  | .evconsWrite value => wordOk value
  | .logRingWrite _ => true
  | .perfSelect r => refOk r
  | .perfRead r => refOk r
  | .perfSurvey r => refOk r
  | .surveyPeriod cons => prodOk cons
  | .mctpRequest entry _ => entryOk entry
  | .nvmeCreateIoSq sq cid entry => queueOk sq && txOk cid && entryOk entry
  | .nvmeCreateIoCq sq cid entry => queueOk sq && txOk cid && entryOk entry
  | .nvmeDeleteIoSq sq cid entry => queueOk sq && txOk cid && entryOk entry
  | .nvmeDeleteIoCq sq cid entry => queueOk sq && txOk cid && entryOk entry
  | .nvmeGetLogPage sq cid entry => queueOk sq && txOk cid && entryOk entry
  | .nvmeIdentify sq cid entry => queueOk sq && txOk cid && entryOk entry
  | .nvmeAbort sq cid entry => queueOk sq && txOk cid && entryOk entry
  | .nvmeSetFeatures sq cid entry => queueOk sq && txOk cid && entryOk entry
  | .nvmeGetFeatures sq cid entry => queueOk sq && txOk cid && entryOk entry
  | .nvmeAsyncEventRequest sq cid entry => queueOk sq && txOk cid && entryOk entry
  | .nvmeNamespaceManagement sq cid entry => queueOk sq && txOk cid && entryOk entry
  | .nvmeNamespaceAttachment sq cid entry => queueOk sq && txOk cid && entryOk entry
  | .nvmeFormatNvm sq cid entry => queueOk sq && txOk cid && entryOk entry
  | .nvmeSanitize sq cid entry => queueOk sq && txOk cid && entryOk entry
  | .nvmeAbsentCommand sq cid entry => queueOk sq && txOk cid && entryOk entry
  | .nvmeRead sq cid entry => queueOk sq && txOk cid && entryOk entry
  | .nvmeWrite sq cid entry => queueOk sq && txOk cid && entryOk entry
  | .nvmeFlush sq cid entry => queueOk sq && txOk cid && entryOk entry
  | .nvmeWriteZeroes sq cid entry => queueOk sq && txOk cid && entryOk entry
  | .nvmeDatasetManagement sq cid entry => queueOk sq && txOk cid && entryOk entry
  | .nvmeShutdownNotify shn => shnOk shn
  | .nvmeDoorbellWrite _ value => wordOk value
  | .storeSplit r => refOk r
  | .storeLockCreate r => refOk r
  | .storeLockRelease r => refOk r
  | .storeLockList r => refOk r
  | .storeArb r => refOk r
  | .storeHealth r => refOk r
  | .lockActivate _ => true
  | .lockExpiry _ => true
  | .channelSchedule chan => chanOk chan
  | .writeBufferProgram => true
  | .gcCopyVerified chan _ => chanOk chan
  | .flashProgramFail chan _ => chanOk chan
  | .flashEraseFail chan _ => chanOk chan
  | .flashReadFail chan _ _ => chanOk chan
  | .apstIdleTimer => true
  | .cpWatchdogExpiry => true
  | .helperHeartbeatTimeout src _ => sourceOk src
  | .startFailureTimeout => true
  | .fwDownload r => refOk r
  | .fwCommit r fail => refOk r && mirrorsOk fail
  | .fwActivate r => refOk r
  | .fwConfirm r fail => refOk r && mirrorsOk fail
  | .fwRevert r fail => refOk r && mirrorsOk fail
  | .fwStatus r => refOk r
  | .confirmsTimeout => true
  | .secStatus r => refOk r
  | .secNonce r => refOk r
  | .secIdentity r => refOk r
  | .secAttest r => refOk r
  | .secLifecycle r fail => refOk r && mirrorsOk fail
  | .recoveryRequest => true
  | .governorPeriod _ _ _ => true
  | .planPublish _ => true
  | .planPublishRetry _ => true
  | .pmbusArbitrationLoss => true
  | .sensorSample _ _ _ dies _ => diesOk dies
  | .correctedError site unit _ => siteOk site && sourceOk (unit % 65536) && decide (unit < 6 * 65536) && decide (unit % 65536 = 0x0600 ∨ unit < 65536)
  | .uncorrectableError site unit _ _ => siteOk site && sourceOk unit
  | .eventCoalesceClose src code _ => sourceOk src && txOk code
  | .portWindowEnd port => portOk port
  | .pwrCap r => refOk r
  | .pwrPlan r => refOk r
  | .pwrStatus r => refOk r
  | .pwrShelf r => refOk r
  | .pwrFence r => refOk r
  | .pwrUnitregRead r => refOk r
  | .pwrUnitregWrite r => refOk r
  | .jtagInstructionLoad dev _ => devOk dev
  | .registerWrite fn w => fnOk fn && regOk w
  | .vectorUnitComplete c => coreOk c
  | .eraseComplete chan _ => chanOk chan
  | .perstDeassert => true
  | .pcieLinkUp rate width => rateOk rate && widthOk width
  | .meridianHoldEnd => true
  | .interruptCoalescingTimer cq => queueOk cq

end Sys2Proof
end

