-- ==== Sys2Proof/Tests/Slice0.lean ====
section
/-! SUPPORT. The model's own tests: ill-formed commands that each check refuses, single steps on small states, and states
that meet the hypotheses of the statements. -/

namespace Sys2Proof.Tests

open Sys2Proof Sys2Proof.Machine Sys2Proof.Safety

set_option Elab.async false

/-! ### Ill-formed commands -/

/-- A core number past the last (R17) is refused. -/
theorem wf_core : (Instr.commandFetch 96 0).wf = false := by decide

/-- A job slot past the last (R93) is refused. -/
theorem wf_slot : (Instr.commandFetch 0 8).wf = false := by decide

/-- A segment past the last of a core (R72) is refused. -/
theorem wf_segment : (Instr.segmentOff 0 16).wf = false := by decide

/-- A JOBID of more than 32 bits (R192) is refused. -/
theorem wf_jobid : (Instr.inhtoExpiry (2 ^ 32)).wf = false := by decide

/-- A job-core past the last (R193) is refused. -/
theorem wf_jcore : (Instr.semWaitTimeout 1 96).wf = false := by decide

/-- A sequence slot past the last (R239) is refused. -/
theorem wf_seq_slot : (Instr.kvColdTimer 16384).wf = false := by decide

/-- A TXID of more than 16 bits (R322) is refused. -/
theorem wf_txid : (Instr.busyRetry (2 ^ 16)).wf = false := by decide

/-- A consumer count of more than 64 bits (R343) is refused. -/
theorem wf_cons64 : (Instr.queueSample (2 ^ 64)).wf = false := by decide

/-- A tenant past the last (R154) is refused. -/
theorem wf_tenant : (Instr.heatDecay 64).wf = false := by decide

/-- A page past the address space (R156) is refused. -/
theorem wf_page : (Instr.promotionComplete 0 (2 ^ 41) 0).wf = false := by decide

/-- A frame past the last (R166) is refused. -/
theorem wf_frame : (Instr.frameZeroed 15728640).wf = false := by decide

/-- A port past the host's (R332) is refused. -/
theorem wf_port : (Instr.fencedReceive 49).wf = false := by decide

/-- A service past the last (R317) is refused. -/
theorem wf_service : (Instr.msgReceive 8).wf = false := by decide

/-- A module number of more than 17 bits (R311) is refused. -/
theorem wf_module : (Instr.probeTimeout (2 ^ 17)).wf = false := by decide

/-- A group past the last (R324) is refused. -/
theorem wf_group : (Instr.collectiveDone 0 256).wf = false := by decide

/-- A flit that is not 256 bytes (R304) is refused. -/
theorem wf_flit : (Instr.flitReceive 0 [] true).wf = false := by decide

/-- A SEQ of more than 16 bits (Table 12.2) is refused. -/
theorem wf_seq : (Instr.nakReceive 0 (2 ^ 16)).wf = false := by decide

/-- A flash channel past the last (R17) is refused. -/
theorem wf_chan : (Instr.channelSchedule 40).wf = false := by decide

/-- A function index past PF1 (Table 15.2) is refused. -/
theorem wf_fn : (Instr.mboxEnable 65).wf = false := by decide

/-- A mailbox past the last (R379) is refused. -/
theorem wf_mbox : (Instr.sqTailWrite 0 65 0).wf = false := by decide

/-- More VFs than there are (R363) is refused. -/
theorem wf_vfs : (Instr.numvfsWrite 64).wf = false := by decide

/-- A vector past the last (Table 15.2) is refused. -/
theorem wf_vector : (Instr.msixModerationTimer 0 2048).wf = false := by decide

/-- A vector past the last (Table 15.2) is refused. -/
theorem wf_mask : (Instr.msixUnmask 0 (some 2048)).wf = false := by decide

/-- A submission entry that is not 64 bytes (R383) is refused. -/
theorem wf_entry : (Instr.mboxFetch []).wf = false := by decide

/-- A command of a mailbox that does not exist (R379) is refused. -/
theorem wf_ref : (Instr.tenEnable ⟨0, 65, 0⟩).wf = false := by decide

/-- MCTP serves PF0 only (R412) is refused. -/
theorem wf_ref_mctp : (Instr.tenEnable ⟨1, 128, 0⟩).wf = false := by decide

/-- An NVMe queue past the last (R416) is refused. -/
theorem wf_queue : (Instr.interruptCoalescingTimer 129).wf = false := by decide

/-- CC.SHN has two bits (R418) is refused. -/
theorem wf_shn : (Instr.nvmeShutdownNotify 4).wf = false := by decide

/-- A source number of more than 16 bits (Table 1.6) is refused. -/
theorem wf_source : (Instr.helperHeartbeatTimeout 65536 0).wf = false := by decide

/-- A site that Table 19.3 does not have is refused. -/
theorem wf_site : (Instr.correctedError 11 0 0).wf = false := by decide

/-- There are two mirrors (R438) is refused. -/
theorem wf_mirrors : (Instr.fwCommit ⟨0, 0, 0⟩ 4).wf = false := by decide

/-- A core mask of more than 96 bits (R17) is refused. -/
theorem wf_cores : (Instr.powerApplied (2 ^ 96) 0 0 0 false).wf = false := by decide

/-- A stack mask of more than 20 bits (R17) is refused. -/
theorem wf_hbms : (Instr.powerApplied 0 (2 ^ 20) 0 0 false).wf = false := by decide

/-- A channel mask of more than 40 bits (R17) is refused. -/
theorem wf_chans : (Instr.powerApplied 0 0 (2 ^ 40) 0 false).wf = false := by decide

/-- A port mask of more than 48 bits (R17) is refused. -/
theorem wf_ports : (Instr.powerApplied 0 0 0 (2 ^ 48) false).wf = false := by decide

/-- More dies than the module has (R13) is refused. -/
theorem wf_dies : (Instr.sensorSample 0 0 0 (List.replicate 21 0) 0).wf = false := by decide

/-- A device past the chain (R493) is refused. -/
theorem wf_device : (Instr.jtagInstructionLoad 20 .bypass).wf = false := by decide

/-- A write TLP without data (R363) is refused. -/
theorem wf_payload : (Instr.bar2Write 0 0 []).wf = false := by decide

/-- A read past Max_Read_Request_Size (R363) is refused. -/
theorem wf_read_len : (Instr.bar2Read 0 0 0 4097).wf = false := by decide

/-- A failure that R373 does not have is refused. -/
theorem wf_code : (Instr.hostCompletion (.fetch 0 0) 6 0 []).wf = false := by decide

/-- A rate the link does not have (R362) is refused. -/
theorem wf_rate : (Instr.pcieLinkUp 7 8).wf = false := by decide

/-- A width the link does not have (R362) is refused. -/
theorem wf_width : (Instr.pcieLinkUp 64 3).wf = false := by decide

/-- A transfer of a tenant past the last (R154) is refused. -/
theorem wf_xfer : (Instr.completionTimeout (.t3 64 0) 0).wf = false := by decide

/-- A write past BAR0 (R364) is refused. -/
theorem wf_reg : (Instr.registerWrite 0 (.bar0 (2 ^ 20) 4 0)).wf = false := by decide
/-- A command whose operands are in range is well formed. -/
theorem wf_good : (Instr.tenEnable ⟨0, 0, 1⟩).wf = true := by decide

/-! ### States that meet the hypotheses of the statements -/

/-- A state that differs from reset in the clock's small parts only: reset itself. -/
abbrev s0 : State := State.reset

/-- A 64-byte command: opcode and bytes at offsets. -/
def cmdB (op : Nat) (l : List (Nat × Nat)) : Bytes :=
  (List.range 64).map fun i => BitVec.ofNat 8 (if i = 0 then op else tabGet l i 0)

/-- Region of 16 chunks by 64 rows, of an element size, at a line. -/
def reg0 (lbase esize : Nat) : Region := { lbase := lbase, nlines := 16, pitch := 16, nrows := 64, esize := esize }

/-- The context of a job-core with one command at the head of its stream. -/
def ctx0 (b : Bytes) : Ctx :=
  { run := some { plot := { ncmd := 1 }, fetched := 1 }, queue := [⟨b, 0⟩]
    regions := [(1, reg0 0 0), (2, reg0 16 2), (3, reg0 32 3)] }

/-- A resident one-core job of tenant 0 in slot 0 of core 0. -/
def slot0 (b : Bytes) : Slot := { segs := [0], nacc := 64, ctx := ctx0 b }
def jobs0 : Jobs := { jobs := [(0, { jcores := [(0, { st := .resident })] })] }

/-- Core 0 with that job, its head command `b`, segment 0 in a power state. -/
def coreSt (p : SegPower) (b : Bytes) : State :=
  { s0 with cores := [(0, { slots := [(0, slot0 b)], segs := [(0, p)], order := [0] })], jobs := jobs0
            enCores := BitVec.ofNat 96 1 }

/-- The head can issue. -/
abbrev Goes (p : SegPower) (b : Bytes) : Prop := Issues (coreSt p b) 0 0 (slot0 b) ⟨b, 0⟩

/-- Page 0 of tenant 0 in T1. -/
def ctxT1 : AtlasCtx := { pages := [(0, { loc := .t1 0, pr := true, pw := true, px := true })] }
def atlas0 : Atlas := { ctx := [(0, ctxT1)], frames := [(0, .tile 0 0)] }

/-- Core 0 as `coreSt` has it, changed, with page 0 mapped. -/
def coreStW (b : Bytes) (f : Core → Core) : State :=
  { coreSt .on b with cores := [(0, f { slots := [(0, slot0 b)], segs := [(0, .on)], order := [0] })], atlas := atlas0 }

/-- The context of slot 0 of core 0 changed. -/
def coreStX (f : Ctx → Ctx) : State := coreStW [] fun k => { k with slots := [(0, { slot0 [] with ctx := f (ctx0 []) })] }
def slotX (f : Ctx → Ctx) : Slot := { slot0 [] with ctx := f (ctx0 []) }

/-- A pass and a drain of one entry. -/
def passB : Bytes := cmdB 0x10 [(8, 3), (9, 0x56), (12, 1), (14, 1), (18, 1), (20, 1)]
def drainB : Bytes := cmdB 0x11 [(12, 1), (16, 1), (18, 2)]

/-- A submission entry: opcode, then bytes at offsets of its parameters. -/
def entB (op : Nat) (l : List (Nat × Nat)) : Bytes :=
  (List.range 64).map fun i => BitVec.ofNat 8
    (if i = 0 then op % 256 else if i = 1 then op / 256 else if i < 16 then 0 else tabGet l (i - 16) 0)

/-- The reference of the administrator's first command, and that command in flight. -/
abbrev r0 : CmdRef := ⟨0, 0, 1⟩
def inf0 (op : Nat) (l : List (Nat × Nat)) : Inflight := { ref := r0, entry := entB op l }

/-- A state with a command offered. -/
def offer (s : State) (x : Inflight) : State := { s with inflight := [x] }

/-- The atlas of `atlas0`, with a command offered. -/
def atSt (x : Inflight) : State := offer { s0 with atlas := atlas0 } x

/-- Page 0 of tenant 0 holding bytes, one core there, a command offered. -/
def pageSt (bs : Bytes) (x : Inflight) : State :=
  let s := atSt x
  { hubWrite s 0 0 bs with enCores := BitVec.ofNat 96 1, jobs := jobs0 }

/-- Bytes at offsets. -/
def bytesAt (n : Nat) (l : List (Nat × Nat)) : Bytes := (List.range n).map fun i => BitVec.ofNat 8 (tabGet l i 0)

/-- Is a command with a parameter block taken, and does `k` hold of the state, the command and the block then? -/
def tookBlock (s : State) (op : Nat) (x : Inflight) (chk : State → Bytes → List (Nat × Bool))
    (k : State → Inflight → Bytes → Bool) : Bool :=
  decide (Takes s r0 op x (blockChecks x.entry)) && decide (x.block = none) && decide (x.done = 0) &&
  match cmdRead (begun s r0) { x with started := true } (cmdTenant x) walkHubControl (parFld x.entry 0 56 0) 64 with
  | .ok w b => decide (firstBad (chk w b) = none) && k (blockHeld w r0 b) { x with started := true, block := some b } b
  | _ => false

theorem tookBlock_spec {s : State} {op : Nat} {x : Inflight} {chk : State → Bytes → List (Nat × Bool)}
    {k : State → Inflight → Bytes → Bool} (h : tookBlock s op x chk k = true) :
    ∃ w b, TakesBlock s r0 op x w b (chk w b) ∧ k (blockHeld w r0 b) { x with started := true, block := some b } b = true := by
  unfold tookBlock at h
  simp only [Bool.and_eq_true, decide_eq_true_eq] at h
  obtain ⟨⟨⟨h1, h2⟩, h3⟩, h4⟩ := h
  split at h4
  · rename_i w b hr
    simp only [Bool.and_eq_true, decide_eq_true_eq] at h4
    exact ⟨w, b, ⟨h1, h2, h3, hr, h4.1⟩, h4.2⟩
  · exact absurd h4 (by decide)

/-- Pages of tenant 0 holding bytes. -/
def mapSt (ps : List (Nat × Bytes)) : State :=
  let a : Atlas := { ctx := [(0, { pages := ps.map fun q => (q.1, { loc := .t1 q.1, pr := true, pw := true, px := true }) })]
                     frames := ps.map fun q => (q.1, .tile 0 q.1) }
  ps.foldl (fun s q => hubWrite s 0 (q.1 * 65536) q.2) { s0 with atlas := a }

/-- Above its last listed address a memory reads as zeros. -/
theorem cellReads_tail {m : List Host.Cell} : ∀ (n k a : Nat), (∀ q ∈ m, q.1 < a + n) →
    cellReads m a (n + k) = cellReads m a n ++ List.replicate k 0
  | 0, 0, _, _ => rfl
  | 0, k + 1, a, h => by
    have h0 : cellRead m a = 0 := by
      clear k
      induction m with
      | nil => rfl
      | cons q m ih =>
        have := h q (by simp)
        have ih := ih fun q hq => h q (by simp [hq])
        simp only [cellRead, tabGet, tabFind] at ih ⊢
        rw [if_neg (by omega)]; exact ih
    have := cellReads_tail 0 k (a + 1) (fun q hq => by have := h q hq; omega)
    simp only [Nat.zero_add] at this ⊢
    simp [cellReads, h0, this, List.replicate_succ]
  | n + 1, k, a, h => by
    have := cellReads_tail n k (a + 1) (fun q hq => by have := h q hq; omega)
    rw [show n + 1 + k = (n + k) + 1 by omega]
    simp [cellReads, this]

/-- A version that runs every kind: workspace at page 2, block tables at page 5, KV blocks from page 6, plot tables at page 4, one live job. -/
def stepV (rs : List StepRun) : ModelVer :=
  { serv := some (bytesAt 256 [(4, 1), (10, 1), (12, 64), (16, 1), (22, 1), (23, 1), (28, 64), (32, 64), (36, 4), (38, 4), (44, 4), (52, 3), (60, 4)]), wspage := 2, jobs := [0]
    plots := (List.range 128).map fun i => BitVec.ofNat 8 (if i % 16 = 2 then 4 else if i % 16 = 8 then 1 else if i % 16 = 10 then 0xFF else 0), sv := { steps := rs } }
def stepQ : Machine.Seq := { gen := 1, stage := .run, gen0 := (1, 1), toks := [7], blk := List.replicate 64 0 }
def stepSt (x : Machine.Seq) (rs : List StepRun) (f : Model → Model) : State :=
  { mapSt [(0, bytesAt 16 [(8, 1)]), (2, []), (3, []), (4, plotB4), (5, []), (6, []), (7, [])] with
    jobs := jobs0, enCores := BitVec.ofNat 96 1
    models := { models := [(1, f { vers := [(1, stepV rs)], lastVer := 1 })] }
    serving := { s0.serving with seqs := [(0, x)] } }
where plotB4 : Bytes := (List.range 32).map fun i => BitVec.ofNat 8 (if i = 8 then 1 else 0)
/-- A state with port 0 changed, which is UP. -/
def linkSt (f : Port → Port) : State := { s0 with enPorts := BitVec.ofNat 48 1, fab := { s0.fab with enable := true, ports := [(0, f { st := .up })] } }
/-- A message in the inbox. -/
def inSt (q : RMsg) (f : Fabric → Fabric) : State := { s0 with fab := f { s0.fab with inbox := [q] } }
/-- Page 0 is exported to peers; a request of module 5 is in the inbox. -/
def servSt (m : FabMsg) : State :=
  let cx : AtlasCtx := { pages := [(0, { loc := .t1 0, pr := true, pw := true, px := true, e := true })] }
  { s0 with atlas := { atlas0 with ctx := [(0, cx)] }, fab := { s0.fab with inbox := [{ m := m }] } }

theorem witness_StepRunsFront : ({ s0 with pending := [.ppsEdge] } : State).pending = .ppsEdge :: [] := rfl

theorem witness_EmptyQueueIdles : s0.pending = [] := rfl

theorem witness_MemoriesStayCanonical : MemoryOk { s0 with pending := [.ppsEdge] } ∧
    ∃ t, step { s0 with pending := [.ppsEdge] } = .next t :=
  ⟨⟨rfl, rfl, by intro n h; cases h⟩, _, rfl⟩

def semSt (b : Bytes) : State := { coreSt .on b with jobs := { jobs0 with sems := [(5, {})] } }
theorem witness_StreamCommandsIssue :
    Goes .on (cmdB 0x00 []) ∧ Goes .on (cmdB 0x02 []) ∧ Goes .on (cmdB 0x02 [(8, 1)]) ∧
    Issues (semSt (cmdB 0x03 [(8, 5), (12, 1)])) 0 0 (slot0 (cmdB 0x03 [(8, 5), (12, 1)])) ⟨cmdB 0x03 [(8, 5), (12, 1)], 0⟩ ∧
    Issues (semSt (cmdB 0x04 [(8, 5), (12, 1)])) 0 0 (slot0 (cmdB 0x04 [(8, 5), (12, 1)])) ⟨cmdB 0x04 [(8, 5), (12, 1)], 0⟩ ∧
    signalBad (semSt (cmdB 0x04 [(8, 5), (12, 1)])) 0 5 1 = none ∧
    Goes .on (cmdB 0x05 []) ∧ Goes .on (cmdB 0x08 [(8, 7), (14, 16), (16, 16), (18, 64)]) ∧
    Goes .off (cmdB 0x09 [(8, 1), (10, 1)]) ∧ Goes .on (cmdB 0x09 [(10, 1)]) := by decide +kernel

theorem witness_UnitCommandsIssue :
    Goes .on passB ∧ Goes .on drainB ∧
    Goes .on (cmdB 0x20 [(9, 1), (24, 1), (26, 1), (28, 1), (30, 1)]) ∧
    Goes .on (cmdB 0x21 [(9, 1), (10, 2), (20, 1), (22, 1)]) ∧ Goes .on (cmdB 0x22 [(9, 1), (10, 2), (20, 1), (22, 1)]) ∧
    Goes .on (cmdB 0x06 []) ∧ Goes .on (cmdB 0x23 [(24, 1), (28, 1)]) ∧ Goes .on (cmdB 0x23 [(8, 1), (24, 1), (28, 1)]) ∧
    Goes .on (cmdB 0x23 [(8, 2), (24, 1), (28, 1)]) ∧ Goes .on (cmdB 0x30 [(10, 2), (11, 1), (16, 1)]) ∧
    Goes .on (cmdB 0x31 [(10, 2), (11, 1), (16, 1)]) := by decide +kernel

theorem witness_VectorLaneCommandsIssue : ∀ p ∈ [(0x00, 0), (0x01, 0), (0x02, 0), (0x03, 0), (0x04, 0), (0x05, 0), (0x06, 0),
      (0x07, 0), (0x08, 0), (0x09, 0), (0x10, 0x80), (0x11, 0x80), (0x12, 0x80), (0x13, 0x80), (0x14, 0x80), (0x15, 0x80),
      (0x16, 0x80), (0x17, 0x80), (0x20, 0), (0x21, 0), (0x22, 0), (0x30, 0), (0x31, 0), (0x32, 0), (0x33, 0)],
    Goes .on (cmdB 0x32 [(8, p.1), (9, p.2)]) ∧ selVop p.1 (cmdB 0x32 [(8, p.1), (9, p.2)]) = true := by decide +kernel

theorem witness_VectorGroupCommandsIssue :
    (∀ op ∈ [0x28, 0x29, 0x38], Goes .on (cmdB 0x32 [(8, op)])) ∧
    (∀ op ∈ [0x40, 0x43, 0x48], Goes .on (cmdB 0x32 [(8, op), (12, 4), (13, 8), (14, 12)])) ∧
    Goes .on (cmdB 0x32 [(8, 0x41), (9, 4), (12, 4), (13, 8), (14, 12)]) ∧
    Goes .on (cmdB 0x32 [(8, 0x42), (12, 4), (13, 8), (14, 12), (17, 1)]) := by decide +kernel

def fetchX (x : Ctx) : Ctx := { x with run := some { plot := { ncmd := 1 } }, queue := [] }
def semX (x : Ctx) : Ctx := { x with wait := some (.sem 5 1 (some 9) {}) }
def memX (x : Ctx) : Ctx := { x with wait := some (.mem 8 0 1 (some 9) none 4 {}) }
def doneX (x : Ctx) : Ctx := { x with run := some { plot := { ncmd := 1 }, fetched := 1, issued := 1 }, queue := [] }
theorem witness_StreamEventsComplete :
    (canFetch (coreStX fetchX) (coreAt (coreStX fetchX) 0) (slotX fetchX) = true ∧
      slotAt (coreStX fetchX) 0 0 = some (slotX fetchX) ∧ fetchVa (fetchPrep (slotX fetchX).ctx) = some 0 ∧
      checkPage (coreWalk (modCtx (coreStX fetchX) 0 0 fun _ => fetchPrep (slotX fetchX).ctx) 0 0 0) 0 0 .fetch =
        .ok { loc := .t1 0, pr := true, pw := true, px := true }) ∧
    (jcCtx (coreStX semX) 0 0 = some (slotX semX).ctx) ∧
    (slotAt (coreStX memX) 0 0 = some (slotX memX) ∧ slotResident (coreStX memX) (slotX memX) = true) ∧
    (segState (coreAt (coreStW [] fun k => { k with segs := [(0, .waking)], segDue := [(0, 5)] }) 0) 0 = .waking ∧
      segState (coreAt (coreStW [] fun k => { k with segs := [(0, .closing)], segDue := [(0, 5)] }) 0) 0 = .closing) ∧
    (plotComplete (coreStX doneX) (coreAt (coreStX doneX) 0) 0 (slotX doneX) = true ∧ jobAt (coreStX doneX) 0 ≠ none) := by
  decide +kernel

def passK (st : Option Nat) (k : Core) : Core := { k with passes := [{ cmd := ⟨passB, 0⟩, start := st, regs := (ctx0 []).regions }] }
def drainK (st : Bool) (k : Core) : Core := { k with drains := [{ cmd := ⟨drainB, 0⟩, started := st, regs := (ctx0 []).regions }] }
theorem witness_ArrayEventsComplete :
    ((coreAt (coreStW [] (passK none)) 0).passes.find? (fun p => p.start = none) ≠ none ∧
      slotAt (coreStW [] (passK none)) 0 0 = some (slot0 []) ∧
      drainBlocks (coreAt (coreStW [] (passK none)) 0) (slot0 []) { cmd := ⟨passB, 0⟩ } = false) ∧
    ((coreAt (coreStW [] (passK (some 3))) 0).passes.find? (fun p => p.start ≠ none) ≠ none ∧
      slotAt (coreStW [] (passK (some 3))) 0 0 = some (slot0 [])) ∧
    ((coreAt (coreStW [] (drainK false)) 0).drains.find? (fun d => !d.started) ≠ none ∧
      drainReady (coreAt (coreStW [] (drainK false)) 0) (slot0 []) { cmd := ⟨drainB, 0⟩ } = true) ∧
    (coreAt (coreStW [] (drainK true)) 0).drains = [{ cmd := ⟨drainB, 0⟩, started := true, regs := (ctx0 []).regions }] ∧
    (coreAt (coreStW [] fun k => { k with vu := [{}] }) 0).vu = [{}] := by decide +kernel

theorem witness_AccumulatorWriteUpdatesEveryColumn :
    let s := coreStW [] (passK (some 3))
    ((coreAt s 0).passes.find? (fun p => p.start ≠ none) = some { cmd := ⟨passB, 0⟩, start := some 3, regs := (ctx0 []).regions } ∧
      slotAt s 0 0 = some (slot0 [])) ∧ ∃ t, exec (.accumulatorWrite 0) s = .next t :=
  ⟨by decide +kernel, _, rfl⟩

def moveB (n : Nat) : Bytes := cmdB 0x20 [(9, 1), (24, 1), (26, n), (28, 1), (30, 1)]
def tmX (n : Nat) (st : RunStage) : TmCmd := { cmd := ⟨moveB n, 0⟩, stage := st, regs := (ctx0 []).regions }
def tmSt (n : Nat) (st : RunStage) : State := coreStW [] fun k => { k with tm := [tmX n st], tlb := [(0, 0, .t1 0)] }
theorem witness_TileMoverEventsComplete :
    (∀ st ∈ [RunStage.translate, .ready, .applied], (coreAt (tmSt 1 st) 0).tm.find? (fun y => y.id = 0) = some (tmX 1 st) ∧
      slotAt (tmSt 1 st) 0 0 = some (slot0 []) ∧ slotResident (tmSt 1 st) (slot0 []) = true ∧
      tmRange (coreAt (tmSt 1 st) 0) (boundSlot (slot0 []) (ctx0 []).regions) (moveB 1) 0 = some ⟨0, 1, Acc.read⟩ ∧
      arriveAt (tmSt 1 st) 0 0 .read 0 = .here) ∧
    rangePages ⟨0, 1, Acc.read⟩ = [0] ∧ cmdOp (moveB 1) ≠ 0x23 ∧ tmRuns (moveB 1) = 1 ∧ tmRuns (moveB 2) = 2 := by decide +kernel

def idleX (x : Ctx) : Ctx := { x with run := none, queue := [] }
def fullX (x : Ctx) : Ctx := { x with plotq := [{ seq := 1 }, { seq := 2 }] }
def stealSt (l : List Steal) : State :=
  { coreStX id with
    cores := [(0, { slots := [(0, slotX idleX)], order := [0], steals := l }),
      (1, { slots := [(0, { slotX fullX with jcore := 1 })], order := [0] })]
    enCores := BitVec.ofNat 96 3
    jobs := { jobs := [(0, { jcores := [(0, { st := .resident }), (1, { st := .resident, core := 1 })] })] } }
theorem witness_StealsComplete :
    (maySteal (stealSt []) 0 0 = true ∧ chooseVictim (stealSt []) 0 0 = some (1, 2)) ∧
    ((coreAt (stealSt [{ victim := 1, thresh := 2 }]) 0).steals.find?
        (fun x => decide (x.jobid = 0) && decide (x.retryAt = none)) = some { victim := 1, thresh := 2 } ∧
      (let u := advanceToCyc (stealSt [{ victim := 1, thresh := 2 }]) 0 0
       slotOfJob (coreAt u 1) 0 = some (0, { slotX fullX with jcore := 1 }) ∧ slotOfJob (coreAt u 0) 0 = some (0, slotX idleX) ∧
       2 ≤ stealable u 1 0) ∧ takeYoungest (slotX fullX).ctx.plotq = some ({ seq := 2 }, [{ seq := 1 }])) ∧
    (let s := stealSt [{ victim := 1, retryAt := some 0 }]
     let u := modCore (advanceToCyc s 0 0) 0 fun k => { k with steals := k.steals.filter fun x => x.jobid ≠ 0 }
     maySteal u 0 0 = true ∧ (chooseVictim u 0 0).isSome = true) := by decide +kernel

theorem witness_AtlasMappingCommandsComplete :
    let mp := inf0 0x0401 [(2, 1), (8, 1), (12, 7)]
    let un := inf0 0x0402 [(8, 1)]
    let pr := inf0 0x0403 [(8, 1), (12, 4)]
    let pin := inf0 0x0404 [(8, 1), (12, 1)]
    let unp := inf0 0x0404 [(8, 1)]
    let hint (k : Nat) := inf0 0x0405 [(2, 1), (8, 1), (12, k)]
    let z := inf0 0x0406 [(8, 1)]
    (Takes (atSt mp) r0 0x0401 mp (chkAtlasMap r0 (atSt mp) mp.entry) ∧
      framesWith (begun (atSt mp) r0) 0 (cmdRange mp.entry) ≤ (tenAt (begun (atSt mp) r0) 0).tablim ∧
      bitOf (par mp.entry 12 1) 4 = false) ∧
    (Takes (atSt un) r0 0x0402 un (chkAtlasUnmap r0 (atSt un) un.entry) ∧
      anyMig (begun (atSt un) r0) 0 [0] = false ∧ accessPending (begun (atSt un) r0) 0 [0] = false ∧
      mappedIn (begun (atSt un) r0) 0 (cmdRange un.entry) = [0]) ∧
    (Takes (atSt pr) r0 0x0403 pr (chkAtlasProtect r0 (atSt pr) pr.entry) ∧ accessPending (begun (atSt pr) r0) 0 [0] = false) ∧
    (Takes (atSt pin) r0 0x0404 pin (pinChecks pin.entry) ∧ parFlg pin.entry 12 0 = true ∧
      (mappedIn (begun (atSt pin) r0) 0 (cmdRange pin.entry)).length = (cmdRange pin.entry).length ∧
      anyMig (begun (atSt pin) r0) 0 (cmdRange pin.entry) = false ∧
      inT1 (begun (atSt pin) r0) 0 0 = true ∧ cmdRange pin.entry = [0] ∧
      (∃ v, pinPages (begun (atSt pin) r0) 0 walkHubControl true [0] = .ok v ∧ anyMig v 0 [0] = false)) ∧
    (Takes (atSt unp) r0 0x0404 unp (pinChecks unp.entry) ∧ parFlg unp.entry 12 0 = false) ∧
    (Takes (atSt (hint 0)) r0 0x0405 (hint 0) (hintChecks (hint 0).entry) ∧
      ((cmdRange (hint 0).entry).foldl (fun v p => hintWillneed v 0 walkHubControl p) (begun (atSt (hint 0)) r0)).atlas.migs = []) ∧
    Takes (atSt (hint 1)) r0 0x0405 (hint 1) (hintChecks (hint 1).entry) ∧
    (Takes (atSt (hint 2)) r0 0x0405 (hint 2) (hintChecks (hint 2).entry) ∧
      ((cmdRange (hint 2).entry).foldl (fun v p => hintDemote v 0 walkHubControl p) (begun (atSt (hint 2)) r0)).atlas.migs = []) ∧
    (Takes (atSt z) r0 0x0406 z (chkAtlasZero r0 (atSt z) z.entry)) := by
  refine ⟨?_, ?_, ?_, ⟨?_, ?_, ?_, ?_, ?_, ?_, _, rfl, ?_⟩, ?_, ?_, ?_, ?_, ?_⟩ <;> decide +kernel

theorem witness_AtlasConfigurationCommandsComplete :
    let pc := inf0 0x0407 [(2, 1), (16, 1), (20, 1), (26, 0x17)]
    let pr := inf0 0x0407 [(2, 1), (16, 1)]
    let ln := inf0 0x0408 []
    let hr := inf0 0x0409 [(18, 0x20)]
    let hu := inf0 0x040A []
    let fr := inf0 0x040B [(16, 6)]
    let po := inf0 0x040C [(0, 10), (4, 8), (5, 4)]
    let qe := inf0 0x040D [(8, 1)]
    let qu := inf0 0x040D [(12, 1)]
    let win : State := { s0 with atlas := { ctx := [(0, { wins := [(0, { npages := 1, module := 1 })], pages := [(0, { loc := .win 0, pr := true })] })] } }
    let reg : State := { s0 with atlas := { s0.atlas with regions := [(0, { length := 2097152 })] }, enStacks := 0xFFFFF }
    (Takes (atSt pc) r0 0x0407 pc (chkAtlasPeerCreate r0 (atSt pc) pc.entry) ∧ parFlg pc.entry 26 4 = true ∧
      tabFind (ctxAt (begun (atSt pc) r0) 0).wins (parFld pc.entry 24 11 0) = none ∧
      framesWith (begun (atSt pc) r0) 0 (rangeOf (parFld pc.entry 0 56 0) (par pc.entry 16 4)) ≤ (tenAt (begun (atSt pc) r0) 0).tablim) ∧
    (Takes (offer win pr) r0 0x0407 pr (peerChecks pr.entry) ∧ parFlg pr.entry 26 4 = false ∧
      tabFind (ctxAt (begun (offer win pr) r0) 0).wins (parFld pr.entry 24 11 0) = some { npages := 1, module := 1 } ∧
      accessPending (begun (offer win pr) r0) 0 [0] = false) ∧
    (Takes (offer reg ln) r0 0x0408 ln (chkAtlasLend r0 (offer reg ln) ln.entry) ∧
      parFld ln.entry 0 22 0 + sumQt1 (begun (offer reg ln) r0) ≤ nStacks (begun (offer reg ln) r0) * 786432 - 524288) ∧
    (Takes (atSt hr) r0 0x0409 hr (chkAtlasHreg r0 (atSt hr) hr.entry) ∧
      tabHas (begun (atSt hr) r0).atlas.regions (par hr.entry 0 1) = false) ∧
    (Takes (offer reg hu) r0 0x040A hu (noChecks (offer reg hu) hu.entry) ∧
      tabFind (begun (offer reg hu) r0).atlas.regions (par hu.entry 0 1) = some { length := 2097152 } ∧
      regionTiles (begun (offer reg hu) r0) 0 = []) ∧
    (Takes (atSt fr) r0 0x040B fr (chkAtlasFring r0 (atSt fr) fr.entry) ∧ ringUnread (ctxAt (begun (atSt fr) r0) 0) = false) ∧
    Takes (atSt po) r0 0x040C po (chkAtlasPolicy r0 (atSt po) po.entry) ∧
    (Takes (atSt qe) r0 0x040D qe (queryChecks qe.entry) ∧ parFlg qe.entry 12 0 = false) ∧
    (Takes (atSt qu) r0 0x040D qu (queryChecks qu.entry) ∧ parFlg qu.entry 12 0 = true) := by dsimp only; and_intros <;> decide +kernel
theorem witness_transpose :
    let tr := inf0 0x040E [(10, 1), (16, 1), (18, 1), (24, 1), (32, 1)]
    let a : Atlas := { ctx := [(0, { pages := [(0, { loc := .t1 0, pr := true, pw := true }), (1, { loc := .t1 1, pr := true, pw := true })] })]
                       frames := [(0, .tile 0 0), (1, .tile 0 1)] }
    let s := offer { s0 with atlas := a } tr
    let u := begun s r0
    let f := transF tr.entry
    let y := { tr with started := true }
    let es := transElems f (pageOf f.dst)
    let ws := transWrites u y 0 f (pageOf f.dst) es
    let v := touchCmd (ws.foldl (fun w q => partWrite w y 0 q.1 q.2) u) r0 0 walkHubControl
        (transPages f es ++ (if es = [] then [] else [pageOf f.dst]))
    Takes s r0 0x040E tr (transChecks tr.entry) ∧ (f.dst % 65536 + f.dstSpan - 1) / 65536 = 0 ∧
      (match cmdReady u y 0 walkHubControl .read (transPages f es) with | .ready => true | _ => false) = true ∧
      (match cmdReady u y 0 walkHubControl .write (if es = [] then [] else [pageOf f.dst]) with | .ready => true | _ => false) = true ∧
      partsRoom u 0 (ws.map (·.1)) = true ∧ tr.ref = r0 ∧ ((inflAt v r0).map (·.sent)).getD [] = [] := by dsimp only; and_intros <;> decide +kernel

def migSt (l : Leaf) (m : Mig) : State :=
  { s0 with atlas := { ctx := [(0, { pages := [(0, l)] })], migs := [m], frames := [(0, .tile 0 0)], borrow := [1] }, enStacks := 1 }
theorem witness_AtlasEventsComplete :
    (let s := migSt { mig := true } { dst := some (.t1 0) }
     migOf s 0 0 = some { dst := some (.t1 0) } ∧ migReady s { dst := some (.t1 0) } = true ∧
      migServed s { dst := some (.t1 0) } = true ∧ promoFrame s { dst := some (.t1 0) } = some 0) ∧
    (let s := migSt { loc := .t1 0, mig := true } { tier := 1, dst := some (.lent 1 0) }
     migOf s 0 0 = some { tier := 1, dst := some (.lent 1 0) } ∧ migReady s { tier := 1, dst := some (.lent 1 0) } = true ∧
      migServed s { tier := 1, dst := some (.lent 1 0) } = true ∧ t4Lost s { loc := .t1 0, mig := true } = false ∧
      t4Idle s (.lent 1 0) = false) ∧
    tabFind ({ s0 with atlas := { s0.atlas with frames := [(3, .zeroing)] } } : State).atlas.frames 3 = some .zeroing ∧
    (let c : AtlasCtx := { waiting := [{ bytes := [] }], ring := some { log2n := 6 }, prod := 1 }
     ringNoRoom c = false ∧ c.stalled = false) ∧ fnPresent s0 0 = true := by dsimp only; and_intros <;> decide +kernel

def readySt : State := modFunc s0 0 fun f => { f with ready := true }
def mboxSt (b : Mbox) : State := setMbox readySt 0 0 b
def logSt : State := { s0 with log := { s0.log with ring := some (0, 6), waiting := [7], prod := 1, store := [{ ev := { src := 0x600, mer := 0, code := 0x0701, subunit := 5, arg0 := 0, last := 0 }, num := 7, module := 0, seq := 0 }] } }
theorem witness_MailboxEventsComplete :
    (fnPresent (mboxSt {}) 0 = true ∧ (funcAt (mboxSt {}) 0).ready = true) ∧
    (let b := mboxAt (mboxSt { sqLog2 := 2, cqLog2 := 16 }) 0 0
     b.st = .off ∧ 2 ≤ b.sqLog2 ∧ b.sqLog2 ≤ 16 ∧ 2 ≤ b.cqLog2 ∧ b.cqLog2 ≤ 16 ∧ b.vector < vecCount 0) ∧
    (mboxAt (mboxSt { st := .enabled }) 0 0).st = .enabled ∧
    ((cpPick (mboxSt { st := .enabled, sqLog2 := 2, cqLog2 := 2, sqTail := 1 })).map fun q => (q.1, q.2.1)) = some (0, 0) ∧
    (mctpUp ({ s0 with ctl := { s0.ctl with start := .up } } : State).ctl = true ∧ s0.inflight.any (fun x => x.mctp) = false) ∧
    (let x : Inflight := { ref := r0, entry := [], deadline := some 5 }
     inflAt (offer s0 x) r0 = some x ∧ x.status = none ∧ x.started = false) ∧
    (logFull logSt.log = false ∧ logSt.log.stalled = false ∧ logSt.log.prod ≠ logSt.log.cons ∧
      (logSt.log.store.find? fun x => x.num = 7).isSome = true) := by dsimp only; and_intros <;> decide +kernel

theorem witness_MailboxCommandsComplete :
    let id := inf0 0x0101 []
    let mc := inf0 0x0102 [(0, 1), (1, 1), (2, 2), (3, 16)]
    let mr := inf0 0x0102 [(1, 64)]
    let rs := inf0 0x0103 []
    let dc := inf0 0x0104 [(2, 2)]
    let te := inf0 0x0301 [(0, 1), (1, 1)]
    let td := inf0 0x0301 [(0, 63)]
    let tc := inf0 0x0302 [(0, 1), (1, 3), (2, 0), (3, 0x10)]
    let tq := inf0 0x0303 [(0, 63)]
    let l0 := inf0 0x1101 []
    let l6 := inf0 0x1101 [(8, 6)]
    let lf := inf0 0x1102 []
    let lr := inf0 0x1103 [(18, 1)]
    let m64 : State := offer (setMbox s0 0 64 { st := .enabled }) mr
    let two : State := { s0 with inflight := [dc, { ref := ⟨0, 0, 2⟩, entry := [] }] }
    let on63 : State := offer (modTen s0 63 fun z => { z with enabled := true }) td
    Takes (offer s0 id) r0 0x0101 id (chkDevIdentify r0 (offer s0 id) id.entry) ∧
    (Takes (offer s0 mc) r0 0x0102 mc (chkDevMboxCreate r0 (offer s0 mc) mc.entry) ∧ parFlg mc.entry 0 0 = true ∧
      (mboxAt (begun (offer s0 mc) r0) 0 1).st = .off) ∧
    (Takes m64 r0 0x0102 mr (chkDevMboxRemove r0 m64 mr.entry) ∧ parFlg mr.entry 0 0 = false ∧
      (mboxAt (begun m64 r0) 0 64).st = .enabled ∧ inflOf (begun m64 r0) 0 64 = 0) ∧
    Takes (offer s0 rs) r0 0x0103 rs (chkDevReset r0 (offer s0 rs) rs.entry) ∧
    (Takes two r0 0x0104 dc (chkDevCancel r0 two dc.entry) ∧
      cancelTarget (begun two r0) r0 (parFld dc.entry 0 6 0) (par dc.entry 2 2) = some { ref := ⟨0, 0, 2⟩, entry := [] }) ∧
    (Takes (offer s0 te) r0 0x0301 te (tenEnChecks te.entry) ∧ tenWaits (begun (offer s0 te) r0) 1 = false ∧
      parFlg te.entry 1 0 = true ∧ (tenAt (begun (offer s0 te) r0) 1).enabled = false) ∧
    (Takes on63 r0 0x0301 td (tenEnChecks td.entry) ∧ tenWaits (begun on63 r0) 63 = false ∧
      parFlg td.entry 1 0 = false ∧ (tenAt (begun on63 r0) 63).enabled = true) ∧
    (Takes (offer s0 tc) r0 0x0302 tc (chkTenConfig r0 (offer s0 tc) tc.entry) ∧ tenWaits (begun (offer s0 tc) r0) 1 = false ∧
      tenNoFit (begun (offer s0 tc) r0) 1 (tenSet tc.entry (tenAt (begun (offer s0 tc) r0) 1)) = false) ∧
    (Takes (offer s0 tq) r0 0x0303 tq (chkTenQuery r0 (offer s0 tq) tq.entry) ∧ tenWaits (begun (offer s0 tq) r0) 63 = false) ∧
    (Takes (offer s0 l0) r0 0x1101 l0 (chkLogRing r0 (offer s0 l0) l0.entry) ∧ parFld l0.entry 8 4 0 = 0) ∧
    (Takes (offer s0 l6) r0 0x1101 l6 (chkLogRing r0 (offer s0 l6) l6.entry) ∧ parFld l6.entry 8 4 0 = 6 ∧
      parFlg l6.entry 9 0 = false) ∧
    Takes (offer s0 lf) r0 0x1102 lf (noChecks (offer s0 lf) lf.entry) ∧
    Takes (offer s0 lr) r0 0x1103 lr (chkLogRead r0 (offer s0 lr) lr.entry) := by dsimp only; and_intros <;> decide +kernel

theorem witness_TransferCommandsComplete :
    let dc := inf0 0x1201 [(0, 2), (24, 1)]
    let run : Inflight := { dc with started := true }
    let ps := inf0 0x1001 []
    let pr := inf0 0x1002 [(10, 0x40), (11, 0x08)]
    let pv := inf0 0x1003 [(16, 20), (20, 10)]
    (Takes (atSt dc) r0 0x1201 dc (dcChecks dc.entry) ∧ dcNs dc.entry = false ∧ dcNlist dc.entry = 0) ∧
    (Running (atSt run) r0 0x1201 run ∧ (serveFunnel (atSt run)).host.funnel.held.contains r0 = true ∧
      dcSkind run.entry = 2 ∧ dcDkind run.entry = 0 ∧ pieceLen run = 1 ∧
      (match cmdRead (serveFunnel (atSt run)) run 0 walkHubControl 0 1 with
       | .ok v bs => bs == [0] && decide ((inflAt (dcPieceDone (hostPutP v (ownCmd r0) 0 (mboxPasid v 0 0) 0 7 0 [0]) run 1) r0).map
          (·.done) ≠ some 0)
       | _ => false) = true) ∧
    Takes (atSt ps) r0 0x1001 ps (selectChecks ps.entry) ∧
    Takes (atSt pr) r0 0x1002 pr (noChecks (atSt pr) pr.entry) ∧
    Takes (atSt pv) r0 0x1003 pv (chkPerfSurvey r0 (atSt pv) pv.entry) := by dsimp only; and_intros <;> decide +kernel

def descB : Bytes := (List.range 64).map fun i => BitVec.ofNat 8 (tabGet [(2, 1), (3, 1), (4, 1)] i 0)
def plotB : Bytes := (List.range 32).map fun i => BitVec.ofNat 8 (if i = 8 then 1 else 0)
theorem witness_jobCreate :
    let x := inf0 0x0601 []
    let u := begun (pageSt descB x) r0
    let y := { x with started := true }
    Takes (pageSt descB x) r0 0x0601 x (chkJobCreate r0 (pageSt descB x) x.entry) ∧
    (match cmdRead u y 0 walkHubControl 0 64 with
      | .ok s2 d => firstBad (descChecks s2 0 d) == none &&
        (match cmdRead s2 y 0 walkHubControl (fld d 16 56 0) (16 * fld d 8 5 0) with
          | .ok s3 rt => rtabOk rt (fld d 8 5 0) (fld d 4 4 0) &&
            (match makeJob s3 (descJob 0 d rt) with
              | some (s4, id) => (match cmdWrite s4 y 0 walkHubControl 48 (leBytes 4 id) with | .ok _ _ => true | _ => false)
              | none => false)
          | _ => false)
      | _ => false) = true := by dsimp only; and_intros <;> decide +kernel
theorem witness_jobPlots :
    let x := inf0 0x0602 [(4, 1), (6, 0xFF)]
    let u := begun (pageSt plotB x) r0
    let y := { x with started := true }
    Takes (pageSt plotB x) r0 0x0602 x (chkJobPlots r0 (pageSt plotB x) x.entry) ∧
    (match namedJob u y 0 with
      | .ok j => j.ending == none && !earlierPlots u y && (match cmdReady u y j.tenant walkHubControl .fetch (bytePages 0 32) with | .ready => true | _ => false)
        && !(((List.range 1).map fun k => plotEntry ((pageParts 0 32).flatMap (partBytes u y j.tenant)) k).any plotBad)
      | _ => false) = true ∧ inflAt u r0 = some y := by dsimp only; and_intros <;> decide +kernel
/-- Job 0, whose one job-core is halted on core 0. -/
def haltSt (x : Inflight) : State :=
  { coreStX (fun k => { k with halt := some .fetch }) with
    inflight := [x]
    jobs := { jobs0 with sems := [(5, { owner := 0, lock := true, count := 1 })] } }
theorem witness_JobCommandsComplete :
    let named (x : Inflight) : Bool := match namedJob (begun (haltSt x) r0) x 0 with
      | .ok j => j.ending == none && (match tabFind j.jcores 0 with | some jc => jcHalted (begun (haltSt x) r0) jc | none => false)
      | _ => false
    let re := inf0 0x0603 []
    let sk := inf0 0x0603 [(5, 1)]
    let ab (m : Nat) := inf0 0x0604 [(4, m)]
    let sc := inf0 0x0605 [(0, 1), (1, 1), (8, 1)]
    let sd := inf0 0x0605 [(2, 5)]
    let pr := inf0 0x0606 [(4, 7)]
    let st := inf0 0x0607 []
    let po := inf0 0x0608 [(0, 10)]
    (Takes (haltSt re) r0 0x0603 re (noChecks (haltSt re) re.entry) ∧ named re = true ∧ parFlg re.entry 5 0 = false) ∧
    (Takes (haltSt sk) r0 0x0603 sk (noChecks (haltSt sk) sk.entry) ∧ named sk = true ∧ parFlg sk.entry 5 0 = true) ∧
    (∀ m < 3, Takes (haltSt (ab m)) r0 0x0604 (ab m) (abortChecks (ab m).entry) ∧ named (ab m) = true ∧ parFld (ab m).entry 4 1 0 = m) ∧
    (Takes (haltSt sc) r0 0x0605 sc (chkJobSemCreate r0 (haltSt sc) sc.entry) ∧ parFlg sc.entry 0 0 = true ∧
      named sc = true ∧ tabGap (begun (haltSt sc) r0).jobs.sems 0 8192 = some 0) ∧
    (Takes (haltSt sd) r0 0x0605 sd (chkJobSemDestroy r0 (haltSt sd) sd.entry) ∧ parFlg sd.entry 0 0 = false ∧
      (tabFind (begun (haltSt sd) r0).jobs.sems 5).isSome = true) ∧
    (Takes (haltSt pr) r0 0x0606 pr (noChecks (haltSt pr) pr.entry) ∧ named pr = true) ∧
    (Takes (haltSt st) r0 0x0607 st (noChecks (haltSt st) st.entry) ∧ named st = true) ∧
    Takes (haltSt po) r0 0x0608 po (chkJobPolicy r0 (haltSt po) po.entry) := by dsimp only; and_intros <;> decide +kernel

/-- Core 0 with job 0's one job-core there, changed. -/
def jcSt (f : JobCore → JobCore) : State := { coreSt .on [] with jobs := { jobs := [(0, { jcores := [(0, f {})] })] } }
theorem witness_JobEventsComplete :
    let qu := jcSt fun c => { c with st := .saving }
    let sv := jcSt fun c => { c with st := .saving, phase := .save, drained := true }
    let re := jcSt fun c => { c with st := .restoring }
    let rr := jcSt fun c => { c with st := .restoring, area := some {} }
    let ih : State := { coreSt .on [] with jobs := { jobs := [(0, { jcores := [(0, { st := .resident })] }), (1, { jcores := [(0, { st := .saved })] })], inherit := [(1, 0, false)], sems := [(0, { owner := 1, lock := true, holder := some 1, waiters := [{ jobid := 0, jcore := 0, amount := 1 }] })] } }
    ((jcIn qu 0 0 .saving).isSome = true ∧ quiesced (coreAt qu 0) 0 (slot0 []) = true ∧ qu.fab.rem = []) ∧
    ((jcIn sv 0 0 .saving).map fun q => (q.2.phase, q.2.drained)) = some (.save, true) ∧
    (slotAt (modSlot qu 0 0 fun y => { y with release := some 5 }) 0 0).map (·.release) = some (some 5) ∧
    (jcIn re 0 0 .restoring).isSome = true ∧
    ((jcIn rr 0 0 .restoring).map fun q => q.2.area) = some (some {}) ∧
    (((jobAt ih 1).map fun j => jobHas j (fun z => z.st = .resident)) = some false ∧
      bestWaiter ih (lockWaiters ih 1) = some { jobid := 0, jcore := 0, amount := 1 }) := by dsimp only; and_intros <;> decide +kernel

/-- Is a page access, a read or a write ready? -/
def isReady : PageAcc → Bool | .ready => true | _ => false
/-- A block at page 0, with index 1 open (changed by `f`) and a command offered. -/
def ixSt (f : Index → Index) (op : Nat) (l : List (Nat × Nat)) : State :=
  let s := pageSt (bytesAt 64 l) (inf0 op [])
  { s with
    search := { ixs := [(1, f { vers := [(1, { image := true })] })] }
    tens := [(0, { tenAt s 0 with qt1 := 100 + Config.versionTiles 0 1 32 + Config.deltaTiles 1 256 32 })]
    time := { s.time with st := .locked } }
def blockRoom (v : State) (y : Inflight) : Bool := isReady (cmdReady v y 0 walkHubControl .write (bytePages (blockVa y + 48) 16))
/-- A block at page 0, an index section at page 1 and a directory at page 4. -/
def openSt (x : Inflight) : State :=
  { mapSt [(0, bytesAt 64 [(2, 1), (9, 1)]),
           (1, bytesAt 512 [(0, 0x49), (1, 0x4E), (2, 0x44), (3, 0x58), (4, 1), (8, 32), (12, 1), (26, 1), (34, 2), (42, 3), (50, 4)]), (4, [])] with
    inflight := [x], tens := [(0, { tenAt s0 0 with qt1 := 100 + Config.deltaTiles 1 256 32 })] }
theorem witness_searchOpen :
    let x := inf0 0x0901 []
    tookBlock (openSt x) 0x0901 x (fun _ b => openChecks b) (fun v y b =>
      match cmdRead v y 0 walkHubControl (fld b 0 56 0) 512 with
      | .ok s2 sec =>
        let ix := indexOf 0 b sec
        sectionOk ix sec && decide (ix.nquad = 1 ∧ ix.deltacap = 256 ∧ itemLen ix = 32) &&
          (match cmdRead s2 y 0 walkHubControl (ix.imgva + ix.diroff) (16 * ix.nquad) with
            | .ok s3 dir => directoryOk ix (fieldAt sec 48 8) dir && decide (tierCount s3 0 0 = 3 ∧ tabGap s3.search.ixs 1 (2 ^ 32) = some 1)
              && decide (allItems s3 + ix.nitems ≤ itemLimit) && blockRoom s3 y
            | _ => false)
      | _ => false) = true ∧ quota (openSt x) 0 0 = 100 + Config.deltaTiles 1 256 32 := ⟨by decide +kernel, rfl⟩
theorem witness_SearchCommandsComplete :
    let ready (f : Index → Bool) (v : State) (b : Bytes) : Bool := match openIx v 0 (fieldAt b 0 4) with | some ix => f ix | none => false
    tookBlock (ixSt id 0x0902 [(0, 1)]) 0x0902 (inf0 0x0902 []) (fun _ b => [(4, !zeroBytes b 4 63)])
      (fun v y b => ready (fun _ => true) v b && !armedKind v (isSwapOf 1) && blockRoom v y) = true ∧
    tookBlock (ixSt id 0x0903 [(0, 1), (8, 1), (16, 64)]) 0x0903 (inf0 0x0903 []) (fun _ b => searchChecks b)
      (fun v _ b => sqAt v r0 == none && ready (fun ix => pinRefuse ix (fieldAt b 4 4) == none) v b) = true ∧
    tookBlock (ixSt id 0x0904 [(0, 1), (4, 1), (8, 64)]) 0x0904 (inf0 0x0904 []) (fun _ b => updateChecks b)
      (fun v y b => !updateWaits v y 1 && ready (fun ix => (tabFind ix.vers ix.cur).isSome) v b) = true ∧
    tookBlock (ixSt id 0x0905 [(0, 1), (6, 1)]) 0x0905 (inf0 0x0905 []) (fun _ b => resurveyChecks b)
      (fun v _ b => !flg b 4 0 && !resurveyWaits v r0 && ready (fun ix => ix.resurvey.isNone && ix.built.isNone) v b && decide (fieldAt b 8 8 = 0)) = true ∧
    tookBlock (ixSt (fun ix => { ix with resurvey := some {} }) 0x0905 [(0, 1), (4, 1)]) 0x0905 (inf0 0x0905 []) (fun _ b => resurveyChecks b)
      (fun v y b => flg b 4 0 && ready (fun ix => ix.resurvey.isSome) v b && blockRoom v y) = true ∧
    tookBlock (ixSt (fun ix => { ix with built := some 2 }) 0x0906 [(0, 1), (11, 1)]) 0x0906 (inf0 0x0906 []) (fun _ b => swapChecks b)
      (fun v _ b => !schedWaits v r0 && ready (fun ix => ix.resurvey.isNone && !ix.swapping && ix.built == some 2) v b
        && schedRefuse v (fieldAt b 8 8) == none) = true := by dsimp only; and_intros <;> decide +kernel
theorem witness_searchQuery : let e := bytesAt 64 [(0, 64), (8, 64), (16, 1), (18, 1), (20, 1)]
    queryEntryOk { nquad := 1 } e = true ∧
    (match readTable (inf0 0x0903 []) 0 [0] (pageSt e (inf0 0x0903 [])) with
      | .ok (_, es, []) => decide (es.filterMap id = [e])
      | _ => false) = true := by dsimp only; and_intros <;> decide +kernel
theorem witness_searchUpdate : let e := bytesAt 32 [(0, 2), (4, 1)]
    updateEntryOk e = true ∧
    (match readItems (inf0 0x0904 []) 0 32 [e] s0 with | .ok (_, is, none) => decide (is = [(true, { id := 1 })]) | _ => false) = true := by
  dsimp only; and_intros <;> decide +kernel
theorem witness_resurvey :
    let v := blockHeld (ixSt id 0x0905 [(0, 1), (6, 1)]) r0 []
    tierCount v 0 0 = 1 ∧ quota v 0 0 = 100 + Config.versionTiles 0 1 32 + Config.deltaTiles 1 256 32 ∧
      (openIx v 0 1).map (fun ix => (ix.nitems, ix.nquad, itemLen ix, ix.deltacap)) = some (0, 1, 32, 256) ∧
      (makeJob v { tenant := 0, prio := 7, mincores := 1, maxcores := min 1 (maskSize v 0), nseg := 2, nacc := 0 }).isSome = true := by
  refine ⟨by decide +kernel, rfl, by decide +kernel, by decide +kernel⟩

theorem witness_SearchEventsComplete :
    let a : State := { s0 with search := { ixs := [(1, { vers := [(1, {})], waiting := [{ owner := .cmd r0 }], batches := [(0, {})]
                                                         resurvey := some { num := 2 } })] } }
    let b : State := { coreSt .on [] with search := { ixs := [(1, { vers := [(1, {})], nquad := 0, skbits := 0, resurvey := some { num := 2, job := 0 } })] } }
    ((ixAt a 1).map fun ix => (ix.waiting.filter fun z => !queryHeld a z).length) = some 1 ∧ (ixAt b 1).isSome = true ∧
      (jobAt b 0).map (·.ending) = some none ∧ jobRuns b 0 = true ∧
      ((ixAt b 1).bind fun ix => (tabFind ix.vers ix.cur).map fun n => corePages ix n ++ (List.range ix.nquad).flatMap (quadPages b ix n)) = some [] ∧
      (match imgReady b 7 0 [] with | .ready => true | _ => false) = true := by
  dsimp only; and_intros <;> decide +kernel

/-- An image of one code section, one job descriptor, at page 1; page 2 is its section. -/
def imgCells : List (Nat × Nat) := [(0, 0x4D), (1, 0x4F), (2, 0x44), (3, 0x4C), (4, 1), (6, 1), (18, 1), (26, 2), (512, 1), (518, 0xFF), (519, 0xFF), (546, 3),
  (1026, 1), (1027, 1), (1028, 1), (8192, 1), (8194, 0xFF), (8195, 0xFF), (8202, 1), (8210, 1)]
def ldX : Inflight := inf0 0x501 [(2, 1)]
def ldLeaf (p : Nat) : Nat × Leaf := (p, { loc := .t1 p, pr := true, pw := true, px := true })
def ldSt : State :=
  { s0 with
    inflight := [ldX], enCores := BitVec.ofNat 96 1, tens := [(0, { tenAt s0 0 with joblim := 8, qt1 := 8, tablim := 8 })]
    atlas := { ctx := [(0, { pages := [ldLeaf 1, ldLeaf 2] })], frames := [(1, .tile 0 1), (2, .tile 0 2)]
               mem := imgCells.map fun q => (65536 + q.1, BitVec.ofNat 8 q.2) } }
/-- The image's first page. -/
def legend : Bytes := cellReads ldSt.atlas.mem 65536 8212 ++ List.replicate 57324 0
def ldS1 : State := touchCmd (hubRead (begun ldSt r0) 0 65536 65536) r0 0 walkHubControl (bytePages 65536 65536)
set_option maxRecDepth 100000 in
theorem ld_rd : rdCmd (begun ldSt r0) { ldX with started := true } 65536 65536 = .ok (ldS1, legend) := by
  have h1 : cmdReady (begun ldSt r0) { ldX with started := true } 0 walkHubControl .read (bytePages 65536 65536) = .ready := rfl
  have h2 : (pageParts 65536 65536).flatMap (partBytes (begun ldSt r0) { ldX with started := true } 0) = legend := by
    show cellReads ldSt.atlas.mem 65536 (8212 + 57324) ++ [] = _
    rw [cellReads_tail _ _ _ (by decide +kernel), List.append_nil]; rfl
  simp only [rdCmd, cmdRead]
  rw [show cmdTenant { ldX with started := true } = 0 from rfl, h1]
  simp only [h2]
  rfl
set_option maxRecDepth 100000 in
theorem zeroBytes_tail (A : Bytes) (k lo hi : Nat) (h : A.length ≤ lo) : zeroBytes (A ++ List.replicate k 0) lo hi = true := by
  unfold zeroBytes
  rw [List.drop_append, List.drop_eq_nil_of_le h, List.nil_append, List.drop_replicate, List.take_replicate]
  simp
set_option maxRecDepth 100000 in
theorem reads_len : ∀ (m : List Host.Cell) (n a : Nat), (cellReads m a n).length = n
  | _, 0, _ => rfl
  | m, n + 1, a => by simp [cellReads, reads_len m n (a + 1)]
set_option maxRecDepth 100000 in
theorem head_ok : headOk legend 65536 = true := by
  have h : zeroBytes legend 40960 65535 = true := zeroBytes_tail _ _ _ _ (by rw [reads_len]; decide)
  unfold headOk
  rw [h]
  decide +kernel
set_option maxRecDepth 100000 in
theorem legend_facts : lgNsec legend = 1 ∧ lgNtab legend = 0 ∧ lgNjobs legend = 1 ∧ lgN legend 8 4 = 0 ∧ lgWspages legend = 0 ∧ lgServsec legend = 0xFFFF ∧
    lgN legend 2 1 = 0 ∧ lgWsva legend = 196608 ∧ lgLength legend = 131072 ∧ lgN legend 4 2 = 0 ∧ lgN legend 12 4 = 0 ∧ lgN legend 16 4 = 0 ∧ lgN legend 20 4 = 0 ∧ lgN legend 24 4 = 0 := by and_intros <;> decide +kernel
set_option maxRecDepth 100000 in
theorem legend_sec : secOk legend 0 = true ∧ secOf legend 0 = (1, 0, 2, 1) ∧ lgDesc legend 0 = bytesAt 64 [(2, 1), (3, 1), (4, 1)] := by and_intros <;> decide +kernel
set_option maxRecDepth 100000 in
theorem plan_of {S0 S T : State} {X : Inflight} {E lt : Bytes} {j : Job} {q : Nat × Nat × Nat × Nat} {d : Bytes} {img : Nat}
    (e0 : parFld E 0 56 0 = img) (e1 : rdCmd S0 X img 65536 = .ok (S, lt)) (e2 : headOk lt img = true)
    (h1 : lgNsec lt = 1) (h2 : lgNtab lt = 0) (h3 : lgNjobs lt = 1) (h4 : lgN lt 8 4 = 0) (h5 : lgWspages lt = 0) (h6 : lgServsec lt = 0xFFFF)
    (h7 : lgN lt 2 1 = 0) (g1 : secOk lt 0 = true) (g2 : secOf lt 0 = q) (g3 : lgDesc lt 0 = d) (k1 : q.1 = 1) (k2 : q.2.1 = 0)
    (m1 : allMapped S (cmdTenant X) (secPages q) = true) (m2 : pagesMeet (lgWsva lt / 65536) 0 (img / 65536) (lgLength lt / 65536) = false)
    (j1 : loadJobs X lt [0] S = .ok (T, [j])) (f1 : parFlg E 12 0 = false) :
    loadPlan S0 X E = .ok (T, { ver := { imgva := img, pages := lgLength lt / 65536, modelid := fieldAt lt 8 4, build := fieldAt lt 12 4, svcmask := 0
                                         retain := parFlg E 12 1, descs := [d], nsem := lgN lt 4 2, pins := []
                                         wspage := lgWsva lt / 65536, wspages := 0, tables := [], secs := [q], serv := none, text := none, plots := [] }
                                shards := [], jobs := [j], legend := lt, pinned := [] }) := by
  have r1 : List.range 1 = [0] := rfl
  have r2 : rangeOf (lgWsva lt) 0 = [] := by simp [rangeOf]
  have s1 : ∀ S, loadMaps X [] S = .ok (S, []) := fun _ => rfl
  have s2 : ∀ S, loadServ X lt [q] S = .ok (S, none, []) := fun _ => by simp [loadServ, h6]; rfl
  have s3 : ∀ S, loadText X [q] none S = .ok (S, none) := fun _ => by simp [loadText, k1]; rfl
  have s4 : secsApart [q] = true := by simp [secsApart]
  simp only [loadPlan, e0, e1, bind, Except.bind, e2, h1, h2, h3, h4, h5, r1, List.range_zero, List.all_cons, List.all_nil, r2, s1, s2, s4, j1, f1,
    List.map_cons, List.map_nil, g1, g2, g3, k1, k2, m2, Bool.not_true, Bool.and_true, Bool.false_eq_true, if_false, List.flatMap_nil,
    List.filter_cons, List.filter_nil, List.any_nil, Bool.false_and, h7]
  simp [m1, s3, pure, Except.pure, mappedIn, bitOf, distinctN]
def ldU : State := begun ldSt r0
def ldY : Inflight := { ldX with started := true }
def ldS : State := ldS1
def ldD : Bytes := bytesAt 64 [(2, 1), (3, 1), (4, 1)]
def ldT : State := touchCmd (hubRead ldS 0 0 0) r0 0 walkHubControl (bytePages 0 0)
def ldJ : Job := descJob 0 ldD []
set_option maxRecDepth 100000 in
theorem ldJobs : loadJobs ldY legend [0] ldS = .ok (ldT, [ldJ]) := by
  have hd : firstBad (descChecks ldS 0 ldD) = none := by decide +kernel
  have hr : rdCmd ldS ldY (fld ldD 16 56 0) (16 * fld ldD 8 5 0) = .ok (ldT, []) := rfl
  have ho : rtabOk [] (fld ldD 8 5 0) (fld ldD 4 4 0) = true := by decide +kernel
  have hl : lgDesc legend 0 = ldD := legend_sec.2.2
  have hc : cmdTenant ldY = 0 := rfl
  simp only [loadJobs, hl, hc, hd, hr, bind, Except.bind, ho, Option.isSome_none, Bool.not_true, Bool.false_eq_true, if_false, pure, Except.pure, ldJ]
def ldV : ModelVer :=
  { imgva := 65536, pages := 2, modelid := fieldAt legend 8 4, build := fieldAt legend 12 4, descs := [ldD], pins := [], wspage := 3, wspages := 0, tables := [], secs := [(1, 0, 2, 1)] }
def ldP : LoadPlan := { ver := ldV, shards := [], jobs := [ldJ], legend := legend, pinned := [] }
set_option maxRecDepth 100000 in
theorem planned : loadPlan ldU ldY ldX.entry = .ok (ldT, ldP) := by
  obtain ⟨h1, h2, h3, h4, h5, h6, h7, h8, h9, h10, h11, h12, h13, h14⟩ := legend_facts
  obtain ⟨g1, g2, g3⟩ := legend_sec
  rw [plan_of (S0 := ldU) (X := ldY) (S := ldS) (E := ldX.entry) (by decide +kernel) ld_rd head_ok h1 h2 h3 h4 h5 h6 h7 g1 g2 g3 rfl rfl (by decide +kernel) (by rw [h8, h9]; decide) ldJobs (by decide +kernel)]
  rw [h8, h9, h10, show parFlg ldX.entry 12 1 = false by decide +kernel]
  rfl
set_option maxRecDepth 100000 in
theorem fits : notFitted ldT 0 0 ldP = 0 := by
  obtain ⟨h1, h2, h3, h4, h5, h6, h7, h8, h9, h10, h11, h12, h13, h14⟩ := legend_facts
  have hl : ldP.legend = legend := rfl
  simp only [notFitted, hl, h7, h10, h11, h12, h13, h14]
  decide +kernel

set_option maxRecDepth 100000 in
theorem witness_ModelLoadCompletes :
    (Takes ldSt r0 0x0501 ldX (loadChecks ldX.entry) ∧ schedWaits ldU r0 = false ∧ loadOf ldU r0 = none ∧ earlierLoads ldU ldY = [] ∧ par ldX.entry 8 4 = 0 ∧
      accessPending ldT 0 (lossPages ldT 0 ldV) = false ∧ anyMig ldT 0 [] = false ∧ cmdBg ldY = false) ∧
    (match pinPages (loadPerms ldT ldY 0 ldP) 0 walkHubControl true [] with
      | .ok s3 => !anyMig s3 0 [] && !poisonedIn s3 0 [] && decide (mappedIn s3 0 (rangeOf (3 * 65536) 0) = [])
          && decide (framesWith s3 0 (rangeOf (3 * 65536) 0) ≤ (tenAt s3 0).tablim)
          && decide (modelAt s3 0 = none) && (match cmdReady s3 ldY 0 walkHubControl .write [pageOf 65536] with | .ready => true | _ => false)
          && !(ldP.jobs.any fun j => decide (maskCores s3 j < j.mincores))
          && (match makeJobs s3 ldP.jobs with
            | some (s1, ids) =>
              let s3 := (enumFrom 0 ids).foldl (fun st q => hubWrite st 0 (65536 + 1024 + 64 * q.1 + 48) (leBytes 4 q.2)) s1
              let s4 := placement (ldV.secs.foldl (hintSec 0) (dropLoad s3 r0))
              decide (modelAt s3 0 = none) && decide (modelAt s4 0 = none) && decide (tabGap s4.models.models 1 (2 ^ 32) = some 1)
            | none => false)
      | _ => false) = true := by dsimp only; and_intros <;> decide +kernel

/-- A model of two versions, the first current; the meridian LOCKED. -/
def modSt (x : Inflight) : State :=
  { offer s0 x with models := { models := [(1, { vers := [(1, {}), (2, {})], lastVer := 2 })] }, time := { s0.time with st := .locked } }
theorem witness_ModelCommandsComplete :
    let un := inf0 0x0502 [(0, 1)]
    let uv := inf0 0x0502 [(0, 1), (4, 2)]
    let sw := inf0 0x0503 [(0, 1), (4, 2), (13, 1)]
    let is (x : Inflight) : Bool := (liveModel (begun (modSt x) r0) (cmdTenant x) 1).isSome && !armedKind (begun (modSt x) r0) (namesModel 1)
    (Takes (modSt un) r0 0x0502 un (noChecks (modSt un) un.entry) ∧ is un = true ∧ par un.entry 4 4 = 0) ∧
    (Takes (modSt uv) r0 0x0502 uv (noChecks (modSt uv) uv.entry) ∧ is uv = true ∧
      (modelAt (begun (modSt uv) r0) 1).map (fun m => (m.cur, verRefuse m 2)) = some (1, none) ∧ par uv.entry 4 4 = 2) ∧
    (Takes (modSt sw) r0 0x0503 sw (noChecks (modSt sw) sw.entry) ∧ is sw = true ∧ schedWaits (begun (modSt sw) r0) r0 = false ∧
      (modelAt (begun (modSt sw) r0) 1).map (fun m => verRefuse m (par sw.entry 4 4)) = some none ∧
      schedRefuse (begun (modSt sw) r0) (par sw.entry 8 8) = none) := by dsimp only; and_intros <;> decide +kernel

/-- A version with one table of 4 rows of 4 FP32 elements at page 1, writable; the block at page 0, indices at page 2, rows at page 3. -/
def tabD : Bytes := bytesAt 64 [(3, 2), (4, 4), (8, 4), (12, 16)]
def tabSt (x : Inflight) (f : Models → Models) : State :=
  { mapSt [(0, bytesAt 64 [(0, 1), (12, 1), (18, 2), (26, 3), (44, 16)]), (1, bytesAt 64 [(0, 7)]), (2, bytesAt 4 []), (3, [])] with
    inflight := [x], enCores := BitVec.ofNat 96 1, jobs := jobs0
    models := f { models := [(1, { vers := [(1, { tables := [{ d := tabD, rows := 65536 }] })], lastVer := 1 })] } }
theorem witness_TableCommandsComplete :
    let starts (gather : Bool) (v : State) (b : Bytes) : Bool := match bindVer v 0 (fieldAt b 0 4) (fieldAt b 8 4) with
      | .ok q => (tabVer v r0).isNone && (match ((verAt v q).map (·.tables)).bind fun l => l.find? fun z => decide (fieldAt z.d 0 2 = fieldAt b 4 2) with
          | some tb => decide ((if tcFp32 b then 4 * tabDim tb.d else tabRowBytes tb.d) ≤ tcDstride b) && (gather || tabWritable tb.d && decide (tcMode b ≠ 1))
          | none => false)
        && (makeJob v { tenant := 0, prio := fld b 7 2 0, mincores := 1, maxcores := 8, nseg := 2, nacc := 0 }).isSome
      | _ => false
    tookBlock (tabSt (inf0 0x0A01 []) id) 0x0A01 (inf0 0x0A01 []) (fun _ b => tableChecks true b) (fun v _ b => starts true v b) = true ∧
    tookBlock (tabSt (inf0 0x0A02 []) id) 0x0A02 (inf0 0x0A02 []) (fun _ b => tableChecks false b) (fun v y b => starts false v b && decide (y.done = 0)) = true := by
  dsimp only; and_intros <;> decide +kernel
theorem witness_tableRuns :
    let b := bytesAt 64 [(0, 1), (12, 1), (18, 2), (26, 3), (44, 16)]
    let on (op : Nat) : Inflight := { inf0 op [] with started := true, block := some b }
    let st (op : Nat) : State := tabSt (on op) fun m => { m with binds := [(r0, (1, 1))], tjobs := [(r0, 0)], starts := [(r0, 5)] }
    let tb : Table := { d := tabD, rows := 65536 }
    let ends (o : Except State State) : Bool := match o with
      | .ok w => (inflAt w r0).any fun z => decide (z.done = 1) && decide (z.sent = []) && z.lost.isNone
      | _ => false
    (∀ op ∈ [0x0A01, 0x0A02], Running (st op) r0 op (on op) ∧ (tabVer (st op) r0).bind (verAt (st op)) ≠ none ∧ tabJob (st op) r0 = some 0 ∧
      ((jobAt (st op) 0).map (·.ending)) = some none ∧ jobRuns (st op) 0 = true ∧ tb.d = tabD) ∧
    ends (gatherGo (st 0x0A01) (on 0x0A01) b tb) = true ∧ ends (scatterGo (st 0x0A02) (on 0x0A02) b tb) = true := by dsimp only; and_intros <;> decide +kernel

/-- A serving descriptor of a generator: MAXCTX 64, SEQMAX 4, one KV tile a block. -/
def servD : Bytes := bytesAt 256 [(4, 1), (10, 1), (12, 64), (36, 4), (38, 4)]
/-- Generator 1, version 1, whose steps are given; a sequence in slot 0, changed; the block `b` at page 0, two pages more; a command. -/
def seqSt (f : Machine.Seq → Machine.Seq) (rs : List StepRun) (b : Bytes) (x : Inflight) : State :=
  { mapSt [(0, b), (1, []), (2, []), (3, [])] with
    inflight := [x], time := { s0.time with st := .locked }
    models := { models := [(1, { vers := [(1, { serv := some servD, sv := { steps := rs } })], lastVer := 1 })] }
    serving := { s0.serving with seqs := [(0, f { gen := 1, st := .decode, stage := .run, gen0 := (1, 1), toks := [7], blk := List.replicate 64 0 })] } }
/-- The block of a GENERATE submission of one token; of a SERVE. -/
def subB (k : Nat) : Bytes := bytesAt 64 [(0, 1), (8, k), (12, 1), (32, 12), (34, 0xFF), (35, 7), (36, 1)]
theorem witness_SeqCommandsComplete :
    let named (f : Machine.Seq → Machine.Seq) (rs : List StepRun) (x : Inflight) : Bool :=
      match namedSeq (begun (seqSt f rs [] x) r0) 0 (par x.entry 0 4) with | .ok (i, q) => decide (i = 0 ∧ q.st ≠ .moved ∧ q.ending = none) | _ => false
    let cn := inf0 0x0702 [(1, 0x40)]
    let ci := inf0 0x0702 [(1, 0x40), (4, 1)]
    let st := inf0 0x0703 [(1, 0x40)]
    let po := inf0 0x0708 [(4, 1), (8, 1)]
    let inA : List StepRun := [{ ents := [{ seq := 0x4000 }] }]
    tookBlock (seqSt id [] (subB 1) (inf0 0x0701 [])) 0x0701 (inf0 0x0701 []) (fun _ b => submitChecks 0 b)
      (fun v y b => decide (fieldAt b 8 1 ≠ 3) && decide (hostBuf y = none) && !v.host.reads.contains (.cmd r0) &&
        (match bindSeq v 0 b [] with | .ok k => decide (fieldAt b 12 4 < ((verAt v k.gen0).map svMaxctx).getD 0) | _ => false)) = true ∧
    tookBlock (seqSt id [] (subB 2) { inf0 0x0701 [] with hdata := some [1] }) 0x0701 { inf0 0x0701 [] with hdata := some [1] } (fun _ b => submitChecks 0 b)
      (fun v y b => decide (fieldAt b 8 1 ≠ 3) && (hostBuf y).isSome && (match bindSeq v 0 b [] with | .ok k => seqRoom v 0 k | _ => false)
        && (tabGap v.serving.seqs 0 16384).isSome) = true ∧
    (Takes (seqSt id inA [] cn) r0 0x0702 cn (noChecks (seqSt id inA [] cn) cn.entry) ∧ named id inA cn = true ∧ parFlg cn.entry 4 0 = false ∧
      (seqAt (begun (seqSt id inA [] cn) r0) 0).any (fun q => inAnyStep (begun (seqSt id inA [] cn) r0) 0 q && !seqHeld (begun (seqSt id inA [] cn) r0) 0 q) = true) ∧
    (Takes (seqSt id [] [] cn) r0 0x0702 cn (noChecks (seqSt id [] [] cn) cn.entry) ∧ named id [] cn = true ∧
      (seqAt (begun (seqSt id [] [] cn) r0) 0).any (fun q => !inAnyStep (begun (seqSt id [] [] cn) r0) 0 q) = true ∧ inBatch (begun (seqSt id [] [] cn) r0) 0 = false) ∧
    (Takes (seqSt id [] [] ci) r0 0x0702 ci (noChecks (seqSt id [] [] ci) ci.entry) ∧ named id [] ci = true ∧ parFlg ci.entry 4 0 = true) ∧
    (Takes (seqSt id [] [] (inf0 0x0703 [])) r0 0x0703 (inf0 0x0703 []) (noChecks (seqSt id [] [] (inf0 0x0703 [])) (inf0 0x0703 []).entry) ∧
      par (inf0 0x0703 []).entry 0 4 = 0) ∧
    (Takes (seqSt id [] [] st) r0 0x0703 st (noChecks (seqSt id [] [] st) st.entry) ∧ named id [] st = true) ∧
    Takes (seqSt id [] [] po) r0 0x0708 po (policyChecks po.entry) := by dsimp only; and_intros <;> decide +kernel
theorem witness_seqServe :
    let k (now : Bool) (v : State) (y : Inflight) (b : Bytes) : Bool := !schedWaits v r0 && (endWaiting y).isNone &&
      (match bindRole v 0 (fieldAt b 0 4) 0 1 0 with
        | .ok q => (verAt v q).any fun z => !sharesBad v 0 z b && decide (fieldAt b 4 4 = 0)
        | _ => false)
      && if now then decide (fieldAt b 40 8 = 0 ∧ serveBad v 0 b = none) && (match cmdReady v y 0 walkHubControl .write (bytePages (blockVa y + 48) 16) with | .ready => true | _ => false)
         else decide (fieldAt b 40 8 ≠ 0) && decide (schedRefuse v (fieldAt b 40 8) = none)
    tookBlock (seqSt id [] (bytesAt 64 [(0, 1)]) (inf0 0x0707 [])) 0x0707 (inf0 0x0707 []) (fun _ b => serveChecks b) (k true) = true ∧
    tookBlock (seqSt id [] (bytesAt 64 [(0, 1), (45, 1)]) (inf0 0x0707 [])) 0x0707 (inf0 0x0707 []) (fun _ b => serveChecks b) (k false) = true := by
  dsimp only; and_intros <;> decide +kernel

theorem witness_seqMove :
    let x := inf0 0x0704 [(1, 0x40), (8, 5)]
    let s : State := { seqSt id [] [] x with fab := { s0.fab with reach := [(5, 0xFF)] } }
    Takes s r0 0x0704 x (noChecks s x.entry) ∧ parFld x.entry 8 16 0 ≠ (begun s r0).fab.module ∧ peerLive (begun s r0) 5 4 = true ∧
    (match atBoundary (begun s r0) { x with started := true } (par x.entry 0 4) true with
      | .ready i q v => (match readImage (begun s r0) { x with started := true } i q v with | .ok _ => true | _ => false)
      | _ => false) = true := by dsimp only; and_intros <;> decide +kernel
theorem zeroTo_length (n : Nat) (bs : Bytes) : (zeroTo n bs).length = max n bs.length := by
  simp [zeroTo]; omega
theorem leBytes_len : ∀ n v, (leBytes n v).length = n := by
  intro n; induction n with
  | zero => intro v; rfl
  | succ n ih => intro v; simp [leBytes, ih]
/-- The image of a sequence without KV blocks. -/
def emptyImg (x : Machine.Seq) (v : ModelVer) : Bytes :=
  zeroTo 65536 (exportHead v x) ++ zeroTo (tokTiles x.c * 65536) (tokBytes ((List.range (x.c + 1)).map (tokAt x)))
    ++ leBytes 65536 (Config.textCode (BitVec.ofNat 524288 (leVal (textBytes x.ts)))).toNat ++ []
theorem readImage_empty (s : State) (c : Inflight) (i : Nat) (x : Machine.Seq) (v : ModelVer) (h : x.btab = []) :
    readImage s c i x v = .ok (modSeq s i fun z => { z with xport := some c.ref }, emptyImg x v) := by
  simp [readImage, exportImage, h, bind, Except.bind, pure, Except.pure, emptyImg]
theorem emptyImg_length (x : Machine.Seq) (v : ModelVer) (hc : x.c = 0) : (emptyImg x v).length = 196608 := by
  have h1 : (exportHead v x).length = 60 := by simp only [exportHead, List.length_append, leBytes_len]
  have h2 : tokTiles 0 = 1 := by decide
  have h3 : (tokBytes ((List.range (0 + 1)).map (tokAt x))).length = 4 := by simp [tokBytes, leBytes_len, List.range_succ]
  simp only [emptyImg, List.length_append, zeroTo_length, h1, hc, h2, h3, leBytes_len, List.length_nil]
  decide
def exX (d : Nat) : Inflight := inf0 0x0705 [(1, 0x40), (4, d), (10, 1), (16, 3)]
def exS (d : Nat) : State := seqSt id [] [] (exX d)
def exQ : Machine.Seq := { gen := 1, st := .decode, stage := .run, gen0 := (1, 1), toks := [7], blk := List.replicate 64 0, xport := some r0 }
def exV : ModelVer := { serv := some servD }
def exI : Bytes := emptyImg exQ exV
/-- The state before the writes. -/
def exA (d : Nat) : State := modSeq (begun (exS d) r0) 0 fun z => { z with xport := some r0 }
theorem ready_of {o : PageAcc} (h : (match o with | .ready => true | _ => false) = true) : o = .ready := by
  cases o <;> simp_all
/-- The writes of a command whose pages are ready. -/
theorem cmdWrite_ready {s : State} {y : Inflight} {t va n : Nat} {img : Bytes} (h : img.length = n)
    (hr : cmdReady s y t walkHubControl .write (bytePages va n) = .ready) (hp : partsRoom s t ((pageParts va n).map (·.1)) = true) :
    cmdWrite s y t walkHubControl va img = .ok (touchCmd (partsWrite s y t (pageParts va n) img) y.ref t walkHubControl (bytePages va n)) img := by
  subst h
  simp [cmdWrite, hr, hp]
theorem witness_seqExport (d : Nat) (hd : d = 0 ∨ d = 1) :
    let y := { exX d with started := true }
    Takes (exS d) r0 0x0705 (exX d) (exportChecks (exX d).entry) ∧ inflAt (begun (exS d) r0) r0 = some y ∧
    (match atBoundary (begun (exS d) r0) y 0x4000 false with | .ready i q v => decide (i = 0 ∧ q = exQ ∧ v = exV) | _ => false) = true ∧
    ¬ par (exX d).entry 16 4 < imgPages (svKvtiles exV) exQ.c ∧
    readImage (begun (exS d) r0) y 0 exQ exV = .ok (exA d, exI) ∧ (∃ s2, cmdWrite (exA d) y 0 walkHubControl 65536 exI = .ok s2 exI) := by
  have h : exI.length = 196608 := emptyImg_length exQ exV rfl
  have hr := ready_of (o := cmdReady (exA d) { exX d with started := true } 0 walkHubControl .write (bytePages 65536 196608))
    (by obtain rfl | rfl := hd <;> decide +kernel)
  have ho : partsRoom (exA d) 0 ((pageParts 65536 196608).map (·.1)) = true := by obtain rfl | rfl := hd <;> decide +kernel
  refine ⟨?_, ?_, ?_, ?_, readImage_empty _ _ _ _ _ rfl, ⟨_, cmdWrite_ready h hr ho⟩⟩
  all_goals obtain rfl | rfl := hd <;> decide +kernel
theorem witness_seqExported :
    let x (d : Nat) : Inflight := { inf0 0x0705 [(1, 0x40), (4, d)] with started := true, done := 1, got := [(3, [])] }
    (∀ d < 2, Running (seqSt id [] [] (x d)) r0 0x0705 (x d) ∧ parFld (x d).entry 4 0 0 = d ∧
      (match namedSeq (seqSt id [] [] (x d)) 0 (par (x d).entry 0 4) with | .ok q => decide (q.1 = 0) | _ => false) = true) := by decide +kernel
/-- An image of no committed token at page 1: its header, then zeros. -/
def imCells : List (Nat × Nat) := [(0, 0x53), (1, 0x45), (2, 0x58), (3, 0x50), (24, 1)]
def imX : Inflight := inf0 0x0706 [(0, 1), (10, 1), (24, 12), (26, 0xFF), (27, 7)]
def imS : State :=
  let s := seqSt id [] [] imX
  { s with atlas := { s.atlas with mem := imCells.map fun q => (65536 + q.1, BitVec.ofNat 8 q.2) } }
def imY : Inflight := { imX with started := true }
def imHd : Bytes := cellReads imS.atlas.mem 65536 60 ++ List.replicate 65476 0
theorem cellReads_zero {m : List Host.Cell} (n a : Nat) (h : ∀ q ∈ m, q.1 < a) : cellReads m a n = List.replicate n 0 := by
  have := cellReads_tail 0 n a (by simpa using h)
  simpa [cellReads] using this
def imU : State := begun imS r0
def im2 : State := touchCmd (hubRead imU 0 65536 65536) r0 0 walkHubControl [1]
def im3 : State := touchCmd (hubRead im2 0 65536 196608) r0 0 walkHubControl [1, 2, 3]
def imImg : Bytes := imHd ++ (List.replicate 65536 0 ++ (List.replicate 65536 0 ++ []))
set_option maxRecDepth 100000 in
theorem im_parts (s : State) (h : s.atlas.mem = imS.atlas.mem) : partBytes s imY 0 (65536, 65536) = imHd ∧
    partBytes s imY 0 (131072, 65536) = List.replicate 65536 0 ∧ partBytes s imY 0 (196608, 65536) = List.replicate 65536 0 := by
  refine ⟨?_, ?_, ?_⟩
  · show cellReads s.atlas.mem 65536 (60 + 65476) = _
    rw [h, cellReads_tail _ _ _ (by decide +kernel)]; rfl
  · show cellReads s.atlas.mem 131072 65536 = _
    rw [h]; exact cellReads_zero _ _ (by decide +kernel)
  · show cellReads s.atlas.mem 196608 65536 = _
    rw [h]; exact cellReads_zero _ _ (by decide +kernel)
theorem cmdRead_ready {s : State} {y : Inflight} {t va n : Nat} (hr : cmdReady s y t walkHubControl .read (bytePages va n) = .ready) :
    cmdRead s y t walkHubControl va n = .ok (touchCmd (hubRead s t va n) y.ref t walkHubControl (bytePages va n)) ((pageParts va n).flatMap (partBytes s y t)) := by
  simp [cmdRead, hr]
theorem im_good : headGood exV imHd = true := by
  have h : zeroBytes imHd 60 65535 = true := by
    unfold zeroBytes imHd
    rw [List.drop_append, List.drop_eq_nil_of_le (by rw [show (cellReads imS.atlas.mem 65536 60).length = 60 from by decide +kernel]), List.nil_append, List.drop_replicate, List.take_replicate]
    simp
  unfold headGood
  rw [h]
  decide +kernel
theorem im_len : imHd.length = 65536 := by
  unfold imHd
  rw [List.length_append, show (cellReads imS.atlas.mem 65536 60).length = 60 from by decide +kernel, List.length_replicate]
theorem enterBytes_good {s : State} {q : Nat × Nat} {v : ModelVer} {d : ImportTo} {img hd : Bytes} (h : img.take 65536 = hd) (g : headGood v hd = true) :
    enterBytes s q v d img = enterImage s q v d hd ((List.range (fieldAt hd 12 4 + 1)).map fun i => fieldAt (img.drop 65536) (4 * i) 4)
      (textOf (leBytes 65536 (Config.textCode.symm (BitVec.ofNat 524288 (leVal (((img.drop 65536).drop (tokTiles (fieldAt hd 12 4) * 65536)).take 65536)))).toNat))
      ((img.drop 65536).drop (tokTiles (fieldAt hd 12 4) * 65536 + 65536)) := by
  subst h
  simp [enterBytes, g]
def imTo : ImportTo := { tenant := 0, fn := 0, owner := ownCmd r0, pasid := mboxPasid imS 0 0, outaddr := 0, outlog2 := 12, vector := 0x7FF }
theorem im_enters (ts : List Nat) (tx : TextState) (kv : Bytes) :
    (match enterImage im3 (1, 1) exV imTo imHd ts tx kv with | .ok s4 i => (seqAt s4 i).isSome | _ => false) = true := by rfl
theorem witness_seqImport :
    Takes imS r0 0x0706 imX (importChecks 0 imX.entry) ∧ (match bindRole imU 0 1 0 1 0 with | .ok q => decide (q = (1, 1)) | _ => false) = true ∧ verAt imU (1, 1) = some exV ∧
    cmdRead imU imY 0 walkHubControl 65536 65536 = .ok im2 imHd ∧ headGood exV imHd = true ∧
    cmdRead im2 imY 0 walkHubControl 65536 (imgPages (svKvtiles exV) (fieldAt imHd 12 4) * 65536) = .ok im3 imImg ∧
    (match enterBytes im3 (1, 1) exV imTo imImg with | .ok s4 i => (seqAt s4 i).isSome | _ => false) = true := by
  obtain ⟨p1, _, _⟩ := im_parts imU rfl
  obtain ⟨q1, q2, q3⟩ := im_parts im2 (by rfl)
  have ht : imImg.take 65536 = imHd := by rw [← im_len]; exact List.take_left' rfl
  refine ⟨by decide +kernel, by decide +kernel, by decide +kernel, ?_, im_good, ?_, ?_⟩
  · rw [cmdRead_ready (ready_of (by decide +kernel)), show pageParts 65536 65536 = [(65536, 65536)] by decide +kernel,
      show bytePages 65536 65536 = [1] by decide +kernel]
    simp only [List.flatMap_cons, List.flatMap_nil, p1, List.append_nil]; rfl
  · rw [show imgPages (svKvtiles exV) (fieldAt imHd 12 4) * 65536 = 196608 by decide +kernel, cmdRead_ready (ready_of (by decide +kernel)),
      show pageParts 65536 196608 = [(65536, 65536), (131072, 65536), (196608, 65536)] by decide +kernel, show bytePages 65536 196608 = [1, 2, 3] by decide +kernel]
    simp only [List.flatMap_cons, List.flatMap_nil, q1, q2, q3]; rfl
  · rw [enterBytes_good ht im_good]; exact im_enters _ _ _

/-- Is a pick dealt? -/
def isDealt (p : Pick) (k : StepKind) (num : Nat) (beat : Option Nat) : Bool :=
  !p.wait && decide (p.ents ≠ []) && (match dealStep p.st 0 (1, 1) k num beat p.ents p.tabs [] [] with | .ok _ => true | _ => false)
theorem witness_StepsAreFormed :
    let q := (1, 1)
    let form (s : State) (k : StepKind) : Bool := (formable s q k).isSome
    let pf := stepSt { stepQ with st := .queued } [] id
    let en := stepSt { stepQ with encoder := some q, stage := .encode, qenc := [1] } [] id
    let rr := stepSt { stepQ with rerank := some q, stage := .rerank, cands := [0], ablk := bytesAt 64 [(40, 1)] } [] id
    let w : StepRun := { kind := .verify, dealt := false, ents := [{ seq := 0x4000, ntok := 2 }] }
    let dr := stepSt { stepQ with drafter := some q, dready := true, st := .decode } [w] id
    let ve := stepSt { stepQ with drafter := some q, drafted := true, st := .decode, drafts := [9] } [w] id
    let de := stepSt { stepQ with st := .decode } [] id
    let ov := stepSt { stepQ with st := .decode } [{ kind := .decode }] fun m => { m with serve := { m.serve with beat := 40000 } }
    let ready (st : State) (i : Nat) (x : Machine.Seq) : Bool := decide (x.gen0 = q ∧ x.st = .queued ∧ x.stage = .run ∧ x.c < x.toks.length) && seqFree st i x
    (form pf .prefill && isDealt (prefillPick q (stepV []) (selectSeqs (endAllPoisoned pf (selectSeqs pf (ready pf))) (ready (endAllPoisoned pf (selectSeqs pf (ready pf)))))
      { st := endAllPoisoned pf (selectSeqs pf (ready pf)) }) .prefill 0 none) = true ∧
    (form en .encode && isDealt (encodePick (stepV []) (selectSeqs en fun i x => decide (x.encoder = some q ∧ x.stage = .encode) && seqFree en i x) { st := en }) .encode 0 none) = true ∧
    (form rr .rerank && (match selectSeqs rr (fun i x => decide (x.rerank = some q ∧ x.stage = .rerank) && seqFree rr i x) with
      | (i, x) :: _ => (match rerankOne rr i x (stepV []) with | .ok (s1, es) => isDealt { st := s1, ents := es, slots := [i] } .rerank 0 none | _ => false)
      | [] => false)) = true ∧
    (form dr .draft && isDealt (draftPick q (stepV [w]) (draftable dr q) { st := dr }) .draft 0 none) = true ∧
    (form ve .verify && (let xs := (w.ents.filterMap fun e => seqOfId ve e.seq).filter fun x => x.2.ending.isNone
      xs.all (fun x => x.2.drafted) && decide (xs ≠ []) && isDealt (planDecode (stepV [w]) .verify (xs.map (·.1))
        { st := modSteps ve q fun rs => rs.filter fun r => r.dealt || decide (r.kind ≠ .verify) }) .verify 0 none)) = true ∧
    (runsKind (stepV []) .decode && !decodeBusy de (stepV []) && (let s1 := endAllPoisoned de (selectSeqs de (decodable de q))
      let g := decodePick q (stepV []) (selectSeqs s1 (decodable s1 q)) s1 []
      decide (g.2 ≠ []) && !(g.2.any fun z => decide (z.2 ≠ 0)) && isDealt (planDecode (stepV []) .decode (g.2.map (·.1)) { st := g.1 }) .decode 0 none)) = true ∧
    ((modelAt ov 1).any fun m => decide (m.serve.beat ≠ 0) && decodeBusy (advanceMer ov (merWhen (decodeCore ov 0 (stepV [])) (m.serve.origin + max 0 (nextBeatOf (merAt ov (decodeCore ov 0 (stepV []))) m.serve) * m.serve.beat))) (stepV [{ kind := .decode }])) = true := by
  dsimp only; and_intros <;> decide +kernel

/-- The version of `stepV` with experts, two homes each, and two pools. -/
def expV (f : VerServe → VerServe) : ModelVer :=
  { stepV [] with serv := some (bytesAt 256 [(4, 1), (6, 1), (10, 1), (12, 64), (16, 1), (20, 4), (22, 1), (23, 2), (28, 64), (32, 64), (36, 4), (38, 4), (44, 4), (52, 3), (60, 4), (68, 1)])
                  sv := f {} }
def expSt (x : Machine.Seq) (f : VerServe → VerServe) : State :=
  let s := stepSt x [] fun m => { m with vers := [(1, expV f)] }
  { s with jobs := { jobs := [(0, { jcores := [(0, { st := .resident })], batches := [(0, { total := 1, done := 1 })] })] } }
theorem witness_StepsEndAndPoolsMove :
    let q := (1, 1)
    let r (k : StepKind) : StepRun := { kind := k, ents := [{ seq := 0x4000, nout := 1 }] }
    let st (k : StepKind) : State := expSt { stepQ with st := .decode } fun sv => { sv with steps := [r k] }
    let there (s : State) : Bool := (modelAt s 1).isSome && (verAt s q).isSome
    let g : ExpReq := { num := 3, sent := 1 }
    let ex := expSt stepQ fun sv => { sv with gathered := [g] }
    let ds := expSt stepQ fun sv => { sv with sent := [g] }
    let mv := expSt stepQ fun sv => { sv with moving := some (0, true) }
    let kc := expSt { stepQ with btab := [0], pollAt := some 5 } id
    (∀ k ∈ [StepKind.prefill, .decode, .verify, .draft, .encode, .rerank, .expert], there (st k) = true ∧
      ((verAt (st k) q).bind fun v => v.sv.steps.find? fun z => z.dealt && decide (kindCode z.kind = kindCode k)) = some (r k) ∧
      ((jobAt (st k) 0).bind fun j => tabFind j.batches 0) = some { total := 1, done := 1 } ∧
      (match rdUnit (st k) 0 0 (outBytes (expV fun sv => { sv with steps := [r k] }) (r k)) with | .ok _ => true | _ => false) = true) ∧
    svN (expV id) 20 2 ≠ 0 ∧
    (match endExpert (st .expert) q { vers := [] } (expV id) (r .expert) with | .ok _ => true | _ => false) = true ∧
    ((formable ex q .expert).isSome && (match rdUnit (advanceTo ex (0 + 100)) 0 (expEntVa (expV id) 0 0) 32 with
      | .ok (s2, ent) => (match dealStep ((rangeOf (fld ent 0 56 0) (fieldAt ent 8 4)).foldl (fun st p => hintWillneed st 0 walkHubControl p) s2) 0 q .expert 0 none
          [{ seq := 0, pos := 0, ntok := 1 }] [] [g] [(homeVa (expV id) 0, [])] with | .ok _ => true | _ => false)
      | _ => false)) = true ∧
    (match rdUnit (advanceTo ds 0) 0 (expEntVa (expV id) 0 0) 32 with | .ok (s2, ent) => decide (nextHome s2 (expV id) ent 0 = some 1) | _ => false) = true ∧
    hasPools (expV id) = true ∧ ((modelAt ds 1).any fun m => decide (m.serve.rebalus ≠ 0)) = true ∧
    (((verAt mv q).map fun v => (v.sv.moving, (stepOf v .prefill).isSome)) = some (some (0, true), false)) ∧
    ((seqAt kc 0).any fun x => decide (x.gen0 = q ∧ x.drafter = none ∧ x.coldDone = false ∧ x.btab ≠ [] ∧ x.pollAt = some 5) && !inAnyStep kc 0 x) = true := by
  dsimp only; and_intros <;> decide +kernel

/-- A sequence in slot 0 of a generator, its unit first. -/
def unitSt (x : Machine.Seq) (u : TextUnit) : State :=
  let s := stepSt x [] id
  { s with serving := { s.serving with units := [(0, u)] } }
/-- A unit is picked by engine 0; what holds in the state then. -/
def unitIs (x : Machine.Seq) (u : TextUnit) (p : TextUnit → Bool) (k : State → Bool) : Bool :=
  match pickUnit (unitSt x u) p with
  | some (z, n, q) => decide (n = 0 ∧ q = (0, u) ∧ seqAt z 0 = some x) && k z
  | none => false
theorem witness_TextUnitsComplete :
    let tok : Bytes := (List.range 64).map fun i => if i = 8 then 1 else 0
    let kind (k : Nat) : Bytes := (List.range 64).map fun i => BitVec.ofNat 8 (if i = 8 then k else 0)
    let adm (x : Machine.Seq) (z : State) : Bool := match admission z 0 x (stepV []) with
      | .ok (s1, .ok _) => !(polAt (unitDone s1 0 (0, .admission 0)) 0).admitOn
      | _ => false
    let gaz (x : Machine.Seq) (u : TextUnit) (z : State) : Bool := match seqGaz z 0 x x.gen0 with
      | .ok (s1, g) => (match x.encoder with | some q => (match seqGaz s1 0 x q with | .ok _ => true | _ => false) | none => true) &&
          (match u with
            | .pack _ => (match seqTemplate s1 x g with
              | .ok (s2, ws) => (match readPassages x.ablk 0 x.passages s2 with
                | .ok (_, ps) => (packPrompt g (tcAddbos x.ts.tcb) ws x.qgen ps 63).isSome
                | _ => false)
              | _ => false)
            | .token _ => (match rdCons s1 0 x.ts.tcb with | .ok (_, cs) => inSet (gzNtok g) (conSet (gzNtok g) cs (genToks x 1)) 7 | _ => false)
            | _ => true)
      | _ => false
    let x2 : Machine.Seq := { stepQ with blk := kind 2 }
    let x1 : Machine.Seq := { stepQ with blk := tok }
    let x3 : Machine.Seq := { stepQ with blk := kind 3, encoder := some (1, 1) }
    let xt : Machine.Seq := { stepQ with emit := [7] }
    (sqKind x1 = 1 ∧ sqKind x2 = 2 ∧ sqKind x3 = 3) ∧
    (unitIs x2 (.admission 0) isAdmission (adm x2) = true ∧
      unitIs x1 (.admission 0) isAdmission (adm x1) = true) ∧
    (unitIs x2 (.tokenise 0) isTokenise (gaz x2 (.tokenise 0)) = true ∧
      unitIs x3 (.tokenise 0) isTokenise (gaz x3 (.tokenise 0)) = true) ∧
    unitIs x3 (.pack 0) isPack (gaz x3 (.pack 0)) = true ∧
    unitIs xt (.token 0) isToken (fun z => (xt.emit.head?).isSome && (match seqGaz z 0 xt xt.gen0 with | .ok _ => true | _ => false)) = true ∧
    unitIs x2 (.draft 0) isDraft (fun z => match seqCons z x2 with | .ok _ => true | _ => false) = true := by
  dsimp only; and_intros <;> decide +kernel

/-- The model's version has a gazetteer: at page 1; the block at page 0, the input at page 2, results to page 3. -/
def textSt (b : Bytes) (x : Inflight) : State :=
  { mapSt [(0, b), (1, []), (2, []), (3, [])] with
    inflight := [x], models := { models := [(1, { vers := [(1, { text := some (65536, 256) })], lastVer := 1 })] } }
theorem witness_TextCommandsComplete :
    let reads (v : State) (y : Inflight) (b : Bytes) (u : TextUnit) (n : Nat) (k : Bytes → Bytes → Option Bytes) : Bool := y.stopped.isNone && (endWaiting y).isNone && decide (y.done ≠ 1) &&
      match textStart v y b u with
      | .ok (s1, e) => (match textGaz s1 e y with
        | .ok (s2, g) => (match rdText s2 e y (fld b 16 56 0) n with
          | .ok (s3, inp) => (match k g inp with | some out => (match cmdWrite s3 y 0 walkHubControl (fld b 32 56 0) out with | .ok _ _ => true | _ => false) | none => false)
          | _ => false)
        | _ => false)
      | _ => false
    let blk := bytesAt 64 [(0, 1), (18, 2), (24, 1), (34, 3)]
    let two := bytesAt 64 [(0, 1), (18, 2), (24, 2), (34, 3)]
    let gz (s : State) : State := hubWrite s 0 65536 (bytesAt 256 [(8, 255), (9, 255), (12, 255), (16, 255)])
    let det (n : Nat) (v : State) (y : Inflight) (b : Bytes) : Bool := reads v y b (.cmdDetok r0) (4 * fieldAt b 24 4) fun g inp =>
      if (u32s n inp).any fun z => decide (gzNtok g ≤ z) then none else some (fitChars (fieldAt b 28 4) (detokenise g (flg b 8 2) (u32s 1 inp)))
    tookBlock (textSt blk (inf0 0x0801 [])) 0x0801 (inf0 0x0801 []) (fun _ b => textChecks true b)
      (fun v y b => reads v y b (.cmdTok r0) (fieldAt b 24 4) fun g inp => some (tokBytes ((bosOf g (flg b 8 0) ++ tokens g (flg b 8 1) inp).take (fieldAt b 28 4)))) = true ∧
    tookBlock (gz (textSt blk (inf0 0x0802 []))) 0x0802 (inf0 0x0802 []) (fun _ b => textChecks false b) (fun v y b => decide (fieldAt b 24 4 = 1 ∧ y.toks = 0) && det 1 v y b) = true ∧
    tookBlock (gz (textSt two (inf0 0x0802 []))) 0x0802 (inf0 0x0802 []) (fun _ b => textChecks false b) (fun v y b => decide (fieldAt b 24 4 = 2 ∧ y.toks = 0) && det 2 v y b) = true := by
  dsimp only; and_intros <;> decide +kernel

/-- The CRC-64 of zeros is zero. -/
theorem crc64_zeros (n : Nat) : crc64 (List.replicate n 0) = 0 := by
  have h : ∀ n, (List.replicate n (0 : Byte)).foldl crcByte 0 = 0 := by
    intro n
    induction n with
    | zero => rfl
    | succ n ih => rw [List.replicate_succ, List.foldl_cons, show crcByte 0 0 = 0 by decide +kernel]; exact ih
  show (List.foldl crcByte 0 (List.replicate n 0)).toNat = 0
  rw [h]; rfl
/-- A flit of zeros, its CRC as given. -/
def zeroFlit (c : Byte) : Bytes := List.replicate 248 0 ++ (c :: List.replicate 7 0)
theorem zeroFlit_crc (c : Byte) : crc64 ((padTo 256 (zeroFlit c)).take 248) = 0 := by
  have h : (padTo 256 (zeroFlit c)).take 248 = List.replicate 248 0 := by
    rw [padTo, List.take_take, show min 248 256 = 248 by rfl, zeroFlit, List.append_assoc, List.take_left' List.length_replicate]
  rw [h, crc64_zeros]
theorem witness_LinkEventsComplete :
    (portAt (linkSt id) 0).st = .up ∧ (crc64 ((padTo 256 (zeroFlit 0)).take 248) = fieldAt (padTo 256 (zeroFlit 0)) 248 8 ∧ fieldAt (padTo 256 (zeroFlit 0)) 240 2 = (portAt (linkSt id) 0).rxSeq) ∧
    (crc64 ((padTo 256 (zeroFlit 1)).take 248) ≠ fieldAt (padTo 256 (zeroFlit 1)) 248 8 ∧ ((portAt (linkSt id) 0).fecAt.filter fun t => decide ((linkSt id).clk.ticks < t + msTicks)).length < 31) ∧
    (if (portAt (linkSt id) 0).nakRun.1 = (portAt (linkSt id) 0).rxSeq then (portAt (linkSt id) 0).nakRun.2 + 1 else 1) < 16 ∧
    (mayTrain (linkSt fun p => { p with st := .training }) 0 = true ∧ (portAt (linkSt fun p => { p with st := .training }) 0).st = .training) ∧
    (∀ k ∈ [1, 2], mgmtOf (inSt { m := mgmtMsg k 5 } id) [1, 2] = some { m := mgmtMsg k 5 } ∧ (mgmtMsg k 5).arg % 256 = k) ∧
    (inSt { m := {} } fun f => { f with probes := [(5, 9)] }).fab.probes.find? (fun x => decide (x.1 = 5)) = some (5, 9) ∧
    mgmtOf (inSt { m := mgmtMsg 3 5 } id) [3] = some { m := mgmtMsg 3 5 } ∧ mgmtOf (inSt { m := mgmtMsg 4 5 } id) [4] = some { m := mgmtMsg 4 5 } := by
  rw [zeroFlit_crc, zeroFlit_crc]; and_intros <;> decide +kernel

theorem witness_RequestsAreServed :
    let m (op : Nat) : FabMsg := { op := op, src := 5, service := 5 }
    let ready (op len : Nat) (acc : Acc) : Bool := !(police (servSt (m op)) { m := m op }).2 &&
      match targetCheck (holdMsg (police (servSt (m op)) { m := m op }).1 { m := m op } { m := m op, policed := true }) { m := m op, policed := true } len acc with
      | .ready => true | _ => false
    (nextAccess (servSt (m 1)) 1 [] (servSt (m 1)).fab.inbox = some { m := m 1 } ∧ ready 1 1 .read = true) ∧ (nextAccess (servSt (m 2)) 2 [] (servSt (m 2)).fab.inbox = some { m := m 2 } ∧ ready 2 1 .write = true) ∧
    (nextAccess (servSt (m 3)) 3 [] (servSt (m 3)).fab.inbox = some { m := m 3 } ∧ ready 3 8 .atomic = true) ∧
    (∀ arg ∈ [srcSeq, 0], let x : FabMsg := { op := 4, service := 4, arg := arg }
      (servSt x).fab.inbox.find? (fun z => decide (z.m.op = 4 ∧ z.m.service = 4) && inTurn (servSt x) z) = some { m := x } ∧
      (match seqMessage (holdMsg (servSt x) { m := x } { m := x, policed := true }) x with | .ok _ => true | _ => false) = true) ∧
    (let s := inSt { m := { op := 5 } } fun f => { f with groups := [(0, { run := some {} })], kept := [{}] };
      inboxOf s 5 = some { m := { op := 5 } } ∧ ((tabFind (countColl (police s { m := { op := 5 } }).1 { m := { op := 5 } }).fab.groups 0).map fun g => (g.run.isSome, g.count % 2 ^ 24)) = some (true, 0) ∧
        bitOf 0 32 = false ∧ s.fab.kept ≠ []) := by dsimp only; and_intros <;> decide +kernel

theorem witness_AnswersComplete :
    let st (op arg kind : Nat) (port : Option Nat) : State := inSt { m := { op := op, arg := arg }, inPort := port } fun f => { f with rem := [(0, { kind := kind })] }
    let ok (op arg kind : Nat) (port : Option Nat) : Bool := let q : RMsg := { m := { op := op, arg := arg }, inPort := port }
      decide (inboxOf (st op arg kind port) op = some q) && ((tabFind (doneMsg (police (st op arg kind port) q).1 q).fab.rem 0).any fun o => decide (o.kind = kind))
    let ma := inSt { m := { op := 0x84 } } fun f => { f with txFlows := [(0, {})] }
    ok 0x81 0 0 none = true ∧ ok 0x82 0 1 none = true ∧ ok 0x83 0 2 none = true ∧ ok 0x8F stBusy 0 none = true ∧ ok 0x8F 0 0 (some 0) = true ∧
    (inboxOf ma 0x84 = some { m := { op := 0x84 } } ∧ (tabFind (doneMsg (police ma { m := { op := 0x84 } }).1 { m := { op := 0x84 } }).fab.txFlows 0).isSome = true) ∧
    (∀ o ∈ ([{ resent := false }, { resent := true }, { busyAt := some 3 }] : List RemOp), tabFind (inSt { m := {} } fun f => { f with rem := [(7, o)] }).fab.rem 7 = some o) ∧
    (∀ f ∈ ([{ deadline := some 4 }, { deadline := some 4, resent := true }] : List TxFlow), tabFind (inSt { m := {} } fun z => { z with txFlows := [(42, f)] }).fab.txFlows (5 * 8 + 2) = some f) := by
  dsimp only; and_intros <;> decide +kernel

theorem witness_FabCommandsComplete :
    let cfg := inf0 0x0B01 [(4, 1), (5, 1), (16, 10), (22, 5)]
    let wr : Inflight := { inf0 0x0B02 [(8, 1)] with hdata := some (List.replicate 16 0) }
    let cm := inf0 0x0B02 [(24, 1)]
    let cmT := inf0 0x0B02 [(24, 1), (36, 1)]
    let tl (x : Inflight) : State := { offer s0 x with time := { s0.time with st := .locked } }
    let one (x : Inflight) : State := { offer s0 x with fab := { s0.fab with ndim := 1, widths := [1] } }
    let port (k : Nat) := inf0 0x0B03 [(1, k), (4, 16), (6, 16), (8, 16), (10, 16), (12, 16), (14, 16), (16, 16), (18, 16)]
    let port0 (k : Nat) := inf0 0x0B03 [(1, k)]
    Takes (offer s0 cfg) r0 0x0B01 cfg (chkFabConfig r0 (offer s0 cfg) cfg.entry) ∧ (begun (offer s0 cfg) r0).fab.enable = false ∧
    (Takes (one wr) r0 0x0B02 wr (chkFabRouteWrite r0 (one wr) wr.entry) ∧ parFlg wr.entry 24 0 = false ∧ par wr.entry 8 4 = 1 ∧
      routeEntGood (List.replicate 16 0) = true ∧ hostBuf (inf0 0x0B02 [(8, 1)]) = none) ∧
    (∀ z ∈ [cm, cmT], Takes (tl z) r0 0x0B02 z (chkFabRouteCommit r0 (tl z) z.entry) ∧ parFlg z.entry 24 0 = true ∧ schedWaits (begun (tl z) r0) r0 = false ∧
      armedKind (begun (tl z) r0) (fun k => decide (k = .route)) = false ∧ par z.entry 8 4 = 0 ∧ shadowGood (begun (tl z) r0) = true) ∧
    par cm.entry 32 8 = 0 ∧ par cmT.entry 32 8 ≠ 0 ∧ schedRefuse (begun (tl cmT) r0) (par cmT.entry 32 8) = none ∧
    Takes (offer s0 (port0 0)) r0 0x0B03 (port0 0) (chkFabPortDisable r0 (offer s0 (port0 0)) (port0 0).entry) ∧ parFld (port0 0).entry 1 1 0 = 0 ∧
    Takes (offer s0 (port0 1)) r0 0x0B03 (port0 1) (chkFabPortEnable r0 (offer s0 (port0 1)) (port0 1).entry) ∧ parFld (port0 1).entry 1 1 0 = 1 ∧
    (Takes (offer s0 (port 2)) r0 0x0B03 (port 2) (portChecks (port 2).entry) ∧ parFld (port 2).entry 1 1 0 = 2 ∧
      (portAt (begun (offer s0 (port 2)) r0) (par (port 2).entry 0 1)).st = .disabled ∧ (∀ i ∈ List.range 8, par (port 2).entry (4 + 2 * i) 2 = 16)) ∧
    (∀ f ∈ [0, 1], let z := inf0 0x0B04 [(8, f)]
      Takes (offer s0 z) r0 0x0B04 z (fabStatusChecks z.entry) ∧ parFlg z.entry 8 0 = decide (f = 1)) ∧
    (∀ f ∈ [0, 1], let z := inf0 0x0B05 [(0, 0xFF), (1, f)]
      Takes (offer s0 z) r0 0x0B05 z (noChecks (offer s0 z) z.entry) ∧ parFlg z.entry 1 0 = decide (f = 1)) := by dsimp only; and_intros <;> decide +kernel

/-- A group of this module alone, at page 0 its descriptor, input at page 1, output at page 2. -/
def collD : Bytes := bytesAt 64 [(0, 1), (8, 1), (18, 1), (26, 2), (32, 1)]
def collSt (f : Group → Group) : State :=
  { mapSt [(0, collD), (1, []), (2, [])] with fab := { s0.fab with groups := [(0, f { ntrig := 1, taken := true })] } }
def groupSt (b : Bytes) (l : Tab Group) : State :=
  { mapSt [(0, b)] with inflight := [inf0 0x0B06 []], fab := { s0.fab with groups := l } }
theorem witness_CollectivesComplete :
    let wr (v : State) (y : Inflight) (res : Bytes) : Bool := match cmdWrite (modInfl v r0 fun z => { z with done := 1 }) { y with done := 1 } (cmdTenant y) walkHubControl
        (parFld y.entry 0 56 0 + 48) (padTo 16 res) with | .ok _ _ => true | _ => false
    let rd (o : SeqAcc) (k : State → Bytes → Bool) : Bool := match o with | .ok a b => k a b | _ => false
    (tookBlock (groupSt (bytesAt 64 [(1, 1), (28, 1)]) []) 0x0B06 (inf0 0x0B06 []) groupChecks (fun v y b =>
      let g := groupOf v b
      flg b 1 0 && !tabHas v.fab.groups 0 && wr (groupWait (freeTick { v with fab := { v.fab with groups := tabPut v.fab.groups 0 g } }) 0) y
        (leBytes 4 (groupSize g) ++ leBytes 4 ((rankOf g v.fab.module).getD ((freeNow v).toNat % 2 ^ 32)))) = true) ∧
    (tookBlock (groupSt (bytesAt 64 []) [(0, {})]) 0x0B06 (inf0 0x0B06 []) groupChecks (fun v y b =>
      !flg b 1 0 && tabHas v.fab.groups 0 && wr (serveSems (groupLeave { v with fab := { v.fab with groups := tabDel v.fab.groups 0 } } 0)) y []) = true) ∧
    (let s := collSt id
      let g : Group := { ntrig := 1, taken := true }
      tabFind s.fab.groups 0 = some g ∧ ((tabFind (groupWait s 0).fab.groups 0).any fun x => x.taken) = true ∧ rd (engRead (groupWait s 0) 0 (unitLink 0) 0 64) (fun u d =>
        !clBad d (groupSize g) && rd (engRead u 0 (unitLink 0) (clSrc d) (clPart d ((rankOf g u.fab.module).getD 0) * clSize (clIfmt d))) fun _ _ => true) = true) ∧
    (let run : CollRun := { d := collD, parts := [(0, List.replicate 5 0)] }
      let g : Group := { ntrig := 1, taken := true, run := some run }
      let s := collSt fun _ => g
      (ctxAt s 0).waiting = [] ∧ collEnd s g run = some stOk ∧ collEnd s g { run with bad := some stAborted } = some stAborted ∧
        rd (engWrite s 0 (unitLink 0) (clDst run.d) (clResult 0 0 g run ((rankOf g s.fab.module).getD 0))) (fun _ _ => true) = true) := by
  dsimp only; and_intros <;> decide +kernel

theorem witness_LifeCycle : s0.ctl.lifecycle ≤ 4 ∧ (∃ t, exec (.numvfsWrite 63) s0 = .next t) ∧ ∃ t, exec .flrPf0 s0 = .next t :=
  ⟨by decide, ⟨_, rfl⟩, ⟨_, rfl⟩⟩

theorem witness_EveryCommandKeeps : ∃ t, exec (.evconsWrite 7) { s0 with pending := [.flrPf0] } = .next t := ⟨_, rfl⟩

theorem witness_ExactWindowUpdate :
    (let u := accScaled true 0 0 [(1000, -10), (3, -30)]
     u.a = -30 - 23 ∨ u.aovf = false) ∧ accScaled false (BitVec.ofInt 64 max64) 511 [(1, 520)] = ⟨BitVec.ofInt 64 max64, 511, true, true⟩ := by
  decide +kernel

theorem witness_IntegerDrain : outFmt 0x03 = some (.s 12) ∧ outFmt 0x11 = some (.u 1) ∧
    drainConv (.s 12) ⟨BitVec.ofInt 64 (-5), -1, false, false⟩ = (65534, false) ∧ drainConv (.u 1) ⟨3, 0, false, false⟩ = (1, false) := by
  decide +kernel

theorem witness_FloatEncodings : fDecode fmtFp16 0x8001 ≠ .nan ∧ fDecode fmtFp16 0x7E01 = .nan := by decide +kernel

theorem witness_AtlasBytesReadBack : (2 ^ 57 - 2) + ([1, 2] : Bytes).length ≤ 2 ^ 57 ∧ Memory.wf s0.atlas.mem = true := by decide

theorem witness_EventsCoalesce :
    let s : State := { s0 with log := { s0.log with opened := [{ src := 3, code := 0x0001 }] } }
    s.log.opened.any (fun o => decide (o.src = 3 ∧ o.code = 0x0001 ∧ o.arg0 = 0)) = true ∧
    s0.log.opened.any (fun o => decide (o.src = 3 ∧ o.code = 0x0401 ∧ o.arg0 = 0)) = false ∧ 0x0001 / 256 = 0 ∧ 0x0401 / 256 = 4 ∧
    ¬ (0x0701 / 256 = 0 ∨ 0x0701 / 256 = 4) := by dsimp only; and_intros <;> decide +kernel

/-- Port 0 has 9 credits of service 2's adaptive lane; queues. -/
def queueSt (l : Tab (List RMsg)) : State :=
  let s := linkSt fun p => { p with txCred := [(4, 9)] }
  { s with fab := { s.fab with queues := l } }
/-- Port 0 runs a list of one entry that opens every service for 4,000 ticks. -/
def gateSt : State := linkSt fun p => { p with gate := { base := 0, len := 1 }, gmem := [(0, (0xFF, 4000))] }
theorem gateSt_runs : (runningEntry (portAt gateSt 0) (gateInForce (portAt gateSt 0) (merAt gateSt (srcPort 0))).1 (merAt gateSt (srcPort 0))).isSome = true := by
  have h : ∀ m, (gateInForce (portAt gateSt 0) m).1 = { base := 0, len := 1 } := fun _ => rfl
  have hc : gateCycle (portAt gateSt 0) { base := 0, len := 1 } = 4000 := by decide +kernel
  have he : gateEntries (portAt gateSt 0) { base := 0, len := 1 } = [(0xFF, 4000)] := by decide +kernel
  rw [h]
  unfold runningEntry
  simp only [hc, he]
  rw [if_neg (by decide)]
  unfold entryAt
  rw [if_pos (Nat.mod_lt _ (by decide))]
  rfl
theorem witness_EgressAndGatesComplete :
    let q : RMsg := { m := { op := 4, service := 2, dst := 5 } }
    let u (l : Tab (List RMsg)) : State := pumpCtrl (settleGate (routeAll (queueSt l)) 0) 0
    let pk (l : Tab (List RMsg)) : Option (Nat × Nat × Port) := pickQueue (u l) (portAt (u l) 0) (((portHeads (u l) 0).filter (headReady (u l) 0 (portAt (u l) 0))).map fun q => ⟨q.1, q.2.1, 256 * nFlits q.2.2.m⟩)
    let ho : State := { s0 with out := [(0, .msix 0 0 0 0)] }
    let g : GateList := { base := 0, len := 1 }
    (let l := [(queueKey 0 2 0, [q])];
      (portAt (queueSt l) 0).sending = none ∧ (portAt (u l) 0).st = .up ∧ (portAt (u l) 0).sending = none ∧
      ((pk l).map fun x => (x.1, x.2.1)) = some (2, 0) ∧ ((portHeads (u l) 0).find? fun q => decide (q.1 = 2 ∧ q.2.1 = 0)).isSome = true) ∧
    (pk []).isNone = true ∧
    ((pickQueue (settleGate ho 48) (portAt (settleGate ho 48) 48) ((tlpHeads (tlpFree ho.out []) []).filter fun r => shapedOk (grainAt ho (srcPort 48)) (portAt ho 48) r.svc r.ten && openAt (portAt ho 48) r.svc (merNow ho))).map fun x => (x.1, x.2.1)) = some (0, 0) ∧
    (takeTlp 0 0 (settleGate ho 48).out []).isSome = true ∧ outTlp (.msix 0 0 0 0) = some (0, 0, 4) ∧
    tabHas (linkSt id).fab.ports 0 = true ∧
    ((portAt gateSt 0).sending = none ∧ (portAt gateSt 0).gpend = none) ∧
    (let s := linkSt fun p => { p with gpend := some { g with start := 0 } };
      (portAt s 0).gpend = some { g with start := 0 } ∧ s.time.acts = [] ∧ s.time.armonly = false ∧ 0 ≤ merAt (advance s (0 - merAt s (srcPort 0))) (srcPort 0)) ∧
    ({ s0 with fab := { s0.fab with sampling := some {} } } : State).fab.sampling = some {} := by dsimp only; and_intros <;> decide +kernel

theorem witness_TrafficCommandsComplete :
    let tl (x : Inflight) : State := { offer s0 x with time := { s0.time with st := .locked } }
    let sh (l t : Nat) := inf0 0x0B07 [(0, l), (12, 0), (13, 1), (20, t)]
    let sc (b : Nat) : Inflight := inf0 0x0B08 ((16, b) :: (List.range 6).map fun i => (2 + i, 1))
    let scB : Inflight := { sc 8 with hdata := some (List.replicate 64 1) }
    let gw (k : Nat) := inf0 0x0B09 [(4, k)]
    let gwB : Inflight := { gw 1 with hdata := some (bytesAt 8 [(4, 40)]) }
    let gc (t : Nat) := inf0 0x0B09 [(1, 1), (28, t)]
    let sa (k : Nat) := inf0 0x0B0A [(16, k), (20, 10)]
    (∀ l ∈ [0, 3], ∀ t ∈ [0, 1], let z := sh l t
      Takes (tl z) r0 0x0B07 z (shaperChecks z.entry) ∧ schedWaits (begun (tl z) r0) r0 = false ∧ parFld z.entry 0 1 0 = l ∧
      (if t = 0 then par z.entry 16 8 = 0 else par z.entry 16 8 ≠ 0 ∧ schedRefuse (begun (tl z) r0) (par z.entry 16 8) = none)) ∧
    (∀ z ∈ [sc 0, sc 8, scB], Takes (offer s0 z) r0 0x0B08 z (chkFabSched r0 (offer s0 z) z.entry)) ∧ par (sc 0).entry 16 8 = 0 ∧ par (sc 8).entry 16 8 ≠ 0 ∧
      hostBuf (sc 8) = none ∧ hostBuf scB = some (List.replicate 64 1) ∧
    (∀ z ∈ [gw 0, gw 1, gwB], Takes (offer s0 z) r0 0x0B09 z (chkFabGateWrite r0 (offer s0 z) z.entry) ∧ parFlg z.entry 1 0 = false ∧ portsOf (parFld z.entry 0 5 0) = [0] ∧
      touchesList (portAt (settleGate (begun (offer s0 z) r0) 0) 0) (parFld z.entry 2 8 0) (parFld z.entry 4 8 0) = false) ∧
      hostBuf (gw 1) = none ∧ hostBuf gwB = some (bytesAt 8 [(4, 40)]) ∧ zeroBytes (bytesAt 8 [(4, 40)]) 1 3 = true ∧
    (∀ t ∈ [0, 1], let z := gc t
      Takes (tl z) r0 0x0B09 z (chkFabGateCommit r0 (tl z) z.entry) ∧ parFlg z.entry 1 0 = true ∧ schedWaits (begun (tl z) r0) r0 = false ∧ portsOf (parFld z.entry 0 5 0) = [0] ∧
      (let w := settleGateActs (settleGate (begun (tl z) r0) 0);
        (t ≠ 0 → schedRefuse w (par z.entry 24 8) = none) ∧ w.time.acts.length < 256 ∧ (portAt w 0).gpend = none ∧
        listBad (portAt w 0) { base := parFld z.entry 16 8 0, len := parFld z.entry 18 8 0 } = false)) ∧
    (∀ k ∈ [0, 6], Takes (offer s0 (sa k)) r0 0x0B0A (sa k) (chkFabSample r0 (offer s0 (sa k)) (sa k).entry) ∧ parFld (sa k).entry 16 4 0 = k) := by
  dsimp only; and_intros <;> decide +kernel

/-- The time unit changed. -/
def timeSt (f : TimeUnit → TimeUnit) : State := { linkSt id with time := f s0.time }
/-- A TIME message of stratum 1 from port 0 that answers one of this module's. -/
def timeMsg (b : Nat) : RMsg := { m := { op := 6, service := 1, data := bytesAt 208 [(8, b), (24, 1)] }, inPort := some 0 }
theorem witness_MeridianCommandsComplete :
    let hs (f : TimeUnit → TimeUnit) : State := timeSt f
    let bx (f : TimeUnit → TimeUnit) (b : Nat) : State := let s := timeSt f; ({ s with fab := { s.fab with inbox := [timeMsg b] } } : State)
    let rx (s : State) : State := modTPort (doneMsg (police s (timeMsg 1)).1 (timeMsg 1)) 0 fun t => { t with stratum := 1, child := false }
    let act : SchedAct := { num := 0, t := 0, kind := .route }
    (fnPresent s0 0 = true ∧ tabFind s0.time.latches 0 = none ∧ tabFind (hs fun t => { t with latches := [(0, 7)] }).time.latches 0 = some 7) ∧
    (let s := hs fun t => { t with source := 0 };
      s.time.source ≠ 1 ∧ edgeStray s = false ∧ s.time.seconds = none) ∧
    (let s := hs fun t => { t with source := 0, seconds := some 0 };
      s.time.source ≠ 1 ∧ s.time.seconds = some 0 ∧ edgeStray s = false ∧
      (takeOffset { s with time := { s.time with ppsAt := some s.clk.ticks, seconds := some 1, parent := 0x3F } } (aheadOf s 0)).time.st = .locked) ∧
    (let z := hs fun t => { t with source := 0, seconds := some 0 };
      let s : State := { z with clk := { s0.clk with mer := 5 } };
      (takeOffset { s with time := { s.time with ppsAt := some s.clk.ticks, seconds := some 1, parent := 0x3F } } (aheadOf s 0)).time.st ≠ .locked) ∧
    (∀ x ∈ [(0, SyncState.free), (2, SyncState.free), (0, SyncState.locked)], let s := { s0 with time := { s0.time with source := x.1, st := x.2, ppsAt := some 0 } }
      s.time.ppsAt = some 0 ∧ s.time.source ≠ 1 ∧
      (let u := advanceTo s (0 + 6000000000)
        let v := datumNote u { u with time := { u.time with ppsloss := true, ppsAt := none } }
        v.time.source = x.1 ∧ v.time.st = x.2)) ∧
    (hs fun t => { t with hold := 5 }).time.hold ≠ 0 ∧
    (portAt (linkSt id) 0).st = .up ∧
    (inboxOf (bx id 0) 6 = some (timeMsg 0) ∧ (timeMsg 0).inPort = some 0) ∧
    (∀ p ∈ [0, 1], fabricTime (rx (bx (fun t => { t with source := p }) 1)) = decide (p = 1)) ∧
    ((followParent (rx (bx (fun t => { t with source := 1, ports := [(0, { stratum := 1 })] }) 1))).time.parent = 0) ∧
    (followParent (rx (bx (fun t => { t with source := 1, parent := 3, ports := [(3, { stratum := 1 })] }) 1))).time.parent ≠ 0 ∧ fieldAt (timeMsg 1).m.data 8 8 ≠ 0 ∧
    (let s := hs fun t => { t with acts := [act] };
      s.time.acts.find? (fun a => decide (a.num = 0)) = some act ∧ act.change = none ∧ (advanceMer s 0).time.armonly = false) := by
  dsimp only; and_intros <;> decide +kernel

/-- A locked time unit. -/
def lockSt (x : Inflight) (cs : List CoordChange) : State := { offer s0 x with time := { s0.time with st := .locked, coords := cs } }
/-- A mode-change message of a kind, from module 0. -/
def modeRq (k : Nat) : RMsg := { m := modeMsg k 0 1 0 0 0 0, inPort := some 0 }
/-- A module that has received it, with a change and actions. -/
def modeSt (k : Nat) (acts : List SchedAct) (cs : List PartChange) (ds : List CoordChange) : State :=
  { timeSt (fun t => { t with st := .locked, acts := acts, changes := cs, coords := ds }) with fab := { (linkSt id).fab with inbox := [modeRq k] } }
theorem witness_ModeChangesComplete :
    let cf (b : Nat) (h : Option Bytes) : Inflight := { inf0 0x0201 [(0, 1), (4, 10), (16, b)] with hdata := h }
    let ar (h : Option Bytes) : Inflight := { inf0 0x0202 [(4, 10), (12, 1), (20, 1)] with hdata := h }
    let st := inf0 0x0204 []
    let di := inf0 0x0203 [(0, 1)]
    let cc (d : Option Bool) (a : List Nat) : CoordChange := { id := 1, t := 2 ^ 40, parts := [0], armed := a, decided := d }
    let pc (v : Option Bool) : PartChange := { id := 1, verdict := v }
    let act : SchedAct := { num := 0, t := 0, kind := .cap [] }
    (∀ z ∈ [cf 0 none, cf 8 none, cf 8 (some [])], Takes (offer s0 z) r0 0x0201 z (chkTimeConfig r0 (offer s0 z) z.entry)) ∧ s0.time.st ≠ .acquiring ∧
      par (cf 0 none).entry 16 8 = 0 ∧ par (cf 8 none).entry 16 8 ≠ 0 ∧ hostBuf (cf 8 none) = none ∧ hostBuf (cf 8 (some [])) = some [] ∧
    Takes (offer s0 st) r0 0x0204 st (chkTimeStatus r0 (offer s0 st) st.entry) ∧
    (∀ h ∈ [none, some (leBytes 4 5)], let s := lockSt (ar h) [];
      Takes s r0 0x0202 (ar h) (chkTimeArm r0 s (ar h).entry) ∧ s.time.coords = [] ∧ synced s = true ∧ merNow s + 2 * (par (ar h).entry 4 4 * usTicks) ≤ par (ar h).entry 8 8 ∧
      coordOf s (par (ar h).entry 0 4) = none ∧ hostBuf (ar h) = h) ∧
    (let s := lockSt di [cc none []];
      Takes s r0 0x0203 di (noChecks s di.entry) ∧ coordOf s (par di.entry 0 4) = some (cc none []) ∧ merNow s < (cc none []).t - (cc none []).guard) ∧
    (∀ k ∈ [0x10, 0x11, 0x12, 0x13, 0x14, 0x15], modeMsgOf (modeSt k [] [] []) k = some (modeRq k)) ∧
    (let w (l : List SchedAct) := doneMsg (police (modeSt 0x10 l [] []) (modeRq 0x10)).1 (modeRq 0x10);
      armRefuse (w []) 0 0 ≠ 0 ∧ armRefuse (w [act]) 0 0 = 0) ∧ modeT (modeRq 0x10).m = 0 ∧ modeMask (modeRq 0x10).m = 0 ∧
    (∀ v ∈ [none, some true], let s := modeSt 0 [{ act with change := some (0, 1) }] [pc v] [];
      s.time.changes.find? (fun c => decide (c.coord = 0 ∧ c.id = 1)) = some (pc v) ∧ (pc v).broken = false ∧
      (∀ a ∈ boundActs (dropChange (advanceMer s 0) 0 1) 0 1, canApply (dropChange (advanceMer s 0) 0 1) a = true) ∧
      (boundActs (dropChange (advanceMer s 0) 0 1) 0 1).length = 1) ∧
    (∀ a ∈ [[0], []], coordOf (modeSt 0 [] [] [cc none a]) 1 = some (cc none a)) ∧ coordOf (modeSt 0 [] [] [cc (some true) [0]]) 1 = some (cc (some true) [0]) ∧
    (let w (ds : List CoordChange) := modCoord (doneMsg (police (modeSt 0x15 [] [] ds) (modeRq 0x15)).1 (modeRq 0x15)) 1 fun c => { c with switched := [0] };
      coordOf (w []) 1 = none ∧ coordOf (w [cc (some true) [0]]) 1 = some { cc (some true) [0] with switched := [0] }) := by
  dsimp only; and_intros <;> decide +kernel

/-- The host interface changed. -/
def hostSt (st : StartState) (f : HostIf → HostIf) : State := { s0 with ctl := { s0.ctl with start := st }, host := f s0.host }
theorem witness_StartsAndHostResetsComplete :
    let fl (k : Nat) : State := { s0 with power := { s0.power with flow := k } };
    (∀ k ∈ [0, 500], (modStore (coldStart (powerGone (fl k))) fun v => { v with powerOn := (powerGone (fl k)).store.powerOn }).ctl.start = if k = 0 then .coolant 0 else .starting 0 true) ∧ s0.ctl.start ≠ .off ∧ (hostSt (.coolant 0) id).ctl.start = .coolant 0 ∧
    s0.host.perst = false ∧ s0.host.linkUp = false ∧ ctlRuns s0 = true ∧ linkOk 128 8 = true ∧ 0 ∉ s0.power.extest ∧
    (hostSt .up fun h => { h with linkUp := true }).host.linkUp = true ∧
    (let s := hostSt .up fun h => { h with vfEnable := true, numVfs := 2 };
      fnPresent s 1 = true ∧ s.host.vfEnable = true ∧ s.host.numVfs ≤ 3 ∧ 1 < s.host.numVfs) ∧ s0.host.vfEnable = false ∧
    (tabFind s0.host.resets 0 = some {} ∧ resetBusy s0 0 {} = false ∧ ({} : FnReset).kind ≠ .conv ∧ startingCold s0 = some true) ∧
    (∀ n ∈ [0, 1, 64], let s := hostSt .up fun h => { h with vfEnable := true, numVfs := 1, linkUp := true, resets := [(n, { kind := .conv })] };
      tabFind s.host.resets n = some { kind := .conv } ∧ ctlRuns s = true ∧ resetBusy s n { kind := .conv } = false ∧ s.host.linkUp = true ∧
      startingCold s = none ∧ s.ctl.recovery = false ∧ fnPresent s n = true) := by
  dsimp only; and_intros <;> decide +kernel

theorem witness_HostAccessesComplete :
    let fs (f : Func → Func) : State := modFunc s0 0 f
    let rs (x : HostXfer) : State := { s0 with host := { s0.host with reads := [x] } };
    (bar2Hit s0 0 0 8 = true ∧ (funcAt s0 0).ready = false ∧ (funcAt (fs fun f => { f with ready := true }) 0).ready = true ∧
      bar2Hit (fs fun f => { f with ready := true }) 0 0 8 = true) ∧
    (funcAt (fs fun f => { f with barq := [.rd 1 0 8 0 false none] }) 0).barq.find? isRd = some (.rd 1 0 8 0 false none) ∧
    fnPresent s0 0 = true ∧ fnPresent s0 64 = true ∧ s0.host.inval = [] ∧
    (vecAt (funcAt (fs fun f => { f with vecs := [(3, { due := some 5 })] }) 0) 3).due = some 5 ∧ vecCount 0 = 2048 ∧
    (∀ x ∈ [HostXfer.cmd r0, .stream 0, .nvme 0 0, .t3 0 0], x ∈ (rs x).host.reads) ∧
    canFail (rs (.cmd r0)) (.cmd r0) 5 = true ∧ canFail (rs (.cmd r0)) (.cmd r0) 4 = true ∧
    (∀ v ∈ [0, 0x80000000, 0x80000100], let w := modIngress (tlpIn s0 0 4) 1 fun g => { g with shWord := bitsOf v 30 29 * 2 ^ 29 + bitsOf v 23 0 };
      bitOf v 31 = decide (v ≠ 0) ∧ bucketGood (ingressSet (ingressAt w 1)) = decide (v = 0x80000100)) ∧
    ctlRuns s0 = true ∧ s0.ctl.start ≠ .off ∧ debugOpen ({ s0.ctl with lifecycle := 1 }) = false := by
  dsimp only; and_intros <;> decide +kernel

/-- PF1's controller enabled, with its admin queues, an I/O queue pair 1, and one admin command taken before: opcode and bytes of its entry. -/
def nvCmd0 (op : Nat) (l : List (Nat × Nat)) (d : Option Bytes) (q : Nat) : NvCmd := { sq := q, cid := 0, e := bytesAt 64 ((0, op) :: l), hdata := d }
def nvSt (c : NvCmd) (f : Store → Store) : State :=
  { modFunc s0 64 (fun g => { g with ready := true }) with store := f { s0.store with
    csts := 1, cmds := [c], sqs := [(0, { size := 4 }), (1, { size := 4, cq := 1 })], cqs := [(0, { size := 4 }), (1, { size := 4 })] } }
theorem nv_takes {s : State} {sq cid op : Nat} {entry : Bytes} {admin : Bool} {c : NvCmd}
    (h : nvUp s = true ∧ s.store.cmds.find? (fun c => decide (c.sq = sq ∧ c.cid = cid)) = some c ∧ decide (sq = 0) = admin ∧ byteAt c.e 0 = op ∧ nvRoom s sq = true ∧
      (admin = true ∨ s.power.stage ≠ 4) ∧ (c.aborted = false ∧ c.xfer = false) ∧ bitsOf (byteAt c.e 1) 1 0 = 0 ∧ bitsOf (byteAt c.e 1) 7 6 = 0) :
    NvTakes s sq cid entry admin op s c :=
  ⟨by unfold nvTake; rw [h.1, h.2.1]; rfl, h.2.2.1, h.2.2.2.1, h.2.2.2.2.1, h.2.2.2.2.2.1, h.2.2.2.2.2.2.1, h.2.2.2.2.2.2.2⟩
set_option maxRecDepth 100000 in
theorem witness_NvmeAdminComplete :
    let n1 (l : List (Nat × Nat)) (op : Nat) : Nat × List (Nat × Nat) := (op, l)
    let cm (z : Nat × List (Nat × Nat)) (d : Option Bytes) : NvCmd := nvCmd0 z.1 z.2 d 0
    let st (z : Nat × List (Nat × Nat)) : State := { nvSt (cm z none) id with enChans := 0 }
    let all := [(4, 255), (5, 255), (6, 255), (7, 255)]
    let cq := n1 [(40, 2), (42, 1), (44, 1)] 5
    let sq := n1 [(40, 2), (42, 1), (44, 1), (46, 1)] 1
    let dsq := n1 [(40, 1)] 0
    let dcq := n1 [(40, 2)] 4
    let ide := n1 [(40, 6)] 6
    let lg := n1 [(40, 3)] 2
    let sf (f : Nat) := n1 [(40, f)] 9
    let gf (f : Nat) := n1 [(40, f)] 10
    let ab := n1 [(40, 1)] 8
    let ns (k : Nat) := n1 ((40, k) :: all) 13
    let att := n1 [(4, 1)] 21
    let fmt := n1 all 0x80
    let san (k : Nat) := n1 [(40, k)] 0x84
    let no := n1 [] 0x7F
    let zs := [cq, sq, dsq, dcq, ide, lg, ab, ns 0, ns 1, att, fmt, san 1, san 2, n1 [] 12] ++ ([1, 2, 4, 5, 6, 7, 9, 12, 14].map sf) ++ ([1, 2, 4, 9, 12, 14].map gf)
    let other (b : Bool) (t : Nat) : State := nvSt (cm ab none) fun v => { v with
      cmds := [cm ab none, { nvCmd0 0 [] none 1 with started := b }], cqs := [(0, { size := 4 }), (1, { size := 4, tail := t })] }
    (∀ z ∈ zs, NvTakes (st z) 0 0 [] true z.1 (st z) (cm z none)) ∧
    (∀ z ∈ [(false, 0), (true, 0), (false, 3)], NvTakes (other z.1 z.2) 0 0 [] true 8 (other z.1 z.2) (cm ab none)) ∧
    (cdw (cm cq none) 10 = 2 + 1 * 65536 ∧ cdw (cm cq none) 11 = 1 ∧ ioCqAt (st cq) 2 = none ∧ fieldAt (cm cq none).e 24 8 % nvPage (st cq) = 0) ∧
    (cdw (cm sq none) 11 = 65537 ∧ ioSqAt (st sq) 2 = none ∧ (ioCqAt (st sq) 1).isSome ∧ (ioSqAt (st dsq) 1).isSome) ∧
    (let u := nvSt (cm dcq none) fun v => { v with cqs := (2, { size := 4 }) :: v.cqs };
      (ioCqAt u 2).isSome ∧ ∀ x ∈ u.store.sqs, x.2.cq ≠ 2) ∧
    (idData (st ide) (cm ide none) = .ok (List.replicate 4096 0) ∧ NvFits (st ide) (cm ide none) 4096) ∧
    ((logPage (st lg) 3).isSome ∧ NvFits (st lg) (cm lg none) 4) ∧
    (∀ f ∈ [1, 2, 4, 5, 6, 7, 9, 12, 14], cdw (cm (sf f) none) 10 = f ∧ cdw (cm (sf f) none) 11 = 0 ∧ NvFits (st (sf f)) (cm (sf f) none) 256) ∧
    NvFits (st (sf 14)) (cm (sf 14) none) 8 ∧ (st (sf 2)).atlas.t4Pool = 0 ∧ dmaNs (st (sf 2)) = false ∧
    (∀ b ∈ [false, true], (other b 0).store.cmds.find? (fun x => decide (x.sq = 1 ∧ x.cid = 0 ∧ !(decide (1 = 0 ∧ 0 = 0)))) = some { nvCmd0 0 [] none 1 with started := b }) ∧
    (nvRoom (other false 0) 1 = true ∧ nvRoom (nvDone (other false 0) (nvCmd0 0 [] none 1) nvAborted 0) 0 = true ∧ nvRoom (other false 3) 1 = false) ∧
    (let d := bytesAt 4096 [(0, 1), (8, 1)];
      NvFits (st (ns 0)) (cm (ns 0) (some d)) 4096 ∧ byteAt (padTo 4096 d) 26 ≤ 1 ∧ fieldAt (padTo 4096 d) 0 8 = 1 ∧ fieldAt (padTo 4096 d) 8 8 = 1 ∧
      nsCap (st (ns 0)) + 1 * 512 ≤ usableFlash - (st (ns 0)).atlas.t4Pool * 4096 ∧ tabGap (st (ns 0)).store.nss 1 33 = some 1) ∧
    (nvNsid (cm (ns 1) none) = 0xFFFFFFFF ∧ inTrial (st (ns 1)) = false) ∧
    (nvNsid (cm att none) = 1 ∧ fieldAt (padTo 4096 (bytesAt 4 [(0, 1)])) 0 2 = 1 ∧ fieldAt (padTo 4096 (bytesAt 4 [(0, 1)])) 2 2 = 0) ∧
    (∀ z ∈ [fmt, san 2], spareOut (st z) = false ∧ NvFree (st z) (cm z none) (nvRanges (st z) (cm z none)) true) ∧
    (nvTake (st no) 0 0 [] = some (st no, cm no none) ∧ nvRoom (st no) 0 = true) := by
  dsimp only
  refine ⟨fun z hz => nv_takes ?_, fun z hz => nv_takes ?_, ?_⟩
  · revert z; decide +kernel
  · revert z; decide +kernel
  · and_intros
    all_goals first
      | decide +kernel
      | (show 0 + 1 * 512 ≤ usableFlash - 0 * 4096; unfold usableFlash; split <;> omega)

/-- A namespace of 16 LBAs, attached, and one I/O command of queue 1 on it. -/
def ioCmd (op : Nat) (l : List (Nat × Nat)) (f : NvCmd → NvCmd) : NvCmd := f { sq := 1, e := bytesAt 64 ((0, op) :: (4, 1) :: l) }
def ioSt (c : NvCmd) (f : Store → Store) : State :=
  { nvSt c (fun v => f { v with nss := [(1, { nsze := 16, attached := true })] }) with enChans := 0 }
theorem witness_NvmeIoComplete :
    let st (c : NvCmd) : State := ioSt c id
    let rd (f : NvCmd → NvCmd) := ioCmd 2 [] f
    let wr (f : NvCmd → NvCmd) := ioCmd 1 [] f
    let wz := ioCmd 8 [] id
    let fl := ioCmd 0 [] id
    let dm (k : Nat) := ioCmd 9 [(44, k)] fun c => { c with hdata := some [] }
    let on (f : NvCmd → NvCmd) (c : NvCmd) : NvCmd := { f c with started := true }
    let aft (op : Nat) := ioCmd op [] fun c => { c with after := some 0 }
    let cs := [rd id, rd (on id), rd (on fun c => { c with failed := true }), wr id, wr (on fun c => { c with hdata := some [] }), wz, fl, dm 0, dm 4, aft 1, aft 8, aft 0, aft 9]
    let wb1 := ioSt fl fun v => { v with wb := [{}] }
    let up : State := { nvSt (nvCmd0 0 [] none 0) id with enChans := 0 };
    (∀ c ∈ cs, NvTakes (st c) 1 0 [] false (byteAt c.e 0) (st c) c) ∧ NvTakes wb1 1 0 [] false 0 wb1 fl ∧
    (∀ c ∈ cs, nvNsid c = 1 ∧ (nsSeen (st c) 1).isSome ∧ (byteAt c.e 0 = 9 ∨ ioSlba c = 0) ∧ ioNlb c = 1 ∧ spareOut (st c) = false ∧ wbDurable (st c) 0 = true) ∧
    (∀ c ∈ cs.filter fun c => !c.started, NvFree (st c) c [(1, 0, 1)] true ∧ NvFree (st c) c [(1, 0, 1)] false ∧ NvFree (st c) c (nvRanges (st c) c) true) ∧
    (∀ c ∈ cs, nvReading (st c) c = false ∧ readLost (st c) 1 0 512 = false ∧ NvFits (st c) c 512 ∧ NvFits (st c) c 16 ∧ wbUsed (st c) + 512 ≤ 2 ^ 30) ∧
    (wr id).hdata = none ∧ (st fl).store.wb = [] ∧ wb1.store.wb ≠ [] ∧
    ((∀ r ∈ nvRanges (st (dm 4)) (dm 4), r.2.1 + r.2.2 ≤ 16) ∧ bitOf (cdw (dm 4) 11) 2 = true ∧ bitOf (cdw (dm 0) 11) 2 = false) ∧
    (let w := countEv up (srcFn 64) 0x0802 0;
      nvUp w = true ∧ ((ioSqAt w 1).map (·.size)) = some 4 ∧ ((ioCqAt w 1).map (·.size)) = some 4 ∧ ioSqAt w 3 = none ∧ ioCqAt w 3 = none) ∧
    (funcAt up 64).ready = true ∧
    (let s := nvSt (nvCmd0 0 [] none 0) fun v => { v with cqs := [(1, { size := 4, held := 1 })] };
      ioCqAt s 1 = some { size := 4, held := 1 }) ∧
    (let s := nvSt (nvCmd0 0 [] none 0) fun v => { v with feats := [(0xC0000, 1)], apst := [(0, 256 + 8)] };
      featAt s 0x0C 0 % 2 = 1 ∧ tabGet s.store.apst s.store.psNow 0 / 256 % 2 ^ 24 ≠ 0 ∧ nvBusy s = false ∧ bitsOf (tabGet s.store.apst s.store.psNow 0) 7 3 = 1) := by
  dsimp only
  refine ⟨fun c hc => nv_takes ?_, nv_takes ?_, ?_⟩
  · revert c; decide +kernel
  · decide +kernel
  · and_intros <;> decide +kernel

/-- Channel 0 changed. -/
def chanSt (f : Chan → Chan) : State := modChan { s0 with enChans := BitVec.ofNat 40 1 } 0 f
/-- Block 1 of channel 0 is closed, with a place that is valid no more, and failed or not; garbage collection has no urgency of its own. -/
def gcSt (k : Nat) : State :=
  let s := chanSt fun c => { c with blocks := [(1, { closed := true, used := 1, failed := k })] }
  { s with store := { s.store with gccrit := 0, gclow := 0 } }
theorem gcSt_critical (k : Nat) : gcCritical (gcSt k) 0 1 = decide (k ≠ 0) := by
  have h : (tabGet (chanAt (gcSt k) 0).blocks 1 {}).failed = k := rfl
  unfold gcCritical
  rw [h, show (gcSt k).store.gccrit = 0 from rfl]
  simp
theorem witness_FlashWorkComplete :
    let gc : GcRun := { src := 1, dst := 2 }
    let full : Blk := { closed := true, used := 1 }
    let rl (r : Option CmdRef) : RLock := { cmd := r, expires := 5 }
    let ls (r : Option CmdRef) : State := { s0 with store := { s0.store with locks := [(0, rl r)] } }
    let wb : State := { s0 with store := { s0.store with wb := [{}] } };
    (∀ s ∈ [chanSt id, chanSt fun c => { c with ops := [(.urgent, .dma r0 0)] }, chanSt fun c => { c with ops := [(.dma, .dma r0 0)] }],
      s.enChans.getLsbD 0 = true ∧ s.store.psNow ≠ 2) ∧
    (∀ k ∈ [0, 1], gcPick (gcSt k) 0 = some 1 ∧ opOf (chanAt (gcSt k) 0) .urgent = none ∧ (gcSt k).enChans.getLsbD 0 = true ∧ (gcSt k).store.psNow ≠ 2) ∧
    (gcCritical (gcSt 1) 0 1 = true ∧ gcCritical (gcSt 0) 0 1 = false ∧ ∀ i < 5, wrrHas (gcSt 0) 0 (some 1) i = false) ∧
    (let s := chanSt fun c => { c with ops := [(.urgent, .dma r0 0)] };
      gcPick s 0 = none ∧ opOf (chanAt s 0) .urgent = some (.dma r0 0)) ∧
    (let s := chanSt fun c => { c with ops := [(.dma, .dma r0 0)] };
      gcPick s 0 = none ∧ opOf (chanAt s 0) .urgent = none ∧ wrrHas s 0 none 3 = true) ∧
    (wb.store.wb = [{}] ∧ wb.store.psNow ≠ 2 ∧ programEnt wb {} = some wb) ∧
    ((chanAt (chanSt fun c => { c with gc := some gc }) 0).gc = some gc ∧ gc.dst ∈ [2] ∧ gc.dst ∉ [1]) ∧
    ((chanAt (chanSt fun c => { c with openHost := some 3 }) 0).openHost = some 3 ∧ (chanAt (chanSt fun c => { c with openHost := some 3 }) 0).gc = none) ∧
    3 ∈ (chanAt (chanSt fun c => { c with erasing := [3] }) 0).erasing ∧
    (tabFind (chanAt (chanSt fun c => { c with blocks := [(1, { full with valid := [(0, 7)] })] }) 0).blocks 1 = some { full with valid := [(0, 7)] } ∧
      tabFind ({ full with valid := [(0, 7)] } : Blk).valid 0 = some 7) ∧
    (∀ r ∈ [none, some r0], tabFind (ls r).store.locks 0 = some (rl r) ∧ (rl r).active = false ∧ lockBusy (ls r) (rl r) = false ∧ (rl r).expires ≠ 0 ∧ (rl r).dma = none) := by
  dsimp only
  and_intros
  all_goals first
    | exact gcSt_critical _
    | decide +kernel

/-- A command offered beside a pool of four sectors and a namespace of 16 LBAs. -/
def storeSt (x : Inflight) (ls : Tab RLock) (pages : Tab Leaf) : State :=
  { offer s0 x with enChans := 0, store := { s0.store with nss := [(1, { nsze := 16 })], locks := ls }, atlas := { s0.atlas with t4Pool := 4, ctx := [(0, { pages := pages })] } }
theorem witness_StoreCommandsComplete :
    let sp (n : Nat) := inf0 0x0C01 [(0, n)]
    let lk (o : Nat) := inf0 0x0C02 [(0, o), (4, 1), (16, 1)]
    let ar := inf0 0x0C03 [(0, 1), (1, 1), (2, 1), (4, 2), (6, 1)]
    let he := inf0 0x0C04 []
    let tile : Tab Leaf := [(0, { loc := .t4 2, clen := 0, pr := true, mig := true })]
    let st (x : Inflight) := storeSt x [] [];
    (∀ n ∈ [2, 8], Takes (st (sp n)) r0 0x0C01 (sp n) (noChecks (st (sp n)) (sp n).entry) ∧ inTrial (begun (st (sp n)) r0) = false ∧ par (sp n).entry 0 8 = n ∧ (begun (st (sp n)) r0).atlas.t4Pool = 4) ∧
    8 * 4096 + nsCap (begun (st (sp 8)) r0) ≤ usableFlash ∧
    (let s := storeSt (sp 2) [] []
      let w : State := { begun s r0 with store := { (begun s r0).store with t4Drain := some 2 } }
      t4Beyond w 2 = []) ∧
    (let s := storeSt (sp 2) [] tile
      let w : State := { begun s r0 with store := { (begun s r0).store with t4Drain := some 2 } };
      (t4Beyond w 2).length = 1 ∧ ((t4Beyond (drainT4s w (untried (sp 2) (t4Beyond w 2))).1 2).any fun q => q.2.2.mig) = true ∧ Takes s r0 0x0C01 (sp 2) (noChecks s (sp 2).entry)) ∧
    (Takes (st (lk 0)) r0 0x0C02 (lk 0) (lockChecks (lk 0).entry) ∧ parFld (lk 0).entry 0 1 0 = 0 ∧ (st (lk 0)).store.locks = [] ∧ nsAt (begun (st (lk 0)) r0) 1 = some { nsze := 16 } ∧
      par (lk 0).entry 4 4 = 1 ∧ par (lk 0).entry 8 8 = 0 ∧ par (lk 0).entry 16 8 = 1 ∧ tabGap (begun (st (lk 0)) r0).store.locks 0 64 = some 0) ∧
    (∀ c ∈ [none, some ⟨0, 0, 2⟩], let s := storeSt (lk 1) [(0, { cmd := c })] []
      Takes s r0 0x0C02 (lk 1) (lockChecks (lk 1).entry) ∧ parFld (lk 1).entry 0 1 0 = 1 ∧ tabFind (begun s r0).store.locks (parFld (lk 1).entry 2 5 0) = some { cmd := c }) ∧
    (Takes (st (lk 2)) r0 0x0C02 (lk 2) (lockChecks (lk 2).entry) ∧ parFld (lk 2).entry 0 1 0 = 2) ∧
    (Takes (st ar) r0 0x0C03 ar (chkStoreArb r0 (st ar) ar.entry) ∧ inTrial (begun (st ar) r0) = false) ∧
    Takes (st he) r0 0x0C04 he (chkStoreHealth r0 (st he) he.entry) := by
  dsimp only
  and_intros
  all_goals first
    | decide +kernel
    | (show 8 * 4096 + 8192 ≤ usableFlash; unfold usableFlash; split <;> omega)

/-- The control die changed, a command offered. -/
def ctlSt (x : Inflight) (f : Control → Control) : State := { offer s0 x with ctl := f { s0.ctl with start := .up } }
theorem witness_FirmwareComplete :
    let no := inf0 0x0D05 []
    let dl (n : Nat) (h : Option Bytes) : Inflight := { inf0 0x0D01 [(12, n)] with hdata := h }
    let cm := inf0 0x0D02 [(0, 1)]
    let ac (t : Nat) := inf0 0x0D03 [(0, 1), (13, t)]
    let cf := inf0 0x0D04 []
    let fs := inf0 0x0D06 []
    let trial (x : Inflight) : State := ctlSt x fun c => { c with slotB := { st := slTrial }, confirms := some (1, 5) }
    let valid (x : Inflight) : State := { ctlSt x (fun c => { c with slotB := { st := slValid } }) with time := { s0.time with st := .locked } }
    ctlRuns s0 = true ∧ ((ctlSt no id).ctl.start = .up ∧ (ctlSt no id).ctl.recovery = false) ∧ s0.ctl.start = .starting 0 true ∧ s0.ctl.chosen = false ∧
    ((trial no).ctl.confirms = some (1, 5) ∧ slotIn (trial no).ctl slTrial = some 1) ∧
    (∀ z ∈ [dl 0 none, dl 8 none, dl 8 (some [])], Takes (ctlSt z id) r0 0x0D01 z (chkFwDownload r0 (ctlSt z id) z.entry)) ∧
      hostBuf (dl 8 none) = none ∧ hostBuf (dl 8 (some [])) = some [] ∧ par (dl 8 none).entry 12 4 = 8 ∧ par (dl 0 none).entry 12 4 = 0 ∧
    (Takes (ctlSt cm id) r0 0x0D02 cm (noChecks (ctlSt cm id) cm.entry) ∧ (fwSlot (begun (ctlSt cm id) r0).ctl 1).st = slEmpty ∧ parFld cm.entry 0 0 0 = 1 ∧ slotPending (begun (ctlSt cm id) r0) 1 = false) ∧
    (∀ t ∈ [0, 1], let s := valid (ac t)
      Takes s r0 0x0D03 (ac t) (chkFwActivate r0 s (ac t).entry) ∧ schedWaits (begun s r0) r0 = false ∧ (begun s r0).ctl.act = none ∧ canActivate (begun s r0) 1 = true ∧
      (if t = 0 then par (ac t).entry 8 8 = 0 else par (ac t).entry 8 8 ≠ 0 ∧ schedRefuse (begun s r0) (par (ac t).entry 8 8) = none)) ∧
    (∀ s ∈ [trial cf, ctlSt cf id], Takes s r0 0x0D04 cf (chkFwConfirm r0 s cf.entry) ∧ parFlg cf.entry 0 0 = false ∧ (bootWrite (begun s r0) 0).isSome = true) ∧
    (((bootWrite (begun (trial cf) r0) 0).bind fun w => slotIn w.ctl slTrial) = some 1 ∧ ((bootWrite (begun (ctlSt cf id) r0) 0).bind fun w => slotIn w.ctl slTrial) = none) ∧
    (Takes (trial no) r0 0x0D05 no (noChecks (trial no) no.entry) ∧ slotIn (begun (trial no) r0).ctl slTrial = some 1 ∧ (bootWrite (begun (trial no) r0) 0).isSome = true) ∧
    Takes (ctlSt fs id) r0 0x0D06 fs (chkFwStatus r0 (ctlSt fs id) fs.entry) := by
  dsimp only; and_intros <;> decide +kernel

theorem witness_SecurityComplete :
    let no := inf0 0x0E01 []
    let nc := inf0 0x0E02 []
    let id0 := inf0 0x0E03 [(8, 64)]
    let at0 := inf0 0x0E04 []
    let tok : Bytes := [0x54, 0x4F, 0x4B, 0x4E, 1, 0, 0, 1]
    let lc (h : Option Bytes) : Inflight := { inf0 0x0E05 [] with hdata := h }
    Takes (ctlSt no id) r0 0x0E01 no (noChecks (ctlSt no id) no.entry) ∧
    Takes (ctlSt nc id) r0 0x0E02 nc (chkSecNonce r0 (ctlSt nc id) nc.entry) ∧
    Takes (ctlSt id0 id) r0 0x0E03 id0 (chkSecIdentity r0 (ctlSt id0 id) id0.entry) ∧
    Takes (ctlSt at0 id) r0 0x0E04 at0 (chkSecAttest r0 (ctlSt at0 id) at0.entry) ∧
    (∀ h ∈ [none, some tok], Takes (ctlSt (lc h) id) r0 0x0E05 (lc h) (chkSecLifecycle r0 (ctlSt (lc h) id) (lc h).entry) ∧ lifecycleBusy (begun (ctlSt (lc h) id) r0) = false ∧ hostBuf (lc h) = h) ∧
    (tokenBad (padTo 5328 tok) = false ∧ byteAt (padTo 5328 tok) 6 = (begun (ctlSt (lc none) fun c => { c with lifecycle := 0 }) r0).ctl.lifecycle ∧
      (transitionKey s0.ctl (padTo 5328 tok)).isSome = true) := by
  dsimp only; and_intros <;> decide +kernel

/-- A publication waits. -/
def pubSt (q : Pub) : State := { s0 with power := { s0.power with pubs := [q] } }
theorem witness_PowerEventsComplete :
    ctlRuns s0 = true ∧ unitExists srcCp = true ∧ srcCp < 65536 ∧ unitExists 0x100 = true ∧
    (∀ k ∈ [0, 1, 2], pubFirst (fun x => decide (x.nak = 0) || x.again) (pubSt { nak := k, again := true }).power.pubs = some ({ nak := k, again := true }, [], [])) ∧
    pubFirst (fun x => decide (x.nak ≠ 0) && !x.again) (pubSt { nak := 1 }).power.pubs = some ({ nak := 1 }, [], []) ∧
    pubFirst (fun x => decide (x.nak = 0 ∨ x.due ≤ s0.clk.ticks) && !x.again) (pubSt {}).power.pubs = some ({}, [], []) := by
  and_intros <;> decide +kernel

/-- The power commands' entries. -/
theorem witness_PowerCommandsComplete :
    let cap (t : Nat) := inf0 0x0F01 [(0, 0x40), (1, 6), (2, 20), (8, t % 256), (13, t / 256)]
    let pl (n : Nat) (h : Option Bytes) : Inflight := { inf0 0x0F02 [(8, n)] with hdata := h }
    let stt := inf0 0x0F03 []
    let sh := inf0 0x0F04 [(4, 1)]
    let fe (h l : Nat) := inf0 0x0F05 [(0, l), (1, h)]
    let ur (w : Nat) := inf0 0x0F06 [(2, w)]
    let st (x : Inflight) : State := { offer s0 x with time := { s0.time with st := .locked } };
    (∀ t ∈ [0, 256], Takes (st (cap t)) r0 0x0F01 (cap t) (chkPwrCap r0 (st (cap t)) (cap t).entry) ∧ schedWaits (begun (st (cap t)) r0) r0 = false ∧
      (if t = 0 then par (cap t).entry 8 8 = 0 else par (cap t).entry 8 8 ≠ 0 ∧ schedRefuse (begun (st (cap t)) r0) (par (cap t).entry 8 8) = none)) ∧
    (∀ z ∈ [pl 0 none, pl 64 none, pl 64 (some (padTo 1024 []))], Takes (st z) r0 0x0F02 z (chkPwrPlan r0 (st z) z.entry)) ∧
    (hostBuf (pl 64 none) = none ∧ hostBuf (pl 64 (some (padTo 1024 []))) = some (padTo 1024 []) ∧ parFld (pl 64 none).entry 8 6 0 = 64 ∧ parFld (pl 0 none).entry 8 6 0 = 0 ∧
      ∀ i < 64, zeroBytes (padTo 1024 []) (16 * i + 10) (16 * i + 15) = true) ∧
    Takes (st stt) r0 0x0F03 stt (noChecks (st stt) stt.entry) ∧
    Takes (st sh) r0 0x0F04 sh (chkPwrShelf r0 (st sh) sh.entry) ∧
    (∀ hl ∈ [(0, 95), (1, 4), (3, 0x2F), (7, 0x27), (0, 96)], Takes (st (fe hl.1 hl.2)) r0 0x0F05 (fe hl.1 hl.2) (noChecks (st (fe hl.1 hl.2)) (fe hl.1 hl.2).entry) ∧ par (fe hl.1 hl.2).entry 0 2 = 256 * hl.1 + hl.2) ∧
    (∀ w ∈ [0, 1], Takes (st (ur w)) r0 0x0F06 (ur w) (unitregChecks (ur w).entry) ∧ parFlg (ur w).entry 2 0 = (w == 1)) := by
  dsimp only; and_intros <;> decide +kernel

theorem witness_EveryCommandIsAnswered :
    (∀ dev n, Instr.ppsEdge ≠ .jtagInstructionLoad dev (.other n)) ∧ debugOpen { s0.ctl with lifecycle := 1 } = false ∧ debugOpen { s0.ctl with lifecycle := 0 } = true := by
  refine ⟨?_, by decide, by decide⟩
  intro dev n h
  cases h

end Sys2Proof.Tests
end

section
/-! Settles O41: the integer drain conversion of R63, assembled from the three parts of the model's `drainConv`:
rounding to nearest even, the clamp, and the two's-complement encoding. -/

namespace Sys2Proof.Laws

open Sys2Proof.Machine

/-! ### Rounding to nearest, ties to even -/

/-- `r` is an integer nearest to `v`, the even one when `v` lies half way between two. -/
def NearestEven (v : ℚ) (r : Int) : Prop := |v - r| ≤ 1 / 2 ∧ (|v - r| = 1 / 2 → r % 2 = 0)

theorem nearestEven_intCast (r : Int) : NearestEven r r := by simp [NearestEven]

theorem NearestEven.neg {v : ℚ} {r : Int} (h : NearestEven v r) : NearestEven (-v) (-r) := by
  obtain ⟨hle, hev⟩ := h
  have hd : |-v - ((-r : Int) : ℚ)| = |v - r| := by rw [Int.cast_neg, ← neg_sub', abs_neg]
  rw [NearestEven, hd]
  exact ⟨hle, fun ht => by have := hev ht; omega⟩

/-- Nearness to a quotient, in whole numbers: twice the remainder against the divisor. -/
theorem nearestEven_div {n d r : Int} (hd : 0 < d) (hlo : -d ≤ 2 * (n - r * d)) (hhi : 2 * (n - r * d) ≤ d)
    (hev : 2 * (n - r * d) = d ∨ 2 * (n - r * d) = -d → r % 2 = 0) : NearestEven ((n : ℚ) / d) r := by
  have hdq : (0 : ℚ) < d := by exact_mod_cast hd
  have hdist : (n : ℚ) / d - r = ((2 * (n - r * d) : Int) : ℚ) / d / 2 := by
    push_cast
    field_simp
  rw [NearestEven, hdist, abs_div, abs_div, abs_of_pos hdq, abs_two, div_le_div_iff_of_pos_right two_pos,
    div_left_inj' two_ne_zero, div_le_one hdq, div_eq_one_iff_eq hdq.ne']
  norm_cast
  exact ⟨abs_le.mpr ⟨hlo, hhi⟩, fun h => hev ((abs_eq hd.le).mp h)⟩

/-- The shift of the one rounding, with nothing dropped below `m`. -/
theorem rneShift_nearestEven (m sh : Nat) : NearestEven ((m : ℚ) / 2 ^ sh) (rneShift m sh false) := by
  cases sh with
  | zero => simpa [rneShift] using nearestEven_intCast m
  | succ k =>
    have hpos : 0 < 2 ^ k := by positivity
    have hd : 2 ^ (k + 1) = 2 * 2 ^ k := pow_succ' 2 k
    have hlt : m % 2 ^ (k + 1) < 2 ^ (k + 1) := Nat.mod_lt _ (by positivity)
    have hm : (m : Int) = (m / 2 ^ (k + 1) : Nat) * (2 ^ (k + 1) : Nat) + (m % 2 ^ (k + 1) : Nat) := by
      exact_mod_cast (Nat.div_add_mod' m (2 ^ (k + 1))).symm
    suffices h : NearestEven (((m : Int) : ℚ) / ((2 ^ (k + 1) : Nat) : Int)) (rneShift m (k + 1) false) by
      simpa using h
    simp only [rneShift, Nat.succ_ne_zero, if_false, Nat.add_sub_cancel, Bool.false_eq_true, false_or]
    generalize m / 2 ^ (k + 1) = q at *
    generalize m % 2 ^ (k + 1) = r at *
    generalize 2 ^ (k + 1) = d at *
    have hdown : (m : Int) - q * d = r := by linarith
    have hup : (m : Int) - (q + 1 : Nat) * d = r - d := by push_cast; linarith
    split
    · apply nearestEven_div (by omega) <;> rw [hup] <;> omega
    · apply nearestEven_div (by omega) <;> rw [hdown] <;> omega

theorem rneAt_nearestEven (m : Nat) (e : Int) : NearestEven ((m : ℚ) * 2 ^ e) (rneAt m e 0 false) := by
  unfold rneAt
  split
  case isTrue h =>
    lift e to Nat using h
    simpa using nearestEven_intCast (m * 2 ^ e)
  case isFalse h =>
    obtain ⟨k, rfl⟩ : ∃ k : Nat, e = -k := ⟨(-e).toNat, by omega⟩
    simpa [div_eq_mul_inv] using rneShift_nearestEven m k

theorem fToInt_nearestEven (n e : Int) : NearestEven ((n : ℚ) * 2 ^ e) (fToInt (fOfScaled n e)) := by
  have h := rneAt_nearestEven n.natAbs e
  rw [Nat.cast_natAbs] at h
  by_cases hn : n < 0
  · simpa [fOfScaled, fToInt, fSigned, hn, abs_of_neg hn] using h.neg
  · simpa [fOfScaled, fToInt, fSigned, hn, abs_of_nonneg (not_lt.mp hn)] using h

/-- Integer mode: an integer at exponent 0 converts without rounding. -/
theorem fToInt_integer (n : Int) : fToInt (fOfScaled n 0) = n := by
  by_cases hn : n < 0
  · simp [fOfScaled, fToInt, fSigned, rneAt, hn, abs_of_neg hn]
  · simp [fOfScaled, fToInt, fSigned, rneAt, hn, abs_of_nonneg (not_lt.mp hn)]

/-! ### The clamp and the encoding -/

theorem clampI_eq_max_min {lo hi : Int} (h : lo ≤ hi) (v : Int) : clampI lo hi v = max lo (min v hi) := by
  unfold clampI
  omega

theorem clampI_mem {lo hi : Int} (h : lo ≤ hi) (v : Int) : lo ≤ clampI lo hi v ∧ clampI lo hi v ≤ hi := by
  unfold clampI
  omega

/-- A value that w bits hold is encoded as itself, or, below zero, as itself plus 2^w. -/
theorem twos_of_fits {w : Nat} {i : Int} (hlo : -(2 : Int) ^ w ≤ i) (hhi : i < 2 ^ w) :
    (twos w i : Int) = if i < 0 then i + 2 ^ w else i := by
  have hpos : (0 : Int) < 2 ^ w := by positivity
  have hcast : ((2 ^ w : Nat) : Int) = 2 ^ w := by push_cast; rfl
  rw [twos, hcast, Int.toNat_of_nonneg (Int.emod_nonneg _ hpos.ne')]
  split
  · rw [← Int.add_emod_right, Int.emod_eq_of_lt (by omega) (by omega)]
  · exact Int.emod_eq_of_lt (by omega) hhi

/-! ### The integer formats of Table 3.3 -/

theorem outFmt_signed_width {code n : Nat} (h : outFmt code = some (.s n)) : 2 ≤ n ∧ n ≤ 8 * outSize (.s n) := by
  unfold outFmt at h
  split at h <;> cases h <;> decide

theorem outFmt_unsigned_width {code n : Nat} (h : outFmt code = some (.u n)) : 1 ≤ n ∧ n ≤ 8 * outSize (.u n) := by
  unfold outFmt at h
  split at h <;> cases h <;> decide

theorem drainConv_signed (n : Nat) (u : AccUpd) :
    (drainConv (.s n) u).1 = twos (8 * outSize (.s n))
      (clampI (-(2 ^ (n - 1) : Nat)) ((2 ^ (n - 1) : Nat) - 1) (fToInt (fOfScaled u.x.toInt u.a))) := rfl

theorem drainConv_unsigned (n : Nat) (u : AccUpd) :
    (drainConv (.u n) u).1 = twos (8 * outSize (.u n))
      (clampI 0 ((2 ^ n : Nat) - 1) (fToInt (fOfScaled u.x.toInt u.a))) := rfl

/-- Sn writes the clamped integer in two's complement, sign-extended to the element. -/
theorem drainConv_signed_eq {n : Nat} (u : AccUpd) (hw : n ≤ 8 * outSize (.s n)) :
    let y := max (-(2 : Int) ^ (n - 1)) (min (fToInt (fOfScaled u.x.toInt u.a)) ((2 : Int) ^ (n - 1) - 1))
    ((drainConv (.s n) u).1 : Int) = if y < 0 then y + 2 ^ (8 * outSize (.s n)) else y := by
  have hpos : (0 : Int) < 2 ^ (n - 1) := by positivity
  have hle : (2 : Int) ^ (n - 1) ≤ 2 ^ (8 * outSize (.s n)) := pow_le_pow_right₀ one_le_two (by omega)
  have hr : -(2 : Int) ^ (n - 1) ≤ 2 ^ (n - 1) - 1 := by omega
  obtain ⟨hlo, hhi⟩ := clampI_mem hr (fToInt (fOfScaled u.x.toInt u.a))
  rw [drainConv_signed, ← clampI_eq_max_min hr]
  push_cast
  exact twos_of_fits (by omega) (by omega)

/-- Un writes the clamped integer, zero-extended to the element. -/
theorem drainConv_unsigned_eq {n : Nat} (u : AccUpd) (hw : n ≤ 8 * outSize (.u n)) :
    ((drainConv (.u n) u).1 : Int) = max 0 (min (fToInt (fOfScaled u.x.toInt u.a)) ((2 : Int) ^ n - 1)) := by
  have hpos : (0 : Int) < 2 ^ n := by positivity
  have hle : (2 : Int) ^ n ≤ 2 ^ (8 * outSize (.u n)) := pow_le_pow_right₀ one_le_two hw
  have hr : (0 : Int) ≤ 2 ^ n - 1 := by omega
  obtain ⟨hlo, hhi⟩ := clampI_mem hr (fToInt (fOfScaled u.x.toInt u.a))
  rw [drainConv_unsigned, ← clampI_eq_max_min hr]
  push_cast
  rw [twos_of_fits (by omega) (by omega), if_neg (by omega)]

/-- Settles O41: the integer that R63 rounds to is the model's `fToInt` of the exact value; each format's width
bounds the clamp, so the encoding in the element gives the clamped integer back. -/
theorem integerDrainRoundsAndClamps : Obligations.IntegerDrainRoundsAndClamps := by
  intro code f u hf
  have hround : NearestEven ((u.x.toInt : ℚ) * 2 ^ u.a) (fToInt (fOfScaled u.x.toInt u.a)) := fToInt_nearestEven _ _
  have hint : u.a = 0 → fToInt (fOfScaled u.x.toInt u.a) = u.x.toInt := fun h => h ▸ fToInt_integer _
  constructor
  · rintro n rfl
    obtain ⟨h2, hw⟩ := outFmt_signed_width hf
    exact ⟨_, hround, hint, drainConv_signed_eq u hw, hw, h2⟩
  · rintro n rfl
    obtain ⟨h1, hw⟩ := outFmt_unsigned_width hf
    exact ⟨_, hround, hint, drainConv_unsigned_eq u hw, hw, h1⟩

end Sys2Proof.Laws
end

section
/-! Settles O43: BSORT (R123). A score stands for an extended real, so the order of R119 on valid elements is the
lexicographic order of (score under the direction, order word, ID); the model's sort is an insertion sort of the valid
elements under it, followed by sentinels (R120). -/

namespace Sys2Proof.Laws

open Sys2Proof.Machine

/-! ### Floating-point comparison is comparison of numbers -/

/-- The number a floating-point value stands for; a NaN stands for none, and gets 0. -/
noncomputable def fNum : FVal → EReal
  | .nan => 0
  | .inf neg => if neg then ⊥ else ⊤
  | .num neg m e _ => ((fSigned neg m * 2 ^ e : ℝ) : EReal)

/-- A magnitude brought to a lower exponent keeps its value, in units of that exponent. -/
theorem fSigned_shift (neg : Bool) (m : Nat) {e lo : Int} (h : lo ≤ e) :
    (fSigned neg (m * 2 ^ (e - lo).toNat) : ℝ) * 2 ^ lo = fSigned neg m * 2 ^ e := by
  obtain ⟨k, rfl⟩ : ∃ k : Nat, e = k + lo := ⟨(e - lo).toNat, by omega⟩
  rw [zpow_add₀ two_ne_zero, zpow_natCast, ← mul_assoc]
  cases neg <;> simp [fSigned]

theorem fLt_num_iff (a : Bool) (m : Nat) (e : Int) (p : Bool) (b : Bool) (n : Nat) (f : Int) (q : Bool) :
    fLt (.num a m e p) (.num b n f q) = true ↔ (fSigned a m * 2 ^ e : ℝ) < fSigned b n * 2 ^ f := by
  rw [← fSigned_shift a m (min_le_left e f), ← fSigned_shift b n (min_le_right e f),
    mul_lt_mul_iff_left₀ (by positivity), Int.cast_lt]
  simp [fLt]

theorem fLt_iff {x y : FVal} (hx : x ≠ .nan) (hy : y ≠ .nan) : fLt x y = true ↔ fNum x < fNum y := by
  cases x with
  | nan => exact absurd rfl hx
  | inf a =>
    cases y with
    | nan => exact absurd rfl hy
    | inf b => cases a <;> cases b <;> simp [fLt, fNum]
    | num b n f q => cases a <;> simp [fLt, fNum, -EReal.coe_mul]
  | num a m e p =>
    cases y with
    | nan => exact absurd rfl hy
    | inf b => cases b <;> simp [fLt, fNum, -EReal.coe_mul]
    | num b n f q => rw [fLt_num_iff, fNum, fNum, EReal.coe_lt_coe_iff]

theorem fEq_iff {x y : FVal} (hx : x ≠ .nan) (hy : y ≠ .nan) : fEq x y = true ↔ fNum x = fNum y := by
  have hboth : fEq x y = (!fLt x y && !fLt y x) := by cases x <;> cases y <;> simp_all [fEq]
  rw [hboth, Bool.and_eq_true, Bool.not_eq_true', Bool.not_eq_true', ← Bool.not_eq_true, ← Bool.not_eq_true,
    fLt_iff hx hy, fLt_iff hy hx, not_lt, not_lt, and_comm, le_antisymm_iff]

/-! ### The order of R119 -/

/-- The number a score stands for in a type. -/
noncomputable def scoreNum (t : VType) (w : Nat) : EReal :=
  if tyFlt t then fNum (tyVal t w) else ((tyInt t w : ℝ) : EReal)

/-- A score's number under the direction: the better score has the smaller key. -/
noncomputable def scoreKey (t : VType) (asc : Bool) (w : Nat) : EReal := if asc then scoreNum t w else -scoreNum t w

/-- What R119 compares, in its order: the score, the order word, the ID. -/
noncomputable def elemRank (t : VType) (asc : Bool) (e : Elem) : EReal ×ₗ Nat ×ₗ Nat :=
  toLex (scoreKey t asc e.score, toLex (e.ord, e.id))

/-- The types a network operation takes (R121): a valid element of them has a number as its score (R118). -/
theorem elemValid_notNan {t : VType} (ht : t ≠ .c40) {e : Elem} (he : elemValid t e = true) (hf : tyFlt t = true) :
    tyVal t e.score ≠ .nan := by
  cases t with
  | f32 =>
    have h : e.id ≠ 0xFFFFFFFF ∧ tyVal .f32 e.score ≠ .nan := by simpa [elemValid] using he
    exact h.2
  | s32 => cases hf
  | u32 => cases hf
  | c40 => exact absurd rfl ht

section
variable {t : VType} (ht : t ≠ .c40) {a b : Elem} (ha : elemValid t a = true) (hb : elemValid t b = true)
include ht ha hb

theorem scoreLt_iff : scoreLt t a.score b.score = true ↔ scoreNum t a.score < scoreNum t b.score := by
  unfold scoreLt scoreNum
  split
  case isTrue hf => exact fLt_iff (elemValid_notNan ht ha hf) (elemValid_notNan ht hb hf)
  case isFalse => simp

theorem scoreEq_iff : scoreEq t a.score b.score = true ↔ scoreNum t a.score = scoreNum t b.score := by
  unfold scoreEq scoreNum
  split
  case isTrue hf => exact fEq_iff (elemValid_notNan ht ha hf) (elemValid_notNan ht hb hf)
  case isFalse => simp

theorem scoreBetter_iff (asc : Bool) :
    (if asc then scoreLt t a.score b.score else scoreLt t b.score a.score) = true ↔
      scoreKey t asc a.score < scoreKey t asc b.score := by
  cases asc
  · simp [scoreKey, scoreLt_iff ht hb ha]
  · simp [scoreKey, scoreLt_iff ht ha hb]

theorem scoreEq_iff_key (asc : Bool) :
    scoreEq t a.score b.score = true ↔ scoreKey t asc a.score = scoreKey t asc b.score := by
  cases asc <;> simp [scoreKey, scoreEq_iff ht ha hb]

/-- Between valid elements, R119 is the lexicographic order of their ranks. -/
theorem elemPrec_iff (asc : Bool) : elemPrec t asc a b = true ↔ elemRank t asc a < elemRank t asc b := by
  have htests : elemPrec t asc a b = true ↔
      (if asc then scoreLt t a.score b.score else scoreLt t b.score a.score) = true ∨
        scoreEq t a.score b.score = true ∧ (a.ord < b.ord ∨ a.ord = b.ord ∧ a.id < b.id) := by
    simp [elemPrec, ha, hb]
  rw [htests, scoreBetter_iff ht ha hb, scoreEq_iff_key ht ha hb asc]
  simp only [elemRank, Prod.Lex.toLex_lt_toLex]

theorem elemRank_eq_iff (asc : Bool) : elemRank t asc a = elemRank t asc b ↔
    scoreEq t a.score b.score = true ∧ a.ord = b.ord ∧ a.id = b.id := by
  rw [scoreEq_iff_key ht ha hb asc]
  simp [elemRank]

end

/-! ### The sort -/

theorem elemInsert_eq_orderedInsert (t : VType) (asc : Bool) (e : Elem) (xs : List Elem) :
    elemInsert t asc e xs = xs.orderedInsert (fun a b => elemPrec t asc a b = true) e := by
  induction xs with
  | nil => rfl
  | cons x xs ih => rw [elemInsert, ih, List.orderedInsert_cons]

theorem elemInsert_perm (t : VType) (asc : Bool) (e : Elem) (xs : List Elem) :
    (elemInsert t asc e xs).Perm (e :: xs) :=
  elemInsert_eq_orderedInsert t asc e xs ▸ List.perm_orderedInsert _ e xs

theorem elemSort_perm (t : VType) (asc : Bool) (xs : List Elem) : (elemSort t asc xs).Perm xs := by
  induction xs with
  | nil => exact .nil
  | cons x xs ih => exact (elemInsert_perm t asc x _).trans (ih.cons x)

/-- Sorted under R119: nothing is better than an element before it. -/
def Ranked (t : VType) (asc : Bool) (xs : List Elem) : Prop :=
  xs.Pairwise fun a b => elemRank t asc a ≤ elemRank t asc b

theorem elemInsert_ranked {t : VType} (ht : t ≠ .c40) (asc : Bool) {e : Elem} (he : elemValid t e = true)
    {xs : List Elem} (hv : ∀ x ∈ xs, elemValid t x = true) (hs : Ranked t asc xs) :
    Ranked t asc (elemInsert t asc e xs) := by
  induction xs with
  | nil => exact List.pairwise_singleton _ e
  | cons x xs ih =>
    obtain ⟨hx, hxs⟩ := List.forall_mem_cons.mp hv
    obtain ⟨hle, htail⟩ := List.pairwise_cons.mp hs
    have hprec := elemPrec_iff ht he hx asc
    rw [elemInsert]
    split
    case isTrue h =>
      have hex : elemRank t asc e ≤ elemRank t asc x := (hprec.mp h).le
      exact List.pairwise_cons.mpr ⟨List.forall_mem_cons.mpr ⟨hex, fun y hy => hex.trans (hle y hy)⟩, hs⟩
    case isFalse h =>
      have hxe : elemRank t asc x ≤ elemRank t asc e := not_lt.mp (mt hprec.mpr h)
      refine List.pairwise_cons.mpr ⟨fun y hy => ?_, ih hxs htail⟩
      obtain rfl | hy := List.mem_cons.mp ((elemInsert_perm t asc e xs).mem_iff.mp hy)
      · exact hxe
      · exact hle y hy

theorem elemSort_ranked {t : VType} (ht : t ≠ .c40) (asc : Bool) {xs : List Elem}
    (hv : ∀ x ∈ xs, elemValid t x = true) : Ranked t asc (elemSort t asc xs) := by
  induction xs with
  | nil => exact .nil
  | cons x xs ih =>
    obtain ⟨hx, hxs⟩ := List.forall_mem_cons.mp hv
    exact elemInsert_ranked ht asc hx (fun y hy => hxs y ((elemSort_perm t asc xs).mem_iff.mp hy)) (ih hxs)

/-! ### BSORT: the sorted valid elements, then sentinels -/

@[simp] theorem elemValid_sentinel (t : VType) (asc : Bool) : elemValid t (sentinel t asc) = false := by
  simp [elemValid, sentinel]

theorem elemPrec_of_valid_invalid {t : VType} {a b : Elem} (ha : elemValid t a = true) (hb : elemValid t b = false)
    (asc : Bool) : elemPrec t asc a b = true := by
  simp [elemPrec, ha, hb]

theorem filter_elemPad (t : VType) (asc : Bool) (n : Nat) {vs : List Elem} (hv : ∀ v ∈ vs, elemValid t v = true) :
    (elemPad t asc n vs).filter (elemValid t) = vs := by
  simp [elemPad, List.filter_append, List.filter_eq_self.mpr hv]

theorem length_elemPad (t : VType) (asc : Bool) {n : Nat} {vs : List Elem} (h : vs.length ≤ n) :
    (elemPad t asc n vs).length = n := by
  simp [elemPad, h]

theorem mem_elemPad {t : VType} {asc : Bool} {n : Nat} {vs : List Elem} {y : Elem} (h : y ∈ elemPad t asc n vs) :
    y ∈ vs ∨ y = sentinel t asc :=
  (List.mem_append.mp h).imp_right List.eq_of_mem_replicate

theorem valid_of_mem_sorted {t : VType} {asc : Bool} {xs : List Elem} {y : Elem}
    (h : y ∈ elemSort t asc (xs.filter (elemValid t))) : elemValid t y = true :=
  (List.mem_filter.mp ((elemSort_perm t asc _).mem_iff.mp h)).2

theorem length_sorted_le (t : VType) (asc : Bool) (xs : List Elem) :
    (elemSort t asc (xs.filter (elemValid t))).length ≤ xs.length :=
  (elemSort_perm t asc _).length_eq.trans_le (List.length_filter_le _ xs)

/-- Of two elements of BSORT's output, the earlier one precedes the later, or neither precedes the other. -/
def InOrder (t : VType) (asc : Bool) (a b : Elem) : Prop :=
  elemPrec t asc a b = true ∨ (elemValid t a = false ∧ elemValid t b = false) ∨
    (elemValid t a = true ∧ elemValid t b = true ∧ scoreEq t a.score b.score = true ∧ a.ord = b.ord ∧ a.id = b.id)

theorem inOrder_of_rank_le {t : VType} (ht : t ≠ .c40) {asc : Bool} {a b : Elem} (ha : elemValid t a = true)
    (hb : elemValid t b = true) (h : elemRank t asc a ≤ elemRank t asc b) : InOrder t asc a b := by
  obtain hlt | heq := h.lt_or_eq
  · exact .inl ((elemPrec_iff ht ha hb asc).mpr hlt)
  · exact .inr (.inr ⟨ha, hb, (elemRank_eq_iff ht ha hb asc).mp heq⟩)

theorem netSort_inOrder {t : VType} (ht : t ≠ .c40) (asc : Bool) (xs : List Elem) :
    (netSort t asc xs).Pairwise (InOrder t asc) := by
  have hranked : Ranked t asc (elemSort t asc (xs.filter (elemValid t))) :=
    elemSort_ranked ht asc fun _ hx => (List.mem_filter.mp hx).2
  refine List.pairwise_append.mpr ⟨?_, ?_, ?_⟩
  · exact hranked.imp_of_mem fun ha hb => inOrder_of_rank_le ht (valid_of_mem_sorted ha) (valid_of_mem_sorted hb)
  · exact List.pairwise_replicate.mpr (.inr (.inr (.inl ⟨elemValid_sentinel t asc, elemValid_sentinel t asc⟩)))
  · intro a ha b hb
    obtain rfl := List.eq_of_mem_replicate hb
    exact .inl (elemPrec_of_valid_invalid (valid_of_mem_sorted ha) (elemValid_sentinel t asc) asc)

/-- Settles O43: the output is the valid elements, sorted by the lexicographic rank of R119, and sentinels up to the
input's length. -/
theorem sortPutsBetterElementsFirst : Obligations.SortPutsBetterElementsFirst := by
  intro t htypes asc xs
  have ht : t ≠ .c40 := by rintro rfl; simp at htypes
  refine ⟨length_elemPad t asc (length_sorted_le t asc xs), ?_, fun y hy hinv => ?_, netSort_inOrder ht asc xs⟩
  · have hvalid := filter_elemPad t asc xs.length fun _ hv => valid_of_mem_sorted (asc := asc) (xs := xs) hv
    exact hvalid ▸ elemSort_perm t asc (xs.filter (elemValid t))
  · obtain hv | hsent := mem_elemPad hy
    · exact absurd (valid_of_mem_sorted hv) (by simp [hinv])
    · exact hsent

end Sys2Proof.Laws
end

section
/-! The shapes in which the operations of the model carry `Kept`: record updates, the memories written, options and
errors.  Each operation then has its own lemma below, named after it, and a proof about an operation cites the lemmas of
those it calls. -/

namespace Sys2Proof.Laws

open Sys2Proof.Machine Sys2Proof.Safety

variable {ε α β : Type} {P : ε → Prop} {Q : α → Prop} {R : β → Prop}

theorem KPageAcc.foldl {σ : State} {f : PageAcc → β → PageAcc} {l : List β} {o : PageAcc} (h : KPageAcc σ o)
    (hf : ∀ q b, KPageAcc σ q → KPageAcc σ (f q b)) : KPageAcc σ (l.foldl f o) := by
  induction l generalizing o with
  | nil => exact h
  | cons b l ih => exact ih (hf _ _ h)

theorem KO.triv {o : Option α} : KO KT o := ⟨fun a _ => KT.intro a⟩

theorem KE.bind {x : Except ε α} {f : α → Except ε β} (h : KE P Q x) (hf : ∀ a, Q a → KE P R (f a)) :
    KE P R (x >>= f) := by
  cases x with
  | error e => exact KE.error (h.ofErr _ rfl)
  | ok a => exact hf _ (h.ofOk _ rfl)

/-- A check of a `do` block: where it fails the block stops with its error, else it goes on. -/
theorem KE.guard {c : Prop} [Decidable c] {x : Except ε Unit} {f : Unit → Except ε α} (hx : KE P KT x)
    (hf : ∀ a, KE P Q (f a)) : KE P Q (if c then x >>= f else f ()) := by
  split
  · exact hx.bind fun a _ => hf a
  · exact hf ()

theorem KE.map {x : Except ε α} {f : α → β} (h : KE P Q x) (hf : ∀ a, Q a → R (f a)) : KE P R (x.map f) := by
  cases x with
  | error e => exact KE.error (h.ofErr _ rfl)
  | ok a => exact KE.ok (hf _ (h.ofOk _ rfl))

end Sys2Proof.Laws

namespace Sys2Proof.Safety

open Sys2Proof.Machine Sys2Proof.Laws

variable {σ s t u : State}

/-- What `Kept` speaks of. -/
def keptView (s : State) :
    List Instr × (Nat × Nat × Nat × Nat × Nat) × List Out × Nat × List Host.Cell × List Host.Cell × Tab Ns :=
  (s.pending, fuses s.ctl, s.left, s.freeCtr, s.atlas.mem, s.ctl.staging, s.store.nss)

/-- A state that differs from a kept one in nothing the relation speaks of is kept. -/
protected theorem Kept.same (h : Kept σ s) (e : keptView t = keptView s := by rfl) : Kept σ t := by
  simp only [keptView, Prod.mk.injEq] at e
  obtain ⟨hp, hf, hl, hc, hm, hg, hn⟩ := e
  exact Laws.Kept.of h hp hf hl hc hm hg hn

protected theorem Kept.ite {c : Prop} [Decidable c] (ht : Kept σ t) (hu : Kept σ u) : Kept σ (if c then t else u) := by
  split
  · exact ht
  · exact hu

/-! ### The three memories: what may be written to them -/

/-- Every namespace holds canonical bytes. -/
def nssOk (t : Tab Ns) : Prop := ∀ n ∈ t, Memory.wf n.2.data = true

theorem nssOk.filter {t : Tab Ns} (p : Nat × Ns → Bool) (h : nssOk t) : nssOk (t.filter p) :=
  fun n hn => h n (List.mem_of_mem_filter hn)

theorem nssOk.put {t : Tab Ns} {i : Nat} {x : Ns} (h : nssOk t) (hx : Memory.wf x.data = true) : nssOk (tabPut t i x) := by
  intro n hn
  rcases mem_tabPut hn with rfl | hn
  · exact hx
  · exact h n hn

theorem nssOk.find {t : Tab Ns} {i : Nat} {x : Ns} (h : nssOk t) (e : tabFind t i = some x) : Memory.wf x.data = true :=
  h _ (mem_of_tabFind e)

theorem nssOk.upd {t : Tab Ns} {i : Nat} {f : Ns → Ns} (h : nssOk t)
    (hf : ∀ x, Memory.wf x.data = true → Memory.wf (f x).data = true) : nssOk (tabUpd t i f) := by
  unfold tabUpd
  split
  · exact h.put (hf _ (h.find ‹_›))
  · exact h

/-- An update of the store keeps when it leaves the namespaces' bytes canonical. -/
protected theorem Kept.modStoreNss {f} (hs : Kept σ s) (hf : MemoryOk σ → nssOk s.store.nss → nssOk (f s.store).nss) :
    Kept σ (modStore s f) :=
  ⟨hs.queue, hs.fuses, hs.sent, hs.drawn, fun k =>
    let ⟨hm, hg, hn⟩ := hs.memory k
    ⟨hm, hg, hf k hn⟩⟩

/-- A namespace of a kept state holds canonical bytes where the first state's memories were canonical. -/
theorem Kept.nsData {i : Nat} {n : Ns} (hs : Kept σ s) (e : nsAt s i = some n) (k : MemoryOk σ) :
    Memory.wf n.data = true :=
  nssOk.find (hs.memory k).2.2 e

/-- An update of ATLAS keeps when it leaves the memory canonical. -/
protected theorem Kept.modAtlasMem {f} (hs : Kept σ s)
    (hf : Memory.wf s.atlas.mem = true → Memory.wf (f s.atlas).mem = true) : Kept σ (modAtlas s f) :=
  ⟨hs.queue, hs.fuses, hs.sent, hs.drawn, fun k =>
    let ⟨hm, hg, hn⟩ := hs.memory k
    ⟨hf hm, hg, hn⟩⟩

/-- An update of the control core keeps when it leaves the fuses as they are and the staged bytes canonical. -/
protected theorem Kept.modCtlOf {f} (hs : Kept σ s) (hu : Safety.fuses (f s.ctl) = Safety.fuses s.ctl)
    (hf : Memory.wf s.ctl.staging = true → Memory.wf (f s.ctl).staging = true) : Kept σ (modCtl s f) :=
  ⟨hs.queue, hu.trans hs.fuses, hs.sent, hs.drawn, fun k =>
    let ⟨hm, hg, hn⟩ := hs.memory k
    ⟨hm, hf hg, hn⟩⟩

/-- What leaves the module is added at the end. -/
protected theorem Kept.leave {o : List Out} (hs : Kept σ s) : Kept σ { s with left := s.left ++ o } :=
  ⟨hs.queue, hs.fuses, hs.sent.trans (List.prefix_append _ _), hs.drawn, hs.memory⟩

end Sys2Proof.Safety
end

section
/-! `Kept` for the operations on the units: host, flash, ATLAS, governor, streams, arrays and mailboxes. -/

namespace Sys2Proof.Safety

open Sys2Proof.Machine Sys2Proof.Laws

/- The proofs run in turn: side by side, the threads that wait for each other's case splits exhaust the memory. -/
set_option Elab.async false

variable {σ s : State}

/-! ### Ops -/

protected theorem Kept.advance {dt} (hs : Kept σ s) : Kept σ (advance s dt) := hs.same
protected theorem Kept.advanceTo {t} (hs : Kept σ s) : Kept σ (advanceTo s t) := hs.advance
protected theorem Kept.emit {o} (hs : Kept σ s) : Kept σ (emit s o) := hs.same

protected theorem Kept.hostPutP {owner fn pasid tenant svc addr bs} (hs : Kept σ s) :
    Kept σ (hostPutP s owner fn pasid tenant svc addr bs) :=
  hs.same

protected theorem Kept.hostPutS {owner fn tenant svc addr bs} (hs : Kept σ s) :
    Kept σ (hostPutS s owner fn tenant svc addr bs) :=
  hs.hostPutP

protected theorem Kept.addReadP {pasid tenant svc x} (hs : Kept σ s) :
    Kept σ (addReadP s pasid tenant svc x) :=
  Kept.same (s := emit s (Out.hostRead pasid tenant svc x)) hs.emit

protected theorem Kept.addRead {tenant svc x} (hs : Kept σ s) : Kept σ (addRead s tenant svc x) := hs.addReadP
protected theorem Kept.freeTick (hs : Kept σ s) : Kept σ (freeTick s) := Kept.draw hs

protected theorem Kept.countEv {unit ev tenant} (hs : Kept σ s) : Kept σ (countEv s unit ev tenant) := by
  unfold countEv
  extract_lets
  split; · exact hs
  exact hs.same

protected theorem Kept.countEvs {unit ev tenant n} (hs : Kept σ s) : Kept σ (countEvs s unit ev tenant n) := by
  unfold countEvs
  split; · exact hs
  exact Kept.foldl hs fun _ _ ht => ht.countEv

protected theorem Kept.advanceToCyc {c n} (hs : Kept σ s) : Kept σ (advanceToCyc s c n) := by
  unfold advanceToCyc
  extract_lets
  split; · exact hs
  exact hs.advance

protected theorem Kept.setCore {c k} (hs : Kept σ s) : Kept σ (setCore s c k) := hs.same
protected theorem Kept.modCore {c f} (hs : Kept σ s) : Kept σ (modCore s c f) := hs.setCore
protected theorem Kept.modSlot {c i f} (hs : Kept σ s) : Kept σ (modSlot s c i f) := hs.modCore
protected theorem Kept.modCtx {c i f} (hs : Kept σ s) : Kept σ (modCtx s c i f) := hs.modSlot
protected theorem Kept.modJob {j f} (hs : Kept σ s) : Kept σ (modJob s j f) := hs.same
protected theorem Kept.modJc {j i f} (hs : Kept σ s) : Kept σ (modJc s j i f) := hs.modJob

protected theorem Kept.takeRate {c} (hs : Kept σ s) : Kept σ (takeRate s c) := by
  unfold takeRate
  extract_lets
  split; · exact hs
  exact hs.setCore

/-! ### HostOps -/

protected theorem Kept.modFunc {fn f} (hs : Kept σ s) : Kept σ (modFunc s fn f) := hs.same
protected theorem Kept.putVec {fn v x} (hs : Kept σ s) : Kept σ (putVec s fn v x) := hs.modFunc
protected theorem Kept.sendMsix {fn v x} (hs : Kept σ s) : Kept σ (sendMsix s fn v x) := hs.putVec.emit.countEv

protected theorem Kept.msixEvent {fn v} (hs : Kept σ s) : Kept σ (msixEvent s fn v) := by
  unfold msixEvent
  extract_lets
  split; · exact hs
  split; · exact hs.putVec
  split; · exact hs.sendMsix
  exact hs.putVec

protected theorem Kept.irqSet {fn bit} (hs : Kept σ s) : Kept σ (irqSet s fn bit) := by
  unfold irqSet
  split; · exact hs
  extract_lets _ s1
  have hs1 : Kept σ s1 := hs.modFunc
  split; · exact hs1.msixEvent
  exact hs1

protected theorem Kept.irqAll {bit} (hs : Kept σ s) : Kept σ (irqAll s bit) := Kept.foldl hs fun _ _ ht => ht.irqSet
protected theorem Kept.hostPut {fn addr bs} (hs : Kept σ s) : Kept σ (hostPut s fn addr bs) := hs.hostPutS
protected theorem Kept.logStore {e} (hs : Kept σ s) : Kept σ (logStore s e) := hs.same

protected theorem Kept.postEvent {src code subunit tenant a0 a1 a2} (hs : Kept σ s) :
    Kept σ (postEvent s src code subunit tenant a0 a1 a2) := by
  unfold postEvent
  extract_lets
  split; · split <;> exact hs.same
  exact hs.logStore

protected theorem Kept.poisonEvent {src t page cause} (hs : Kept σ s) : Kept σ (poisonEvent s src t page cause) :=
  hs.postEvent

/-! ### Flash -/

protected theorem Kept.modStore {f} (hs : Kept σ s) (hf : (f s.store).nss = s.store.nss := by rfl) : Kept σ (modStore s f) :=
  hs.modStoreNss fun _ h => hf.symm ▸ h

protected theorem Kept.modChan {c f} (hs : Kept σ s) : Kept σ (modChan s c f) := hs.modStore

protected theorem Kept.takeBlk {c use} (hs : Kept σ s) : KO (KP σ) (takeBlk s c use) := by
  unfold takeBlk
  extract_lets
  split; · exact KO.none
  exact KO.some (KP.intro hs.modChan)

protected theorem Kept.openBlk {c use} (hs : Kept σ s) : KO (KP σ) (openBlk s c use) := by
  unfold openBlk
  extract_lets _ fresh
  have hfresh : KO (KP σ) fresh := hs.takeBlk.map fun _ ha => KP.intro ha.fst.modChan
  split
  · split; · exact KO.some (KP.intro hs)
    exact hfresh
  · exact hfresh

protected theorem Kept.useBlk {c b use f} (hs : Kept σ s) : Kept σ (useBlk s c b use f) := hs.modChan

protected theorem Kept.unmapUnit {k} (hs : Kept σ s) : Kept σ (unmapUnit s k) := by
  unfold unmapUnit
  split; · exact hs.modChan.modStore
  exact hs

protected theorem Kept.countPages {src ev base n} (hs : Kept σ s) : Kept σ (countPages s src ev base n) := hs.countEvs

protected theorem Kept.placeUnit {use os k} (hos : KO (Kept σ) os) : KO (Kept σ) (placeUnit use os k) := by
  unfold placeUnit
  split; · exact hos
  split; · exact KO.none
  split; · exact KO.none
  rename_i e
  exact KO.some ((hos.of _ rfl).openBlk.of _ e).fst.unmapUnit.useBlk.modStore.countPages

protected theorem Kept.wbPush {e} (hs : Kept σ s) : Kept σ (wbPush s e) := hs.modStore

protected theorem Kept.programEnt {e} (hs : Kept σ s) : KO (Kept σ) (programEnt s e) := by
  unfold programEnt
  split; · exact KO.some hs
  rename_i n hn
  extract_lets whole us s0 d
  have hs0 : Kept σ s0 := by
    unfold s0
    split; · exact Kept.foldl hs fun _ _ ht => ht.unmapUnit
    exact hs
  split; · exact KO.none
  rename_i e1
  have hd : MemoryOk σ → Memory.wf d = true := by
    intro k
    unfold d
    split
    · exact cellClear_wf _ _ _ (hs.nsData hn k)
    · exact cellWrites_wf _ _ _ (hs.nsData hn k)
  refine KO.some (Kept.modStoreNss ?_ fun k h => h.put (hd k))
  exact (KO.foldl (KO.some hs0) fun _ _ hq => Kept.placeUnit hq).of _ e1

protected theorem Kept.programT4 {sec n} (hs : Kept σ s) : KO (Kept σ) (programT4 s sec n) :=
  KO.map (KO.foldl (KO.some hs) (fun _ _ hq => Kept.placeUnit hq)) (fun _ ha => ha.modStore)

protected theorem Kept.wipeNs {nsid gone} (hs : Kept σ s) : Kept σ (wipeNs s nsid gone) := by
  unfold wipeNs
  refine Kept.modStoreNss (Kept.foldl hs fun _ _ ht => ht.unmapUnit) fun _ h => ?_
  split
  · exact h.filter _
  · exact h.upd fun _ _ => wf_nil

protected theorem Kept.gcStart {live c src} (hs : Kept σ s) : Kept σ (gcStart s live c src) := by
  unfold gcStart
  split; · exact hs
  rename_i e'
  exact (hs.openBlk.of _ e').fst.useBlk.countPages.countPages.modChan.modStore

protected theorem Kept.gcSwitch {c src dst q} (hs : Kept σ s) : Kept σ (gcSwitch c src dst s q) := by
  unfold gcSwitch
  split; · exact hs.modChan.modStore
  exact hs

protected theorem Kept.retireBlk {c b cause} (hs : Kept σ s) : Kept σ (retireBlk s c b cause) := by
  unfold retireBlk
  refine Kept.postEvent (hs.modChan.modStore ?_)
  split <;> rfl

protected theorem Kept.gcFinish {live c src} (hs : Kept σ s) : Kept σ (gcFinish s live c src) := by
  unfold gcFinish
  split; · exact hs
  split; · exact hs
  extract_lets s1
  have hs1 : Kept σ s1 := Kept.foldl hs fun _ _ ht => ht.unmapUnit
  split; · exact hs1.retireBlk
  exact hs1.modChan.modStore

protected theorem Kept.failBlk {live c b cause} (hs : Kept σ s) : Kept σ (failBlk s live c b cause) := by
  unfold failBlk
  extract_lets s1
  have hs1 : Kept σ s1 := hs.modChan
  split; · exact hs1.gcFinish
  exact hs1

protected theorem Kept.gcAbandonRun {c} (hs : Kept σ s) : Kept σ (gcAbandonRun s c) := hs.modChan.modStore

/-! ### Atlas -/

protected theorem Kept.modAtlas {f} (hs : Kept σ s) (hf : (f s.atlas).mem = s.atlas.mem := by rfl) : Kept σ (modAtlas s f) :=
  hs.modAtlasMem fun h => hf.symm ▸ h

protected theorem Kept.setCtx {t c} (hs : Kept σ s) : Kept σ (setCtx s t c) := hs.modAtlas
protected theorem Kept.updCtx {t f} (hs : Kept σ s) : Kept σ (updCtx s t f) := hs.setCtx
protected theorem Kept.setLeaf {t p l} (hs : Kept σ s) : Kept σ (setLeaf s t p l) := hs.updCtx
protected theorem Kept.modLeaf {t p f} (hs : Kept σ s) : Kept σ (modLeaf s t p f) := hs.updCtx
protected theorem Kept.delLeaf {t p} (hs : Kept σ s) : Kept σ (delLeaf s t p) := hs.updCtx
protected theorem Kept.writeMem {t va bs} (hs : Kept σ s) : Kept σ (writeMem s t va bs) := hs.modAtlasMem fun h => cellWrites_wf _ _ _ h
protected theorem Kept.zeroTile {t p} (hs : Kept σ s) : Kept σ (zeroTile s t p) := hs.modAtlasMem fun h => cellClear_wf _ _ _ h
protected theorem Kept.tagFrame {f u} (hs : Kept σ s) : Kept σ (tagFrame s f u) := hs.modAtlas
protected theorem Kept.releaseFrame {f} (hs : Kept σ s) : Kept σ (releaseFrame s f) := hs.tagFrame

protected theorem Kept.readT3 {t p} (hs : Kept σ s) : Kept σ (readT3 s t p) := by
  unfold readT3
  split; · exact hs.addRead
  exact hs

protected theorem Kept.noteUsed {loc} (hs : Kept σ s) : Kept σ (noteUsed s loc) := by
  unfold noteUsed
  split
  · exact hs.modAtlas
  · exact hs.modAtlas
  · exact hs

protected theorem Kept.addMig {m} (hs : Kept σ s) : Kept σ (addMig s m) := by
  unfold addMig
  exact hs.noteUsed.readT3.modLeaf.modAtlas

protected theorem Kept.takeBy {t q hub fg a} (hs : Kept σ s) : KO (Kept σ) (takeBy s t q hub fg a) := by
  induction a generalizing q with
  | nil => exact KO.none
  | cons _ _ ih =>
    unfold takeBy
    split; · exact ih
    split; · exact KO.some hs.addMig
    split
    · split
      · split
        · rename_i e
          exact KO.some (ih.of _ e).addMig
        · exact ih
      · exact ih
    · exact ih

protected theorem Kept.demoteColdest {t tier hub fg} (hs : Kept σ s) :
    KE KT (KP σ) (demoteColdest s t tier hub fg) := by
  unfold demoteColdest
  split; · exact KE.error (KT.intro _)
  split
  · rename_i e
    exact KE.ok (KP.intro (hs.takeBy.of _ e))
  · exact KE.error (KT.intro _)

protected theorem Kept.makeRoom {m} (hs : Kept σ s) : KE KT (KP σ) (makeRoom s m) := by
  unfold makeRoom
  split
  · split; · exact KE.ok (KP.intro hs.tagFrame)
    exact KE.ok (KP.intro hs)
  · split
    · rename_i e
      exact KE.ok (KP.intro (hs.demoteColdest.ofOk _ e).fst)
    · split; · exact KE.ok (KP.intro hs)
      exact KE.error (KT.intro _)

protected theorem Kept.startPromotion {t p hub fg} (hs : Kept σ s) :
    KE KT (Kept σ) (startPromotion s t p hub fg) := by
  unfold startPromotion
  split; · exact KE.ok hs
  split; · exact KE.ok hs
  split
  · rename_i e
    exact KE.ok (hs.makeRoom.ofOk _ e).fst.addMig.countEv
  · exact KE.error (KT.intro _)

protected theorem Kept.touchPage {t p hub} (hs : Kept σ s) : Kept σ (touchPage s t p hub) := by
  unfold touchPage
  split; · exact hs
  split; · exact hs
  extract_lets _ s1
  have hs1 : Kept σ s1 := hs.setLeaf
  split
  · split
    · rename_i e
      exact hs1.startPromotion.ofOk _ e
    · exact hs1
  · exact hs1

protected theorem Kept.postFault {t r} (hs : Kept σ s) : Kept σ (postFault s t r) := by
  unfold postFault
  extract_lets
  split
  · split; · exact hs.setCtx
    exact hs.setCtx
  · exact hs.setCtx

/-! ### Governor -/

protected theorem Kept.govIssue {c cost} (hs : Kept σ s) : Kept σ (govIssue s c cost) := hs.same

/-! ### Stream -/

protected theorem Kept.popHead {c i} (hs : Kept σ s) : Kept σ (popHead s c i) := hs.modCtx.modCore.countEv

protected theorem Kept.postCommandFault {c i sl op cmdidx status tag detail} (hs : Kept σ s) :
    Kept σ (postCommandFault s c i sl op cmdidx status tag detail) := by
  unfold postCommandFault
  exact hs.postFault

protected theorem Kept.haltWith {c i sl h op cmdidx status tag detail} (hs : Kept σ s) :
    Kept σ (haltWith s c i sl h op cmdidx status tag detail) :=
  hs.modCtx.postCommandFault

protected theorem Kept.haltCmd {c i q status detail} (hs : Kept σ s) : Kept σ (haltCmd s c i q status detail) := by
  unfold haltCmd
  split; · exact hs
  exact hs.haltWith

protected theorem Kept.issueCmd {c i sel body} (hs : Kept σ s)
    (hbody : ∀ t a1 a2 a3, Kept σ t → Kept σ (body t a1 a2 a3)) :
    Kept σ (issueCmd s c i sel body) := by
  unfold issueCmd
  split; · exact hs
  split; · exact hs
  split; · exact hs
  split; · exact hs
  extract_lets _ s1
  have hs1 : Kept σ s1 := hs.setCore.popHead
  split
  · exact hs
  · exact hs1.haltCmd
  · exact hbody _ _ _ _ hs1.modCore

protected theorem Kept.settleHalt {c i} (hs : Kept σ s) : Kept σ (settleHalt s c i) := by
  unfold settleHalt
  extract_lets
  split
  · split; · exact hs
    split; · exact hs.modCtx.postFault
    exact hs
  · split
    · split; · exact hs
      exact hs.modCtx.postFault
    · exact hs
  · exact hs

protected theorem Kept.releaseCmd {c id} (hs : Kept σ s) : Kept σ (releaseCmd s c id) :=
  Kept.takeRate (Kept.foldl hs.modCore (fun _ _ ht => ht.settleHalt))

/-! ### ArrayUnit -/

protected theorem Kept.execArrayPass {c slot} (hs : Kept σ s) : KR σ (execArrayPass c slot s) :=
  KR.next (hs.issueCmd (fun _ _ _ _ ht => ht.govIssue.modCore))

protected theorem Kept.execArrayDrain {c slot} (hs : Kept σ s) : KR σ (execArrayDrain c slot s) :=
  KR.next (hs.issueCmd (fun _ _ _ _ ht => ht.modCore))

protected theorem Kept.execPassFirstPlane {c} (hs : Kept σ s) : KR σ (execPassFirstPlane c s) := by
  unfold execPassFirstPlane
  extract_lets
  split; · exact KR.next hs
  split; · exact KR.next hs
  split; · exact KR.next hs
  exact KR.next hs.setCore.advanceToCyc

protected theorem Kept.addLoss {c slot n} (hs : Kept σ s) : Kept σ (addLoss s c slot n) := by
  unfold addLoss
  split; · exact hs
  exact Kept.foldl hs.modCore.modCtx fun _ _ ht' => ht'.countEv

protected theorem Kept.setNstat {c slot bit on} (hs : Kept σ s) : Kept σ (setNstat s c slot bit on) := by
  unfold setNstat
  split; · exact hs.modCore.modCtx
  exact hs

protected theorem Kept.execAccumulatorWrite {c} (hs : Kept σ s) : KR σ (execAccumulatorWrite c s) := by
  unfold execAccumulatorWrite
  extract_lets
  split; · exact KR.next hs
  split; · exact KR.next hs
  extract_lets _ _ _ _ _ _ _ _ _ _ _ _ s4
  have hs4 : Kept σ s4 := hs.setCore.setNstat.addLoss.advanceToCyc
  exact KR.next (hs4.releaseCmd.ite hs4)

protected theorem Kept.execDrainStart {c} (hs : Kept σ s) : KR σ (execDrainStart c s) := by
  unfold execDrainStart
  extract_lets
  split; · exact KR.next hs
  split; · exact KR.next hs
  split; · exact KR.next hs
  exact KR.next hs.setCore.setNstat.advanceToCyc

protected theorem Kept.execDrainComplete {c} (hs : Kept σ s) : KR σ (execDrainComplete c s) := by
  unfold execDrainComplete
  extract_lets
  split; · exact KR.next hs
  split; · exact KR.next hs
  exact KR.next hs.setCore.advanceToCyc.releaseCmd

/-! ### Mailbox -/

protected theorem Kept.setMbox {fn m b} (hs : Kept σ s) : Kept σ (setMbox s fn m b) := hs.same
protected theorem Kept.modInfl {r f} (hs : Kept σ s) : Kept σ (modInfl s r f) := hs.same

protected theorem Kept.drainCheck {fn m} (hs : Kept σ s) : Kept σ (drainCheck s fn m) := by
  unfold drainCheck
  extract_lets
  split; · exact hs.setMbox
  exact hs

protected theorem Kept.postCompletion {x status result detail} (hs : Kept σ s) :
    Kept σ (postCompletion s x status result detail) := by
  unfold postCompletion
  extract_lets _ _ _ _ _ _ s1
  have hs1 : Kept σ s1 := hs.setMbox.hostPutP
  split
  · split; · exact hs1
    exact hs1.msixEvent
  · exact hs

protected theorem Kept.leaveStore {x} (hs : Kept σ s) : Kept σ (leaveStore s x) := by
  unfold leaveStore
  extract_lets
  split
  · exact hs.same
  · exact hs.same
  · exact hs.same
  · exact hs

protected theorem Kept.completeOne {r status result detail} (hs : Kept σ s) :
    Kept σ (completeOne s r status result detail) := by
  unfold completeOne
  split; · exact hs
  extract_lets s1
  have hs1 : Kept σ s1 := hs.same.leaveStore
  split; · exact hs1.emit
  exact hs1.postCompletion.drainCheck

protected theorem Kept.complete {r status result detail} (hs : Kept σ s) :
    Kept σ (complete s r status result detail) := by
  unfold complete
  extract_lets _ s1
  have hs1 : Kept σ s1 := hs.completeOne
  split
  · split; · exact hs1.setMbox.completeOne
    exact hs1
  · exact hs1

protected theorem Kept.badParam {r off} (hs : Kept σ s) : Kept σ (badParam s r off) := hs.complete
protected theorem Kept.badBlock {r off} (hs : Kept σ s) : Kept σ (badBlock s r off) := hs.complete

protected theorem Kept.completeFault {r status result t rcd} (hs : Kept σ s) :
    Kept σ (completeFault s r status result t rcd) :=
  hs.postFault.modInfl

/-- What holds of every kept state and of every state the body leaves of a kept one holds after a command is run. -/
theorem runCmd_next {P : State → Prop} {r op checks body t} (hs : Kept σ s) (hP : ∀ t, Kept σ t → P t)
    (hbody : ∀ t x e, Kept σ t → P (body t x e)) (e : runCmd s r op checks body = .next t) : P t := by
  unfold runCmd at e
  split at e
  · cases e; exact hP _ hs
  · split at e
    · split at e
      · cases e; exact hP _ (hs.ite hs.complete)
      · cases e; exact hbody _ _ _ hs
    · split at e
      · cases e; exact hP _ hs.badParam
      · cases e; exact hbody _ _ _ hs.modInfl

protected theorem Kept.runCmd {r op checks body} (hs : Kept σ s) (hbody : ∀ t a1 a2, Kept σ t → Kept σ (body t a1 a2)) :
    KR σ (runCmd s r op checks body) :=
  ⟨fun _ e => runCmd_next hs (fun _ => id) hbody e⟩

protected theorem Kept.runCmdIf {r op sel checks body} (hs : Kept σ s)
    (hbody : ∀ t a1 a2, Kept σ t → Kept σ (body t a1 a2)) :
    KR σ (runCmdIf s r op sel checks body) := by
  unfold runCmdIf
  split; · exact KR.next hs
  split; · exact hs.runCmd fun _ _ _ ht => hbody _ _ _ ht
  exact KR.next hs

end Sys2Proof.Safety
end

section
/-! `Kept` for the operations on access to memory, its placement and the synchronisation of cores. -/

namespace Sys2Proof.Safety

open Sys2Proof.Machine Sys2Proof.Laws

/- The proofs run in turn: side by side, the threads that wait for each other's case splits exhaust the memory. -/
set_option Elab.async false

variable {σ s : State}

/-! ### Remote -/

protected theorem Kept.wakeWatches {t va len} (hs : Kept σ s) : Kept σ (wakeWatches s t va len) := hs.same

protected theorem Kept.countLines {t tick wr qs} (hs : Kept σ s) : Kept σ (countLines s t tick wr qs) := by
  unfold countLines
  split; · exact hs
  exact (KP.foldl (KP.intro hs) (fun _ _ hq => KP.intro hq.fst.countEv)).fst

protected theorem Kept.hubLines {t va n wr} (hs : Kept σ s) : Kept σ (hubLines s t va n wr) := by
  unfold hubLines
  exact hs.countLines.modAtlas

protected theorem Kept.hubRead {t va n} (hs : Kept σ s) : Kept σ (hubRead s t va n) := hs.hubLines

protected theorem Kept.hubWrite {t va bs} (hs : Kept σ s) : Kept σ (hubWrite s t va bs) := by
  unfold hubWrite
  split; · exact hs
  exact hs.hubLines.writeMem.wakeWatches

protected theorem Kept.stampedWrite {t va bs x} (hs : Kept σ s) : Kept σ (stampedWrite s t va bs x) := by
  unfold stampedWrite
  split; · exact hs.hubWrite
  split; · exact hs.hubWrite
  extract_lets
  split; · exact hs.writeMem.hubWrite
  exact hs

protected theorem Kept.addRow {t va w bs} (hs : Kept σ s) : Kept σ (addRow s t va w bs) := hs.hubWrite

protected theorem Kept.modeWrite {t va mode bs stamp} (hs : Kept σ s) : Kept σ (modeWrite s t va mode bs stamp) := by
  unfold modeWrite
  split
  · exact hs.hubWrite
  · exact hs.stampedWrite
  · exact hs.addRow
  · exact hs.addRow

protected theorem Kept.hubAtomic {t va kind op0 op1} (hs : Kept σ s) : KP σ (hubAtomic s t va kind op0 op1) :=
  KP.intro hs.hubWrite

protected theorem Kept.sendMsg {m} (hs : Kept σ s) : Kept σ (sendMsg s m) := hs.same

protected theorem Kept.startRemote {o} (hs : Kept σ s) : KO (KP σ) (startRemote s o) := by
  unfold startRemote
  split; · exact KO.none
  split; · exact KO.none
  extract_lets _ _ s1
  have hs1 : Kept σ s1 := hs.same
  split; · exact KO.some (KP.intro hs1.sendMsg)
  exact KO.some (KP.intro hs1.same)

/-! ### TileMover -/

protected theorem Kept.modTm {c id f} (hs : Kept σ s) : Kept σ (modTm s c id f) := hs.modCore

protected theorem Kept.countQuota {hub t kind} (hs : Kept σ s) : Kept σ (countQuota s hub t kind) := by
  unfold countQuota
  split; · exact hs.countEv
  exact hs

protected theorem Kept.missAs {t p hub fg} (hs : Kept σ s) : KE (KP σ) (Kept σ) (missAs s t p hub fg) := by
  unfold missAs
  extract_lets s1
  have hs1 : Kept σ s1 := hs.countEv
  split
  · rename_i e
    exact KE.ok (hs1.startPromotion.ofOk _ e)
  · exact KE.error (KP.intro hs1.countQuota)

protected theorem Kept.missAt {t p hub} (hs : Kept σ s) : KE (KP σ) (Kept σ) (missAt s t p hub) := hs.missAs

protected theorem Kept.coreWalk {c t p} (hs : Kept σ s) : Kept σ (coreWalk s c t p) := by
  unfold coreWalk
  extract_lets _ _ s1
  have hs1 : Kept σ s1 := (hs.countEv.ite hs).countEv
  split; · exact hs
  split; · exact hs1.modCore
  exact hs1

protected theorem Kept.translatePages {c id t acc a} (hs : Kept σ s) : Kept σ (translatePages s c id t acc a) := by
  induction a generalizing s with
  | nil => exact hs.modTm
  | cons _ _ ih =>
    unfold translatePages
    split; · exact ih hs
    extract_lets s1
    have hs1 : Kept σ s1 := hs.coreWalk
    split
    · exact hs1.modTm
    · split
      · rename_i e1
        exact (hs1.missAt.ofOk _ e1).modTm
      · rename_i e2
        exact (hs1.missAt.ofErr _ e2).fst.modTm
    · exact ih hs1

protected theorem Kept.execTranslationWalk {c id} (hs : Kept σ s) : KR σ (execTranslationWalk c id s) := by
  unfold execTranslationWalk
  extract_lets
  split; · exact KR.next hs
  split; · exact KR.next hs
  split; · exact KR.next hs
  split; · exact KR.next hs.modTm
  exact KR.next hs.translatePages.settleHalt

protected theorem Kept.rowWrite {t va mode bs stamp} (hs : Kept σ s) : Kept σ (rowWrite s t va mode bs stamp) := by
  unfold rowWrite
  refine Kept.foldl hs fun _ _ ht' => ?_
  split; · exact ht'
  exact ht'.modeWrite

protected theorem Kept.rangeRead {t rng} (hs : Kept σ s) : Kept σ (rangeRead s t rng) := by
  unfold rangeRead
  split; · exact hs.hubRead
  exact hs

protected theorem Kept.applyRun {c sl x t rng} (hs : Kept σ s) : Kept σ (applyRun s c sl x t rng) := by
  unfold applyRun
  extract_lets
  split
  · split
    · split; · exact hs.hubWrite
      exact hs
    · exact hs.rangeRead.modCore
  · exact hs.rangeRead.modCore
  · split; · exact hs.rowWrite
    exact hs
  · split; · exact hs
    exact hs.hubAtomic.fst.modTm

protected theorem Kept.startAll {a} (hs : Kept σ s) : KO (KP σ) (startAll s a) := by
  induction a generalizing s with
  | nil => exact KO.some (KP.intro hs)
  | cons _ _ ih =>
    unfold startAll
    split; · exact KO.none
    rename_i e'
    split; · exact KO.none
    rename_i e
    exact KO.some (KP.intro ((ih (hs.startRemote.of _ e').fst).of _ e).fst)

protected theorem Kept.touchRun {c id t seen ps} (hs : Kept σ s) : Kept σ (touchRun s c id t seen ps) :=
  Kept.modTm (Kept.foldl hs (fun _ _ ht' => ht'.touchPage))

protected theorem Kept.execHubAccess {c id} (hs : Kept σ s) : KR σ (execHubAccess c id s) := by
  unfold execHubAccess
  extract_lets
  split; · exact KR.next hs
  split; · exact KR.next hs
  extract_lets
  split; · exact KR.next hs
  split; · exact KR.next hs.applyRun.modTm
  extract_lets _ _ s1
  have hs1 : Kept σ s1 := by
    unfold s1
    refine Kept.foldl hs fun _ _ ht' => ?_
    split; · exact ht'.modCore.countEv
    exact ht'
  split; · exact KR.next hs
  split; · exact KR.next hs1.modTm
  split
  · split; · exact KR.next hs
    rename_i e
    exact KR.next (hs.startAll.of _ e).fst.touchRun.modTm
  · exact KR.next hs.applyRun.touchRun.modTm

protected theorem Kept.hintWillneed {t hub p} (hs : Kept σ s) : Kept σ (hintWillneed s t hub p) := by
  unfold hintWillneed
  split; · exact hs
  split; · exact hs
  extract_lets
  split
  · split
    · rename_i e
      exact hs.startPromotion.ofOk _ e
    · exact hs
  · exact hs.countEv

protected theorem Kept.hintCold {t p} (hs : Kept σ s) : Kept σ (hintCold s t p) := by
  unfold hintCold
  split; · exact hs
  split; · exact hs.setLeaf
  exact hs

protected theorem Kept.hintDemote {t hub p} (hs : Kept σ s) : Kept σ (hintDemote s t hub p) := by
  unfold hintDemote
  split; · exact hs
  split; · exact hs
  exact hs.takeBy.getD hs

protected theorem Kept.issueHint {c slot kind h} (hs : Kept σ s) (hh : ∀ t a1 a2, Kept σ t → Kept σ (h t a1 a2)) :
    KR σ (issueHint s c slot kind h) :=
  KR.next (hs.issueCmd (fun _ _ _ _ ht => (Kept.foldl ht (fun _ _ ht' => hh _ _ _ ht')).modCore))

protected theorem Kept.execTmHintWillneed {c slot} (hs : Kept σ s) : KR σ (execTmHintWillneed c slot s) :=
  hs.issueHint fun _ _ _ ht => ht.hintWillneed

protected theorem Kept.execTmHintCold {c slot} (hs : Kept σ s) : KR σ (execTmHintCold c slot s) :=
  hs.issueHint fun _ _ _ ht => ht.hintCold

protected theorem Kept.execTmHintDemote {c slot} (hs : Kept σ s) : KR σ (execTmHintDemote c slot s) :=
  hs.issueHint fun _ _ _ ht => ht.hintDemote

protected theorem Kept.issueTm {c slot op} (hs : Kept σ s) : KR σ (issueTm s c slot op) :=
  KR.next (hs.issueCmd (fun _ _ _ _ ht => ht.modCore))

protected theorem Kept.execTmMove {c slot} (hs : Kept σ s) : KR σ (execTmMove c slot s) := hs.issueTm
protected theorem Kept.execTmGather {c slot} (hs : Kept σ s) : KR σ (execTmGather c slot s) := hs.issueTm
protected theorem Kept.execTmScatter {c slot} (hs : Kept σ s) : KR σ (execTmScatter c slot s) := hs.issueTm
protected theorem Kept.execMemAtomic {c slot} (hs : Kept σ s) : KR σ (execMemAtomic c slot s) := hs.issueTm

protected theorem Kept.atomicRet {c sl x} (hs : Kept σ s) : Kept σ (atomicRet s c sl x) := by
  unfold atomicRet
  extract_lets
  split
  · split; · exact hs.modCore
    exact hs
  · exact hs

protected theorem Kept.tmComplete {c x} (hs : Kept σ s) : Kept σ (tmComplete s c x) := hs.modCore.releaseCmd

protected theorem Kept.execTmRunDone {c id} (hs : Kept σ s) : KR σ (execTmRunDone c id s) := by
  unfold execTmRunDone
  extract_lets
  split; · exact KR.next hs
  split; · exact KR.next hs
  extract_lets
  split; · exact KR.next hs
  split; · exact KR.next hs.modTm
  exact KR.next hs.atomicRet.tmComplete

/-! ### CmdAccess -/

protected theorem Kept.askPeer {r t w p} (hs : Kept σ s) : Kept σ (askPeer s r t w p) := by
  unfold askPeer
  split; · exact hs
  split; · exact hs
  split; · exact hs
  rename_i e
  exact (hs.startRemote.of _ e).fst

protected theorem Kept.unitWalk {u t p} (hs : Kept σ s) : Kept σ (unitWalk s u t p) := by
  unfold unitWalk
  extract_lets
  split
  · exact hs
  · exact hs.countEv.modAtlas
  · split; · exact hs
    exact hs.countEv.countEv.modAtlas

protected theorem Kept.cmdMiss {x t u p} (hs : Kept σ s) : KPageAcc σ (cmdMiss s x t u p) := by
  unfold cmdMiss
  split; · exact KPageAcc.fault
  split; · exact KPageAcc.wait hs
  split
  · rename_i e
    exact KPageAcc.wait (hs.unitWalk.missAs.ofOk _ e).modInfl
  · exact KPageAcc.fault

protected theorem Kept.cmdPage {x t u p acc} (hs : Kept σ s) : KPageAcc σ (cmdPage s x t u p acc) := by
  unfold cmdPage
  split; · exact KPageAcc.ready
  split
  · exact KPageAcc.fault
  · exact hs.cmdMiss
  · split; · exact KPageAcc.ready
    exact KPageAcc.wait hs.askPeer
  · split
    · split; · exact KPageAcc.wait hs
      exact KPageAcc.ready
    · exact KPageAcc.ready

protected theorem Kept.keepPage {x t p} (hs : Kept σ s) : Kept σ (keepPage s x t p) := by
  unfold keepPage
  split; · exact hs
  exact hs.modInfl

protected theorem Kept.cmdReady {x t u acc a} (hs : Kept σ s) : KPageAcc σ (cmdReady s x t u acc a) := by
  induction a with
  | nil => exact KPageAcc.ready
  | cons _ _ ih =>
    unfold cmdReady
    split
    · split
      · rename_i s1 e'
        have hs1 : Kept σ s1 := ih.ofWait _ e'
        exact KPageAcc.wait (hs1.keepPage.ite hs1)
      · exact ih
    · exact hs.cmdPage

protected theorem Kept.touchPages {t u ps} (hs : Kept σ s) : Kept σ (touchPages s t u ps) :=
  Kept.foldl hs fun _ _ ht' => ht'.unitWalk.touchPage

protected theorem Kept.touchCmd {r t u ps} (hs : Kept σ s) : Kept σ (touchCmd s r t u ps) := by
  unfold touchCmd
  extract_lets
  split; · exact hs
  exact hs.touchPages.modInfl

protected theorem Kept.cmdRead {x t u va n} (hs : Kept σ s) : KCmdAcc σ (cmdRead s x t u va n) := by
  unfold cmdRead
  split
  · rename_i e
    exact KCmdAcc.wait (hs.cmdReady.ofWait _ e)
  · exact KCmdAcc.fault
  · exact KCmdAcc.ok hs.hubRead.touchCmd

protected theorem Kept.partWrite {x t va bs} (hs : Kept σ s) : Kept σ (partWrite s x t va bs) := by
  unfold partWrite
  split
  · split; · exact hs
    extract_lets
    split; · exact hs
    rename_i e
    exact (hs.startRemote.of _ e).fst.modInfl
  · exact hs.hubWrite

protected theorem Kept.partsWrite {x t a a2} (hs : Kept σ s) : Kept σ (partsWrite s x t a a2) := by
  induction a generalizing s a2 with
  | nil => exact hs
  | cons _ _ ih => exact ih hs.partWrite

protected theorem Kept.cmdWrite {x t u va bs} (hs : Kept σ s) : KCmdAcc σ (cmdWrite s x t u va bs) := by
  unfold cmdWrite
  split
  · rename_i e
    exact KCmdAcc.wait (hs.cmdReady.ofWait _ e)
  · exact KCmdAcc.fault
  · split; · exact KCmdAcc.wait hs
    exact KCmdAcc.ok hs.partsWrite.touchCmd

protected theorem Kept.cmdFault {x src kind acc cause page result} (hs : Kept σ s) :
    Kept σ (cmdFault s x src kind acc cause page result) :=
  hs.countQuota.completeFault

protected theorem Kept.runBlock {r op checks body} (hs : Kept σ s)
    (hbody : ∀ t a1 a2, Kept σ t → Kept σ (body t a1 a2)) :
    KR σ (runBlock s r op checks body) := by
  unfold runBlock
  refine hs.runCmd fun _ _ _ ht => ?_
  split; · exact hbody _ _ _ ht
  split
  · rename_i e1
    exact ht.cmdRead.ofWait _ e1
  · exact ht.cmdFault
  · rename_i s2' _ e2
    have hs2' : Kept σ s2' := ht.cmdRead.ofOk _ _ e2
    split; · exact hs2'.badBlock
    exact hbody _ _ _ hs2'.modInfl

protected theorem Kept.blockDone {x status result detail res} (hs : Kept σ s) :
    Kept σ (blockDone s x status result detail res) := by
  unfold blockDone
  split
  · rename_i e
    exact (hs.cmdWrite.ofOk _ _ e).complete
  · rename_i e'
    exact hs.cmdWrite.ofWait _ e'
  · exact hs.cmdFault

protected theorem Kept.askHost {x} (hs : Kept σ s) : Kept σ (askHost s x) := by
  unfold askHost
  split; · exact hs
  exact hs.addReadP

protected theorem Kept.cmdHostPut {x addr bs} (hs : Kept σ s) : Kept σ (cmdHostPut s x addr bs) := by
  unfold cmdHostPut
  split; · exact hs.modInfl
  exact hs.hostPutP

/-! ### Traffic -/

protected theorem Kept.modPort {p f} (hs : Kept σ s) : Kept σ (modPort s p f) := hs.same

protected theorem Kept.settleGate {n} (hs : Kept σ s) : Kept σ (settleGate s n) := by
  unfold settleGate
  split
  · split; · exact hs.modPort
    exact hs
  · exact hs

protected theorem Kept.settleInval (hs : Kept σ s) : Kept σ (settleInval s) := by
  unfold settleInval
  extract_lets _ _
  split; · exact hs
  exact Kept.foldl hs.same fun _ _ ht => ht.emit

protected theorem Kept.hostEgress (hs : Kept σ s) : Kept σ (hostEgress s) := by
  unfold hostEgress
  extract_lets s'
  have hs' : Kept σ s' := hs.settleGate
  split; · exact hs'
  split; · exact hs'
  rename_i o rest _
  have hl : Kept σ { s' with left := s'.left ++ [o.2] } := hs'.leave
  exact (Kept.same (s := { s' with left := s'.left ++ [o.2] }) hl).settleInval.countEvs

/-! ### BarOps -/

protected theorem Kept.mboxError {fn m f} (hs : Kept σ s) : Kept σ (mboxError s fn m f) := by
  unfold mboxError
  exact hs.setMbox.msixEvent.postEvent

protected theorem Kept.ringSq {fn m v} (hs : Kept σ s) : Kept σ (ringSq s fn m v) := by
  unfold ringSq
  extract_lets
  split; · exact hs
  split; · exact hs.mboxError
  exact hs.setMbox

protected theorem Kept.ringCq {fn m v} (hs : Kept σ s) : Kept σ (ringCq s fn m v) := by
  unfold ringCq
  extract_lets
  split; · exact hs
  split; · exact hs.mboxError
  exact hs.setMbox

protected theorem Kept.windowFault {fn kind acc page cause} (hs : Kept σ s) :
    Kept σ (windowFault s fn kind acc page cause) :=
  hs.countQuota.postFault

protected theorem Kept.winMiss {fn t p} (hs : Kept σ s) : KPageAcc σ (winMiss s fn t p) := by
  unfold winMiss
  extract_lets
  split; · exact KPageAcc.fault
  split; · exact KPageAcc.wait hs
  split
  · rename_i e
    exact KPageAcc.wait (hs.unitWalk.missAt.ofOk _ e).modFunc
  · exact KPageAcc.fault

protected theorem Kept.winReady {fn va n acc} (hs : Kept σ s) : KPageAcc σ (winReady s fn va n acc) := by
  unfold winReady
  extract_lets
  split; · exact KPageAcc.fault
  refine KPageAcc.foldl KPageAcc.ready fun _ _ hq => ?_
  split
  · split
    · exact KPageAcc.fault
    · exact hs.winMiss
    · exact hq
    · split
      · split; · exact KPageAcc.wait hs
        exact hq
      · exact hq
  · exact hq

protected theorem Kept.serveWr {fn va bs sent} (hs : Kept σ s) : KServed σ (serveWr s fn va bs sent) := by
  unfold serveWr
  extract_lets
  split; · exact KServed.wait hs
  split
  · rename_i e1
    exact KServed.wait (hs.winReady.ofWait _ e1)
  · exact KServed.done hs.windowFault
  · split; · exact KServed.done hs.hubWrite.touchPages
    split; · exact KServed.wait hs
    rename_i e2
    exact KServed.wait (hs.startRemote.of _ e2).fst

protected theorem Kept.serveRd {fn tag va n dl sent got} (hs : Kept σ s) :
    KServed σ (serveRd s fn tag va n dl sent got) := by
  unfold serveRd
  extract_lets
  split; · exact KServed.done hs.emit
  split; · exact KServed.wait hs
  split
  · rename_i e1
    exact KServed.wait (hs.winReady.ofWait _ e1)
  · exact KServed.done hs.windowFault.emit
  · split; · exact KServed.done hs.hubRead.emit.touchPages
    split; · exact KServed.wait hs
    rename_i e2
    exact KServed.wait (hs.startRemote.of _ e2).fst

protected theorem Kept.serveOne {fn q} (hs : Kept σ s) : KServed σ (serveOne s fn q) := by
  unfold serveOne
  split
  · exact hs.serveWr
  · exact hs.serveRd
  · exact KServed.done hs.ringSq
  · exact KServed.done hs.ringCq

protected theorem Kept.modIngress {fn f} (hs : Kept σ s) : Kept σ (modIngress s fn f) := hs.same

protected theorem Kept.reqDebit {fn q} (hs : Kept σ s) : Kept σ (reqDebit s fn q) := by
  unfold reqDebit
  split; · exact hs
  exact hs.modIngress

protected theorem Kept.ringBell {fn q} (hs : Kept σ s) : Kept σ (ringBell fn s q) := by
  unfold ringBell
  split
  · exact hs.ringSq
  · exact hs.ringCq
  · exact hs

protected theorem Kept.serveBells {fn} (hs : Kept σ s) : Kept σ (serveBells s fn) := by
  unfold serveBells
  extract_lets
  split; · exact hs
  exact Kept.foldl hs.modFunc fun _ _ ht => ht.ringBell

protected theorem Kept.forgetMiss {fn} (hs : Kept σ s) : Kept σ (forgetMiss s fn) := by
  unfold forgetMiss
  extract_lets
  split; · exact hs
  exact hs.modFunc

protected theorem Kept.drainFn {fn a} (hs : Kept σ s) : Kept σ (drainFn fn a s) := by
  induction a generalizing s with
  | zero => exact hs
  | succ _ ih =>
    unfold drainFn
    split; · exact hs.modIngress
    split; · exact hs
    split
    · rename_i e1
      exact ih (hs.modFunc.serveOne.ofDone _ e1).forgetMiss.reqDebit
    · rename_i e2
      exact (hs.modFunc.serveOne.ofWait _ _ e2).modFunc.modIngress

protected theorem Kept.capCheck {fn} (hs : Kept σ s) : Kept σ (capCheck s fn) := by
  unfold capCheck
  extract_lets _ _ _ s1
  have hs1 : Kept σ s1 := hs.modIngress
  split
  · split; · exact hs.same
    exact hs
  · split; · exact hs1.same
    exact hs

protected theorem Kept.serveFn {fn} (hs : Kept σ s) : Kept σ (serveFn s fn) := by
  unfold serveFn
  extract_lets s1
  have hs1 : Kept σ s1 := hs.serveBells
  split; · exact hs1
  exact hs1.modIngress.drainFn.capCheck

protected theorem Kept.serveRound {good} (hs : Kept σ s) : Kept σ (serveRound good s) :=
  Kept.foldl hs fun _ _ ht => ht.serveFn

protected theorem Kept.serveRounds {good a} (hs : Kept σ s) : Kept σ (serveRounds good a s) := by
  induction a generalizing s with
  | zero => exact hs
  | succ _ ih => exact ih hs.serveRound

protected theorem Kept.serveAll (hs : Kept σ s) : Kept σ (serveAll s) := hs.serveRounds.serveRounds
protected theorem Kept.barArrive {fn q} (hs : Kept σ s) : Kept σ (barArrive s fn q) := hs.modFunc.capCheck.serveAll

/-! ### Placement -/

protected theorem Kept.updateInherit (hs : Kept σ s) : KP σ (updateInherit s) := KP.intro hs.same

protected theorem Kept.placeOn {jobid jcore c} (hs : Kept σ s) : Kept σ (placeOn s jobid jcore c) := by
  unfold placeOn
  split; · exact hs
  extract_lets
  split
  · extract_lets _ _ s2
    have hs2 : Kept σ s2 := hs.setCore.modJc
    exact hs2.same
  · exact hs

protected theorem Kept.queuePlot {j i p} (hs : Kept σ s) : Kept σ (queuePlot s j i p) := by
  unfold queuePlot
  exact hs.modCtx

protected theorem Kept.dealLoop {jobid a} (hs : Kept σ s) : Kept σ (dealLoop jobid a s) := by
  induction a generalizing s with
  | zero => exact hs
  | succ _ ih =>
    unfold dealLoop
    split; · exact hs
    split; · exact ih hs.queuePlot.modJob
    exact hs

protected theorem Kept.targetLoop {jobid i a} (hs : Kept σ s) : Kept σ (targetLoop jobid i a s) := by
  induction a generalizing s with
  | zero => exact hs
  | succ _ ih =>
    unfold targetLoop
    split; · exact hs
    split; · exact hs
    split; · exact ih hs.queuePlot.modJc
    exact hs

protected theorem Kept.deal {jobid} (hs : Kept σ s) : Kept σ (deal s jobid) := by
  unfold deal
  split; · exact hs
  exact Kept.dealLoop (Kept.foldl hs (fun _ _ ht => ht.targetLoop))

protected theorem Kept.startSave {jobid jcore} (hs : Kept σ s) : Kept σ (startSave s jobid jcore) := by
  unfold startSave
  split; · exact hs
  extract_lets
  split; · exact hs
  exact hs.modCtx.modJob.modJc.countEv.deal

protected theorem Kept.takeVictims {jobid jcore c vs} (hs : Kept σ s) : Kept σ (takeVictims s jobid jcore c vs) :=
  Kept.foldl hs.same fun _ _ ht => ht.startSave

protected theorem Kept.seekPreempt {jobid jcore j} (hs : Kept σ s) : Kept σ (seekPreempt s jobid jcore j) := by
  unfold seekPreempt
  extract_lets _ cands
  clear_value cands
  split; · exact hs
  exact hs.takeVictims

protected theorem Kept.servePending {p} (hs : Kept σ s) : Kept σ (servePending s p) := by
  unfold servePending
  split; · exact hs
  extract_lets
  split; · exact hs.placeOn
  split; · exact hs.placeOn
  split; · exact hs.seekPreempt
  exact hs

protected theorem Kept.serveAllPending (hs : Kept σ s) : Kept σ (serveAllPending s) :=
  Kept.foldl hs fun _ _ ht => ht.servePending

protected theorem Kept.placeLoop {a} (hs : Kept σ s) : Kept σ (placeLoop a s) := by
  induction a generalizing s with
  | zero => exact hs
  | succ _ ih =>
    unfold placeLoop
    extract_lets r
    have hr : KP σ r := hs.serveAllPending.updateInherit
    split; · exact ih hr.fst
    exact hr.fst

protected theorem Kept.placement (hs : Kept σ s) : Kept σ (placement s) := hs.placeLoop

protected theorem Kept.inheritStep (hs : Kept σ s) : Kept σ (inheritStep s) := by
  unfold inheritStep
  extract_lets r
  have hr : KP σ r := hs.updateInherit
  split; · exact hr.fst.placement
  exact hr.fst

protected theorem Kept.setSem {h m} (hs : Kept σ s) : Kept σ (setSem s h m) := hs.same

protected theorem Kept.clearWait {jobid jcore} (hs : Kept σ s) : Kept σ (clearWait s jobid jcore) := by
  unfold clearWait
  split; · exact hs
  extract_lets
  split; · exact hs.modJc
  exact hs.modCtx

protected theorem Kept.granted {w} (hs : Kept σ s) : Kept σ (granted s w) := by
  unfold granted
  split; · exact hs.same
  exact hs.clearWait

protected theorem Kept.grantLoop {h a} (hs : Kept σ s) : Kept σ (grantLoop h a s) := by
  induction a generalizing s with
  | zero => exact hs
  | succ _ ih =>
    unfold grantLoop
    split; · exact hs
    split; · exact hs
    split; · exact ih hs.setSem.granted
    exact hs

protected theorem Kept.semGrant {h} (hs : Kept σ s) : Kept σ (semGrant s h) := by
  unfold semGrant
  split; · exact hs
  exact hs.grantLoop.inheritStep

protected theorem Kept.semAdd {h n} (hs : Kept σ s) : Kept σ (semAdd s h n) := by
  unfold semAdd
  split; · exact hs
  exact hs.setSem.semGrant

protected theorem Kept.haltWaiter {jobid jcore status h} (hs : Kept σ s) :
    Kept σ (haltWaiter s jobid jcore status h) := by
  unfold haltWaiter
  split; · exact hs
  extract_lets
  split
  · split; · exact hs
    exact hs.modJc.postFault
  · split
    · split; · exact hs.modCtx.haltCmd
      exact hs
    · exact hs

protected theorem Kept.semDestroy {h} (hs : Kept σ s) : Kept σ (semDestroy s h) := by
  unfold semDestroy
  split; · exact hs
  exact Kept.foldl hs.same fun _ _ ht => ht.haltWaiter

protected theorem Kept.semWithdraw {jobid jcore} (hs : Kept σ s) : Kept σ (semWithdraw s jobid jcore) := hs.same

protected theorem Kept.serveSems (hs : Kept σ s) : Kept σ (serveSems s) := by
  unfold serveSems
  refine Kept.foldl hs fun _ _ ht => ?_
  split; · exact ht
  exact ht.semGrant

protected theorem Kept.freeEntries {c es} (hs : Kept σ s) : Kept σ (freeEntries s c es) := by
  unfold freeEntries
  exact Kept.draw hs.setCore

protected theorem Kept.clearSlot {c i} (hs : Kept σ s) : Kept σ (clearSlot s c i) := by
  unfold clearSlot
  split; · exact hs
  exact hs.modCore.takeRate

protected theorem Kept.dropPlots {jobid ps} (hs : Kept σ s) : Kept σ (dropPlots s jobid ps) := hs.modJob

protected theorem Kept.feedReserve {c sl} (hs : Kept σ s) : Kept σ (feedReserve s c sl) := by
  unfold feedReserve
  extract_lets _ _ _
  refine Kept.foldl hs.same fun _ _ ht => ?_
  extract_lets
  split; · exact ht.same
  extract_lets
  split; · exact ht
  split; · exact ht.placeOn
  exact ht.same

protected theorem Kept.unplaceJc {jobid jcore loss} (hs : Kept σ s) : Kept σ (unplaceJc s jobid jcore loss) :=
  hs.modJc.modJob

protected theorem Kept.abortJc {jobid jcore} (hs : Kept σ s) : Kept σ (abortJc s jobid jcore) := by
  unfold abortJc
  split; · exact hs
  extract_lets _ gone
  split
  · unfold gone
    extract_lets _ s2
    have hs2 : Kept σ s2 := hs.dropPlots.unplaceJc.modJc
    exact hs2.same.semWithdraw
  · unfold gone
    extract_lets _ s2
    have hs2 : Kept σ s2 := hs.dropPlots.unplaceJc.modJc
    exact hs2.same.semWithdraw
  · split
    · refine Kept.feedReserve ?_
      unfold gone
      extract_lets _ s2
      have hs2 : Kept σ s2 := hs.freeEntries.clearSlot.dropPlots.unplaceJc.modJc
      exact hs2.same.semWithdraw
    · unfold gone
      extract_lets _ s2
      have hs2 : Kept σ s2 := hs.dropPlots.unplaceJc.modJc
      exact hs2.same.semWithdraw

protected theorem Kept.stopRestore {jobid jcore} (hs : Kept σ s) : Kept σ (stopRestore s jobid jcore) := by
  unfold stopRestore
  split; · exact hs
  extract_lets
  split; · exact hs
  exact hs.clearSlot.modJc

protected theorem Kept.markStep {batch} (hs : Kept σ s) : Kept σ (markStep s batch) := hs.same

protected theorem Kept.settleBatches {jobid ended} (hs : Kept σ s) : Kept σ (settleBatches s jobid ended) := by
  unfold settleBatches
  split; · exact hs
  refine Kept.foldl hs fun _ _ ht => ?_
  extract_lets
  split
  · split; · exact ht.modJob.complete
    split
    · split; · exact ht.modJob.markStep
      exact ht.modJob
    · exact ht
  · exact ht

protected theorem Kept.releaseLocks {jobid} (hs : Kept σ s) : Kept σ (releaseLocks s jobid) := by
  unfold releaseLocks
  refine Kept.foldl hs fun _ _ ht => ?_
  split; · exact ht.setSem.semGrant
  exact ht

protected theorem Kept.endJob {jobid} (hs : Kept σ s) : Kept σ (endJob s jobid) := by
  unfold endJob
  split; · exact hs
  extract_lets _ _ s2 _
  have hs2 : Kept σ s2 := (Kept.foldl hs.releaseLocks (fun _ _ ht => ht.semDestroy)).settleBatches
  exact Kept.placement (Kept.serveSems (Kept.inheritStep (Kept.foldl hs2.same (fun _ _ ht => ht.complete))))

protected theorem Kept.abortJob {jobid} (hs : Kept σ s) : Kept σ (abortJob s jobid) := by
  unfold abortJob
  split; · exact hs
  extract_lets _ _ s2
  have hs2 : Kept σ s2 := (Kept.foldl hs.modJob (fun _ _ ht => ht.abortJc)).dropPlots
  split; · exact hs2.endJob
  exact hs2.releaseLocks.serveSems.placement

protected theorem Kept.remOver {tx} (hs : Kept σ s) : Kept σ (remOver s tx) := by
  unfold remOver
  refine Kept.foldl hs fun _ _ ht => ?_
  split
  · extract_lets
    split; · exact ht.modJob.endJob
    exact ht.modJob
  · exact ht

protected theorem Kept.settleEnding {jobid} (hs : Kept σ s) : Kept σ (settleEnding s jobid) := by
  unfold settleEnding
  split; · exact hs
  split; · exact Kept.endJob (Kept.foldl hs (fun _ _ ht => ht.abortJc))
  exact hs

/-! ### Sync -/

protected theorem Kept.execCommandFetch {c slot} (hs : Kept σ s) : KR σ (execCommandFetch c slot s) := by
  unfold execCommandFetch
  split; · exact KR.next hs
  split; · exact KR.next hs
  extract_lets
  split; · exact KR.next hs
  extract_lets _ s1
  have hs1 : Kept σ s1 := (hs.modCtx.deal.ite hs.modCtx).coreWalk
  split
  · exact KR.next (hs1.ite hs1.hubRead.modCtx.touchPage)
  · exact KR.next hs1.modCtx.touchPage
  · split
    · rename_i e1
      exact KR.next (hs1.missAt.ofOk _ e1).modCtx
    · rename_i e2
      exact KR.next (hs1.missAt.ofErr _ e2).fst.modCtx.settleHalt
  · exact KR.next hs1.modCtx.settleHalt
  · split; · exact KR.next hs
    extract_lets
    split; · exact KR.next hs
    rename_i e3
    exact KR.next (hs1.startRemote.of _ e3).fst.modCtx

protected theorem Kept.execNop {c slot} (hs : Kept σ s) : KR σ (execNop c slot s) :=
  KR.next (hs.issueCmd (fun _ _ _ _ ht => ht)).settleHalt

protected theorem Kept.issueFence {c slot kind} (hs : Kept σ s) : KR σ (issueFence s c slot kind) :=
  KR.next (hs.issueCmd (fun _ _ _ _ ht => ht.modCtx))

protected theorem Kept.execFenceLocal {c slot} (hs : Kept σ s) : KR σ (execFenceLocal c slot s) := hs.issueFence
protected theorem Kept.execFenceAtlas {c slot} (hs : Kept σ s) : KR σ (execFenceAtlas c slot s) := hs.issueFence

protected theorem Kept.execSemWait {c slot} (hs : Kept σ s) : KR σ (execSemWait c slot s) := by
  unfold execSemWait
  refine KR.next ?_
  refine hs.issueCmd fun _ _ _ _ ht => ?_
  extract_lets
  split; · exact ht.haltCmd
  split; · exact ht.haltCmd
  exact ht.same.setSem.modCtx.semGrant

protected theorem Kept.execSemSignal {c slot} (hs : Kept σ s) : KR σ (execSemSignal c slot s) := by
  unfold execSemSignal
  refine KR.next ?_
  refine hs.issueCmd fun _ _ _ _ ht => ?_
  extract_lets
  split; · exact ht.haltCmd
  exact ht.semAdd

protected theorem Kept.execSemWaitTimeout {jobid jcore} (hs : Kept σ s) :
    KR σ (execSemWaitTimeout jobid jcore s) := by
  unfold execSemWaitTimeout
  split; · exact KR.next hs
  split; · exact KR.next hs.advanceTo.semWithdraw.haltWaiter.semGrant
  exact KR.next hs

protected theorem Kept.memRead {c slot sl va cond value dl q} (hs : Kept σ s) :
    Kept σ (memRead s c slot sl va cond value dl q) := by
  unfold memRead
  extract_lets _ _ s' _ _ _ look
  have hs' : Kept σ s' := hs.coreWalk
  split
  · exact hs'.modCtx.postFault
  · split
    · rename_i e1
      exact (hs'.missAt.ofOk _ e1).modCtx
    · rename_i e2
      exact (hs'.missAt.ofErr _ e2).fst.modCtx.postFault
  · split; · exact hs'
    extract_lets
    split; · exact hs'.modCtx
    rename_i e3
    exact (hs'.startRemote.of _ e3).fst.modCtx
  · split; · exact hs'.modCtx
    unfold look
    split <;> exact hs'.hubRead.touchPage.modCtx
  · unfold look
    split <;> exact hs'.touchPage.modCtx

protected theorem Kept.execMemWait {c slot} (hs : Kept σ s) : KR σ (execMemWait c slot s) :=
  KR.next (hs.issueCmd (fun _ _ _ _ ht => ht.memRead))

protected theorem Kept.execMemWaitPoll {c slot} (hs : Kept σ s) : KR σ (execMemWaitPoll c slot s) := by
  unfold execMemWaitPoll
  split; · exact KR.next hs
  split
  · split; · exact KR.next hs.advanceTo.memRead
    exact KR.next hs
  · exact KR.next hs

protected theorem Kept.execMemWaitTimeout {c slot} (hs : Kept σ s) : KR σ (execMemWaitTimeout c slot s) := by
  unfold execMemWaitTimeout
  split; · exact KR.next hs
  split
  · split; · exact KR.next hs
    exact KR.next hs.advanceTo.modCtx.haltCmd
  · exact KR.next hs

protected theorem Kept.execSpadRegion {c slot} (hs : Kept σ s) : KR σ (execSpadRegion c slot s) :=
  KR.next (hs.issueCmd (fun _ _ _ _ ht => ht.modCtx))

protected theorem Kept.segStart {c slot id gs up dst n} (hs : Kept σ s) :
    Kept σ (segStart s c slot id gs up dst n) := by
  unfold segStart
  extract_lets
  split; · exact hs.releaseCmd
  exact hs.setCore

protected theorem Kept.execSpadSegmentUp {c slot} (hs : Kept σ s) : KR σ (execSpadSegmentUp c slot s) :=
  KR.next (hs.issueCmd (fun _ _ _ _ ht => ht.segStart))

protected theorem Kept.execSpadSegmentDown {c slot} (hs : Kept σ s) : KR σ (execSpadSegmentDown c slot s) :=
  KR.next (hs.issueCmd (fun _ _ _ _ ht => ht.segStart))

protected theorem Kept.segFinish {c} (hs : Kept σ s) : Kept σ (segFinish s c) :=
  Kept.foldl hs fun _ _ ht => ht.modCore.releaseCmd

protected theorem Kept.execSegmentWakeDone {c seg} (hs : Kept σ s) : KR σ (execSegmentWakeDone c seg s) := by
  unfold execSegmentWakeDone
  extract_lets
  split; · exact KR.next hs.advanceToCyc.modCore.segFinish
  exact KR.next hs

protected theorem Kept.execSegmentOff {c seg} (hs : Kept σ s) : KR σ (execSegmentOff c seg s) := by
  unfold execSegmentOff
  extract_lets
  split; · exact KR.next hs.advanceToCyc.modCore.segFinish
  exact KR.next hs

protected theorem Kept.donesemSignal {c slot sl p} (hs : Kept σ s) : Kept σ (donesemSignal s c slot sl p) := by
  unfold donesemSignal
  split; · exact hs
  split; · exact hs.semAdd
  exact hs.haltWith

protected theorem Kept.execPlotDone {c slot} (hs : Kept σ s) : KR σ (execPlotDone c slot s) := by
  unfold execPlotDone
  split; · exact KR.next hs
  split; · exact KR.next hs
  split; · exact KR.next hs.modCtx.modJob.donesemSignal.settleHalt.settleBatches.deal.settleEnding
  exact KR.next hs

protected theorem Kept.execStealRequest {c jobid} (hs : Kept σ s) : KR σ (execStealRequest c jobid s) := by
  unfold execStealRequest
  split; · exact KR.next hs
  split; · exact KR.next hs
  exact KR.next hs.modCore

protected theorem Kept.execStealRequestArrival {c jobid} (hs : Kept σ s) :
    KR σ (execStealRequestArrival c jobid s) := by
  unfold execStealRequestArrival
  split; · exact KR.next hs
  extract_lets s' _ refuse
  have hs' : Kept σ s' := hs.advanceToCyc
  have hrefuse : Kept σ refuse := hs'.modCore.countEv
  split
  · split; · exact KR.next hrefuse
    split; · exact KR.next hrefuse
    exact KR.next hs'.modCtx.modCtx.modCore.countEv.deal
  · exact KR.next hs'.modCore
  · exact KR.next hrefuse

protected theorem Kept.execStealRetry {c jobid} (hs : Kept σ s) : KR σ (execStealRetry c jobid s) := by
  unfold execStealRetry
  split; · exact KR.next hs
  exact hs.advanceToCyc.modCore.execStealRequest

/-! ### AtlasCmds -/

protected theorem Kept.dropTlbs {t ps} (hs : Kept σ s) : Kept σ (dropTlbs s t ps) := by
  unfold dropTlbs
  exact hs.same.modAtlas

protected theorem Kept.freeStorage {t p l} (hs : Kept σ s) : Kept σ (freeStorage s t p l) := by
  unfold freeStorage
  extract_lets s1
  have hs1 : Kept σ s1 := hs.zeroTile
  split; · exact hs1.releaseFrame
  exact hs1

protected theorem Kept.unmapPage {t p} (hs : Kept σ s) : Kept σ (unmapPage s t p) := by
  unfold unmapPage
  split; · exact hs.freeStorage.delLeaf
  exact hs

protected theorem Kept.allocPage {t p hub} (hs : Kept σ s) : KE KT (Kept σ) (allocPage s t p hub) := by
  unfold allocPage
  split; · exact KE.ok hs
  split
  · split; · exact KE.ok hs.tagFrame.setLeaf
    exact hs.startPromotion
  · exact hs.startPromotion

protected theorem Kept.allocPages {t hub a} (hs : Kept σ s) : KE KT (Kept σ) (allocPages s t hub a) := by
  induction a generalizing s with
  | nil => exact KE.ok hs
  | cons _ _ ih =>
    unfold allocPages
    split
    · rename_i e
      exact ih (hs.allocPage.ofOk _ e)
    · exact KE.error (KT.intro _)

protected theorem Kept.undoMap {t ps} (hs : Kept σ s) : Kept σ (undoMap s t ps) :=
  Kept.dropTlbs (Kept.foldl hs (fun _ _ ht' => ht'.unmapPage))

protected theorem Kept.execAtlasMap {r} (hs : Kept σ s) : KR σ (execAtlasMap r s) := by
  unfold execAtlasMap
  refine hs.runCmd fun _ _ _ ht => ?_
  extract_lets _ _ _ s2
  have hs2 : Kept σ s2 := Kept.foldl ht fun _ _ ht' => ht'.setLeaf
  split
  · split; · exact ht
    split; · exact ht.undoMap.countQuota.complete
    exact ht.complete
  · split; · exact ht.complete
    split
    · split; · exact ht.countQuota.complete
      rename_i s3 e
      have hs3 : Kept σ s3 := hs2.allocPages.ofOk _ e
      split; · exact hs3.modInfl
      exact hs3.complete
    · exact hs2.complete

protected theorem Kept.execAtlasUnmap {r} (hs : Kept σ s) : KR σ (execAtlasUnmap r s) := by
  unfold execAtlasUnmap
  refine hs.runCmd fun _ _ _ ht => ?_
  extract_lets
  split; · exact ht
  exact Kept.complete (Kept.dropTlbs (Kept.foldl ht (fun _ _ ht' => ht'.unmapPage)))

protected theorem Kept.execAtlasProtect {r} (hs : Kept σ s) : KR σ (execAtlasProtect r s) := by
  unfold execAtlasProtect
  refine hs.runCmd fun _ _ _ ht => ?_
  extract_lets
  split; · exact ht
  exact Kept.complete (Kept.dropTlbs (Kept.foldl ht (fun _ _ ht' => ht'.modLeaf)))

protected theorem Kept.pinPage {t p hub fg} (hs : Kept σ s) : KE KT (Kept σ) (pinPage s t p hub fg) := by
  unfold pinPage
  split; · exact KE.ok hs
  split
  · exact KE.ok hs.setLeaf
  · split
    · rename_i e1
      exact KE.ok (hs.allocPage.ofOk _ e1).modLeaf
    · exact KE.error (KT.intro _)
  · split
    · rename_i e2
      exact KE.ok (hs.startPromotion.ofOk _ e2).modAtlas
    · exact KE.error (KT.intro _)

protected theorem Kept.pinPages {t hub fg a} (hs : Kept σ s) : KE KT (Kept σ) (pinPages s t hub fg a) := by
  induction a generalizing s with
  | nil => exact KE.ok hs
  | cons _ _ ih =>
    unfold pinPages
    split
    · rename_i e
      exact ih (hs.pinPage.ofOk _ e)
    · exact KE.error (KT.intro _)

protected theorem Kept.undoPin {x} (hs : Kept σ s) : Kept σ (undoPin s x) :=
  Kept.foldl hs fun _ _ ht => ht.modLeaf.modAtlas

protected theorem Kept.execAtlasPin {r} (hs : Kept σ s) : KR σ (execAtlasPin r s) := by
  unfold execAtlasPin
  refine hs.runCmdIf fun _ _ _ ht => ?_
  extract_lets
  split
  · split; · exact ht.undoPin.complete
    split; · exact ht
    split; · exact ht.undoPin.countQuota.complete
    exact ht.complete
  · split; · exact ht.complete
    split; · exact ht
    split; · exact ht.complete
    split; · exact ht.badParam
    split; · exact ht.countQuota.complete
    rename_i s3 e
    have hs3 : Kept σ s3 := ht.pinPages.ofOk _ e
    split; · exact hs3.modInfl
    exact hs3.complete

protected theorem Kept.execAtlasUnpin {r} (hs : Kept σ s) : KR σ (execAtlasUnpin r s) := by
  unfold execAtlasUnpin
  refine hs.runCmdIf fun _ _ _ ht => ?_
  extract_lets
  split; · exact ht.complete
  split; · exact ht
  exact Kept.complete (Kept.foldl ht (fun _ _ ht' => ht'.modLeaf))

protected theorem Kept.execAtlasHintWillneed {r} (hs : Kept σ s) : KR σ (execAtlasHintWillneed r s) := by
  unfold execAtlasHintWillneed
  refine hs.runCmdIf fun _ _ _ ht => ?_
  extract_lets _ _ s2
  have hs2 : Kept σ s2 := Kept.foldl ht fun _ _ ht' => ht'.hintWillneed
  split
  · split; · exact ht
    exact ht.complete
  · split; · exact hs2.modInfl
    exact hs2.complete

protected theorem Kept.execAtlasHintCold {r} (hs : Kept σ s) : KR σ (execAtlasHintCold r s) :=
  hs.runCmdIf fun _ _ _ ht => Kept.complete (Kept.foldl ht (fun _ _ ht' => ht'.hintCold))

protected theorem Kept.execAtlasHintDemote {r} (hs : Kept σ s) : KR σ (execAtlasHintDemote r s) := by
  unfold execAtlasHintDemote
  refine hs.runCmdIf fun _ _ _ ht => ?_
  extract_lets _ _ _ s2
  have hs2 : Kept σ s2 := Kept.foldl ht fun _ _ ht' => ht'.hintDemote
  split
  · split; · exact ht
    exact ht.complete
  · split; · exact hs2.complete
    exact hs2.modInfl

protected theorem Kept.execAtlasZero {r} (hs : Kept σ s) : KR σ (execAtlasZero r s) := by
  unfold execAtlasZero
  refine hs.runCmd fun _ _ _ ht => ?_
  extract_lets
  split; · exact ht
  refine Kept.complete ?_
  refine Kept.foldl ht fun _ _ ht' => ?_
  split; · exact ht'.freeStorage.setLeaf
  exact ht'

protected theorem Kept.execAtlasPeerCreate {r} (hs : Kept σ s) : KR σ (execAtlasPeerCreate r s) := by
  unfold execAtlasPeerCreate
  refine hs.runCmdIf fun _ _ _ ht => ?_
  extract_lets
  split; · exact ht.complete
  split; · exact ht.complete
  exact Kept.complete (Kept.foldl ht.updCtx (fun _ _ ht' => ht'.setLeaf))

protected theorem Kept.execAtlasPeerRemove {r} (hs : Kept σ s) : KR σ (execAtlasPeerRemove r s) := by
  unfold execAtlasPeerRemove
  refine hs.runCmdIf fun _ _ _ ht => ?_
  extract_lets
  split; · exact ht.complete
  extract_lets
  split; · exact ht
  exact (Kept.dropTlbs (Kept.foldl ht (fun _ _ ht' => ht'.unmapPage))).updCtx.complete

protected theorem Kept.execAtlasLend {r} (hs : Kept σ s) : KR σ (execAtlasLend r s) := by
  unfold execAtlasLend
  refine hs.runCmd fun _ _ _ ht => ?_
  extract_lets
  split; · exact ht.complete
  split; · exact ht.complete
  exact ht.modAtlas.complete

protected theorem Kept.execAtlasHreg {r} (hs : Kept σ s) : KR σ (execAtlasHreg r s) := by
  unfold execAtlasHreg
  refine hs.runCmd fun _ _ _ ht => ?_
  split; · exact ht.complete
  exact ht.modAtlas.complete

protected theorem Kept.drainTile {q} (hs : Kept σ s) : KO (Kept σ) (drainTile s q) := by
  unfold drainTile
  split; · exact KO.some hs
  split; · exact KO.none
  split; · exact KO.some hs.addMig
  split; · exact KO.some hs.addMig
  exact KO.none

protected theorem Kept.drainTiles {a} (hs : Kept σ s) : KP σ (drainTiles s a) := by
  induction a generalizing s with
  | nil => exact KP.intro hs
  | cons _ _ ih =>
    unfold drainTiles
    split
    · rename_i e
      exact ih (hs.drainTile.of _ e)
    · exact KP.intro (ih hs).fst

protected theorem Kept.noteTried {r ts} (hs : Kept σ s) : Kept σ (noteTried s r ts) := by
  unfold noteTried
  extract_lets
  split; · exact hs
  exact hs.modInfl

protected theorem Kept.execAtlasHunreg {r} (hs : Kept σ s) : KR σ (execAtlasHunreg r s) := by
  unfold execAtlasHunreg
  refine hs.runCmd fun _ _ _ ht => ?_
  extract_lets
  split; · exact ht.complete
  extract_lets s2
  have hs2 : Kept σ s2 := ht.modAtlas
  split; · exact hs2.modAtlas.complete
  extract_lets d
  have hd : KP σ d := hs2.drainTiles
  split; · exact hd.fst.noteTried
  exact hd.fst.complete

protected theorem Kept.execAtlasFring {r} (hs : Kept σ s) : KR σ (execAtlasFring r s) := by
  unfold execAtlasFring
  refine hs.runCmd fun _ _ _ ht => ?_
  extract_lets
  split; · exact ht.complete
  exact ht.setCtx.complete

protected theorem Kept.execAtlasPolicy {r} (hs : Kept σ s) : KR σ (execAtlasPolicy r s) :=
  hs.runCmd fun _ _ _ ht => ht.updCtx.complete

protected theorem Kept.execAtlasQueryEntries {r} (hs : Kept σ s) : KR σ (execAtlasQueryEntries r s) :=
  hs.runCmdIf fun _ _ _ ht => ht.cmdHostPut.complete

protected theorem Kept.execAtlasQueryUsage {r} (hs : Kept σ s) : KR σ (execAtlasQueryUsage r s) :=
  hs.runCmdIf fun _ _ _ ht => ht.cmdHostPut.complete

protected theorem Kept.transGo {x t f a a2} (hs : Kept σ s) : Kept σ (transGo x t f a a2 s) := by
  induction a generalizing a2 s with
  | zero =>
    unfold transGo
    split; · exact hs.complete
    exact hs.modInfl
  | succ _ ih =>
    unfold transGo
    extract_lets _ _ _ _ s2
    have hs2 : Kept σ s2 := (Kept.foldl hs (fun _ _ ht' => ht'.partWrite)).touchCmd
    split
    · rename_i e
      exact (hs.cmdReady.ofWait _ e).modInfl
    · exact hs.cmdFault
    · split
      · rename_i e'
        exact (hs.cmdReady.ofWait _ e').modInfl
      · exact hs.cmdFault
      · split; · exact hs.modInfl
        split; · exact hs2.complete
        exact ih hs2

protected theorem Kept.execAtlasTranspose {r} (hs : Kept σ s) : KR σ (execAtlasTranspose r s) := by
  unfold execAtlasTranspose
  refine hs.runCmd fun _ _ _ ht => ?_
  extract_lets
  split; · exact ht
  exact ht.transGo

protected theorem Kept.dropMig {t p} (hs : Kept σ s) : Kept σ (dropMig s t p) := hs.modAtlas
protected theorem Kept.resumeMiss {t p} (hs : Kept σ s) : Kept σ (resumeMiss s t p) := hs.same
protected theorem Kept.quotaOthers {m cause} (hs : Kept σ s) : Kept σ (quotaOthers s m cause) := hs.same

protected theorem Kept.failPromotion {m cause} (hs : Kept σ s) : Kept σ (failPromotion s m cause) := by
  unfold failPromotion
  extract_lets _ _ s0
  have hs0 : Kept σ s0 := hs.modLeaf.dropMig
  exact Kept.foldl hs0.same.quotaOthers.countEvs fun _ _ ht' => Kept.foldl ht' (fun _ _ ht => ht.settleHalt)

protected theorem Kept.putMig {m1} (hs : Kept σ s) : Kept σ (putMig s m1) := hs.modAtlas

protected theorem Kept.retryRoom {m} (hs : Kept σ s) : Kept σ (retryRoom s m) := by
  unfold retryRoom
  split
  · rename_i e
    exact (hs.makeRoom.ofOk _ e).fst.putMig
  · exact hs.failPromotion

protected theorem Kept.failDemotion {a a2 a3 a4} (hs : Kept σ s) : Kept σ (failDemotion a a2 s a3 a4) := by
  induction a generalizing a2 s a3 a4 with
  | zero => exact hs
  | succ _ ih =>
    unfold failDemotion
    refine Kept.foldl hs fun _ _ ht => ?_
    split
    · split; · exact ht.retryRoom
      exact ht.failPromotion
    · extract_lets st1
      have hst1 : Kept σ st1 := ht.modLeaf.dropMig
      split
      · rename_i e
        obtain ⟨l, -, e⟩ := Option.bind_eq_some_iff.mp e
        exact hst1.takeBy.of _ e
      · exact ih hst1

protected theorem Kept.settleRooms (hs : Kept σ s) : Kept σ (settleRooms s) :=
  Kept.foldl hs fun _ _ ht => ht.retryRoom

protected theorem Kept.freeDst {m} (hs : Kept σ s) : Kept σ (freeDst s m) := by
  unfold freeDst
  split; · exact hs.releaseFrame
  exact hs

protected theorem Kept.poisonMig {m cause} (hs : Kept σ s) : Kept σ (poisonMig s m cause) :=
  hs.freeDst.dropMig.modLeaf.failDemotion.settleRooms.poisonEvent.resumeMiss

protected theorem Kept.noteTurn {m} (hs : Kept σ s) : Kept σ (noteTurn s m) := hs.modAtlas

protected theorem Kept.execPromotionComplete {t page cause} (hs : Kept σ s) :
    KR σ (execPromotionComplete t page cause s) := by
  unfold execPromotionComplete
  split
  · split; · exact KR.next hs
    split; · exact KR.next hs.poisonMig.serveAll
    split; · exact KR.next hs.poisonMig.serveAll
    split; · exact KR.next hs
    exact KR.next hs.tagFrame.dropMig.noteTurn.setLeaf.settleRooms.resumeMiss.wakeWatches.serveAll
  · exact KR.next hs

protected theorem Kept.releaseTo {t p from1} (hs : Kept σ s) : Kept σ (releaseTo s t p from1) := by
  unfold releaseTo
  extract_lets _ s1
  have hs1 : Kept σ s1 := by
    unfold s1
    split; · exact hs
    split; · exact hs.tagFrame
    exact hs.releaseFrame
  refine Kept.foldl hs1 fun _ _ ht' => ?_
  split; · exact ht'.putMig
  exact ht'.noteUsed.putMig

protected theorem Kept.demotionRetry {m l failed} (hs : Kept σ s) : Kept σ (demotionRetry s m l failed) := by
  unfold demotionRetry
  extract_lets _ s1 _ _ s2
  have hs1 : Kept σ s1 := by
    unfold s1
    split; · exact hs.postEvent
    exact hs
  have hs2 : Kept σ s2 := hs1.modLeaf.dropMig
  split; · exact hs1.noteUsed.putMig
  split
  · rename_i e
    exact hs2.takeBy.of _ e
  · exact hs2.failDemotion.settleRooms

protected theorem Kept.writeT3 {t p loc c} (hs : Kept σ s) : Kept σ (writeT3 s t p loc c) := by
  unfold writeT3
  split; · exact hs.hostPutS
  exact hs

protected theorem Kept.execDemotionComplete {t page res slot} (hs : Kept σ s) : KR σ (execDemotionComplete t page res slot s) := by
  unfold execDemotionComplete
  split
  · split; · exact KR.next hs
    split; · exact KR.next hs.poisonMig.serveAll
    split; · exact KR.next hs.poisonMig.serveAll
    split; · exact KR.next hs.demotionRetry.serveAll
    extract_lets
    split; · exact KR.next hs.demotionRetry.serveAll
    split; · exact KR.next hs
    split; · exact KR.next hs
    rename_i s0 e
    have hs0 : Kept σ s0 := by
      split at e
      · exact hs.programT4.of _ e
      · cases e; exact hs
    extract_lets s1 s2 s3
    have hs2 : Kept σ s2 := hs0.writeT3.dropMig.setLeaf.noteTurn.releaseTo
    have hs3 : Kept σ s3 := hs2.ite hs2.countEv
    exact KR.next hs3.settleRooms.resumeMiss.serveAll
  · exact KR.next hs

protected theorem Kept.execHeatDecay {t} (hs : Kept σ s) : KR σ (execHeatDecay t s) := KR.next hs.advance.setCtx

protected theorem Kept.resumeNow {c i skip} (hs : Kept σ s) : Kept σ (resumeNow s c i skip) := by
  unfold resumeNow
  split; · exact hs
  extract_lets
  split
  · exact hs
  · split; · exact hs.modCtx
    exact hs.modCtx.modCtx
  · split
    · split; · exact hs.modCtx.tmComplete
      exact hs.modCtx
    · exact hs.modCtx.modTm
  · split; · exact hs.modCtx.modCtx
    exact hs.modCtx
  · split; · exact hs.modCtx
    exact hs.modCtx.donesemSignal

protected theorem Kept.settleCore {jobid} (hs : Kept σ s) : Kept σ (settleCore s jobid) := by
  unfold settleCore
  split; · exact hs
  split; · exact hs
  extract_lets s1
  have hs1 : Kept σ s1 := by
    unfold s1
    refine Kept.foldl hs fun _ _ ht => ?_
    split; · exact ht
    split; · exact ht
    split; · exact ht
    split; · exact ht.abortJc
    split; · exact ht.resumeNow
    exact ht
  exact hs1.settleEnding

protected theorem Kept.execFringCidxWrite {fn value} (hs : Kept σ s) : KR σ (execFringCidxWrite fn value s) := by
  unfold execFringCidxWrite
  split; · exact KR.next hs.updCtx
  exact KR.next hs

end Sys2Proof.Safety
end

section
/-! `Kept` for the operations on jobs, models, time and the fabric. -/

namespace Sys2Proof.Safety

open Sys2Proof.Machine Sys2Proof.Laws

/- The proofs run in turn: side by side, the threads that wait for each other's case splits exhaust the memory. -/
set_option Elab.async false

variable {σ s : State}

/-! ### JobCmds -/

protected theorem Kept.makeJob {j} (hs : Kept σ s) : KO (KP σ) (makeJob s j) := by
  unfold makeJob
  extract_lets
  split; · exact KO.none
  exact KO.some (KP.intro hs.same)

protected theorem Kept.execJobCreate {r} (hs : Kept σ s) : KR σ (execJobCreate r s) := by
  unfold execJobCreate
  refine hs.runCmd fun _ _ _ ht => ?_
  extract_lets
  split
  · rename_i e
    exact ht.cmdRead.ofWait _ e
  · exact ht.cmdFault
  · rename_i s2' _ e1
    have hs2' : Kept σ s2' := ht.cmdRead.ofOk _ _ e1
    split; · exact hs2'.badBlock
    split
    · rename_i e2
      exact hs2'.cmdRead.ofWait _ e2
    · exact hs2'.cmdFault
    · rename_i s2 _ e3
      have hs2 : Kept σ s2 := hs2'.cmdRead.ofOk _ _ e3
      split; · exact hs2.badBlock
      split; · exact hs2.complete
      rename_i s1 _ e4
      have hs1 : Kept σ s1 := (hs2.makeJob.of _ e4).fst
      split
      · rename_i e5
        exact (hs1.cmdWrite.ofOk _ _ e5).placement.complete
      · rename_i e6
        exact (hs1.cmdWrite.ofWait _ e6).same
      · exact hs2.cmdFault

protected theorem Kept.handPlots {jobid j target cmd ps} (hs : Kept σ s) :
    Kept σ (handPlots s jobid j target cmd ps) := by
  unfold handPlots
  extract_lets _ _ _ _ s2 s3
  have hs2 : Kept σ s2 := hs.same.modJob
  have hs3 : Kept σ s3 := by
    unfold s3
    split; · exact hs2.modJc
    exact hs2
  exact hs3.deal

protected theorem Kept.execJobPlots {r} (hs : Kept σ s) : KR σ (execJobPlots r s) := by
  unfold execJobPlots
  refine hs.runCmd fun _ _ _ ht => ?_
  extract_lets
  split; · exact ht
  split; · exact ht.complete
  split; · exact ht.badParam
  split; · exact ht.complete
  split
  · split; · exact ht
    split
    · rename_i e1
      exact ht.cmdReady.ofWait _ e1
    · exact ht.cmdFault
    · extract_lets
      split; · exact ht.badParam
      exact ht.touchCmd.modInfl.handPlots
  · split; · exact ht
    split
    · rename_i e2
      exact ht.cmdReady.ofWait _ e2
    · exact ht.cmdFault
    · extract_lets
      split; · exact ht.badParam
      exact ht.touchCmd.modInfl.handPlots

protected theorem Kept.giveResume {jobid i jc skip} (hs : Kept σ s) : Kept σ (giveResume s jobid i jc skip) := by
  unfold giveResume
  split; · exact hs.modJc
  split; · exact hs.resumeNow
  exact hs.modCtx

protected theorem Kept.jobResume {r skip} (hs : Kept σ s) : KR σ (jobResume s r skip) := by
  unfold jobResume
  refine hs.runCmdIf fun _ _ _ ht => ?_
  extract_lets
  split; · exact ht.complete
  split; · exact ht.badParam
  split; · exact ht.badParam
  exact ht.giveResume.complete

protected theorem Kept.execJobResumeRetry {r} (hs : Kept σ s) : KR σ (execJobResumeRetry r s) := hs.jobResume
protected theorem Kept.execJobResumeSkip {r} (hs : Kept σ s) : KR σ (execJobResumeSkip r s) := hs.jobResume

protected theorem Kept.boundaryJc {jobid i jc} (hs : Kept σ s) : Kept σ (boundaryJc s jobid i jc) := by
  unfold boundaryJc
  split; · exact hs.abortJc
  extract_lets _ s1
  have hs1 : Kept σ s1 := hs.modJc.dropPlots
  split
  · exact hs1
  · split; · exact hs1.modJc.dropPlots
    exact hs1
  · split; · exact hs1.modCtx.dropPlots
    exact hs1

protected theorem Kept.joinEnd {r jobid mode} (hs : Kept σ s) : Kept σ (joinEnd s r jobid mode) := hs.modJob

protected theorem Kept.execJobAbortFinish {r} (hs : Kept σ s) : KR σ (execJobAbortFinish r s) := by
  unfold execJobAbortFinish
  refine hs.runCmdIf fun _ _ _ ht => ?_
  split; · exact ht.complete
  exact ht.joinEnd.settleEnding

protected theorem Kept.cancelBatches {jobid} (hs : Kept σ s) : Kept σ (cancelBatches s jobid) := by
  unfold cancelBatches
  split; · exact hs
  refine Kept.foldl hs fun _ _ ht => ?_
  split; · exact ht.modJob.complete
  exact ht

protected theorem Kept.execJobAbortBoundary {r} (hs : Kept σ s) : KR σ (execJobAbortBoundary r s) := by
  unfold execJobAbortBoundary
  refine hs.runCmdIf fun _ _ _ ht => ?_
  extract_lets
  split; · exact ht.complete
  exact (Kept.foldl ht.joinEnd.modJob.dropPlots (fun _ _ ht' =>
    ht'.boundaryJc)).cancelBatches.settleBatches.settleEnding.placement

protected theorem Kept.execJobAbortImmediate {r} (hs : Kept σ s) : KR σ (execJobAbortImmediate r s) := by
  unfold execJobAbortImmediate
  refine hs.runCmdIf fun _ _ _ ht => ?_
  split; · exact ht.complete
  split; · exact ht.complete
  split; · exact ht.joinEnd
  exact ht.joinEnd.abortJob

protected theorem Kept.execJobSemCreate {r} (hs : Kept σ s) : KR σ (execJobSemCreate r s) := by
  unfold execJobSemCreate
  refine hs.runCmdIf fun _ _ _ ht => ?_
  split; · exact ht.complete
  split; · exact ht.complete
  exact ht.setSem.complete

protected theorem Kept.execJobSemDestroy {r} (hs : Kept σ s) : KR σ (execJobSemDestroy r s) := by
  unfold execJobSemDestroy
  refine hs.runCmdIf fun _ _ _ ht => ?_
  extract_lets
  split; · exact ht.complete
  split; · exact ht.complete
  exact ht.semDestroy.inheritStep.complete

protected theorem Kept.execJobPrio {r} (hs : Kept σ s) : KR σ (execJobPrio r s) := by
  unfold execJobPrio
  refine hs.runCmd fun _ _ _ ht => ?_
  split; · exact ht.complete
  exact ht.modJob.inheritStep.placement.complete

protected theorem Kept.execJobStatus {r} (hs : Kept σ s) : KR σ (execJobStatus r s) := by
  unfold execJobStatus
  refine hs.runCmd fun _ _ _ ht => ?_
  split <;> exact ht.complete

protected theorem Kept.execJobPolicy {r} (hs : Kept σ s) : KR σ (execJobPolicy r s) :=
  hs.runCmd fun _ _ _ ht => ht.same.complete

protected theorem Kept.execSaveQuiesceEnd {c slot} (hs : Kept σ s) : KR σ (execSaveQuiesceEnd c slot s) := by
  unfold execSaveQuiesceEnd
  split; · exact KR.next hs
  extract_lets
  split; · exact KR.next hs
  exact KR.next hs.modCore.modJc

protected theorem Kept.execSaveDrainEnd {c slot} (hs : Kept σ s) : KR σ (execSaveDrainEnd c slot s) := by
  unfold execSaveDrainEnd
  split; · exact KR.next hs
  extract_lets
  split; · exact KR.next hs
  exact KR.next hs.modJc

protected theorem Kept.execSaveEnd {c slot} (hs : Kept σ s) : KR σ (execSaveEnd c slot s) := by
  unfold execSaveEnd
  split; · exact KR.next hs
  split; · exact KR.next hs
  exact KR.next hs.advanceToCyc.modSlot.modJc

protected theorem Kept.execSaveReleaseEnd {c slot} (hs : Kept σ s) : KR σ (execSaveReleaseEnd c slot s) := by
  unfold execSaveReleaseEnd
  split; · exact KR.next hs
  split; · exact KR.next hs
  exact KR.next hs.advanceToCyc.clearSlot.modJc.feedReserve.inheritStep.placement

protected theorem Kept.execRestoreEnd {c slot} (hs : Kept σ s) : KR σ (execRestoreEnd c slot s) := by
  unfold execRestoreEnd
  split; · exact KR.next hs
  split; · exact KR.next hs
  extract_lets s1 _ s2
  have hs1 : Kept σ s1 := hs.advanceToCyc
  have hs2 : Kept σ s2 := by
    unfold s2
    split; · exact hs1
    exact hs1.setCore.modCtx
  exact KR.next hs2.modCore.modJc.inheritStep.settleCore.deal.settleEnding

protected theorem Kept.parkWaiter {h w} (hs : Kept σ s) : Kept σ (parkWaiter s h w) := by
  unfold parkWaiter
  split
  · split; · exact hs
    extract_lets
    split; · exact hs
    exact hs.takeVictims
  · exact hs

protected theorem Kept.execInhtoExpiry {jobid} (hs : Kept σ s) : KR σ (execInhtoExpiry jobid s) := by
  unfold execInhtoExpiry
  split; · exact KR.next hs
  extract_lets s1
  have hs1 : Kept σ s1 := hs.advanceTo
  split; · exact KR.next hs1.same
  split; · exact KR.next hs1.same
  split; · exact KR.next hs1.same
  exact KR.next hs1.same.parkWaiter.inheritStep

/-! ### ModelOps -/

protected theorem Kept.modModel {h f} (hs : Kept σ s) : Kept σ (modModel s h f) := hs.same
protected theorem Kept.modVer {q f} (hs : Kept σ s) : Kept σ (modVer s q f) := hs.modModel
protected theorem Kept.modSv {q f} (hs : Kept σ s) : Kept σ (modSv s q f) := hs.modVer

protected theorem Kept.forceUnmap {t p} (hs : Kept σ s) : Kept σ (forceUnmap s t p) := by
  unfold forceUnmap
  extract_lets s1
  have hs1 : Kept σ s1 := by
    unfold s1
    split; · exact hs.freeDst.dropMig
    exact hs
  exact hs1.unmapPage

protected theorem Kept.dropWindow {t w} (hs : Kept σ s) : Kept σ (dropWindow s t w) := by
  unfold dropWindow
  split; · exact hs
  exact (Kept.dropTlbs (Kept.foldl hs (fun _ _ ht' => ht'.unmapPage))).updCtx

protected theorem Kept.finishJob {j} (hs : Kept σ s) : Kept σ (finishJob s j) := hs.modJob.settleEnding
protected theorem Kept.dropGaz {p} (hs : Kept σ s) : Kept σ (dropGaz s p) := hs.same

protected theorem Kept.freeVer {q} (hs : Kept σ s) : Kept σ (freeVer s q) := by
  unfold freeVer
  extract_lets s'
  have hs' : Kept σ s' := hs.dropGaz
  split; · exact Kept.dropTlbs (Kept.foldl (Kept.dropTlbs (Kept.foldl (Kept.foldl (Kept.foldl
        (Kept.foldl hs'.modModel (fun _ _ ht' => ht'.finishJob)) (fun _ _ ht' => ht'.dropWindow)) (fun _ _ ht' =>
          ht'.modLeaf)) (fun _ _ ht' => ht'.forceUnmap))) (fun _ _ ht' => ht'.modLeaf))
  exact hs'

protected theorem Kept.settleModel {h} (hs : Kept σ s) : Kept σ (settleModel s h) := by
  unfold settleModel
  split; · exact hs
  extract_lets s1 _
  have hs1 : Kept σ s1 := Kept.foldl hs fun _ _ ht => ht.freeVer
  split
  · split; · exact hs1.same
    exact hs1
  · exact hs1

protected theorem Kept.settleModels (hs : Kept σ s) : Kept σ (settleModels s) :=
  Kept.foldl hs fun _ _ ht => ht.settleModel

protected theorem Kept.touchVer {q} (hs : Kept σ s) : Kept σ (touchVer s q) := hs.modVer
protected theorem Kept.unbind {r} (hs : Kept σ s) : Kept σ (unbind s r) := hs.same.settleModels

protected theorem Kept.forgetCmd {r} (hs : Kept σ s) : Kept σ (forgetCmd s r) := by
  unfold forgetCmd
  extract_lets s' _ s1
  have hs' : Kept σ s' := hs.same
  have hs1 : Kept σ s1 := by
    unfold s1
    split; · exact hs'.same.finishJob
    exact hs'
  exact hs1.same.unbind

protected theorem Kept.engMiss {t u p} (hs : Kept σ s) : KPageAcc σ (engMiss s t u p) := by
  unfold engMiss
  split; · exact KPageAcc.fault
  split; · exact KPageAcc.wait hs
  split
  · rename_i e
    exact KPageAcc.wait (hs.unitWalk.missAt.ofOk _ e).modAtlas
  · exact KPageAcc.fault

protected theorem Kept.engPageAs {svc t u p acc} (hs : Kept σ s) : KPageAcc σ (engPageAs s svc t u p acc) := by
  unfold engPageAs
  split
  · exact KPageAcc.fault
  · exact hs.engMiss
  · split; · exact KPageAcc.fault
    split; · exact KPageAcc.ready
    split; · exact KPageAcc.wait hs
    split; · exact KPageAcc.fault
    extract_lets
    split; · exact KPageAcc.wait hs
    rename_i e
    exact KPageAcc.wait (hs.startRemote.of _ e).fst
  · split
    · split; · exact KPageAcc.wait hs
      exact KPageAcc.ready
    · exact KPageAcc.ready

protected theorem Kept.engPage {t u p acc} (hs : Kept σ s) : KPageAcc σ (engPage s t u p acc) := hs.engPageAs

protected theorem Kept.engReady {t u acc a} (hs : Kept σ s) : KPageAcc σ (engReady s t u acc a) := by
  induction a with
  | nil => exact KPageAcc.ready
  | cons _ _ ih =>
    unfold engReady
    split; · exact ih
    exact hs.engPage

protected theorem Kept.engForget {t ps} (hs : Kept σ s) : Kept σ (engForget s t ps) := by
  unfold engForget
  split; · exact hs
  exact hs.same

protected theorem Kept.engReadAs {t u acc va n} (hs : Kept σ s) : KSeqAcc σ (engReadAs s t u acc va n) := by
  unfold engReadAs
  split; · exact KSeqAcc.fault hs
  split
  · rename_i e
    exact KSeqAcc.wait (hs.engReady.ofWait _ e)
  · exact KSeqAcc.fault hs.engForget.countQuota
  · exact KSeqAcc.ok hs.hubRead.engForget.touchPages

protected theorem Kept.engRead {t u va n} (hs : Kept σ s) : KSeqAcc σ (engRead s t u va n) := hs.engReadAs

protected theorem Kept.engPut {t va bs} (hs : Kept σ s) : Kept σ (engPut s t va bs) := by
  unfold engPut
  split
  · extract_lets
    split; · exact hs
    rename_i e
    exact (hs.startRemote.of _ e).fst
  · exact hs.hubWrite

protected theorem Kept.engPuts {t a a2} (hs : Kept σ s) : Kept σ (engPuts s t a a2) := by
  induction a generalizing s a2 with
  | nil => exact hs
  | cons _ _ ih => exact ih hs.engPut

protected theorem Kept.engWrite {t u va bs} (hs : Kept σ s) : KSeqAcc σ (engWrite s t u va bs) := by
  unfold engWrite
  split; · exact KSeqAcc.fault hs
  split
  · rename_i e
    exact KSeqAcc.wait (hs.engReady.ofWait _ e)
  · exact KSeqAcc.fault hs.engForget.countQuota
  · split; · exact KSeqAcc.wait hs
    exact KSeqAcc.ok hs.engPuts.touchPages

protected theorem Kept.seqRead {t va n} (hs : Kept σ s) : KSeqAcc σ (seqRead s t va n) := hs.engRead

/-! ### SeqEnd -/

protected theorem Kept.modServing {f} (hs : Kept σ s) : Kept σ (modServing s f) := hs.same
protected theorem Kept.modSeq {i f} (hs : Kept σ s) : Kept σ (modSeq s i f) := hs.modServing
protected theorem Kept.modPol {t f} (hs : Kept σ s) : Kept σ (modPol s t f) := hs.modServing
protected theorem Kept.setFlag {i bit} (hs : Kept σ s) : Kept σ (setFlag s i bit) := hs.modSeq

/-! ### TimeOps -/

protected theorem Kept.modTime {f} (hs : Kept σ s) : Kept σ (modTime s f) := hs.same
protected theorem Kept.modTPort {p f} (hs : Kept σ s) : Kept σ (modTPort s p f) := hs.modTime

protected theorem Kept.datumNote {before after} (hafter : Kept σ after) :
    Kept σ (datumNote before after) := by
  unfold datumNote
  split; · exact hafter.postEvent.irqSet
  exact hafter

protected theorem Kept.toHoldover (hs : Kept σ s) : Kept σ (toHoldover s) := hs.modTime.datumNote

protected theorem Kept.seekParent (hs : Kept σ s) : Kept σ (seekParent s) := by
  unfold seekParent
  split; · exact hs.modTime.datumNote
  split; · exact hs.toHoldover
  exact hs.modTime

protected theorem Kept.timePortDown {p} (hs : Kept σ s) : Kept σ (timePortDown s p) := by
  unfold timePortDown
  extract_lets s1
  have hs1 : Kept σ s1 := hs.modTPort
  split; · exact hs1.seekParent
  exact hs1

protected theorem Kept.addAct {t kind cmd} (hs : Kept σ s) : Kept σ (addAct s t kind cmd) := by
  unfold addAct
  exact hs.modTime

protected theorem Kept.schedCmd {r t kind} (hs : Kept σ s) : Kept σ (schedCmd s r t kind) := by
  unfold schedCmd
  split; · exact hs.complete
  exact hs.addAct

/-! ### FabOps -/

protected theorem Kept.pushInbox {q} (hs : Kept σ s) : Kept σ (pushInbox s q) := hs.same

protected theorem Kept.giveBack {q n} (hs : Kept σ s) : Kept σ (giveBack s q n) := by
  unfold giveBack
  split; · exact hs
  split; · exact hs
  extract_lets _ s1
  have hs1 : Kept σ s1 := hs.modPort
  split; · exact hs1.same
  exact hs1.modPort

protected theorem Kept.returnCredits {q} (hs : Kept σ s) : Kept σ (returnCredits s q) := hs.giveBack

protected theorem Kept.deliverOrd {q} (hs : Kept σ s) : Kept σ (deliverOrd s q) := by
  unfold deliverOrd
  extract_lets
  split; · exact hs.returnCredits.sendMsg
  split; · exact (Kept.foldl hs.same.pushInbox (fun _ _ ht => ht.pushInbox)).sendMsg
  split; · exact hs.returnCredits.countEv
  exact Kept.same (s := returnCredits s q) hs.returnCredits

protected theorem Kept.toInbox {q} (hs : Kept σ s) : Kept σ (toInbox s q) := by
  unfold toInbox
  split; · exact hs.deliverOrd
  exact hs.pushInbox

protected theorem Kept.sendOrd {m} (hs : Kept σ s) : Kept σ (sendOrd s m) := by
  unfold sendOrd
  extract_lets
  split; · exact hs.same
  exact hs.same.sendMsg

protected theorem Kept.dropRoute {q} (hs : Kept σ s) : Kept σ (dropRoute s q) := by
  unfold dropRoute
  extract_lets s'
  have hs' : Kept σ s' := hs.returnCredits
  split
  · split; · exact hs'.toInbox
    exact hs'.same
  · exact hs'

protected theorem Kept.joinQueue {p q esc nm} (hs : Kept σ s) : Kept σ (joinQueue s p q esc nm) := hs.same

protected theorem Kept.routeOne {q} (hs : Kept σ s) : Kept σ (routeOne s q) := by
  unfold routeOne
  extract_lets
  split
  · split; · exact hs.joinQueue
    exact hs
  · split; · exact hs.dropRoute
    split; · exact hs.returnCredits.countEv
    split
    · exact hs.toInbox
    · exact hs.joinQueue
    · exact hs.same
    · exact hs.dropRoute

protected theorem Kept.routeAll (hs : Kept σ s) : Kept σ (routeAll s) := Kept.foldl hs.same fun _ _ ht => ht.routeOne
protected theorem Kept.sendLocal {p m} (hs : Kept σ s) : Kept σ (sendLocal s p m) := hs.routeOne

protected theorem Kept.putFlits {n msg fs} (hs : Kept σ s) : Kept σ (putFlits s n msg fs) := by
  unfold putFlits
  split; · exact hs
  exact Kept.foldl hs.modPort fun _ _ ht => ht.emit

protected theorem Kept.pumpCtrl {n} (hs : Kept σ s) : Kept σ (pumpCtrl s n) := by
  unfold pumpCtrl
  extract_lets
  split; · exact hs
  exact hs.modPort.putFlits

protected theorem Kept.sendCtrl {n args} (hs : Kept σ s) : Kept σ (sendCtrl s n args) := hs.modPort.pumpCtrl
protected theorem Kept.idleFlit {n} (hs : Kept σ s) : Kept σ (idleFlit s n) := hs.modPort.emit

protected theorem Kept.sendSome {n x first} (hs : Kept σ s) : Kept σ (sendSome s n x first) := by
  unfold sendSome
  extract_lets _ _ _ _ s2
  have hs2 : Kept σ s2 := hs.putFlits.modPort.countEvs
  split; · exact hs
  split; · exact hs2.countEvs.giveBack
  split; · exact hs2.countEvs
  exact hs2

protected theorem Kept.sendBy {n p svc t q} (hs : Kept σ s) : Kept σ (sendBy s n p svc t q) := by
  unfold sendBy
  extract_lets _ _ _ _ _ _ _ _ s1 _ _ s3
  have hs1 : Kept σ s1 := hs.modPort
  have hs3 : Kept σ s3 := hs1.same.sendSome
  split; · exact hs3.countEv
  exact hs3

protected theorem Kept.fabEgress {n} (hs : Kept σ s) : Kept σ (fabEgress s n) := by
  unfold fabEgress
  extract_lets s'
  have hs'' : Kept σ s' := hs.routeAll.settleGate.pumpCtrl
  split; · exact hs''
  split
  · split; · exact hs''
    split; · exact (hs''.countEv.ite hs'').idleFlit
    exact hs''.sendSome
  · split; · exact (hs''.countEv.ite hs'').idleFlit
    split; · exact hs''
    exact hs''.sendBy

protected theorem Kept.flood {kind module skip} (hs : Kept σ s) : Kept σ (flood s kind module skip) := by
  unfold flood
  refine Kept.foldl hs fun _ _ ht => ?_
  split; · exact ht.sendLocal
  exact ht

protected theorem Kept.peerLoss {m} (hs : Kept σ s) : Kept σ (peerLoss s m) := by
  unfold peerLoss
  exact (Kept.foldl hs.modAtlas (fun _ _ ht => ht.modLeaf.poisonEvent)).modAtlas

protected theorem Kept.sendSeq {m} (hs : Kept σ s) : Kept σ (sendSeq s m) := (hs.sendOrd.ite hs.sendMsg).routeAll

protected theorem Kept.endRecord {i x reason status detail} (hs : Kept σ s) :
    Kept σ (endRecord s i x reason status detail) := by
  unfold endRecord
  split; · exact hs.sendSeq
  extract_lets _ _ s2
  have hs2 : Kept σ s2 := hs.hostPutP.hostPutP
  split; · exact hs2
  exact hs2.msixEvent

protected theorem Kept.loseStub {m q} (hs : Kept σ s) : Kept σ (loseStub m s q) := by
  unfold loseStub
  split; · exact hs
  split; · exact hs
  split
  · extract_lets s1
    have hs1 : Kept σ s1 := hs.endRecord
    exact hs1.same.modServing.settleModels
  · extract_lets
    split; · exact hs.modSeq.complete
    exact hs.modSeq

protected theorem Kept.loseStubs {m} (hs : Kept σ s) : Kept σ (loseStubs s m) :=
  Kept.foldl hs fun _ _ ht => ht.loseStub

protected theorem Kept.loseModule {m services skip} (hs : Kept σ s) : Kept σ (loseModule s m services skip) := by
  unfold loseModule
  extract_lets _ _ _ s1
  have hs1 : Kept σ s1 := hs.same.postEvent
  split; · exact hs
  exact (hs1.flood.peerLoss.loseStubs.ite hs1.flood).routeAll

protected theorem Kept.joinModule {m skip} (hs : Kept σ s) : Kept σ (joinModule s m skip) := by
  unfold joinModule
  split; · exact hs
  exact hs.same.modAtlas.postEvent.flood

protected theorem Kept.setPortSt {n st} (hs : Kept σ s) : Kept σ (setPortSt s n st) := hs.modPort

protected theorem Kept.reroutePort {n} (hs : Kept σ s) : Kept σ (reroutePort s n) := by
  unfold reroutePort
  extract_lets _ _ s0 _ s1
  have hs0 : Kept σ s0 := by
    unfold s0
    split; · exact hs.giveBack
    exact hs
  have hs1 : Kept σ s1 := hs0.modPort
  exact hs1.same.routeAll

protected theorem Kept.probePeer {m} (hs : Kept σ s) : Kept σ (probePeer s m) := by
  unfold probePeer
  split; · exact hs
  exact hs.same.sendMsg.routeAll

protected theorem Kept.fenceMark {src} (hs : Kept σ s) : Kept σ (fenceMark s src) := hs.same.postEvent.irqAll

protected theorem Kept.portDown {n} (hs : Kept σ s) : Kept σ (portDown s n) := by
  unfold portDown
  extract_lets p at16 s1 s2 s3
  split; · exact hs
  have hs3 : Kept σ s3 := hs.setPortSt.modPort.postEvent.reroutePort.timePortDown.probePeer
  clear_value s3
  split
  · exact (hs3.same (t := { s3 with enPorts := _ })).fenceMark.setPortSt
  · exact hs3

/-! ### MboxCmds -/

protected theorem Kept.execSqTailWrite {fn mbox value} (hs : Kept σ s) : KR σ (execSqTailWrite fn mbox value s) := by
  unfold execSqTailWrite
  split; · exact KR.next hs
  exact KR.next hs.countEv.barArrive

protected theorem Kept.execCqHeadWrite {fn mbox value} (hs : Kept σ s) : KR σ (execCqHeadWrite fn mbox value s) := by
  unfold execCqHeadWrite
  split; · exact KR.next hs
  exact KR.next hs.countEv.barArrive

protected theorem Kept.execMboxEnable {fn} (hs : Kept σ s) : KR σ (execMboxEnable fn s) := by
  unfold execMboxEnable
  extract_lets
  split; · exact KR.next hs
  split <;> exact KR.next hs.setMbox

protected theorem Kept.execMboxDisable {fn} (hs : Kept σ s) : KR σ (execMboxDisable fn s) := by
  unfold execMboxDisable
  extract_lets
  split; · exact KR.next hs.setMbox.drainCheck
  exact KR.next hs

protected theorem Kept.settleTurn (hs : Kept σ s) : Kept σ (settleTurn s) := by
  unfold settleTurn
  split <;> exact hs.same

protected theorem Kept.enterCmd {x m} (hs : Kept σ s) : Kept σ (enterCmd s x m) := by
  unfold enterCmd
  extract_lets s1
  have hs1 : Kept σ s1 := hs.same.countEv
  split; · exact hs1.complete
  exact hs1

protected theorem Kept.execMboxFetch {entry} (hs : Kept σ s) : KR σ (execMboxFetch entry s) := by
  unfold execMboxFetch
  split; · exact KR.next hs
  exact KR.next hs.same.setMbox.enterCmd.settleTurn

protected theorem Kept.execMctpRequest {entry data} (hs : Kept σ s) : KR σ (execMctpRequest entry data s) := by
  unfold execMctpRequest
  split; · exact KR.next hs
  exact KR.next hs.enterCmd

protected theorem Kept.execDevIdentify {r} (hs : Kept σ s) : KR σ (execDevIdentify r s) :=
  hs.runCmd fun _ _ _ ht => ht.cmdHostPut.complete

protected theorem Kept.execDevMboxCreate {r} (hs : Kept σ s) : KR σ (execDevMboxCreate r s) := by
  unfold execDevMboxCreate
  refine hs.runCmdIf fun _ _ _ ht => ?_
  extract_lets
  split; · exact ht.complete
  exact ht.setMbox.complete

protected theorem Kept.execDevMboxRemove {r} (hs : Kept σ s) : KR σ (execDevMboxRemove r s) := by
  unfold execDevMboxRemove
  refine hs.runCmdIf fun _ _ _ ht => ?_
  extract_lets
  split
  · split; · exact ht
    exact ht.complete
  · split; · exact ht.setMbox.complete
    exact ht.setMbox

protected theorem Kept.execLogRing {r} (hs : Kept σ s) : KR σ (execLogRing r s) := by
  unfold execLogRing
  refine hs.runCmd fun _ _ _ ht => ?_
  extract_lets
  split; · exact ht.same.complete
  exact (ht.same.logStore.ite ht.same).complete

protected theorem Kept.execLogFilter {r} (hs : Kept σ s) : KR σ (execLogFilter r s) :=
  hs.runCmd fun _ _ _ ht => ht.same.complete

protected theorem Kept.execLogRead {r} (hs : Kept σ s) : KR σ (execLogRead r s) :=
  hs.runCmd fun _ _ _ ht => ht.cmdHostPut.complete

protected theorem Kept.execLogRingWrite {ok} (hs : Kept σ s) : KR σ (execLogRingWrite ok s) := by
  unfold execLogRingWrite
  extract_lets
  split
  · split; · exact KR.next hs
    split; · exact KR.next hs.same
    split; · exact KR.next hs.same
    extract_lets s1
    have hs1 : Kept σ s1 := hs.same.hostPut
    exact KR.next (hs1.irqSet.ite hs1)
  · exact KR.next hs

protected theorem Kept.execEvconsWrite {value} (hs : Kept σ s) : KR σ (execEvconsWrite value s) := KR.next hs.same

protected theorem Kept.execEventCoalesceClose {src code arg0} (hs : Kept σ s) :
    KR σ (execEventCoalesceClose src code arg0 s) := by
  unfold execEventCoalesceClose
  split; · exact KR.next hs
  extract_lets s1
  have hs1 : Kept σ s1 := hs.advanceTo
  exact KR.next hs1.same.logStore

/-! ### FabRecv -/

protected theorem Kept.doneMsg {q} (hs : Kept σ s) : Kept σ (doneMsg s q) := hs.same.returnCredits
protected theorem Kept.holdMsg {q q1} (hs : Kept σ s) : Kept σ (holdMsg s q q1) := hs.same

protected theorem Kept.police {q} (hs : Kept σ s) : KP σ (police s q) := by
  unfold police
  extract_lets
  split; · exact KP.intro hs
  exact KP.intro hs.same

protected theorem Kept.reply {m} (hs : Kept σ s) : Kept σ (reply s m) := hs.sendMsg.routeAll

protected theorem Kept.rejectMsg {q} (hs : Kept σ s) : Kept σ (rejectMsg s q) := by
  unfold rejectMsg
  extract_lets s1
  have hs1 : Kept σ s1 := hs.doneMsg
  split; · exact hs1.reply
  exact hs1

protected theorem Kept.keepResp {m resp} (hs : Kept σ s) : Kept σ (keepResp s m resp) := hs.same

protected theorem Kept.targetCheck {q len acc} (hs : Kept σ s) : KTarget σ (targetCheck s q len acc) := by
  unfold targetCheck
  extract_lets
  split; · exact KTarget.err
  split; · exact KTarget.err
  split
  · exact KTarget.err
  · split; · exact KTarget.err
    split; · exact KTarget.wait hs
    split
    · rename_i e
      exact KTarget.wait (hs.unitWalk.missAt.ofOk _ e).holdMsg
    · exact KTarget.err
  · exact KTarget.ready
  · split
    · split; · exact KTarget.wait hs
      exact KTarget.ready
    · exact KTarget.ready

protected theorem Kept.serveReq {op len acc bad eff} (hs : Kept σ s) (heff : ∀ t a1, Kept σ t → KP σ (eff t a1)) :
    KR σ (serveReq s op len acc bad eff) := by
  unfold serveReq
  split; · exact KR.next hs
  extract_lets _ _ s1 r s2
  have hs1 : Kept σ s1 := hs.police.fst.holdMsg
  have hr : KP σ r := heff _ _ hs1.touchPages
  have hs2 : Kept σ s2 := by
    unfold s2
    split; · exact hr.fst
    exact hr.fst.keepResp
  split; · exact KR.next hs.police.fst.rejectMsg
  split; · exact KR.next hs1.doneMsg.reply
  split; · exact KR.next hs1
  split; · exact KR.next hs1.doneMsg.reply
  split
  · rename_i e
    exact KR.next (hs1.targetCheck.ofWait _ e)
  · exact KR.next hs1.countQuota.doneMsg.reply
  · exact KR.next hs2.doneMsg.reply.serveAll

protected theorem Kept.execTreadReceive (hs : Kept σ s) : KR σ (execTreadReceive s) :=
  hs.serveReq fun _ _ ht => KP.intro ht.hubRead

protected theorem Kept.execTwriteReceive (hs : Kept σ s) : KR σ (execTwriteReceive s) :=
  hs.serveReq fun _ _ ht => KP.intro ht.modeWrite

protected theorem Kept.execAtomicReceive (hs : Kept σ s) : KR σ (execAtomicReceive s) :=
  hs.serveReq fun _ _ ht => KP.intro ht.hubAtomic.fst

protected theorem Kept.execResponseTableExpiry (hs : Kept σ s) : KR σ (execResponseTableExpiry s) := by
  unfold execResponseTableExpiry
  split; · exact KR.next hs
  extract_lets s1 _
  have hs1 : Kept σ s1 := hs.advanceTo
  exact KR.next (Kept.foldl hs1.same (fun _ _ ht => ht.modPort))

protected theorem Kept.forgetOp {tx} (hs : Kept σ s) : Kept σ (forgetOp s tx) := hs.same

protected theorem Kept.clearPieces {t g} (hs : Kept σ s) : Kept σ (clearPieces s t g) := by
  unfold clearPieces
  refine Kept.foldl hs fun _ _ ht' => ?_
  split; · exact ht'.zeroTile
  exact ht'

protected theorem Kept.finishRun {c x} (hs : Kept σ s) : Kept σ (finishRun s c x) := by
  unfold finishRun
  split; · exact hs
  extract_lets
  split; · exact hs
  extract_lets s1
  have hs1 : Kept σ s1 := by
    unfold s1
    split; · exact hs
    exact hs.applyRun.clearPieces
  exact hs1.modTm

protected theorem Kept.tmAnswer {c id tx o bs} (hs : Kept σ s) : Kept σ (tmAnswer s c id tx o bs) := by
  unfold tmAnswer
  split; · exact hs
  split
  · split; · exact hs
    extract_lets _ _ _ s1
    have hs1 : Kept σ s1 := by
      unfold s1
      split; · exact hs.writeMem
      exact hs
    split; · exact hs1.modTm.finishRun
    exact hs1.modTm
  · exact hs

protected theorem Kept.fetchAnswer {c i bs} (hs : Kept σ s) : Kept σ (fetchAnswer s c i bs) := hs.modCtx

protected theorem Kept.pollAnswer {c i bs} (hs : Kept σ s) : Kept σ (pollAnswer s c i bs) := by
  unfold pollAnswer
  split; · exact hs
  split; · exact hs
  exact hs.modCtx

protected theorem Kept.hostAnswer {fn tag bs} (hs : Kept σ s) : Kept σ (hostAnswer s fn tag bs) := hs.modFunc
protected theorem Kept.cmdAnswer {r tx o bs} (hs : Kept σ s) : Kept σ (cmdAnswer s r tx o bs) := hs.modInfl

protected theorem Kept.deliverAnswer {tx o bs} (hs : Kept σ s) : Kept σ (deliverAnswer s tx o bs) := by
  unfold deliverAnswer
  split
  · exact hs.tmAnswer
  · exact hs.cmdAnswer
  · exact hs.hostAnswer
  · exact hs.fetchAnswer
  · exact hs.pollAnswer
  · exact hs
  · split; · exact hs.same
    exact hs

protected theorem Kept.failAnswer {tx o kind cause} (hs : Kept σ s) : Kept σ (failAnswer s tx o kind cause) := by
  unfold failAnswer
  extract_lets
  split
  · split
    · split
      · split; · exact hs.modTm.settleHalt
        exact hs
      · exact hs
    · exact hs
  · split
    · split; · exact hs.modInfl
      exact hs.forgetCmd.cmdFault
    · exact hs
  · split
    · split; · exact hs.modFunc.windowFault
      exact hs
    · split; · exact hs.modFunc.windowFault.emit
      exact hs
    · exact hs
  · exact hs.modCtx.settleHalt
  · split
    · split; · exact hs.modCtx.postFault
      exact hs
    · exact hs
  · split; · exact hs.same
    exact hs
  · exact hs

protected theorem Kept.onResponse {op f} (hs : Kept σ s) (hf : ∀ t a1 a2 a3, Kept σ t → Kept σ (f t a1 a2 a3)) :
    KR σ (onResponse s op f) := by
  unfold onResponse
  split; · exact KR.next hs
  extract_lets s1
  have hs1 : Kept σ s1 := hs.police.fst.doneMsg
  split; · exact KR.next hs1
  exact KR.next (hf _ _ _ _ hs1)

protected theorem Kept.answered {kind tx o q} (hs : Kept σ s) : Kept σ (answered kind s tx o q) := by
  unfold answered
  split; · exact hs
  exact hs.forgetOp.deliverAnswer.remOver.serveAll

protected theorem Kept.execRdataReceive (hs : Kept σ s) : KR σ (execRdataReceive s) :=
  hs.onResponse fun _ _ _ _ ht => ht.answered

protected theorem Kept.execWackReceive (hs : Kept σ s) : KR σ (execWackReceive s) :=
  hs.onResponse fun _ _ _ _ ht => ht.answered

protected theorem Kept.execAvalReceive (hs : Kept σ s) : KR σ (execAvalReceive s) :=
  hs.onResponse fun _ _ _ _ ht => ht.answered

protected theorem Kept.execErespReceive (hs : Kept σ s) : KR σ (execErespReceive s) := by
  unfold execErespReceive
  refine hs.onResponse fun _ _ _ _ ht => ?_
  extract_lets
  split; · exact ht.same
  exact ht.forgetOp.failAnswer.remOver.serveAll

protected theorem Kept.resendOp {tx o} (hs : Kept σ s) : Kept σ (resendOp s tx o) := hs.same.sendMsg.routeAll

protected theorem Kept.execRemoteOpTimeout {tx} (hs : Kept σ s) : KR σ (execRemoteOpTimeout tx s) := by
  unfold execRemoteOpTimeout
  split; · exact KR.next hs
  split; · exact KR.next hs
  extract_lets s1
  have hs1 : Kept σ s1 := hs.advanceTo
  split; · exact KR.next hs1.resendOp
  exact KR.next hs1.forgetOp.failAnswer.remOver.serveAll

protected theorem Kept.execBusyRetry {tx} (hs : Kept σ s) : KR σ (execBusyRetry tx s) := by
  unfold execBusyRetry
  split; · exact KR.next hs
  split; · exact KR.next hs
  exact KR.next hs.advanceTo.resendOp

protected theorem Kept.pumpFlow {k a} (hs : Kept σ s) : Kept σ (pumpFlow s k a) := by
  induction a generalizing s with
  | zero => exact hs
  | succ _ ih =>
    unfold pumpFlow
    extract_lets
    split; · exact hs
    split; · exact hs
    exact ih hs.same.sendOrd

protected theorem Kept.execMackReceive (hs : Kept σ s) : KR σ (execMackReceive s) := by
  unfold execMackReceive
  split; · exact KR.next hs
  extract_lets s1
  have hs1 : Kept σ s1 := hs.police.fst.doneMsg
  split; · exact KR.next hs1
  exact KR.next hs1.same.pumpFlow.routeAll

/-! ### FabCmds -/

protected theorem Kept.wholeMsg {n x} (hs : Kept σ s) : Kept σ (wholeMsg s n x) := by
  unfold wholeMsg
  extract_lets
  split; · exact hs.returnCredits
  split; · exact hs.returnCredits
  split; · exact hs.toInbox
  split; · exact hs.returnCredits
  exact hs.same

protected theorem Kept.acceptFlit {n fl} (hs : Kept σ s) : Kept σ (acceptFlit s n fl) := by
  unfold acceptFlit
  extract_lets _ _ _ x
  clear_value x
  split; · exact hs
  extract_lets _ _ s1 s2
  have hs1 : Kept σ s1 := hs.modPort.countEv
  have hs2 : Kept σ s2 := hs1.modPort
  split
  · split; · exact hs2.giveBack
    exact hs2.wholeMsg
  · exact hs1.modPort

protected theorem Kept.noteFec {n} (hs : Kept σ s) : Kept σ (noteFec s n) := by
  unfold noteFec
  extract_lets _ s1
  have hs1 : Kept σ s1 := hs.modPort
  split; · exact hs1.portDown
  exact hs1

protected theorem Kept.takeFlit {port fl} (hs : Kept σ s) : Kept σ (takeFlit s port fl) := by
  unfold takeFlit
  extract_lets _ _ _ _ s2
  have hs2 : Kept σ s2 := hs.modPort.sendCtrl.countEv
  split
  · split; · exact hs
    split; · exact hs2.portDown
    exact hs2
  · exact (hs.modPort.acceptFlit.ite hs.modPort).routeAll

protected theorem Kept.execFlitReceive {port flit fecOk} (hs : Kept σ s) :
    KR σ (execFlitReceive port flit fecOk s) := by
  unfold execFlitReceive
  split; · exact KR.next hs
  extract_lets s1
  have hs1 : Kept σ s1 := by
    unfold s1
    split; · exact hs
    exact hs.noteFec
  exact KR.next (hs1.ite hs1.takeFlit)

protected theorem Kept.execNakReceive {port seq} (hs : Kept σ s) : KR σ (execNakReceive port seq s) := by
  unfold execNakReceive
  extract_lets
  split; · exact KR.next hs
  exact KR.next (Kept.foldl hs.modPort (fun _ _ ht => Kept.foldl ht (fun _ _ ht' => ht'.emit)))

protected theorem Kept.execFencedReceive {port} (hs : Kept σ s) : KR σ (execFencedReceive port s) := by
  unfold execFencedReceive
  extract_lets
  split; · exact KR.next hs
  exact KR.next hs.setPortSt.reroutePort.timePortDown.loseModule

protected theorem Kept.execPcsLockLoss {port} (hs : Kept σ s) : KR σ (execPcsLockLoss port s) := KR.next hs.portDown

protected theorem Kept.execLinkSilenceTimeout {port} (hs : Kept σ s) : KR σ (execLinkSilenceTimeout port s) := by
  unfold execLinkSilenceTimeout
  extract_lets
  split; · exact KR.next hs
  exact KR.next hs.advanceTo.portDown

protected theorem Kept.execPortTrained {port peer peerPort creds} (hs : Kept σ s) :
    KR σ (execPortTrained port peer peerPort creds s) := by
  unfold execPortTrained
  extract_lets
  split; · exact KR.next hs
  exact KR.next hs.setPortSt.modPort.postEvent.sendCtrl.joinModule.routeAll

protected theorem Kept.execMgmtProbe (hs : Kept σ s) : KR σ (execMgmtProbe s) := by
  unfold execMgmtProbe
  split; · exact KR.next hs
  extract_lets s1
  have hs1 : Kept σ s1 := hs.police.fst.doneMsg
  split; · exact KR.next hs1.reply
  exact KR.next hs1.same

protected theorem Kept.execProbeTimeout {module} (hs : Kept σ s) : KR σ (execProbeTimeout module s) := by
  unfold execProbeTimeout
  split; · exact KR.next hs
  extract_lets s1
  have hs1 : Kept σ s1 := hs.advanceTo
  exact KR.next hs1.same.loseModule

protected theorem Kept.execLostNotice (hs : Kept σ s) : KR σ (execLostNotice s) := by
  unfold execLostNotice
  split; · exact KR.next hs
  exact KR.next hs.police.fst.doneMsg.loseModule

protected theorem Kept.unfencePort {n m} (hs : Kept σ s) : Kept σ (unfencePort s n m) := by
  unfold unfencePort
  extract_lets
  split; · exact hs.setPortSt.modPort
  exact hs

protected theorem Kept.execJoinNotice (hs : Kept σ s) : KR σ (execJoinNotice s) := by
  unfold execJoinNotice
  split; · exact KR.next hs
  exact KR.next (Kept.foldl hs.police.fst.doneMsg (fun _ _ ht => ht.unfencePort)).joinModule.routeAll

protected theorem Kept.enablePorts {en} (hs : Kept σ s) : Kept σ (enablePorts s en) := by
  unfold enablePorts
  refine Kept.foldl hs fun _ _ ht => ?_
  split
  · split; · exact ht.setPortSt
    exact ht
  · split; · exact ht
    exact ht.setPortSt.reroutePort.timePortDown.setPortSt

protected theorem Kept.execFabConfig {r} (hs : Kept σ s) : KR σ (execFabConfig r s) := by
  unfold execFabConfig
  refine hs.runCmd fun _ _ _ ht => ?_
  extract_lets _ _ same
  split; · exact ht.complete
  exact ht.same.enablePorts.complete

protected theorem Kept.putShadow {d first bs n} (hs : Kept σ s) : Kept σ (putShadow s d first bs n) := hs.same
protected theorem Kept.commitRoutes (hs : Kept σ s) : Kept σ (commitRoutes s) := hs.same.routeAll

protected theorem Kept.routeEntries {x e k} (hs : Kept σ s) (hk : ∀ t, Kept σ t → Kept σ (k t)) :
    Kept σ (routeEntries s x e k) := by
  unfold routeEntries
  extract_lets
  split; · exact hk _ hs
  split; · exact hs.askHost
  split; · exact hs.badParam
  exact hk _ hs.putShadow

protected theorem Kept.execFabRouteWrite {r} (hs : Kept σ s) : KR σ (execFabRouteWrite r s) :=
  hs.runCmdIf fun _ _ _ ht => ht.routeEntries (fun _ ht' => ht'.complete)

protected theorem Kept.execFabRouteCommit {r} (hs : Kept σ s) : KR σ (execFabRouteCommit r s) := by
  unfold execFabRouteCommit
  refine hs.runCmdIf fun _ _ _ ht => ?_
  extract_lets
  split; · exact ht
  split; · exact ht.complete
  split; · exact ht.complete
  refine ht.routeEntries fun _ ht' => ?_
  split; · exact ht'.badParam
  split; · exact ht'.commitRoutes.complete
  exact ht'.schedCmd

protected theorem Kept.execFabPortDisable {r} (hs : Kept σ s) : KR σ (execFabPortDisable r s) := by
  unfold execFabPortDisable
  refine hs.runCmdIf fun _ _ _ ht => ?_
  extract_lets _ s2 s3
  have hs2 : Kept σ s2 := ht.modPort
  have hs3 : Kept σ s3 := by
    unfold s3
    split; · exact hs2
    exact hs2.setPortSt.reroutePort.timePortDown
  exact hs3.complete

protected theorem Kept.execFabPortEnable {r} (hs : Kept σ s) : KR σ (execFabPortEnable r s) := by
  unfold execFabPortEnable
  refine hs.runCmdIf fun _ _ _ ht => ?_
  extract_lets _ s2 s3
  have hs2 : Kept σ s2 := ht.modPort
  have hs3 : Kept σ s3 := by
    unfold s3
    split; · exact hs2.setPortSt
    exact hs2
  exact hs3.complete

protected theorem Kept.execFabPortSetcred {r} (hs : Kept σ s) : KR σ (execFabPortSetcred r s) := by
  unfold execFabPortSetcred
  refine hs.runCmdIf fun _ _ _ ht => ?_
  extract_lets
  split; · exact ht.complete
  split; · exact ht.badParam
  exact ht.modPort.complete

protected theorem Kept.execFabStatusPorts {r} (hs : Kept σ s) : KR σ (execFabStatusPorts r s) := by
  unfold execFabStatusPorts
  refine hs.runCmdIf fun _ _ _ ht => ?_
  extract_lets _ s2
  have hs2 : Kept σ s2 := by
    unfold s2
    refine Kept.foldl ht fun _ _ ht' => ?_
    split; · exact ht'.modPort
    exact ht'
  exact hs2.cmdHostPut.complete

protected theorem Kept.execFabStatusReach {r} (hs : Kept σ s) : KR σ (execFabStatusReach r s) :=
  hs.runCmdIf fun _ _ _ ht => ht.cmdHostPut.complete

protected theorem Kept.fenceServices {mask} (hs : Kept σ s) : Kept σ (fenceServices s mask) := by
  unfold fenceServices
  extract_lets _ s1 _ _ _ s3
  have hs1 : Kept σ s1 := hs.same
  have hs3 : Kept σ s3 := by
    unfold s3
    refine Kept.foldl hs1.same fun _ _ ht => ?_
    split; · exact ht.returnCredits
    exact ht.dropRoute
  exact hs3.routeAll.flood.irqAll

protected theorem Kept.fencePorts (hs : Kept σ s) : Kept σ (fencePorts s) := by
  unfold fencePorts
  split; · exact hs
  have h : Kept σ ((List.range 48).foldl (fun st n => if portUp st n then sendCtrl st n [2] else st) s) :=
    Kept.foldl hs fun _ _ ht => ht.sendCtrl.ite ht
  generalize (List.range 48).foldl (fun st n => if portUp st n then sendCtrl st n [2] else st) s = s1 at h
  exact (h.same (t := { s1 with fab := { s1.fab with fenced := true } })).flood.routeAll.irqAll

protected theorem Kept.unfencePorts {mask} (hs : Kept σ s) : Kept σ (unfencePorts s mask) := by
  unfold unfencePorts
  extract_lets _ _ _ s3
  have hs3 : Kept σ s3 := by
    unfold s3
    split; · exact hs.same.flood
    exact hs.same.flood.flood
  exact hs3.irqAll.routeAll

protected theorem Kept.execFabUnfence {r} (hs : Kept σ s) : KR σ (execFabUnfence r s) :=
  hs.runCmdIf fun _ _ _ ht => ht.unfencePorts.complete

/-! ### Collect -/

protected theorem Kept.modGroup {k f} (hs : Kept σ s) : Kept σ (modGroup s k f) := hs.same

protected theorem Kept.groupWait {k} (hs : Kept σ s) : Kept σ (groupWait s k) := by
  unfold groupWait
  split; · exact hs
  split; · exact hs
  split; · exact hs
  exact hs.same.setSem.semGrant

protected theorem Kept.groupLeave {k} (hs : Kept σ s) : Kept σ (groupLeave s k) := hs.same

protected theorem Kept.execFabGroupCreate {r} (hs : Kept σ s) : KR σ (execFabGroupCreate r s) := by
  unfold execFabGroupCreate
  refine hs.runBlock fun _ _ _ ht => ?_
  split; · exact ht
  extract_lets _ _ _ _ s2
  have hs2 : Kept σ s2 := by
    unfold s2
    split; · exact ht.same.freeTick.groupWait
    exact ht
  split; · exact ht.complete
  exact hs2.modInfl.blockDone

protected theorem Kept.execFabGroupDestroy {r} (hs : Kept σ s) : KR σ (execFabGroupDestroy r s) := by
  unfold execFabGroupDestroy
  refine hs.runBlock fun _ _ _ ht => ?_
  split; · exact ht
  extract_lets
  split; · exact ht.complete
  exact ht.same.groupLeave.serveSems.modInfl.blockDone

protected theorem Kept.sendMembers {g f} (hs : Kept σ s) : Kept σ (sendMembers s g f) :=
  Kept.routeAll (Kept.foldl hs (fun _ _ ht => ht.sendMsg))

protected theorem Kept.relay {t gn num g segs} (hs : Kept σ s) : Kept σ (relay s t gn num g segs) := by
  unfold relay
  split; · exact hs
  exact Kept.routeAll (Kept.foldl hs (fun _ _ ht' => ht'.sendMsg))

protected theorem Kept.collAbort {t gn status} (hs : Kept σ s) : Kept σ (collAbort s t gn status) := by
  unfold collAbort
  extract_lets
  split; · exact hs
  exact hs.modGroup.sendMembers

protected theorem Kept.collFault {t gn kind acc cause page} (hs : Kept σ s) :
    Kept σ (collFault s t gn kind acc cause page) :=
  hs.postFault.collAbort

protected theorem Kept.collRefuse {t gn page} (hs : Kept σ s) : Kept σ (collRefuse s t gn page) :=
  hs.freeTick.postFault.collAbort

protected theorem Kept.collStart {t gn g d src} (hs : Kept σ s) : Kept σ (collStart s t gn g d src) :=
  hs.modGroup.relay

protected theorem Kept.execCollectiveTrigger {t g} (hs : Kept σ s) : KR σ (execCollectiveTrigger t g s) := by
  unfold execCollectiveTrigger
  extract_lets _ s1
  have hs1 : Kept σ s1 := hs.groupWait
  split; · exact KR.next hs
  split; · exact KR.next hs
  split; · exact KR.next hs1
  split
  · rename_i e1
    exact KR.next (hs1.engRead.ofWait _ e1)
  · rename_i e2
    exact KR.next (hs1.engRead.ofFault _ _ _ _ e2).collFault
  · rename_i s3' _ e3
    have hs3' : Kept σ s3' := hs1.engRead.ofOk _ _ e3
    extract_lets
    split; · exact KR.next hs3'.modGroup.collRefuse
    split
    · rename_i e4
      exact KR.next (hs3'.engRead.ofWait _ e4)
    · rename_i e5
      exact KR.next (hs3'.engRead.ofFault _ _ _ _ e5).modGroup.collFault
    · rename_i e6
      exact KR.next (hs3'.engRead.ofOk _ _ e6).collStart

protected theorem Kept.countColl {q} (hs : Kept σ s) : Kept σ (countColl s q) := by
  unfold countColl
  split; · exact hs.countEvs
  exact hs

protected theorem Kept.execCollReceive (hs : Kept σ s) : KR σ (execCollReceive s) := by
  unfold execCollReceive
  split; · exact KR.next hs
  extract_lets _ _ _ _ s3 s4
  have hs3 : Kept σ s3 := hs.police.fst.countColl.modGroup
  have hs4 : Kept σ s4 := by
    unfold s4
    split
    · split; · exact hs3
      exact hs3.relay
    · exact hs3
  exact KR.next hs4.doneMsg

protected theorem Kept.clobber {t va n} (hs : Kept σ s) : Kept σ (clobber s t va n) := by
  unfold clobber
  refine Kept.foldl hs fun _ _ ht => ?_
  split
  · exact (Kept.draw ht).hubWrite
  · exact ht

protected theorem Kept.collFinish {t gn g u status} (hs : Kept σ s) : Kept σ (collFinish s t gn g u status) := by
  unfold collFinish
  extract_lets _ close
  split
  · rename_i e
    exact hs.engWrite.ofWait _ e
  · unfold close
    extract_lets s1
    have hs1 : Kept σ s1 := hs.modGroup
    refine Kept.groupWait ?_
    split
    · split; · exact hs1.semAdd
      exact hs1
    · exact hs1
  · rename_i s3' _ e1
    have hs3' : Kept σ s3' := hs.engWrite.ofOk _ _ e1
    split
    · rename_i e2
      unfold close
      extract_lets s1
      have hs1 : Kept σ s1 := (hs3'.engWrite.ofOk _ _ e2).modGroup
      refine Kept.groupWait ?_
      split
      · split; · exact hs1.semAdd
        exact hs1
      · exact hs1
    · rename_i e3
      exact hs3'.engWrite.ofWait _ e3
    · unfold close
      extract_lets s1
      have hs1 : Kept σ s1 := hs3'.modGroup
      refine Kept.groupWait ?_
      split
      · split; · exact hs1.semAdd
        exact hs1
      · exact hs1

protected theorem Kept.execCollectiveDone {t g} (hs : Kept σ s) : KR σ (execCollectiveDone t g s) := by
  unfold execCollectiveDone
  split; · exact KR.next hs
  split; · exact KR.next hs
  split; · exact KR.next hs
  split; · exact KR.next hs
  split; · exact KR.next hs.clobber.collFinish
  split
  · rename_i e1
    exact KR.next (hs.engWrite.ofWait _ e1)
  · rename_i e2
    exact KR.next (hs.engWrite.ofFault _ _ _ _ e2).collFault
  · rename_i e3
    exact KR.next (hs.engWrite.ofOk _ _ e3).collFinish

end Sys2Proof.Safety
end

section
/-! `Kept` for the operations on the NVMe controller, the store and DMA. -/

namespace Sys2Proof.Safety

open Sys2Proof.Machine Sys2Proof.Laws

/- The proofs run in turn: side by side, the threads that wait for each other's case splits exhaust the memory. -/
set_option Elab.async false

variable {σ s : State}

/-! ### NvmeOps -/

protected theorem Kept.setFeat {fid sub v} (hs : Kept σ s) : Kept σ (setFeat s fid sub v) := hs.modStore

protected theorem Kept.nvIrq {n} (hs : Kept σ s) : Kept σ (nvIrq s n) := by
  unfold nvIrq
  split; · exact hs
  split; · exact hs
  extract_lets
  split; · exact hs.msixEvent
  split; · exact hs.modStore.msixEvent
  exact hs.modStore

protected theorem Kept.busyStop (hs : Kept σ s) : Kept σ (busyStop s) := by
  unfold busyStop
  split
  · split; · exact hs
    exact hs.modStore
  · exact hs

protected theorem Kept.dropChanOps {p} (hs : Kept σ s) : Kept σ (dropChanOps s p) := hs.modStore

protected theorem Kept.nvEntry {sq cid status dw0} (hs : Kept σ s) : Kept σ (nvEntry s sq cid status dw0) := by
  unfold nvEntry
  split; · exact hs
  split; · exact hs
  exact hs.hostPutS.modStore.nvIrq

protected theorem Kept.nvDone {c status dw0} (hs : Kept σ s) : Kept σ (nvDone s c status dw0) := by
  unfold nvDone
  extract_lets s1
  have hs1 : Kept σ s1 := hs.modStore.dropChanOps
  exact hs1.same.busyStop.nvEntry

protected theorem Kept.nvDeliver {a} (hs : Kept σ s) : Kept σ (nvDeliver a s) := by
  induction a generalizing s with
  | zero => exact hs
  | succ _ ih =>
    unfold nvDeliver
    split
    · split; · exact hs
      exact ih hs.modStore.nvEntry
    · exact hs

protected theorem Kept.nvEvent {e} (hs : Kept σ s) : Kept σ (nvEvent s e) := by
  unfold nvEvent
  split; · exact hs
  exact hs.modStore.nvDeliver

protected theorem Kept.critNote {before} (hs : Kept σ s) : Kept σ (critNote before s) :=
  Kept.foldl hs fun _ _ ht => ht.nvEvent

/-- Arbitration changes none of the namespaces. -/
theorem nvPick_nss {q v} (e : nvPick s = some (q, v)) : v.nss = s.store.nss := by
  unfold nvPick at e
  extract_lets v0 arb limit busy go admin urgent cls full at e
  have hgo : ∀ qs c q v, go qs c = some (q, v) → v.nss = s.store.nss := by
    intro qs c q v e
    obtain ⟨r, -, e⟩ := Option.map_eq_some_iff.mp e
    cases e; rfl
  split at e; · exact hgo _ _ _ _ e
  split at e; · exact hgo _ _ _ _ e
  split at e; · exact hgo _ _ _ _ e
  split at e; · exact hgo _ _ _ _ e
  split at e; · exact hgo _ _ _ _ e
  cases e

protected theorem Kept.nvTake {sq cid entry} (hs : Kept σ s) : KO (KP σ) (nvTake s sq cid entry) := by
  unfold nvTake
  split; · exact KO.none
  split; · exact KO.some (KP.intro hs)
  split; · exact KO.none
  rename_i q v e
  extract_lets _ c s1
  split; · exact KO.none
  have hn : v.nss = s.store.nss := nvPick_nss e
  have hs1 : Kept σ s1 := Kept.of hs rfl rfl rfl rfl rfl rfl hn
  exact KO.some (KP.intro hs1)

protected theorem Kept.modNv {c f} (hs : Kept σ s) : Kept σ (modNv s c f) := hs.modStore

protected theorem Kept.nvRow {sq cid entry admin op body} (hs : Kept σ s)
    (hbody : ∀ t a1, Kept σ t → Kept σ (body t a1)) :
    KR σ (nvRow s sq cid entry admin op body) := by
  unfold nvRow
  split; · exact KR.next hs
  rename_i s1 _ e'
  have hs1 : Kept σ s1 := (hs.nvTake.of _ e').fst
  split; · exact KR.next hs
  split; · exact KR.next hs1.nvDone
  split; · exact KR.next hs1.nvDone
  split; · exact KR.next hs1.nvDone
  exact KR.next (hbody _ _ hs1)

protected theorem Kept.nvAsk {c list} (hs : Kept σ s) : Kept σ (nvAsk s c list) := by
  unfold nvAsk
  split; · exact hs
  exact hs.modNv.addRead

protected theorem Kept.nvWrite {c bs} (hs : Kept σ s) : Kept σ (nvWrite s c bs) :=
  (KP.foldl (KP.intro hs) (fun _ _ hq => KP.intro hq.fst.hostPutS)).fst

protected theorem Kept.nvPut {c bs done} (hs : Kept σ s) (hdone : ∀ t, Kept σ t → Kept σ (done t)) :
    Kept σ (nvPut s c bs done) := by
  unfold nvPut
  extract_lets
  split; · exact hs.nvAsk
  split; · exact hs.nvDone
  exact hdone _ hs.nvWrite

protected theorem Kept.nvGet {c n k} (hs : Kept σ s) (hk : ∀ t a1, Kept σ t → Kept σ (k t a1)) :
    Kept σ (nvGet s c n k) := by
  unfold nvGet
  extract_lets
  split; · exact hs.nvAsk
  split; · exact hs.nvDone
  split; · exact hs.nvAsk
  exact hk _ _ hs

protected theorem Kept.nvArrive {sq cid code data} (hs : Kept σ s) : Kept σ (nvArrive s sq cid code data) := by
  unfold nvArrive
  split; · exact hs
  split; · exact hs.modNv
  split <;> exact hs.modNv

protected theorem Kept.nvStart {c ranges writes k} (hs : Kept σ s) (hk : ∀ t a1, Kept σ t → Kept σ (k t a1)) :
    Kept σ (nvStart s c ranges writes k) := by
  unfold nvStart
  split; · exact hk _ _ hs
  extract_lets _ counted
  have hcounted : Kept σ counted := by
    unfold counted
    split; · exact hs
    exact hs.modStore
  split; · exact hcounted.nvDone
  split; · exact hcounted.modNv
  exact hk _ _ hs.modNv

protected theorem Kept.freeLock {i} (hs : Kept σ s) : Kept σ (freeLock s i) := hs.modStore

protected theorem Kept.nvCtlReset (hs : Kept σ s) : Kept σ (nvCtlReset s) := by
  unfold nvCtlReset
  extract_lets s1
  have hs1 : Kept σ s1 := hs.modStore.busyStop
  exact hs1.same

protected theorem Kept.nvReset (hs : Kept σ s) : Kept σ (nvReset s) := hs.nvCtlReset.modStore

protected theorem Kept.nvEnable (hs : Kept σ s) : Kept σ (nvEnable s) := by
  unfold nvEnable
  extract_lets
  split <;> exact hs.modStore

protected theorem Kept.nvShutdown (hs : Kept σ s) : Kept σ (nvShutdown s) := by
  unfold nvShutdown
  split; · exact hs
  exact hs.modStore

protected theorem Kept.writeCc {value} (hs : Kept σ s) : Kept σ (writeCc s value) := by
  unfold writeCc
  extract_lets _ s1 s2
  have hs1 : Kept σ s1 := hs.modStore
  have hs2 : Kept σ s2 := by
    unfold s2
    split; · exact hs1.nvEnable
    split; · exact hs1.nvCtlReset.modStore
    exact hs1
  exact hs2.nvShutdown

/-! ### NvmeCmds -/

protected theorem Kept.execNvmeCreateIoCq {sq cid entry} (hs : Kept σ s) :
    KR σ (execNvmeCreateIoCq sq cid entry s) := by
  unfold execNvmeCreateIoCq
  refine hs.nvRow fun _ _ ht => ?_
  extract_lets
  split; · exact ht.nvDone
  split; · exact ht.nvDone
  split; · exact ht.nvDone
  split; · exact ht.nvDone
  split; · exact ht.nvDone
  exact ht.modStore.nvDone

protected theorem Kept.execNvmeCreateIoSq {sq cid entry} (hs : Kept σ s) :
    KR σ (execNvmeCreateIoSq sq cid entry s) := by
  unfold execNvmeCreateIoSq
  refine hs.nvRow fun _ _ ht => ?_
  extract_lets
  split; · exact ht.nvDone
  split; · exact ht.nvDone
  split; · exact ht.nvDone
  split; · exact ht.nvDone
  split; · exact ht.nvDone
  exact ht.modStore.nvDone

protected theorem Kept.execNvmeDeleteIoSq {sq cid entry} (hs : Kept σ s) :
    KR σ (execNvmeDeleteIoSq sq cid entry s) := by
  unfold execNvmeDeleteIoSq
  refine hs.nvRow fun _ _ ht => ?_
  extract_lets _ s2
  have hs2 : Kept σ s2 := ht.modStore.dropChanOps
  split; · exact ht.nvDone
  exact hs2.same.nvDone

protected theorem Kept.execNvmeDeleteIoCq {sq cid entry} (hs : Kept σ s) :
    KR σ (execNvmeDeleteIoCq sq cid entry s) := by
  unfold execNvmeDeleteIoCq
  refine hs.nvRow fun _ _ ht => ?_
  extract_lets
  split; · exact ht.nvDone
  split; · exact ht.nvDone
  exact ht.modStore.nvDone

protected theorem Kept.execNvmeIdentify {sq cid entry} (hs : Kept σ s) : KR σ (execNvmeIdentify sq cid entry s) := by
  unfold execNvmeIdentify
  refine hs.nvRow fun _ _ ht => ?_
  split; · exact ht.nvDone
  exact ht.nvPut fun _ ht' => ht'.nvDone

protected theorem Kept.logRead {c lid} (hs : Kept σ s) : Kept σ (logRead s c lid) := by
  unfold logRead
  split; · exact hs
  exact hs.modStore

protected theorem Kept.execNvmeGetLogPage {sq cid entry} (hs : Kept σ s) :
    KR σ (execNvmeGetLogPage sq cid entry s) := by
  unfold execNvmeGetLogPage
  refine hs.nvRow fun _ _ ht => ?_
  extract_lets
  split; · exact ht.nvDone
  split; · exact ht.nvDone
  exact ht.nvPut fun _ ht' => ht'.logRead.nvDone.nvDeliver

protected theorem Kept.execNvmeSetFeatures {sq cid entry} (hs : Kept σ s) :
    KR σ (execNvmeSetFeatures sq cid entry s) := by
  unfold execNvmeSetFeatures
  refine hs.nvRow fun _ _ ht => ?_
  extract_lets fid
  split; · exact ht.nvDone
  split; · exact ht.nvDone
  clear_value fid
  split
  · split; · exact ht.nvDone
    split; · exact ht.nvDone
    exact ht.modStore.nvDone
  · split; · exact ht.nvDone
    exact ht.setFeat.critNote.nvDone
  · split; · exact ht.nvDone
    exact ht.setFeat.nvDone
  · split; · exact ht.nvDone
    exact ht.setFeat.nvDone
  · split; · exact ht.nvDone
    exact ht.nvDone
  · split; · exact ht.nvDone
    exact ht.setFeat.nvDone
  · split; · exact ht.nvDone
    refine ht.nvGet fun _ _ ht' => ?_
    extract_lets
    split; · exact ht'.nvDone
    exact ht'.setFeat.modStore.nvDone
  · exact ht.nvGet fun _ _ ht' => ht'.modStore.nvDone
  · exact ht.setFeat.nvDone

protected theorem Kept.execNvmeGetFeatures {sq cid entry} (hs : Kept σ s) :
    KR σ (execNvmeGetFeatures sq cid entry s) := by
  unfold execNvmeGetFeatures
  refine hs.nvRow fun _ _ ht => ?_
  extract_lets fid
  split; · exact ht.nvDone
  clear_value fid
  split
  · exact ht.nvDone
  · exact ht.nvDone
  · exact ht.nvDone
  · exact ht.nvPut fun _ ht' => ht'.nvDone
  · exact ht.nvPut fun _ ht' => ht'.nvDone
  · exact ht.nvDone

protected theorem Kept.execNvmeAbort {sq cid entry} (hs : Kept σ s) : KR σ (execNvmeAbort sq cid entry s) := by
  unfold execNvmeAbort
  refine hs.nvRow fun _ _ ht => ?_
  extract_lets
  split; · exact ht.nvDone
  split; · exact ht.nvDone
  split
  · extract_lets
    split; · exact ht.nvDone.nvDone
    exact ht.nvDone
  · exact ht.modNv.nvDone

protected theorem Kept.execNvmeAsyncEventRequest {sq cid entry} (hs : Kept σ s) :
    KR σ (execNvmeAsyncEventRequest sq cid entry s) := by
  unfold execNvmeAsyncEventRequest
  refine hs.nvRow fun _ _ ht => ?_
  split; · exact ht.nvDone
  exact ht.modStore.nvDeliver

protected theorem Kept.execNvmeNamespaceManagement {sq cid entry} (hs : Kept σ s) :
    KR σ (execNvmeNamespaceManagement sq cid entry s) := by
  unfold execNvmeNamespaceManagement
  refine hs.nvRow fun _ _ ht => ?_
  extract_lets
  split; · exact ht.nvDone
  split
  · refine ht.nvGet fun _ _ ht' => ?_
    extract_lets
    split; · exact ht'.nvDone
    split; · exact ht'.nvDone
    split; · exact ht'.nvDone
    split; · exact ht'.nvDone
    split; · exact ht'.nvDone
    exact (ht'.modStoreNss fun _ h => h.put wf_nil).nvDone
  · split; · exact ht.nvDone
    split; · exact ht.nvDone
    exact Kept.nvDone (Kept.foldl ht fun _ _ ht' => ht'.wipeNs)
  · exact ht.nvDone

protected theorem Kept.execNvmeNamespaceAttachment {sq cid entry} (hs : Kept σ s) :
    KR σ (execNvmeNamespaceAttachment sq cid entry s) := by
  unfold execNvmeNamespaceAttachment
  refine hs.nvRow fun _ _ ht => ?_
  extract_lets
  split; · exact ht.nvDone
  split; · exact ht.nvDone
  split; · exact ht.nvDone
  rename_i x hx
  refine ht.nvGet fun _ _ ht' => ?_
  split; · exact ht'.nvDone
  split; · exact ht'.nvDone
  split; · exact ht'.nvDone
  refine (ht'.modStoreNss fun k h => ?_).nvDone
  exact nssOk.put h (show Memory.wf x.data = true from ht.nsData hx k)

protected theorem Kept.eraseNs {n} (hs : Kept σ s) : Kept σ (eraseNs s n) := hs.wipeNs.modStoreNss fun _ h => h.upd fun _ hx => hx

protected theorem Kept.execNvmeFormatNvm {sq cid entry} (hs : Kept σ s) : KR σ (execNvmeFormatNvm sq cid entry s) := by
  unfold execNvmeFormatNvm
  refine hs.nvRow fun _ _ ht => ?_
  extract_lets
  split; · exact ht.nvDone
  split; · exact ht.nvDone
  split; · exact ht.nvDone
  split; · exact ht.nvDone
  split; · exact ht.nvDone
  refine ht.nvStart fun _ _ ht' => Kept.nvDone (Kept.foldl ht' fun _ _ hu => ?_)
  exact hu.eraseNs.modStoreNss fun _ h => h.upd fun _ hx => hx

protected theorem Kept.execNvmeSanitize {sq cid entry} (hs : Kept σ s) : KR σ (execNvmeSanitize sq cid entry s) := by
  unfold execNvmeSanitize
  refine hs.nvRow fun _ _ ht => ?_
  extract_lets
  split; · exact ht.nvDone
  split; · exact ht.nvDone
  split; · exact ht.nvDone
  split; · exact ht.nvDone
  refine ht.nvStart fun _ _ ht' => ?_
  refine Kept.nvDone ?_
  refine Kept.foldl ht' fun _ _ ht'' => ?_
  split; · exact ht''.eraseNs
  exact ht''.wipeNs

protected theorem Kept.execNvmeAbsentCommand {sq cid entry} (hs : Kept σ s) :
    KR σ (execNvmeAbsentCommand sq cid entry s) := by
  unfold execNvmeAbsentCommand
  split; · exact KR.next hs
  rename_i e'
  extract_lets
  split; · exact KR.next hs
  exact KR.next (hs.nvTake.of _ e').fst.nvDone

/-! ### NvmeIo -/

protected theorem Kept.nsChecked {c k} (hs : Kept σ s) (hk : ∀ a0, Kept σ (k a0)) : Kept σ (nsChecked s c k) := by
  unfold nsChecked
  extract_lets
  split; · exact hs.nvDone
  split; · exact hs.nvDone
  split; · exact hs.nvDone
  exact hk _

protected theorem Kept.ioChecked {c nlb k} (hs : Kept σ s) (hk : ∀ a0, Kept σ (k a0)) :
    Kept σ (ioChecked s c nlb k) := by
  unfold ioChecked
  refine hs.nsChecked fun _ => ?_
  split; · exact hs.nvDone
  exact hk _

protected theorem Kept.queueReads {cls op us} (hs : Kept σ s) : Kept σ (queueReads s cls op us) := by
  unfold queueReads
  refine Kept.foldl hs fun _ _ ht => ?_
  split; · exact ht.modChan
  exact ht

protected theorem Kept.execNvmeRead {sq cid entry} (hs : Kept σ s) : KR σ (execNvmeRead sq cid entry s) := by
  unfold execNvmeRead
  refine hs.nvRow fun _ _ ht => ?_
  refine ht.ioChecked fun _ => ?_
  extract_lets
  split; · exact ht.nvDone
  split
  · split; · exact ht
    split; · exact ht.modStore.nvDone
    exact ht.nvPut fun _ ht' => ht'.modStore.nvDone
  · exact ht.nvStart fun _ _ ht' => ht'.queueReads

protected theorem Kept.wrDone {c fua len} (hs : Kept σ s) : Kept σ (wrDone s c fua len) := by
  unfold wrDone
  extract_lets s1
  have hs1 : Kept σ s1 := hs.modStore
  split; · exact hs1.modNv
  exact hs1.nvDone

protected theorem Kept.wrWait {c n} (hs : Kept σ s) : Kept σ (wrWait s c n) := by
  unfold wrWait
  split; · exact hs.nvDone
  exact hs

protected theorem Kept.execNvmeWrite {sq cid entry} (hs : Kept σ s) : KR σ (execNvmeWrite sq cid entry s) := by
  unfold execNvmeWrite
  refine hs.nvRow fun _ _ ht => ?_
  split; · exact ht.wrWait
  refine ht.ioChecked fun _ => ?_
  extract_lets
  split; · exact ht.nvDone
  split; · exact ht.nvDone
  refine ht.nvStart fun _ _ ht' => ?_
  refine ht'.nvGet fun _ _ ht'' => ?_
  split; · exact ht''
  exact ht''.wbPush.wrDone

protected theorem Kept.execNvmeWriteZeroes {sq cid entry} (hs : Kept σ s) :
    KR σ (execNvmeWriteZeroes sq cid entry s) := by
  unfold execNvmeWriteZeroes
  refine hs.nvRow fun _ _ ht => ?_
  split; · exact ht.wrWait
  refine ht.ioChecked fun _ => ?_
  split; · exact ht.nvDone
  exact ht.nvStart fun _ _ ht' => ht'.wbPush.wrDone

protected theorem Kept.execNvmeFlush {sq cid entry} (hs : Kept σ s) : KR σ (execNvmeFlush sq cid entry s) := by
  unfold execNvmeFlush
  refine hs.nvRow fun _ _ ht => ?_
  split; · exact ht.wrWait
  extract_lets
  split; · exact ht.nvDone
  split; · exact ht.nvDone
  refine ht.nvStart fun _ _ ht' => ?_
  split; · exact ht'.nvDone
  exact ht'.modNv

protected theorem Kept.execNvmeDatasetManagement {sq cid entry} (hs : Kept σ s) :
    KR σ (execNvmeDatasetManagement sq cid entry s) := by
  unfold execNvmeDatasetManagement
  refine hs.nvRow fun _ _ ht => ?_
  extract_lets
  split; · exact ht.wrWait
  refine ht.nvGet fun _ _ ht' => ?_
  extract_lets
  refine ht'.nsChecked fun _ => ?_
  split; · exact ht'.nvDone
  split; · exact ht'.nvDone
  split; · exact ht'.nvDone
  refine ht'.nvStart fun _ _ ht1 => ?_
  extract_lets st2
  have hst2 : Kept σ st2 := by
    unfold st2
    refine Kept.foldl ht1 fun _ _ ht2 => ?_
    split; · exact ht2
    exact ht2.wbPush
  split; · exact hst2.modNv
  exact hst2.nvDone

protected theorem Kept.execNvmeDoorbellWrite {off value} (hs : Kept σ s) :
    KR σ (execNvmeDoorbellWrite off value s) := by
  unfold execNvmeDoorbellWrite
  extract_lets s'
  have hs' : Kept σ s' := hs.countEv
  split; · exact KR.next hs'
  split
  · split; · exact KR.next hs'.nvEvent
    split; · exact KR.next hs'.nvEvent
    exact KR.next hs'.modStore
  · split; · exact KR.next hs'.nvEvent
    split; · exact KR.next hs'.nvEvent
    exact KR.next hs'.modStore.nvDeliver

protected theorem Kept.execNvmeShutdownNotify {shn} (hs : Kept σ s) : KR σ (execNvmeShutdownNotify shn s) := by
  unfold execNvmeShutdownNotify
  split; · exact KR.next hs
  exact KR.next hs.writeCc

protected theorem Kept.execInterruptCoalescingTimer {cq} (hs : Kept σ s) :
    KR σ (execInterruptCoalescingTimer cq s) := by
  unfold execInterruptCoalescingTimer
  split; · exact KR.next hs
  split; · exact KR.next hs
  exact KR.next hs.advanceTo.modStore.msixEvent

protected theorem Kept.execApstIdleTimer (hs : Kept σ s) : KR σ (execApstIdleTimer s) := by
  unfold execApstIdleTimer
  extract_lets _ s1
  have hs1 : Kept σ s1 := hs.advanceTo
  split; · exact KR.next hs
  split; · exact KR.next hs1
  exact KR.next hs1.modStore

protected theorem Kept.serveOp {c o} (hs : Kept σ s) : Kept σ (serveOp s c o) := by
  unfold serveOp
  extract_lets s1
  have hs1 : Kept σ s1 := hs.modChan.countEv
  split
  · split; · exact hs1.modStore
    exact hs1
  · exact hs1

protected theorem Kept.wrrServe {c has serve a} (hs : Kept σ s) (hserve : ∀ t a1, Kept σ t → Kept σ (serve t a1)) :
    Kept σ (wrrServe s c has serve a) := by
  induction a generalizing s with
  | zero => exact hs
  | succ _ ih =>
    unfold wrrServe
    extract_lets
    split; · exact ih hs.modChan
    split; · exact hserve _ _ hs.modChan
    exact ih hs.modChan.modChan

protected theorem Kept.wrrDo {live chan src i} (hs : Kept σ s) : Kept σ (wrrDo live chan src s i) := by
  unfold wrrDo
  split
  · split; · exact hs.serveOp
    exact hs
  · split; · exact hs.gcStart
    exact hs

protected theorem Kept.execChannelSchedule {chan} (hs : Kept σ s) : KR σ (execChannelSchedule chan s) := by
  unfold execChannelSchedule
  split; · exact KR.next hs
  extract_lets src
  split; · exact KR.next hs.gcStart
  split; · exact KR.next hs.serveOp
  split; · exact KR.next (hs.wrrServe (fun _ _ ht => ht.wrrDo))
  clear_value src
  split; · exact KR.next hs.gcStart
  exact KR.next hs

protected theorem Kept.execWriteBufferProgram (hs : Kept σ s) : KR σ (execWriteBufferProgram s) := by
  unfold execWriteBufferProgram
  split; · exact KR.next hs
  split; · exact KR.next hs
  split; · exact KR.next hs
  rename_i e
  exact KR.next (hs.programEnt.of _ e).modStore.nvShutdown

protected theorem Kept.execGcCopyVerified {chan high} (hs : Kept σ s) : KR σ (execGcCopyVerified chan high s) := by
  unfold execGcCopyVerified
  split; · exact KR.next hs
  extract_lets s0
  have hs0 : Kept σ s0 := Kept.foldl hs fun _ _ ht => ht.modChan
  split; · exact KR.next hs0.gcAbandonRun.failBlk
  exact KR.next ((Kept.foldl hs0.modChan (fun _ _ ht => ht.gcSwitch)).gcFinish.critNote)

protected theorem Kept.execFlashProgramFail {chan blk} (hs : Kept σ s) : KR σ (execFlashProgramFail chan blk s) := by
  unfold execFlashProgramFail
  extract_lets
  split
  · split; · exact KR.next hs.gcAbandonRun.failBlk.critNote
    split; · exact KR.next hs.failBlk.critNote
    exact KR.next hs
  · split; · exact KR.next hs.failBlk.critNote
    exact KR.next hs

protected theorem Kept.execFlashEraseFail {chan blk} (hs : Kept σ s) : KR σ (execFlashEraseFail chan blk s) := by
  unfold execFlashEraseFail
  split; · exact KR.next hs.retireBlk.critNote
  exact KR.next hs

protected theorem Kept.execFlashReadFail {chan blk place} (hs : Kept σ s) :
    KR σ (execFlashReadFail chan blk place s) := by
  unfold execFlashReadFail
  split; · exact KR.next hs
  split; · exact KR.next hs
  exact KR.next ((Kept.foldl hs.unmapUnit.modStore (fun _ _ ht => ht.serveOp)).countEv.failBlk.critNote)

protected theorem Kept.execEraseComplete {chan blk} (hs : Kept σ s) : KR σ (execEraseComplete chan blk s) := by
  unfold execEraseComplete
  split; · exact KR.next hs.modChan.countEv
  exact KR.next hs

/-! ### TimeCmds -/

protected theorem Kept.execMeridianRead64 {fn} (hs : Kept σ s) : KR σ (execMeridianRead64 fn s) := by
  unfold execMeridianRead64
  split; · exact KR.next hs.emit
  exact KR.next hs

protected theorem Kept.execMeridianLowRead {fn} (hs : Kept σ s) : KR σ (execMeridianLowRead fn s) := by
  unfold execMeridianLowRead
  split; · exact KR.next hs.modTime.emit
  exact KR.next hs

protected theorem Kept.execMeridianHighRead {fn} (hs : Kept σ s) : KR σ (execMeridianHighRead fn s) := by
  unfold execMeridianHighRead
  split; · exact KR.next hs.modTime.emit
  exact KR.next hs

protected theorem Kept.advanceMer {m} (hs : Kept σ s) : Kept σ (advanceMer s m) := hs.advance.advance.advance

protected theorem Kept.takeOffset {o} (hs : Kept σ s) : Kept σ (takeOffset s o) := by
  unfold takeOffset
  split
  · split; · exact hs.modTime
    exact hs.same.modTime
  · exact hs.modTime

protected theorem Kept.lockBound (hs : Kept σ s) : Kept σ (lockBound s) := by
  unfold lockBound
  split <;> exact hs.modTime

protected theorem Kept.execPpsEdge (hs : Kept σ s) : KR σ (execPpsEdge s) := by
  unfold execPpsEdge
  split; · exact KR.next hs
  split; · exact KR.next hs.modTime.datumNote
  extract_lets _ s2
  have hs2 : Kept σ s2 := hs.modTime.takeOffset
  exact KR.next ((hs2.modTime.lockBound.ite hs2).datumNote)

protected theorem Kept.execPpsLossTimeout (hs : Kept σ s) : KR σ (execPpsLossTimeout s) := by
  unfold execPpsLossTimeout
  split; · exact KR.next hs
  split; · exact KR.next hs
  extract_lets s0 s1
  have hs0 : Kept σ s0 := hs.advanceTo
  have hs1 : Kept σ s1 := hs0.modTime.datumNote
  exact KR.next (hs1.seekParent.ite (hs1.toHoldover.ite hs1))

protected theorem Kept.execMeridianHoldEnd (hs : Kept σ s) : KR σ (execMeridianHoldEnd s) := by
  unfold execMeridianHoldEnd
  split; · exact KR.next hs
  extract_lets s1
  have hs1 : Kept σ s1 := hs.advance
  exact KR.next hs1.modTime.lockBound.datumNote

protected theorem Kept.execTimeSend {port} (hs : Kept σ s) : KR σ (execTimeSend port s) := by
  unfold execTimeSend
  split; · exact KR.next hs
  extract_lets _ s1
  have hs1 : Kept σ s1 := by
    unfold s1
    split; · exact hs.advanceTo
    exact hs
  exact KR.next hs1.modTPort.sendLocal

protected theorem Kept.takeSample {p o d} (hs : Kept σ s) : Kept σ (takeSample s p o d) := by
  unfold takeSample
  extract_lets _ _ _ s1 _ _ s3
  have hs1 : Kept σ s1 := hs.modTPort.modTime
  have hs3 : Kept σ s3 := hs1.modTPort.takeOffset
  split; · exact hs1.modTPort
  split; · exact hs3.lockBound
  exact hs3

protected theorem Kept.followParent (hs : Kept σ s) : Kept σ (followParent s) := by
  unfold followParent
  extract_lets
  split; · exact hs.seekParent
  split; · split <;> exact hs.modTime
  exact hs

protected theorem Kept.execTimeReceive {names} (hs : Kept σ s) : KR σ (execTimeReceive names s) := by
  unfold execTimeReceive
  split; · exact KR.next hs
  split; · exact KR.next hs.doneMsg
  extract_lets _ _ _ s1 s3
  have hs1 : Kept σ s1 := hs.police.fst.doneMsg.modTPort
  have hs3 : Kept σ s3 := hs1.followParent
  split; · exact KR.next hs1
  split; · exact KR.next hs3
  exact KR.next hs3.takeSample.datumNote

protected theorem Kept.setSource {src} (hs : Kept σ s) : Kept σ (setSource s src) := by
  unfold setSource
  split; · exact hs
  extract_lets s1
  have hs1 : Kept σ s1 := hs.modTime
  split; · exact hs1.seekParent
  split; · exact hs1.modTime
  exact hs1

protected theorem Kept.execTimeConfig {r} (hs : Kept σ s) : KR σ (execTimeConfig r s) := by
  unfold execTimeConfig
  refine hs.runCmd fun _ _ _ ht => ?_
  split; · exact ht.complete
  extract_lets
  split; · exact ht.modTime.setSource.complete
  split; · exact ht.askHost
  exact (Kept.modTime (Kept.foldl ht (fun _ _ ht' => ht'.modTPort))).setSource.complete

protected theorem Kept.execTimeStatus {r} (hs : Kept σ s) : KR σ (execTimeStatus r s) := by
  unfold execTimeStatus
  refine hs.runCmd fun _ _ _ ht => ?_
  extract_lets
  refine Kept.complete ?_
  refine Kept.foldl ht.cmdHostPut fun _ _ ht' => ?_
  split; · exact ht'.modTPort
  exact ht'

protected theorem Kept.modCoord {id f} (hs : Kept σ s) : Kept σ (modCoord s id f) := hs.modTime

protected theorem Kept.sendParts {c kind} (hs : Kept σ s) : Kept σ (sendParts s c kind) :=
  Kept.routeAll (Kept.foldl hs (fun _ _ ht => ht.sendOrd))

protected theorem Kept.disarm {c} (hs : Kept σ s) : Kept σ (disarm s c) := hs.sendParts.modTime.complete

protected theorem Kept.execTimeArm {r} (hs : Kept σ s) : KR σ (execTimeArm r s) := by
  unfold execTimeArm
  refine hs.runCmd fun _ _ _ ht => ?_
  split; · exact ht
  extract_lets
  split; · exact ht.complete
  split; · exact ht.complete
  split; · exact ht.complete
  split; · exact ht.askHost
  exact ht.modTime.sendParts

protected theorem Kept.execTimeDisarm {r} (hs : Kept σ s) : KR σ (execTimeDisarm r s) := by
  unfold execTimeDisarm
  refine hs.runCmd fun _ _ _ ht => ?_
  split; · exact ht.complete
  split; · exact ht.complete
  exact ht.disarm.complete

/-! ### StoreCmds -/

protected theorem Kept.drainT4 {q} (hs : Kept σ s) : KO (Kept σ) (drainT4 s q) := by
  unfold drainT4
  split; · exact KO.some hs
  split; · exact KO.none
  split; · exact KO.some hs.addMig
  exact hs.takeBy

protected theorem Kept.drainT4s {a} (hs : Kept σ s) : KP σ (drainT4s s a) := by
  induction a generalizing s with
  | nil => exact KP.intro hs
  | cons _ _ ih =>
    unfold drainT4s
    split
    · rename_i e
      exact ih (hs.drainT4.of _ e)
    · exact KP.intro (ih hs).fst

protected theorem Kept.execStoreSplit {r} (hs : Kept σ s) : KR σ (execStoreSplit r s) := by
  unfold execStoreSplit
  refine hs.runCmd fun t _ _ ht => ?_
  extract_lets n _ s2
  have hs2 : Kept σ s2 := ht.modStore
  split; · exact ht.complete
  split
  · split; · exact ht.complete
    exact Kept.complete (Kept.same (s := modStore t fun v ↦
  { cc := v.cc, csts := v.csts, aqa := v.aqa, asq := v.asq, acq := v.acq, intm := v.intm, sqs := v.sqs, cqs :=
    v.cqs, turn := v.turn, burst := v.burst, credit := v.credit, cmds := v.cmds, aers := v.aers, events :=
      v.events, evMasked := v.evMasked, nss := v.nss, feats := v.feats, apst := v.apst, stamp := v.stamp, ps :=
        v.ps, psNow := if n ≠ 0 ∧ v.psNow = 2 ∧ t.power.stage ≠ 4 then heldPs t 0 else v.psNow, lastIo :=
          v.lastIo, wb := v.wb, nextWb := v.nextWb, locks := v.locks, chans := v.chans, map := v.map, lostUnits :=
            v.lostUnits, dmaw := v.dmaw, t4w := v.t4w, gcw := v.gcw, gclow := v.gclow, gccrit :=
              v.gccrit, t4Drain := v.t4Drain, nandNs := v.nandNs, nandT4 := v.nandT4, nandGc :=
                v.nandGc, retProg := v.retProg, retErase := v.retErase, retRead := v.retRead, gcAbandon :=
                  v.gcAbandon, gcRuns := v.gcRuns, refresh := v.refresh, lockHolds := v.lockHolds, badShut :=
                    v.badShut, powerCycles := v.powerCycles, powerOn := v.powerOn, bytesRead :=
                      v.bytesRead, bytesWritten := v.bytesWritten,
    reads := v.reads, writes := v.writes, mediaErrors := v.mediaErrors, errs := v.errs, errCount :=
      v.errCount, busyTicks := v.busyTicks, busySince := v.busySince, temp := v.temp, warmTicks :=
        v.warmTicks, hotTicks := v.hotTicks }) ht.modStore)
  · split; · exact hs2.same.complete
    extract_lets d
    have hd : KP σ d := hs2.drainT4s
    split; · exact hd.fst.noteTried
    exact Kept.complete (Kept.same (s := d.1) hd.fst)

protected theorem Kept.execStoreLockCreate {r} (hs : Kept σ s) : KR σ (execStoreLockCreate r s) := by
  unfold execStoreLockCreate
  refine hs.runCmdIf fun _ _ _ ht => ?_
  split; · exact ht
  split; · exact ht.complete
  split; · exact ht.badParam
  split; · exact ht.badParam
  split; · exact ht.complete
  exact ht.modStore

protected theorem Kept.releaseLock {i status} (hs : Kept σ s) : Kept σ (releaseLock s i status) := by
  unfold releaseLock
  split; · exact hs
  extract_lets s1
  have hs1 : Kept σ s1 := hs.freeLock
  split; · exact hs1.complete
  exact hs1

protected theorem Kept.execStoreLockRelease {r} (hs : Kept σ s) : KR σ (execStoreLockRelease r s) := by
  unfold execStoreLockRelease
  refine hs.runCmdIf fun _ _ _ ht => ?_
  extract_lets
  split
  · split; · exact ht.complete
    exact ht.releaseLock.complete
  · exact ht.complete

protected theorem Kept.execStoreLockList {r} (hs : Kept σ s) : KR σ (execStoreLockList r s) :=
  hs.runCmdIf fun _ _ _ ht => ht.cmdHostPut.complete

protected theorem Kept.execLockActivate {i} (hs : Kept σ s) : KR σ (execLockActivate i s) := by
  unfold execLockActivate
  split; · exact KR.next hs
  split; · exact KR.next hs
  extract_lets s1
  have hs1 : Kept σ s1 := hs.modStore
  split; · exact KR.next hs1.complete
  exact KR.next hs1

protected theorem Kept.execLockExpiry {i} (hs : Kept σ s) : KR σ (execLockExpiry i s) := by
  unfold execLockExpiry
  split; · exact KR.next hs
  split; · exact KR.next hs
  exact KR.next hs.advanceMer.releaseLock

protected theorem Kept.execStoreArb {r} (hs : Kept σ s) : KR σ (execStoreArb r s) := by
  unfold execStoreArb
  refine hs.runCmd fun _ _ _ ht => ?_
  split; · exact ht.complete
  exact ht.modStore.complete

protected theorem Kept.execStoreHealth {r} (hs : Kept σ s) : KR σ (execStoreHealth r s) :=
  hs.runCmd fun _ _ _ ht => ht.cmdHostPut.complete

/-! ### DmaCmds -/

protected theorem Kept.dcTakeLock {r n e} (hs : Kept σ s) : Kept σ (dcTakeLock s r n e) := by
  unfold dcTakeLock
  split; · exact hs
  exact hs.modStore

protected theorem Kept.fillBulk {a} (hs : Kept σ s) : Kept σ (fillBulk a s) := by
  induction a generalizing s with
  | zero => exact hs
  | succ _ ih =>
    unfold fillBulk
    extract_lets
    split; · exact hs
    split; · exact hs
    exact ih hs.same

protected theorem Kept.serveFunnel (hs : Kept σ s) : Kept σ (serveFunnel s) := by
  unfold serveFunnel
  extract_lets _ _ _ _ s1
  have hs1 : Kept σ s1 := by
    unfold s1
    split; · exact hs
    exact hs.same
  exact hs1.fillBulk

protected theorem Kept.leaveFunnel {r} (hs : Kept σ s) : Kept σ (leaveFunnel s r) := hs.same

protected theorem Kept.execDmaCopy {r} (hs : Kept σ s) : KR σ (execDmaCopy r s) := by
  unfold execDmaCopy
  refine hs.runCmd fun _ _ _ ht => ?_
  refine Kept.serveFunnel ?_
  extract_lets rest
  have hrest : ∀ (st : Machine.State), Kept σ st → Kept σ (rest st) := by
    intro _ hst
    unfold rest
    split; · exact hst
    split; · exact hst.askHost
    split; · exact hst.badParam
    split; · exact hst.complete
    exact hst.modInfl
  split; · exact hrest _ ht
  split; · exact ht.complete
  split; · exact ht.complete
  split; · exact ht.badParam
  extract_lets s2
  have hs2 : Kept σ s2 := by
    unfold s2
    split; · exact ht
    exact ht.dcTakeLock
  exact hrest _ hs2.modStore

protected theorem Kept.dcRead {x off n} (hs : Kept σ s) : KE (Kept σ) (KP σ) (dcRead s x off n) := by
  unfold dcRead
  extract_lets
  split
  · split
    · rename_i e1
      exact KE.ok (KP.intro (hs.cmdRead.ofOk _ _ e1))
    · rename_i e2
      exact KE.error (hs.cmdRead.ofWait _ e2)
    · exact KE.error hs.cmdFault
  · split; · exact KE.error hs
    split; · exact KE.error hs
    split; · exact KE.error hs.complete
    split; · exact KE.error hs.modInfl.queueReads
    exact KE.ok (KP.intro hs)
  · split; · exact KE.ok (KP.intro hs)
    exact KE.error hs.askHost

protected theorem Kept.dcPieceDone {x n} (hs : Kept σ s) : Kept σ (dcPieceDone s x n) := by
  unfold dcPieceDone
  extract_lets _ s1
  have hs1 : Kept σ s1 := hs.countEv
  split; · exact hs1.complete
  split; · exact hs1.complete
  exact hs1.modInfl

protected theorem Kept.dcWrite {x off n bs} (hs : Kept σ s) : Kept σ (dcWrite s x off n bs) := by
  unfold dcWrite
  extract_lets
  split
  · split
    · rename_i e1
      exact hs.cmdWrite.ofWait _ e1
    · exact hs.cmdFault
    · rename_i s2' _ e2
      have hs2' : Kept σ s2' := hs.cmdWrite.ofOk _ _ e2
      split; · exact hs2'.dcPieceDone
      exact hs2'.modInfl
  · split; · exact hs.complete
    exact hs.wbPush.modInfl
  · exact (KP.foldl (KP.intro hs) (fun _ _ hq => KP.intro hq.fst.hostPutP)).fst.dcPieceDone

protected theorem Kept.pieceGo {x} (hs : Kept σ s) : Kept σ (pieceGo s x) := by
  unfold pieceGo
  extract_lets
  split
  · split; · exact hs.dcPieceDone
    exact hs
  · split; · exact hs
    split; · exact hs.dcPieceDone
    split
    · rename_i e1
      exact hs.dcRead.ofErr _ e1
    · rename_i e2
      exact (hs.dcRead.ofOk _ e2).fst.dcWrite

protected theorem Kept.execDmaPieceComplete {r} (hs : Kept σ s) : KR σ (execDmaPieceComplete r s) := by
  unfold execDmaPieceComplete
  split; · exact KR.next hs
  extract_lets s0 s1
  have hs0 : Kept σ s0 := hs.serveFunnel
  have hs1 : Kept σ s1 := hs0.pieceGo
  split; · exact KR.next hs0
  exact KR.next (hs1.ite hs1.leaveFunnel.serveFunnel)

end Sys2Proof.Safety
end

section
/-! `Kept` for the operations on sequences, vectors, search and the commands of models. -/

namespace Sys2Proof.Safety

open Sys2Proof.Machine Sys2Proof.Laws

/- The proofs run in turn: side by side, the threads that wait for each other's case splits exhaust the memory. -/
set_option Elab.async false

variable {σ s : State}

/-! ### SeqOps -/

protected theorem Kept.addUnit {t u} (hs : Kept σ s) : Kept σ (addUnit s t u) := hs.modServing
protected theorem Kept.freeEngine {e} (hs : Kept σ s) : Kept σ (freeEngine s e) := hs.modServing

protected theorem Kept.kvCold {t v bs} (hs : Kept σ s) : Kept σ (kvCold s t v bs) :=
  Kept.foldl hs fun _ _ ht' => ht'.hintCold

protected theorem Kept.kvWillneed {t v bs} (hs : Kept σ s) : Kept σ (kvWillneed s t v bs) :=
  Kept.foldl hs fun _ _ ht' => ht'.hintWillneed

protected theorem Kept.addPend {q i va bs} (hs : Kept σ s) : Kept σ (addPend s q i va bs) := hs.modSv

protected theorem Kept.pendTab {i draft} (hs : Kept σ s) : Kept σ (pendTab s i draft) := by
  unfold pendTab
  split; · exact hs
  split; · exact hs
  split; · exact hs
  exact hs.addPend

protected theorem Kept.pendRec {q i b} (hs : Kept σ s) : Kept σ (pendRec s q i b) := by
  unfold pendRec
  split; · exact hs
  exact hs.addPend

protected theorem Kept.unpublish {q b} (hs : Kept σ s) : Kept σ (unpublish s q b) := hs.modSv.pendRec

protected theorem Kept.takeBlock {q v} (hs : Kept σ s) : KO (KP σ) (takeBlock s q v) := by
  unfold takeBlock
  split; · exact KO.some (KP.intro hs)
  exact KO.map KO.triv fun _ _ => KP.intro hs.unpublish

protected theorem Kept.releaseBlocks {q bs} (hs : Kept σ s) : Kept σ (releaseBlocks s q bs) := by
  unfold releaseBlocks
  split; · exact hs.modSv.kvCold
  exact hs

protected theorem Kept.dropBlocks {i} (hs : Kept σ s) : Kept σ (dropBlocks s i) := by
  unfold dropBlocks
  split; · exact hs
  extract_lets _ s2
  have hs2 : Kept σ s2 := hs.modSeq.releaseBlocks
  split; · exact hs2.releaseBlocks
  exact hs2

protected theorem Kept.publishOne {q i j} (hs : Kept σ s) : Kept σ (publishOne q i s j) := by
  unfold publishOne
  split
  · split; · exact hs
    split; · exact hs
    extract_lets
    split; · exact hs
    exact hs.modSv.pendRec
  · exact hs

protected theorem Kept.publish {i} (hs : Kept σ s) : Kept σ (publish s i) := by
  unfold publish
  split; · exact hs
  split; · exact hs
  exact Kept.foldl hs fun _ _ ht => ht.publishOne

protected theorem Kept.dropPoisoned {q} (hs : Kept σ s) : Kept σ (dropPoisoned s q) := by
  unfold dropPoisoned
  split; · exact Kept.foldl hs fun _ _ ht => ht.unpublish
  exact hs

protected theorem Kept.enterQueued {i} (hs : Kept σ s) : Kept σ (enterQueued s i) := by
  unfold enterQueued
  split; · exact hs
  exact hs.dropPoisoned.modSv.modSeq.pendTab

protected theorem Kept.evict {i} (hs : Kept σ s) : Kept σ (evict s i) := hs.countEv.dropBlocks.setFlag.enterQueued

protected theorem Kept.allocLoop {q i draft keep need a} (hs : Kept σ s) :
    KO (Kept σ) (allocLoop q i draft keep need a s) := by
  induction a generalizing s with
  | zero =>
    unfold allocLoop
    split
    · split
      · split; · exact KO.some hs
        exact KO.none
      · split; · exact KO.some hs
        exact KO.none
    · exact KO.none
  | succ _ ih =>
    unfold allocLoop
    split
    · split
      · split; · exact KO.some hs
        split
        · rename_i e1
          exact ih (hs.takeBlock.of _ e1).fst.modSeq
        · split; · exact ih hs.evict
          exact KO.none
      · split; · exact KO.some hs
        split
        · rename_i e2
          exact ih (hs.takeBlock.of _ e2).fst.modSeq
        · split; · exact ih hs.evict
          exact KO.none
    · exact KO.none

protected theorem Kept.allocKv {q i draft keep upto} (hs : Kept σ s) :
    KO (Kept σ) (allocKv s q i draft keep upto) := by
  unfold allocKv
  refine hs.allocLoop.map fun _ ha => ?_
  extract_lets
  split; · exact ha
  exact ha.pendTab

protected theorem Kept.freeSeq {i} (hs : Kept σ s) : Kept σ (freeSeq s i) := by
  unfold freeSeq
  split; · exact hs
  extract_lets _ s2
  have hs2 : Kept σ s2 := hs.dropBlocks.modServing
  exact hs2.same.modSv.settleModels

protected theorem Kept.ringText {i x} (hs : Kept σ s) : Kept σ (ringText s i x) := by
  unfold ringText
  extract_lets _ _ _ _ _ s1 s2 s3 _ s4
  have hs1 : Kept σ s1 := hs.hostPutP
  have hs2 : Kept σ s2 := by
    unfold s2
    split; · exact hs1.hostPutP
    exact hs1
  have hs3 : Kept σ s3 := hs2.hostPutP
  have hs4 : Kept σ s4 := by
    unfold s4
    split; · exact hs3.modPol
    exact hs3
  split; · exact hs
  exact hs4.modSeq

protected theorem Kept.flushSeq {i} (hs : Kept σ s) : Kept σ (flushSeq s i) := by
  unfold flushSeq
  split; · exact hs
  extract_lets s1
  have hs1 : Kept σ s1 := by
    unfold s1
    split
    · split; · exact hs
      exact hs.sendSeq.modSeq
    · exact hs.ringText
  split; · exact hs1
  split
  · split; · exact hs1
    exact hs1.addReadP
  · split
    · split; · exact hs1
      exact hs1.endRecord.freeSeq
    · exact hs1.modSeq

protected theorem Kept.endSeq {i reason status detail} (hs : Kept σ s) :
    Kept σ (endSeq s i reason status detail) := by
  unfold endSeq
  split; · exact hs
  split; · exact hs
  exact hs.modSeq.modServing.flushSeq

protected theorem Kept.seqFaultAs {i src st kind acc cause page} (hs : Kept σ s) :
    Kept σ (seqFaultAs s i src st kind acc cause page) := by
  unfold seqFaultAs
  split; · exact hs
  exact hs.postFault.endSeq

protected theorem Kept.seqFault {i src kind acc cause page} (hs : Kept σ s) :
    Kept σ (seqFault s i src kind acc cause page) :=
  hs.seqFaultAs

protected theorem Kept.flushArea {q} (hs : Kept σ s) : Kept σ (flushArea s q) := by
  unfold flushArea
  split
  · split; · exact hs
    extract_lets one r
    have hr : KP σ r := by
      unfold r
      refine KP.foldl (KP.intro hs) fun _ _ hq' => ?_
      unfold one
      extract_lets
      split
      · exact KP.intro hq'.fst.hubWrite.touchPages
      · rename_i e
        exact KP.intro (hq'.fst.engReady.ofWait _ e)
      · exact KP.intro hq'.fst
    exact Kept.foldl hr.fst.modSv fun _ _ ht => ht.seqFault
  · exact hs

protected theorem Kept.flushAreas (hs : Kept σ s) : Kept σ (flushAreas s) := Kept.foldl hs fun _ _ ht => ht.flushArea
protected theorem Kept.releaseText {i bs} (hs : Kept σ s) : Kept σ (releaseText s i bs) := hs.modSeq.flushSeq
protected theorem Kept.killSeq {i} (hs : Kept σ s) : Kept σ (killSeq s i) := hs.modSeq.freeSeq

/-! ### Vector -/

protected theorem Kept.vuIssue {c i sel h} (hs : Kept σ s) : Kept σ (vuIssue s c i sel h) :=
  hs.issueCmd fun _ _ _ _ ht => ht.modCtx.modCore

protected theorem Kept.vuLanes {c i n h} (hs : Kept σ s) : KR σ (vuLanes s c i n h) := KR.next hs.vuIssue
protected theorem Kept.execVuLd {c slot} (hs : Kept σ s) : KR σ (execVuLd c slot s) := KR.next hs.vuIssue

protected theorem Kept.execVuSt {c slot} (hs : Kept σ s) : KR σ (execVuSt c slot s) :=
  KR.next (hs.issueCmd (fun _ _ _ _ ht => ht.modCore))

protected theorem Kept.execVuAdd {c slot} (hs : Kept σ s) : KR σ (execVuAdd c slot s) := hs.vuLanes
protected theorem Kept.execVuSub {c slot} (hs : Kept σ s) : KR σ (execVuSub c slot s) := hs.vuLanes
protected theorem Kept.execVuMul {c slot} (hs : Kept σ s) : KR σ (execVuMul c slot s) := hs.vuLanes
protected theorem Kept.execVuFma {c slot} (hs : Kept σ s) : KR σ (execVuFma c slot s) := hs.vuLanes
protected theorem Kept.execVuMin {c slot} (hs : Kept σ s) : KR σ (execVuMin c slot s) := hs.vuLanes
protected theorem Kept.execVuMax {c slot} (hs : Kept σ s) : KR σ (execVuMax c slot s) := hs.vuLanes
protected theorem Kept.execVuAbs {c slot} (hs : Kept σ s) : KR σ (execVuAbs c slot s) := hs.vuLanes
protected theorem Kept.execVuNeg {c slot} (hs : Kept σ s) : KR σ (execVuNeg c slot s) := hs.vuLanes
protected theorem Kept.execVuDiv {c slot} (hs : Kept σ s) : KR σ (execVuDiv c slot s) := hs.vuLanes
protected theorem Kept.execVuSqrt {c slot} (hs : Kept σ s) : KR σ (execVuSqrt c slot s) := hs.vuLanes
protected theorem Kept.execVuAnd {c slot} (hs : Kept σ s) : KR σ (execVuAnd c slot s) := hs.vuLanes
protected theorem Kept.execVuOr {c slot} (hs : Kept σ s) : KR σ (execVuOr c slot s) := hs.vuLanes
protected theorem Kept.execVuXor {c slot} (hs : Kept σ s) : KR σ (execVuXor c slot s) := hs.vuLanes
protected theorem Kept.execVuShl {c slot} (hs : Kept σ s) : KR σ (execVuShl c slot s) := hs.vuLanes
protected theorem Kept.execVuShr {c slot} (hs : Kept σ s) : KR σ (execVuShr c slot s) := hs.vuLanes
protected theorem Kept.execVuSar {c slot} (hs : Kept σ s) : KR σ (execVuSar c slot s) := hs.vuLanes
protected theorem Kept.execVuPopc {c slot} (hs : Kept σ s) : KR σ (execVuPopc c slot s) := hs.vuLanes
protected theorem Kept.execVuHamm {c slot} (hs : Kept σ s) : KR σ (execVuHamm c slot s) := hs.vuLanes
protected theorem Kept.execVuCvt {c slot} (hs : Kept σ s) : KR σ (execVuCvt c slot s) := hs.vuLanes
protected theorem Kept.execVuCmp {c slot} (hs : Kept σ s) : KR σ (execVuCmp c slot s) := hs.vuLanes
protected theorem Kept.execVuSel {c slot} (hs : Kept σ s) : KR σ (execVuSel c slot s) := hs.vuLanes
protected theorem Kept.execVuRsum {c slot} (hs : Kept σ s) : KR σ (execVuRsum c slot s) := KR.next hs.vuIssue
protected theorem Kept.execVuRmax {c slot} (hs : Kept σ s) : KR σ (execVuRmax c slot s) := KR.next hs.vuIssue
protected theorem Kept.execVuExp2 {c slot} (hs : Kept σ s) : KR σ (execVuExp2 c slot s) := hs.vuLanes
protected theorem Kept.execVuLog2 {c slot} (hs : Kept σ s) : KR σ (execVuLog2 c slot s) := hs.vuLanes
protected theorem Kept.execVuRsqrt {c slot} (hs : Kept σ s) : KR σ (execVuRsqrt c slot s) := hs.vuLanes
protected theorem Kept.execVuTanh {c slot} (hs : Kept σ s) : KR σ (execVuTanh c slot s) := hs.vuLanes
protected theorem Kept.execVuSoftmax {c slot} (hs : Kept σ s) : KR σ (execVuSoftmax c slot s) := KR.next hs.vuIssue
protected theorem Kept.vuNet {c i n h} (hs : Kept σ s) : KR σ (vuNet s c i n h) := KR.next hs.vuIssue
protected theorem Kept.execVuBsort {c slot} (hs : Kept σ s) : KR σ (execVuBsort c slot s) := hs.vuNet

protected theorem Kept.execVuBmerge {c slot} (hs : Kept σ s) : KR σ (execVuBmerge c slot s) := by
  unfold execVuBmerge
  split
  · rename_i e
    exact KR.next (Kept.draw (hs.vuNet.of _ e))
  · exact hs.vuNet

protected theorem Kept.execVuTopk {c slot} (hs : Kept σ s) : KR σ (execVuTopk c slot s) := hs.vuNet
protected theorem Kept.execVuCompact {c slot} (hs : Kept σ s) : KR σ (execVuCompact c slot s) := hs.vuNet

protected theorem Kept.execVectorUnitComplete {c} (hs : Kept σ s) : KR σ (execVectorUnitComplete c s) := by
  unfold execVectorUnitComplete
  split; · exact KR.next hs
  exact KR.next hs.modCore.releaseCmd

/-! ### Search -/

protected theorem Kept.imgReady {svc t a} (hs : Kept σ s) : KPageAcc σ (imgReady s svc t a) := by
  induction a with
  | nil => exact KPageAcc.ready
  | cons _ _ ih =>
    unfold imgReady
    split; · exact ih
    split
    · split
      · rename_i e
        exact KPageAcc.wait (ih.ofWait _ e).same
      · exact ih
    · exact hs.engPageAs

protected theorem Kept.modSearch {f} (hs : Kept σ s) : Kept σ (modSearch s f) := hs.same
protected theorem Kept.modIx {h f} (hs : Kept σ s) : Kept σ (modIx s h f) := hs.modSearch

protected theorem Kept.refuseStale {h} (hs : Kept σ s) : Kept σ (refuseStale s h) := by
  unfold refuseStale
  split; · exact hs
  extract_lets
  split; · exact hs
  exact hs.modIx.modSearch

protected theorem Kept.settleIndex {h} (hs : Kept σ s) : Kept σ (settleIndex s h) := by
  unfold settleIndex
  split; · exact hs
  extract_lets
  split; · exact hs.modSearch
  exact hs.modIx.refuseStale

protected theorem Kept.endBlock {r status res} (hs : Kept σ s) : Kept σ (endBlock s r status res) := by
  unfold endBlock
  split; · exact hs
  exact hs.modInfl.blockDone

protected theorem Kept.dropBuilt {h} (hs : Kept σ s) : Kept σ (dropBuilt s h) := by
  unfold dropBuilt
  split; · exact hs
  exact hs.modIx.settleIndex

protected theorem Kept.swapIndex {h num cmd} (hs : Kept σ s) : Kept σ (swapIndex s h num cmd) := by
  unfold swapIndex
  extract_lets done
  split
  · unfold done
    split; · exact hs.endBlock
    exact hs
  · split
    · unfold done
      split; · exact hs.endBlock
      exact hs
    · split
      · unfold done
        split; · exact hs.endBlock
        exact hs
      · extract_lets
        split
        · unfold done
          split; · exact hs.dropBuilt.endBlock
          exact hs.dropBuilt
        · unfold done
          split; · exact hs.modIx.settleIndex.endBlock
          exact hs.modIx.settleIndex

/-! ### SearchCmds -/

protected theorem Kept.whenBlock {x k} (hs : Kept σ s) (hk : ∀ t, Kept σ t → Kept σ (k t)) :
    Kept σ (whenBlock s x k) := by
  unfold whenBlock
  split
  · rename_i e
    exact hs.cmdReady.ofWait _ e
  · exact hs.cmdFault
  · exact hk _ hs

protected theorem Kept.runSearch {r op checks body} (hs : Kept σ s)
    (hbody : ∀ t a1 a2, Kept σ t → Kept σ (body t a1 a2)) :
    KR σ (runSearch s r op checks body) := by
  unfold runSearch
  refine hs.runBlock fun _ _ _ ht => ?_
  split; · exact ht.blockDone
  exact hbody _ _ _ ht

protected theorem Kept.execSearchOpen {r} (hs : Kept σ s) : KR σ (execSearchOpen r s) := by
  unfold execSearchOpen
  refine hs.runSearch fun _ _ _ ht => ?_
  extract_lets
  split
  · rename_i e
    exact ht.cmdRead.ofWait _ e
  · exact ht.cmdFault
  · rename_i s2' _ e1
    have hs2' : Kept σ s2' := ht.cmdRead.ofOk _ _ e1
    extract_lets
    split; · exact hs2'.badBlock
    split
    · rename_i e2
      exact hs2'.cmdRead.ofWait _ e2
    · exact hs2'.cmdFault
    · rename_i s2 _ e3
      have hs2 : Kept σ s2 := hs2'.cmdRead.ofOk _ _ e3
      split; · exact hs2.badBlock
      split; · exact hs2.complete
      split; · exact hs2.complete
      exact hs2.whenBlock fun _ ht' => ht'.modSearch.endBlock

protected theorem Kept.abortResurvey {h} (hs : Kept σ s) : Kept σ (abortResurvey s h) := by
  unfold abortResurvey
  split; · exact hs
  exact hs.modIx.finishJob.complete

protected theorem Kept.execSearchClose {r} (hs : Kept σ s) : KR σ (execSearchClose r s) := by
  unfold execSearchClose
  refine hs.runSearch fun _ _ _ ht => ?_
  extract_lets
  split; · exact ht.complete
  split; · exact ht.complete
  exact ht.whenBlock fun _ ht' => ht'.abortResurvey.dropBuilt.modIx.settleIndex.endBlock

protected theorem Kept.readTable {x t a} (hs : Kept σ s) : KE (Kept σ) (KP σ) (readTable x t a s) := by
  induction a generalizing s with
  | nil => exact KE.ok (KP.intro hs)
  | cons _ _ ih =>
    unfold readTable
    split
    · rename_i e
      exact KE.error (hs.cmdRead.ofWait _ e)
    · rename_i s1' _ e1
      have hs1' : Kept σ s1' := hs.cmdRead.ofOk _ _ e1
      split
      · rename_i e2
        exact KE.error ((ih hs1').ofErr _ e2)
      · rename_i e3
        exact KE.ok (KP.intro ((ih hs1').ofOk _ e3).fst)
    · split
      · rename_i e3
        exact KE.error ((ih hs).ofErr _ e3)
      · rename_i e4
        exact KE.ok (KP.intro ((ih hs).ofOk _ e4).fst)

protected theorem Kept.postCmdFault {r t kind acc cause page} (hs : Kept σ s) :
    Kept σ (postCmdFault s r t kind acc cause page) :=
  hs.postFault

protected theorem Kept.dropSq {r} (hs : Kept σ s) : Kept σ (dropSq s r) := hs.modSearch
protected theorem Kept.modSq {r f} (hs : Kept σ s) : Kept σ (modSq s r f) := hs.modSearch

protected theorem Kept.reportFaults {r t a} (hs : Kept σ s) : Kept σ (reportFaults s r t a) := by
  induction a generalizing s with
  | nil => exact hs.modSq
  | cons _ _ ih =>
    unfold reportFaults
    split; · exact hs.modSq
    exact ih hs.postCmdFault

protected theorem Kept.endQueries {r c} (hs : Kept σ s) : Kept σ (endQueries s r c) := by
  unfold endQueries
  split; · exact hs
  split
  · split; · exact hs.dropSq.modInfl
    exact hs.dropSq.complete
  · extract_lets
    split
    · rename_i e1
      exact hs.cmdWrite.ofWait _ e1
    · split; · exact hs
      exact hs.dropSq.cmdFault
    · rename_i s2' _ e2
      have hs2' : Kept σ s2' := hs.cmdWrite.ofOk _ _ e2
      extract_lets
      split; · exact hs2'.dropSq.modInfl
      exact hs2'.dropSq.complete

protected theorem Kept.queryEnded {r status} (hs : Kept σ s) : Kept σ (queryEnded s r status) := by
  unfold queryEnded
  split; · exact hs
  extract_lets
  split; · exact hs.modSq.endQueries
  exact hs.modSq

protected theorem Kept.goQueries {r t} (hs : Kept σ s) : Kept σ (goQueries s r t) := by
  unfold goQueries
  split; · exact hs
  extract_lets s1
  have hs1 : Kept σ s1 := hs.reportFaults
  split
  · split; · exact hs1.endQueries
    exact hs1
  · exact hs1

protected theorem Kept.execSearchQuery {r} (hs : Kept σ s) : KR σ (execSearchQuery r s) := by
  unfold execSearchQuery
  refine hs.runBlock fun _ _ _ ht => ?_
  split; · exact ht.goQueries
  extract_lets
  split; · exact ht.complete
  split; · exact ht.complete
  split
  · rename_i e1
    exact ht.readTable.ofErr _ e1
  · rename_i s2' _ _ e2
    have hs2' : Kept σ s2' := (ht.readTable.ofOk _ e2).fst
    extract_lets
    split; · exact hs2'.badBlock
    exact hs2'.modIx.modSearch.goQueries

protected theorem Kept.execSearchBatchStart {h} (hs : Kept σ s) : KR σ (execSearchBatchStart h s) := by
  unfold execSearchBatchStart
  split; · exact KR.next hs
  split; · exact KR.next hs
  extract_lets _ s1
  have hs1 : Kept σ s1 := by
    unfold s1
    split; · exact hs
    exact hs.advanceTo
  exact KR.next hs1.modIx

protected theorem Kept.planeFault {t kind cause page} (hs : Kept σ s) : KQStep σ (planeFault s t kind cause page) :=
  KQStep.fault hs.engForget.countQuota

protected theorem Kept.searchOne {ix v snap entry vec} (hs : Kept σ s) :
    KQStep σ (searchOne s ix v snap entry vec) := by
  unfold searchOne
  extract_lets
  split
  · rename_i e
    exact KQStep.wait (hs.imgReady.ofWait _ e)
  · exact hs.planeFault
  · split
    · rename_i e'
      exact KQStep.wait (hs.imgReady.ofWait _ e')
    · exact hs.planeFault
    · exact KQStep.done hs.engForget

protected theorem Kept.touchBatch {t h b bt ps} (hs : Kept σ s) : Kept σ (touchBatch s t h b bt ps) :=
  hs.touchPages.modIx

protected theorem Kept.dropQuery {h b q} (hs : Kept σ s) : Kept σ (dropQuery s h b q) := hs.modIx

protected theorem Kept.queryFailed {ix h b bt q r st kind acc cause page} (hs : Kept σ s) :
    Kept σ (queryFailed s ix h b bt q r st kind acc cause page) := by
  unfold queryFailed
  split; · exact hs
  extract_lets
  split
  · rename_i e1
    exact (hs.engWrite.ofOk _ _ e1).postCmdFault.dropQuery.queryEnded
  · rename_i e2
    exact hs.engWrite.ofWait _ e2
  · rename_i e3
    exact (hs.engWrite.ofFault _ _ _ _ e3).postCmdFault.dropQuery.queryEnded

protected theorem Kept.seqSearched {slot q} (hs : Kept σ s) : Kept σ (seqSearched s slot q) := by
  unfold seqSearched
  split; · exact hs
  split; · exact hs.endSeq
  extract_lets
  split; · exact hs.modSeq.modSeq
  exact hs.modSeq.modSeq.addUnit

protected theorem Kept.batchQuery {h b q} (hs : Kept σ s) : Kept σ (batchQuery h b s q) := by
  unfold batchQuery
  split; · exact hs
  split; · exact hs
  split; · exact hs
  split
  · split
    · rename_i e1
      exact hs.searchOne.ofWait _ e1
    · rename_i e2
      exact (hs.searchOne.ofFault _ _ _ _ _ e2).dropQuery.seqFaultAs
    · rename_i e3
      exact (hs.searchOne.ofDone _ _ _ e3).touchBatch.dropQuery.seqSearched
  · split
    · rename_i e2
      exact hs.engRead.ofWait _ e2
    · rename_i e3
      exact (hs.engRead.ofFault _ _ _ _ e3).queryFailed
    · rename_i s3' _ e4
      have hs3' : Kept σ s3' := hs.engRead.ofOk _ _ e4
      split
      · rename_i e5
        exact hs3'.searchOne.ofWait _ e5
      · rename_i e6
        exact (hs3'.searchOne.ofFault _ _ _ _ _ e6).queryFailed
      · rename_i s1 _ _ e7
        have hs1 : Kept σ s1 := hs3'.searchOne.ofDone _ _ _ e7
        split
        · rename_i e8
          exact hs1.touchBatch.engWrite.ofWait _ e8
        · rename_i e9
          exact (hs1.touchBatch.engWrite.ofFault _ _ _ _ e9).queryFailed
        · rename_i e10
          exact (hs1.touchBatch.engWrite.ofOk _ _ e10).dropQuery.queryEnded

protected theorem Kept.letPages {h} (hs : Kept σ s) : Kept σ (letPages s h) := by
  unfold letPages
  split; · exact hs
  split; · exact hs
  exact hs.modSearch

protected theorem Kept.endStale (hs : Kept σ s) : Kept σ (endStale s) := Kept.foldl hs fun _ _ ht => ht.endQueries

protected theorem Kept.closeBatch {h b} (hs : Kept σ s) : Kept σ (closeBatch s h b) := by
  unfold closeBatch
  split; · exact hs
  split; · exact hs.modIx.letPages.settleIndex.endStale
  exact hs

protected theorem Kept.execSearchBatchEnd {h b} (hs : Kept σ s) : KR σ (execSearchBatchEnd h b s) := by
  unfold execSearchBatchEnd
  split; · exact KR.next hs
  exact KR.next (Kept.closeBatch (Kept.foldl hs (fun _ _ ht => ht.batchQuery)))

protected theorem Kept.readItems {x t len a} (hs : Kept σ s) : KE (Kept σ) (KP σ) (readItems x t len a s) := by
  induction a generalizing s with
  | nil => exact KE.ok (KP.intro hs)
  | cons _ _ ih =>
    unfold readItems
    extract_lets
    split
    · split
      · rename_i e'
        exact KE.error ((ih hs).ofErr _ e')
      · rename_i e1
        exact KE.ok (KP.intro ((ih hs).ofOk _ e1).fst)
    · split
      · rename_i e1
        exact KE.error (hs.cmdRead.ofWait _ e1)
      · exact KE.ok (KP.intro hs)
      · rename_i s2' _ e2
        have hs2' : Kept σ s2' := hs.cmdRead.ofOk _ _ e2
        split
        · rename_i e3
          exact KE.error ((ih hs2').ofErr _ e3)
        · rename_i e4
          exact KE.ok (KP.intro ((ih hs2').ofOk _ e4).fst)

protected theorem Kept.acceptUpdate {x h ix v es} (hs : Kept σ s) : Kept σ (acceptUpdate s x h ix v es) := by
  unfold acceptUpdate
  extract_lets
  split; · exact hs.complete
  exact hs.whenBlock fun _ ht => ht.modIx.endBlock

protected theorem Kept.execSearchUpdate {r} (hs : Kept σ s) : KR σ (execSearchUpdate r s) := by
  unfold execSearchUpdate
  refine hs.runSearch fun _ _ _ ht => ?_
  extract_lets
  split; · exact ht
  split; · exact ht.complete
  split; · exact ht.complete
  split
  · rename_i e1
    exact ht.cmdRead.ofWait _ e1
  · exact ht.cmdFault
  · rename_i s2' _ e2
    have hs2' : Kept σ s2' := ht.cmdRead.ofOk _ _ e2
    extract_lets
    split; · exact hs2'.badBlock
    split
    · rename_i e3
      exact hs2'.readItems.ofErr _ e3
    · rename_i fst _ _ _ e4
      exact (hs2'.readItems.ofOk _ e4).fst.cmdFault
    · rename_i e5
      exact (hs2'.readItems.ofOk _ e5).fst.acceptUpdate

protected theorem Kept.execSearchResurveyStart {r} (hs : Kept σ s) : KR σ (execSearchResurveyStart r s) := by
  unfold execSearchResurveyStart
  refine hs.runSearch fun _ _ _ ht => ?_
  split; · exact ht
  extract_lets
  split; · exact ht.complete
  split; · exact ht.complete
  extract_lets
  split; · exact ht.complete
  split; · exact ht.complete
  rename_i e
  exact (ht.makeJob.of _ e).fst.modIx.placement

protected theorem Kept.execSearchResurveyAbort {r} (hs : Kept σ s) : KR σ (execSearchResurveyAbort r s) := by
  unfold execSearchResurveyAbort
  refine hs.runSearch fun _ _ _ ht => ?_
  split; · exact ht
  extract_lets
  split; · exact ht.complete
  exact ht.whenBlock fun _ ht' => ht'.abortResurvey.endBlock

protected theorem Kept.failResurvey {h rv kind cause page} (hs : Kept σ s) :
    Kept σ (failResurvey s h rv kind cause page) := by
  unfold failResurvey
  extract_lets s1
  have hs1 : Kept σ s1 := hs.modIx.finishJob.letPages
  split; · exact hs1.cmdFault
  exact hs1

protected theorem Kept.endBuild {h ix v rv} (hs : Kept σ s) : Kept σ (endBuild s h ix v rv) := by
  unfold endBuild
  extract_lets _ s1
  have hs1 : Kept σ s1 := hs.modIx.finishJob.letPages
  split; · exact hs1.endBlock
  split; · exact hs1.endBlock
  split; · exact hs1.endBlock
  exact hs1.modIx.addAct

protected theorem Kept.execResurveyBuildDone {h} (hs : Kept σ s) : KR σ (execResurveyBuildDone h s) := by
  unfold execResurveyBuildDone
  split; · exact KR.next hs
  split
  · split; · exact KR.next hs.abortResurvey.letPages
    split; · exact KR.next hs
    split
    · rename_i e1
      exact KR.next (hs.imgReady.ofWait _ e1)
    · exact KR.next hs.engForget.failResurvey
    · extract_lets
      split
      · rename_i e2
        exact KR.next (hs.imgReady.ofWait _ e2)
      · exact KR.next hs.engForget.failResurvey
      · exact KR.next hs.endBuild.touchPages.engForget
  · exact KR.next hs

protected theorem Kept.execResurveyYield {h} (hs : Kept σ s) : KR σ (execResurveyYield h s) := by
  unfold execResurveyYield
  split; · exact KR.next hs
  split; · exact KR.next hs
  exact KR.next hs.modIx

protected theorem Kept.execSearchSwap {r} (hs : Kept σ s) : KR σ (execSearchSwap r s) := by
  unfold execSearchSwap
  refine hs.runSearch fun _ _ _ ht => ?_
  split; · exact ht
  extract_lets
  split; · exact ht.complete
  split; · exact ht.complete
  split; · exact ht.complete
  split; · exact ht.complete
  exact ht.modIx.addAct

/-! ### ModelCmds -/

protected theorem Kept.rdCmd {x va n} (hs : Kept σ s) : KE (Kept σ) (KP σ) (rdCmd s x va n) := by
  unfold rdCmd
  split
  · rename_i e
    exact KE.error (hs.cmdRead.ofWait _ e)
  · exact KE.error hs.cmdFault
  · rename_i e'
    exact KE.ok (KP.intro (hs.cmdRead.ofOk _ _ e'))

protected theorem Kept.flowEnd {a} (ha : KE (Kept σ) (Kept σ) a) : Kept σ (flowEnd a) := by
  unfold flowEnd
  split; · exact ha.ofOk _ rfl
  exact ha.ofErr _ rfl

protected theorem Kept.loadJobs {x lt a} (hs : Kept σ s) : KE (Kept σ) (KP σ) (loadJobs x lt a s) := by
  induction a generalizing s with
  | nil => exact KE.ok (KP.intro hs)
  | cons k ks ih =>
    unfold loadJobs
    refine KE.guard (KE.error hs.badParam) fun _ => hs.rdCmd.bind fun p hp => ?_
    refine KE.guard (KE.error hp.fst.badParam) fun _ => (ih hp.fst).bind fun q hq => ?_
    exact KE.ok (KP.intro hq.fst)

protected theorem Kept.loadMaps {x a} (hs : Kept σ s) : KE (Kept σ) (KP σ) (loadMaps x a s) := by
  induction a generalizing s with
  | nil => exact KE.ok (KP.intro hs)
  | cons _ _ ih =>
    unfold loadMaps
    split; · exact hs.rdCmd.bind fun ⟨_, _⟩ hx1 => (ih hx1.fst).bind (fun ⟨_, _⟩ ha' => KE.ok (KP.intro ha'.fst))
    exact KE.bind (Q := KP σ) (KE.ok (KP.intro hs)) fun ⟨_, _⟩ hx2 => (ih hx2.fst).bind (fun ⟨_, _⟩ ha' =>
      KE.ok (KP.intro ha'.fst))

protected theorem Kept.loadServ {x lt secs} (hs : Kept σ s) : KE (Kept σ) (KP σ) (loadServ x lt secs s) := by
  unfold loadServ
  split; · exact KE.ok (KP.intro hs)
  split; · exact KE.error hs.badParam
  exact hs.rdCmd.bind fun ⟨_, _⟩ ha => KE.guard (KE.error ha.fst.badParam) fun _ =>
    ha.fst.rdCmd.bind (fun ⟨_, _⟩ ha' => KE.guard (KE.error ha'.fst.badParam) fun _ => KE.ok (KP.intro ha'.fst))

protected theorem Kept.loadText {x secs serv} (hs : Kept σ s) : KE (Kept σ) (KP σ) (loadText x secs serv s) := by
  unfold loadText
  extract_lets
  split
  · split; · exact KE.error hs.badParam
    exact KE.ok (KP.intro hs)
  · exact hs.rdCmd.bind fun ⟨_, _⟩ ha => KE.guard (KE.error ha.fst.badParam) fun _ => KE.ok (KP.intro ha.fst)
  · exact KE.error hs.badParam

protected theorem Kept.loadDigest {x img len} (hs : Kept σ s) : KE (Kept σ) (Kept σ) (loadDigest x img len s) :=
  hs.rdCmd.bind fun ⟨_, _⟩ ha => KE.guard (KE.error ha.fst.complete) fun _ => KE.ok ha.fst

protected theorem Kept.loadPlan {x e} (hs : Kept σ s) : KE (Kept σ) (KP σ) (loadPlan s x e) := by
  unfold loadPlan
  extract_lets
  refine hs.rdCmd.bind fun _ ha => ?_
  split
  refine KE.guard (KE.error ha.fst.badParam) fun _ => KE.guard (KE.error ha.fst.badParam) fun _ => ?_
  extract_lets _ _ _ _ _ _ rest
  have hrest : ∀ (x : Unit), KE (Kept σ) (KP σ) (rest x) := by
    intro _
    unfold rest
    refine ha.fst.loadMaps.bind fun _ ha' => ?_
    split
    extract_lets _ _ _ rest'
    have hrest' : ∀ (x : Unit), KE (Kept σ) (KP σ) (rest' x) := by
      intro _
      unfold rest'
      refine ha'.fst.loadJobs.bind fun _ ha1 => ?_
      split
      refine ha1.fst.loadServ.bind fun _ ha2 => ?_
      split
      refine ha2.fst.loadText.bind fun _ ha3 => ?_
      split
      split; · exact ha3.fst.loadDigest.bind fun _ hs6 => KE.ok (KP.intro hs6)
      exact KE.bind (Q := Kept σ) (KE.ok ha3.fst) fun _ hs6 => KE.ok (KP.intro hs6)
    exact KE.guard (KE.error ha'.fst.badParam) fun _ => KE.guard (KE.error ha'.fst.badParam) fun _ => hrest' ()
  exact KE.guard (KE.error ha.fst.badParam) fun _ => KE.guard (KE.error ha.fst.badParam) fun _ =>
    KE.guard (KE.error ha.fst.badParam) fun _ => KE.guard (KE.error ha.fst.badParam) fun _ =>
      KE.guard (KE.error ha.fst.badParam) fun _ => hrest ()

protected theorem Kept.dropLoad {r} (hs : Kept σ s) : Kept σ (dropLoad s r) := hs.same

protected theorem Kept.undoLoad {r t} (hs : Kept σ s) : Kept σ (undoLoad s r t) := by
  unfold undoLoad
  split; · exact hs
  exact (Kept.foldl (Kept.foldl hs (fun _ _ ht' => ht'.modLeaf)) (fun _ _ ht' => ht'.modLeaf.modAtlas)).dropLoad

protected theorem Kept.failLoad {r t bit} (hs : Kept σ s) : Kept σ (failLoad s r t bit) := hs.undoLoad.complete

protected theorem Kept.makeJobs {a} (hs : Kept σ s) : KO (KP σ) (makeJobs s a) := by
  induction a generalizing s with
  | nil => exact KO.some (KP.intro hs)
  | cons _ _ ih =>
    unfold makeJobs
    split; · exact KO.none
    rename_i e'
    exact (ih (hs.makeJob.of _ e').fst).map fun _ ha' => KP.intro ha'.fst

protected theorem Kept.applyPools {q} (hs : Kept σ s) : Kept σ (applyPools s q) := by
  unfold applyPools
  split
  · split; · exact hs
    exact hs.modJob.modJob.placement
  · exact hs

protected theorem Kept.hintSec {t q} (hs : Kept σ s) : Kept σ (hintSec t s q) := by
  unfold hintSec
  split
  · exact Kept.foldl hs fun _ _ ht' => ht'.hintWillneed
  · exact Kept.foldl hs fun _ _ ht' => ht'.hintDemote
  · exact hs

protected theorem Kept.makeWindows {t v a} (hs : Kept σ s) : Kept σ (makeWindows s t v a) := by
  induction a generalizing s with
  | nil => exact hs
  | cons _ _ ih => exact ih (Kept.foldl hs.updCtx (fun _ _ ht' => ht'.setLeaf))

protected theorem Kept.installVer {r t base swapt v} (hs : Kept σ s) : Kept σ (installVer s r t base swapt v) := by
  unfold installVer
  split
  · extract_lets _ _ _ _ s2
    have hs2 : Kept σ s2 := hs.modModel.applyPools
    split; · exact hs2.complete
    split; · exact hs2.complete
    split; · exact hs2.complete
    exact hs2.addAct
  · split; · exact hs.failLoad
    exact hs.same.applyPools.complete

protected theorem Kept.finishLoad {x lr swapt} (hs : Kept σ s) : Kept σ (finishLoad s x lr swapt) := by
  unfold finishLoad
  extract_lets
  split; · exact hs.failLoad
  split
  · split; · exact hs.failLoad
    split; · exact hs.failLoad
    split; · exact hs.failLoad
    split
    · rename_i e1
      exact hs.cmdReady.ofWait _ e1
    · exact hs.undoLoad.cmdFault
    · split; · exact hs.failLoad
      rename_i e2
      exact (Kept.foldl (Kept.foldl (Kept.foldl (hs.makeJobs.of _ e2).fst (fun _ _ ht' =>
        ht'.setLeaf)).makeWindows (fun _ _ ht' => ht'.hubWrite)).dropLoad (fun _ _ ht' =>
          ht'.hintSec)).placement.installVer
  · split; · exact hs.failLoad
    split; · exact hs.failLoad
    split; · exact hs.failLoad
    split
    · rename_i e3
      exact hs.cmdReady.ofWait _ e3
    · exact hs.undoLoad.cmdFault
    · split; · exact hs.failLoad
      rename_i e4
      exact (Kept.foldl (Kept.foldl (Kept.foldl (hs.makeJobs.of _ e4).fst (fun _ _ ht' =>
        ht'.setLeaf)).makeWindows (fun _ _ ht' => ht'.hubWrite)).dropLoad (fun _ _ ht' =>
          ht'.hintSec)).placement.installVer

protected theorem Kept.goLoad {x lr swapt} (hs : Kept σ s) : Kept σ (goLoad s x lr swapt) := by
  unfold goLoad
  extract_lets
  split; · exact hs.undoLoad.complete
  split; · exact hs
  split; · exact hs.failLoad
  exact (Kept.foldl hs (fun _ _ ht' => ht'.modLeaf)).finishLoad

protected theorem Kept.loadPerms {x base pl} (hs : Kept σ s) : Kept σ (loadPerms s x base pl) :=
  Kept.dropTlbs (Kept.foldl hs.same (fun _ _ ht' => ht'.modLeaf))

protected theorem Kept.beginLoad {x base swapt pl} (hs : Kept σ s) : Kept σ (beginLoad s x base swapt pl) := by
  unfold beginLoad
  extract_lets _ s1
  have hs1 : Kept σ s1 := hs.loadPerms
  split; · exact hs
  split; · exact hs1.failLoad
  rename_i e
  exact (hs1.pinPages.ofOk _ e).goLoad

protected theorem Kept.execModelLoad {r} (hs : Kept σ s) : KR σ (execModelLoad r s) := by
  unfold execModelLoad
  refine hs.runCmd fun _ _ _ ht => ?_
  extract_lets
  split; · exact ht
  split; · exact ht.goLoad
  split; · exact ht.complete
  split; · exact ht
  split; · exact ht.complete
  split; · exact ht.complete
  refine Kept.flowEnd ?_
  refine ht.loadPlan.bind fun _ ha => ?_
  split
  extract_lets
  split; · exact KE.ok ha.fst.complete
  exact KE.ok ha.fst.beginLoad

protected theorem Kept.execModelUnload {r} (hs : Kept σ s) : KR σ (execModelUnload r s) := by
  unfold execModelUnload
  refine hs.runCmd fun _ _ _ ht => ?_
  extract_lets
  split; · exact ht.complete
  split; · exact ht.complete
  split; · exact ht.modModel.settleModel.complete
  split; · exact ht.complete
  split; · exact ht.complete
  exact ht.modModel.settleModel.complete

protected theorem Kept.execModelSwap {r} (hs : Kept σ s) : KR σ (execModelSwap r s) := by
  unfold execModelSwap
  refine hs.runCmd fun _ _ _ ht => ?_
  split; · exact ht
  split; · exact ht.complete
  split; · exact ht.complete
  exact ht.schedCmd

protected theorem Kept.swapModel {h n cmd} (hs : Kept σ s) : Kept σ (swapModel s h n cmd) := by
  unfold swapModel
  extract_lets done _ s1
  have hs1 : Kept σ s1 := hs.modModel.touchVer
  split
  · unfold done
    split; · exact hs.complete
    exact hs
  · split
    · unfold done
      split; · exact hs.complete
      exact hs
    · split
      · unfold done
        split; · exact hs.complete
        exact hs
      · unfold done
        split; · exact hs1.settleModel.complete
        exact hs1.settleModel

/-! ### Sample -/

protected theorem Kept.execVuSample {c slot} (hs : Kept σ s) : KR σ (execVuSample c slot s) := KR.next hs.vuIssue

/-! ### SeqAdmit -/

protected theorem Kept.pickUnit {p} (hs : Kept σ s) : KO (KP σ) (pickUnit s p) :=
  KO.map KO.triv fun _ _ => KP.intro hs.same

protected theorem Kept.unitDone {e q} (hs : Kept σ s) : Kept σ (unitDone s e q) := by
  unfold unitDone
  extract_lets s1
  have hs1 : Kept σ s1 := hs.countEv.freeEngine
  split; · exact hs1.modSeq
  exact hs1

protected theorem Kept.rdUnit {t va n} (hs : Kept σ s) : KE (KUnitStop σ) (KP σ) (rdUnit s t va n) := by
  unfold rdUnit
  split; · exact KE.ok (KP.intro hs)
  split
  · rename_i e1
    exact KE.ok (KP.intro (hs.engRead.ofOk _ _ e1))
  · rename_i e2
    exact KE.error (KUnitStop.wait (hs.engRead.ofWait _ e2))
  · rename_i e3
    exact KE.error (KUnitStop.fault (hs.engRead.ofFault _ _ _ _ e3))

protected theorem Kept.rdGaz {e t h v} (hs : Kept σ s) : KE (KUnitStop σ) (KP σ) (rdGaz s e t h v) := by
  unfold rdGaz
  split; · exact KE.ok (KP.intro hs)
  extract_lets
  split
  · rename_i e'
    exact KE.error (KUnitStop.wait (hs.engReady.ofWait _ e'))
  · extract_lets s1
    have hs1 : Kept σ s1 := by
      unfold s1
      split; · exact hs.dropGaz
      exact hs
    exact KE.error (KUnitStop.fault hs1.engForget.countQuota)
  · exact KE.ok (KP.intro (Kept.foldl hs.engForget.touchPages (fun _ _ ht' => ht'.countEv)).modServing)

protected theorem Kept.rdCons {t tcb} (hs : Kept σ s) : KE (KUnitStop σ) (KP σ) (rdCons s t tcb) :=
  hs.rdUnit.bind fun ⟨_, _⟩ ha => KE.ok (KP.intro ha.fst)

protected theorem Kept.rdTpl {t ent} (hs : Kept σ s) : KE (KUnitStop σ) (KP σ) (rdTpl s t ent) :=
  hs.rdUnit.bind fun ⟨_, _⟩ ha => KE.ok (KP.intro ha.fst)

protected theorem Kept.putSeq {i x} (hs : Kept σ s) : Kept σ (putSeq s i x) := hs.modServing

protected theorem Kept.askInput {x} (hs : Kept σ s) : Kept σ (askInput s x) := by
  unfold askInput
  split; · exact hs
  exact hs.addReadP

protected theorem Kept.refuseSub {r e} (hs : Kept σ s) : Kept σ (refuseSub s r e) := by
  unfold refuseSub
  split; · exact hs.badBlock
  exact hs.complete

protected theorem Kept.enterSeq {x b a inp k} (hs : Kept σ s) : Kept σ (enterSeq s x b a inp k) := by
  unfold enterSeq
  extract_lets _ s1
  have hs1 : Kept σ s1 := by
    unfold s1
    refine Kept.foldl hs fun _ _ ht' => ?_
    split; · exact ht'.touchVer
    exact ht'
  split; · exact hs.complete
  split; · exact hs.complete
  exact hs1.modInfl.putSeq.addUnit

protected theorem Kept.execSeqSubmit {r} (hs : Kept σ s) : KR σ (execSeqSubmit r s) := by
  unfold execSeqSubmit
  refine hs.runBlock fun _ _ _ ht => ?_
  extract_lets _ ap
  have hap : KE (Kept σ) (KP σ) ap := by
    unfold ap
    split; · exact ht.rdCmd
    exact KE.ok (KP.intro ht)
  split; · exact ht
  clear_value ap
  split; · exact hap.ofErr _ rfl
  split; · exact (hap.ofOk _ rfl).fst.refuseSub
  extract_lets
  split; · exact (hap.ofOk _ rfl).fst.badBlock
  split; · exact (hap.ofOk _ rfl).fst.askInput
  exact (hap.ofOk _ rfl).fst.enterSeq

protected theorem Kept.promptKnown {i toks} (hs : Kept σ s) : Kept σ (promptKnown s i toks) := by
  unfold promptKnown
  split; · exact hs
  extract_lets
  split; · exact hs.modSeq.endSeq
  split; · exact hs.countEv.endSeq
  exact hs.modSeq.enterQueued

protected theorem Kept.tplsOk {t ntok a} (hs : Kept σ s) : KE (KUnitStop σ) (KP σ) (tplsOk t ntok a s) := by
  induction a generalizing s with
  | nil => exact KE.ok (KP.intro hs)
  | cons _ _ ih =>
    unfold tplsOk
    split; · exact KE.ok (KP.intro hs)
    refine hs.rdTpl.bind fun _ ha' => ?_
    split
    split; · exact ih ha'.fst
    exact KE.ok (KP.intro ha'.fst)

protected theorem Kept.admission {e x v} (hs : Kept σ s) : KE (KUnitStop σ) (KP σ) (admission s e x v) := by
  unfold admission
  extract_lets
  refine hs.rdGaz.bind fun _ ha => ?_
  split
  extract_lets _ rest
  have hrest : ∀ (x : Machine.State × Bytes), KP σ x → KE (KUnitStop σ) (KP σ) (rest x) := by
    intro _ hx
    unfold rest
    split
    split; · exact KE.ok (KP.intro hx.fst)
    refine hx.fst.rdUnit.bind fun _ ha' => ?_
    split
    extract_lets
    split; · exact KE.ok (KP.intro ha'.fst)
    refine ha'.fst.rdCons.bind fun _ ha1 => ?_
    split
    split; · exact KE.ok (KP.intro ha1.fst)
    refine ha1.fst.rdUnit.bind fun _ ha2 => ?_
    split
    refine ha2.fst.tplsOk.bind fun _ ha3 => ?_
    split
    rename_i ok
    split; · exact KE.ok (KP.intro ha3.fst)
    split
    · split; · exact KE.ok (KP.intro ha3.fst)
      split <;> exact KE.ok (KP.intro ha3.fst)
    · split; · exact KE.ok (KP.intro ha3.fst)
      split <;> exact KE.ok (KP.intro ha3.fst)
  split; · exact KE.bind (Q := KP σ) (KE.ok (KP.intro ha.fst)) fun _ ha' => hrest _ ha'
  exact ha.fst.rdUnit.bind fun _ ha' => hrest _ ha'

protected theorem Kept.dropAdmit {i} (hs : Kept σ s) : Kept σ (dropAdmit s i) := by
  unfold dropAdmit
  split; · exact hs
  exact hs.modServing.settleModels

protected theorem Kept.admitSeq {i x tcb stops} (hs : Kept σ s) : Kept σ (admitSeq s i x tcb stops) := by
  unfold admitSeq
  extract_lets _ _ _ s1 s2
  have hs1 : Kept σ s1 := hs.modSeq.modServing
  have hs2 : Kept σ s2 := by
    unfold s2
    split; · exact hs1.promptKnown
    exact hs1.pendTab.addUnit
  split; · exact hs.countEv.dropAdmit.complete
  exact hs2.complete

protected theorem Kept.execAdmissionUnit (hs : Kept σ s) : KR σ (execAdmissionUnit s) := by
  unfold execAdmissionUnit
  split
  · rename_i s0 _ _ _ e
    have hs0 : Kept σ s0 := (hs.pickUnit.of _ e).fst
    refine KR.next ?_
    refine Kept.flushAreas ?_
    split; · exact hs0.freeEngine
    split; · exact hs0.freeEngine
    extract_lets
    split
    · rename_i e1
      exact (hs0.admission.ofErr _ e1).ofWait _ rfl
    · rename_i e2
      exact ((hs0.admission.ofErr _ e2).ofFault _ _ _ _ _ rfl).unitDone.dropAdmit.completeFault
    · rename_i e3
      exact (hs0.admission.ofOk _ e3).fst.unitDone.dropAdmit.badBlock
    · rename_i e4
      exact (hs0.admission.ofOk _ e4).fst.unitDone.admitSeq
  · exact KR.next hs

protected theorem Kept.cancelNow {i} (hs : Kept σ s) : Kept σ (cancelNow s i) := by
  unfold cancelNow
  split; · exact hs
  split; · exact hs.modSeq.flushSeq
  exact hs.endSeq

protected theorem Kept.forwardCancel {x now} (hs : Kept σ s) : Kept σ (forwardCancel s x now) := by
  unfold forwardCancel
  split; · exact hs.sendSeq
  exact hs

protected theorem Kept.cancelNormal {i y} (hs : Kept σ s) : Kept σ (cancelNormal s i y) := by
  unfold cancelNormal
  split; · exact hs.forwardCancel
  split; · exact hs.modSeq
  exact hs.cancelNow

protected theorem Kept.cancelImmediate {i y} (hs : Kept σ s) : Kept σ (cancelImmediate s i y) := by
  unfold cancelImmediate
  split; · exact hs.forwardCancel
  exact hs.cancelNow

protected theorem Kept.execSeqCancelNormal {r} (hs : Kept σ s) : KR σ (execSeqCancelNormal r s) := by
  unfold execSeqCancelNormal
  refine hs.runCmdIf fun _ _ _ ht => ?_
  split; · exact ht.complete
  exact ht.cancelNormal.complete

protected theorem Kept.execSeqCancelImmediate {r} (hs : Kept σ s) : KR σ (execSeqCancelImmediate r s) := by
  unfold execSeqCancelImmediate
  refine hs.runCmdIf fun _ _ _ ht => ?_
  split; · exact ht.complete
  split; · exact ht.complete
  exact ht.cancelImmediate.complete

protected theorem Kept.execSeqStatus {r} (hs : Kept σ s) : KR σ (execSeqStatus r s) := by
  unfold execSeqStatus
  refine hs.runCmd fun _ _ _ ht => ?_
  extract_lets
  split; · exact ht.modPol.complete
  split <;> exact ht.complete

protected theorem Kept.execSeqPolicy {r} (hs : Kept σ s) : KR σ (execSeqPolicy r s) :=
  hs.runCmd fun _ _ _ ht => ht.modPol.complete

protected theorem Kept.commitServe {h b} (hs : Kept σ s) : Kept σ (commitServe s h b) := hs.modModel

protected theorem Kept.finishServe {x b} (hs : Kept σ s) : Kept σ (finishServe s x b) := by
  unfold finishServe
  split; · exact hs.badBlock
  exact hs.commitServe.endBlock

protected theorem Kept.gazHead {x v} (hs : Kept σ s) : KE (Kept σ) (KP σ) (gazHead s x v) := by
  unfold gazHead
  split; · exact hs.rdCmd
  exact KE.ok (KP.intro hs)

protected theorem Kept.draftChecks {x v b} (hs : Kept σ s) : KE (Kept σ) (Kept σ) (draftChecks s x v b) := by
  unfold draftChecks
  split; · exact KE.ok hs
  split; · exact KE.error hs.complete
  split; · exact KE.error hs.complete
  refine KE.guard (KE.error hs.badBlock) fun _ => ?_
  refine hs.gazHead.bind fun _ ha => ?_
  split
  refine ha.fst.gazHead.bind fun _ ha' => ?_
  split
  split; · exact KE.error ha'.fst.badBlock
  exact KE.ok ha'.fst

protected theorem Kept.execSeqServe {r} (hs : Kept σ s) : KR σ (execSeqServe r s) := by
  unfold execSeqServe
  refine hs.runBlock fun _ _ _ ht => ?_
  split; · exact ht.blockDone
  split; · exact ht
  extract_lets
  split; · exact ht.refuseSub
  split; · exact ht.complete
  split
  · rename_i e1
    exact ht.draftChecks.ofErr _ e1
  · rename_i s2' e2
    have hs2' : Kept σ s2' := ht.draftChecks.ofOk _ e2
    split; · exact hs2'.badBlock
    split; · exact hs2'.whenBlock fun _ ht' => ht'.finishServe
    exact hs2'.schedCmd

end Sys2Proof.Safety
end

section
/-! `Kept` for the operations on power, steps, tables and text. -/

namespace Sys2Proof.Safety

open Sys2Proof.Machine Sys2Proof.Laws

/- The proofs run in turn: side by side, the threads that wait for each other's case splits exhaust the memory. -/
set_option Elab.async false

variable {σ s : State}

/-! ### PowerOps -/

protected theorem Kept.modPower {f} (hs : Kept σ s) : Kept σ (modPower s f) := hs.same
protected theorem Kept.mgmtEvent {code a0 a1} (hs : Kept σ s) : Kept σ (mgmtEvent s code a0 a1) := hs.postEvent

protected theorem Kept.clampNote {before} (hs : Kept σ s) :
    Kept σ (clampNote before s) := by
  unfold clampNote
  extract_lets s1
  have hs1 : Kept σ s1 := by
    unfold s1
    split; · exact hs
    exact hs.mgmtEvent
  split; · exact hs1
  exact hs1.mgmtEvent

protected theorem Kept.addPub {t bytes} (hs : Kept σ s) : Kept σ (addPub s t bytes) := by
  unfold addPub
  split; · exact hs.modPower
  exact hs

protected theorem Kept.publishStep {t pstart pend rate} (hs : Kept σ s) : Kept σ (publishStep s t pstart pend rate) :=
  hs.addPub

protected theorem Kept.publishDrop (hs : Kept σ s) : Kept σ (publishDrop s) := hs.publishStep.freeTick

protected theorem Kept.publishCap {before} (hs : Kept σ s) :
    Kept σ (publishCap before s) := by
  unfold publishCap
  extract_lets
  split; · exact hs
  exact hs.publishStep

protected theorem Kept.planEnd {m} (hs : Kept σ s) : Kept σ (planEnd s m) := by
  unfold planEnd
  refine Kept.foldl hs fun _ _ ht => ?_
  extract_lets _ st1
  have hst1 : Kept σ st1 := ht.modPower
  split; · exact hst1.mgmtEvent
  exact hst1

protected theorem Kept.setStageRate {k} (hs : Kept σ s) : Kept σ (setStageRate s k) :=
  Kept.foldl hs.same fun _ _ ht => ht.takeRate

/-! ### StepOps -/

protected theorem Kept.modSteps {q f} (hs : Kept σ s) : Kept σ (modSteps s q f) := hs.modSv

protected theorem Kept.endPoisoned {q} (hs : Kept σ s) : Kept σ (endPoisoned s q) := by
  unfold endPoisoned
  extract_lets _ _ s1 s2
  have hs1 : Kept σ s1 := Kept.foldl hs fun _ _ ht => ht.unpublish
  have hs2 : Kept σ s2 := by
    unfold s2
    split; · exact Kept.foldl hs1 fun _ _ ht => ht.unpublish
    exact hs1
  split; · exact hs
  exact hs2.endSeq

protected theorem Kept.endAllPoisoned {xs} (hs : Kept σ s) : Kept σ (endAllPoisoned s xs) :=
  Kept.foldl hs fun _ _ ht => ht.endPoisoned

protected theorem Kept.stepFault {q k es reqs kind acc cause page} (hs : Kept σ s) :
    Kept σ (stepFault s q k es reqs kind acc cause page) := by
  unfold stepFault
  split; · exact hs.modSv
  refine Kept.foldl hs fun _ _ ht => ?_
  split; · exact ht.seqFault
  exact ht

protected theorem Kept.stepJob {t q v k flt} (hs : Kept σ s)
    (hflt : ∀ t a1 a2 a3 a4, Kept σ t → Kept σ (flt t a1 a2 a3 a4)) :
    KE (Kept σ) (KP σ) (stepJob s t q v k flt) := by
  unfold stepJob
  extract_lets
  split
  · split; · exact KE.error hs
    exact KE.ok (KP.intro hs)
  · split
    · rename_i e1
      exact KE.error (hs.seqRead.ofWait _ e1)
    · rename_i e2
      exact KE.error (hflt _ _ _ _ _ (hs.seqRead.ofFault _ _ _ _ e2))
    · rename_i s3' _ e3
      have hs3' : Kept σ s3' := hs.seqRead.ofOk _ _ e3
      split; · exact KE.error hs3'
      rename_i e4
      exact KE.ok (KP.intro (hs3'.makeJob.of _ e4).fst.modVer.applyPools.placement)

protected theorem Kept.seqWrites {t flt ws} (hs : Kept σ s)
    (hflt : ∀ t a1 a2 a3 a4, Kept σ t → Kept σ (flt t a1 a2 a3 a4)) :
    KE (Kept σ) (Kept σ) (seqWrites s t flt ws) := by
  unfold seqWrites
  extract_lets
  split
  · rename_i e
    exact KE.error (hs.engReady.ofWait _ e)
  · exact KE.error (hflt _ _ _ _ _ hs.countQuota)
  · exact KE.ok (Kept.touchPages (Kept.foldl hs (fun _ _ ht' => ht'.hubWrite)))

protected theorem Kept.dealStep {t q k num beat es tabs reqs extra} (hs : Kept σ s) :
    KE (Kept σ) (Kept σ) (dealStep s t q k num beat es tabs reqs extra) := by
  unfold dealStep
  split; · exact KE.error hs
  extract_lets
  refine (hs.stepJob (fun _ _ _ _ _ ht' => ht'.stepFault)).bind (fun _ ha => ?_)
  split
  split
  · rename_i e1
    exact KE.error (ha.fst.engReadAs.ofWait _ e1)
  · rename_i e2
    exact KE.error (ha.fst.engReadAs.ofFault _ _ _ _ e2).stepFault
  · rename_i s3' _ e3
    have hs3' : Kept σ s3' := ha.fst.engReadAs.ofOk _ _ e3
    extract_lets _ rest
    have hrest : ∀ (x : Unit), KE (Kept σ) (Kept σ) (rest x) := by
      intro _
      unfold rest
      refine (hs3'.seqWrites (fun _ _ _ _ _ ht' => ht'.stepFault)).bind (fun _ ha' => ?_)
      split; · exact KE.error ha'
      exact KE.ok ha'.countEv.modSteps.handPlots
    exact KE.guard (KE.error hs3') fun _ => hrest ()

protected theorem Kept.seqCons {x} (hs : Kept σ s) : KE (KUnitStop σ) (KP σ) (seqCons s x) := by
  unfold seqCons
  split; · exact hs.rdUnit.bind fun _ hg => hg.fst.rdCons.bind (fun ⟨_, _⟩ ha => KE.ok (KP.intro ha.fst))
  exact KE.bind (Q := KP σ) (KE.ok (KP.intro hs)) fun _ hg => hg.fst.rdCons.bind (fun ⟨_, _⟩ ha =>
    KE.ok (KP.intro ha.fst))

protected theorem Kept.withCons {i x k} (hs : Kept σ s) : KPlan σ (withCons s i x k) := by
  unfold withCons
  split
  · rename_i e
    exact KPlan.ent (hs.seqCons.ofOk _ e).fst
  · rename_i e'
    exact KPlan.wait ((hs.seqCons.ofErr _ e').ofWait _ rfl)
  · rename_i e''
    exact KPlan.skip ((hs.seqCons.ofErr _ e'').ofFault _ _ _ _ _ rfl).seqFault

/-! ### Steps -/

protected theorem Kept.pickAdd {v k p i plan} (hplan : KPlan σ plan) :
    Kept σ (pickAdd v k p i plan).st := by
  unfold pickAdd
  split
  · exact hplan.ofWait _ rfl
  · exact hplan.ofSkip _ rfl
  · split <;> exact hplan.ofEnt _ _ rfl

protected theorem Kept.pickTab {v draft p i} (hp : Kept σ p.st) : Kept σ (pickTab v draft p i).st := by
  unfold pickTab
  split; · exact hp
  exact hp.kvWillneed

protected theorem Kept.takeStepNum {q k} (hs : Kept σ s) : Kept σ (takeStepNum s q k) := hs.modSv

protected theorem Kept.dealPick {p t q k mark} (hp : Kept σ p.st) : Kept σ (dealPick p t q k mark) := by
  unfold dealPick
  split; · exact hp
  split
  · rename_i e1
    exact hp.dealStep.ofErr _ e1
  · rename_i e2
    exact Kept.foldl (hp.dealStep.ofOk _ e2).takeStepNum fun _ _ ht' => ht'.modSeq

protected theorem Kept.prefillPlan {v i x n} (hs : Kept σ s) : KPlan σ (prefillPlan s v i x n) := by
  unfold prefillPlan
  extract_lets
  split; · exact KPlan.ent hs
  exact hs.withCons

protected theorem Kept.prefillPick {q v a a2} (ha2 : Kept σ a2.st) : Kept σ (prefillPick q v a a2).st := by
  induction a generalizing a2 with
  | nil => exact ha2
  | cons _ _ ih =>
    unfold prefillPick
    split; · exact ih ha2
    extract_lets
    split; · exact ha2
    split; · exact ih ha2
    split; · exact ih ha2
    rename_i e
    extract_lets p1
    have hp1 : Kept σ p1.st := Kept.pickAdd (ha2.allocKv.of _ e).prefillPlan
    refine ih ?_
    split; · exact hp1
    exact hp1.pickTab

protected theorem Kept.prefillForm {h n} (hs : Kept σ s) : Kept σ (prefillForm h n s) := by
  unfold prefillForm
  split; · exact hs
  exact hs.endAllPoisoned.prefillPick.dealPick

protected theorem Kept.execPrefillStepForm {h n} (hs : Kept σ s) : KR σ (execPrefillStepForm h n s) :=
  KR.next hs.prefillForm.flushAreas

protected theorem Kept.encodePick {v a a2} (ha2 : Kept σ a2.st) : Kept σ (encodePick v a a2).st := by
  induction a generalizing a2 with
  | nil => exact ha2
  | cons _ _ ih =>
    unfold encodePick
    extract_lets
    split; · exact ha2
    exact ih (Kept.pickAdd (KPlan.ent ha2))

protected theorem Kept.execEncodeStepForm {h n} (hs : Kept σ s) : KR σ (execEncodeStepForm h n s) := by
  unfold execEncodeStepForm
  split; · exact KR.next hs
  exact KR.next hs.encodePick.dealPick

protected theorem Kept.passageDir {a id t} (hs : Kept σ s) : KE (KUnitStop σ) (KP σ) (passageDir a id s t) :=
  hs.rdUnit.bind fun ⟨_, _⟩ ha' => KE.ok (KP.intro ha'.fst)

protected theorem Kept.passage {a id t} (hs : Kept σ s) : KE (KUnitStop σ) (KP σ) (passage a id s t) := by
  unfold passage
  refine hs.passageDir.bind fun _ ha' => ?_
  split
  split; · exact KE.ok (KP.intro ha'.fst)
  exact ha'.fst.rdUnit.bind fun ⟨_, _⟩ ha => KE.ok (KP.intro ha.fst)

protected theorem Kept.withEntry {a t a2} (hs : Kept σ s) : KE (KUnitStop σ) (KP σ) (withEntry a t a2 s) := by
  induction a2 generalizing s with
  | nil => exact KE.ok (KP.intro hs)
  | cons _ _ ih => exact hs.passageDir.bind fun ⟨_, _, _⟩ ha' => (ih ha'.fst).bind (fun ⟨_, _⟩ ha =>
    KE.ok (KP.intro ha.fst))

protected theorem Kept.rerankEnts {v x id a a2} (hs : Kept σ s) :
    KE (KUnitStop σ) (KP σ) (rerankEnts v x id a s a2) := by
  induction a generalizing s a2 with
  | nil => exact KE.ok (KP.intro hs)
  | cons _ _ ih =>
    unfold rerankEnts
    refine hs.passage.bind fun _ ha' => ?_
    split
    extract_lets
    split; · exact KE.ok (KP.intro ha'.fst)
    exact ih ha'.fst

protected theorem Kept.rerankOne {i x v} (hs : Kept σ s) : KE (KUnitStop σ) (KP σ) (rerankOne s i x v) := by
  unfold rerankOne
  split; · exact hs.withEntry.bind fun ⟨_, _⟩ hx' => hx'.fst.modSeq.rerankEnts
  exact KE.bind (Q := KP σ) (KE.ok (KP.intro hs)) fun ⟨_, _⟩ hx' => hx'.fst.modSeq.rerankEnts

protected theorem Kept.toPack {i ps} (hs : Kept σ s) : Kept σ (toPack s i ps) := by
  unfold toPack
  split; · exact hs
  exact hs.modSeq.addUnit

protected theorem Kept.execRerankStepForm {h n} (hs : Kept σ s) : KR σ (execRerankStepForm h n s) := by
  unfold execRerankStepForm
  split; · exact KR.next hs
  split; · exact KR.next hs
  split
  · rename_i e1
    exact KR.next ((hs.rerankOne.ofErr _ e1).ofWait _ rfl)
  · rename_i e2
    exact KR.next ((hs.rerankOne.ofErr _ e2).ofFault _ _ _ _ _ rfl).seqFault
  · rename_i e3
    exact KR.next (hs.rerankOne.ofOk _ e3).fst.toPack
  · rename_i e4
    exact KR.next (hs.rerankOne.ofOk _ e4).fst.dealPick

protected theorem Kept.decodePick {q v a a2} (hs : Kept σ s) : KP σ (decodePick q v a s a2) := by
  induction a generalizing s a2 with
  | nil => exact KP.intro hs
  | cons _ _ ih =>
    unfold decodePick
    split; · exact KP.intro hs
    split; · exact ih hs
    split; · exact ih hs
    extract_lets
    split; · exact ih hs
    rename_i e
    exact ih (hs.allocKv.of _ e).kvWillneed

protected theorem Kept.decodePlan {v i x ds} (hs : Kept σ s) : KPlan σ (decodePlan s v i x ds) := hs.withCons

protected theorem Kept.planDecode {v k a a2} (ha2 : Kept σ a2.st) : Kept σ (planDecode v k a a2).st := by
  induction a generalizing a2 with
  | nil => exact ha2
  | cons _ _ ih =>
    unfold planDecode
    split; · exact ih ha2
    split; · exact ha2
    extract_lets p1
    have hp1 : Kept σ p1.st := Kept.pickAdd ha2.decodePlan
    refine ih ?_
    split; · exact hp1
    exact hp1.pickTab

protected theorem Kept.planVerify {q num beat got} (hs : Kept σ s) : Kept σ (planVerify s q num beat got) := by
  unfold planVerify
  extract_lets
  refine Kept.foldl hs.modSteps fun _ _ ht => ?_
  extract_lets
  split; · exact ht.modSeq
  exact ht.modSeq.addUnit

protected theorem Kept.formDecode {m q v num beat} (hs : Kept σ s) : Kept σ (formDecode s m q v num beat) := by
  unfold formDecode
  extract_lets next s1
  have hnext : ∀ t, Kept σ t → Kept σ (next t) := fun t ht => ht.modSv.ite ht
  have hs1 : Kept σ s1 := hs.endAllPoisoned
  have hpick := hs1.decodePick (q := q) (v := v) (a := selectSeqs s1 (decodable s1 q)) (a2 := [])
  split
  rename_i s2 got e
  have hs2 : Kept σ s2 := KP.get e hpick
  split; · exact hnext _ hs2
  extract_lets mark p
  have hmark : ∀ t, Kept σ t → Kept σ (mark t) := fun t ht => Kept.modSv ((hnext _ ht).ite ht.takeStepNum)
  have hp : Kept σ p.st := hs2.planDecode
  split; · exact hmark _ hs2.planVerify
  split; · exact hp
  split; · exact hnext _ hp
  split
  · exact hp.dealStep.ofErr _ ‹_›
  · rename_i e'
    exact hmark _ (Kept.foldl (hp.dealStep.ofOk _ e') fun _ _ ht => ht.modSeq)

protected theorem Kept.decodeBeat {h n} (hs : Kept σ s) : Kept σ (decodeBeat h n s) := by
  unfold decodeBeat
  split
  · split; · exact hs
    extract_lets _ _ _ _ s1
    have hs1 : Kept σ s1 := hs.advanceMer
    split
    · split; · exact hs
      exact hs.formDecode
    · split; · exact hs1.countEv.modSv
      exact hs1.formDecode
  · exact hs

protected theorem Kept.execDecodeBeat {h n} (hs : Kept σ s) : KR σ (execDecodeBeat h n s) :=
  KR.next hs.decodeBeat.flushAreas

protected theorem Kept.draftPlan {v i x n} (hs : Kept σ s) : KPlan σ (draftPlan s v i x n) := by
  unfold draftPlan
  extract_lets
  split; · exact KPlan.ent hs
  exact hs.withCons

protected theorem Kept.draftPick {q v a a2} (ha2 : Kept σ a2.st) : Kept σ (draftPick q v a a2).st := by
  induction a generalizing a2 with
  | nil => exact ha2
  | cons _ _ ih =>
    unfold draftPick
    split; · exact ih ha2
    extract_lets
    split; · exact ha2
    split; · exact ih ha2.modSeq
    rename_i e
    extract_lets p1
    have hp1 : Kept σ p1.st := Kept.pickAdd (ha2.allocKv.of _ e).draftPlan
    refine ih ?_
    split; · exact hp1
    exact hp1.pickTab

protected theorem Kept.draftForm {h n} (hs : Kept σ s) : Kept σ (draftForm h n s) := by
  unfold draftForm
  split; · exact hs
  exact hs.endAllPoisoned.draftPick.dealPick

protected theorem Kept.execDraftStepForm {h n} (hs : Kept σ s) : KR σ (execDraftStepForm h n s) :=
  KR.next hs.draftForm.flushAreas

protected theorem Kept.dropWaiting {q} (hs : Kept σ s) : Kept σ (dropWaiting s q) := hs.modSteps

protected theorem Kept.verifyForm {h n} (hs : Kept σ s) : Kept σ (verifyForm h n s) := by
  unfold verifyForm
  split; · exact hs
  split; · exact hs
  extract_lets _ s0 _ s1 p
  have hs0 : Kept σ s0 := hs.endAllPoisoned
  have hs1 : Kept σ s1 := hs0.dropWaiting
  have hp : Kept σ p.st := hs1.planDecode
  split; · exact hs0
  split; · exact hs1
  split; · exact hp.modSteps
  split; · exact hp
  split
  · rename_i e1
    exact (hp.dealStep.ofErr _ e1).modSteps
  · rename_i e2
    exact Kept.foldl (hp.dealStep.ofOk _ e2) fun _ _ ht => ht.modSeq

protected theorem Kept.execVerifyStepForm {h n} (hs : Kept σ s) : KR σ (execVerifyStepForm h n s) :=
  KR.next hs.verifyForm.flushAreas

/-! ### StepEnd -/

protected theorem Kept.sendGroup {t q v dst l e rs} (hs : Kept σ s) : Kept σ (sendGroup s t q v dst l e rs) := by
  unfold sendGroup
  split; · exact hs.modSv
  exact Kept.foldl hs fun _ _ ht' => ht'.sendSeq

protected theorem Kept.sendReqs {t q v rs} (hs : Kept σ s) : Kept σ (sendReqs s t q v rs) :=
  Kept.foldl hs fun _ _ ht' => ht'.sendGroup

protected theorem Kept.missExpert {t q m v r} (hs : Kept σ s) : KE (Kept σ) (Kept σ) (missExpert s t q m v r) := by
  unfold missExpert
  extract_lets _ flt
  refine KE.bind (Q := Kept σ) ?_ fun _ ha => ?_
  · refine hs.seqWrites fun _ _ _ _ _ ht' => ?_
    unfold flt
    split; · exact ht'.modSv.seqFault
    exact ht'.modSv
  · extract_lets
    split; · exact KE.ok ha.modSv
    exact KE.ok (ha.modSv.endSeq.ite ha.modSv.setFlag)

protected theorem Kept.readDispatch {t v d} (hs : Kept σ s) : KE (KUnitStop σ) (KP σ) (readDispatch s t v d) :=
  hs.rdUnit.bind fun ⟨_, _⟩ ha => ha.fst.rdUnit.bind (fun ⟨_, _⟩ ha' => KE.ok (KP.intro ha'.fst))

protected theorem Kept.readDispatches {t v a} (hs : Kept σ s) : KE (Kept σ) (KP σ) (readDispatches t v a s) := by
  induction a generalizing s with
  | nil => exact KE.ok (KP.intro hs)
  | cons _ _ ih =>
    unfold readDispatches
    split
    · rename_i e
      exact KE.error ((hs.readDispatch.ofErr _ e).ofWait _ rfl)
    · rename_i s1' _ _ _ _ e'
      have hs1' : Kept σ s1' := (hs.readDispatch.ofErr _ e').ofFault _ _ _ _ _ rfl
      refine ih ?_
      split; · exact hs1'.seqFault
      exact hs1'
    · rename_i e''
      exact (ih (hs.readDispatch.ofOk _ e'').fst).map fun _ ha => KP.intro ha.fst

protected theorem Kept.dispatchAll {q m v kind ds} (hs : Kept σ s) : Kept σ (dispatchAll s q m v kind ds) := by
  unfold dispatchAll
  split
  · rename_i e
    exact hs.readDispatches.ofErr _ e
  · rename_i e'
    extract_lets _ lost
    have hlost : KE (Kept σ) (Kept σ) lost := KE.foldl (KE.ok (hs.readDispatches.ofOk _ e').fst) fun _ _ hq' =>
      hq'.bind (fun _ ha => ha.missExpert)
    clear_value lost
    split; · exact hlost.ofErr _ rfl
    exact (hlost.ofOk _ rfl).modSv.sendReqs

protected theorem Kept.takeResults {t q v rs} (hs : Kept σ s) : KE (Kept σ) (Kept σ) (takeResults s t q v rs) := by
  unfold takeResults
  extract_lets _ _ flt
  refine KE.bind (Q := Kept σ) ?_ fun _ ha => KE.ok ha.modSv
  refine hs.seqWrites fun _ _ _ _ _ ht' => ?_
  unfold flt
  refine Kept.foldl ht'.modSv fun _ _ ht => ?_
  split; · exact ht.seqFault
  exact ht

protected theorem Kept.execDispatchDeadline {h n num} (hs : Kept σ s) : KR σ (execDispatchDeadline h n num s) := by
  unfold execDispatchDeadline
  split
  · split; · exact KR.next hs
    extract_lets s1 miss
    have hs1 : Kept σ s1 := hs.advanceTo
    have hmiss : ∀ t, Kept σ t → Kept σ (miss t) := by
      intro t ht
      unfold miss
      split
      · exact ht.missExpert.ofOk _ ‹_›
      · exact ht.missExpert.ofErr _ ‹_›
    split; · exact KR.next (hmiss _ hs1)
    split
    · rename_i e
      exact KR.next ((hs1.rdUnit.ofErr _ e).ofWait _ rfl)
    · rename_i e
      have hf := (hs1.rdUnit.ofErr _ e).ofFault _ _ _ _ _ rfl
      refine KR.next (hmiss _ ?_)
      split
      · exact hf.seqFault
      · exact hf
    · rename_i s2 _ e
      have hs2 : Kept σ s2 := (hs1.rdUnit.ofOk _ e).fst
      split
      · exact KR.next (hmiss _ hs2)
      · exact KR.next hs2.countEv.modSv.sendReqs
  · exact KR.next hs

protected theorem Kept.execExpertStepStart {h n} (hs : Kept σ s) : KR σ (execExpertStepStart h n s) := by
  unfold execExpertStepStart
  split; · exact KR.next hs
  split; · exact KR.next hs
  extract_lets _ s1 _ rest
  have hs1 : Kept σ s1 := by
    unfold s1
    split; · exact hs
    exact hs.advanceTo
  have hrest : ∀ (st : Machine.State) (us : List ExpReq), Kept σ st → Kept σ (rest st us) := fun _ _ hst => hst.modSv
  split
  · rename_i e1
    exact KR.next ((hs1.rdUnit.ofErr _ e1).ofWait _ rfl)
  · rename_i e2
    exact KR.next (hrest _ _ ((hs1.rdUnit.ofErr _ e2).ofFault _ _ _ _ _ rfl))
  · rename_i e3
    extract_lets s3
    have hs3 : Kept σ s3 := Kept.foldl (hs1.rdUnit.ofOk _ e3).fst fun _ _ ht => ht.hintWillneed
    split
    · rename_i e4
      exact KR.next (hs3.dealStep.ofErr _ e4)
    · rename_i e5
      exact KR.next (hrest _ _ (hs3.dealStep.ofOk _ e5).takeStepNum)

protected theorem Kept.endExpert {q m v r} (hs : Kept σ s) : KE (Kept σ) (Kept σ) (endExpert s q m v r) := by
  unfold endExpert
  extract_lets rd
  refine KE.bind (Q := KP σ) ?_ fun ⟨_, _⟩ ha => ha.fst.takeResults.bind (fun _ ha' =>
    KE.ok (Kept.foldl ha' (fun _ _ ht => Kept.foldl ht (fun _ _ ht' => ht'.sendSeq))))
  refine KE.foldl (KE.ok (KP.intro hs)) fun _ _ hq' => ?_
  unfold rd
  refine hq'.bind fun _ ha => ?_
  split
  split
  · rename_i e
    exact KE.ok (KP.intro (ha.fst.rdUnit.ofOk _ e).fst)
  · rename_i e'
    exact KE.error ((ha.fst.rdUnit.ofErr _ e').ofWait _ rfl)
  · rename_i e''
    exact KE.ok (KP.intro ((ha.fst.rdUnit.ofErr _ e'').ofFault _ _ _ _ _ rfl))

protected theorem Kept.commitToks {i ts empty} (hs : Kept σ s) : Kept σ (commitToks s i ts empty) := by
  unfold commitToks
  split; · exact hs
  extract_lets _ _ _ s1 s2
  have hs1 : Kept σ s1 := by
    unfold s1
    split; · exact hs.modPol
    exact hs
  have hs2 : Kept σ s2 := hs1.modSeq.publish
  split
  · split; · exact hs2.endSeq
    exact hs2
  · exact hs2.addUnit

protected theorem Kept.endPrefillEnt {q outs e} (hs : Kept σ s) : Kept σ (endPrefillEnt q outs s e) := by
  unfold endPrefillEnt
  split; · exact hs
  split; · exact hs
  split; · exact hs.cancelNow
  extract_lets s1
  have hs1 : Kept σ s1 := hs.modSeq.modSv
  split; · exact hs1.publish
  split <;> exact hs1.commitToks

protected theorem Kept.endDecodeEnt {outs e} (hs : Kept σ s) : Kept σ (endDecodeEnt outs s e) := by
  unfold endDecodeEnt
  split; · exact hs
  split; · exact hs
  split; · exact hs.cancelNow
  exact hs.modSeq.commitToks

protected theorem Kept.endDraftEnt {outs e} (hs : Kept σ s) : Kept σ (endDraftEnt outs s e) := by
  unfold endDraftEnt
  split; · exact hs
  split; · exact hs
  extract_lets _ _ _ _ s2
  have hs2 : Kept σ s2 := hs.modSeq.modSeq
  split; · exact hs.modSeq
  split; · exact hs.modSeq.modSeq
  split; · exact hs2
  exact hs2.addUnit

protected theorem Kept.endEncodeEnt {v outs e} (hs : Kept σ s) : Kept σ (endEncodeEnt v outs s e) := by
  unfold endEncodeEnt
  split; · exact hs
  split; · exact hs
  split; · exact hs.cancelNow
  extract_lets
  split; · exact hs.endSeq
  split; · exact hs.endSeq
  exact hs.modSeq.modIx

protected theorem Kept.endRerank {outs es} (hs : Kept σ s) : Kept σ (endRerank outs s es) := by
  unfold endRerank
  split; · exact hs
  split; · exact hs
  split; · exact hs.cancelNow
  extract_lets
  split; · exact hs.modSeq
  exact hs.modSeq.toPack

protected theorem Kept.dropStep {q r} (hs : Kept σ s) : Kept σ (dropStep s q r) := by
  unfold dropStep
  exact hs.modJob.modSv

protected theorem Kept.dropSent {q k} (hs : Kept σ s) : Kept σ (dropSent s q k) := by
  unfold dropSent
  split; · exact hs
  exact hs.modSv

protected theorem Kept.abortStep {q r} (hs : Kept σ s) : Kept σ (abortStep s q r) :=
  Kept.foldl hs.dropSent.dropStep fun _ _ ht => ht.endSeq

protected theorem Kept.finishStep {q m v r} (hs : Kept σ s) : Kept σ (finishStep s q m v r) := by
  unfold finishStep
  split
  · rename_i e
    exact (hs.rdUnit.ofErr _ e).ofWait _ rfl
  · rename_i e'
    exact Kept.foldl ((hs.rdUnit.ofErr _ e').ofFault _ _ _ _ _ rfl).dropStep fun _ _ ht => ht.seqFault
  · rename_i s2' _ e1
    have hs2' : Kept σ s2' := (hs.rdUnit.ofOk _ e1).fst
    extract_lets s2''
    have hs2'' : Kept σ s2'' := hs2'.dropStep
    split
    · exact Kept.foldl hs2'' fun _ _ ht => ht.endPrefillEnt
    · exact Kept.foldl hs2'' fun _ _ ht => ht.endDecodeEnt
    · exact Kept.foldl hs2'' fun _ _ ht => ht.endDecodeEnt
    · exact Kept.foldl hs2'' fun _ _ ht => ht.endDraftEnt
    · exact Kept.foldl hs2'' fun _ _ ht => ht.endEncodeEnt
    · exact hs2''.endRerank
    · split
      · rename_i e2
        exact (hs2'.endExpert.ofOk _ e2).dropStep
      · rename_i e3
        exact hs2'.endExpert.ofErr _ e3

protected theorem Kept.redealStep {q m v r job} (hs : Kept σ s) : Kept σ (redealStep s q m v r job) := by
  unfold redealStep
  extract_lets
  split
  · rename_i e
    exact hs.engReadAs.ofWait _ e
  · rename_i e'
    exact hs.engReadAs.ofFault _ _ _ _ e'
  · rename_i e''
    exact (hs.engReadAs.ofOk _ _ e'').dropSent.modJob.modSteps.handPlots

protected theorem Kept.stepEnd {h n kind reqs} (hs : Kept σ s) : Kept σ (stepEnd h n kind reqs s) := by
  unfold stepEnd
  split
  · split; · exact hs
    split
    · split; · exact hs.finishStep
      exact hs.abortStep
    · split; · exact hs.abortStep
      split
      · split; · exact hs
        exact hs.dispatchAll
      · split; · exact hs
        split
        · split; · exact hs.abortStep
          exact hs.redealStep
        · split; · exact hs
          exact hs.finishStep
  · exact hs

protected theorem Kept.execStepEnd {h n kind reqs} (hs : Kept σ s) : KR σ (execStepEnd h n kind reqs s) :=
  KR.next hs.stepEnd.flushAreas

/-! ### Tables -/

protected theorem Kept.tabStop {r status done} (hs : Kept σ s) : Kept σ (tabStop s r status done) :=
  hs.forgetCmd.complete

protected theorem Kept.tabFault {x acc kind cause page} (hs : Kept σ s) : Kept σ (tabFault s x acc kind cause page) :=
  hs.forgetCmd.cmdFault

protected theorem Kept.tabBegin {x gather b} (hs : Kept σ s) : Kept σ (tabBegin s x gather b) := by
  unfold tabBegin
  extract_lets
  split; · exact hs.complete
  split; · exact hs.complete
  split; · exact hs.complete
  split; · exact hs.badBlock
  split
  · split; · exact hs.badBlock
    split; · exact hs.complete
    rename_i e1
    exact (hs.makeJob.of _ e1).fst.same.touchVer.placement
  · split; · exact hs.badBlock
    split; · exact hs.complete
    rename_i e2
    exact (hs.makeJob.of _ e2).fst.same.touchVer.placement

protected theorem Kept.tabGo {x b k} (hs : Kept σ s) (hk : ∀ a0, Kept σ (k a0)) : Kept σ (tabGo s x b k) := by
  unfold tabGo
  split; · exact hs.blockDone
  split
  · split; · exact hs.tabStop
    split; · exact hs
    split; · exact hs.tabStop
    split; · exact hs
    split; · exact hk _
    exact hs
  · exact hs

protected theorem Kept.rdTab {x va n} (hs : Kept σ s) : KE (Kept σ) (KP σ) (rdTab s x va n) := by
  unfold rdTab
  split
  · rename_i e
    exact KE.error (hs.cmdRead.ofWait _ e)
  · exact KE.error hs.tabFault
  · rename_i e'
    exact KE.ok (KP.intro (hs.cmdRead.ofOk _ _ e'))

protected theorem Kept.readyTab {x acc rs} (hs : Kept σ s) : KE (Kept σ) KT (readyTab s x acc rs) := by
  unfold readyTab
  split
  · rename_i e
    exact KE.error (hs.cmdReady.ofWait _ e)
  · exact KE.error hs.tabFault
  · exact KE.ok (KT.intro _)

protected theorem Kept.tabEnd {r ninv} (hs : Kept σ s) : Kept σ (tabEnd s r ninv) := hs.forgetCmd.endBlock

protected theorem Kept.writeRows {x a a2} (hs : Kept σ s) : KE (Kept σ) (KP σ) (writeRows x a a2 s) := by
  induction a generalizing a2 s with
  | nil => exact KE.ok (KP.intro hs)
  | cons _ _ ih =>
    unfold writeRows
    extract_lets
    split
    · rename_i e
      exact KE.ok (KP.intro (hs.cmdReady.ofWait _ e))
    · exact KE.error hs.tabFault
    · split; · exact KE.ok (KP.intro hs)
      exact ih hs.partsWrite

protected theorem Kept.gatherGo {x b tb} (hs : Kept σ s) : KE (Kept σ) (Kept σ) (gatherGo s x b tb) := by
  unfold gatherGo
  extract_lets
  refine hs.readyTab.bind fun _ _ => ?_
  refine hs.rdTab.bind fun _ ha' => ?_
  split
  extract_lets _ rest
  have hrest : ∀ (x : Machine.State × List Byte), KP σ x → KE (Kept σ) (Kept σ) (rest x) := by
    intro _ hx
    unfold rest
    split
    split; · exact KE.error hx.fst.forgetCmd.badBlock
    refine hx.fst.readyTab.bind fun _ _ => ?_
    extract_lets
    refine hx.fst.readyTab.bind fun _ _ => ?_
    refine hx.fst.writeRows.bind fun _ ha1 => ?_
    split
    split; · exact KE.ok ha1.fst.modInfl
    exact KE.ok ha1.fst.touchCmd.modInfl
  split; · exact KE.bind (Q := KP σ) (KE.ok (KP.intro ha'.fst)) fun _ ha2 => hrest _ ha2
  exact ha'.fst.rdTab.bind fun _ ha2 => hrest _ ha2

protected theorem Kept.tabSettle {r} (hs : Kept σ s) : Kept σ (tabSettle s r) := by
  unfold tabSettle
  split
  · split; · exact hs
    split; · exact hs.tabFault
    exact hs.tabEnd
  · exact hs

protected theorem Kept.execTableGather {r} (hs : Kept σ s) : KR σ (execTableGather r s) := by
  unfold execTableGather
  refine hs.runBlock fun _ _ _ ht => ?_
  split; · exact ht.tabBegin
  refine ht.tabGo fun _ => ?_
  split; · exact ht.tabSettle
  exact Kept.tabSettle (Kept.flowEnd ht.gatherGo)

protected theorem Kept.scatterEntry {x mode va bs stamp} (hs : Kept σ s) :
    Kept σ (scatterEntry s x mode va bs stamp) := by
  unfold scatterEntry
  extract_lets
  refine Kept.foldl hs fun _ _ ht' => ?_
  split
  · split
    · split; · exact ht'.modInfl
      exact ht'.modeWrite
    · exact ht'
  · extract_lets
    split; · exact ht'
    rename_i e
    exact (ht'.startRemote.of _ e).fst.modInfl

protected theorem Kept.scatterLoop {x mode stamp a a2} (hs : Kept σ s) : KP σ (scatterLoop x mode stamp a a2 s) := by
  induction a generalizing a2 s with
  | nil => exact KP.intro hs
  | cons b es ih =>
    obtain ⟨va | va, bs⟩ := b
    · exact ih hs
    · unfold scatterLoop
      split; · exact KP.intro hs
      split
      · exact KP.intro (hs.cmdReady.ofWait _ ‹_›)
      · exact ih hs.scatterEntry
      · extract_lets s1
        have hs1 : Kept σ s1 := hs.ite hs.modInfl
        exact ih (hs1.scatterEntry.ite hs1)

protected theorem Kept.checkDsts {x seen a} (hs : Kept σ s) : KE (Kept σ) KT (checkDsts s x seen a) := by
  induction a generalizing seen with
  | nil => exact KE.ok (KT.intro _)
  | cons _ _ ih =>
    unfold checkDsts
    split; · exact ih
    split
    · exact ih
    · rename_i e
      exact KE.error (hs.cmdPage.ofWait _ e).modInfl
    · exact KE.error hs.tabFault

protected theorem Kept.scatterGo {x b tb} (hs : Kept σ s) : KE (Kept σ) (Kept σ) (scatterGo s x b tb) := by
  unfold scatterGo
  extract_lets
  refine hs.rdTab.bind fun _ ha => ?_
  split
  extract_lets _ _ _ _ _ _ _ _ _ _ rest
  have hrest : ∀ (x : Unit), KE (Kept σ) (Kept σ) (rest x) := fun _ => KE.ok ha.fst.scatterLoop.fst.touchCmd.modInfl
  refine ha.fst.readyTab.bind fun _ _ => ?_
  refine ha.fst.readyTab.bind fun _ _ => ?_
  split; · exact ha.fst.checkDsts.bind fun _ _ => hrest ()
  exact KE.bind (Q := KT) (KE.ok (KT.intro _)) fun _ _ => hrest ()

protected theorem Kept.execTableScatter {r} (hs : Kept σ s) : KR σ (execTableScatter r s) := by
  unfold execTableScatter
  refine hs.runBlock fun _ _ _ ht => ?_
  split; · exact ht.tabBegin
  refine ht.tabGo fun _ => ?_
  split; · exact ht.tabSettle
  exact Kept.tabSettle (Kept.flowEnd ht.scatterGo)

/-! ### TextUnits -/

protected theorem Kept.unitRun {p work} (hs : Kept σ s)
    (hwork : ∀ t a1 a2 a3 a4, Kept σ t → KE (KUnitStop σ) (Kept σ) (work t a1 a2 a3 a4)) :
    Kept σ (unitRun s p work) := by
  unfold unitRun
  split; · exact hs
  rename_i s1 _ _ e'
  have hs1 : Kept σ s1 := (hs.pickUnit.of _ e').fst
  split; · exact hs1.freeEngine
  split
  · rename_i e1
    exact (hwork _ _ _ _ _ hs1).ofOk _ e1
  · rename_i e2
    exact ((hwork _ _ _ _ _ hs1).ofErr _ e2).ofWait _ rfl
  · rename_i e3
    exact (((hwork _ _ _ _ _ hs1).ofErr _ e3).ofFault _ _ _ _ _ rfl).unitDone.seqFault

protected theorem Kept.seqGaz {e x q} (hs : Kept σ s) : KE (KUnitStop σ) (KP σ) (seqGaz s e x q) := by
  unfold seqGaz
  split; · exact hs.rdGaz
  exact KE.ok (KP.intro hs)

protected theorem Kept.tokeniseSeq {n u i x} (hs : Kept σ s) : KE (KUnitStop σ) (Kept σ) (tokeniseSeq s n u i x) := by
  unfold tokeniseSeq
  extract_lets
  refine hs.seqGaz.bind fun _ ha => ?_
  split
  extract_lets _ rest
  have hrest : ∀ (x : Machine.State × Bytes), KP σ x → KE (KUnitStop σ) (Kept σ) (rest x) := fun ⟨_, _⟩ hx =>
    KE.ok hx.fst.unitDone.modSeq
  split; · exact KE.ok ha.fst.unitDone.promptKnown
  split; · exact ha.fst.seqGaz.bind fun _ ha' => hrest _ ha'
  exact KE.bind (Q := KP σ) (KE.ok ha) fun _ ha' => hrest _ ha'

protected theorem Kept.execTokeniseUnit (hs : Kept σ s) : KR σ (execTokeniseUnit s) :=
  KR.next (hs.unitRun (fun _ _ _ _ _ ht => ht.tokeniseSeq)).flushAreas

protected theorem Kept.readPassages {a t a2} (hs : Kept σ s) : KE (KUnitStop σ) (KP σ) (readPassages a t a2 s) := by
  induction a2 generalizing s with
  | nil => exact KE.ok (KP.intro hs)
  | cons _ _ ih => exact hs.passage.bind fun ⟨_, _⟩ ha' => (ih ha'.fst).bind (fun ⟨_, _⟩ ha =>
    KE.ok (KP.intro ha.fst))

protected theorem Kept.seqTemplate {x g} (hs : Kept σ s) : KE (KUnitStop σ) (KP σ) (seqTemplate s x g) := by
  unfold seqTemplate
  extract_lets
  split; · exact KE.ok (KP.intro hs)
  exact hs.rdUnit.bind fun ⟨_, _⟩ ha => ha.fst.rdTpl

protected theorem Kept.packSeq {e u i x} (hs : Kept σ s) : KE (KUnitStop σ) (Kept σ) (packSeq s e u i x) := by
  unfold packSeq
  refine hs.seqGaz.bind fun _ ha => ?_
  split
  refine ha.fst.seqTemplate.bind fun _ ha' => ?_
  split
  refine ha'.fst.readPassages.bind fun _ ha'' => ?_
  split
  extract_lets _ s4
  have hs4 : Kept σ s4 := ha''.fst.unitDone
  split; · exact KE.ok hs4.endSeq
  exact KE.ok hs4.modSeq.promptKnown

protected theorem Kept.execPackUnit (hs : Kept σ s) : KR σ (execPackUnit s) :=
  KR.next (hs.unitRun (fun _ _ _ _ _ ht => ht.packSeq)).flushAreas

protected theorem Kept.afterToken {i x rest} (hs : Kept σ s) : Kept σ (afterToken s i x rest) := by
  unfold afterToken
  split; · exact hs.addUnit.flushSeq
  split; · exact hs.endSeq
  split; · exact hs.endSeq
  exact hs.flushSeq

protected theorem Kept.renderToken {i x g t rest} (hs : Kept σ s) : Kept σ (renderToken s i x g t rest) := by
  unfold renderToken
  extract_lets _ _ _ _ s1
  have hs1 : Kept σ s1 := hs.countEv.modSeq
  split; · exact hs1.endSeq
  split; · exact hs1.endSeq
  split; · exact hs1.endSeq
  exact hs1.afterToken

protected theorem Kept.tokenSeq {e u i x} (hs : Kept σ s) : KE (KUnitStop σ) (Kept σ) (tokenSeq s e u i x) := by
  unfold tokenSeq
  split; · exact KE.ok hs.freeEngine
  refine hs.seqGaz.bind fun _ ha' => ?_
  split
  refine ha'.fst.rdCons.bind fun _ ha => ?_
  split
  extract_lets s3
  have hs3 : Kept σ s3 := ha.fst.unitDone
  split; · exact KE.ok hs3.endSeq
  exact KE.ok hs3.renderToken

protected theorem Kept.execTokenUnit (hs : Kept σ s) : KR σ (execTokenUnit s) :=
  KR.next (hs.unitRun (fun _ _ _ _ _ ht => ht.tokenSeq))

protected theorem Kept.draftSeq {e u i x} (hs : Kept σ s) : KE (KUnitStop σ) (Kept σ) (draftSeq s e u i x) :=
  hs.seqCons.bind fun ⟨_, _, _⟩ ha => KE.ok ha.fst.unitDone.modSeq

protected theorem Kept.execDraftPositionUnit (hs : Kept σ s) : KR σ (execDraftPositionUnit s) :=
  KR.next (hs.unitRun (fun _ _ _ _ _ ht => ht.draftSeq))

protected theorem Kept.textFault {e x acc kind cause page} (hs : Kept σ s) :
    Kept σ (textFault s e x acc kind cause page) :=
  hs.forgetCmd.cmdFault

protected theorem Kept.rdText {e x va n} (hs : Kept σ s) : KE (Kept σ) (KP σ) (rdText s e x va n) := by
  unfold rdText
  split
  · rename_i e'
    exact KE.error (hs.cmdRead.ofWait _ e')
  · exact KE.error hs.textFault
  · rename_i e''
    exact KE.ok (KP.intro (hs.cmdRead.ofOk _ _ e''))

protected theorem Kept.textStart {x b u} (hs : Kept σ s) : KE (Kept σ) (KP σ) (textStart s x b u) := by
  unfold textStart
  extract_lets start
  have hstart : ∀ t, Kept σ t → KE (Kept σ) (KP σ) (start t) := by
    intro t ht
    have ht2 : Kept σ (modServing t (fillEngines 8)) := ht.modServing
    unfold start
    extract_lets s2
    split
    · exact KE.error ht2
    · exact KE.ok (KP.intro ht2)
  split; · exact hstart _ hs
  split
  · exact KE.error hs.complete
  · exact hstart _ (hs.same.touchVer.addUnit)

protected theorem Kept.textGaz {e x} (hs : Kept σ s) : KE (Kept σ) (KP σ) (textGaz s e x) := by
  unfold textGaz
  split; · exact KE.error hs
  split; · exact KE.error hs
  split; · exact KE.error hs.forgetCmd.badBlock
  split
  · rename_i e1
    exact KE.ok (hs.rdGaz.ofOk _ e1)
  · rename_i e2
    exact KE.error ((hs.rdGaz.ofErr _ e2).ofWait _ rfl)
  · rename_i e3
    exact KE.error ((hs.rdGaz.ofErr _ e3).ofFault _ _ _ _ _ rfl).textFault

protected theorem Kept.textWrite {e x b u full wrote bs} (hs : Kept σ s) :
    Kept σ (textWrite s e x b u full wrote bs) := by
  unfold textWrite
  split
  · rename_i e'
    exact hs.cmdWrite.ofWait _ e'
  · exact hs.textFault
  · rename_i e''
    exact (hs.cmdWrite.ofOk _ _ e'').modInfl.unitDone

protected theorem Kept.textSettle {r} (hs : Kept σ s) : Kept σ (textSettle s r) := by
  unfold textSettle
  split
  · split; · exact hs
    split
    · exact hs.textFault
    · exact hs.forgetCmd.endBlock
    · exact hs
  · exact hs

protected theorem Kept.textGo {x go} (hs : Kept σ s) (hgo : KE (Kept σ) (Kept σ) go) : Kept σ (textGo s x go) := by
  unfold textGo
  split; · exact hs.blockDone
  split; · exact hs.textSettle
  split; · exact hs.forgetCmd.complete
  exact Kept.textSettle (Kept.flowEnd hgo)

protected theorem Kept.execTextTokenise {r} (hs : Kept σ s) : KR σ (execTextTokenise r s) :=
  hs.runBlock fun _ _ _ ht => ht.textGo (ht.textStart.bind (fun ⟨_, _⟩ ha => ha.fst.textGaz.bind (fun ⟨_, _⟩ ha' =>
    ha'.fst.rdText.bind (fun ⟨_, _⟩ ha'' => KE.ok ha''.fst.textWrite))))

protected theorem Kept.nextToken {e x} (hs : Kept σ s) : Kept σ (nextToken s e x) := hs.modInfl.unitDone.addUnit

protected theorem Kept.execTextDetokenise {r} (hs : Kept σ s) : KR σ (execTextDetokenise r s) := by
  unfold execTextDetokenise
  refine hs.runBlock fun _ _ _ ht => ?_
  refine ht.textGo ?_
  refine ht.textStart.bind fun _ ha => ?_
  split
  rename_i x _ _
  refine ha.fst.textGaz.bind fun _ ha' => ?_
  split
  extract_lets
  refine ha'.fst.rdText.bind fun _ ha'' => ?_
  split
  extract_lets _ _ _ rest
  have hrest : ∀ (x : Unit), KE (Kept σ) (Kept σ) (rest x) := by
    intro _
    unfold rest
    split; · exact KE.ok ha''.fst.nextToken
    exact KE.ok ha''.fst.textWrite
  exact KE.guard (KE.error ha''.fst.forgetCmd.badBlock) fun _ => hrest ()

/-! ### SeqMoves -/

protected theorem Kept.exportImage {x v} (hs : Kept σ s) :
    KE (KUnitStop σ) (KP σ) (exportImage s x v) :=
  KE.bind (Q := KP σ) (KE.foldl (KE.ok (KP.intro hs)) (fun _ _ hq => hq.bind (fun ⟨_, _⟩ ha =>
    ha.fst.rdUnit.bind (fun ⟨_, _⟩ ha' => KE.ok (KP.intro ha'.fst))))) (fun ⟨_, _⟩ ha => KE.ok (KP.intro ha.fst))

protected theorem Kept.atBoundary {c id move} (hs : Kept σ s) : KAtBound σ (atBoundary s c id move) := by
  unfold atBoundary
  split; · exact KAtBound.done hs.complete
  split; · exact KAtBound.done hs.badParam
  split; · exact KAtBound.done hs.complete
  split; · exact KAtBound.done hs.complete
  extract_lets
  split; · exact KAtBound.ready
  exact KAtBound.wait hs.modSeq

protected theorem Kept.letGo {i} (hs : Kept σ s) : Kept σ (letGo s i) := hs.modSeq

protected theorem Kept.readImage {c i x v} (hs : Kept σ s) : KE (Kept σ) (KP σ) (readImage s c i x v) := by
  unfold readImage
  extract_lets
  split
  · rename_i e
    exact KE.ok (hs.modSeq.exportImage.ofOk _ e)
  · rename_i e'
    exact KE.error ((hs.modSeq.exportImage.ofErr _ e').ofWait _ rfl)
  · rename_i e''
    exact KE.error ((hs.modSeq.exportImage.ofErr _ e'').ofFault _ _ _ _ _ rfl).letGo.seqFault.complete

protected theorem Kept.seqExport {c e detach} (hs : Kept σ s) : Kept σ (seqExport s c e detach) := by
  unfold seqExport
  split
  · split; · exact hs
    split; · exact hs.complete
    split; · exact hs.letGo.cmdFault
    exact (hs.letGo.setFlag.endSeq.ite hs.letGo).complete
  · split
    · rename_i e1
      exact hs.atBoundary.ofDone _ e1
    · rename_i e2
      exact hs.atBoundary.ofWait _ e2
    · extract_lets
      split; · exact hs.letGo.complete
      split
      · rename_i e3
        exact hs.readImage.ofErr _ e3
      · rename_i s1 _ e4
        have hs1 : Kept σ s1 := (hs.readImage.ofOk _ e4).fst
        split
        · rename_i e5
          exact hs1.cmdWrite.ofWait _ e5
        · exact hs1.letGo.cmdFault
        · rename_i e6
          exact (hs1.cmdWrite.ofOk _ _ e6).modInfl

protected theorem Kept.exportRun {r e detach} (hs : Kept σ s) : Kept σ (exportRun s r e detach) := by
  unfold exportRun
  split; · exact hs
  extract_lets s1
  have hs1 : Kept σ s1 := by
    unfold s1
    split; · exact hs
    exact hs.seqExport
  split
  · split; · exact hs1.seqExport
    exact hs1
  · exact hs1

protected theorem Kept.execSeqExportSnapshot {r} (hs : Kept σ s) : KR σ (execSeqExportSnapshot r s) :=
  hs.runCmdIf fun _ _ _ ht => ht.exportRun

protected theorem Kept.execSeqExportDetach {r} (hs : Kept σ s) : KR σ (execSeqExportDetach r s) :=
  hs.runCmdIf fun _ _ _ ht => ht.exportRun

protected theorem Kept.enterImage {q v d hd toks ts kv} (hs : Kept σ s) :
    KImport σ (enterImage s q v d hd toks ts kv) := by
  unfold enterImage
  extract_lets _ _ _ _ _ _ s1
  have hs1 : Kept σ s1 := by
    unfold s1
    refine Kept.foldl hs fun _ _ ht => ?_
    split; · exact ht.touchVer
    exact ht
  split; · exact KImport.refuse
  split; · exact KImport.refuse
  extract_lets
  split; · exact KImport.refuse
  split; · exact KImport.refuse
  rename_i s' e1
  have hs' : Kept σ s' := hs1.putSeq.modServing.allocKv.of _ e1
  extract_lets _ _ s4
  have hs4 : Kept σ s4 := Kept.foldl hs' fun _ _ ht => ht.hubWrite
  split
  · rename_i e2
    exact KImport.wait (hs'.engReady.ofWait _ e2).same
  · exact KImport.fault hs
  · exact KImport.ok (hs4.ite hs4.hostPutP)

protected theorem Kept.enterBytes {q v d img} (hs : Kept σ s) : KImport σ (enterBytes s q v d img) := by
  unfold enterBytes
  extract_lets
  split; · exact KImport.refuse
  exact hs.enterImage

-- The kernel unfolds the `have`s of this long body deeper than the default depth.
set_option maxRecDepth 100000 in
protected theorem Kept.execSeqImport {r} (hs : Kept σ s) : KR σ (execSeqImport r s) := by
  unfold execSeqImport
  refine hs.runCmd fun _ _ _ ht => ?_
  extract_lets
  split
  · split; · exact ht.badParam
    exact ht.complete
  · split; · exact ht.complete
    split
    · rename_i e1
      exact ht.cmdRead.ofWait _ e1
    · exact ht.cmdFault
    · rename_i s2' _ e2
      have hs2' : Kept σ s2' := ht.cmdRead.ofOk _ _ e2
      split; · exact hs2'.badParam
      split
      · rename_i e3
        exact hs2'.cmdRead.ofWait _ e3
      · exact hs2'.cmdFault
      · rename_i s2 _ e4
        have hs2 : Kept σ s2 := hs2'.cmdRead.ofOk _ _ e4
        split
        · exact hs2.complete
        · rename_i e5
          exact (hs2.enterBytes.ofFault _ _ _ _ _ e5).cmdFault
        · rename_i e6
          exact hs2.enterBytes.ofWait _ e6
        · rename_i e7
          exact (hs2.enterBytes.ofOk _ _ e7).complete

protected theorem Kept.execSeqMove {r} (hs : Kept σ s) : KR σ (execSeqMove r s) := by
  unfold execSeqMove
  refine hs.runCmd fun _ _ _ ht => ?_
  split
  · split; · exact ht
    exact ht.complete
  · extract_lets
    split; · exact ht.badParam
    split
    · rename_i e1
      exact ht.atBoundary.ofDone _ e1
    · rename_i e2
      exact ht.atBoundary.ofWait _ e2
    · split; · exact ht.letGo.complete
      split
      · rename_i e3
        exact ht.readImage.ofErr _ e3
      · rename_i e4
        exact (Kept.foldl (ht.readImage.ofOk _ e4).fst (fun _ _ ht' => ht'.sendSeq)).modSeq.modInfl

protected theorem Kept.moveAnswered {src id status nid} (hs : Kept σ s) :
    Kept σ (moveAnswered s src id status nid) := by
  unfold moveAnswered
  split; · exact hs
  split; · exact hs
  extract_lets done
  split
  · unfold done
    split; · exact hs.modSeq.complete
    exact hs.modSeq
  · unfold done
    split; · exact hs.dropBlocks.setFlag.modSeq.complete
    exact hs.dropBlocks.setFlag.modSeq

protected theorem Kept.stubEnds {i f} (hs : Kept σ s) : Kept σ (stubEnds s i f) := hs.modSeq.endSeq

protected theorem Kept.moveSegment {t src body} (hs : Kept σ s) :
    KE (Kept σ) (Kept σ) (moveSegment s t src body) := by
  unfold moveSegment
  extract_lets _ _ _ _ _ s1
  have hs1 : Kept σ s1 := hs.modServing
  split; · exact KE.ok hs.modServing
  split; · exact KE.ok hs1.sendSeq
  split; · exact KE.ok hs1.sendSeq
  split
  · exact KE.ok hs1.sendSeq
  · rename_i e1
    exact KE.ok (hs1.enterBytes.ofFault _ _ _ _ _ e1).sendSeq
  · rename_i e2
    exact KE.error (hs1.enterBytes.ofWait _ e2).same
  · rename_i e3
    exact KE.ok (hs1.enterBytes.ofOk _ _ e3).sendSeq

protected theorem Kept.takeDispatch {t src b} (hs : Kept σ s) : KE (Kept σ) (Kept σ) (takeDispatch s t src b) := by
  unfold takeDispatch
  split; · exact KE.ok hs
  extract_lets
  split; · exact KE.error hs
  exact KE.ok hs.modSv

protected theorem Kept.takeResultMsg {t b} (hs : Kept σ s) : KE (Kept σ) (Kept σ) (takeResultMsg s t b) := by
  unfold takeResultMsg
  split; · exact KE.ok hs
  exact hs.takeResults

protected theorem Kept.seqMessage {m} (hs : Kept σ s) : KE (Kept σ) (Kept σ) (seqMessage s m) := by
  unfold seqMessage
  extract_lets _ _ mine
  split; · exact hs.takeDispatch
  split; · exact hs.takeResultMsg
  split; · exact hs.moveSegment
  clear_value mine
  split; · exact KE.ok hs
  extract_lets
  split; · exact KE.ok hs.moveAnswered
  split; · exact KE.ok hs.releaseText
  split; · exact KE.ok hs.stubEnds
  split; · exact KE.ok (hs.cancelNormal.ite hs.cancelImmediate)
  exact KE.ok hs

protected theorem Kept.execMsgReceive {svc} (hs : Kept σ s) : KR σ (execMsgReceive svc s) := by
  unfold execMsgReceive
  split; · exact KR.next hs
  extract_lets _ _ s1
  have hs1 : Kept σ s1 := hs.police.fst.holdMsg
  split; · exact KR.next hs.police.fst.rejectMsg
  split; · exact KR.next hs1.doneMsg
  split
  · rename_i e1
    exact KR.next (hs1.seqMessage.ofOk _ e1).doneMsg.routeAll
  · rename_i e2
    exact KR.next (hs1.seqMessage.ofErr _ e2)

protected theorem Kept.execOrderedFlowTimeout {dst svc} (hs : Kept σ s) :
    KR σ (execOrderedFlowTimeout dst svc s) := by
  unfold execOrderedFlowTimeout
  extract_lets
  split; · exact KR.next hs
  split; · exact KR.next hs
  extract_lets s1
  have hs1 : Kept σ s1 := hs.advanceTo
  split; · exact KR.next (Kept.routeAll (Kept.foldl hs1.same (fun _ _ ht => ht.sendMsg)))
  exact KR.next (hs1.same.loseStubs.ite hs1.same)

protected theorem Kept.execStreamConsPoll {slot} (hs : Kept σ s) : KR σ (execStreamConsPoll slot s) := by
  unfold execStreamConsPoll
  split; · exact KR.next hs
  split; · exact KR.next hs
  exact KR.next hs.advanceTo.modSeq.addReadP

/-! ### StopCmds -/

protected theorem Kept.undoCmd {x} (hs : Kept σ s) : Kept σ (undoCmd s x) := by
  unfold undoCmd
  split
  · refine Kept.foldl hs fun _ _ ht => ?_
    extract_lets st1
    have hst1 : Kept σ st1 := by
      unfold st1
      split; · exact ht.freeDst.dropMig
      exact ht
    exact hst1.unmapPage
  · exact hs.undoPin
  · exact hs.undoLoad
  · exact Kept.foldl hs fun _ _ ht => ht.dropAdmit
  · exact hs

protected theorem Kept.stopCmd {x st} (hs : Kept σ s) : KP σ (stopCmd s x st) := by
  unfold stopCmd
  split; · exact KP.intro hs
  split; · exact KP.intro hs.complete
  split
  · exact KP.intro hs
  · extract_lets s1
    have hs1 : Kept σ s1 := hs.undoCmd
    split; · exact KP.intro hs1.modInfl
    exact KP.intro hs1.complete
  · split; · exact KP.intro hs.modInfl
    exact KP.intro hs.forgetCmd.complete

protected theorem Kept.execCommandTimeout {r} (hs : Kept σ s) : KR σ (execCommandTimeout r s) := by
  unfold execCommandTimeout
  split; · exact KR.next hs
  split; · exact KR.next hs
  extract_lets s1
  have hs1 : Kept σ s1 := hs.advanceTo.modInfl
  split; · exact KR.next hs1
  exact KR.next hs1.stopCmd.fst

protected theorem Kept.execDevCancel {r} (hs : Kept σ s) : KR σ (execDevCancel r s) := by
  unfold execDevCancel
  refine hs.runCmd fun _ _ _ ht => ?_
  split; · exact ht.complete
  split; · exact ht.stopCmd.fst.complete
  extract_lets
  split; · exact ht.stopCmd.fst.complete
  exact ht.complete

end Sys2Proof.Safety
end

section
/-! `Kept` for the operations on traffic, resets, firmware, the host and power. -/

namespace Sys2Proof.Safety

open Sys2Proof.Machine Sys2Proof.Laws

/- The proofs run in turn: side by side, the threads that wait for each other's case splits exhaust the memory. -/
set_option Elab.async false

variable {σ s : State}

/-! ### TrafficCmds -/

protected theorem Kept.execEgressSchedule {port} (hs : Kept σ s) : KR σ (execEgressSchedule port s) := by
  unfold execEgressSchedule
  split; · exact KR.next hs.hostEgress
  split; · exact KR.next hs
  extract_lets _ s1
  have hs1 : Kept σ s1 := by
    unfold s1
    split; · exact hs.advanceTo
    exact hs
  exact KR.next hs1.fabEgress

protected theorem Kept.execTokenRefill {port} (hs : Kept σ s) : KR σ (execTokenRefill port s) := by
  unfold execTokenRefill
  extract_lets s1
  have hs1 : Kept σ s1 := hs.advance
  split; · exact KR.next hs1.modPort
  exact KR.next hs1

protected theorem Kept.execGateEntryAdvance {port} (hs : Kept σ s) : KR σ (execGateEntryAdvance port s) := by
  unfold execGateEntryAdvance
  extract_lets
  split; · exact KR.next hs
  extract_lets s1
  have hs1 : Kept σ s1 := hs.advance.settleGate
  split
  · split; · exact KR.next hs1.modPort.countEv
    exact KR.next hs1
  · exact KR.next hs1

protected theorem Kept.settleGateActs (hs : Kept σ s) : Kept σ (settleGateActs s) := by
  unfold settleGateActs
  extract_lets
  refine Kept.foldl hs.modTime fun _ _ ht => ?_
  split; · exact ht.complete
  exact ht

protected theorem Kept.execGateTakeover {port} (hs : Kept σ s) : KR σ (execGateTakeover port s) := by
  unfold execGateTakeover
  split; · exact KR.next hs
  extract_lets
  split; · exact KR.next hs
  exact KR.next hs.advance.settleGate.settleGateActs

protected theorem Kept.applyShaper {e} (hs : Kept σ s) : Kept σ (applyShaper s e) := by
  unfold applyShaper
  extract_lets _ _ _ _
  split; · exact hs.same
  exact Kept.foldl hs fun _ _ ht' => ht'.modPort

protected theorem Kept.readExceeded {e} (hs : Kept σ s) : KP σ (readExceeded s e) := by
  unfold readExceeded
  split; · exact KP.intro hs
  exact KP.intro hs.same

protected theorem Kept.finishShaper {r e} (hs : Kept σ s) : Kept σ (finishShaper s r e) :=
  hs.applyShaper.readExceeded.fst.complete

protected theorem Kept.execFabShaper {r} (hs : Kept σ s) : KR σ (execFabShaper r s) := by
  unfold execFabShaper
  refine hs.runCmd fun _ _ _ ht => ?_
  split; · exact ht
  split; · exact ht.finishShaper
  exact ht.schedCmd

protected theorem Kept.execFabSched {r} (hs : Kept σ s) : KR σ (execFabSched r s) := by
  unfold execFabSched
  refine hs.runCmd fun _ _ _ ht => ?_
  extract_lets _ _ _
  split; · exact Kept.complete (Kept.foldl ht (fun _ _ ht' => ht'.modPort))
  split; · exact ht.askHost
  split; · exact ht.badParam
  exact Kept.complete (Kept.foldl ht.same (fun _ _ ht' => ht'.modPort))

protected theorem Kept.execFabGateWrite {r} (hs : Kept σ s) : KR σ (execFabGateWrite r s) := by
  unfold execFabGateWrite
  refine hs.runCmdIf fun _ _ _ ht => ?_
  extract_lets _ _ _ s2
  have hs2 : Kept σ s2 := Kept.foldl ht fun _ _ ht' => ht'.settleGate
  split; · exact hs2.complete
  split; · exact hs2.complete
  split; · exact hs2.askHost
  extract_lets
  split; · exact hs2.badParam
  exact Kept.complete (Kept.foldl hs2 (fun _ _ ht' => ht'.modPort))

protected theorem Kept.execFabGateCommit {r} (hs : Kept σ s) : KR σ (execFabGateCommit r s) := by
  unfold execFabGateCommit
  refine hs.runCmdIf fun _ _ _ ht => ?_
  split; · exact ht.settleGateActs
  extract_lets _ _ s2
  have hs2 : Kept σ s2 := Kept.settleGateActs (Kept.foldl ht (fun _ _ ht' => ht'.settleGate))
  split; · exact hs2.complete
  split; · exact hs2.complete
  split; · exact hs2.badParam
  exact (Kept.foldl hs2 (fun _ _ ht' => ht'.modPort.settleGate)).addAct.settleGateActs

protected theorem Kept.execFabSample {r} (hs : Kept σ s) : KR σ (execFabSample r s) := by
  unfold execFabSample
  refine hs.runCmd fun _ _ _ ht => ?_
  extract_lets _ _ s2
  have hs2 : Kept σ s2 := by
    unfold s2
    split; · exact ht.same
    exact ht
  exact hs2.same.complete

protected theorem Kept.ringPut {haddr size cons w a a2 a3} (hs : Kept σ s) :
    KP σ (ringPut s haddr size cons w a a2 a3) := by
  induction a generalizing s a2 a3 with
  | nil => exact KP.intro hs
  | cons _ _ ih =>
    unfold ringPut
    split; · exact ih hs
    exact ih hs.hostPutS

protected theorem Kept.execQueueSample {cons} (hs : Kept σ s) : KR σ (execQueueSample cons s) := by
  unfold execQueueSample
  split; · exact KR.next hs
  extract_lets _ _ _ _ _ _ _ s2
  have hs2 : Kept σ s2 := hs.advance.ringPut.fst.ringPut.fst.hostPutS
  exact KR.next hs2.same

protected theorem Kept.execPortWindowEnd {port} (hs : Kept σ s) : KR σ (execPortWindowEnd port s) := by
  unfold execPortWindowEnd
  split; · exact KR.next hs
  exact KR.next hs.advance.modPort

/-! ### Resets -/

protected theorem Kept.noteReset {k code fn} (hs : Kept σ s) : Kept σ (noteReset k code s fn) := by
  unfold noteReset
  exact hs.same.modFunc

protected theorem Kept.orphanRems {gone} (hs : Kept σ s) : Kept σ (orphanRems s gone) := hs.same

protected theorem Kept.dropAct {a} (hs : Kept σ s) : Kept σ (dropAct s a) := by
  unfold dropAct
  extract_lets s1 _ _
  have hs1 : Kept σ s1 := hs.modTime
  split
  · exact hs1.same
  · exact Kept.foldl hs1 fun _ _ ht => ht.modPort
  · exact hs1.same
  · exact hs1

protected theorem Kept.resetCmd {x} (hs : Kept σ s) : Kept σ (resetCmd s x) := by
  unfold resetCmd
  extract_lets s1 s2
  have hs1 : Kept σ s1 := hs.forgetCmd
  have hs2 : Kept σ s2 := by
    unfold s2
    split; · exact hs1.undoCmd
    exact hs1
  exact hs2.leaveStore

protected theorem Kept.clearMboxes {fns mctp} (hs : Kept σ s) : Kept σ (clearMboxes s fns mctp) := by
  unfold clearMboxes
  extract_lets _ _ _ _ s3 _ _ _ _
  have hs3 : Kept σ s3 := (Kept.foldl (Kept.foldl hs (fun _ _ ht => ht.resetCmd)) (fun _ _ ht => ht.dropAct)).modTime
  exact hs3.same.orphanRems

protected theorem Kept.resetSeqs {ts record} (hs : Kept σ s) : Kept σ (resetSeqs s ts record) := by
  unfold resetSeqs
  extract_lets s1
  have hs1 : Kept σ s1 := by
    unfold s1
    refine Kept.foldl hs fun _ _ ht => ?_
    split; · exact ht.modSeq.endSeq
    exact ht.killSeq
  exact hs1.modServing

protected theorem Kept.resetJobs {ts} (hs : Kept σ s) : Kept σ (resetJobs s ts) :=
  Kept.foldl hs.same fun _ _ ht => ht.abortJob

protected theorem Kept.clearCtx {t} (hs : Kept σ s) : Kept σ (clearCtx s t) := by
  unfold clearCtx
  extract_lets s1 s2 mine _ _ _ _ _ _ s3
  have hs1 : Kept σ s1 := Kept.foldl hs fun _ _ ht => ht.freeDst.dropMig
  have hs2 : Kept σ s2 := Kept.foldl hs1 fun _ _ ht => ht.freeStorage
  have hm : Kept σ (modAtlas s2 fun a => { a with mem := a.mem.filter fun c => c.1 / 2 ^ 57 ≠ t }) :=
    hs2.modAtlasMem fun h => filter_wf _ _ h
  have hs3 : Kept σ s3 := hm.same
  exact hs3.orphanRems

protected theorem Kept.resetLending (hs : Kept σ s) : Kept σ (resetLending s) := by
  unfold resetLending
  exact (Kept.foldl hs (fun _ _ ht => ht.modLeaf.poisonEvent)).modAtlas

protected theorem Kept.clearFunc {fn} (hs : Kept σ s) : Kept σ (clearFunc s fn) := hs.modFunc
protected theorem Kept.warmFunc {fn} (hs : Kept σ s) : Kept σ (warmFunc s fn) := hs.modFunc

protected theorem Kept.dropBarq {fn answer} (hs : Kept σ s) : Kept σ (dropBarq s fn answer) := by
  unfold dropBarq
  extract_lets _ s1 s2 _
  have hs1 : Kept σ s1 := hs.modFunc
  have hs2 : Kept σ s2 := by
    unfold s2
    split
    · refine Kept.foldl hs1 fun _ _ ht => ?_
      split; · exact ht.emit
      exact ht
    · exact hs1
  exact hs2.same.orphanRems

protected theorem Kept.clearLogRing {warm} (hs : Kept σ s) : Kept σ (clearLogRing s warm) := hs.same

protected theorem Kept.applyReset {k t code} (hs : Kept σ s) : Kept σ (applyReset s k t code) := by
  unfold applyReset
  extract_lets _ _ _ s1 s2 _ s4 s5 s6 s7 s8 _ _ _ s9 _ s10
  have hs1 : Kept σ s1 := by
    unfold s1
    split; · exact hs
    exact hs.clearMboxes
  have hs2 : Kept σ s2 := by
    unfold s2
    split
    · exact hs1
    · exact hs1.resetSeqs
    · exact hs1.resetSeqs
    · exact hs1.resetSeqs
  have hs4 : Kept σ s4 := Kept.foldl hs2.resetJobs fun _ _ ht' => ht'.clearCtx
  have hs5 : Kept σ s5 := by
    unfold s5
    split; · exact hs4.resetLending
    exact hs4
  have hs6 : Kept σ s6 := by
    unfold s6
    split; · exact hs5.modAtlas
    exact hs5
  have hs7 : Kept σ s7 := by
    unfold s7
    split; · exact hs6.nvReset
    exact hs6
  have hs8 : Kept σ s8 := by
    unfold s8
    refine Kept.foldl hs7 fun _ _ ht' => ?_
    extract_lets st1
    have hst1 : Kept σ st1 := ht'.dropBarq
    split; · exact hst1.warmFunc
    exact hst1.clearFunc
  have hs9 : Kept σ s9 := by
    unfold s9
    split
    · have hu := hs8.clearLogRing (warm := decide (k = .warm))
      have hg := hu.modCtlOf (f := fun c => { c with staging := [] }) rfl fun _ => wf_nil
      exact hg.same
    exact hs8
  have hs10 : Kept σ s10 := by
    unfold s10
    split; · exact hs9.same
    exact hs9
  exact Kept.foldl hs10 fun _ _ ht' => ht'.noteReset

protected theorem Kept.removeVfs {vfs code} (hs : Kept σ s) : Kept σ (removeVfs s vfs code) :=
  Kept.foldl hs fun _ _ ht => ht.modFunc

protected theorem Kept.convReset (hs : Kept σ s) : Kept σ (convReset s) := hs.same.applyReset.removeVfs
protected theorem Kept.fenceReset (hs : Kept σ s) : Kept σ (fenceReset s) := hs.applyReset
protected theorem Kept.tenantReset {t code} (hs : Kept σ s) : Kept σ (tenantReset s t code) := hs.applyReset

protected theorem Kept.fenceModule (hs : Kept σ s) : Kept σ (fenceModule s) := by
  unfold fenceModule
  split; · exact hs
  exact hs.postEvent.freeTick.publishDrop.fencePorts.fenceReset

/-! ### FwOps -/

/-- What `Kept` speaks of in the control core. -/
def ctlView (c : Control) : (Nat × Nat × Nat × Nat × Nat) × List Host.Cell := (fuses c, c.staging)

protected theorem Kept.modCtl {f} (hs : Kept σ s) (hf : ctlView (f s.ctl) = ctlView s.ctl := by rfl) : Kept σ (modCtl s f) :=
  have hg : (f s.ctl).staging = s.ctl.staging := congrArg Prod.snd hf
  hs.modCtlOf (congrArg Prod.fst hf) fun h => hg.symm ▸ h

/-- Choosing a slot of the boot store changes neither the fuses nor the staged bytes. -/
theorem ctlView_putSlot (c : Control) (n : Nat) (f : FwSlot) : ctlView (putSlot c n f) = ctlView c := by
  unfold putSlot; split <;> rfl

/-- Writing a slot keeps. -/
protected theorem Kept.putSlot {n} {f : Control → FwSlot} (hs : Kept σ s) : Kept σ (modCtl s fun c => putSlot c n (f c)) :=
  hs.modCtl (ctlView_putSlot _ _ _)

theorem ctlView_startSlot (c : Control) (n : Nat) : ctlView (startSlot c n) = ctlView c := by
  unfold startSlot
  extract_lets
  split; · rfl
  split <;> rfl

theorem ctlView_romChoose (c : Control) : ctlView (romChoose c) = ctlView c := by
  unfold romChoose
  extract_lets c1
  split; · rfl
  split
  · extract_lets
    split
    · split <;> exact (ctlView_startSlot _ _).trans (ctlView_putSlot _ _ _)
    · exact (ctlView_startSlot _ _).trans (ctlView_putSlot _ _ _)
  · split <;> exact ctlView_startSlot _ _

protected theorem Kept.ensureChosen (hs : Kept σ s) : Kept σ (ensureChosen s) := by
  unfold ensureChosen
  split; · exact hs
  exact hs.modCtl (ctlView_romChoose _)

protected theorem Kept.leaveStage4 (hs : Kept σ s) : Kept σ (leaveStage4 s) := by
  unfold leaveStage4
  split; · exact hs.modPower.setStageRate.mgmtEvent.freeTick.irqSet.clampNote
  exact hs

protected theorem Kept.warmReset (hs : Kept σ s) : Kept σ (warmReset s) := by
  unfold warmReset
  exact hs.publishDrop.leaveStage4.freeTick.applyReset.fencePorts.modCtl (ctlView_romChoose _)

protected theorem Kept.factoryStore (hs : Kept σ s) : Kept σ (factoryStore s) := by
  unfold factoryStore
  have hw := Kept.foldl (l := s.store.nss.map (·.1)) hs fun _ n ht => ht.wipeNs (nsid := n) (gone := true)
  exact (hw.modStoreNss fun _ _ _ hn => by cases hn).modCtl

protected theorem Kept.factoryT4 (hs : Kept σ s) : Kept σ (factoryT4 s) := hs.modAtlas

protected theorem Kept.finishErase (hs : Kept σ s) : Kept σ (finishErase s) := by
  unfold finishErase
  split; · exact hs
  extract_lets s1
  have hs1 : Kept σ s1 := hs.factoryStore.factoryT4.ite hs
  refine hs1.modCtl ?_
  split <;> rfl

protected theorem Kept.coldStart (hs : Kept σ s) : Kept σ (coldStart s) := by
  unfold coldStart
  extract_lets start z
  exact Kept.finishErase ⟨hs.queue, hs.fuses, hs.sent, hs.drawn, fun k => ⟨wf_nil, wf_nil, (hs.memory k).2.2⟩⟩

/-! ### UnitOps -/

protected theorem Kept.demoteMany {t tier a} (hs : Kept σ s) : Kept σ (demoteMany t tier a s) := by
  induction a generalizing s with
  | zero => exact hs
  | succ _ ih =>
    unfold demoteMany
    split
    · rename_i e
      exact ih (hs.demoteColdest.ofOk _ e).fst
    · exact hs

protected theorem Kept.demoteExcess {t tier} (hs : Kept σ s) : Kept σ (demoteExcess s t tier) := hs.demoteMany

protected theorem Kept.fitQuotas (hs : Kept σ s) : Kept σ (fitQuotas s) := by
  unfold fitQuotas
  extract_lets _ _ _ _ s1
  have hs1 : Kept σ s1 := by
    unfold s1
    split; · exact hs
    exact Kept.foldl hs.same fun _ _ ht => ht.irqSet
  exact Kept.foldl hs1 fun _ _ ht => ht.demoteExcess

protected theorem Kept.abortOn {c} (hs : Kept σ s) : Kept σ (abortOn s c) :=
  Kept.serveSems (Kept.foldl hs (fun _ _ ht => ht.abortJc.settleBatches.settleEnding))

protected theorem Kept.fenceCore {c} (hs : Kept σ s) : Kept σ (fenceCore s c) := by
  unfold fenceCore
  split; · exact hs
  exact hs.same.fenceMark.abortOn.placement

protected theorem Kept.poisonTile {src t p cause} (hs : Kept σ s) : Kept σ (poisonTile s src t p cause) := by
  unfold poisonTile
  split; · exact hs
  split; · exact hs
  exact hs.modLeaf.poisonEvent

protected theorem Kept.loseTable {src t p} (hs : Kept σ s) : Kept σ (loseTable s src t p) :=
  Kept.foldl hs fun _ _ ht' => ht'.poisonTile

protected theorem Kept.loseText {i} (hs : Kept σ s) : Kept σ (loseText s i) := hs.endSeq

protected theorem Kept.eccAbort {src jobid} (hs : Kept σ s) : Kept σ (eccAbort s src jobid) := by
  unfold eccAbort
  split; · exact hs
  exact hs.postEvent.abortJob

protected theorem Kept.drawnBy {f} (hs : Kept σ s) (hf : ∀ t, Kept σ t → Kept σ (f t)) : Kept σ (Machine.drawn s f) := by
  unfold Machine.drawn
  exact (hf _ hs.freeTick).ite hs.freeTick

protected theorem Kept.loseWb (hs : Kept σ s) : Kept σ (loseWb s) := by
  unfold loseWb
  extract_lets _ _ s1
  have hs1 : Kept σ s1 := Kept.draw hs
  split; · exact hs1
  exact hs1.modStore

protected theorem Kept.loseReserve {src} (hs : Kept σ s) : Kept σ (loseReserve s src) := by
  unfold loseReserve
  extract_lets tabs s1 saved s2 s3
  have hs1 : Kept σ s1 := Kept.foldl hs fun _ _ ht => ht.drawnBy fun _ hu => hu.loseTable
  have hs2 : Kept σ s2 := Kept.foldl hs1 fun _ _ ht => ht.drawnBy fun _ hu => hu.eccAbort
  have hs3 : Kept σ s3 := Kept.foldl hs2 fun _ _ ht => ht.drawnBy fun _ hu => hu.loseText
  exact (hs3.modCtlOf rfl fun _ => wf_nil).loseWb

protected theorem Kept.fenceStack {st} (hs : Kept σ s) : Kept σ (fenceStack s st) := by
  unfold fenceStack
  split; · exact hs
  extract_lets _ _ _ _ _ s2
  have hs2 : Kept σ s2 := (Kept.foldl hs (fun _ _ ht => ht.poisonTile)).modAtlas
  exact hs2.same.postEvent.irqAll.loseReserve.fitQuotas

protected theorem Kept.fenceChan {c} (hs : Kept σ s) : Kept σ (fenceChan s c) := by
  unfold fenceChan
  split; · exact hs
  exact hs.same.modStore.fenceMark.critNote

protected theorem Kept.fencePort {n} (hs : Kept σ s) : Kept σ (fencePort s n) := by
  unfold fencePort
  split; · exact hs
  extract_lets _ _ s1
  have hs1 : Kept σ s1 := by
    unfold s1
    split; · exact hs.same.setPortSt.reroutePort.timePortDown.probePeer
    exact hs.same.setPortSt
  exact hs1.fenceMark

protected theorem Kept.checkLimits (hs : Kept σ s) : Kept σ (checkLimits s) := by
  unfold checkLimits
  split; · exact hs.fenceModule
  exact hs

protected theorem Kept.bootWrite {fail} (hs : Kept σ s) : KO (Kept σ) (bootWrite s fail) := by
  unfold bootWrite
  extract_lets
  split; · exact KO.none
  split; · exact KO.some hs.postEvent.fenceChan.checkLimits
  split; · exact KO.some hs.postEvent.fenceChan.checkLimits
  exact KO.some hs

/-! ### FwCmds -/

protected theorem Kept.execCpWatchdogExpiry (hs : Kept σ s) : KR σ (execCpWatchdogExpiry s) := by
  unfold execCpWatchdogExpiry
  split; · exact KR.next hs.ensureChosen.warmReset
  exact KR.next hs

protected theorem Kept.reloadEngine {e} (hs : Kept σ s) : Kept σ (reloadEngine s e) := by
  unfold reloadEngine
  extract_lets
  split; · exact hs
  split; · exact hs.same.endSeq
  exact hs.same.modServing

protected theorem Kept.execHelperHeartbeatTimeout {src seq} (hs : Kept σ s) :
    KR σ (execHelperHeartbeatTimeout src seq s) := by
  unfold execHelperHeartbeatTimeout
  split; · exact KR.next hs
  split; · exact KR.next hs.postEvent.reloadEngine
  split; · exact KR.next hs.postEvent.warmReset
  exact KR.next hs

protected theorem Kept.execStartFailureTimeout (hs : Kept σ s) : KR σ (execStartFailureTimeout s) := by
  unfold execStartFailureTimeout
  split; · exact KR.next hs.advanceTo.ensureChosen.warmReset
  exact KR.next hs

protected theorem Kept.revertTrial (hs : Kept σ s) : Kept σ (revertTrial s) := by
  unfold revertTrial
  split; · exact hs
  exact hs.putSlot.warmReset

protected theorem Kept.execConfirmsTimeout (hs : Kept σ s) : KR σ (execConfirmsTimeout s) := by
  unfold execConfirmsTimeout
  split; · exact KR.next hs
  split; · exact KR.next hs
  exact KR.next hs.advanceTo.revertTrial

protected theorem Kept.execRecoveryRequest (hs : Kept σ s) : KR σ (execRecoveryRequest s) := by
  unfold execRecoveryRequest
  split
  · split; · exact KR.next hs
    exact KR.next hs.modCtl
  · exact KR.next hs

protected theorem Kept.execFwDownload {r} (hs : Kept σ s) : KR σ (execFwDownload r s) := by
  unfold execFwDownload
  refine hs.runCmd fun _ _ _ ht => ?_
  extract_lets
  split; · exact ht.complete
  split; · exact ht.askHost
  exact (ht.modCtlOf rfl fun h => cellWrites_wf _ _ _ h).complete

protected theorem Kept.execFwCommit {r fail} (hs : Kept σ s) : KR σ (execFwCommit r fail s) := by
  unfold execFwCommit
  refine hs.runCmd fun _ _ _ ht => ?_
  extract_lets
  split; · exact ht.complete
  split
  · exact ht.complete
  · exact ht.complete
  · split
    · exact ht.putSlot.complete
    · rename_i e
      exact (ht.bootWrite.of _ e).putSlot.complete

protected theorem Kept.activateSlot {n confirms cmd} (hs : Kept σ s) : Kept σ (activateSlot s n confirms cmd) := by
  unfold activateSlot
  refine (hs.modCtl ?_).complete.warmReset
  split
  · extract_lets c1 c2
    have h1 : ctlView c1 = ctlView s.ctl := by
      unfold c1
      split
      · exact ctlView_putSlot _ _ _
      · rfl
    exact (ctlView_putSlot _ _ _).trans h1
  · exact ctlView_putSlot _ _ _

protected theorem Kept.execFwActivate {r} (hs : Kept σ s) : KR σ (execFwActivate r s) := by
  unfold execFwActivate
  refine hs.runCmd fun _ _ _ ht => ?_
  extract_lets
  split; · exact ht
  split; · exact ht.complete
  split; · exact ht.complete
  split; · exact ht.complete
  split
  · split; · exact ht.activateSlot
    exact ht.complete
  · split; · exact ht.complete
    exact ht.addAct.modCtl

protected theorem Kept.execFwRevert {r fail} (hs : Kept σ s) : KR σ (execFwRevert r fail s) := by
  unfold execFwRevert
  refine hs.runCmd fun _ _ _ ht => ?_
  split; · exact ht.complete
  split; · exact ht.complete
  rename_i e
  exact (ht.bootWrite.of _ e).complete.revertTrial

protected theorem Kept.execFwStatus {r} (hs : Kept σ s) : KR σ (execFwStatus r s) :=
  hs.runCmd fun _ _ _ ht => ht.cmdHostPut.complete

protected theorem Kept.execSecStatus {r} (hs : Kept σ s) : KR σ (execSecStatus r s) :=
  hs.runCmd fun _ _ _ ht => ht.complete

protected theorem Kept.execSecNonce {r} (hs : Kept σ s) : KR σ (execSecNonce r s) :=
  hs.runCmd fun _ _ _ ht => (Kept.draw ht).modCtl.cmdHostPut.complete

protected theorem Kept.execSecIdentity {r} (hs : Kept σ s) : KR σ (execSecIdentity r s) :=
  hs.runCmd fun _ _ _ ht => ht.cmdHostPut.complete

protected theorem Kept.execSecAttest {r} (hs : Kept σ s) : KR σ (execSecAttest r s) :=
  hs.runCmd fun _ _ _ ht => (Kept.draw ht).cmdHostPut.complete

/-! ### HostCmds -/

protected theorem Kept.execFabFence {r} (hs : Kept σ s) : KR σ (execFabFence r s) :=
  hs.runCmdIf fun _ _ _ ht => (ht.fenceModule.ite ht.fenceServices).complete

protected theorem Kept.execDevReset {r} (hs : Kept σ s) : KR σ (execDevReset r s) :=
  hs.runCmd fun _ _ _ ht => ht.complete.warmReset

protected theorem Kept.modHost {f} (hs : Kept σ s) : Kept σ (modHost s f) := hs.same

protected theorem Kept.execPerstAssert (hs : Kept σ s) : KR σ (execPerstAssert s) := by
  unfold execPerstAssert
  split; · exact KR.next hs
  extract_lets s1
  have hs1 : Kept σ s1 := hs.advance.modHost
  exact KR.next (hs1.convReset.ite hs1)

protected theorem Kept.execPerstDeassert (hs : Kept σ s) : KR σ (execPerstDeassert s) := KR.next hs.modHost

protected theorem Kept.execPcieLinkUp {rate width} (hs : Kept σ s) : KR σ (execPcieLinkUp rate width s) := by
  unfold execPcieLinkUp
  split; · exact KR.next hs
  exact KR.next hs.advanceTo.modHost

protected theorem Kept.execPcieLinkReset (hs : Kept σ s) : KR σ (execPcieLinkReset s) := by
  unfold execPcieLinkReset
  split; · exact KR.next hs.convReset.modHost
  exact KR.next hs

protected theorem Kept.execFlrPf0 (hs : Kept σ s) : KR σ (execFlrPf0 s) := by
  unfold execFlrPf0
  split; · exact KR.next hs
  exact KR.next hs.applyReset.removeVfs

protected theorem Kept.execFlrVf {t} (hs : Kept σ s) : KR σ (execFlrVf t s) := by
  unfold execFlrVf
  split; · exact KR.next hs.tenantReset
  exact KR.next hs

protected theorem Kept.execFlrPf1 (hs : Kept σ s) : KR σ (execFlrPf1 s) := by
  unfold execFlrPf1
  split; · exact KR.next hs.applyReset
  exact KR.next hs

protected theorem Kept.appearVf {t} (hs : Kept σ s) : Kept σ (appearVf s t) := by
  unfold appearVf
  exact hs.clearFunc.noteReset.modFunc

protected theorem Kept.execVfEnableWrite {v} (hs : Kept σ s) : KR σ (execVfEnableWrite v s) := by
  unfold execVfEnableWrite
  split; · exact KR.next hs
  split; · exact KR.next (Kept.foldl hs.modHost (fun _ _ ht => ht.appearVf))
  exact KR.next (Kept.foldl hs (fun _ _ ht => ht.tenantReset)).modHost.removeVfs

protected theorem Kept.execNumvfsWrite {n} (hs : Kept σ s) : KR σ (execNumvfsWrite n s) := by
  unfold execNumvfsWrite
  split; · exact KR.next hs
  extract_lets
  split; · exact KR.next hs.modHost
  split; · exact KR.next (Kept.foldl hs.modHost (fun _ _ ht => ht.appearVf))
  exact KR.next (Kept.foldl hs (fun _ _ ht => ht.tenantReset)).modHost.removeVfs

protected theorem Kept.joinAfterWarm (hs : Kept σ s) : Kept σ (joinAfterWarm s) := by
  unfold joinAfterWarm
  split; · exact hs
  extract_lets _ _ _ s3
  have hs3 : Kept σ s3 := by
    unfold s3
    split; · exact hs.same.flood
    exact hs.same.flood.flood
  exact hs3.irqAll.routeAll

protected theorem Kept.startDone {cold} (hs : Kept σ s) : Kept σ (startDone s cold) := by
  unfold startDone
  extract_lets _ s1 s2 s3
  have hs1 : Kept σ s1 := hs.ensureChosen.modCtl
  have hs2 : Kept σ s2 := by
    unfold s2
    split; · exact hs1.postEvent
    exact hs1
  have hs3 : Kept σ s3 := by
    unfold s3
    split; · exact hs2.postEvent
    exact hs2
  split
  · refine Kept.foldl hs3 fun _ _ ht => ?_
    split; · exact ht
    exact ht.timePortDown.setPortSt
  · split; · exact hs3.joinAfterWarm
    exact hs3

protected theorem Kept.execResetComplete {fn} (hs : Kept σ s) : KR σ (execResetComplete fn s) := by
  unfold execResetComplete
  split; · exact KR.next hs
  extract_lets _ s1 s2 s3
  have hs1 : Kept σ s1 := by
    unfold s1
    split; · exact hs.startDone
    exact hs
  have hs2 : Kept σ s2 := hs1.modHost
  have hs3 : Kept σ s3 := hs2.modFunc
  split; · exact KR.next hs
  split; · exact KR.next hs2
  exact KR.next (hs3.ite hs3.irqSet)

protected theorem Kept.tlpIn {fn n} (hs : Kept σ s) : Kept σ (tlpIn s fn n) := hs.modPort.countEvs.countEv

protected theorem Kept.execBar2Read {fn tag off len} (hs : Kept σ s) : KR σ (execBar2Read fn tag off len s) := by
  unfold execBar2Read
  split; · exact KR.next hs
  extract_lets
  split; · exact KR.next hs.tlpIn.emit
  exact KR.next hs.tlpIn.barArrive

protected theorem Kept.execBar2Write {fn off bytes} (hs : Kept σ s) : KR σ (execBar2Write fn off bytes s) := by
  unfold execBar2Write
  split; · exact KR.next hs
  extract_lets
  split; · exact KR.next hs.tlpIn
  exact KR.next hs.tlpIn.barArrive

protected theorem Kept.execBar2ReadTimeout {fn} (hs : Kept σ s) : KR σ (execBar2ReadTimeout fn s) := by
  unfold execBar2ReadTimeout
  split; · exact KR.next hs.advanceTo.modFunc.orphanRems.emit.irqSet.serveAll
  exact KR.next hs

protected theorem Kept.execBar0BadAccess {fn isRead} (hs : Kept σ s) : KR σ (execBar0BadAccess fn isRead s) := by
  unfold execBar0BadAccess
  split; · exact KR.next hs
  extract_lets s1
  have hs1 : Kept σ s1 := hs.tlpIn.irqSet
  exact KR.next (hs1.emit.ite hs1)

protected theorem Kept.execWinBaseWrite {fn wide value} (hs : Kept σ s) :
    KR σ (execWinBaseWrite fn wide value s) := by
  unfold execWinBaseWrite
  split; · exact KR.next hs
  exact KR.next hs.tlpIn.modFunc

protected theorem Kept.execMsixModerationTimer {fn v} (hs : Kept σ s) : KR σ (execMsixModerationTimer fn v s) := by
  unfold execMsixModerationTimer
  extract_lets
  split; · exact KR.next hs
  extract_lets s1
  have hs1 : Kept σ s1 := hs.advanceTo
  split; · exact KR.next hs1.putVec
  exact KR.next hs1.sendMsix

protected theorem Kept.sendPending {fn v} (hs : Kept σ s) : Kept σ (sendPending fn s v) := by
  unfold sendPending
  extract_lets
  split; · exact hs.sendMsix
  exact hs

protected theorem Kept.execMsixUnmask {fn v} (hs : Kept σ s) : KR σ (execMsixUnmask fn v s) := by
  unfold execMsixUnmask
  split; · exact KR.next hs
  split
  · split; · exact KR.next hs
    exact KR.next hs.putVec.sendPending
  · exact KR.next (Kept.foldl hs.modFunc (fun _ _ ht => ht.sendPending))

protected theorem Kept.execAtsInvalidate {fn page n} (hs : Kept σ s) : KR σ (execAtsInvalidate fn page n s) := by
  unfold execAtsInvalidate
  split; · exact KR.next hs
  exact KR.next hs.modHost.settleInval

protected theorem Kept.hostReqFail {x addr code} (hs : Kept σ s) : Kept σ (hostReqFail s x addr code) := by
  unfold hostReqFail
  exact hs.postEvent

protected theorem Kept.dropRead {x} (hs : Kept σ s) : Kept σ (dropRead s x) := hs.modHost

protected theorem Kept.cmdHostFail {x} (hs : Kept σ s) : Kept σ (cmdHostFail s x) := by
  unfold cmdHostFail
  extract_lets s1 s2
  have hs1 : Kept σ s1 := hs.forgetCmd
  have hs2 : Kept σ s2 := by
    unfold s2
    split; · exact hs1.undoCmd
    exact hs1
  exact hs2.complete

protected theorem Kept.consArrive {i cons} (hs : Kept σ s) : Kept σ (consArrive s i cons) := by
  unfold consArrive
  split; · exact hs
  extract_lets
  split; · exact hs.modSeq.modSeq
  exact hs.modSeq.flushSeq

protected theorem Kept.streamFail {i} (hs : Kept σ s) : Kept σ (streamFail s i) := hs.modSeq.endSeq

protected theorem Kept.xferFail {x addr code} (hs : Kept σ s) : Kept σ (xferFail s x addr code) := by
  unfold xferFail
  extract_lets s1
  have hs1 : Kept σ s1 := hs.dropRead.hostReqFail
  split
  · exact hs1.mboxError
  · exact hs1.mboxError
  · split; · exact hs1.cmdHostFail
    exact hs1
  · split; · exact hs1.poisonMig
    exact hs1
  · exact hs1.streamFail
  · exact hs1.nvArrive

protected theorem Kept.execHostCompletion {x code addr data} (hs : Kept σ s) :
    KR σ (execHostCompletion x code addr data s) := by
  unfold execHostCompletion
  split; · exact KR.next hs
  split
  · split; · exact KR.next hs.xferFail.settleInval.serveAll
    exact KR.next hs
  · split; · exact KR.next hs
    extract_lets _ _ _ s2
    have hs2 : Kept σ s2 := hs.dropRead.tlpIn.modHost
    refine KR.next ?_
    refine Kept.settleInval ?_
    split
    · exact hs2.modInfl
    · exact hs2.consArrive
    · exact hs2.nvArrive
    · exact hs2

protected theorem Kept.execCompletionTimeout {x addr} (hs : Kept σ s) : KR σ (execCompletionTimeout x addr s) := by
  unfold execCompletionTimeout
  split; · exact KR.next hs.xferFail.settleInval.serveAll
  exact KR.next hs

protected theorem Kept.execHostIngressCommit {f word} (hs : Kept σ s) : KR σ (execHostIngressCommit f word s) := by
  unfold execHostIngressCommit
  split; · exact KR.next hs
  extract_lets s1
  have hs1 : Kept σ s1 := hs.tlpIn.modIngress
  split; · exact KR.next hs1
  split; · exact KR.next hs1.modIngress.serveAll
  exact KR.next hs1.modHost

/-! ### Electrical -/

protected theorem Kept.bringUp {cores hbms chans ports ctlFail} (hs : Kept σ s) :
    Kept σ (bringUp s cores hbms chans ports ctlFail) := by
  unfold bringUp
  extract_lets _ _ _ _ s4
  have hs4 : Kept σ s4 := Kept.foldl (Kept.foldl (Kept.foldl (Kept.foldl hs (fun _ _ ht =>
    ht.fenceCore)) (fun _ _ ht => ht.fenceStack)) (fun _ _ ht => ht.fenceChan)) (fun _ _ ht => ht.fencePort)
  split; · exact hs4.ensureChosen.warmReset
  exact hs4

protected theorem Kept.powerGone (hs : Kept σ s) : Kept σ (powerGone s) := by
  unfold powerGone
  exact hs.coldStart.modCtl.modStore

protected theorem Kept.execPowerApplied {cores hbms chans ports ctlFail} (hs : Kept σ s) :
    KR σ (execPowerApplied cores hbms chans ports ctlFail s) := by
  unfold execPowerApplied
  extract_lets s0 s1
  have hs0 : Kept σ s0 := by
    unfold s0
    split; · exact hs
    exact hs.powerGone
  have hs1 : Kept σ s1 := hs0.coldStart.modStore
  split; · exact KR.next hs1
  exact KR.next hs1.bringUp

protected theorem Kept.execInputShutdown (hs : Kept σ s) : KR σ (execInputShutdown s) := by
  unfold execInputShutdown
  split; · exact KR.next hs
  exact KR.next hs.powerGone

protected theorem Kept.execCoolantWaitEnd {flow cores hbms chans ports ctlFail} (hs : Kept σ s) :
    KR σ (execCoolantWaitEnd flow cores hbms chans ports ctlFail s) := by
  unfold execCoolantWaitEnd
  split
  · split; · exact KR.next hs
    extract_lets s1
    have hs1 : Kept σ s1 := hs.advance
    exact KR.next hs1.same.modCtl.bringUp
  · exact KR.next hs

protected theorem Kept.execJtagInstructionLoad {dev i} (hs : Kept σ s) : KR σ (execJtagInstructionLoad dev i s) := by
  unfold execJtagInstructionLoad
  split; · exact KR.next hs
  extract_lets s1 _
  have hs1 : Kept σ s1 := hs.modCtl
  split
  · split; · exact KR.next (hs1.same.convReset.modHost.ite hs1.same)
    split; · exact KR.next (Kept.foldl hs1.same (fun _ _ ht => ht.portDown))
    exact KR.next hs1.same
  · split; · exact KR.fault
    exact KR.next hs1
  · exact KR.next hs1

protected theorem Kept.writeBlock {fn off v} (hs : Kept σ s) : Kept σ (writeBlock s fn off v) := by
  unfold writeBlock
  split; · exact hs.modFunc
  split; · exact hs.modTime
  split; · exact hs.modFunc
  split; · exact hs.modFunc
  split
  · split; · exact hs
    exact hs.modFunc
  · split; · exact hs.modAtlas
    split
    · split; · exact hs
      exact hs.modFunc
    · split; · exact Kept.foldl hs fun _ _ ht => ht.putVec
      exact hs

protected theorem Kept.writeIngress {off v} (hs : Kept σ s) : Kept σ (writeIngress s off v) := by
  unfold writeIngress
  split; · exact hs.modHost
  split; · exact hs
  split
  · split; · exact hs
    exact hs.modIngress.capCheck.serveAll
  · split; · exact hs.modIngress
    exact hs

protected theorem Kept.writeRwb {fn f} (hs : Kept σ s) : Kept σ (writeRwb s fn f) := hs.setMbox

protected theorem Kept.writePage {fn m off v} (hs : Kept σ s) : Kept σ (writePage s fn m off v) := by
  unfold writePage
  split; · exact hs.setMbox
  split; · exact hs
  split; · exact hs.writeRwb
  split; · exact hs.writeRwb
  split; · exact hs.writeRwb
  split; · exact hs.writeRwb
  split; · exact hs.writeRwb
  split; · exact hs.setMbox
  exact hs

protected theorem Kept.writeVec {fn n off v} (hs : Kept σ s) : Kept σ (writeVec s fn n off v) := by
  unfold writeVec
  split; · exact hs
  extract_lets
  split; · exact hs.putVec
  split; · exact hs.putVec
  split; · exact hs.putVec
  exact hs.putVec.sendPending

protected theorem Kept.writeNvme {off v} (hs : Kept σ s) : Kept σ (writeNvme s off v) :=
  hs.writeVec.ite <| hs.modStore.ite <| hs.modStore.ite <| hs.writeCc.ite <| hs.modStore.ite <| hs.modStore.ite <|
    hs.modStore.ite <| hs.modStore.ite <| hs.modStore.ite hs

protected theorem Kept.writeWord {fn off v} (hs : Kept σ s) : Kept σ (writeWord fn s off v) := by
  unfold writeWord
  split
  · split; · exact hs.writeNvme
    exact hs
  · split; · exact hs.writeBlock
    split
    · split; · exact hs.writeIngress
      split; · exact hs.writePage
      split; · exact hs.writeVec
      exact hs
    · split; · exact hs.writePage
      split; · exact hs.writeVec
      exact hs

protected theorem Kept.execRegisterWrite {fn w} (hs : Kept σ s) : KR σ (execRegisterWrite fn w s) := by
  unfold execRegisterWrite
  split; · exact KR.next hs
  split
  · split; · exact KR.next (hs.ite hs.irqSet)
    extract_lets s1 s2
    have hs1 : Kept σ s1 := by
      unfold s1
      split; · exact hs
      exact hs.tlpIn
    have hs2 : Kept σ s2 := hs1.writeWord
    exact KR.next (hs2.writeWord.ite hs2)
  · exact KR.next (Kept.foldl hs.modFunc (fun _ _ ht => ht.sendPending))
  · exact KR.next (hs.ite hs.modFunc)
  · exact KR.next (hs.ite hs.modFunc)

/-! ### FaultRing -/

protected theorem Kept.releaseHolder {h} (hs : Kept σ s) : Kept σ (releaseHolder s h) := by
  unfold releaseHolder
  split
  · split; · exact hs
    split; · exact hs.complete
    exact hs
  · exact hs.settleCore
  · exact hs.flushSeq
  · exact hs

protected theorem Kept.ringFull {t} (hs : Kept σ s) : Kept σ (ringFull s t) := hs.updCtx

protected theorem Kept.execFaultRingWrite {t ok} (hs : Kept σ s) : KR σ (execFaultRingWrite t ok s) := by
  unfold execFaultRingWrite
  extract_lets
  split; · exact KR.next hs
  split; · exact KR.next hs.ringFull
  split; · exact KR.next hs
  split; · exact KR.next hs.setCtx
  split; · exact KR.next hs
  extract_lets _ _ s2 s3
  have hs2 : Kept σ s2 := hs.setCtx.hostPut.hostPut
  have hs3 : Kept σ s3 := by
    unfold s3
    split; · exact hs2.msixEvent
    exact hs2
  exact KR.next hs3.releaseHolder

/-! ### TenCmds -/

protected theorem Kept.modTen {t f} (hs : Kept σ s) : Kept σ (modTen s t f) := hs.same

protected theorem Kept.execTenEnable {r} (hs : Kept σ s) : KR σ (execTenEnable r s) := by
  unfold execTenEnable
  refine hs.runCmdIf fun _ _ _ ht => ?_
  extract_lets
  split; · exact ht
  split; · exact ht.complete
  exact ht.modTen.setCtx.irqSet.complete

protected theorem Kept.execTenDisable {r} (hs : Kept σ s) : KR σ (execTenDisable r s) := by
  unfold execTenDisable
  refine hs.runCmdIf fun _ _ _ ht => ?_
  extract_lets
  split; · exact ht
  split; · exact ht.complete
  exact ht.tenantReset.modTen.modAtlas.irqSet.modInfl

protected theorem Kept.leaveCores {t} (hs : Kept σ s) : Kept σ (leaveCores s t) :=
  Kept.foldl (Kept.foldl hs (fun _ _ ht' => ht'.startSave)) (fun _ _ ht' => ht'.stopRestore)

protected theorem Kept.execTenConfig {r} (hs : Kept σ s) : KR σ (execTenConfig r s) := by
  unfold execTenConfig
  refine hs.runCmd fun _ _ _ ht => ?_
  extract_lets
  split; · exact ht
  split; · exact ht.complete
  exact (Kept.foldl ht.modTen (fun _ _ ht' => ht'.demoteExcess)).leaveCores.placement.irqSet.complete

protected theorem Kept.execTenQuery {r} (hs : Kept σ s) : KR σ (execTenQuery r s) := by
  unfold execTenQuery
  refine hs.runCmd fun _ _ _ ht => ?_
  extract_lets
  split; · exact ht.complete
  split; · exact ht
  exact ht.cmdHostPut.complete

/-! ### PerfCmds -/

protected theorem Kept.modUnit {src f} (hs : Kept σ s) : Kept σ (modUnit s src f) := hs.same

protected theorem Kept.execPerfSelect {r} (hs : Kept σ s) : KR σ (execPerfSelect r s) :=
  hs.runCmd fun _ _ _ ht => ht.modUnit.complete

protected theorem Kept.recordTaken {src} (hs : Kept σ s) : Kept σ (recordTaken s src) := by
  unfold recordTaken
  extract_lets _ _ s1
  have hs1 : Kept σ s1 := hs.freeTick.same
  split; · exact hs1
  exact hs1.modUnit

protected theorem Kept.execPerfRead {r} (hs : Kept σ s) : KR σ (execPerfRead r s) :=
  hs.runCmd fun _ _ _ ht => (Kept.foldl ht (fun _ _ ht' => ht'.recordTaken)).cmdHostPut.complete

protected theorem Kept.execPerfSurvey {r} (hs : Kept σ s) : KR σ (execPerfSurvey r s) :=
  hs.runCmd fun _ _ _ ht => ht.same.complete

protected theorem Kept.surveyPut {v cons q src} (hq : KP σ q) : KP σ (surveyPut v cons q src) := by
  unfold surveyPut
  extract_lets _ s1
  have hs1 : Kept σ s1 := hq.fst.hostPutS.recordTaken
  split; · exact KP.intro hq.fst.modUnit
  exact KP.intro (hs1.ite hs1.modUnit)

protected theorem Kept.execSurveyPeriod {cons} (hs : Kept σ s) : KR σ (execSurveyPeriod cons s) := by
  unfold execSurveyPeriod
  split; · exact KR.next hs
  extract_lets per s1 q put
  have hq : KP σ q := KP.foldl (KP.intro hs.advance) fun _ _ hp => Kept.surveyPut hp
  have hput : Kept σ put := hq.fst.hostPutS
  exact KR.next hput.same

/-! ### PowerCmds -/

protected theorem Kept.execGovernorPeriod {pmeas work flashOver} (hs : Kept σ s) :
    KR σ (execGovernorPeriod pmeas work flashOver s) := by
  unfold execGovernorPeriod
  split; · exact KR.next hs
  exact KR.next (Kept.draw hs.advance.planEnd).modPower.modStore

protected theorem Kept.enterStage {k} (hs : Kept σ s) : Kept σ (enterStage s k) := by
  unfold enterStage
  split; · exact hs
  extract_lets _ _ _ s4 s5
  have hs4 : Kept σ s4 := hs.modPower.setStageRate.irqSet.mgmtEvent.freeTick.clampNote
  have hs5 : Kept σ s5 := by
    unfold s5
    split; · exact hs4.publishDrop
    exact hs4
  split; · exact hs5.fenceModule.modStore
  exact hs5

protected theorem Kept.sinceMarks (hs : Kept σ s) : Kept σ (sinceMarks s) := hs.modPower
protected theorem Kept.refreshShadow (hs : Kept σ s) : Kept σ (refreshShadow s) := hs.modPower

protected theorem Kept.execSensorSample {inlet outlet flow dies temp} (hs : Kept σ s) :
    KR σ (execSensorSample inlet outlet flow dies temp s) := by
  unfold execSensorSample
  split; · exact KR.next hs
  extract_lets _ s1
  have hs1 : Kept σ s1 := hs.advance.modPower
  split; · exact KR.next hs1
  exact KR.next (hs1.modStore.critNote.clampNote).sinceMarks.enterStage.refreshShadow

protected theorem Kept.pubWrite {q ack} (hs : Kept σ s) : Kept σ (pubWrite s q ack) := by
  unfold pubWrite
  extract_lets
  split; · exact hs.modPower.emit
  split; · exact hs.modPower.mgmtEvent
  exact hs.modPower

protected theorem Kept.execPlanPublish {ack} (hs : Kept σ s) : KR σ (execPlanPublish ack s) := by
  unfold execPlanPublish
  split; · exact KR.next hs
  exact KR.next hs.pubWrite

protected theorem Kept.execPlanPublishRetry {ack} (hs : Kept σ s) : KR σ (execPlanPublishRetry ack s) := by
  unfold execPlanPublishRetry
  split; · exact KR.next hs
  exact KR.next hs.advanceTo.pubWrite

protected theorem Kept.execPmbusArbitrationLoss (hs : Kept σ s) : KR σ (execPmbusArbitrationLoss s) := by
  unfold execPmbusArbitrationLoss
  split; · exact KR.next hs
  exact KR.next hs.modPower

protected theorem Kept.frameGone {f} (hs : Kept σ s) : Kept σ (frameGone s f) := by
  unfold frameGone
  extract_lets _ s2
  have hs2 : Kept σ s2 := hs.tagFrame.modPower.postEvent
  split; · exact hs2.fenceStack.checkLimits
  exact hs2

protected theorem Kept.retireFrame {f} (hs : Kept σ s) : Kept σ (retireFrame s f) := by
  unfold retireFrame
  extract_lets wait
  have hwait : Kept σ wait := by
    unfold wait
    split; · exact hs
    exact hs.modPower
  split
  · exact hs.frameGone
  · exact hs
  · exact hwait
  · split; · exact hwait
    split; · exact hwait
    split; · exact hwait
    exact hs.tagFrame.setLeaf.frameGone

protected theorem Kept.execFrameZeroed {frame} (hs : Kept σ s) : KR σ (execFrameZeroed frame s) := by
  unfold execFrameZeroed
  split
  · extract_lets s1
    have hs1 : Kept σ s1 := hs.modAtlas
    exact KR.next (hs1.frameGone.ite hs1)
  · exact KR.next hs

protected theorem Kept.fecNote {unit} (hs : Kept σ s) : Kept σ (fecNote s unit) := by
  unfold fecNote
  split; · exact hs.modPort.countEv
  exact hs

protected theorem Kept.execCorrectedError {site from0 arg} (hs : Kept σ s) :
    KR σ (execCorrectedError site from0 arg s) := by
  unfold execCorrectedError
  extract_lets _ _ _ _ s2 _ s3
  have hs2 : Kept σ s2 := hs.postEvent.modUnit.fecNote
  have hs3 : Kept σ s3 := hs2.modPower
  split; · exact KR.next hs
  split; · exact KR.next hs2
  exact KR.next (hs3.retireFrame.serveAll.ite hs3)

protected theorem Kept.errorAct {site unit a b} (hs : Kept σ s) : Kept σ (errorAct s site unit a b) := by
  unfold errorAct
  split
  · split; · exact hs.poisonTile
    exact hs
  · exact hs.loseTable
  · split; · exact hs.eccAbort
    exact hs
  · split; · exact hs.eccAbort
    exact hs
  · split; · exact hs.fenceCore.checkLimits
    exact hs
  · exact hs.loseText
  · split; · exact hs.portDown.checkLimits
    exact hs
  · split; · exact hs.fenceStack.checkLimits
    exact hs
  · exact hs.warmReset
  · exact hs

protected theorem Kept.execUncorrectableError {site unit a b} (hs : Kept σ s) :
    KR σ (execUncorrectableError site unit a b s) := by
  unfold execUncorrectableError
  split; · exact KR.next hs
  exact KR.next hs.modUnit.errorAct.serveAll

/-! ### PwrCmds -/

protected theorem Kept.applyCap {e} (hs : Kept σ s) : Kept σ (applyCap s e) :=
  hs.modPower.clampNote.publishCap

protected theorem Kept.finishCap {r e} (hs : Kept σ s) : Kept σ (finishCap s r e) := hs.applyCap.complete

protected theorem Kept.execPwrCap {r} (hs : Kept σ s) : KR σ (execPwrCap r s) := by
  unfold execPwrCap
  refine hs.runCmd fun _ _ _ ht => ?_
  split; · exact ht
  split; · exact ht.finishCap
  exact ht.schedCmd

protected theorem Kept.loadEntries {keep new} (hs : Kept σ s) : KO (Kept σ) (loadEntries s keep new) := by
  unfold loadEntries
  extract_lets
  split; · exact KO.none
  exact KO.some (Kept.foldl hs.modPower (fun _ _ ht => ht.addPub))

protected theorem Kept.execPwrPlan {r} (hs : Kept σ s) : KR σ (execPwrPlan r s) := by
  unfold execPwrPlan
  refine hs.runCmd fun _ _ _ ht => ?_
  extract_lets _ _ _ load
  split
  · unfold load
    split; · exact ht.complete
    split; · exact ht.complete
    rename_i e1
    exact (ht.loadEntries.of _ e1).complete
  · split; · exact ht.askHost
    split; · exact ht.badParam
    unfold load
    split; · exact ht.complete
    split; · exact ht.complete
    rename_i e2
    exact (ht.loadEntries.of _ e2).complete

protected theorem Kept.execPwrStatus {r} (hs : Kept σ s) : KR σ (execPwrStatus r s) :=
  hs.runCmd fun _ _ _ ht => ht.cmdHostPut.complete

protected theorem Kept.execPwrShelf {r} (hs : Kept σ s) : KR σ (execPwrShelf r s) :=
  hs.runCmd fun _ _ _ ht => ht.modPower.complete

protected theorem Kept.fenceNamed {src sub} (hs : Kept σ s) : KO (Kept σ) (fenceNamed s src sub) := by
  unfold fenceNamed
  split; · exact KO.some hs.fenceCore
  split; · exact KO.some hs.fenceStack
  split; · exact KO.some hs.fencePort
  split; · exact KO.some hs.fenceChan
  exact KO.none

protected theorem Kept.execPwrFence {r} (hs : Kept σ s) : KR σ (execPwrFence r s) := by
  unfold execPwrFence
  refine hs.runCmd fun _ _ _ ht => ?_
  split; · exact ht.complete
  rename_i e'
  split; · exact ht.complete
  exact (ht.fenceNamed.of _ e').complete

protected theorem Kept.unitRegRead {src off} (hs : Kept σ s) : Kept σ (unitRegRead s src off) := by
  unfold unitRegRead
  split; · exact hs.modUnit
  split; · exact hs.modUnit
  split
  · split
    · exact hs.modCore
    · exact hs.modCore
    · exact hs
  · split
    · extract_lets
      split
      · exact hs.modPort
      · exact hs.modPort
      · exact hs.modPort
      · exact hs.modPort
      · exact hs
    · exact hs

protected theorem Kept.unitRegWrite {src off v} (hs : Kept σ s) : Kept σ (unitRegWrite s src off v) := by
  unfold unitRegWrite
  split
  · split
    · exact hs.modCore
    · exact hs.modCore
    · exact hs.modCore
    · split; · exact hs.modCore
      exact hs
    · exact hs
  · split
    · extract_lets
      split; · exact hs
      exact hs.modPort
    · exact hs

protected theorem Kept.execPwrUnitregRead {r} (hs : Kept σ s) : KR σ (execPwrUnitregRead r s) := by
  unfold execPwrUnitregRead
  refine hs.runCmdIf fun _ _ _ ht => ?_
  extract_lets _ _ s2 s3
  have hs2 : Kept σ s2 := ht.unitRegRead
  have hs3 : Kept σ s3 := by
    unfold s3
    split; · exact hs2.unitRegRead
    exact hs2
  exact hs3.complete

protected theorem Kept.execPwrUnitregWrite {r} (hs : Kept σ s) : KR σ (execPwrUnitregWrite r s) := by
  unfold execPwrUnitregWrite
  refine hs.runCmdIf fun _ _ _ ht => ?_
  extract_lets _ _ s2 s3
  have hs2 : Kept σ s2 := ht.unitRegWrite
  have hs3 : Kept σ s3 := by
    unfold s3
    split; · exact hs2.unitRegWrite
    exact hs2
  exact hs3.complete

/-! ### ModeCmds -/

protected theorem Kept.takeAct {num} (hs : Kept σ s) : Kept σ (takeAct s num) := hs.modTime

protected theorem Kept.endAct {a status} (hs : Kept σ s) : Kept σ (endAct s a status) := by
  unfold endAct
  split; · exact hs
  extract_lets
  split
  · exact hs.complete
  · split; · exact hs.endBlock
    exact hs.complete
  · exact hs.complete

protected theorem Kept.applyAct {a} (hs : Kept σ s) : Kept σ (applyAct s a) := by
  unfold applyAct
  extract_lets s1
  have hs1 : Kept σ s1 := hs.takeAct
  split
  · split; · exact hs1.commitRoutes.endAct
    split; · exact hs1.badParam
    exact hs1
  · exact hs.modTime.settleGateActs
  · split; · exact hs1.finishShaper
    exact hs1.applyShaper
  · split; · exact hs1.finishServe
    exact hs1
  · exact hs1.swapModel
  · exact hs1.swapIndex
  · split; · exact hs1
    split; · exact hs1.activateSlot
    exact hs1.modCtl.endAct
  · split; · exact hs1.finishCap
    exact hs1.applyCap

protected theorem Kept.dropEnd {status a} (hs : Kept σ s) : Kept σ (dropEnd status s a) := hs.dropAct.endAct

protected theorem Kept.execScheduledActionApply {num} (hs : Kept σ s) : KR σ (execScheduledActionApply num s) := by
  unfold execScheduledActionApply
  split; · exact KR.next hs
  split; · exact KR.next hs
  extract_lets s1
  have hs1 : Kept σ s1 := hs.advanceMer
  exact KR.next (hs1.dropEnd.ite hs1.applyAct)

protected theorem Kept.modeRead {q} (hs : Kept σ s) : Kept σ (modeRead s q) := hs.police.fst.doneMsg

protected theorem Kept.execArmMessage (hs : Kept σ s) : KR σ (execArmMessage s) := by
  unfold execArmMessage
  split; · exact KR.next hs
  extract_lets s1
  have hs1 : Kept σ s1 := hs.modeRead
  split; · exact KR.next hs1.sendOrd.routeAll
  exact KR.next hs1.modTime.sendOrd.routeAll

protected theorem Kept.execConfirmMessage (hs : Kept σ s) : KR σ (execConfirmMessage s) := by
  unfold execConfirmMessage
  split; · exact KR.next hs
  exact KR.next hs.modeRead.modTime

protected theorem Kept.dropChange {coord id} (hs : Kept σ s) : Kept σ (dropChange s coord id) := hs.modTime

protected theorem Kept.execDisarmMessage (hs : Kept σ s) : KR σ (execDisarmMessage s) := by
  unfold execDisarmMessage
  split; · exact KR.next hs
  exact KR.next (Kept.foldl hs.modeRead.dropChange (fun _ _ ht => ht.dropEnd))

protected theorem Kept.execModeChangeActivate {coord id} (hs : Kept σ s) :
    KR σ (execModeChangeActivate coord id s) := by
  unfold execModeChangeActivate
  split; · exact KR.next hs
  extract_lets s1
  have hs1 : Kept σ s1 := hs.advanceMer.dropChange
  split; · exact KR.next (Kept.foldl (Kept.routeAll (Kept.sendOrd (Kept.foldl hs1 (fun _ _ ht =>
        ht.applyAct)))) (fun _ _ ht => ht.applyAct))
  exact KR.next (Kept.foldl hs1.fenceServices (fun _ _ ht => ht.dropEnd)).postEvent.sendOrd.routeAll

protected theorem Kept.execArmedMessage (hs : Kept σ s) : KR σ (execArmedMessage s) := by
  unfold execArmedMessage
  split; · exact KR.next hs
  exact KR.next hs.modeRead.modCoord

protected theorem Kept.execNotarmedMessage (hs : Kept σ s) : KR σ (execNotarmedMessage s) := by
  unfold execNotarmedMessage
  split; · exact KR.next hs
  exact KR.next hs.modeRead.modCoord

protected theorem Kept.execArmDecision {id} (hs : Kept σ s) : KR σ (execArmDecision id s) := by
  unfold execArmDecision
  split; · exact KR.next hs
  split; · exact KR.next hs
  extract_lets s1
  have hs1 : Kept σ s1 := hs.advanceMer
  exact KR.next (hs1.sendParts.modCoord.ite hs1.disarm)

protected theorem Kept.endArm {c} (hs : Kept σ s) : Kept σ (endArm s c) := hs.modTime.complete

protected theorem Kept.execReportMessage (hs : Kept σ s) : KR σ (execReportMessage s) := by
  unfold execReportMessage
  split; · exact KR.next hs
  extract_lets _ s1
  have hs1 : Kept σ s1 := hs.modeRead.modCoord
  split; · exact KR.next hs1
  exact KR.next (hs1.endArm.ite hs1)

protected theorem Kept.execReportDeadline {id} (hs : Kept σ s) : KR σ (execReportDeadline id s) := by
  unfold execReportDeadline
  split; · exact KR.next hs
  split; · exact KR.next hs
  exact KR.next hs.advanceMer.endArm

/-! ### Pools -/

protected theorem Kept.startMove {q m v mv} (hs : Kept σ s) : Kept σ (startMove s q m v mv) := hs.modSv.modJob

protected theorem Kept.execRebalancePeriod {h n} (hs : Kept σ s) : KR σ (execRebalancePeriod h n s) := by
  unfold execRebalancePeriod
  split
  · split; · exact KR.next hs
    extract_lets s1 mv
    have hs1 : Kept σ s1 := hs.advanceTo
    refine KR.next ?_
    clear_value mv
    split; · exact hs1.modSv.startMove
    exact hs1.modSv
  · exact KR.next hs

protected theorem Kept.emptyJc {j mask c} (hs : Kept σ s) : Kept σ (emptyJc j mask s c) := by
  unfold emptyJc
  split; · exact hs.clearSlot.unplaceJc.modJc
  exact hs

protected theorem Kept.execPoolMoveRelease {h n} (hs : Kept σ s) : KR σ (execPoolMoveRelease h n s) := by
  unfold execPoolMoveRelease
  split
  · split; · exact KR.next hs
    extract_lets _ _ _ s1
    have hs1 : Kept σ s1 := by
      unfold s1
      split; · exact Kept.foldl hs fun _ _ ht => ht.emptyJc
      exact hs
    split; · exact KR.next hs
    exact KR.next hs1.modSv.applyPools
  · exact KR.next hs

protected theorem Kept.execKvColdTimer {slot} (hs : Kept σ s) : KR σ (execKvColdTimer slot s) := by
  unfold execKvColdTimer
  split; · exact KR.next hs
  split; · exact KR.next hs
  extract_lets _ s1 s2 s3
  have hs1 : Kept σ s1 := hs.advanceTo
  have hs2 : Kept σ s2 := by
    unfold s2
    split; · exact hs1.kvCold
    exact hs1
  have hs3 : Kept σ s3 := by
    unfold s3
    split; · exact hs2.kvCold
    exact hs2
  exact KR.next hs3.modSeq

end Sys2Proof.Safety
end

section
/-! `Kept` for every command but the two that write the fuses; what those two do to the life cycle (R442). -/

namespace Sys2Proof.Safety

open Sys2Proof.Machine Sys2Proof.Laws

/- The proofs run in turn: side by side, the threads that wait for each other's case splits exhaust the memory. -/
set_option Elab.async false

variable {σ s : State}

/-- Every command but FW.CONFIRM and SEC.LIFECYCLE keeps: those two write the record that the fuses mirror. -/
theorem exec_kept {c : Instr} (s : State) (hl : ∀ r n, c ≠ .secLifecycle r n) (hf : ∀ r n, c ≠ .fwConfirm r n) :
    KR s (exec c s) := by
  have h := Kept.refl s
  cases c with
  | commandFetch => exact h.execCommandFetch
  | nop => exact h.execNop
  | fenceLocal => exact h.execFenceLocal
  | fenceAtlas => exact h.execFenceAtlas
  | semWait => exact h.execSemWait
  | semSignal => exact h.execSemSignal
  | semWaitTimeout => exact h.execSemWaitTimeout
  | memWait => exact h.execMemWait
  | memWaitPoll => exact h.execMemWaitPoll
  | memWaitTimeout => exact h.execMemWaitTimeout
  | memAtomic => exact h.execMemAtomic
  | spadRegion => exact h.execSpadRegion
  | spadSegmentUp => exact h.execSpadSegmentUp
  | spadSegmentDown => exact h.execSpadSegmentDown
  | segmentWakeDone => exact h.execSegmentWakeDone
  | segmentOff => exact h.execSegmentOff
  | arrayPass => exact h.execArrayPass
  | passFirstPlane => exact h.execPassFirstPlane
  | accumulatorWrite => exact h.execAccumulatorWrite
  | arrayDrain => exact h.execArrayDrain
  | drainStart => exact h.execDrainStart
  | drainComplete => exact h.execDrainComplete
  | tmMove => exact h.execTmMove
  | tmGather => exact h.execTmGather
  | tmScatter => exact h.execTmScatter
  | tmRunDone => exact h.execTmRunDone
  | tmHintWillneed => exact h.execTmHintWillneed
  | tmHintCold => exact h.execTmHintCold
  | tmHintDemote => exact h.execTmHintDemote
  | vuLd => exact h.execVuLd
  | vuSt => exact h.execVuSt
  | vuAdd => exact h.execVuAdd
  | vuSub => exact h.execVuSub
  | vuMul => exact h.execVuMul
  | vuFma => exact h.execVuFma
  | vuMin => exact h.execVuMin
  | vuMax => exact h.execVuMax
  | vuAbs => exact h.execVuAbs
  | vuNeg => exact h.execVuNeg
  | vuDiv => exact h.execVuDiv
  | vuSqrt => exact h.execVuSqrt
  | vuAnd => exact h.execVuAnd
  | vuOr => exact h.execVuOr
  | vuXor => exact h.execVuXor
  | vuShl => exact h.execVuShl
  | vuShr => exact h.execVuShr
  | vuSar => exact h.execVuSar
  | vuPopc => exact h.execVuPopc
  | vuHamm => exact h.execVuHamm
  | vuCvt => exact h.execVuCvt
  | vuCmp => exact h.execVuCmp
  | vuSel => exact h.execVuSel
  | vuRsum => exact h.execVuRsum
  | vuRmax => exact h.execVuRmax
  | vuExp2 => exact h.execVuExp2
  | vuLog2 => exact h.execVuLog2
  | vuRsqrt => exact h.execVuRsqrt
  | vuTanh => exact h.execVuTanh
  | vuSoftmax => exact h.execVuSoftmax
  | vuBsort => exact h.execVuBsort
  | vuBmerge => exact h.execVuBmerge
  | vuTopk => exact h.execVuTopk
  | vuCompact => exact h.execVuCompact
  | vuSample => exact h.execVuSample
  | plotDone => exact h.execPlotDone
  | stealRequest => exact h.execStealRequest
  | stealRequestArrival => exact h.execStealRequestArrival
  | stealRetry => exact h.execStealRetry
  | searchOpen => exact h.execSearchOpen
  | searchClose => exact h.execSearchClose
  | searchQuery => exact h.execSearchQuery
  | searchUpdate => exact h.execSearchUpdate
  | searchResurveyStart => exact h.execSearchResurveyStart
  | searchResurveyAbort => exact h.execSearchResurveyAbort
  | searchSwap => exact h.execSearchSwap
  | searchBatchStart => exact h.execSearchBatchStart
  | searchBatchEnd => exact h.execSearchBatchEnd
  | resurveyBuildDone => exact h.execResurveyBuildDone
  | resurveyYield => exact h.execResurveyYield
  | atlasMap => exact h.execAtlasMap
  | atlasUnmap => exact h.execAtlasUnmap
  | atlasProtect => exact h.execAtlasProtect
  | atlasPin => exact h.execAtlasPin
  | atlasUnpin => exact h.execAtlasUnpin
  | atlasHintWillneed => exact h.execAtlasHintWillneed
  | atlasHintCold => exact h.execAtlasHintCold
  | atlasHintDemote => exact h.execAtlasHintDemote
  | atlasZero => exact h.execAtlasZero
  | atlasPeerCreate => exact h.execAtlasPeerCreate
  | atlasPeerRemove => exact h.execAtlasPeerRemove
  | atlasLend => exact h.execAtlasLend
  | atlasHreg => exact h.execAtlasHreg
  | atlasHunreg => exact h.execAtlasHunreg
  | atlasFring => exact h.execAtlasFring
  | atlasPolicy => exact h.execAtlasPolicy
  | atlasQueryEntries => exact h.execAtlasQueryEntries
  | atlasQueryUsage => exact h.execAtlasQueryUsage
  | atlasTranspose => exact h.execAtlasTranspose
  | translationWalk => exact h.execTranslationWalk
  | promotionComplete => exact h.execPromotionComplete
  | demotionComplete => exact h.execDemotionComplete
  | hubAccess => exact h.execHubAccess
  | heatDecay => exact h.execHeatDecay
  | frameZeroed => exact h.execFrameZeroed
  | faultRingWrite => exact h.execFaultRingWrite
  | fringCidxWrite => exact h.execFringCidxWrite
  | jobCreate => exact h.execJobCreate
  | jobPlots => exact h.execJobPlots
  | jobResumeRetry => exact h.execJobResumeRetry
  | jobResumeSkip => exact h.execJobResumeSkip
  | jobAbortFinish => exact h.execJobAbortFinish
  | jobAbortBoundary => exact h.execJobAbortBoundary
  | jobAbortImmediate => exact h.execJobAbortImmediate
  | jobSemCreate => exact h.execJobSemCreate
  | jobSemDestroy => exact h.execJobSemDestroy
  | jobPrio => exact h.execJobPrio
  | jobStatus => exact h.execJobStatus
  | jobPolicy => exact h.execJobPolicy
  | saveQuiesceEnd => exact h.execSaveQuiesceEnd
  | saveDrainEnd => exact h.execSaveDrainEnd
  | saveEnd => exact h.execSaveEnd
  | saveReleaseEnd => exact h.execSaveReleaseEnd
  | restoreEnd => exact h.execRestoreEnd
  | inhtoExpiry => exact h.execInhtoExpiry
  | modelLoad => exact h.execModelLoad
  | modelUnload => exact h.execModelUnload
  | modelSwap => exact h.execModelSwap
  | tableGather => exact h.execTableGather
  | tableScatter => exact h.execTableScatter
  | seqSubmit => exact h.execSeqSubmit
  | seqCancelNormal => exact h.execSeqCancelNormal
  | seqCancelImmediate => exact h.execSeqCancelImmediate
  | seqStatus => exact h.execSeqStatus
  | seqMove => exact h.execSeqMove
  | seqExportSnapshot => exact h.execSeqExportSnapshot
  | seqExportDetach => exact h.execSeqExportDetach
  | seqImport => exact h.execSeqImport
  | seqServe => exact h.execSeqServe
  | seqPolicy => exact h.execSeqPolicy
  | prefillStepForm => exact h.execPrefillStepForm
  | decodeBeat => exact h.execDecodeBeat
  | encodeStepForm => exact h.execEncodeStepForm
  | rerankStepForm => exact h.execRerankStepForm
  | draftStepForm => exact h.execDraftStepForm
  | verifyStepForm => exact h.execVerifyStepForm
  | stepEnd => exact h.execStepEnd
  | expertStepStart => exact h.execExpertStepStart
  | dispatchDeadline => exact h.execDispatchDeadline
  | rebalancePeriod => exact h.execRebalancePeriod
  | poolMoveRelease => exact h.execPoolMoveRelease
  | kvColdTimer => exact h.execKvColdTimer
  | streamConsPoll => exact h.execStreamConsPoll
  | tokeniseUnit => exact h.execTokeniseUnit
  | packUnit => exact h.execPackUnit
  | tokenUnit => exact h.execTokenUnit
  | draftPositionUnit => exact h.execDraftPositionUnit
  | admissionUnit => exact h.execAdmissionUnit
  | textTokenise => exact h.execTextTokenise
  | textDetokenise => exact h.execTextDetokenise
  | flitReceive => exact h.execFlitReceive
  | nakReceive => exact h.execNakReceive
  | fencedReceive => exact h.execFencedReceive
  | pcsLockLoss => exact h.execPcsLockLoss
  | linkSilenceTimeout => exact h.execLinkSilenceTimeout
  | portTrained => exact h.execPortTrained
  | treadReceive => exact h.execTreadReceive
  | twriteReceive => exact h.execTwriteReceive
  | atomicReceive => exact h.execAtomicReceive
  | msgReceive => exact h.execMsgReceive
  | collReceive => exact h.execCollReceive
  | rdataReceive => exact h.execRdataReceive
  | wackReceive => exact h.execWackReceive
  | avalReceive => exact h.execAvalReceive
  | mackReceive => exact h.execMackReceive
  | erespReceive => exact h.execErespReceive
  | remoteOpTimeout => exact h.execRemoteOpTimeout
  | responseTableExpiry => exact h.execResponseTableExpiry
  | orderedFlowTimeout => exact h.execOrderedFlowTimeout
  | busyRetry => exact h.execBusyRetry
  | mgmtProbe => exact h.execMgmtProbe
  | probeTimeout => exact h.execProbeTimeout
  | lostNotice => exact h.execLostNotice
  | joinNotice => exact h.execJoinNotice
  | fabConfig => exact h.execFabConfig
  | fabRouteWrite => exact h.execFabRouteWrite
  | fabRouteCommit => exact h.execFabRouteCommit
  | fabPortDisable => exact h.execFabPortDisable
  | fabPortEnable => exact h.execFabPortEnable
  | fabPortSetcred => exact h.execFabPortSetcred
  | fabStatusPorts => exact h.execFabStatusPorts
  | fabStatusReach => exact h.execFabStatusReach
  | fabFence => exact h.execFabFence
  | fabUnfence => exact h.execFabUnfence
  | fabGroupCreate => exact h.execFabGroupCreate
  | fabGroupDestroy => exact h.execFabGroupDestroy
  | collectiveTrigger => exact h.execCollectiveTrigger
  | collectiveDone => exact h.execCollectiveDone
  | egressSchedule => exact h.execEgressSchedule
  | tokenRefill => exact h.execTokenRefill
  | gateEntryAdvance => exact h.execGateEntryAdvance
  | gateTakeover => exact h.execGateTakeover
  | queueSample => exact h.execQueueSample
  | fabShaper => exact h.execFabShaper
  | fabSched => exact h.execFabSched
  | fabGateWrite => exact h.execFabGateWrite
  | fabGateCommit => exact h.execFabGateCommit
  | fabSample => exact h.execFabSample
  | meridianRead64 => exact h.execMeridianRead64
  | meridianLowRead => exact h.execMeridianLowRead
  | meridianHighRead => exact h.execMeridianHighRead
  | ppsEdge => exact h.execPpsEdge
  | ppsLossTimeout => exact h.execPpsLossTimeout
  | timeSend => exact h.execTimeSend
  | timeReceive => exact h.execTimeReceive
  | scheduledActionApply => exact h.execScheduledActionApply
  | timeConfig => exact h.execTimeConfig
  | timeArm => exact h.execTimeArm
  | timeDisarm => exact h.execTimeDisarm
  | timeStatus => exact h.execTimeStatus
  | armMessage => exact h.execArmMessage
  | armedMessage => exact h.execArmedMessage
  | notarmedMessage => exact h.execNotarmedMessage
  | confirmMessage => exact h.execConfirmMessage
  | disarmMessage => exact h.execDisarmMessage
  | reportMessage => exact h.execReportMessage
  | armDecision => exact h.execArmDecision
  | modeChangeActivate => exact h.execModeChangeActivate
  | reportDeadline => exact h.execReportDeadline
  | powerApplied => exact h.execPowerApplied
  | inputShutdown => exact h.execInputShutdown
  | coolantWaitEnd => exact h.execCoolantWaitEnd
  | perstAssert => exact h.execPerstAssert
  | pcieLinkReset => exact h.execPcieLinkReset
  | flrPf0 => exact h.execFlrPf0
  | flrVf => exact h.execFlrVf
  | flrPf1 => exact h.execFlrPf1
  | vfEnableWrite => exact h.execVfEnableWrite
  | numvfsWrite => exact h.execNumvfsWrite
  | resetComplete => exact h.execResetComplete
  | bar2Read => exact h.execBar2Read
  | bar2Write => exact h.execBar2Write
  | bar2ReadTimeout => exact h.execBar2ReadTimeout
  | bar0BadAccess => exact h.execBar0BadAccess
  | winBaseWrite => exact h.execWinBaseWrite
  | msixModerationTimer => exact h.execMsixModerationTimer
  | msixUnmask => exact h.execMsixUnmask
  | atsInvalidate => exact h.execAtsInvalidate
  | hostCompletion => exact h.execHostCompletion
  | completionTimeout => exact h.execCompletionTimeout
  | hostIngressCommit => exact h.execHostIngressCommit
  | sqTailWrite => exact h.execSqTailWrite
  | cqHeadWrite => exact h.execCqHeadWrite
  | mboxEnable => exact h.execMboxEnable
  | mboxDisable => exact h.execMboxDisable
  | mboxFetch => exact h.execMboxFetch
  | commandTimeout => exact h.execCommandTimeout
  | devIdentify => exact h.execDevIdentify
  | devMboxCreate => exact h.execDevMboxCreate
  | devMboxRemove => exact h.execDevMboxRemove
  | devReset => exact h.execDevReset
  | devCancel => exact h.execDevCancel
  | tenEnable => exact h.execTenEnable
  | tenDisable => exact h.execTenDisable
  | tenConfig => exact h.execTenConfig
  | tenQuery => exact h.execTenQuery
  | dmaCopy => exact h.execDmaCopy
  | dmaPieceComplete => exact h.execDmaPieceComplete
  | logRing => exact h.execLogRing
  | logFilter => exact h.execLogFilter
  | logRead => exact h.execLogRead
  | evconsWrite => exact h.execEvconsWrite
  | logRingWrite => exact h.execLogRingWrite
  | perfSelect => exact h.execPerfSelect
  | perfRead => exact h.execPerfRead
  | perfSurvey => exact h.execPerfSurvey
  | surveyPeriod => exact h.execSurveyPeriod
  | mctpRequest => exact h.execMctpRequest
  | nvmeCreateIoSq => exact h.execNvmeCreateIoSq
  | nvmeCreateIoCq => exact h.execNvmeCreateIoCq
  | nvmeDeleteIoSq => exact h.execNvmeDeleteIoSq
  | nvmeDeleteIoCq => exact h.execNvmeDeleteIoCq
  | nvmeGetLogPage => exact h.execNvmeGetLogPage
  | nvmeIdentify => exact h.execNvmeIdentify
  | nvmeAbort => exact h.execNvmeAbort
  | nvmeSetFeatures => exact h.execNvmeSetFeatures
  | nvmeGetFeatures => exact h.execNvmeGetFeatures
  | nvmeAsyncEventRequest => exact h.execNvmeAsyncEventRequest
  | nvmeNamespaceManagement => exact h.execNvmeNamespaceManagement
  | nvmeNamespaceAttachment => exact h.execNvmeNamespaceAttachment
  | nvmeFormatNvm => exact h.execNvmeFormatNvm
  | nvmeSanitize => exact h.execNvmeSanitize
  | nvmeAbsentCommand => exact h.execNvmeAbsentCommand
  | nvmeRead => exact h.execNvmeRead
  | nvmeWrite => exact h.execNvmeWrite
  | nvmeFlush => exact h.execNvmeFlush
  | nvmeWriteZeroes => exact h.execNvmeWriteZeroes
  | nvmeDatasetManagement => exact h.execNvmeDatasetManagement
  | nvmeShutdownNotify => exact h.execNvmeShutdownNotify
  | nvmeDoorbellWrite => exact h.execNvmeDoorbellWrite
  | storeSplit => exact h.execStoreSplit
  | storeLockCreate => exact h.execStoreLockCreate
  | storeLockRelease => exact h.execStoreLockRelease
  | storeLockList => exact h.execStoreLockList
  | storeArb => exact h.execStoreArb
  | storeHealth => exact h.execStoreHealth
  | lockActivate => exact h.execLockActivate
  | lockExpiry => exact h.execLockExpiry
  | channelSchedule => exact h.execChannelSchedule
  | writeBufferProgram => exact h.execWriteBufferProgram
  | gcCopyVerified => exact h.execGcCopyVerified
  | flashProgramFail => exact h.execFlashProgramFail
  | flashEraseFail => exact h.execFlashEraseFail
  | flashReadFail => exact h.execFlashReadFail
  | apstIdleTimer => exact h.execApstIdleTimer
  | cpWatchdogExpiry => exact h.execCpWatchdogExpiry
  | helperHeartbeatTimeout src seq => exact h.execHelperHeartbeatTimeout (seq := seq)
  | startFailureTimeout => exact h.execStartFailureTimeout
  | fwDownload => exact h.execFwDownload
  | fwCommit => exact h.execFwCommit
  | fwActivate => exact h.execFwActivate
  | fwRevert => exact h.execFwRevert
  | fwStatus => exact h.execFwStatus
  | confirmsTimeout => exact h.execConfirmsTimeout
  | secStatus => exact h.execSecStatus
  | secNonce => exact h.execSecNonce
  | secIdentity => exact h.execSecIdentity
  | secAttest => exact h.execSecAttest
  | recoveryRequest => exact h.execRecoveryRequest
  | governorPeriod => exact h.execGovernorPeriod
  | planPublish => exact h.execPlanPublish
  | planPublishRetry => exact h.execPlanPublishRetry
  | pmbusArbitrationLoss => exact h.execPmbusArbitrationLoss
  | sensorSample => exact h.execSensorSample
  | correctedError => exact h.execCorrectedError
  | uncorrectableError => exact h.execUncorrectableError
  | eventCoalesceClose => exact h.execEventCoalesceClose
  | portWindowEnd => exact h.execPortWindowEnd
  | pwrCap => exact h.execPwrCap
  | pwrPlan => exact h.execPwrPlan
  | pwrStatus => exact h.execPwrStatus
  | pwrShelf => exact h.execPwrShelf
  | pwrFence => exact h.execPwrFence
  | pwrUnitregRead => exact h.execPwrUnitregRead
  | pwrUnitregWrite => exact h.execPwrUnitregWrite
  | jtagInstructionLoad => exact h.execJtagInstructionLoad
  | registerWrite => exact h.execRegisterWrite
  | vectorUnitComplete => exact h.execVectorUnitComplete
  | eraseComplete => exact h.execEraseComplete
  | perstDeassert => exact h.execPerstDeassert
  | pcieLinkUp => exact h.execPcieLinkUp
  | meridianHoldEnd => exact h.execMeridianHoldEnd
  | interruptCoalescingTimer => exact h.execInterruptCoalescingTimer
  | secLifecycle r n => exact absurd rfl (hl r n)
  | fwConfirm r n => exact absurd rfl (hf r n)

/-! ### The life cycle -/

theorem Kept.lifecycle {t : State} (h : Kept σ t) : t.ctl.lifecycle = σ.ctl.lifecycle :=
  congrArg (·.1) h.fuses

/-- FW.CONFIRM writes the minimum security version, its count of raises and the revoked keys: the life cycle stays. -/
theorem execFwConfirm_lifecycle {r fail t} (e : execFwConfirm r fail s = .next t) :
    t.ctl.lifecycle = s.ctl.lifecycle := by
  refine runCmd_next (P := fun t => t.ctl.lifecycle = s.ctl.lifecycle) (Kept.refl s) (fun _ h => h.lifecycle) ?_ e
  intro s1 x entry h
  extract_lets sec raise
  split; · exact h.complete.lifecycle
  split; · exact h.complete.lifecycle
  rename_i s2 e2
  have h2 : Kept s s2 := h.bootWrite.of _ e2
  extract_lets s3 s4
  have h3 : Kept s s3 := by
    unfold s3
    split; · exact h2
    refine (h2.modCtl ?_).postEvent
    extract_lets c1 c2
    have h1 : ctlView c1 = ctlView s2.ctl := by
      unfold c1
      split
      · exact ctlView_putSlot _ _ _
      · rfl
    exact (ctlView_putSlot _ _ _).trans h1
  exact (Kept.refl s4).complete.lifecycle.trans h3.lifecycle

/-- The transitions of Table 18.4 end in one of its states. -/
theorem transitionKey_dst {c : Control} {tok : Bytes} {p} (e : transitionKey c tok = some p) : byteAt tok 7 ≤ 4 := by
  unfold transitionKey at e
  split at e
  case h_11 => cases e
  all_goals omega

/-- A transition writes the token's state and the cold start after it leaves that. -/
theorem changeLife_lifecycle (s : State) (r : CmdRef) (tok : Bytes) :
    (changeLife s r tok).ctl.lifecycle = byteAt tok 7 := by
  unfold changeLife
  extract_lets dst s1 s2
  have h2 : Kept s1 s2 := (Kept.refl s1).postEvent.complete
  exact h2.leave.coldStart.lifecycle

/-- SEC.LIFECYCLE goes from one of the five states to one of the five. -/
theorem execSecLifecycle_le {r fail t} (hs : s.ctl.lifecycle ≤ 4) (e : execSecLifecycle r fail s = .next t) :
    t.ctl.lifecycle ≤ 4 := by
  have hkept : ∀ t, Kept s t → t.ctl.lifecycle ≤ 4 := fun t h => h.lifecycle.trans_le hs
  refine runCmd_next (P := fun t => t.ctl.lifecycle ≤ 4) (Kept.refl s) hkept ?_ e
  intro s1 x entry h
  split; · exact hkept _ h.complete
  split; · exact hkept _ h.askHost
  extract_lets tok dst s2
  split; · exact hkept _ h.complete
  split; · exact hkept _ h.complete
  rename_i hkey
  have h2 : Kept s s2 := h.modCtl
  split; · exact hkept _ h2.complete
  split; · exact hkept _ h2.complete
  split; · exact hkept _ h2.complete
  rw [changeLife_lifecycle]
  exact transitionKey_dst hkey

/-- No command but SEC.LIFECYCLE changes the life cycle. -/
theorem exec_lifecycle {c : Instr} {t} (hl : ∀ r n, c ≠ .secLifecycle r n) (e : exec c s = .next t) :
    t.ctl.lifecycle = s.ctl.lifecycle := by
  by_cases hf : ∀ r n, c ≠ .fwConfirm r n
  · exact ((exec_kept s hl hf).of t e).lifecycle
  · push Not at hf
    obtain ⟨r, n, rfl⟩ := hf
    exact execFwConfirm_lifecycle e

/-- Settles O38: every command but FW.CONFIRM and SEC.LIFECYCLE keeps the fuses whole (`exec_kept`), FW.CONFIRM writes
others of them, and the transitions SEC.LIFECYCLE accepts end in a state of Table 18.4. -/
theorem lifeCycleChangesOnlyBySecLifecycle : Obligations.LifeCycleChangesOnlyBySecLifecycle := by
  unfold Obligations.LifeCycleChangesOnlyBySecLifecycle
  refine ⟨rfl, fun c s t hs e => ?_, fun c s t hl e => exec_lifecycle hl e⟩
  by_cases hl : ∀ r n, c ≠ .secLifecycle r n
  · exact (exec_lifecycle hl e).trans_le hs
  · push Not at hl
    obtain ⟨r, n, rfl⟩ := hl
    exact execSecLifecycle_le hs e

end Sys2Proof.Safety
end

section
/-! Settles O45: the coalescing of event records (R476).  An event's record, a rule for each thing `postEvent` does with
it, and the close of an open record. -/

namespace Sys2Proof.Laws

open Sys2Proof.Machine

/-- The record of an event: what `postEvent` opens or posts. -/
def newEvent (s : State) (src code sub ten a0 a1 a2 : Nat) : EvRec :=
  { src := src, mer := merAt s src, code := code, subunit := sub, tenant := ten, arg0 := a0, arg1 := a1, arg2 := a2,
    last := merAt s src, closeAt := s.clk.ticks + msTicks }

/-- An open record after the event `e`: one more event of it if they coalesce, unchanged if not (R476). -/
def joinEvent (e o : EvRec) : EvRec :=
  if sameEvent e o then { o with count := o.count + 1, last := e.last } else o

theorem sameEvent_comm (a b : EvRec) : sameEvent a b = sameEvent b a := by
  simp only [sameEvent, eq_comm]

/-- An event coalesces with the records of its source, CODE and ARG0, whatever else it carries. -/
theorem sameEvent_newEvent (s : State) (src code sub ten a0 a1 a2 : Nat) :
    sameEvent (newEvent s src code sub ten a0 a1 a2) = fun o => decide (o.src = src ∧ o.code = code ∧ o.arg0 = a0) :=
  funext fun o => sameEvent_comm _ o

theorem joinEvent_newEvent (s : State) (src code sub ten a0 a1 a2 : Nat) :
    joinEvent (newEvent s src code sub ten a0 a1 a2) = fun o =>
      if decide (o.src = src ∧ o.code = code ∧ o.arg0 = a0) then { o with count := o.count + 1, last := merAt s src }
      else o := by
  funext o
  rw [joinEvent, sameEvent_newEvent]
  rfl

variable {s : State} {src code sub ten a0 a1 a2 : Nat}

theorem postEvent_of_open (hcl : code / 256 = 0 ∨ code / 256 = 4)
    (h : s.log.opened.any (sameEvent (newEvent s src code sub ten a0 a1 a2)) = true) :
    postEvent s src code sub ten a0 a1 a2 = { s with log := { s.log with
      opened := s.log.opened.map (joinEvent (newEvent s src code sub ten a0 a1 a2)) } } :=
  (if_pos hcl).trans (if_pos h)

theorem postEvent_of_not_open (hcl : code / 256 = 0 ∨ code / 256 = 4)
    (h : s.log.opened.any (sameEvent (newEvent s src code sub ten a0 a1 a2)) = false) :
    postEvent s src code sub ten a0 a1 a2 =
      { s with log := { s.log with opened := s.log.opened ++ [newEvent s src code sub ten a0 a1 a2] } } :=
  (if_pos hcl).trans (if_neg (Bool.eq_false_iff.mp h))

theorem postEvent_of_other_class (hcl : ¬ (code / 256 = 0 ∨ code / 256 = 4)) :
    postEvent s src code sub ten a0 a1 a2 = logStore s (newEvent s src code sub ten a0 a1 a2) :=
  if_neg hcl

theorem exec_eventCoalesceClose {o : EvRec}
    (h : s.log.opened.find? (fun o => decide (o.src = src ∧ o.code = code ∧ o.arg0 = a0)) = some o) :
    exec (.eventCoalesceClose src code a0) s =
      let u := advanceTo s o.closeAt
      .next (logStore { u with log := { u.log with opened := u.log.opened.filter (· ≠ o) } } o) := by
  change execEventCoalesceClose src code a0 s = _
  simp only [execEventCoalesceClose, h]

/-- Settles O45: the three cases of `postEvent` and the close of an open record, the records that coalesce with the event
being those of its source, CODE and ARG0 (`sameEvent_newEvent`, `joinEvent_newEvent`). -/
theorem eventsCoalesce : Obligations.EventsCoalesce := by
  unfold Obligations.EventsCoalesce
  intro s src code sub ten a0 a1 a2 e same
  have hsame : sameEvent (newEvent s src code sub ten a0 a1 a2) = same := sameEvent_newEvent ..
  refine ⟨fun hcl => ⟨fun hany => ?_, fun hany => ?_⟩, fun hcl => ?_, fun o hfind => ?_⟩
  · rw [postEvent_of_open hcl (hsame ▸ hany), joinEvent_newEvent]
  · exact postEvent_of_not_open hcl (hsame ▸ hany)
  · exact postEvent_of_other_class hcl
  · exact exec_eventCoalesceClose hfind

end Sys2Proof.Laws
end

section
/-! Settles O1 to O4 and O39: the step, and what every command keeps, the two that write the fuses included. -/

namespace Sys2Proof.Safety

open Sys2Proof.Machine Sys2Proof.Laws

/-- What every command keeps: all of `Kept` but the fuses. -/
structure Held (s t : State) : Prop where
  queue : t.pending = s.pending
  sent : s.left <+: t.left
  drawn : s.freeCtr ≤ t.freeCtr
  memory : MemoryOk s → MemoryOk t

variable {s t u : State}

theorem Kept.held (h : Kept s t) : Held s t := ⟨h.queue, h.sent, h.drawn, h.memory⟩

theorem Held.trans (h : Held s t) (g : Held t u) : Held s u :=
  ⟨g.queue.trans h.queue, h.sent.trans g.sent, h.drawn.trans g.drawn, g.memory ∘ h.memory⟩

/-- An update of the control core that leaves the staging area holds, whatever it makes of the fuses. -/
theorem held_modCtl {f : Control → Control} (hf : (f s.ctl).staging = s.ctl.staging := by rfl) : Held s (modCtl s f) :=
  ⟨rfl, List.prefix_rfl, Nat.le_refl _, fun ⟨hm, hg, hn⟩ => ⟨hm, (congrArg Memory.wf hf).trans hg, hn⟩⟩

/-- The trial slot turns ACTIVE, and the slot that was ACTIVE turns VALID: fuses and staged bytes stay (R456). -/
theorem ctlView_confirmTrial (c : Control) (n : Nat) :
    ctlView (let c1 := match slotIn c slActive with
        | some a => putSlot c a { fwSlot c a with st := slValid }
        | none => c
      let c2 := putSlot c1 n { fwSlot c1 n with st := slActive, tries := 0 }
      { c2 with confirms := none, cfgFmt := c.trialFmt.getD c.cfgFmt, trialFmt := none }) = ctlView c := by
  extract_lets c1 c2
  have h1 : ctlView c1 = ctlView c := by
    unfold c1
    split
    · exact ctlView_putSlot _ _ _
    · rfl
  exact (ctlView_putSlot _ _ _).trans h1

/-- FW.CONFIRM writes MINSECVER and the revoked keys, and holds the rest. -/
theorem execFwConfirm_held {r n} (e : execFwConfirm r n s = .next t) : Held s t := by
  refine runCmd_next (P := Held s) (Kept.refl s) (fun _ => Kept.held) ?_ e
  intro s1 x entry h
  extract_lets sec raise
  split; · exact h.complete.held
  split; · exact h.complete.held
  rename_i s2 e2
  have h2 : Kept s s2 := h.bootWrite.of _ e2
  extract_lets s3 s4
  have h3 : Kept s s3 := by
    unfold s3
    split; · exact h2
    exact (h2.modCtl (ctlView_confirmTrial _ _)).postEvent
  exact h3.held.trans (Held.trans held_modCtl (Kept.refl s4).complete.held)

theorem changeLife_held {r tok} : Held s (changeLife s r tok) := by
  unfold changeLife
  extract_lets dst s1 s2
  have h2 : Kept s1 s2 := (Kept.refl s1).postEvent.complete
  exact Held.trans held_modCtl h2.leave.coldStart.held

/-- SEC.LIFECYCLE writes the life-cycle state and the passes through RETURN, and holds the rest. -/
theorem execSecLifecycle_held {r n} (e : execSecLifecycle r n s = .next t) : Held s t := by
  refine runCmd_next (P := Held s) (Kept.refl s) (fun _ => Kept.held) ?_ e
  intro s1 x entry h
  split; · exact h.complete.held
  split; · exact h.askHost.held
  extract_lets tok dst s2
  split; · exact h.complete.held
  split; · exact h.complete.held
  have h2 : Kept s s2 := h.modCtl
  split; · exact h2.complete.held
  split; · exact h2.complete.held
  split; · exact h2.complete.held
  rename_i e3
  exact (h2.bootWrite.of _ e3).held.trans changeLife_held

/-- Every command holds what `Held` speaks of: all but two keep the fuses as well (`exec_kept`). -/
theorem exec_held {c : Instr} (e : exec c s = .next t) : Held s t := by
  by_cases hl : ∀ r n, c ≠ .secLifecycle r n
  · by_cases hf : ∀ r n, c ≠ .fwConfirm r n
    · exact ((exec_kept s hl hf).of t e).held
    · push Not at hf
      obtain ⟨r, n, rfl⟩ := hf
      exact execFwConfirm_held e
  · push Not at hl
    obtain ⟨r, n, rfl⟩ := hl
    exact execSecLifecycle_held e

theorem step_of_front {c : Instr} {rest : List Instr} (h : s.pending = c :: rest) :
    step s = exec c { s with pending := rest } := by
  unfold step; rw [h]

theorem step_of_empty (h : s.pending = []) : step s = .next s := by
  unfold step; rw [h]

/-- Settles O1. -/
theorem stepRunsFront : Obligations.StepRunsFront := by
  unfold Obligations.StepRunsFront
  exact fun _ _ _ => step_of_front

/-- Settles O2. -/
theorem emptyQueueIdles : Obligations.EmptyQueueIdles := by
  unfold Obligations.EmptyQueueIdles
  exact fun _ => step_of_empty

/-- Settles O3: at reset no byte is listed and there is no namespace. -/
theorem memoriesCanonicalAtReset : Obligations.MemoriesCanonicalAtReset := by
  unfold Obligations.MemoriesCanonicalAtReset
  exact ⟨wf_nil, wf_nil, fun _ hn => nomatch hn⟩

/-- Settles O4: the step idles or runs a command, and every command holds the memories (`exec_held`). -/
theorem memoriesStayCanonical : Obligations.MemoriesStayCanonical := by
  unfold Obligations.MemoriesStayCanonical
  intro s t hs e
  match hq : s.pending with
  | [] =>
    rw [step_of_empty hq] at e
    cases e
    exact hs
  | c :: rest =>
    rw [step_of_front hq] at e
    exact (exec_held e).memory hs

/-- Settles O39: `exec_held` for every command, `exec_kept` for the fuses. -/
theorem everyCommandKeepsQueueFusesAndSentTlps : Obligations.EveryCommandKeepsQueueFusesAndSentTlps := by
  unfold Obligations.EveryCommandKeepsQueueFusesAndSentTlps
  intro c s t e
  obtain ⟨hqueue, hsent, hdrawn, -⟩ := exec_held e
  exact ⟨hqueue, hsent, hdrawn, fun hl hf => ((exec_kept s hl hf).of t e).fuses⟩

end Sys2Proof.Safety
end

section
/-! Settles O11: the write of a pass into its accumulator entry (R58 to R60).  What follows the write (status bits, loss
counts, time, the release of the pass) leaves the accumulators; the write is a fold of puts under keys that differ. -/

namespace Sys2Proof.Laws

open Sys2Proof.Machine Sys2Proof.Safety

/-! ### A core read after an update of a core -/

@[simp] theorem coreAt_setCore_self (s : State) (c : Nat) (k : Core) : coreAt (setCore s c k) c = k :=
  tabGet_put_self _ _ _ _

@[simp] theorem coreAt_modCore_self (s : State) (c : Nat) (f : Core → Core) : coreAt (modCore s c f) c = f (coreAt s c) :=
  coreAt_setCore_self _ _ _

/-! ### What leaves the accumulators of a core -/

/-- The accumulator values of a core. -/
def accAt (s : State) (c : Nat) : Tab AccVal := (coreAt s c).acc

theorem accAt_congr {s t : State} (c : Nat) (h : t.cores = s.cores) : accAt t c = accAt s c := by
  unfold accAt coreAt
  rw [h]

theorem accAt_modCore {s : State} {c : Nat} {f : Core → Core} (hf : (f (coreAt s c)).acc = (coreAt s c).acc := by rfl) :
    accAt (modCore s c f) c = accAt s c := by
  rw [accAt, coreAt_modCore_self, hf]
  rfl

theorem accAt_modCtx (s : State) (c i : Nat) (f : Ctx → Ctx) : accAt (modCtx s c i f) c = accAt s c := accAt_modCore

theorem accAt_countEv (s : State) (u e t c : Nat) : accAt (countEv s u e t) c = accAt s c := by
  obtain ⟨m, h⟩ := countEv_units s u e t
  rw [h]
  rfl

theorem accAt_postFault (s : State) (t : Nat) (r : FaultRec) (c : Nat) : accAt (postFault s t r) c = accAt s c := by
  unfold postFault
  dsimp only
  split
  · split <;> rfl
  · rfl

theorem accAt_settleHalt (s : State) (c i : Nat) : accAt (settleHalt s c i) c = accAt s c := by
  unfold settleHalt
  dsimp only
  split
  · split
    · rfl
    · split
      · exact (accAt_postFault _ _ _ _).trans (accAt_modCtx _ _ _ _)
      · rfl
  · split
    · split
      · rfl
      · exact (accAt_postFault _ _ _ _).trans (accAt_modCtx _ _ _ _)
    · rfl
  · rfl

theorem accAt_takeRate (s : State) (c : Nat) : accAt (takeRate s c) c = accAt s c := by
  unfold takeRate
  dsimp only
  split
  · rfl
  · rw [accAt, coreAt_setCore_self]
    rfl

theorem accAt_foldl {α : Type} {f : State → α → State} {c : Nat} (hf : ∀ s a, accAt (f s a) c = accAt s c) (l : List α)
    (s : State) : accAt (l.foldl f s) c = accAt s c := by
  induction l generalizing s with
  | nil => rfl
  | cons a l ih => exact (ih _).trans (hf s a)

theorem sbFree_acc (k : Core) (o : Nat) : (sbFree k o).acc = k.acc := rfl

theorem accAt_releaseCmd (s : State) (c id : Nat) : accAt (releaseCmd s c id) c = accAt s c := by
  unfold releaseCmd
  rw [accAt_takeRate, accAt_foldl fun s i => accAt_settleHalt s c i]
  exact accAt_modCore (by rw [sbFree_acc, sbFree_acc])

theorem accAt_advanceToCyc (s : State) (c n : Nat) : accAt (advanceToCyc s c n) c = accAt s c := by
  unfold advanceToCyc
  dsimp only
  split <;> rfl

theorem accAt_addLoss (s : State) (c i n : Nat) : accAt (addLoss s c i n) c = accAt s c := by
  unfold addLoss
  split
  · rfl
  · dsimp only
    rw [accAt_foldl fun s _ => accAt_countEv s _ _ _ _, accAt_modCtx]
    exact accAt_modCore

theorem accAt_setNstat (s : State) (c i : Nat) (bit : BitVec 3) (on : Bool) : accAt (setNstat s c i bit on) c = accAt s c := by
  unfold setNstat
  split
  · exact (accAt_modCtx _ _ _ _).trans accAt_modCore
  · rfl

/-! ### The write of an entry -/

/-- The updates of the columns of the entry that a pass writes next. -/
def columnUpds (k : Core) (sl : Slot) (p : Pass) : List (Nat × AccUpd) :=
  let f := passF p.cmd.bytes
  let v := p.nextVec
  (List.range 512).map fun j =>
    (j, columnUpd p f (p.acts.getD v []) v j (tabGet k.acc (accKey (sl.accBase + f.accbase + v) j) {}))

/-- The accumulator values once the updates of an entry are written. -/
def putColumns (entry : Nat) (m : Tab AccVal) (ups : List (Nat × AccUpd)) : Tab AccVal :=
  ups.foldl (fun m q => tabPut m (accKey entry q.1) { x := q.2.x, a := q.2.a }) m

/-- The oldest started pass writes its entry; only what `accAt` ignores follows. -/
theorem exec_accumulatorWrite {s : State} {c : Nat} {p : Pass} {sl : Slot}
    (hp : (coreAt s c).passes.find? (fun p => p.start ≠ none) = some p) (hs : slotAt s c p.slot = some sl) :
    exec (.accumulatorWrite c) s =
      let k := coreAt s c
      let f := passF p.cmd.bytes
      let v := p.nextVec
      let ups := columnUpds k sl p
      let s1 := setCore s c { k with
        acc := putColumns (sl.accBase + f.accbase + v) k.acc ups
        passes := if f.nvec ≤ v + 1 then k.passes.filter (fun x => x.id ≠ p.id)
          else k.passes.map fun x => if x.id = p.id then { x with nextVec := v + 1 } else x }
      let s2 := addLoss (setNstat s1 c p.slot 1 (ups.any fun q => q.2.aovf)) c p.slot (ups.filter fun q => q.2.lossy).length
      let s3 := advanceToCyc s2 c (p.start.getD 0 + inputBefore p.acts f (v + 1) + 513 + 511)
      .next (if f.nvec ≤ v + 1 then releaseCmd s3 c p.id else s3) := by
  change execAccumulatorWrite c s = _
  simp only [execAccumulatorWrite, hp, hs, decide_eq_true_eq, columnUpds, putColumns]

theorem accAt_accumulatorWrite {s t : State} {c : Nat} {p : Pass} {sl : Slot}
    (hp : (coreAt s c).passes.find? (fun p => p.start ≠ none) = some p) (hs : slotAt s c p.slot = some sl)
    (e : exec (.accumulatorWrite c) s = .next t) :
    accAt t c = putColumns (sl.accBase + (passF p.cmd.bytes).accbase + p.nextVec) (accAt s c) (columnUpds (coreAt s c) sl p) := by
  rw [exec_accumulatorWrite hp hs] at e
  cases e
  have hrelease (b : Prop) [Decidable b] (u : State) : accAt (if b then releaseCmd u c p.id else u) c = accAt u c := by
    split
    · exact accAt_releaseCmd _ _ _
    · rfl
  rw [hrelease, accAt_advanceToCyc, accAt_addLoss, accAt_setNstat, accAt, coreAt_setCore_self, accAt]

theorem accKey_inj {e e' j j' : Nat} (hj : j < 512) (hj' : j' < 512) (h : accKey e j = accKey e' j') : e = e' ∧ j = j' := by
  unfold accKey at h
  omega

theorem putColumns_cons (entry : Nat) (m : Tab AccVal) (q : Nat × AccUpd) (ups : List (Nat × AccUpd)) :
    putColumns entry m (q :: ups) = putColumns entry (tabPut m (accKey entry q.1) { x := q.2.x, a := q.2.a }) ups := rfl

/-- Puts under other keys leave a value. -/
theorem tabGet_putColumns_other {entry n : Nat} {ups : List (Nat × AccUpd)} (h : ∀ q ∈ ups, n ≠ accKey entry q.1)
    (m : Tab AccVal) : tabGet (putColumns entry m ups) n {} = tabGet m n {} := by
  induction ups generalizing m with
  | nil => rfl
  | cons q ups ih =>
    rw [List.forall_mem_cons] at h
    rw [putColumns_cons, ih h.2, tabGet_put_other _ _ _ h.1]

/-- Of columns that are all below 512 and differ, each reads as its update. -/
theorem tabGet_putColumns_mem {entry : Nat} {ups : List (Nat × AccUpd)} {q : Nat × AccUpd} (hq : q ∈ ups)
    (hlt : ∀ q ∈ ups, q.1 < 512) (hnd : (ups.map (·.1)).Nodup) (m : Tab AccVal) :
    tabGet (putColumns entry m ups) (accKey entry q.1) {} = { x := q.2.x, a := q.2.a } := by
  induction ups generalizing m with
  | nil => cases hq
  | cons r ups ih =>
    rw [List.forall_mem_cons] at hlt
    rw [List.map_cons, List.nodup_cons] at hnd
    rcases List.mem_cons.mp hq with rfl | hq
    · rw [putColumns_cons, tabGet_putColumns_other, tabGet_put_self]
      intro p hp e
      rw [(accKey_inj hlt.1 (hlt.2 p hp) e).2] at hnd
      exact hnd.1 (List.mem_map_of_mem hp)
    · exact ih hq hlt.2 hnd.2 _

theorem columnUpds_columns (k : Core) (sl : Slot) (p : Pass) : (columnUpds k sl p).map (·.1) = List.range 512 := by
  simp [columnUpds, Function.comp_def]

theorem columnUpds_lt {k : Core} {sl : Slot} {p : Pass} {q : Nat × AccUpd} (h : q ∈ columnUpds k sl p) : q.1 < 512 :=
  List.mem_range.mp (columnUpds_columns k sl p ▸ List.mem_map_of_mem h)

/-- Settles O11: the accumulators after the step are those before with the 512 updates put (`accAt_accumulatorWrite`). -/
theorem accumulatorWriteUpdatesEveryColumn : Obligations.AccumulatorWriteUpdatesEveryColumn := by
  unfold Obligations.AccumulatorWriteUpdatesEveryColumn
  intro s t c p sl hp hs e f entry
  have hacc := accAt_accumulatorWrite hp hs e
  refine ⟨fun j hj => ?_, fun e' j he hj => ?_⟩
  · have hmem : (j, columnUpd p f (p.acts.getD p.nextVec []) p.nextVec j (tabGet (coreAt s c).acc (accKey entry j) {}))
        ∈ columnUpds (coreAt s c) sl p := by
      unfold columnUpds
      exact List.mem_map_of_mem (List.mem_range.mpr hj)
    have hnd : ((columnUpds (coreAt s c) sl p).map (·.1)).Nodup := by
      rw [columnUpds_columns]
      exact List.nodup_range
    change tabGet (accAt t c) _ _ = _
    rw [hacc]
    exact tabGet_putColumns_mem hmem (fun _ => columnUpds_lt) hnd _
  · change tabGet (accAt t c) _ _ = _
    rw [hacc]
    exact tabGet_putColumns_other (fun q hq h => he (accKey_inj hj (columnUpds_lt hq) h).1) _

end Sys2Proof.Laws
end

section
/-! Settles O44 and O42: the atlas's bytes, and the round trip of the floating-point encodings. -/

namespace Sys2Proof.Laws

open Sys2Proof.Machine

/-! ### Bytes of the atlas -/

/-- A run of bytes just written reads as what was written. -/
theorem cellReads_writes (m : List Host.Cell) (a : Nat) (bs : Bytes) (h : Memory.wf m = true) :
    cellReads (cellWrites m a bs) a bs.length = bs := by
  induction bs generalizing m a with
  | nil => rfl
  | cons b bs ih =>
    have hw := cellWrite_wf m a b h
    have hfirst : cellRead (cellWrites (cellWrite m a b) (a + 1) bs) a = b := by
      rw [cellRead_writes_other _ _ _ _ (.inl (Nat.lt_succ_self a)) hw, cellRead_write_self _ _ _ h]
    rw [List.length_cons, cellWrites, cellReads, hfirst, ih _ _ hw]

@[simp] theorem writeMem_mem (s : State) (t va : Nat) (bs : Bytes) :
    (writeMem s t va bs).atlas.mem = cellWrites s.atlas.mem (memKey t va) bs := rfl

/-- The keys of a run that ends within a tenant's address space stand in the tenant's own range. -/
theorem memKey_outside {t t' va n a : Nat} (hva : va + n ≤ 2 ^ 57) (ha : a < 2 ^ 57)
    (h : t' ≠ t ∨ a < va ∨ va + n ≤ a) : n = 0 ∨ memKey t' a < memKey t va ∨ memKey t va + n ≤ memKey t' a := by
  unfold memKey
  omega

/-- Settles O44: a write is read back (`cellReads_writes`), and the keys of other bytes lie outside it. -/
theorem atlasBytesReadBack : Obligations.AtlasBytesReadBack := by
  unfold Obligations.AtlasBytesReadBack
  intro s t va bs hva hw u
  refine ⟨cellReads_writes _ _ _ hw, cellWrites_wf _ _ _ hw, fun t' a ha h => ?_, rfl⟩
  suffices hr : cellRead u.atlas.mem (memKey t' a) = cellRead s.atlas.mem (memKey t' a) by
    simp only [readMem, cellReads, hr]
  rcases memKey_outside hva ha h with hn | hout
  · rw [List.length_eq_zero_iff] at hn
    rw [writeMem_mem, hn, cellWrites]
  · exact cellRead_writes_other _ _ _ _ hout hw

/-! ### The floating-point encodings (R53, R55) -/

/-- The parts of an encoding: sign, exponent field, fraction. -/
theorem encoding_split {f : FFmt} {w : Nat} (hw : w < 2 ^ (1 + f.eb + f.fb)) :
    w = fSign f (decide (w / 2 ^ (f.fb + f.eb) % 2 = 1)) + (w / 2 ^ f.fb % 2 ^ f.eb * 2 ^ f.fb + w % 2 ^ f.fb) := by
  have hs : w / 2 ^ (f.fb + f.eb) < 2 := by
    rw [Nat.div_lt_iff_lt_mul (by positivity), ← pow_succ', show f.fb + f.eb + 1 = 1 + f.eb + f.fb by omega]
    exact hw
  have hsign : fSign f (decide (w / 2 ^ (f.fb + f.eb) % 2 = 1)) = w / 2 ^ (f.fb + f.eb) * 2 ^ (f.fb + f.eb) := by
    rcases Nat.le_one_iff_eq_zero_or_eq_one.mp (Nat.le_of_lt_succ hs) with h | h <;> simp [fSign, bit01, h]
  have hexp := Nat.div_add_mod' (w / 2 ^ f.fb) (2 ^ f.eb)
  rw [Nat.div_div_eq_div_mul, ← pow_add] at hexp
  calc w = w / 2 ^ f.fb * 2 ^ f.fb + w % 2 ^ f.fb := (Nat.div_add_mod' w (2 ^ f.fb)).symm
    _ = (w / 2 ^ (f.fb + f.eb) * 2 ^ f.eb + w / 2 ^ f.fb % 2 ^ f.eb) * 2 ^ f.fb + w % 2 ^ f.fb := by rw [hexp]
    _ = _ := by rw [hsign, pow_add]; ring

/-- A number whose last bit stands at the format's last place is not rounded. -/
theorem fRound_of_exact {f : FFmt} {neg : Bool} {m : Nat} {e : Int} (hm : m ≠ 0) (hmin : 1 - fBias f - f.fb ≤ e)
    (htop : Nat.log2 m ≤ f.fb) (hlast : Nat.log2 m = f.fb ∨ e = 1 - fBias f - f.fb) :
    fRound f (.num neg m e false) =
      fSign f neg + min ((e + fBias f + f.fb - 1).toNat * 2 ^ f.fb + m) (fInfBits f) := by
  have hlsb : max (e + (Nat.log2 m : Int) - f.fb) (1 - fBias f - f.fb) = e := by omega
  simp [fRound, hm, hlsb, rneAt]

/-- A subnormal number or a zero is encoded with an exponent field of 0. -/
theorem fRound_subnormal {f : FFmt} (neg : Bool) {m : Nat} (hm : m < 2 ^ f.fb) (heb : f.eb ≠ 0) :
    fRound f (.num neg m (1 - fBias f - f.fb) false) = fSign f neg + m := by
  by_cases h0 : m = 0
  · simp [fRound, h0]
  · have hlog : Nat.log2 m < f.fb := (Nat.log2_lt h0).mpr hm
    have hinf : 2 ^ f.fb ≤ fInfBits f :=
      Nat.le_mul_of_pos_left _ (Nat.sub_pos_of_lt (Nat.one_lt_two_pow heb))
    rw [fRound_of_exact h0 le_rfl hlog.le (.inr rfl), min_eq_left]
    · rw [show (1 - fBias f - f.fb + fBias f + f.fb - 1 : Int) = 0 by ring, Int.toNat_zero, zero_mul, zero_add]
    · rw [show (1 - fBias f - f.fb + fBias f + f.fb - 1 : Int) = 0 by ring]
      rw [Int.toNat_zero, zero_mul, zero_add]
      exact hm.le.trans hinf

/-- A normal number is encoded with its exponent field. -/
theorem fRound_normal {f : FFmt} (neg : Bool) {frac ex : Nat} (hfrac : frac < 2 ^ f.fb) (h0 : ex ≠ 0)
    (hex : ex < 2 ^ f.eb - 1) :
    fRound f (.num neg (frac + 2 ^ f.fb) (ex - fBias f - f.fb) false) = fSign f neg + (ex * 2 ^ f.fb + frac) := by
  have hpos : 0 < 2 ^ f.fb := by positivity
  have hlog : Nat.log2 (frac + 2 ^ f.fb) = f.fb := by
    rw [Nat.log2_eq_iff (by omega), pow_succ]
    omega
  obtain ⟨n, rfl⟩ := Nat.exists_eq_succ_of_ne_zero h0
  have hn : ((n.succ : Int) - fBias f - f.fb + fBias f + f.fb - 1).toNat = n := by
    push_cast
    rw [show ((n : Int) + 1 - fBias f - f.fb + fBias f + f.fb - 1) = n by ring, Int.toNat_natCast]
  have hle : n * 2 ^ f.fb + (frac + 2 ^ f.fb) ≤ fInfBits f := by
    have h : (n + 2) * 2 ^ f.fb ≤ fInfBits f := Nat.mul_le_mul_right _ (by omega)
    linarith
  rw [fRound_of_exact (by omega) (by push_cast; omega) hlog.le (.inl hlog), hn, min_eq_left hle]
  simp only [Nat.succ_mul]
  omega

/-- What an encoding means, by its exponent field, rounds to the encoding. -/
theorem fRound_fDecode {f : FFmt} (heb : f.eb ≠ 0) {w : Nat} (hw : w < 2 ^ (1 + f.eb + f.fb)) (hn : fDecode f w ≠ .nan) :
    fRound f (fDecode f w) = w := by
  have hfrac : w % 2 ^ f.fb < 2 ^ f.fb := Nat.mod_lt _ (by positivity)
  have hexlt : w / 2 ^ f.fb % 2 ^ f.eb < 2 ^ f.eb := Nat.mod_lt _ (by positivity)
  have hsplit := encoding_split hw
  unfold fDecode at hn ⊢
  dsimp only at hn ⊢
  generalize w % 2 ^ f.fb = frac at *
  generalize w / 2 ^ f.fb % 2 ^ f.eb = ex at *
  by_cases hmax : ex = 2 ^ f.eb - 1
  · by_cases h0 : frac = 0
    · simp only [if_pos hmax, if_pos h0, fRound]
      rw [hmax, h0] at hsplit
      exact hsplit.symm
    · simp only [if_pos hmax, if_neg h0, ne_eq, not_true] at hn
  · by_cases h0 : ex = 0
    · simp only [if_neg hmax, if_pos h0]
      rw [fRound_subnormal _ hfrac heb]
      simpa [h0] using hsplit.symm
    · simp only [if_neg hmax, if_neg h0]
      rw [fRound_normal _ hfrac h0 (by omega)]
      exact hsplit.symm

/-- Settles O42: `fRound_fDecode` for the four formats; a NaN rounds to the canonical one by definition. -/
theorem floatEncodingsRoundToThemselves : Obligations.FloatEncodingsRoundToThemselves := by
  unfold Obligations.FloatEncodingsRoundToThemselves
  intro f hf w hw
  have heb : f.eb ≠ 0 := by
    simp only [List.mem_cons, List.not_mem_nil, or_false] at hf
    rcases hf with rfl | rfl | rfl | rfl <;> decide
  refine ⟨fRound_fDecode heb hw, fun h => ?_⟩
  rw [h, fRound]

end Sys2Proof.Laws
end

section
/-! Settles O40: the exact-window update (R58 to R61).  The terms add up to one scaled integer n × 2^e; its floor at an
anchor fits 64 bits exactly from one anchor on, and `anchorFor` is the least such at or above the old one. -/

namespace Sys2Proof.Laws

open Sys2Proof.Machine

/-! ### Scaled integers -/

theorem two_pow_toNat {d : Int} (h : 0 ≤ d) : (2 : ℚ) ^ d.toNat = 2 ^ d := by
  rw [← zpow_natCast, Int.toNat_of_nonneg h]

theorem two_zpow_add (a b : Int) : (2 : ℚ) ^ (a + b) = 2 ^ a * 2 ^ b := zpow_add₀ two_ne_zero a b

/-- A term brought to a lower exponent has the same value. -/
theorem scaled_at {n e lo : Int} (h : lo ≤ e) : ((n * 2 ^ (e - lo).toNat : Int) : ℚ) * 2 ^ lo = n * 2 ^ e := by
  push_cast
  rw [two_pow_toNat (by omega), mul_assoc, ← two_zpow_add, sub_add_cancel]

/-- The exact sum of terms (P, s). -/
def termSum (ts : List (Int × Int)) : ℚ := (ts.map fun q => (q.1 : ℚ) * 2 ^ q.2).sum

theorem termSum_cons (q : Int × Int) (ts : List (Int × Int)) : termSum (q :: ts) = q.1 * 2 ^ q.2 + termSum ts := by
  simp [termSum]

theorem sumScaled_eq {lo : Int} {ts : List (Int × Int)} (h : ∀ q ∈ ts, q.1 ≠ 0 → lo ≤ q.2) :
    (sumScaled lo ts : ℚ) * 2 ^ lo = termSum ts := by
  induction ts with
  | nil => simp [sumScaled, termSum]
  | cons q ts ih =>
    obtain ⟨n, e⟩ := q
    rw [List.forall_mem_cons] at h
    rw [sumScaled, termSum_cons, Int.cast_add, add_mul, ih h.2]
    by_cases hn : n = 0
    · simp [hn]
    · rw [scaled_at (h.1 hn)]

theorem minExp_le (lo : Int) (ts : List (Int × Int)) : minExp lo ts ≤ lo := by
  induction ts generalizing lo with
  | nil => exact le_rfl
  | cons q ts ih =>
    refine (ih _).trans ?_
    split
    · rename_i h
      exact h.2.le
    · exact le_rfl

/-- The common exponent lies at or below that of every term that is not 0. -/
theorem minExp_le_term {lo : Int} {ts : List (Int × Int)} : ∀ q ∈ ts, q.1 ≠ 0 → minExp lo ts ≤ q.2 := by
  induction ts generalizing lo with
  | nil => simp
  | cons r ts ih =>
    rw [List.forall_mem_cons]
    refine ⟨fun hr => (minExp_le (if r.1 ≠ 0 ∧ r.2 < lo then r.2 else lo) ts).trans ?_, ih⟩
    split
    · exact le_rfl
    · rename_i h
      exact not_lt.mp fun hlt => h ⟨hr, hlt⟩

/-! ### The floor at an anchor -/

theorem floorAt_eq (n e a : Int) : floorAt n e a = ⌊(n : ℚ) * 2 ^ e / 2 ^ a⌋ := by
  have hdiv : (n : ℚ) * 2 ^ e / 2 ^ a = n * 2 ^ (e - a) := by rw [mul_div_assoc, ← zpow_sub₀ two_ne_zero]
  rw [hdiv, floorAt]
  split
  · rw [← two_pow_toNat (by omega)]
    exact_mod_cast (Int.floor_intCast (R := ℚ) _).symm
  · rw [show e - a = -(a - e) by ring, zpow_neg, ← two_pow_toNat (by omega), ← div_eq_mul_inv]
    have h := Rat.floor_intCast_div_natCast n (2 ^ (a - e).toNat)
    push_cast at h
    exact h.symm

/-- Bits that a scaled integer takes in two's complement, its sign bit not counted. -/
def magBits (n : Int) : Int :=
  if 0 < n then (Nat.log2 n.natAbs + 1 : Nat)
  else (if n.natAbs ≤ 1 then 0 else Nat.log2 (n.natAbs - 1) + 1 : Nat)

theorem anchorFor_of_ne {n : Int} (h : n ≠ 0) (e a : Int) : anchorFor n e a = max a (e + magBits n - 63) := by
  unfold anchorFor magBits
  rw [if_neg h]
  split <;> rfl

/-- A power of 2 exceeds a positive integer from its bit length on. -/
theorem lt_two_zpow {m : Nat} (hm : m ≠ 0) (j : Int) : (m : ℚ) < 2 ^ j ↔ (Nat.log2 m + 1 : Nat) ≤ j := by
  rcases le_or_gt 0 j with hj | hj
  · lift j to Nat using hj
    have hlog : m < 2 ^ j ↔ Nat.log2 m + 1 ≤ j := (Nat.log2_lt hm).symm
    exact_mod_cast hlog
  · have h1 : (2 : ℚ) ^ j < 1 := zpow_lt_one_of_neg₀ one_lt_two hj
    have hm1 : (1 : ℚ) ≤ m := by exact_mod_cast Nat.one_le_iff_ne_zero.mpr hm
    exact ⟨fun h => absurd (h.trans h1) (not_lt.mpr hm1), fun h => by omega⟩

/-- A power of 2 reaches a positive integer from the bit length of its predecessor on. -/
theorem le_two_zpow {m : Nat} (hm : m ≠ 0) (j : Int) :
    (m : ℚ) ≤ 2 ^ j ↔ ((if m ≤ 1 then 0 else Nat.log2 (m - 1) + 1 : Nat) : Int) ≤ j := by
  rcases le_or_gt 0 j with hj | hj
  · lift j to Nat using hj
    rw [zpow_natCast]
    split
    · rename_i h1
      have h2 : 1 ≤ 2 ^ j := Nat.one_le_two_pow
      exact ⟨fun _ => by omega, fun _ => by exact_mod_cast h1.trans h2⟩
    · have hpred : (m : ℚ) ≤ 2 ^ j ↔ m - 1 < 2 ^ j := by
        rw [Nat.sub_lt_iff_lt_add (by omega), Nat.lt_add_one_iff]
        norm_cast
      rw [hpred, ← Nat.log2_lt (by omega)]
      omega
  · have h1 : (2 : ℚ) ^ j < 1 := zpow_lt_one_of_neg₀ one_lt_two hj
    have hm1 : (1 : ℚ) ≤ m := by exact_mod_cast Nat.one_le_iff_ne_zero.mpr hm
    refine ⟨fun h => absurd (h.trans_lt h1) (not_lt.mpr hm1), fun h => ?_⟩
    split at h <;> omega

/-- The floor of a value at an anchor fits 64 bits. -/
def Fits (V : ℚ) (k : Int) : Prop := min64 ≤ ⌊V / 2 ^ k⌋ ∧ ⌊V / 2 ^ k⌋ ≤ max64

theorem fits_iff (V : ℚ) (k : Int) : Fits V k ↔ -2 ^ (63 + k) ≤ V ∧ V < 2 ^ (63 + k) := by
  have hk : (0 : ℚ) < 2 ^ k := by positivity
  have h63 : (2 : ℚ) ^ (63 + k) = 2 ^ 63 * 2 ^ k := by rw [two_zpow_add]; norm_num
  rw [Fits, Int.le_floor, max64, Int.le_sub_one_iff, Int.floor_lt, le_div_iff₀ hk, div_lt_iff₀ hk, h63, min64]
  norm_num

/-- The floor of n × 2^e fits from one anchor on. -/
theorem fits_iff_magBits {n : Int} (hn : n ≠ 0) (e k : Int) : Fits ((n : ℚ) * 2 ^ e) k ↔ e + magBits n - 63 ≤ k := by
  have he : (0 : ℚ) < 2 ^ e := by positivity
  have hpow : (2 : ℚ) ^ (63 + k) = 2 ^ (63 + k - e) * 2 ^ e := by rw [← two_zpow_add, sub_add_cancel]
  have hm : n.natAbs ≠ 0 := Int.natAbs_ne_zero.mpr hn
  rw [fits_iff, hpow, ← neg_mul, mul_le_mul_iff_left₀ he, mul_lt_mul_iff_left₀ he, magBits]
  rcases lt_or_gt_of_ne hn with hneg | hpos
  · have hcast : ((n.natAbs : Nat) : ℚ) = -(n : ℚ) := by rw [Nat.cast_natAbs, abs_of_neg hneg, Int.cast_neg]
    have hlt : (n : ℚ) < 2 ^ (63 + k - e) := (Int.cast_lt_zero.mpr hneg).trans (by positivity)
    rw [if_neg hneg.not_gt, neg_le, ← hcast, le_two_zpow hm, and_iff_left hlt]
    constructor <;> intro h <;> linarith
  · have hcast : ((n.natAbs : Nat) : ℚ) = (n : ℚ) := by rw [Nat.cast_natAbs, abs_of_pos hpos]
    have hle : -(2 : ℚ) ^ (63 + k - e) ≤ n :=
      (neg_nonpos.mpr (by positivity)).trans (Int.cast_nonneg hpos.le)
    rw [if_pos hpos, ← hcast, lt_two_zpow hm, hcast, and_iff_right hle]
    constructor <;> intro h <;> linarith

theorem fits_zero (k : Int) : Fits 0 k := by
  simp [Fits, min64, max64]

/-- `anchorFor` is the least anchor at or above the old one at which the floor fits (R58). -/
theorem anchorFor_spec (n e a : Int) :
    a ≤ anchorFor n e a ∧ Fits ((n : ℚ) * 2 ^ e) (anchorFor n e a) ∧
      ∀ k, a ≤ k → Fits ((n : ℚ) * 2 ^ e) k → anchorFor n e a ≤ k := by
  by_cases hn : n = 0
  · subst hn
    simp only [anchorFor, if_true, Int.cast_zero, zero_mul]
    exact ⟨le_rfl, fits_zero a, fun _ h _ => h⟩
  · rw [anchorFor_of_ne hn]
    exact ⟨le_max_left _ _, (fits_iff_magBits hn e _).mpr (le_max_right _ _),
      fun k ha hk => max_le ha ((fits_iff_magBits hn e k).mp hk)⟩

/-! ### The update -/

theorem scaledEq_iff (x a n e : Int) : scaledEq x a n e = true ↔ (x : ℚ) * 2 ^ a = n * 2 ^ e := by
  have hlo : (2 : ℚ) ^ min a e ≠ 0 := by positivity
  rw [scaledEq, decide_eq_true_eq, ← scaled_at (min_le_left a e), ← scaled_at (n := n) (min_le_right a e),
    mul_left_inj' hlo, Int.cast_inj]

/-- A clamped value is written as it is. -/
theorem toInt_ofInt_clamp (v : Int) : (BitVec.ofInt 64 (clampI min64 max64 v)).toInt = clampI min64 max64 v := by
  have h := clampI_mem (lo := min64) (hi := max64) (by decide) v
  unfold min64 max64 at *
  rw [BitVec.toInt_ofInt, Int.bmod_def]
  omega

/-- The value that an update leaves exactly: the old one, or 0 for SET, and the terms. -/
def exactVal (set : Bool) (v : BitVec 64) (a : Int) (ts : List (Int × Int)) : ℚ :=
  ((if set then 0 else v.toInt : Int) : ℚ) * 2 ^ (if set then -512 else a) + termSum ts

/-- The update in terms of its exact value: the least anchor that fits, held at 511, and the clamped floor there. -/
theorem accScaled_spec (set : Bool) (v : BitVec 64) (a : Int) (ts : List (Int × Int)) :
    let a0 : Int := if set then -512 else a
    let V := exactVal set v a ts
    let u := accScaled set v a ts
    ∃ a1 : Int, (a0 ≤ a1 ∧ Fits V a1 ∧ ∀ k, a0 ≤ k → Fits V k → a1 ≤ k) ∧
      u.a = (if 511 < a1 then 511 else a1) ∧ u.aovf = decide (511 < a1) ∧
      u.x.toInt = clampI min64 max64 ⌊V / 2 ^ u.a⌋ ∧ (u.lossy = true ↔ (u.x.toInt : ℚ) * 2 ^ u.a ≠ V) := by
  intro a0 V u
  have hV : V = (sumScaled (minExp a0 ts) ((if set then 0 else v.toInt, a0) :: ts) : ℚ) * 2 ^ minExp a0 ts := by
    rw [sumScaled_eq, termSum_cons]
    · rfl
    · exact List.forall_mem_cons.mpr ⟨fun _ => minExp_le _ _, minExp_le_term⟩
  have hx : u.x.toInt = clampI min64 max64 ⌊V / 2 ^ u.a⌋ := by
    rw [hV, ← floorAt_eq]
    exact toInt_ofInt_clamp _
  refine ⟨_, hV ▸ anchorFor_spec _ _ _, ?_, rfl, hx, ?_⟩
  · simp only [u, accScaled, decide_eq_true_eq]
  · rw [ne_eq, hx, hV, ← scaledEq_iff, ← floorAt_eq, Bool.not_eq_true, ← Bool.not_eq_true']
    rfl

theorem clampI_of_mem {lo hi v : Int} (h : lo ≤ v ∧ v ≤ hi) : clampI lo hi v = v := by
  unfold clampI
  omega

/-- A value whose floor does not fit saturates on its side of 0 (R59). -/
theorem clampI_of_not_fits {V : ℚ} {k : Int} (h : ¬ Fits V k) :
    clampI min64 max64 ⌊V / 2 ^ k⌋ = if 0 < V then max64 else min64 := by
  have hk : (0 : ℚ) < 2 ^ k := by positivity
  unfold Fits at h
  split
  · rename_i hpos
    have h0 : 0 ≤ ⌊V / 2 ^ k⌋ := Int.floor_nonneg.mpr (div_pos hpos hk).le
    unfold clampI min64 max64 at *
    omega
  · rename_i hpos
    have h0 : ⌊V / 2 ^ k⌋ < 1 := by
      rw [Int.floor_lt, Int.cast_one]
      exact (div_nonpos_of_nonpos_of_nonneg (not_lt.mp hpos) hk.le).trans_lt one_pos
    unfold clampI min64 max64 at *
    omega

/-- A clamped value that is the exact one at its anchor is its floor there, which fits. -/
theorem fits_of_clamp_eq {V : ℚ} {k v : Int} (h : ((clampI min64 max64 v : Int) : ℚ) * 2 ^ k = V) : Fits V k := by
  have hk : (2 : ℚ) ^ k ≠ 0 := by positivity
  rw [Fits, ← h, mul_div_cancel_right₀ _ hk, Int.floor_intCast]
  exact clampI_mem (by decide) v

/-- Settles O40: `accScaled_spec`, with the least anchor that fits within 511 or above it. -/
theorem exactWindowUpdate : Obligations.ExactWindowUpdate := by
  unfold Obligations.ExactWindowUpdate
  intro set v a ts ha x0 a0 V fits u
  obtain ⟨a1, ⟨hge, hfit, hleast⟩, hanchor, haovf, hx, hlossy⟩ := accScaled_spec set v a ts
  have ha0 : a0 ≤ 511 := by
    unfold a0
    split
    · decide
    · exact ha
  refine ⟨fun ⟨k, hk, hk511, hkfit⟩ => ?_, fun hnone => ?_, hlossy⟩
  · have hle : a1 ≤ 511 := (hleast k hk hkfit).trans hk511
    rw [if_neg hle.not_gt] at hanchor
    rw [hanchor] at hx ⊢
    exact ⟨hge, hle, hfit, hleast, hx.trans (clampI_of_mem hfit), haovf.trans (decide_eq_false hle.not_gt)⟩
  · have hgt : 511 < a1 := not_le.mp fun hle => hnone a1 hge hle hfit
    have hno : ¬ Fits V 511 := hnone 511 ha0 le_rfl
    rw [if_pos hgt] at hanchor
    rw [hanchor] at hx hlossy ⊢
    refine ⟨rfl, haovf.trans (decide_eq_true hgt), hlossy.mpr fun h => ?_, hx.trans (clampI_of_not_fits hno)⟩
    rw [hx] at h
    exact hno (fits_of_clamp_eq h)

end Sys2Proof.Laws
end

section
/-! Refutes O60: the second clause names every device number, but the chain ends at 19 (R443). -/

namespace Sys2Proof.Laws

open Sys2Proof.Machine

/-- A load on a device that the scan chain does not have changes nothing, whatever the instruction. -/
theorem exec_jtagInstructionLoad_off_chain {dev : Nat} (h : 20 ≤ dev) (i : TapInstr) (s : State) :
    exec (.jtagInstructionLoad dev i) s = .next s :=
  if_pos (.inl h)

/-- The module at reset, in the life-cycle state BLANK: the debug port is open (Table 18.4). -/
def blankState : State := { State.reset with ctl := { State.reset.ctl with lifecycle := 0 } }

theorem debugOpen_blankState : debugOpen blankState.ctl = true := rfl

/-- Refutes O60: in BLANK a load of an instruction that the spec names nowhere on device 20 is answered with a next state,
where the statement wants the fault `undescribedUnit`. -/
theorem not_everyCommandIsAnswered : ¬ Obligations.EveryCommandIsAnswered := by
  unfold Obligations.EveryCommandIsAnswered
  intro h
  obtain ⟨-, hstops⟩ := h (.nop 0 0) blankState
  have hfault := hstops 20 0 debugOpen_blankState
  rw [exec_jtagInstructionLoad_off_chain (Nat.le_refl 20)] at hfault
  cases hfault

end Sys2Proof.Laws
end

section
/-! Settles O5 to O8: the commands of a core's stream.  Where the issue stage picks a head command that can issue, its row
issues it and its body runs on the state `issued` (`issueCmd_go`). -/

namespace Sys2Proof.Laws

open Sys2Proof.Machine Sys2Proof.Safety

section
variable {s : State} {c i : Nat} {sl : Slot} {q : QCmd}

/-- The row of a command that can issue answers its body's state. -/
theorem next_issueCmd {sel : Bytes → Bool} {body : State → Slot → QCmd → Nat → State} (h : Issues s c i sl q)
    (hs : sel q.bytes = true) :
    (Host.Outcome.next (issueCmd s c i sel body) : Res) = .next (body (issued s c i sl q) sl q (coreAt s c).nextId) :=
  congrArg _ (issueCmd_go h hs)

/-! ### O5: fences, semaphores, memory waits, SPAD commands -/

theorem issueFence_go {kind : Nat} (h : Issues s c i sl q) (hop : cmdOp q.bytes = 0x02) (hk : fld q.bytes 8 1 0 = kind) :
    issueFence s c i kind =
      .next (modCtx (issued s c i sl q) c i fun x => { x with wait := some (.fence (decide (kind = 1)) q) }) :=
  next_issueCmd h (decide_eq_true ⟨hop, hk⟩)

@[simp] theorem signalBad_issued (j h n : Nat) : signalBad (issued s c i sl q) j h n = signalBad s j h n := by
  simp [signalBad]

@[simp] theorem usDeadline_issued (us : Nat) : usDeadline (issued s c i sl q) us = usDeadline s us := by
  simp [usDeadline]

theorem exec_semWait_go {m : Sem} (h : Issues s c i sl q) (hop : cmdOp q.bytes = 0x03)
    (hm : tabFind s.jobs.sems (fld q.bytes 8 12 0) = some m) (ht : jobTenant m.owner = jobTenant sl.jobid) :
    exec (.semWait c i) s =
      .next (semGrant (modCtx (setSem { issued s c i sl q with jobs := { s.jobs with nextWait := s.jobs.nextWait + 1 } } (fld q.bytes 8 12 0)
          { m with waiters := m.waiters ++ [{ jobid := sl.jobid, jcore := sl.jcore, amount := fieldAt q.bytes 12 4,
                                              num := s.jobs.nextWait }] }) c i
        fun x => { x with wait := some (.sem (fld q.bytes 8 12 0) (fieldAt q.bytes 12 4)
          (usDeadline s (fieldAt q.bytes 16 4)) q) }) (fld q.bytes 8 12 0)) := by
  refine (next_issueCmd h (decide_eq_true hop)).trans ?_
  simp [hm, ht]

theorem exec_semSignal_go (h : Issues s c i sl q) (hop : cmdOp q.bytes = 0x04)
    (hb : signalBad s sl.jobid (fld q.bytes 8 12 0) (fieldAt q.bytes 12 4) = none) :
    exec (.semSignal c i) s = .next (semAdd (issued s c i sl q) (fld q.bytes 8 12 0) (fieldAt q.bytes 12 4)) := by
  refine (next_issueCmd h (decide_eq_true hop)).trans ?_
  simp [hb]

theorem exec_memWait_go (h : Issues s c i sl q) (hop : cmdOp q.bytes = 0x05) :
    exec (.memWait c i) s = .next (memRead (issued s c i sl q) c i sl (fld q.bytes 16 56 0) (fld q.bytes 8 1 0)
      (fieldAt q.bytes 24 8) (usDeadline s (fieldAt q.bytes 32 4)) q) := by
  refine (next_issueCmd h (decide_eq_true hop)).trans ?_
  simp

/-- Settles O5: each row issues its command (`next_issueCmd`). -/
theorem streamCommandsIssue : Obligations.StreamCommandsIssue := by
  unfold Obligations.StreamCommandsIssue
  intro s c i sl q h
  refine ⟨fun hop => ?nop, issueFence_go h, issueFence_go h, fun _ => exec_semWait_go h, exec_semSignal_go h, exec_memWait_go h,
    fun hop => next_issueCmd h (decide_eq_true hop), fun hop hup => next_issueCmd h ?up,
    fun hop hdown => next_issueCmd h ?down⟩
  case nop => exact congrArg (fun t => Host.Outcome.next (settleHalt t c i)) (issueCmd_go h (by simp [hop]))
  case up => simp [hop, hup]
  case down => simp [hop, hdown]

/-! ### O6: units -/

theorem issueTm_go {op : Nat} (h : Issues s c i sl q) (hop : cmdOp q.bytes = op) :
    issueTm s c i op = .next (modCore (issued s c i sl q) c fun k => { k with tm := k.tm ++
      [{ id := (coreAt s c).nextId, slot := i, cmd := q, regs := sl.ctx.regions, at0 := merAt s c }] }) := by
  refine (next_issueCmd h (decide_eq_true hop)).trans ?_
  simp

theorem issueHint_go {kind : Nat} {hint : State → Nat → Nat → State} (h : Issues s c i sl q) (hop : cmdOp q.bytes = 0x23)
    (hk : fld q.bytes 8 1 0 = kind) :
    issueHint s c i kind hint = .next (modCore
      ((hintPages (fld q.bytes 16 56 0) (fieldAt q.bytes 24 4) (fieldAt q.bytes 28 4)).foldl
        (fun u p => hint u (jobTenant sl.jobid) p) (issued s c i sl q)) c fun k =>
      { k with tm := k.tm ++ [{ id := (coreAt s c).nextId, slot := i, cmd := q, stage := .applied, regs := sl.ctx.regions }] }) :=
  next_issueCmd h (decide_eq_true ⟨hop, hk⟩)

theorem vuIssue_go {sel : Bytes → Bool} {regs : State → Core → Slot → Bytes → Tab Word} (h : Issues s c i sl q)
    (hs : sel q.bytes = true) :
    vuIssue s c i sel regs = modCore (modCtx (issued s c i sl q) c i fun x =>
      { x with vregs := regs (issued s c i sl q) (coreAt (issued s c i sl q) c) sl q.bytes }) c fun k =>
        { k with vu := k.vu ++ [{ id := (coreAt s c).nextId, slot := i }] } :=
  issueCmd_go h hs

/-- An ARRAY.PASS joins the array, and its cost is taken from the allowance (R464). -/
theorem exec_arrayPass_go (h : Issues s c i sl q) (hop : cmdOp q.bytes = 0x10) : exec (.arrayPass c i) s = .next
    (let s1 := issued s c i sl q
     let k0 := coreAt s1 c
     let keeps := match tagAhead k0 with | some w => tagKeeps w sl.jobid (passF q.bytes) | none => false
     modCore (govIssue s1 c (passCost k0 sl.jobid q.bytes)) c fun k =>
      { (if keeps then sbRelease k (sbOwnerEarly (coreAt s c).nextId) else k) with passes := k.passes ++
        [{ id := (coreAt s c).nextId, slot := i, cmd := q, issueCyc := cycNow s1 c, regs := sl.ctx.regions
           hold := drainHold k0 i sl q.bytes }] }) := by
  refine (next_issueCmd h (decide_eq_true hop)).trans ?_
  dsimp only
  generalize tagAhead _ = w
  cases w with
  | none => rfl
  | some w => rfl

/-- Settles O6: each row issues its command (`next_issueCmd`), and its body hands it to its unit. -/
theorem unitCommandsIssue : Obligations.UnitCommandsIssue := by
  unfold Obligations.UnitCommandsIssue
  intro s c i sl q h
  refine ⟨exec_arrayPass_go h, fun hop => next_issueCmd h (decide_eq_true hop), issueTm_go h, issueTm_go h, issueTm_go h,
    issueTm_go h, issueHint_go (hint := fun u t p => hintWillneed u t (walkHubCore c) p) h, issueHint_go (hint := hintCold) h,
    issueHint_go (hint := fun u t p => hintDemote u t (walkHubCore c) p) h,
    fun hop => congrArg _ (vuIssue_go h (decide_eq_true hop)), fun hop => next_issueCmd h (decide_eq_true hop)⟩

/-! ### O7 and O8: the vector unit -/

theorem vuLanes_go {n : Nat} {f : VopF → Nat → Nat → Nat → Nat} (h : Issues s c i sl q) (hs : selVop n q.bytes = true) :
    vuLanes s c i n f = .next (modCore (modCtx (issued s c i sl q) c i fun x =>
      { x with vregs := vMap sl.ctx.vregs (vopF q.bytes) (f (vopF q.bytes)) }) c fun k =>
        { k with vu := k.vu ++ [{ id := (coreAt s c).nextId, slot := i }] }) :=
  congrArg _ (vuIssue_go h hs)

/-- Every operation of the list is issued by the lane-wise rule with its code and its value. -/
theorem exec_laneOps : ∀ p ∈ laneOps, ∀ c i s, exec (p.1 c i) s = vuLanes s c i p.2.1 p.2.2 := by
  unfold laneOps
  iterate 25 refine List.forall_mem_cons.mpr ⟨fun _ _ _ => rfl, ?_⟩
  exact fun _ hp => nomatch hp

/-- Settles O7: `exec_laneOps`, then `vuLanes_go`. -/
theorem vectorLaneCommandsIssue : Obligations.VectorLaneCommandsIssue := by
  unfold Obligations.VectorLaneCommandsIssue
  intro p hp s c i sl q h hs
  exact (exec_laneOps p hp c i s).trans (vuLanes_go h hs)

theorem vuNet_go {n : Nat} {f : State → Tab Word → VopF → List Elem → NetOut} (h : Issues s c i sl q)
    (hs : selVop n q.bytes = true) :
    vuNet s c i n f = .next (modCore (modCtx (issued s c i sl q) c i fun x => { x with
      vregs := netWrite sl.ctx.vregs (vopF q.bytes)
        (f (issued s c i sl q) sl.ctx.vregs (vopF q.bytes) (netElems sl.ctx.vregs (vopF q.bytes))) }) c fun k =>
        { k with vu := k.vu ++ [{ id := (coreAt s c).nextId, slot := i }] }) :=
  congrArg _ (vuIssue_go h hs)

/-- BMERGE draws 512 free values. -/
theorem exec_vuBmerge {t : State} (e : (vuNet s c i 0x41 fun s1 _ f xs =>
      netBmerge f.ty (bitOf f.imm 0) (bitOf f.imm 1) xs fun n => (Config.freeValue (s1.freeCtr + n)).toNat) = .next t) :
    exec (.vuBmerge c i) s = .next { t with freeCtr := t.freeCtr + 512 } := by
  change execVuBmerge c i s = _
  unfold execVuBmerge
  rw [e]

/-- Settles O8: the reductions and SOFTMAX by `vuIssue_go`, the network's operations by `vuNet_go`. -/
theorem vectorGroupCommandsIssue : Obligations.VectorGroupCommandsIssue := by
  unfold Obligations.VectorGroupCommandsIssue
  intro s c i sl q h f done net xs
  refine ⟨fun hs => congrArg _ (vuIssue_go h hs), fun hs => congrArg _ (vuIssue_go h hs), fun hs => congrArg _ (vuIssue_go h hs),
    vuNet_go (f := fun _ _ f xs => netBsort f.ty (bitOf f.imm 0) xs) h, fun hs => ?_,
    vuNet_go (f := fun _ _ f xs => netTopk f.ty (bitOf f.imm 0) (bitOf f.imm 1) (bitsOf f.imm 17 8) xs) h,
    vuNet_go (f := fun _ v f xs => netCompact f.ty (bitOf f.imm 0) (bitOf f.imm 2) (vLane v f.vm 0).toNat xs) h,
    fun hs => congrArg _ (vuIssue_go h hs)⟩
  rw [exec_vuBmerge (vuNet_go h hs)]
  simp only [net, done, xs, f, modCtx, modCore_freeCtr, modSlot_freeCtr, issued_freeCtr]

end

end Sys2Proof.Laws
end

section
/-! Settles O9: the events of a core's stream. -/

namespace Sys2Proof.Laws

open Sys2Proof.Machine Sys2Proof.Safety

variable {s : State} {c i : Nat} {sl : Slot}

theorem exec_commandFetch_ok {va : Nat} {l : Leaf} (hs : slotAt s c i = some sl) (hf : canFetch s (coreAt s c) sl = true)
    (hva : fetchVa (fetchPrep sl.ctx) = some va) :
    let tn := jobTenant sl.jobid
    let s0 := modCtx s c i fun _ => fetchPrep sl.ctx
    let s1 := coreWalk (if (fetchPrep sl.ctx).plotq.length < sl.ctx.plotq.length then deal s0 sl.jobid else s0) c tn (pageOf va)
    checkPage s1 tn (pageOf va) .fetch = .ok l → l.mig = false →
    exec (.commandFetch c i) s = .next (touchPage (modCtx (hubRead s1 tn va 64) c i fun y =>
      fetchPush y (readMem s tn va 64)) tn (pageOf va) (walkHubCore c)) := by
  intro tn s0 s1 hok hmig
  change execCommandFetch c i s = _
  simp only [execCommandFetch, hs, hf, hva, Bool.not_true, Bool.false_eq_true, if_false]
  rw [hok]
  simp only [hmig, Bool.false_eq_true, if_false]
  rfl

theorem exec_semWaitTimeout_due {j jc h n d : Nat} {x : Ctx} {q : QCmd} (hx : jcCtx s j jc = some x)
    (hw : x.wait = some (.sem h n (some d) q)) :
    exec (.semWaitTimeout j jc) s =
      .next (semGrant (haltWaiter (semWithdraw (advanceTo s d) j jc) j jc stTimeout h) h) := by
  change execSemWaitTimeout j jc s = _
  simp only [execSemWaitTimeout, hx, hw]

theorem exec_plotDone_complete {r : RunPlot} {j : Job} (hs : slotAt s c i = some sl)
    (hc : plotComplete s (coreAt s c) i sl = true) (hr : sl.ctx.run = some r) (hj : jobAt s sl.jobid = some j) :
    exec (.plotDone c i) s = .next (settleEnding (deal (settleBatches (settleHalt (donesemSignal
        (modJob (modCtx s c i (plotReset j.rtab)) sl.jobid fun x => { x with
          plots := x.plots + 1, batches := tabUpd x.batches r.plot.batch fun b => { b with done := b.done + 1 } })
        c i sl r.plot) c i) sl.jobid false) sl.jobid) sl.jobid) := by
  change execPlotDone c i s = _
  simp only [execPlotDone, hs, hc, hr, hj, Bool.not_true, Bool.false_eq_true, if_false]

/-- Settles O9: each event of a slot under the conditions that let it happen. -/
theorem streamEventsComplete : Obligations.StreamEventsComplete := by
  unfold Obligations.StreamEventsComplete
  intro s c i sl hs
  refine ⟨fun va l => exec_commandFetch_ok hs, fun j jc x h n d q => exec_semWaitTimeout_due, ?poll, ?timeout, ?wake, ?off,
    fun r j => exec_plotDone_complete hs⟩
  case poll =>
    intro va cond value dl np q hw hres
    change execMemWaitPoll c i s = _
    simp only [execMemWaitPoll, hs, hw, hres, if_true]
  case timeout =>
    intro va cond value d hub np q hw hres
    change execMemWaitTimeout c i s = _
    simp only [execMemWaitTimeout, hs, hw, hres, Bool.not_true, Bool.false_eq_true, if_false]
  case wake =>
    intro g d hg hd
    change execSegmentWakeDone c g s = _
    simp only [execSegmentWakeDone, hg, hd]
  case off =>
    intro g d hg hd
    change execSegmentOff c g s = _
    simp only [execSegmentOff, hg, hd]

end Sys2Proof.Laws
end

section
/-! Settles O10: the events of the array, its drain path and the vector unit. -/

namespace Sys2Proof.Laws

open Sys2Proof.Machine Sys2Proof.Safety

/-- Settles O10: the pass's write by `exec_accumulatorWrite`, each other event under the conditions that let it happen. -/
theorem arrayEventsComplete : Obligations.ArrayEventsComplete := by
  unfold Obligations.ArrayEventsComplete
  intro s c
  refine ⟨?plane, ?write, ?start, ?drained, ?vu⟩
  case plane =>
    intro p0 sl hp hs hd k p f keep w t
    change execPassFirstPlane c s = _
    simp only [execPassFirstPlane, hp, hs, hd, Bool.false_eq_true, if_false]
    rfl
  case write =>
    intro p sl hp hs k f v entry ups s1 s2 s3
    have h := exec_accumulatorWrite hp hs
    unfold columnUpds putColumns at h
    exact h
  case start =>
    intro d sl hd hs hr k f t done
    change execDrainStart c s = _
    simp only [execDrainStart, hd, hs, hr, Bool.not_true, Bool.false_eq_true, if_false]
    rfl
  case drained =>
    intro d rest hd hst
    change execDrainComplete c s = _
    simp only [execDrainComplete, hd, hst, Bool.not_true, Bool.false_eq_true, if_false]
  case vu =>
    intro v rest hv
    change execVectorUnitComplete c s = _
    simp only [execVectorUnitComplete, hv, modCore, List.drop_one, List.tail_cons]

end Sys2Proof.Laws
end

section
/-! Settles O12 and O13: the tile mover's events and the steals. -/

namespace Sys2Proof.Laws

open Sys2Proof.Machine Sys2Proof.Safety

/-- Where every page of a run is here, the arrivals name no other state. -/
theorem arrivals_here {s : State} {c t : Nat} {a : Acc} {ps : List Nat} (h : ∀ p ∈ ps, arriveAt s c t a p = .here)
    {v : Arrive} (hv : v ≠ .here) : (ps.map (arriveAt s c t a)).contains v = false := by
  rw [List.contains_eq_mem, decide_eq_false_iff_not, List.mem_map]
  rintro ⟨p, hp, e⟩
  exact hv (e.symm.trans (h p hp))

@[simp] theorem boundSlot_jobid (sl : Slot) (regs : Tab Region) : (boundSlot sl regs).jobid = sl.jobid := rfl

/-- Settles O12: each event of a command of the tile mover under the conditions that let it happen. -/
theorem tileMoverEventsComplete : Obligations.TileMoverEventsComplete := by
  unfold Obligations.TileMoverEventsComplete
  intro s c id x sl hx hs
  refine ⟨?walk, ?access, ?next, ?last⟩
  case walk =>
    intro g hst hpark hres hg
    change execTranslationWalk c id s = _
    simp [execTranslationWalk, hx, hs, hst, hpark, hres, hg]
  case access =>
    intro g hst hg hhere
    change execHubAccess c id s = _
    have h1 := arrivals_here hhere (v := .held) (by decide)
    have h2 := arrivals_here hhere (v := .stale) (by decide)
    have h3 := arrivals_here hhere (v := .peer) (by decide)
    simp only [execHubAccess, hx, hs, hst, hg, boundSlot_jobid, h1, h2, h3, ne_eq, not_true, Bool.false_eq_true, if_false]
  case next =>
    intro hst hop hlt
    change execTmRunDone c id s = _
    simp [execTmRunDone, hx, hs, hst, hop, hlt]
  case last =>
    intro hst hop hle
    change execTmRunDone c id s = _
    simp [execTmRunDone, hx, hs, hst, hop, Nat.not_lt.mpr hle]

variable {s : State} {c j : Nat}

theorem exec_stealRequest_go {v n : Nat} (hm : maySteal s c j = true) (hv : chooseVictim s c j = some (v, n)) :
    execStealRequest c j s = .next (modCore s c fun k => { k with steals := k.steals ++
        [{ jobid := j, victim := v, thresh := n, due := cycNow s c + if dieOf v = dieOf c then 48 else 420 }] }) := by
  simp [execStealRequest, hm, hv]

/-- Settles O13: the request, the victim's grant, and the retry, which is a request again. -/
theorem stealsComplete : Obligations.StealsComplete := by
  unfold Obligations.StealsComplete
  intro s c j
  refine ⟨fun v n => exec_stealRequest_go, ?arrival, ?retry⟩
  case arrival =>
    dsimp only
    intro r v me p q hr hv hme hth hp
    change execStealRequestArrival c j s = _
    simp only [execStealRequestArrival, hr]
    rw [hv, hme]
    simp only [Nat.not_lt.mpr hth, hp, if_false]
  case retry =>
    intro r hr u hm hv
    obtain ⟨⟨v, n⟩, hv⟩ := Option.isSome_iff_exists.mp hv
    refine ⟨v, n, ?_⟩
    change execStealRetry c j s = _
    simp only [execStealRetry, hr]
    exact exec_stealRequest_go hm hv

end Sys2Proof.Laws
end

section
/-! Settles O14 and O15: the ATLAS commands. -/

namespace Sys2Proof.Laws

open Sys2Proof.Machine Sys2Proof.Safety

/-- With no migration under way, no page has one. -/
theorem migOf_of_nil {s : State} (h : s.atlas.migs = []) (t p : Nat) : migOf s t p = none := by
  simp [migOf, h]

/-- Settles O14: each command starts (`runCmd_takes`, `runCmdIf_takes`), and its body takes the branch that its conditions
leave. -/
theorem atlasMappingCommandsComplete : Obligations.AtlasMappingCommandsComplete := by
  unfold Obligations.AtlasMappingCommandsComplete
  intro s r x
  dsimp only
  refine ⟨?map, ?unmap, ?protect, ?pin, ?unpin, ?willneed, ?cold, ?demote, ?zero⟩
  case map =>
    intro h hact hfit halloc
    change execAtlasMap r s = _
    refine (runCmd_takes h).trans ?_
    simp only [cmdTenant_started]
    simp [hact, Nat.not_lt.mpr hfit, halloc]
  case unmap =>
    intro h hmig hacc
    change execAtlasUnmap r s = _
    refine (runCmd_takes h).trans ?_
    simp only [cmdTenant_started]
    simp [hmig, hacc]
  case protect =>
    intro h hacc
    change execAtlasProtect r s = _
    refine (runCmd_takes h).trans ?_
    simp only [cmdTenant_started]
    simp [hacc]
  case pin =>
    intro h hsel hact hlen hmig hpsn hwin v hv hmigv
    change execAtlasPin r s = _
    refine (runCmdIf_takes h hsel).trans ?_
    simp only [cmdTenant_started]
    simp [hact, hlen, hmig, hpsn, hwin, hv, hmigv]
  case unpin =>
    intro h hsel hlen hmig
    change execAtlasUnpin r s = _
    refine (runCmdIf_takes h (by simp [hsel])).trans ?_
    simp only [cmdTenant_started]
    simp [hlen, hmig]
  case willneed =>
    intro h hk hact hnone
    change execAtlasHintWillneed r s = _
    refine (runCmdIf_takes h (by simp [hk])).trans ?_
    simp only [cmdTenant_started]
    simp [hact, migOf_of_nil hnone]
  case cold =>
    intro h hk
    change execAtlasHintCold r s = _
    exact runCmdIf_takes h (decide_eq_true hk)
  case demote =>
    intro h hk hact hnone
    change execAtlasHintDemote r s = _
    refine (runCmdIf_takes h (decide_eq_true hk)).trans ?_
    simp only [cmdTenant_started]
    simp [hact, migOf_of_nil hnone]
  case zero =>
    intro h hmig
    change execAtlasZero r s = _
    refine (runCmd_takes h).trans ?_
    simp only [cmdTenant_started]
    simp [hmig] <;> rfl

/-- A TRANSPOSE whose one destination tile is ready, and leaves no remote part outstanding, completes. -/
theorem transGo_single {s : State} {x : Inflight} {r : CmdRef} {t k n : Nat} {f : TransF} (hk : k = 1) (hn : n = 0)
    (href : x.ref = r) (hstop : x.stopped = none)
    (hr : cmdReady s x t walkHubControl .read (transPages f (transElems f (pageOf f.dst))) = .ready)
    (hw : cmdReady s x t walkHubControl .write (if transElems f (pageOf f.dst) = [] then [] else [pageOf f.dst]) = .ready)
    (hroom : partsRoom s t ((transWrites s x t f (pageOf f.dst) (transElems f (pageOf f.dst))).map (·.1)) = true)
    {v : State} (hv : touchCmd ((transWrites s x t f (pageOf f.dst) (transElems f (pageOf f.dst))).foldl
      (fun w q => partWrite w x t q.1 q.2) s) r t walkHubControl (transPages f (transElems f (pageOf f.dst)) ++
        (if transElems f (pageOf f.dst) = [] then [] else [pageOf f.dst])) = v)
    (hsent : ((inflAt v r).map (·.sent)).getD [] = []) : transGo x t f k n s = complete v r stOk 1 0 := by
  subst hk hn href
  simp [transGo, hstop, hr, hw, hroom, hv, hsent]

/-- Settles O15: each command starts, and its body takes the branch that its conditions leave; TRANSPOSE does its one
destination tile. -/
theorem atlasConfigurationCommandsComplete : Obligations.AtlasConfigurationCommandsComplete := by
  unfold Obligations.AtlasConfigurationCommandsComplete
  intro s r x
  dsimp only
  refine ⟨?create, ?remove, ?lend, ?hreg, ?hunreg, ?fring, ?policy, ?entries, ?usage, ?transpose⟩
  case create =>
    intro h hsel hnew hfit
    change execAtlasPeerCreate r s = _
    refine (runCmdIf_takes h hsel).trans ?_
    simp only [cmdTenant_started]
    simp [hnew, Nat.not_lt.mpr hfit]
  case remove =>
    intro w h hsel hw hacc
    change execAtlasPeerRemove r s = _
    refine (runCmdIf_takes h (by simp [hsel])).trans ?_
    simp only [cmdTenant_started]
    simp [hw, hacc]
  case lend =>
    intro h hlent hfit
    change execAtlasLend r s = _
    refine (runCmd_takes h).trans ?_
    simp only [Nat.not_lt.mpr hlent, hfit, if_false]
  case hreg =>
    intro h hnew
    change execAtlasHreg r s = _
    refine (runCmd_takes h).trans ?_
    simp [hnew]
  case hunreg =>
    intro g h hg hempty
    change execAtlasHunreg r s = _
    refine (runCmd_takes h).trans ?_
    simp only [hg, hempty]
  case fring =>
    intro h hread
    change execAtlasFring r s = _
    refine (runCmd_takes h).trans ?_
    simp only [cmdTenant_started]
    simp [hread]
  case policy =>
    intro h
    change execAtlasPolicy r s = _
    exact runCmd_takes h
  case entries =>
    intro h hsel
    change execAtlasQueryEntries r s = _
    exact runCmdIf_takes h (by simp [hsel])
  case usage =>
    intro h hsel
    change execAtlasQueryUsage r s = _
    exact runCmdIf_takes h hsel
  case transpose =>
    intro h hsent hdone hstop htotal hr hw hroom hsent' href
    change execAtlasTranspose r s = _
    refine (runCmd_takes h).trans ?_
    rw [if_neg (not_not_intro hsent), htotal]
    have hone : 0 + 1 - x.done = 1 := by rw [hdone]
    exact congrArg _ (transGo_single (x := { x with started := true }) hone hdone href hstop hr hw hroom rfl hsent')

end Sys2Proof.Laws
end

section
/-! Settles O16: migrations, heat decay, zeroing and the fault ring. -/

namespace Sys2Proof.Laws

open Sys2Proof.Machine Sys2Proof.Safety

/-- Settles O16: each event takes the branch that its conditions leave. -/
theorem atlasEventsComplete : Obligations.AtlasEventsComplete := by
  unfold Obligations.AtlasEventsComplete
  intro s
  refine ⟨?promotion, ?demotion, ?decay, ?zeroed, ?ring, ?consumer⟩
  case promotion =>
    intro t p m l f hm hl htier hready hserved hlost hf
    change execPromotionComplete t p 0 s = _
    simp [execPromotionComplete, hm, hl, htier, hready, hserved, hlost, hf]
  case demotion =>
    intro t p slot m l f0 loc hm hl htier hready hserved hloc hlost hdst ht4 hidle hother
    change execDemotionComplete t p 0 slot s = _
    rw [hloc] at hother
    simp [execDemotionComplete, hm, hl, htier, hready, hserved, hlost, hdst, hidle, hloc, hother]
  case decay =>
    intro t
    rfl
  case zeroed =>
    intro f hf hkeep
    change execFrameZeroed f s = _
    simp only [execFrameZeroed, hf, hkeep, Bool.false_eq_true, if_true, if_false]
  case ring =>
    intro t rcd rest g hwait hroom hstall hring hcons
    change execFaultRingWrite t true s = _
    simp [execFaultRingWrite, hwait, hroom, hstall, hring, hcons]
  case consumer =>
    intro fn v hpresent hfn
    change execFringCidxWrite fn v s = _
    exact if_pos ⟨hpresent, hfn⟩

end Sys2Proof.Laws
end

section
/-! Settles O17 and O18: the mailboxes' events and the DEV, TEN and LOG commands. -/

namespace Sys2Proof.Laws

open Sys2Proof.Machine Sys2Proof.Safety

/-- Settles O17: each event takes the branch that its conditions leave. -/
theorem mailboxEventsComplete : Obligations.MailboxEventsComplete := by
  unfold Obligations.MailboxEventsComplete
  intro s
  refine ⟨?doorbell, ?enable, ?disable, ?fetch, ?mctp, ?timeout, ?ring, ?consumer, ?close, ?survey⟩
  case doorbell =>
    intro fn m v hfn hm hpresent hready
    have hup : ¬ (64 ≤ fn ∨ 64 < m ∨ !fnPresent s fn ∨ !(funcAt s fn).ready) := by simp [hfn, hm, hpresent, hready]
    exact ⟨if_neg hup, if_neg hup⟩
  case enable =>
    intro fn
    dsimp only
    intro hfn hpresent hready hoff hsq hsq' hcq hcq' hvec
    change execMboxEnable fn s = _
    simp [execMboxEnable, Nat.not_le.mpr hfn, hpresent, hready, hoff, Nat.not_le.mpr hvec, Nat.not_lt.mpr hsq,
      Nat.not_lt.mpr hsq', Nat.not_lt.mpr hcq, Nat.not_lt.mpr hcq']
  case disable =>
    intro fn hen
    change execMboxDisable fn s = _
    simp [execMboxDisable, hen]
  case fetch =>
    intro entry fn m turn hpick
    change execMboxFetch entry s = _
    simp only [execMboxFetch, hpick]
  case mctp =>
    intro entry data hup hfree
    change execMctpRequest entry data s = _
    simp only [execMctpRequest, hup, hfree, Bool.not_true, Bool.false_eq_true, or_self, if_false]
  case timeout =>
    intro r x d hx hd hst hnew
    change execCommandTimeout r s = _
    simp [execCommandTimeout, hx, hd, hst, stopCmd, hnew]
  case ring =>
    intro ha n num rest y hring hwait hroom hstall hcons hy
    change execLogRingWrite true s = _
    simp only [execLogRingWrite, hring, hwait, hroom, hstall, hy]
    simp [hcons]
  case consumer =>
    intro v
    rfl
  case close =>
    intro src code arg0 e he
    exact exec_eventCoalesceClose he
  case survey =>
    intro cons v hv
    change execSurveyPeriod cons s = _
    simp only [execSurveyPeriod, hv]

/-- Settles O18: each command starts, and its body takes the branch that its conditions leave. -/
theorem mailboxCommandsComplete : Obligations.MailboxCommandsComplete := by
  unfold Obligations.MailboxCommandsComplete
  intro s r x
  dsimp only
  refine ⟨?identify, ?create, ?remove, ?reset, ?cancel, ?able, ?config, ?query, ?ring, ?filter, ?read⟩
  case identify =>
    intro h
    change execDevIdentify r s = _
    exact runCmd_takes h
  case create =>
    intro h hsel hoff
    change execDevMboxCreate r s = _
    refine (runCmdIf_takes h hsel).trans ?_
    simp [hoff]
  case remove =>
    intro h hsel hoff hdrain hfree
    change execDevMboxRemove r s = _
    refine (runCmdIf_takes h (by simp [hsel])).trans ?_
    simp [hoff, hdrain, hfree]
  case reset =>
    intro h
    change execDevReset r s = _
    exact runCmd_takes h
  case cancel =>
    intro y h hy hnew hst
    change execDevCancel r s = _
    refine (runCmd_takes h).trans ?_
    simp [hy, hnew, stopCmd, hst]
  case able =>
    intro h hwait
    refine ⟨fun hsel hoff => ?enable, fun hsel hon => ?disable⟩
    case enable =>
      change execTenEnable r s = _
      refine (runCmdIf_takes h hsel).trans ?_
      simp [hwait, hoff]
    case disable =>
      change execTenDisable r s = _
      refine (runCmdIf_takes h (by simp [hsel])).trans ?_
      simp [hwait, hon]
  case config =>
    intro h hwait hfit
    change execTenConfig r s = _
    refine (runCmd_takes h).trans ?_
    simp only [hwait, hfit, Bool.false_eq_true, if_false]
    rfl
  case query =>
    intro h hmay hwait
    change execTenQuery r s = _
    refine (runCmd_takes h).trans ?_
    have hmay' : ¬ (r.fn ≠ 0 ∧ parFld x.entry 0 5 0 ≠ r.fn) := by simpa [or_iff_not_imp_left] using hmay
    simp [hmay', hwait]
  case ring =>
    intro h
    refine ⟨fun hn => ?gone, fun hn hplain => ?set⟩
    case gone =>
      change execLogRing r s = _
      exact (runCmd_takes h).trans (congrArg _ (if_pos hn))
    case set =>
      change execLogRing r s = _
      refine (runCmd_takes h).trans ?_
      simp [hn, hplain]
  case filter =>
    intro h
    change execLogFilter r s = _
    exact runCmd_takes h
  case read =>
    intro h
    change execLogRead r s = _
    exact runCmd_takes h

end Sys2Proof.Laws
end

section
/-! Settles O19: DMA.COPY and the PERF commands. -/

namespace Sys2Proof.Laws

open Sys2Proof.Machine Sys2Proof.Safety

/-- A command whose work has begun can be run. -/
theorem runnable_of_running {s : State} {r : CmdRef} {op : Nat} {x : Inflight} (h : Running s r op x) :
    runnable s r op = some x := by
  have hmay := running_mayStart h
  obtain ⟨hx, hop, hst, -, -⟩ := h
  simp [runnable, hx, hop, hst, hmay]

/-- The destination of a piece in a plain host range. -/
theorem dcWrite_host {s : State} {x : Inflight} {off n : Nat} {bs : Bytes} (h : dcDkind x.entry = 0) :
    dcWrite s x off n bs = dcPieceDone (hostPutP s (ownCmd x.ref) x.ref.fn (mboxPasid s x.ref.fn x.ref.mbox) (cmdTenant x) 7
      (dcDst x.entry + off) (bs.take n)) x n := by
  simp [dcWrite, h, hostParts]

/-- A piece whose source page in the atlas can be read and whose destination is a plain host range. -/
theorem pieceGo_atlasToHost {s v : State} {x : Inflight} {bs : Bytes} (hs : dcSkind x.entry = 2) (hd : dcDkind x.entry = 0)
    (hafter : x.after = none) (hsent : x.sent = []) (hacted : x.acted = [])
    (hread : cmdRead s x (cmdTenant x) walkHubControl (dcSrc x.entry + x.done) (pieceLen x) = .ok v bs) :
    pieceGo s x = dcPieceDone (hostPutP v (ownCmd x.ref) x.ref.fn (mboxPasid v x.ref.fn x.ref.mbox) (cmdTenant x) 7
      (dcDst x.entry + x.done) (bs.take (pieceLen x))) x (pieceLen x) := by
  simp [pieceGo, hafter, hsent, hacted, dcRead, hs, hread, dcWrite_host hd]

/-- Settles O19: DMA.COPY starts and runs its piece (`pieceGo_atlasToHost`); the PERF commands run their bodies. -/
theorem transferCommandsComplete : Obligations.TransferCommandsComplete := by
  unfold Obligations.TransferCommandsComplete
  intro s r x
  dsimp only
  refine ⟨?copy, ?piece, ?select, ?read, ?survey⟩
  case copy =>
    intro h hns hlist
    change execDmaCopy r s = _
    refine (runCmd_takes h).trans ?_
    simp [hns, dcListed, hlist]
  case piece =>
    intro v bs h hheld hs hd hafter hsent hacted href hread hdone
    change execDmaPieceComplete r s = _
    have hgo := pieceGo_atlasToHost hs hd hafter hsent hacted hread
    rw [href] at hgo
    simp only [execDmaPieceComplete, runnable_of_running h, hheld, Bool.not_true, Bool.false_eq_true, if_false, hgo, hdone]
  case select =>
    intro h
    change execPerfSelect r s = _
    exact runCmd_takes h
  case read =>
    intro h
    change execPerfRead r s = _
    exact runCmd_takes h
  case survey =>
    intro h
    change execPerfSurvey r s = _
    exact runCmd_takes h

end Sys2Proof.Laws
end

section
/-! Settles O20 and O21: the JOB commands and the phases of a save and a restore. -/

namespace Sys2Proof.Laws

open Sys2Proof.Machine Sys2Proof.Safety

/-- Settles O20: each command starts, and its body takes the branch that its conditions leave. -/
theorem jobCommandsComplete : Obligations.JobCommandsComplete := by
  unfold Obligations.JobCommandsComplete
  intro s r x
  dsimp only
  refine ⟨?create, ?plots, ?resume, ?abort, ?semCreate, ?semDestroy, ?prio, ?status, ?policy⟩
  case create =>
    intro s2 s3 s4 s5 d rt id w h hd hdesc hrt hok hmake hw
    change execJobCreate r s = _
    refine (runCmd_takes h).trans ?_
    simp only [cmdTenant_started, hd, hdesc, hrt, hok, hmake, hw, Bool.not_true, Bool.false_eq_true, if_false]
  case plots =>
    intro j h hact hj htg hend hearly hin hready hgood
    change execJobPlots r s = _
    refine (runCmd_takes h).trans ?_
    have hbad := List.any_eq_false.mpr fun b hb => Bool.eq_false_iff.mp (hgood b hb)
    rw [if_neg (not_not_intro hact)]
    simp only [hj, htg, hend, hearly, hin, hready, hbad]
    simp
  case resume =>
    intro j jc h hj hjc hhalt
    refine ⟨fun hsel => ?retry, fun hsel => ?skip⟩
    case retry =>
      change jobResume s r false = _
      refine (runCmdIf_takes h (by simp [hsel])).trans ?_
      simp only [hj, hjc, hhalt]
      simp
    case skip =>
      change jobResume s r true = _
      refine (runCmdIf_takes h (by simp [hsel])).trans ?_
      simp only [hj, hjc, hhalt]
      simp
  case abort =>
    intro j h hj
    refine ⟨fun hsel => ?finish, fun hsel => ?boundary, fun hsel hfn hend => ?immediate⟩
    case finish =>
      change execJobAbortFinish r s = _
      refine (runCmdIf_takes h (by simp [hsel])).trans ?_
      simp only [hj]
    case boundary =>
      change execJobAbortBoundary r s = _
      refine (runCmdIf_takes h (by simp [hsel])).trans ?_
      simp only [hj]
    case immediate =>
      change execJobAbortImmediate r s = _
      refine (runCmdIf_takes h (by simp [hsel])).trans ?_
      simp only [hj, hfn, hend, ne_eq, not_true_eq_false, if_false]
  case semCreate =>
    intro j n h hsel hj hn
    change execJobSemCreate r s = _
    refine (runCmdIf_takes h hsel).trans ?_
    simp only [hj, hn]
  case semDestroy =>
    intro m h hsel hm hown
    change execJobSemDestroy r s = _
    refine (runCmdIf_takes h (by simp [hsel])).trans ?_
    simp only [cmdTenant_started, hm, hown, ne_eq, not_true_eq_false, if_false]
  case prio =>
    intro j h hj
    change execJobPrio r s = _
    refine (runCmd_takes h).trans ?_
    simp only [hj]
  case status =>
    intro j h hj
    change execJobStatus r s = _
    refine (runCmd_takes h).trans ?_
    simp only [hj]
  case policy =>
    intro h
    change execJobPolicy r s = _
    exact runCmd_takes h

/-- Settles O21: each phase's end takes the branch that its conditions leave. -/
theorem jobEventsComplete : Obligations.JobEventsComplete := by
  unfold Obligations.JobEventsComplete
  intro s c i sl jc
  dsimp only
  refine ⟨?quiesce, ?drain, ?save, ?release, ?restoreNone, ?restoreArea, ?inhto⟩
  case quiesce =>
    intro hjc hphase hq
    change execSaveQuiesceEnd c i s = _
    simp only [execSaveQuiesceEnd, hjc, hphase, hq, ne_eq, not_true_eq_false, Bool.not_true, Bool.false_eq_true, or_self, if_false]
  case drain =>
    intro hjc hrem
    change execSaveDrainEnd c i s = _
    simp only [execSaveDrainEnd, hjc, hrem, List.any_nil, Bool.false_eq_true, if_false]
  case save =>
    intro hjc hphase hdr
    change execSaveEnd c i s = _
    simp only [execSaveEnd, hjc, hphase, hdr, ne_eq, not_true_eq_false, Bool.not_true, Bool.false_eq_true, or_self, if_false]
  case release =>
    intro d hsl hd
    change execSaveReleaseEnd c i s = _
    simp only [execSaveReleaseEnd, hsl, hd]
  case restoreNone =>
    intro hjc hon harea
    change execRestoreEnd c i s = _
    simp only [execRestoreEnd, hjc, hon, harea, Bool.false_eq_true, if_false]
  case restoreArea =>
    intro a hjc hon harea
    change execRestoreEnd c i s = _
    simp only [execRestoreEnd, hjc, hon, harea, Bool.false_eq_true, if_false]
  case inhto =>
    intro id q j w hq hj hres hw
    change execInhtoExpiry id s = _
    simp only [execInhtoExpiry, hq, hj, hres, hw, Bool.false_eq_true, if_false]

end Sys2Proof.Laws
end

section
/-! Settles O22 and O23: the SEARCH commands, batches and resurveys. -/

namespace Sys2Proof.Laws

open Sys2Proof.Machine Sys2Proof.Safety

/-- A started command whose block was read acts in the tenant it acted in. -/
@[simp] theorem cmdTenant_blocked (x : Inflight) (b : Bytes) :
    cmdTenant { x with started := true, block := some b } = cmdTenant x := rfl

/-- A command whose results can be written to its block goes on. -/
theorem whenBlock_ready {s : State} {x : Inflight} {k : State → State}
    (h : cmdReady s x (cmdTenant x) walkHubControl .write (bytePages (blockVa x + 48) 16) = .ready) : whenBlock s x k = k s := by
  simp only [whenBlock, h]

/-- A SEARCH command whose block was read, and that has written no results yet, runs its body. -/
theorem runSearch_go {s w : State} {r : CmdRef} {op : Nat} {x : Inflight} {b : Bytes} {checks : Bytes → List (Nat × Bool)}
    {body : State → Inflight → Bytes → State} (h : TakesBlock s r op x w b (checks b)) :
    runSearch s r op checks body = .next (body (blockHeld w r b) { x with started := true, block := some b } b) := by
  have hdone : x.done = 0 := h.2.2.1
  refine (runBlock_go h).trans ?_
  simp only [endWaiting, hdone]
  simp

/-- Settles O22: each command's block is read (`runSearch_go`), and its body takes the branch that its conditions leave. -/
theorem searchCommandsComplete : Obligations.SearchCommandsComplete := by
  unfold Obligations.SearchCommandsComplete
  intro s r x w b
  dsimp only
  refine ⟨?opens, ?closes, ?query, ?update, ?start, ?abort, ?swap⟩
  case opens =>
    intro s2 sec s3 dir n h hsec hsok hdir hdok hquota hitems hn hroom
    change execSearchOpen r s = _
    refine (runSearch_go h).trans ?_
    simp only [cmdTenant_blocked, hsec, hsok, hdir, hdok, hquota, hitems, hn, Bool.not_true, Bool.false_eq_true, or_self, if_false]
    exact congrArg _ (whenBlock_ready hroom)
  case closes =>
    intro ix h hix hswap hroom
    change execSearchClose r s = _
    refine (runSearch_go (checks := fun b => [(4, !zeroBytes b 4 63)]) h).trans ?_
    simp only [cmdTenant_blocked, hix, hswap, Bool.false_eq_true, if_false]
    exact congrArg _ (whenBlock_ready hroom)
  case query =>
    intro ix s2 es fs h hnew hix hpin htab hok
    change execSearchQuery r s = _
    refine (runBlock_go h).trans ?_
    simp only [cmdTenant_blocked, hnew, hix, hpin, htab, hok, Bool.not_true, Bool.false_eq_true, if_false]
  case update =>
    intro ix n s2 tab s3 items h hwait hix hn htab hok hitems
    change execSearchUpdate r s = _
    refine (runSearch_go h).trans ?_
    simp only [cmdTenant_blocked, hwait, hix, hn, htab, hok, hitems, Bool.not_true, Bool.false_eq_true, if_false]
  case start =>
    intro ix s2 j h hstart hwait hix hno hbuilt hat hquota hj
    change execSearchResurveyStart r s = _
    refine (runSearch_go h).trans ?_
    simp only [cmdTenant_blocked, hstart, hwait, hix, hno, hbuilt, hat, hquota, hj]
    simp
  case abort =>
    intro rv h habort hrv hroom
    change execSearchResurveyAbort r s = _
    refine (runSearch_go h).trans ?_
    simp only [cmdTenant_blocked, habort, hrv, Bool.not_true, Bool.false_eq_true, if_false]
    exact congrArg _ (whenBlock_ready hroom)
  case swap =>
    intro ix n h hwait hix hno hswap hn hat
    change execSearchSwap r s = _
    refine (runSearch_go h).trans ?_
    simp only [cmdTenant_blocked, hwait, hix, hno, hswap, hn, hat]
    simp

/-- Settles O23: each event takes the branch that its conditions leave. -/
theorem searchEventsComplete : Obligations.SearchEventsComplete := by
  unfold Obligations.SearchEventsComplete
  intro s h ix hix
  dsimp only
  refine ⟨?start, ?ended, ?built, ?yields⟩
  case start =>
    intro q rest hq
    change execSearchBatchStart h s = _
    simp only [execSearchBatchStart, hix, hq]
  case ended =>
    intro k bt hbt
    change execSearchBatchEnd h k s = _
    simp only [execSearchBatchEnd, hix, Option.bind_some, hbt]
  case built =>
    intro rv n j hrv hn hj hend hpause hrun hcore hpages
    change execResurveyBuildDone h s = _
    simp only [execResurveyBuildDone, hix, hrv, hn, hj, hpause, hrun, hcore, hpages]
    simp [hend]
  case yields =>
    intro rv hrv
    change execResurveyYield h s = _
    simp only [execResurveyYield, hix, hrv]

end Sys2Proof.Laws
end

section
/-! Settles O24, O25 and O26: MODEL.LOAD of a new model, UNLOAD and SWAP; the TABLE commands. -/

namespace Sys2Proof.Laws

open Sys2Proof.Machine Sys2Proof.Safety

/-- Settles O24: the load begins; its permissions and pins; its last steps, which without shards make no window. -/
theorem modelLoadCompletes : Obligations.ModelLoadCompletes := by
  unfold Obligations.ModelLoadCompletes
  intro s r x
  dsimp only
  refine ⟨?begins, ?pins, ?finish⟩
  case begins =>
    intro s2 pl h hwait hnew hearly hbase hplan hfit
    change execModelLoad r s = _
    refine (runCmd_takes (checks := fun _ e => loadChecks e) h).trans ?_
    simp only [cmdTenant_started, hwait, hnew, hearly, hbase, hplan]
    simp [bind, Except.bind, hfit, flowEnd, pure, Except.pure]
  case pins =>
    intro s2 z pl s3 hacc hmig hpin hpsn hmig' hin
    have hstart : ¬ (accessPending s2 (cmdTenant z) (lossPages s2 (cmdTenant z) pl.ver) = true ∨
        anyMig s2 (cmdTenant z) pl.pinned = true) := by simp [hacc, hmig]
    simp only [beginLoad, hpin]
    rw [if_neg hstart]
    simp only [goLoad, loadRunOf, hpsn, hmig', hin, Bool.not_true, Bool.false_eq_true, if_false]
  case finish =>
    intro v z lr s1 ids h hbase hshards hmapped hfit hnone hcores hready hjobs hnone3 hnone4 hh
    simp only [finishLoad, hbase, hshards, List.flatMap_nil, List.append_nil, hmapped, hnone, hcores, hready, hjobs]
    simp only [List.length_nil, freeWins, List.take_zero, List.zip_nil_right, makeWindows]
    rw [if_neg (not_or.mpr ⟨not_not_intro rfl, Nat.not_lt.mpr hfit⟩), hnone3, installVer, hnone4]
    simp only [if_false, Bool.false_eq_true, Nat.reduceLeDiff, Nat.lt_irrefl, hh]

/-- Settles O25: each command starts, and its body takes the branch that its conditions leave. -/
theorem modelCommandsComplete : Obligations.ModelCommandsComplete := by
  unfold Obligations.ModelCommandsComplete
  intro s r x
  dsimp only
  refine ⟨?unload, ?swap⟩
  case unload =>
    intro m h hm hswap
    refine ⟨fun hall => ?model, fun hone hver hcur => ?version⟩
    case model =>
      change execModelUnload r s = _
      refine (runCmd_takes h).trans ?_
      simp only [cmdTenant_started, hm, hswap, hall, Bool.false_eq_true, if_false, if_true]
    case version =>
      change execModelUnload r s = _
      refine (runCmd_takes h).trans ?_
      simp only [cmdTenant_started, hm, hswap, hone, hver, hcur, Bool.false_eq_true, if_false]
  case swap =>
    intro m h hwait hm hver hat
    change execModelSwap r s = _
    refine (runCmd_takes h).trans ?_
    simp only [cmdTenant_started, hwait, hm, hver, schedCmd, hat, Bool.false_eq_true, if_false]

/-- A command that has not ended its work has no answer to write. -/
theorem endWaiting_of_new {x : Inflight} (h : x.done = 0) : endWaiting x = none := by
  rw [endWaiting, h, if_neg (by decide)]

/-- A TABLE command whose version, table, stride and mode are good begins: it holds its version and gets its job. -/
theorem tabBegin_starts {s s1 : State} {x : Inflight} {gather : Bool} {b : Bytes} {q : Nat × Nat} {v : ModelVer} {tb : Table}
    {j : Nat} (hq : bindVer s (cmdTenant x) (fieldAt b 0 4) (fieldAt b 8 4) = .ok q) (hv : verAt s q = some v)
    (htb : v.tables.find? (fun z => decide (fieldAt z.d 0 2 = fieldAt b 4 2)) = some tb)
    (hw : gather = false → tabWritable tb.d = true) (hm : gather = false → tcMode b = 1 → tabRcode tb.d = 6)
    (hstride : (if tcFp32 b then 4 * tabDim tb.d else tabRowBytes tb.d) ≤ tcDstride b)
    (hj : makeJob s { tenant := cmdTenant x, prio := fld b 7 2 0, mincores := 1, maxcores := 8, nseg := 2, nacc := 0 } =
      some (s1, j)) :
    tabBegin s x gather b =
      let at0 := if gather then merNow s1 else max (merNow s1) (tabGet s1.models.lastScat x.ref.fn 0 + 1)
      placement (touchVer { s1 with models := { s1.models with
        binds := s1.models.binds ++ [(x.ref, q)]
        tjobs := s1.models.tjobs ++ [(x.ref, j)]
        starts := s1.models.starts ++ [(x.ref, at0)]
        lastScat := if gather then s1.models.lastScat else tabPut s1.models.lastScat x.ref.fn at0 } } q) := by
  have hw' : (!gather && !tabWritable tb.d) = false := by cases gather <;> simp_all
  have hm' : (!gather && decide (tcMode b = 1 ∧ tabRcode tb.d ≠ 6)) = false := by cases gather <;> simp_all
  simp only [tabBegin, hq, hv, Option.map_some, Option.getD_some, htb, hw', hm', Nat.not_lt.mpr hstride, hj, Bool.false_eq_true,
    if_false]

/-- A TABLE command that has begun, runs, and has had no answer yet goes on with its table. -/
theorem tabGo_runs {s : State} {x : Inflight} {b : Bytes} {k : Table → State} {q : Nat × Nat} {v : ModelVer} {j : Nat} {job : Job}
    {tb : Table} (hdone : x.done = 0) (hq : tabVer s x.ref = some q) (hv : verAt s q = some v) (hj : tabJob s x.ref = some j)
    (hjob : jobAt s j = some job) (hend : job.ending = none) (hsent : x.sent = []) (hstop : x.stopped = none)
    (hrun : jobRuns s j = true) (htb : v.tables.find? (fun z => decide (fieldAt z.d 0 2 = fieldAt b 4 2)) = some tb) :
    tabGo s x b k = k tb := by
  simp [tabGo, endWaiting, hdone, hq, hv, hj, hjob, hend, hsent, hstop, hrun, htb]

/-- With every remote part answered and none lost, a TABLE command that has done its rows ends. -/
theorem tabSettle_ended {s : State} {r : CmdRef} {z : Inflight} (hz : inflAt s r = some z) (hdone : z.done = 1)
    (hsent : z.sent = []) (hlost : z.lost = none) : tabSettle s r = tabEnd s r ((z.got.head?.map (·.1)).getD 0) := by
  simp [tabSettle, hz, hdone, hsent, hlost]

/-- Settles O26: a TABLE command begins (`tabBegin_starts`); once its job runs it does its rows (`tabGo_runs`) and ends
(`tabSettle_ended`). -/
theorem tableCommandsComplete : Obligations.TableCommandsComplete := by
  unfold Obligations.TableCommandsComplete
  intro s r x
  dsimp only
  refine ⟨?begins, ?ends⟩
  case begins =>
    intro w b q v tb s1 j hq hv hnew htb hstride hj
    refine ⟨fun h => ?gather, fun h hw hm hdone => ?scatter⟩
    case gather =>
      have hdone : x.done = 0 := h.2.2.1
      change execTableGather r s = _
      refine (runBlock_go (checks := fun _ b => tableChecks true b) h).trans ?_
      rw [if_pos ⟨by rw [hnew]; rfl, by rw [endWaiting_of_new (x := { x with started := true, block := some b }) hdone]; rfl⟩]
      exact congrArg _ (tabBegin_starts hq hv htb (nofun) (nofun) hstride hj)
    case scatter =>
      change execTableScatter r s = _
      refine (runBlock_go (checks := fun _ b => tableChecks false b) h).trans ?_
      rw [if_pos ⟨by rw [hnew]; rfl, by rw [endWaiting_of_new (x := { x with started := true, block := some b }) hdone]; rfl⟩]
      exact congrArg _ (tabBegin_starts hq hv htb (fun _ => hw) (fun _ => hm) hstride hj)
  case ends =>
    intro b q v j job tb w z hb hq hv hj hjob href hend hsent hrun htb hdone hz hzdone hzsent hzlost
    subst href
    refine ⟨fun h hgo => ?gather, fun h hgo => ?scatter⟩
    case gather =>
      have hstop : x.stopped = none := h.2.2.2.2
      change execTableGather x.ref s = _
      refine (runBlock_on h hb).trans ?_
      rw [tabGo_runs hdone hq hv hj hjob hend hsent hstop hrun htb]
      simp [hq, hdone, hgo, flowEnd, tabSettle_ended hz hzdone hzsent hzlost]
    case scatter =>
      have hstop : x.stopped = none := h.2.2.2.2
      change execTableScatter x.ref s = _
      refine (runBlock_on h hb).trans ?_
      rw [tabGo_runs hdone hq hv hj hjob hend hsent hstop hrun htb]
      simp [hq, hdone, hgo, flowEnd, tabSettle_ended hz hzdone hzsent hzlost]

end Sys2Proof.Laws
end

section
/-! Settles O27: the SEQ commands. -/

namespace Sys2Proof.Laws

open Sys2Proof.Machine Sys2Proof.Safety

/-- Reading for a command of its own tenant what the access gives. -/
theorem rdCmd_ok {s s1 : State} {x : Inflight} {va n : Nat} {bs : Bytes}
    (h : cmdRead s x (cmdTenant x) walkHubControl va n = .ok s1 bs) : rdCmd s x va n = .ok (s1, bs) := by
  simp only [rdCmd, h]

/-- A submission reads its answer block where it searches. -/
theorem answerBlock_ok {c : Prop} [Decidable c] {s s2 : State} {x : Inflight} {va n : Nat} {a : Bytes}
    (h : (if c then cmdRead s x (cmdTenant x) walkHubControl va n else .ok s []) = .ok s2 a) :
    (if c then rdCmd s x va n else .ok (s, [])) = .ok (s2, a) := by
  by_cases hc : c
  · rw [if_pos hc] at h ⊢
    exact rdCmd_ok h
  · rw [if_neg hc] at h ⊢
    cases h
    rfl

/-- A sequence that has not ended is ended by its cancel. -/
theorem cancelNow_of_live {s : State} {i : Nat} {q : Seq} (hq : seqAt s i = some q) (h : q.ending = none) :
    cancelNow s i = endSeq s i 6 stCancelled 0 := by
  simp [cancelNow, hq, h]

/-- The state that STATUS answers. -/
theorem seqCode_eq (s : State) (i : Nat) (q : Seq) : seqCode s i q = if q.st = .moved then 6 else if seqHeld s i q = true then 5 else
    match q.st with | .queued => 1 | .retrieving => 2 | .prefill => 3 | _ => 4 := by
  cases hst : q.st <;> simp [seqCode, hst]

/-- A version that is served without drafts needs no check of its drafter. -/
theorem draftChecks_of_none {s : State} {x : Inflight} {v : ModelVer} {b : Bytes} (h : fieldAt b 4 4 = 0) :
    draftChecks s x v b = .ok s := by
  simp [draftChecks, h, pure, Except.pure]

/-- Settles O27: each command starts, and its body takes the branch that its conditions leave. -/
theorem seqCommandsComplete : Obligations.SeqCommandsComplete := by
  unfold Obligations.SeqCommandsComplete
  intro s r x
  dsimp only
  refine ⟨?submit, ?cancel, ?misses, ?status, ?policy, ?serve⟩
  case submit =>
    intro w b a k s2 h hbind hfit hans
    have hans' := answerBlock_ok (x := { x with started := true, block := some b }) hans
    have hctx : ¬ (fieldAt b 8 1 = 1 ∧ ((verAt s2 k.gen0).map svMaxctx).getD 0 ≤ fieldAt b 12 4) :=
      fun hc => Nat.not_le.mpr (hfit hc.1) hc.2
    refine ⟨fun hbuf hread => ?asks, fun inp i hbuf hroom hi => ?enters⟩
    case asks =>
      change execSeqSubmit r s = _
      refine (runBlock_go (checks := fun _ b => submitChecks r.fn b) h).trans ?_
      rw [if_neg (not_not_intro h.2.2.1)]
      simp only [cmdTenant_blocked, hans', hbind, hbuf, askInput, hread]
      simp [hctx]
    case enters =>
      change execSeqSubmit r s = _
      refine (runBlock_go (checks := fun _ b => submitChecks r.fn b) h).trans ?_
      rw [if_neg (not_not_intro h.2.2.1)]
      simp only [cmdTenant_blocked, hans', hbind, hbuf, hctx, enterSeq, hroom, freeSlot, hi, Bool.not_true, Bool.false_eq_true, if_false]
      rfl
  case cancel =>
    intro i q h hq hmoved
    refine ⟨fun hsel hstep hheld => ?marks, fun hsel hstep hbatch hi hend => ?ends, fun hsel hfn hi hend => ?immediate⟩
    case marks =>
      change execSeqCancelNormal r s = _
      refine (runCmdIf_takes h (by simp [hsel])).trans ?_
      simp only [cmdTenant_started, hq, cancelNormal, hmoved, hstep, hheld]
      rfl
    case ends =>
      change execSeqCancelNormal r s = _
      refine (runCmdIf_takes h (by simp [hsel])).trans ?_
      simp only [cmdTenant_started, hq, cancelNormal, hmoved, hstep, hbatch, cancelNow_of_live hi hend]
      rfl
    case immediate =>
      change execSeqCancelImmediate r s = _
      refine (runCmdIf_takes h hsel).trans ?_
      simp only [cmdTenant_started, hq, cancelImmediate, hmoved, hfn, cancelNow_of_live hi hend, ne_eq, not_true_eq_false, if_false]
  case misses =>
    intro h hid
    change execSeqStatus r s = _
    refine (runCmd_takes h).trans ?_
    simp only [cmdTenant_started, hid, if_true]
  case status =>
    intro i q h hid hq
    change execSeqStatus r s = _
    refine (runCmd_takes h).trans ?_
    simp only [cmdTenant_started, hid, hq, seqCode_eq, if_false] <;> rfl
  case policy =>
    intro h
    change execSeqPolicy r s = _
    exact runCmd_takes (checks := fun _ e => policyChecks e) h
  case serve =>
    intro w b q v h hwait hnew hq hv hdraft hshares
    refine ⟨fun hat hroom hok => ?atOnce, fun hat hfree => ?later⟩
    case atOnce =>
      change execSeqServe r s = _
      refine (runBlock_go (checks := fun _ b => serveChecks b) h).trans ?_
      simp only [hnew, cmdTenant_blocked, hwait, hq, hv, draftChecks_of_none hdraft, hshares, hat, Bool.false_eq_true, if_false, if_true]
      rw [whenBlock_ready hroom]
      simp only [finishServe, cmdTenant_blocked, hok, commitServe]
    case later =>
      change execSeqServe r s = _
      refine (runBlock_go (checks := fun _ b => serveChecks b) h).trans ?_
      simp only [hnew, cmdTenant_blocked, hwait, hq, hv, draftChecks_of_none hdraft, hshares, hat, schedCmd, hfree,
        Bool.false_eq_true, if_false]

end Sys2Proof.Laws
end

section
/-! Settles O28: SEQ.EXPORT, MOVE and IMPORT. -/

namespace Sys2Proof.Laws

open Sys2Proof.Machine Sys2Proof.Safety

/-- The row of one operation of an opcode goes on with the command when the entry asks for that operation. -/
theorem runCmdIf_on {s : State} {r : CmdRef} {op : Nat} {x : Inflight} {sel : Bytes → Bool}
    {checks : State → Bytes → List (Nat × Bool)} {body : State → Inflight → Bytes → State} (h : Running s r op x)
    (hs : sel x.entry = true) : runCmdIf s r op sel checks body = .next (body s x x.entry) :=
  (runCmdIf_sel h.1 hs).trans (runCmd_on h)

/-- An EXPORT whose image can be read and written writes it. -/
theorem seqExport_writes {s s1 s2 : State} {c : Inflight} {e img : Bytes} {d : Bool} {i : Nat} {q : Machine.Seq} {v : ModelVer}
    {k : Bytes} (hdone : c.done ≠ 1) (hat : atBoundary s c (par e 0 4) false = .ready i q v)
    (hfit : ¬ par e 16 4 < imgPages (svKvtiles v) q.c) (himg : readImage s c i q v = .ok (s1, img))
    (hw : cmdWrite s1 c (cmdTenant c) walkHubControl (parFld e 8 56 0) img = .ok s2 k) :
    seqExport s c e d = modInfl s2 c.ref fun z => { z with done := 1, got := [(imgPages (svKvtiles v) q.c, [])] } := by
  simp only [seqExport, hdone, hat, hfit, himg, hw, if_false]

/-- An EXPORT whose writes are acknowledged lets its sequence go, or ends it. -/
theorem seqExport_ends {s : State} {c : Inflight} {e : Bytes} {d : Bool} {i n : Nat} {q : Machine.Seq} (hdone : c.done = 1)
    (hsent : c.sent = []) (hlost : c.lost = none) (hgot : c.got = [(n, [])])
    (hq : namedSeq s (cmdTenant c) (par e 0 4) = .ok (i, q)) :
    seqExport s c e d =
      complete (if d then endSeq (setFlag (letGo s i) i 5) i 6 stCancelled 0 else letGo s i) c.ref stOk n 0 := by
  simp [seqExport, hdone, hsent, hlost, hgot, hq]

/-- An EXPORT that has its answers ends in one pass. -/
theorem exportRun_ends {s : State} {r : CmdRef} {e : Bytes} {d : Bool} {c : Inflight} (hc : inflAt s r = some c)
    (hdone : c.done = 1) : exportRun s r e d = seqExport s c e d := by
  simp only [exportRun, hc, hdone, if_true]

/-- Settles O28: each command starts, and its body takes the branch that its conditions leave. -/
theorem seqTransfersComplete : Obligations.SeqTransfersComplete := by
  unfold Obligations.SeqTransfersComplete
  intro s r x href
  dsimp only
  refine ⟨?exports, ?move, ?imports, ?exported⟩
  case exports =>
    intro i q v s1 img s2 k h hdone hin hat hfit himg hw
    have hnew : ({ x with started := true } : Inflight).done ≠ 1 := by simp [hdone]
    have hwrites (d : Bool) := (seqExport_writes (d := d) hnew hat hfit himg hw)
    subst href
    refine ⟨fun hsel => ?snapshot, fun hsel => ?detach⟩
    case snapshot =>
      change execSeqExportSnapshot x.ref s = _
      refine (runCmdIf_takes (checks := fun _ e => exportChecks e) h (by simp [hsel])).trans ?_
      simp only [exportRun, hin]
      rw [if_neg hnew, hwrites] <;> rfl
    case detach =>
      change execSeqExportDetach x.ref s = _
      refine (runCmdIf_takes (checks := fun _ e => exportChecks e) h hsel).trans ?_
      simp only [exportRun, hin]
      rw [if_neg hnew, hwrites] <;> rfl
  case move =>
    intro i q v s1 img h hdone hm hat hpeer himg
    have hnew : ({ x with started := true } : Inflight).done ≠ 1 := by simp [hdone]
    change execSeqMove r s = _
    refine (runCmd_takes h).trans ?_
    rw [if_neg hnew, if_neg hm]
    simp only [hat, hpeer, himg, cmdTenant_started, Bool.not_true, Bool.false_eq_true, if_false]
  case imports =>
    intro q v s2 hd s3 img s4 i z h hq hv hhd hgood himg henter hz
    change execSeqImport r s = _
    refine (runCmd_takes (checks := fun _ e => importChecks r.fn e) h).trans ?_
    simp only [cmdTenant_started, hq, hv, hhd, hgood, himg, henter, hz, Bool.not_true, Bool.false_eq_true, if_false]
  case exported =>
    intro i q n h hdone hsent hlost hgot hq
    have hin : inflAt s r = some x := h.1
    refine ⟨fun hsel => ?snapshot, fun hsel => ?detach⟩
    case snapshot =>
      change execSeqExportSnapshot r s = _
      refine (runCmdIf_on h (by simp [hsel])).trans ?_
      rw [exportRun_ends hin hdone, seqExport_ends hdone hsent hlost hgot hq, href]
      rfl
    case detach =>
      change execSeqExportDetach r s = _
      refine (runCmdIf_on h hsel).trans ?_
      rw [exportRun_ends hin hdone, seqExport_ends hdone hsent hlost hgot hq, href]
      rfl

end Sys2Proof.Laws
end

section
/-! Settles O29: the forming of steps. -/

namespace Sys2Proof.Laws

open Sys2Proof.Machine Sys2Proof.Safety

/-- A pick that may go and is dealt takes its number, and its sequences are marked. -/
theorem dealPick_dealt {p : Pick} {t : Nat} {q : Nat × Nat} {k : StepKind} {mark : Machine.Seq → Machine.Seq} {s1 : State}
    (hwait : p.wait = false) (hents : p.ents ≠ [])
    (h : dealStep p.st t q k (((verAt p.st q).map (·.sv.nextStep)).getD 0) none p.ents p.tabs [] [] = .ok s1) :
    dealPick p t q k mark = p.slots.foldl (fun st i => modSeq st i fun x =>
      mark { x with lastStep := s1.clk.ticks, coldDone := false }) (takeStepNum s1 q k) := by
  simp [dealPick, hwait, hents, h]

/-- Where all have a property, none lacks it. -/
theorem any_not_of_all {α : Type} {l : List α} {p : α → Bool} (h : l.all p = true) : (l.any fun a => !p a) = false := by
  rw [List.all_eq_not_any_not, Bool.not_eq_true'] at h
  exact h

/-- Settles O29: each kind of step is formed of its pick (`dealPick_dealt`), the verify and decode steps of their plans. -/
theorem stepsAreFormed : Obligations.StepsAreFormed := by
  unfold Obligations.StepsAreFormed
  intro s h n m v
  dsimp only
  refine ⟨?prefill, ?encode, ?rerank, ?draft, ?verify, ?decode⟩
  case prefill =>
    intro s2 hform hdealt
    obtain ⟨hwait, hents, hok⟩ := hdealt
    change Host.Outcome.next (flushAreas (prefillForm h n s)) = _
    simp only [prefillForm, hform]
    rw [dealPick_dealt hwait hents hok]
    rfl
  case encode =>
    intro s2 hform hdealt
    obtain ⟨hwait, hents, hok⟩ := hdealt
    change execEncodeStepForm h n s = _
    simp only [execEncodeStepForm, hform]
    rw [dealPick_dealt hwait hents hok]
    rfl
  case rerank =>
    intro i x rest s1 es s2 hform hsel hone hdealt
    obtain ⟨hwait, hents, hok⟩ := hdealt
    change execRerankStepForm h n s = _
    simp only [execRerankStepForm, hform, hsel, hone]
    cases es with
    | nil => exact absurd rfl hents
    | cons e es =>
      rw [dealPick_dealt hwait hents hok]
      rfl
  case draft =>
    intro s2 hform hdealt
    obtain ⟨hwait, hents, hok⟩ := hdealt
    change Host.Outcome.next (flushAreas (draftForm h n s)) = _
    simp only [draftForm, hform]
    rw [dealPick_dealt hwait hents hok]
    rfl
  case verify =>
    intro w s2 hform hw hdrafted hxs hwait hents hok
    change Host.Outcome.next (flushAreas (verifyForm h n s)) = _
    have hnone := any_not_of_all hdrafted
    simp only [verifyForm, hform, hw, hnone, dropWaiting, hxs, hwait, hents, hok, Bool.false_eq_true, if_false]
    rfl
  case decode =>
    intro hm hv hserv hrole hruns
    refine ⟨fun hbeat hbusy => ?atOnce, fun hbeat => ?overrun⟩
    case atOnce =>
      intro s2 got s3 hpick hgot hplain hwait hents hok
      change Host.Outcome.next (flushAreas (decodeBeat h n s)) = _
      have hmay : ¬ (v.serv.isNone ∨ svRole v ≠ 1 ∨ !runsKind v .decode) := by simp [hserv, hrole, hruns]
      simp only [decodeBeat, hm, hv, hmay, hbeat, hbusy, formDecode, hpick, hgot, hplain, hwait, hents, hok, Bool.false_eq_true,
        if_false, if_true, Option.isSome_none]
      rfl
    case overrun =>
      intro hbusy
      change Host.Outcome.next (flushAreas (decodeBeat h n s)) = _
      have hmay : ¬ (v.serv.isNone ∨ svRole v ≠ 1 ∨ !runsKind v .decode) := by simp [hserv, hrole, hruns]
      simp only [decodeBeat, hm, hv, hmay, hbeat, hbusy, if_false, if_true]

end Sys2Proof.Laws
end

section
/-! Settles O30: the ends of steps, expert dispatch and the pools. -/

namespace Sys2Proof.Laws

open Sys2Proof.Machine Sys2Proof.Safety

/-- The clock's advance leaves the versions. -/
theorem verAt_advanceTo (s : State) (t : Nat) (q : Nat × Nat) : verAt (advanceTo s t) q = verAt s q := rfl

section
variable {s : State} {h n k : Nat} {m : Model} {v : ModelVer} {r : StepRun} {j : Job} {b : Batch}

/-- Requests of a running step's kernels are dispatched. -/
theorem stepEnd_dispatches {reqs : List Dispatch} (hm : modelAt s h = some m) (hv : verAt s (h, n) = some v)
    (hr : v.sv.steps.find? (fun z => z.dealt && decide (kindCode z.kind = k)) = some r) (hj : jobAt s r.job = some j)
    (hb : tabFind j.batches r.batch = some b) (hreqs : reqs ≠ []) (hexp : svN v 20 2 ≠ 0) (hk : k ≠ 7) :
    stepEnd h n k reqs s =
      dispatchAll s (h, n) m v k (reqs.filter fun z => decide (z.layer < svN v 8 2 ∧ z.expert < svN v 20 2)) := by
  simp only [stepEnd, hm, hv, hr, hj, hb, hreqs, hexp, hk, ne_eq, not_false_eq_true, if_true, or_self, if_false]

/-- A step whose plots are all DONE and that waits for no request is over. -/
theorem stepEnd_finishes (hm : modelAt s h = some m) (hv : verAt s (h, n) = some v)
    (hr : v.sv.steps.find? (fun z => z.dealt && decide (kindCode z.kind = k)) = some r) (hj : jobAt s r.job = some j)
    (hb : tabFind j.batches r.batch = some b) (hdone : b.total ≤ b.done + b.dropped) (hdrop : b.dropped = 0)
    (hsent : k = 7 ∨ (v.sv.sent.any fun x => decide (x.kind = k)) = false) :
    stepEnd h n k [] s = finishStep s (h, n) m v r := by
  have hnone : ¬ (k ≠ 7 ∧ v.sv.sent.any (fun x => decide (x.kind = k)) = true) :=
    fun hc => hsent.elim hc.1 fun hf => Bool.false_ne_true (hf.symm.trans hc.2)
  rw [hdrop, Nat.add_zero] at hdone
  simp only [stepEnd, hm, hv, hr, hj, hb, hdrop, Nat.add_zero, Nat.not_lt.mpr hdone, hnone, ne_eq, not_true_eq_false, if_false]

end

/-- Settles O30: a step's end dispatches requests (`stepEnd_dispatches`) or is processed as its kind says
(`stepEnd_finishes`); each other event takes the branch that its conditions leave. -/
theorem stepsEndAndPoolsMove : Obligations.StepsEndAndPoolsMove := by
  unfold Obligations.StepsEndAndPoolsMove
  intro s h n m v hm hv
  dsimp only
  refine ⟨?stepEnds, ?expert, ?deadline, ?rebalance, ?pool, ?cold, ?poll⟩
  case stepEnds =>
    intro r j b hr hj hb
    refine ⟨fun d ds hexp hk => ?dispatch, fun s1 outs hdone hdrop hsent hout => ?finish⟩
    case dispatch =>
      exact congrArg (fun u => Host.Outcome.next (flushAreas u))
        (stepEnd_dispatches hm hv hr hj hb (List.cons_ne_nil d ds) hexp hk)
    case finish =>
      have hfin := stepEnd_finishes hm hv hr hj hb hdone hdrop hsent
      have hends {u : State} (hu : finishStep s (h, n) m v r = u) :
          exec (.stepEnd h n (kindCode r.kind) []) s = .next (flushAreas u) :=
        congrArg (fun u => Host.Outcome.next (flushAreas u)) (hfin.trans hu)
      refine ⟨fun hk => hends ?prefill, fun hk => hends ?decode, fun hk => hends ?draft, fun hk => hends ?encode,
        fun hk => hends ?rerank, fun s3 hk hs3 => hends ?expertStep⟩
      case decode => rcases hk with hk | hk <;> simp only [finishStep, hout, hk]
      case expertStep => simp only [finishStep, hout, hk, hs3]
      all_goals simp only [finishStep, hout, hk]
  case expert =>
    intro g s2 ent s4 hform hg hent hdeal
    change execExpertStepStart h n s = _
    simp only [execExpertStepStart, hform, hg]
    unfold sameExpert expertPages
    simp only [hent, hdeal]
  case deadline =>
    intro r s2 ent i hr hsent hent hi
    change execDispatchDeadline h n r.num s = _
    simp only [execDispatchDeadline, hm, hv, hr, hsent, hent, hi, ne_eq, not_true_eq_false, if_false]
  case rebalance =>
    intro hper
    change execRebalancePeriod h n s = _
    simp only [execRebalancePeriod, hm, hv, hper, if_false] <;> rfl
  case pool =>
    intro die dec hmove hfree
    change execPoolMoveRelease h n s = _
    simp only [execPoolMoveRelease, hm, hv, hmove, hfree, givingJob, Bool.false_eq_true, if_false] <;> rfl
  case cold =>
    intro i x hx hgen hdrafter hcold hstep htab
    change execKvColdTimer i s = _
    have hgo : ¬ (x.coldDone ∨ inAnyStep s i x ∨ (x.btab = [] ∧ x.dtab = [])) := by simp [hcold, hstep, htab]
    simp only [execKvColdTimer, hx, hgo, hgen, hm, hdrafter, verAt_advanceTo, hv, if_false, Option.map_some, Option.getD_some,
      Option.bind_none]
  case poll =>
    intro i x t hx ht
    change execStreamConsPoll i s = _
    simp only [execStreamConsPoll, hx, ht]

end Sys2Proof.Laws
end

section
/-! Settles O31 and O32: the text engines' units and the TEXT commands. -/

namespace Sys2Proof.Laws

open Sys2Proof.Machine Sys2Proof.Safety

/-- The unit that an engine picks for a sequence that is there does its work. -/
theorem unitRun_done {s z s2 : State} {p : TextUnit → Bool} {n i : Nat} {q : Nat × TextUnit} {x : Machine.Seq}
    {work : State → Nat → (Nat × TextUnit) → Nat → Machine.Seq → Except UnitStop State} (hp : pickUnit s p = some (z, n, q))
    (hi : unitSeq q.2 = some i) (hx : seqAt z i = some x) (hw : work z n q i x = .ok s2) : unitRun s p work = s2 := by
  simp [unitRun, hp, hi, hx, hw]

/-- Without admission control no sequence is deferred for its batch. -/
theorem batchDefer_of_off {s : State} {x : Machine.Seq} (h : (polAt s x.tenant).admitOn = false) : batchDefer s x = none := by
  simp [batchDefer, admits, h]

/-- Without admission control no sequence is deferred for its prompt. -/
theorem lateDefer_of_off {s : State} {x : Machine.Seq} {ts : List Nat} (h : (polAt s x.tenant).admitOn = false) :
    lateDefer s x ts = none := by
  simp [lateDefer, admits, h]

/-- Settles O31: the picked unit does its work (`unitRun_done`); without admission control a sequence is admitted. -/
theorem textUnitsComplete : Obligations.TextUnitsComplete := by
  unfold Obligations.TextUnitsComplete
  intro s z n t i x hx
  dsimp only
  refine ⟨?admission, ?tokenise, ?pack, ?token, ?draft⟩
  case admission =>
    intro v s1 tcb stops hp hv hadm hoff
    have hbatch := batchDefer_of_off hoff
    have hlate := lateDefer_of_off (ts := inputToks x) hoff
    refine ⟨fun hk => ?text, fun hk => ?tokens⟩
    case text =>
      change execAdmissionUnit s = _
      simp only [execAdmissionUnit, hp, hx, hv, hadm, admitSeq, hbatch, hk]
      rfl
    case tokens =>
      change execAdmissionUnit s = _
      simp only [execAdmissionUnit, hp, hx, hv, hadm, admitSeq, hbatch, hlate, hk]
      rfl
  case tokenise =>
    intro s1 g hp hg
    refine ⟨fun hk => ?plain, fun q s2 ge hk henc hge => ?search⟩
    case plain =>
      refine congrArg (fun u => Host.Outcome.next (flushAreas u)) (unitRun_done hp rfl hx ?_)
      simp [tokeniseSeq, hg, hk, bind, Except.bind, pure, Except.pure]
    case search =>
      refine congrArg (fun u => Host.Outcome.next (flushAreas u)) (unitRun_done hp rfl hx ?_)
      simp [tokeniseSeq, hg, hk, henc, hge, bind, Except.bind, pure, Except.pure]
  case pack =>
    intro s1 g s2 ws s3 ps ts k hp hg hws hps hpack
    refine congrArg (fun u => Host.Outcome.next (flushAreas u)) (unitRun_done hp rfl hx ?_)
    simp [packSeq, hg, hws, hps, hpack, bind, Except.bind, pure, Except.pure]
  case token =>
    intro k rest s1 g s2 cs hp hemit hg hcs hin
    refine congrArg Host.Outcome.next (unitRun_done hp rfl hx ?_)
    simp [tokenSeq, hemit, hg, hcs, hin, bind, Except.bind, pure, Except.pure]
  case draft =>
    intro s1 k cs hp hcs
    refine congrArg Host.Outcome.next (unitRun_done hp rfl hx ?_)
    simp [draftSeq, hcs, bind, Except.bind, pure, Except.pure]

/-- A command with a parameter block, whether it starts with it or goes on with it, runs its body. -/
theorem runBlock_at {s v : State} {r : CmdRef} {op : Nat} {x y : Inflight} {b : Bytes}
    {checks : State → Bytes → List (Nat × Bool)} {body : State → Inflight → Bytes → State}
    (h : (∃ w, TakesBlock s r op x w b (checks w b) ∧ v = blockHeld w r b ∧ y = { x with started := true, block := some b }) ∨
      (Running s r op x ∧ x.block = some b ∧ v = s ∧ y = x)) : runBlock s r op checks body = .next (body v y b) := by
  rcases h with ⟨w, h, rfl, rfl⟩ | ⟨h, hb, rfl, rfl⟩
  · exact runBlock_go h
  · exact runBlock_on h hb

/-- A TEXT command that is neither over nor stopped does its unit. -/
theorem textGo_runs {s u : State} {x : Inflight} (hend : endWaiting x = none) (hdone : x.done ≠ 1) (hstop : x.stopped = none) :
    textGo s x (.ok u) = textSettle u x.ref := by
  simp [textGo, hend, hdone, hstop, flowEnd]

/-- A TEXT command whose results can be written ends its unit with them. -/
theorem textWrite_ok {s s1 : State} {e full wrote : Nat} {x : Inflight} {b bs k : Bytes} {u : TextUnit}
    (h : cmdWrite s x (cmdTenant x) walkHubControl (fld b 32 56 0) bs = .ok s1 k) : textWrite s e x b u full wrote bs =
      unitDone (modInfl s1 x.ref fun y => { y with
        done := 1, got := [(if wrote < full then stShort else stOk, leBytes 4 full ++ leBytes 4 wrote)] }) e (cmdTenant x, u) := by
  simp only [textWrite, h]

/-- Settles O32: the command's block is read and its version bound (`runBlock_at`, `textGo_runs`); the unit reads its input and
writes what fits (`textWrite_ok`), or the next token's unit follows. -/
theorem textCommandsComplete : Obligations.TextCommandsComplete := by
  unfold Obligations.TextCommandsComplete
  intro s r x b v y s1 e s2 g s3 inp s4 k
  dsimp only
  intro hstop hend hdone hgaz
  refine ⟨?tokenise, ?detokenise⟩
  case tokenise =>
    intro h hstart hinp hw
    change execTextTokenise r s = _
    refine (runBlock_at (checks := fun _ b => textChecks true b) h).trans ?_
    simp only [bind, Except.bind, pure, Except.pure, hstart, hgaz, hinp, textGo_runs hend hdone hstop, textWrite_ok hw]
  case detokenise =>
    intro h hstart hinp hgood
    refine ⟨fun hmore => ?next, fun hlast hw => ?last⟩
    case next =>
      change execTextDetokenise r s = _
      refine (runBlock_at (checks := fun _ b => textChecks false b) h).trans ?_
      simp only [bind, Except.bind, pure, Except.pure, hstart, hgaz, hinp, hgood, hmore, Bool.false_eq_true, if_false, if_true,
        textGo_runs hend hdone hstop, nextToken]
      rfl
    case last =>
      change execTextDetokenise r s = _
      refine (runBlock_at (checks := fun _ b => textChecks false b) h).trans ?_
      simp only [bind, Except.bind, pure, Except.pure, hstart, hgaz, hinp, hgood, Nat.not_lt.mpr hlast, Bool.false_eq_true, if_false,
        textGo_runs hend hdone hstop, textWrite_ok hw]

end Sys2Proof.Laws
end

section
/-! Settles O33: flits, link events, probes and notices. -/

namespace Sys2Proof.Laws

open Sys2Proof.Machine Sys2Proof.Safety

/-- A flit with a good CRC and the SEQ due is accepted. -/
theorem takeFlit_accepts {s : State} {n : Nat} {fl : Bytes} (hcrc : crc64 (fl.take 248) = fieldAt fl 248 8)
    (hseq : fieldAt fl 240 2 = (portAt s n).rxSeq) : takeFlit s n fl =
      let kind := fld fl 245 7 6
      let u := modPort s n fun _ => takeTrailer { portAt s n with
        gap := false, lastRx := s.clk.ticks, nakRun := (0, 0)
        rxSeq := if kind = 0 then (portAt s n).rxSeq else ((portAt s n).rxSeq + 1) % 65536 } fl
      routeAll (if kind = 1 ∨ kind = 2 then acceptFlit u n fl else u) := by
  have hgood : crcOk fl = true := decide_eq_true hcrc
  have hok : ¬ ((!crcOk fl) = true ∨ fieldAt fl 240 2 ≠ (portAt s n).rxSeq) := by simp [hgood, hseq]
  exact if_neg hok

/-- A flit with a bad CRC is discarded and NAKed; before the sixteenth time running the port stays up. -/
theorem takeFlit_naks {s : State} {n : Nat} {fl : Bytes} (hcrc : crc64 (fl.take 248) ≠ fieldAt fl 248 8)
    (hrun : (if (portAt s n).nakRun.1 = (portAt s n).rxSeq then (portAt s n).nakRun.2 + 1 else 1) < 16) : takeFlit s n fl =
      countEv (sendCtrl (modPort s n fun x => { x with
        gap := true, naks := min (2 ^ 32 - 1) (x.naks + 1)
        nakRun := (x.rxSeq, if (portAt s n).nakRun.1 = (portAt s n).rxSeq then (portAt s n).nakRun.2 + 1 else 1) }) n
        [0, (portAt s n).rxSeq]) (srcPort n) 0x0303 0 := by
  have hbad : crcOk fl = false := decide_eq_false hcrc
  unfold takeFlit
  simp only [hbad, Bool.not_false, true_or, if_true, Bool.false_eq_true, false_and, if_false, Nat.not_le.mpr hrun]

/-- A port that is changed is what the change makes of it. -/
@[simp] theorem portAt_modPort_same (s : State) (n : Nat) (f : Port → Port) : portAt (modPort s n f) n = f (portAt s n) :=
  tabGet_put_self ..

/-- An uncorrectable codeword is counted; few of them leave the port up. -/
theorem noteFec_of_few {s : State} {n : Nat}
    (h : ((portAt s n).fecAt.filter fun t => decide (s.clk.ticks < t + msTicks)).length < 31) :
    noteFec s n = modPort s n fun x => { x with
      fecBad := min (2 ^ 32 - 1) (x.fecBad + 1)
      fecAt := s.clk.ticks :: (portAt s n).fecAt.filter fun t => decide (s.clk.ticks < t + msTicks) } :=
  if_neg (Nat.not_lt.mpr h)

/-- A port that is UP goes DOWN. -/
theorem portDown_of_up {s : State} {n : Nat} (h : (portAt s n).st = .up) : portDown s n =
    let at16 := ((portAt s n).downAt.filter fun t => decide (s.clk.ticks < t + 4000000000)).take 15
    let u1 := postEvent (modPort (setPortSt s n .down) n fun x => { x with
      downs := min (2 ^ 32 - 1) (x.downs + 1), downAt := s.clk.ticks :: at16 }) (srcPort n) 0x0401 0 0xFF n 0 0
    let u2 := probePeer (timePortDown (reroutePort u1 n) n) (portAt s n).peer
    if 15 ≤ at16.length then
      setPortSt (fenceMark { u2 with enPorts := u2.enPorts &&& ~~~ (BitVec.ofNat 48 (2 ^ n)) } (srcPort n)) n .disabled
    else u2 := if_neg (not_not_intro h)

/-- Settles O33: each event takes the branch that its conditions leave. -/
theorem linkEventsComplete : Obligations.LinkEventsComplete := by
  unfold Obligations.LinkEventsComplete
  intro s n
  dsimp only
  refine ⟨?flit, ?nak, ?fenced, ?lock, ?silence, ?trained, ?probe, ?timeout, ?lost, ?join⟩
  case flit =>
    intro flit hup
    refine ⟨fun hcrc hseq => ?good, fun hcrc hrun => ?bad, fun hfew => ?fec⟩
    case good =>
      change execFlitReceive n flit true s = _
      simp only [execFlitReceive, hup, ne_eq, not_true_eq_false, if_false, if_true, takeFlit_accepts hcrc hseq]
    case bad =>
      change execFlitReceive n flit true s = _
      simp only [execFlitReceive, hup, ne_eq, not_true_eq_false, if_false, if_true, takeFlit_naks hcrc hrun]
    case fec =>
      change execFlitReceive n flit false s = execFlitReceive n flit true _
      simp only [execFlitReceive, noteFec_of_few hfew, portAt_modPort_same, hup, ne_eq, not_true_eq_false, Bool.false_eq_true,
        if_false, if_true]
  case nak =>
    intro seq hup
    change execNakReceive n seq s = _
    exact if_neg (not_not_intro hup)
  case fenced =>
    intro hup
    change execFencedReceive n s = _
    exact if_neg (not_not_intro hup)
  case lock =>
    intro hup
    exact congrArg Host.Outcome.next (portDown_of_up hup)
  case silence =>
    intro hup
    change execLinkSilenceTimeout n s = _
    exact (if_neg (not_not_intro hup)).trans (congrArg Host.Outcome.next (portDown_of_up hup))
  case trained =>
    intro peer pp creds hmay hst
    change execPortTrained n peer pp creds s = _
    have hgo : ¬ ((!mayTrain s n) = true ∨ (portAt s n).st ≠ .training ∧ (portAt s n).st ≠ .down) := by
      simp [hmay]
      exact hst.resolve_left
    exact if_neg hgo
  case probe =>
    intro q hq
    refine ⟨fun hk => ?asked, fun hk => ?answered⟩
    case asked =>
      change execMgmtProbe s = _
      simp only [execMgmtProbe, hq, hk, if_true, reply]
    case answered =>
      change execMgmtProbe s = _
      simp only [execMgmtProbe, hq, hk]
      rfl
  case timeout =>
    intro m t hm
    change execProbeTimeout m s = _
    simp only [execProbeTimeout, hm]
  case lost =>
    intro q hq
    change execLostNotice s = _
    simp only [execLostNotice, hq]
  case join =>
    intro q hq
    change execJoinNotice s = _
    simp only [execJoinNotice, hq]

end Sys2Proof.Laws
end

section
/-! Settles O34 and O35: requests, messages and their answers. -/

namespace Sys2Proof.Laws

open Sys2Proof.Machine Sys2Proof.Safety

/-- The oldest access of an operation, if it is not rejected, not a repeated one, well formed and ready at its target, has its
effect and is answered. -/
theorem serveReq_ready {s : State} {op : Nat} {len : FabMsg → Nat} {acc : Acc} {bad : FabMsg → Bool}
    {eff : State → FabMsg → State × FabMsg} {q : RMsg} (hdue : nextAccess s op [] s.fab.inbox = some q)
    (hpol : (police s q).2 = false)
    (hnew : op = 1 ∨ q.m.retry = false ∧ (holdMsg (police s q).1 q { q with policed := true }).fab.kept.length < 65536)
    (hbad : bad q.m = false)
    (hcheck : targetCheck (holdMsg (police s q).1 q { q with policed := true }) { q with policed := true } (len q.m) acc = .ready) :
    serveReq s op len acc bad eff =
      let q1 := { q with policed := true }
      let r := eff (touchPages (holdMsg (police s q).1 q q1) q.m.tenant (unitLink (q.inPort.getD 0 / 8))
        [pageOf (q.m.addr % 2 ^ 57)]) q.m
      .next (serveAll (routeAll (sendMsg (doneMsg (if op = 1 then r.1 else keepResp r.1 q.m r.2) q1) r.2))) := by
  have hretry : ¬ (op ≠ 1 ∧ q.m.retry = true) := fun h =>
    hnew.elim h.1 fun hr => Bool.false_ne_true (hr.1.symm.trans h.2)
  have hroom : ¬ (op ≠ 1 ∧ 65536 ≤ (holdMsg (police s q).1 q { q with policed := true }).fab.kept.length) := fun h =>
    hnew.elim h.1 fun hr => Nat.not_le.mpr hr.2 h.2
  unfold serveReq
  simp only [hdue, hpol, hretry, hroom, hbad, hcheck, Bool.false_eq_true, if_false, reply]

/-- Settles O34: an access that is ready has its effect (`serveReq_ready`); a message, a segment and a kept response take the
branch that their conditions leave. -/
theorem requestsAreServed : Obligations.RequestsAreServed := by
  unfold Obligations.RequestsAreServed
  intro s
  dsimp only
  refine ⟨?access, ?coll, ?kept⟩
  case access =>
    intro q hpol
    refine ⟨fun hdue hcheck => ?tread, fun hdue hnew hroom hcheck => ?twrite, fun hdue hnew hroom hop hal hcheck => ?atomic,
      fun svc hq => ?msg⟩
    case tread =>
      change execTreadReceive s = _
      refine (serveReq_ready hdue hpol (Or.inl rfl) ?_ ?_).trans ?_
      · rfl
      · exact hcheck
      · rfl
    case twrite =>
      change execTwriteReceive s = _
      refine (serveReq_ready hdue hpol (Or.inr ⟨hnew, hroom⟩) ?_ ?_).trans ?_
      · rfl
      · exact hcheck
      · rfl
    case atomic =>
      have hgood : decide (4 < q.m.arg % 8 ∨ q.m.addr % 8 ≠ 0) = false := by simp [Nat.not_lt.mpr hop, hal]
      change execAtomicReceive s = _
      refine (serveReq_ready hdue hpol (Or.inr ⟨hnew, hroom⟩) ?_ ?_).trans ?_
      · exact hgood
      · exact hcheck
      · rfl
    case msg =>
      refine ⟨fun w hsrc hw => ?sequencer, fun hsrc => ?other⟩
      case sequencer =>
        change execMsgReceive svc s = _
        simp only [execMsgReceive, hq, hpol, hsrc, hw, ne_eq, not_true_eq_false, Bool.false_eq_true, if_false]
      case other =>
        change execMsgReceive svc s = _
        simp only [execMsgReceive, hq, hpol, hsrc, ne_eq, not_false_eq_true, Bool.false_eq_true, if_false, if_true]
  case coll =>
    intro q g run hq hg hrun hnum hseg
    change execCollReceive s = _
    simp only [execCollReceive, hq, hg, hseg, Bool.false_eq_true, if_false] <;> rfl
  case kept =>
    intro k ks hk
    change execResponseTableExpiry s = _
    simp only [execResponseTableExpiry, hk]

/-- A response to an outstanding operation is taken by the unit that waits. -/
theorem onResponse_some {s : State} {op : Nat} {f : State → Nat → RemOp → RMsg → State} {q : RMsg} {o : RemOp}
    (hq : inboxOf s op = some q) (ho : tabFind (doneMsg (police s q).1 q).fab.rem q.m.txid = some o) :
    onResponse s op f = .next (f (doneMsg (police s q).1 q) q.m.txid o q) := by
  simp only [onResponse, hq, ho]

/-- Settles O35: an answer reaches the unit that waits (`onResponse_some`); each other event takes the branch that its
conditions leave. -/
theorem answersComplete : Obligations.AnswersComplete := by
  unfold Obligations.AnswersComplete
  intro s
  dsimp only
  refine ⟨?response, ?mack, ?timeout, ?flow⟩
  case response =>
    intro q o ho
    refine ⟨fun hq hk => ?rdata, fun hq hk => ?wack, fun hq hk => ?aval, fun hq hst => ?busy, fun hq hst => ?failed⟩
    case rdata => exact (onResponse_some (f := answered 0) hq ho).trans (congrArg Host.Outcome.next (if_neg (not_not_intro hk)))
    case wack => exact (onResponse_some (f := answered 1) hq ho).trans (congrArg Host.Outcome.next (if_neg (not_not_intro hk)))
    case aval => exact (onResponse_some (f := answered 2) hq ho).trans (congrArg Host.Outcome.next (if_neg (not_not_intro hk)))
    case busy =>
      change execErespReceive s = _
      refine (onResponse_some hq ho).trans ?_
      exact congrArg Host.Outcome.next (if_pos hst)
    case failed =>
      change execErespReceive s = _
      refine (onResponse_some hq ho).trans ?_
      exact congrArg Host.Outcome.next (if_neg hst)
  case mack =>
    intro q f hq hf
    change execMackReceive s = _
    simp only [execMackReceive, hq, hf]
  case timeout =>
    intro tx o ho
    refine ⟨fun hbusy => ⟨fun hre => ?again, fun hre => ?fails⟩, fun b hb => ?retry⟩
    case again =>
      change execRemoteOpTimeout tx s = _
      simp [execRemoteOpTimeout, ho, hbusy, hre, resendOp]
    case fails =>
      change execRemoteOpTimeout tx s = _
      simp [execRemoteOpTimeout, ho, hbusy, hre, forgetOp]
    case retry =>
      change execBusyRetry tx s = _
      simp only [execBusyRetry, ho, hb, resendOp]
  case flow =>
    intro dst svc f d hf hd
    refine ⟨fun hre => ?again, fun hre hsvc => ?empties⟩
    case again =>
      change execOrderedFlowTimeout dst svc s = _
      simp only [execOrderedFlowTimeout, hf, hd, hre, Bool.not_false, if_true]
    case empties =>
      change execOrderedFlowTimeout dst svc s = _
      simp only [execOrderedFlowTimeout, hf, hd, hre, hsvc, Bool.not_true, Bool.false_eq_true, if_false]

end Sys2Proof.Laws
end

section
/-! Settles O36 and O37: the FAB commands and the collective engine. -/

namespace Sys2Proof.Laws

open Sys2Proof.Machine Sys2Proof.Safety

/-- Route entries that are not at hand are asked of the host. -/
theorem routeEntries_asks {s : State} {x : Inflight} {e : Bytes} {k : State → State} (hn : par e 8 4 ≠ 0)
    (hbuf : hostBuf x = none) : routeEntries s x e k = askHost s x := by
  simp only [routeEntries, hn, hbuf, if_false]

/-- Good route entries at hand are put into the shadow table. -/
theorem routeEntries_puts {s : State} {x : Inflight} {e bs : Bytes} {k : State → State} (hn : par e 8 4 ≠ 0)
    (hbuf : hostBuf x = some bs) (hlen : 16 * par e 8 4 ≤ bs.length)
    (hgood : ((List.range (par e 8 4)).any fun i => !routeEntGood ((bs.drop (16 * i)).take 16)) = false) :
    routeEntries s x e k = k (putShadow s (parFld e 0 2 0) (par e 4 4) bs (par e 8 4)) := by
  simp only [routeEntries, hn, hbuf, Nat.not_lt.mpr hlen, hgood, Bool.false_eq_true, or_self, if_false]

/-- Settles O36: each command starts, and its body takes the branch that its conditions leave. -/
theorem fabCommandsComplete : Obligations.FabCommandsComplete := by
  unfold Obligations.FabCommandsComplete
  intro s r x
  dsimp only
  refine ⟨?config, ?write, ?commit, ?disable, ?enable, ?setcred, ?ports, ?reach, ?fence, ?unfence⟩
  case config =>
    intro h hsame
    change execFabConfig r s = _
    refine (runCmd_takes h).trans ?_
    have hok : ¬ ((begun s r).fab.enable = true ∧ (!decide ((begun s r).fab.module = parFld x.entry 0 16 0 ∧
        (begun s r).fab.ndim = parFld x.entry 4 2 0 ∧ (begun s r).fab.widths = cfgWidths x.entry ∧
        (begun s r).fab.kinds = parFld x.entry 10 4 0)) = true) := fun hc => by
      rw [decide_eq_true (hsame hc.1)] at hc
      exact Bool.false_ne_true hc.2
    rw [if_neg hok]
  case write =>
    intro h hsel hk
    refine ⟨fun hbuf => ?asks, fun bs hbuf hlen hgood => ?puts⟩
    case asks =>
      change execFabRouteWrite r s = _
      refine (runCmdIf_takes h (by simp [hsel])).trans ?_
      exact congrArg Host.Outcome.next (routeEntries_asks hk hbuf)
    case puts =>
      change execFabRouteWrite r s = _
      refine (runCmdIf_takes h (by simp [hsel])).trans ?_
      exact congrArg Host.Outcome.next (routeEntries_puts hk hbuf hlen hgood)
  case commit =>
    intro h hsel hwait harmed hk hgood
    refine ⟨fun hat => ?atOnce, fun hat hfree => ?later⟩
    case atOnce =>
      change execFabRouteCommit r s = _
      refine (runCmdIf_takes h hsel).trans ?_
      simp only [hwait, harmed, hat, routeEntries, hk, hgood, Bool.not_true, Bool.false_eq_true, if_false, if_true, commitRoutes]
    case later =>
      change execFabRouteCommit r s = _
      refine (runCmdIf_takes h hsel).trans ?_
      simp only [hwait, harmed, hat, hfree, routeEntries, hk, hgood, Bool.not_true, Bool.false_eq_true, if_false, if_true]
  case disable =>
    intro h hsel
    change execFabPortDisable r s = _
    exact runCmdIf_takes h (by simp [hsel])
  case enable =>
    intro h hsel
    change execFabPortEnable r s = _
    exact runCmdIf_takes h (by simp [hsel])
  case setcred =>
    intro h hsel hst hmin hsum
    change execFabPortSetcred r s = _
    refine (runCmdIf_takes (checks := fun _ e => portChecks e) h (by simp [hsel])).trans ?_
    have hbig : (((List.range 8).map fun i => par x.entry (4 + 2 * i) 2).any fun c => decide (c < 16)) = false :=
      List.any_eq_false.mpr fun c hc => by simpa using hmin c hc
    rw [if_neg (not_not_intro hst), hbig]
    simp only [Bool.false_eq_true, false_or, Nat.not_lt.mpr hsum, if_false]
  case ports =>
    intro h hsel
    change execFabStatusPorts r s = _
    exact runCmdIf_takes (checks := fun _ e => fabStatusChecks e) h (by simp [hsel])
  case reach =>
    intro h hsel
    change execFabStatusReach r s = _
    exact runCmdIf_takes (checks := fun _ e => fabStatusChecks e) h hsel
  case fence =>
    intro h hsel
    change execFabFence r s = _
    exact runCmdIf_takes h hsel
  case unfence =>
    intro h hsel
    change execFabUnfence r s = _
    rw [execFabUnfence, runCmdIf_takes h (by simp [hsel])]
    simp only [unfencePorts]

/-- A command whose results can be written to its block completes with them. -/
theorem blockDone_ok {s v : State} {x : Inflight} {status result detail : Nat} {res o : Bytes}
    (h : cmdWrite s x (cmdTenant x) walkHubControl (parFld x.entry 0 56 0 + 48) (padTo 16 res) = .ok v o) :
    blockDone s x status result detail res = complete v x.ref status result detail := by
  simp only [blockDone, h]

/-- Settles O37: a FAB.GROUP reads its block and writes its results there (`blockDone_ok`); the engine takes the branch that
its conditions leave. -/
theorem collectivesComplete : Obligations.CollectivesComplete := by
  unfold Obligations.CollectivesComplete
  intro s
  dsimp only
  refine ⟨?group, ?engine⟩
  case group =>
    intro r x w b v o h
    have hdone : x.done = 0 := h.2.2.1
    refine ⟨fun hsel hnew hw => ?create, fun hsel hhas hw => ?destroy⟩
    case create =>
      change execFabGroupCreate r s = _
      refine (runBlock_go h).trans ?_
      rw [if_neg (by rw [hsel]; exact Bool.false_ne_true), if_neg fun hc => Bool.false_ne_true (hnew.symm.trans hc.1)]
      dsimp only
      rw [if_pos hdone]
      exact congrArg Host.Outcome.next (blockDone_ok hw)
    case destroy =>
      change execFabGroupDestroy r s = _
      refine (runBlock_go h).trans ?_
      rw [if_neg (by rw [hsel]; exact Bool.false_ne_true), if_neg fun hc => by simp [hhas] at hc]
      exact congrArg Host.Outcome.next (blockDone_ok hw)
  case engine =>
    intro t g gr hgr
    refine ⟨?trigger, ?done⟩
    case trigger =>
      intro s2 d s3 src hrun htaken hd hgood hsrc
      change execCollectiveTrigger t g s = _
      simp only [execCollectiveTrigger, hgr, hrun, htaken, hd, hgood, hsrc, Option.isSome_none, Bool.not_true, Bool.false_eq_true,
        if_false]
    case done =>
      intro run st v o hrun hwait hend
      have hnone : ((ctxAt s t).waiting.any fun w => decide (w.holder = .group t g)) = false :=
        List.any_eq_false.mpr fun w hw => by simpa using hwait w hw
      refine ⟨fun hst => ?error, fun hst hw => ?ok⟩
      case error =>
        change execCollectiveDone t g s = _
        simp only [execCollectiveDone, hgr, hrun, hnone, hend, hst, Bool.false_eq_true, if_false, ne_eq, not_false_eq_true, if_true]
      case ok =>
        change execCollectiveDone t g s = _
        simp only [execCollectiveDone, hgr, hrun, hnone, hend, hst, hw, Bool.false_eq_true, if_false, ne_eq, not_true_eq_false]

end Sys2Proof.Laws
end

section
/-! Settles O46 and O47: egress, gates and samples, and the traffic commands. -/

namespace Sys2Proof.Laws

open Sys2Proof.Machine Sys2Proof.Safety

/-- What a bucket holds after its refill. -/
theorem bucketFill_eq (b : Bucket) (g : Nat) : bucketFill b g = if b.enable = false ∨ g ≤ b.last then b else
    { b with tokens := min (b.burst * 1000 : Nat) (b.tokens + ((g - b.last) * b.rate * 2 : Nat)), last := g } := by
  simp only [bucketFill, Bool.not_eq_true']

/-- With no gate list pending the gates stay. -/
theorem settleGate_of_none {s : State} {n : Nat} (h : (portAt s n).gpend = none) : settleGate s n = s := by
  simp only [settleGate, h]

/-- A pending gate list whose start has come takes over. -/
theorem settleGate_due {s : State} {n : Nat} {q : GateList} (h : (portAt s n).gpend = some q)
    (hat : q.start ≤ merAt s (srcPort n)) :
    settleGate s n = modPort s n fun x => { x with gate := q, gpend := none } := by
  simp only [settleGate, h, hat, if_true]

/-- The clock's advance leaves the ports. -/
theorem portAt_advance (s : State) (d n : Nat) : portAt (advance s d) n = portAt s n := rfl

/-- A fabric port that is UP and between messages sends what it picks, or an IDLE flit. -/
theorem fabEgress_between {s u : State} {n : Nat} (hu : pumpCtrl (settleGate (routeAll s) n) n = u) (hup : (portAt u n).st = .up)
    (hsend : (portAt u n).sending = none) : fabEgress s n =
      match pickQueue u (portAt u n) (((portHeads u n).filter (headReady u n (portAt u n))).map
        fun q => ⟨q.1, q.2.1, 256 * nFlits q.2.2.m⟩) with
      | none => idleFlit (if (portHeads u n).any fun q => decide (credOf u n q.2.2.m.service q.2.2.m.esc = 0) then
          countEv u (srcPort n) 0x0305 0 else u) n
      | some (svc, t, p1) =>
        match (portHeads u n).find? fun q => decide (q.1 = svc ∧ q.2.1 = t) with
        | none => u
        | some q => sendBy u n p1 svc t q.2.2 := by
  simp only [fabEgress, hu, hup, hsend, ite_self, ne_eq, not_true_eq_false, if_false] <;> rfl

/-- Settles O46: each event takes the branch that its conditions leave. -/
theorem egressAndGatesComplete : Obligations.EgressAndGatesComplete := by
  unfold Obligations.EgressAndGatesComplete
  intro s n
  dsimp only
  refine ⟨?egress, ?host, ?refill, ?gate, ?takeover, ?sample, ?window⟩
  case egress =>
    intro hn hbetween hup hsend
    have hgo : exec (.egressSchedule n) s = .next (fabEgress s n) := by
      change execEgressSchedule n s = _
      simp only [execEgressSchedule, Nat.ne_of_lt hn, Nat.lt_asymm hn, hbetween, if_false]
    rw [hgo, fabEgress_between rfl hup hsend]
    refine ⟨fun svc t p1 q hpick hq => ?sends, fun hpick hcred => ?idle⟩
    case sends => simp only [hpick, hq]
    case idle =>
      have hnone : ((portHeads (pumpCtrl (settleGate (routeAll s) n) n) n).any fun q =>
          decide (credOf (pumpCtrl (settleGate (routeAll s) n) n) n q.2.2.m.service q.2.2.m.esc = 0)) = false :=
        List.any_eq_false.mpr fun q hq => by simpa using hcred q hq
      simp only [hpick, hnone, Bool.false_eq_true, if_false]
  case host =>
    intro svc t p1 o rest k hpick htake hk
    obtain ⟨a, b, len⟩ := k
    change Host.Outcome.next (hostEgress s) = _
    simp only [hostEgress, hpick, htake, hk]
  case refill =>
    intro hn
    change execTokenRefill n s = _
    have hn' : tabHas (advance s (64 - merAt s (srcPort n) % 64)).fab.ports n = true := hn
    simp only [execTokenRefill, hn', if_true, bucketFill_eq, grainAt]
  case gate =>
    intro e left hrun hsend hpend
    have hgate : settleGate (advance s left) n = advance s left := settleGate_of_none hpend
    change execGateEntryAdvance n s = _
    simp only [execGateEntryAdvance, hrun, hgate, portAt_advance, hsend]
  case takeover =>
    intro q hq hacts harm hat
    change execGateTakeover n s = _
    have hgate := settleGate_due (s := advance s (q.start - merAt s (srcPort n))) hq hat
    simp only [execGateTakeover, hq, harm, Bool.false_and, Bool.false_eq_true, or_false, hgate]
    refine if_neg fun hbound => ?_
    obtain ⟨a, ha, hba⟩ := List.any_eq_true.mp hbound
    simp only [hacts a ha, Option.isSome_none, Bool.false_and, Bool.false_eq_true] at hba
  case sample =>
    intro cons c hc
    change execQueueSample cons s = _
    simp only [execQueueSample, hc]
  case window =>
    intro hn
    change execPortWindowEnd n s = _
    exact if_neg (Nat.not_lt.mpr hn)

/-- A shaper of a path reads no EXCEEDED. -/
theorem readExceeded_of_path {s : State} {e : Bytes} (h : parFld e 0 1 0 ≠ 3) : readExceeded s e = (s, 0) := if_pos h

/-- A policer's EXCEEDED is read and cleared. -/
theorem readExceeded_of_policer {s : State} {e : Bytes} (h : parFld e 0 1 0 = 3) : readExceeded s e =
    ({ s with fab := { s.fab with policers := tabUpd s.fab.policers (parFld e 2 5 0) fun x => { x with exceeded := 0 } } },
      (tabGet s.fab.policers (parFld e 2 5 0) {}).exceeded) := if_neg (not_not_intro h)

/-- Settles O47: each command starts, and its body takes the branch that its conditions leave. -/
theorem trafficCommandsComplete : Obligations.TrafficCommandsComplete := by
  unfold Obligations.TrafficCommandsComplete
  intro s r x
  dsimp only
  refine ⟨?shaper, ?sched, ?gateWrite, ?gateCommit, ?sample⟩
  case shaper =>
    intro h hwait
    refine ⟨fun hat => ⟨fun hk => ?path, fun hk => ?policer⟩, fun hat hfree => ?later⟩
    case path =>
      change execFabShaper r s = _
      refine (runCmd_takes (checks := fun _ e => shaperChecks e) h).trans ?_
      simp only [hwait, hat, finishShaper, readExceeded_of_path hk, Bool.false_eq_true, if_false, if_true]
    case policer =>
      change execFabShaper r s = _
      refine (runCmd_takes (checks := fun _ e => shaperChecks e) h).trans ?_
      simp only [hwait, hat, finishShaper, readExceeded_of_policer hk, Bool.false_eq_true, if_false, if_true]
    case later =>
      change execFabShaper r s = _
      refine (runCmd_takes (checks := fun _ e => shaperChecks e) h).trans ?_
      simp only [hwait, hat, schedCmd, hfree, Bool.false_eq_true, if_false]
  case sched =>
    intro h
    refine ⟨fun hbuf => ?ports, fun haddr hbuf => ?asks, fun bs haddr hbuf hlen hgood => ?weights⟩
    case ports =>
      change execFabSched r s = _
      refine (runCmd_takes h).trans ?_
      exact congrArg Host.Outcome.next (if_pos hbuf)
    case asks =>
      have hbuf' : hostBuf { x with started := true } = none := hbuf
      change execFabSched r s = _
      refine (runCmd_takes h).trans ?_
      simp only [haddr, hbuf', if_false]
    case weights =>
      have hbuf' : hostBuf { x with started := true } = some bs := hbuf
      have hzero : ((bs.take 64).any fun b => decide (b = 0)) = false :=
        List.any_eq_false.mpr fun b hb => by simpa using hgood b hb
      change execFabSched r s = _
      refine (runCmd_takes h).trans ?_
      simp only [haddr, hbuf', Nat.not_lt.mpr hlen, hzero, Bool.false_eq_true, or_self, if_false]
  case gateWrite =>
    intro h hsel hfree
    have hnone : ((portsOf (parFld x.entry 0 5 0)).any fun p => touchesList
        (portAt ((portsOf (parFld x.entry 0 5 0)).foldl settleGate (begun s r)) p) (parFld x.entry 2 8 0) (parFld x.entry 4 8 0)) =
        false := List.any_eq_false.mpr fun p hp => Bool.eq_false_iff.mp (hfree p hp)
    refine ⟨fun hk => ?nothing, fun hk hbuf => ?asks, fun bs hk hbuf hlen hgood => ?writes⟩
    case nothing =>
      change execFabGateWrite r s = _
      refine (runCmdIf_takes h (by simp [hsel])).trans ?_
      exact congrArg Host.Outcome.next ((if_neg (Bool.eq_false_iff.mp hnone)).trans (if_pos hk))
    case asks =>
      have hbuf' : hostBuf { x with started := true } = none := hbuf
      change execFabGateWrite r s = _
      refine (runCmdIf_takes h (by simp [hsel])).trans ?_
      simp only [hnone, hk, hbuf', Bool.false_eq_true, if_false]
    case writes =>
      have hbuf' : hostBuf { x with started := true } = some bs := hbuf
      change execFabGateWrite r s = _
      refine (runCmdIf_takes h (by simp [hsel])).trans ?_
      have hok : ((List.range (parFld x.entry 4 8 0)).any fun i =>
          !zeroBytes bs (8 * i + 1) (8 * i + 3) || decide (fieldAt bs (8 * i + 4) 4 < 40)) = false :=
        List.any_eq_false.mpr fun i hi => by
          obtain ⟨hz, hd⟩ := hgood i (List.mem_range.mp hi)
          simp [hz, hd]
      simp only [hnone, hk, hbuf', Nat.not_lt.mpr hlen, hok, Bool.false_eq_true, or_self, if_false]
  case gateCommit =>
    intro h hsel hwait hat hacts hgood
    change execFabGateCommit r s = _
    refine (runCmdIf_takes h hsel).trans ?_
    have hpend : ((portsOf (parFld x.entry 0 5 0)).any fun p =>
        (portAt (settleGateActs ((portsOf (parFld x.entry 0 5 0)).foldl settleGate (begun s r))) p).gpend.isSome) = false :=
      List.any_eq_false.mpr fun p hp => by simp [(hgood p hp).1]
    have hlist : ((portsOf (parFld x.entry 0 5 0)).any fun p =>
        listBad (portAt (settleGateActs ((portsOf (parFld x.entry 0 5 0)).foldl settleGate (begun s r))) p)
          { base := parFld x.entry 16 8 0, len := parFld x.entry 18 8 0 }) = false :=
      List.any_eq_false.mpr fun p hp => Bool.eq_false_iff.mp (hgood p hp).2
    have hfree : (if par x.entry 24 8 = 0 then none else
        schedRefuse (settleGateActs ((portsOf (parFld x.entry 0 5 0)).foldl settleGate (begun s r))) (par x.entry 24 8)) = none := by
      split
      · rfl
      · exact hat ‹_›
    simp only [hwait, hfree, hpend, hlist, Nat.not_le.mpr hacts, Bool.false_eq_true, or_self, if_false]
  case sample =>
    intro h
    refine ⟨fun hn => ?ends, fun hn => ?sets⟩
    case ends =>
      change execFabSample r s = _
      refine (runCmd_takes h).trans ?_
      simp only [hn, if_true]
      rfl
    case sets =>
      change execFabSample r s = _
      refine (runCmd_takes h).trans ?_
      simp only [hn, if_false]
      rfl

end Sys2Proof.Laws
end

section
/-! Settles O48 and O49: the meridian, its messages, and mode changes. -/

namespace Sys2Proof.Laws

open Sys2Proof.Machine Sys2Proof.Safety

/-- Settles O48: each event takes the branch that its conditions leave. -/
theorem meridianCommandsComplete : Obligations.MeridianCommandsComplete := by
  unfold Obligations.MeridianCommandsComplete
  intro s fn n names
  dsimp only
  refine ⟨?reads, ?edge, ?loss, ?hold, ?send, ?receive, ?action⟩
  case reads =>
    intro hfn
    refine ⟨if_pos hfn, if_pos hfn, fun hlatch => (if_pos hfn).trans ?_, fun v hlatch => (if_pos hfn).trans ?_⟩
    · rw [hlatch]
      rfl
    · rw [hlatch]
      rfl
  case edge =>
    intro hsrc hstray
    refine ⟨fun hsec => ?first, fun v hsec => ⟨fun hst => ?locked, fun hst => ?unlocked⟩⟩
    case first =>
      change execPpsEdge s = _
      simp only [execPpsEdge, hsrc, hstray, hsec, Bool.false_eq_true, or_self, if_false, modTime]
    case locked =>
      change execPpsEdge s = _
      simp only [execPpsEdge, hsrc, hstray, hsec, Bool.false_eq_true, or_self, if_false, modTime, hst, if_true]
    case unlocked =>
      change execPpsEdge s = _
      simp only [execPpsEdge, hsrc, hstray, hsec, Bool.false_eq_true, or_self, if_false, modTime, hst]
  case loss =>
    intro a ha hsrc
    refine ⟨fun hboth => ?seeks, fun hboth hst => ?holdover, fun hboth hst => ?stays⟩
    case seeks =>
      change execPpsLossTimeout s = _
      simp only [execPpsLossTimeout, ha, hsrc, if_false, modTime, hboth, if_true]
    case holdover =>
      change execPpsLossTimeout s = _
      simp only [execPpsLossTimeout, ha, hsrc, if_false, modTime, hboth, hst, if_true]
    case stays =>
      change execPpsLossTimeout s = _
      simp only [execPpsLossTimeout, ha, hsrc, if_false, modTime, hboth, hst]
  case hold =>
    intro hhold
    change execMeridianHoldEnd s = _
    exact if_neg hhold
  case send =>
    intro hn hup
    change execTimeSend n s = _
    have hgo : ¬ (48 ≤ n ∨ (portAt s n).st ≠ .up) := not_or.mpr ⟨Nat.not_le.mpr hn, not_not_intro hup⟩
    exact if_neg hgo
  case receive =>
    intro q p hq hp
    refine ⟨fun hfab => ?host, fun hfab hpar => ?other, fun hfab hpar hans => ?parent⟩
    case host =>
      change execTimeReceive names s = _
      simp only [execTimeReceive, hq, hp, hfab, Bool.not_false, if_true]
    case other =>
      change execTimeReceive names s = _
      simp only [execTimeReceive, hq, hp, hfab, hpar, Bool.not_true, Bool.false_eq_true, if_false, ne_eq, not_false_eq_true, true_or,
        if_true]
    case parent =>
      change execTimeReceive names s = _
      simp only [execTimeReceive, hq, hp, hfab, hpar, hans, Bool.not_true, Bool.false_eq_true, if_false, ne_eq, not_true_eq_false,
        or_self]
  case action =>
    intro a ha hchange hgo
    change execScheduledActionApply n s = _
    have hgo' : ¬ ((advanceMer s a.t).time.armonly = true ∧ a.t ≠ 0) := fun hc =>
      hgo.elim (fun h => Bool.false_ne_true (h.symm.trans hc.1)) hc.2
    simp only [execScheduledActionApply, ha, hchange, hgo', Option.isSome_none, Bool.false_eq_true, if_false]

/-- What ARMED notes, by membership. -/
theorem armedNote_eq (f : Nat) (c : CoordChange) :
    (if c.decided.isNone ∧ c.parts.contains f ∧ !c.armed.contains f then { c with armed := c.armed ++ [f] } else c) =
      if c.decided = none ∧ f ∈ c.parts ∧ f ∉ c.armed then { c with armed := c.armed ++ [f] } else c :=
  if_congr (by simp) rfl rfl

/-- What REPORT notes, by membership. -/
theorem reportNote_eq (f k : Nat) (c : CoordChange) :
    (if c.decided ≠ some true ∨ !c.parts.contains f ∨ c.switched.contains f ∨ c.faulted.contains f then c
      else if k = 0 then { c with switched := c.switched ++ [f] } else { c with faulted := c.faulted ++ [f] }) =
      if c.decided ≠ some true ∨ f ∉ c.parts ∨ f ∈ c.switched ∨ f ∈ c.faulted then c
      else if k = 0 then { c with switched := c.switched ++ [f] } else { c with faulted := c.faulted ++ [f] } :=
  if_congr (by simp) rfl rfl

/-- The participants of a change: this module is one of them. -/
theorem withModule_eq (m : Nat) (l p : List Nat) : (if l.contains m then p else m :: p) = if m ∈ l then p else m :: p :=
  if_congr List.contains_iff_mem rfl rfl

/-- Settles O49: each command starts and each message is read, and the branch is the one that its conditions leave; what the
coordinator notes is compared entry by entry. -/
theorem modeChangesComplete : Obligations.ModeChangesComplete := by
  unfold Obligations.ModeChangesComplete
  intro s r x id co
  dsimp only
  refine ⟨?config, ?status, ?arm, ?disarm, ?armMsg, ?confirm, ?disarmMsg, ?activate, ?armed, ?notarmed, ?decision, ?report, ?deadline⟩
  case config =>
    intro h hsrc
    have hgo : ¬ ((begun s r).time.st = .acquiring ∧ parFld x.entry 0 1 0 ≠ (begun s r).time.source) := fun hc => hc.2 (hsrc hc.1)
    refine ⟨fun hbuf => ?plain, fun haddr hbuf => ?asks, fun bs haddr hbuf => ?asym⟩
    case plain =>
      change execTimeConfig r s = _
      refine (runCmd_takes h).trans ?_
      exact congrArg Host.Outcome.next ((if_neg hgo).trans (if_pos hbuf))
    case asks =>
      have hbuf' : hostBuf { x with started := true } = none := hbuf
      change execTimeConfig r s = _
      refine (runCmd_takes h).trans ?_
      simp only [hgo, haddr, hbuf', if_false]
    case asym =>
      have hbuf' : hostBuf { x with started := true } = some bs := hbuf
      change execTimeConfig r s = _
      refine (runCmd_takes h).trans ?_
      simp only [hgo, haddr, hbuf', if_false, modTime]
  case status =>
    intro h
    change execTimeStatus r s = _
    exact runCmd_takes h
  case arm =>
    intro h hnew hsync hlead hroom hid
    have hnone : ((begun s r).time.coords.any fun c => decide (c.cmd = r)) = false :=
      List.any_eq_false.mpr fun c hc => by simpa using hnew c hc
    have hsync' : synced (begun s r) = true := hsync
    have hlead' : ¬ par x.entry 8 8 < merNow (begun s r) + 2 * (par x.entry 4 4 * usTicks) := Nat.not_lt.mpr hlead
    have hroom' : ¬ 64 ≤ (begun s r).time.coords.length := Nat.not_le.mpr hroom
    have hid' : coordOf (begun s r) (par x.entry 0 4) = none := hid
    refine ⟨fun hbuf => ?asks, fun bs hbuf => ?sends⟩
    case asks =>
      have hbuf' : hostBuf { x with started := true } = none := hbuf
      change execTimeArm r s = _
      refine (runCmd_takes h).trans ?_
      simp only [hnone, hsync', hlead', hroom', hid', hbuf', Bool.not_true, Bool.false_eq_true, Option.isSome_none, or_self, if_false]
    case sends =>
      have hbuf' : hostBuf { x with started := true } = some bs := hbuf
      change execTimeArm r s = _
      refine (runCmd_takes h).trans ?_
      simp only [hnone, hsync', hlead', hroom', hid', hbuf', Bool.not_true, Bool.false_eq_true, Option.isSome_none, or_self, if_false,
        withModule_eq, modTime]
      rfl
  case disarm =>
    intro c h hc hund hearly
    have hc' : coordOf (begun s r) (par x.entry 0 4) = some c := hc
    have hearly' : ¬ c.t - c.guard ≤ merNow (begun s r) := Nat.not_le.mpr hearly
    change execTimeDisarm r s = _
    refine (runCmd_takes h).trans ?_
    simp only [hc', hund, hearly', Option.isSome_none, Bool.false_eq_true, or_self, if_false]
  case armMsg =>
    intro q hq
    refine ⟨fun hwhy => ?refuses, fun hwhy => ?binds⟩
    case refuses =>
      change execArmMessage s = _
      simp only [execArmMessage, hq, modeRead, hwhy, ne_eq, not_false_eq_true, if_true]
    case binds =>
      change execArmMessage s = _
      simp only [execArmMessage, hq, modeRead, hwhy, ne_eq, not_true_eq_false, if_false, modTime]
  case confirm =>
    intro q hq
    change execConfirmMessage s = _
    simp only [execConfirmMessage, hq, modeRead, modTime]
  case disarmMsg =>
    intro q hq
    change execDisarmMessage s = _
    simp only [execDisarmMessage, hq, modeRead]
  case activate =>
    intro c hc
    refine ⟨fun hver hbroken hall => ?applies, fun hnot => ?fences⟩
    case applies =>
      have hall' : (boundActs (dropChange (advanceMer s c.t) co id) co id).all (canApply (dropChange (advanceMer s c.t) co id)) =
          true := List.all_eq_true.mpr hall
      change execModeChangeActivate co id s = _
      simp only [execModeChangeActivate, hc, hver, hbroken, hall', Bool.not_false, and_self, if_true]
    case fences =>
      have hgo : ¬ (c.verdict = some true ∧ (!c.broken) = true ∧
          (boundActs (dropChange (advanceMer s c.t) co id) co id).all (canApply (dropChange (advanceMer s c.t) co id)) = true) := by
        rintro ⟨hver, hbroken, hall⟩
        rcases hnot with hver' | hbroken' | ⟨a, ha, hno⟩
        · exact hver' hver
        · simp [hbroken'] at hbroken
        · exact Bool.false_ne_true (hno.symm.trans (List.all_eq_true.mp hall a ha))
      change execModeChangeActivate co id s = _
      simp only [execModeChangeActivate, hc, hgo, if_false]
  case armed =>
    intro q hq
    change execArmedMessage s = _
    simp only [execArmedMessage, hq, modeRead, armedNote_eq]
  case notarmed =>
    intro q hq
    change execNotarmedMessage s = _
    simp only [execNotarmedMessage, hq, modeRead]
  case decision =>
    intro c hc hund
    refine ⟨fun hall => ?confirms, fun hsome => ?disarms⟩
    case confirms =>
      have hall' : c.parts.all c.armed.contains = true := List.all_eq_true.mpr fun m hm => List.contains_iff_mem.mpr (hall m hm)
      change execArmDecision id s = _
      simp only [execArmDecision, hc, hund, hall', Option.isSome_none, Bool.false_eq_true, if_false, if_true]
    case disarms =>
      obtain ⟨m, hm, hno⟩ := hsome
      have hall' : c.parts.all c.armed.contains = false :=
        List.all_eq_false.mpr ⟨m, hm, fun hc => hno (List.contains_iff_mem.mp hc)⟩
      change execArmDecision id s = _
      simp only [execArmDecision, hc, hund, hall', Option.isSome_none, Bool.false_eq_true, if_false]
  case report =>
    intro q hq
    refine ⟨fun hc => ?gone, fun c hc => ?counts⟩
    case gone =>
      change execReportMessage s = _
      simp only [execReportMessage, hq, modeRead, reportNote_eq, hc]
    case counts =>
      change execReportMessage s = _
      simp only [execReportMessage, hq, modeRead, reportNote_eq, hc]
  case deadline =>
    intro c hc hdec
    change execReportDeadline id s = _
    simp only [execReportDeadline, hc, hdec, ne_eq, not_true_eq_false, if_false]

end Sys2Proof.Laws
end

section
/-! Settles O50 and O51: starts, resets from the host, and the host's accesses. -/

namespace Sys2Proof.Laws

open Sys2Proof.Machine Sys2Proof.Safety

/-- PF0 is there in every state. -/
theorem fnPresent_pf0 (s : State) : fnPresent s 0 = true := by
  unfold fnPresent
  split <;> simp

/-- Which functions are there does not hang on the resets under way. -/
theorem fnPresent_setResets (s : State) (fn : Nat) (rs) :
    fnPresent { s with host := { s.host with resets := rs } } fn = fnPresent s fn := rfl

/-- Settles O50: each event takes the branch that its conditions leave. -/
theorem startsAndHostResetsComplete : Obligations.StartsAndHostResetsComplete := by
  unfold Obligations.StartsAndHostResetsComplete
  intro s cores hbms chans ports n t fail
  dsimp only
  refine ⟨⟨fun k hst => ?halts, fun k c hst => ?starts⟩, fun hon => if_neg hon, ?coolant, ?perst, rfl, ?linkUp, ?linkReset,
    ?flr, ?vfOn, ?vfOff, ?numVfs, ?complete⟩
  case halts =>
    change execPowerApplied cores hbms chans ports fail s = _
    simp only [execPowerApplied, hst]
  case starts =>
    change execPowerApplied cores hbms chans ports fail s = _
    simp only [execPowerApplied, hst]
  case coolant =>
    intro k hst hflow
    change execCoolantWaitEnd n cores hbms chans ports fail s = _
    simp only [execCoolantWaitEnd, hst, Nat.not_lt.mpr hflow, if_false, modCtl]
  case perst =>
    intro hperst hruns
    change execPerstAssert s = _
    simp only [execPerstAssert, hperst, hruns, Bool.false_eq_true, if_false, if_true, modHost]
  case linkUp =>
    intro hperst hdown hruns hok htest
    have htest' : s.power.extest.contains 0 = false := by simpa using htest
    change execPcieLinkUp n t s = _
    simp only [execPcieLinkUp, hperst, hdown, hruns, hok, htest', Bool.not_true, Bool.false_eq_true, or_self, if_false, modHost]
  case linkReset =>
    intro hup
    exact if_pos hup
  case flr =>
    intro hruns
    refine ⟨?pf0, if_pos hruns, fun hlo hhi hthere => if_pos ⟨hruns, hlo, hhi, hthere⟩⟩
    change execFlrPf0 s = _
    simp only [execFlrPf0, hruns, Bool.not_true, Bool.false_eq_true, if_false]
  case vfOn =>
    intro hoff
    change execVfEnableWrite true s = _
    simp only [execVfEnableWrite, hoff, Bool.true_eq_false, if_false, if_true, modHost]
  case vfOff =>
    intro hon
    change execVfEnableWrite false s = _
    simp only [execVfEnableWrite, hon, Bool.false_eq_true, if_false, modHost, tenantReset]
  case numVfs =>
    intro hn
    refine ⟨fun hoff => ?idle, fun hon hmore => ?appear, fun hon hless => ?removed⟩
    case idle =>
      change execNumvfsWrite n s = _
      simp only [execNumvfsWrite, Nat.not_lt.mpr hn, hoff, Bool.not_false, if_false, if_true, modHost]
    case appear =>
      change execNumvfsWrite n s = _
      simp only [execNumvfsWrite, Nat.not_lt.mpr hn, hon, hmore, Bool.not_true, Bool.false_eq_true, if_false, if_true, modHost]
    case removed =>
      change execNumvfsWrite n s = _
      simp only [execNumvfsWrite, Nat.not_lt.mpr hn, hon, Nat.not_le.mpr hless, Bool.not_true, Bool.false_eq_true, if_false,
        modHost, tenantReset]
  case complete =>
    intro r hr hruns hbusy hlink
    have hup : ¬ (r.kind = .conv ∧ (!s.host.linkUp) = true) := fun hc => by simp [hlink hc.1] at hc
    refine ⟨fun cold hcold hn => ?start, fun hcold hrec hthere => ?reset⟩
    case start =>
      subst hn
      change execResetComplete 0 s = _
      simp only [execResetComplete, hr, hruns, hbusy, hcold, hup, fnPresent_pf0, Bool.not_true, Bool.false_eq_true,
        ne_eq, not_true_eq_false, decide_false, or_self, if_false, modHost, OfNat.zero_ne_ofNat]
    case reset =>
      have hearly : (s.ctl.recovery && decide (n ≠ 0)) = false := by
        cases hc : s.ctl.recovery
        · rfl
        · simp [hrec hc]
      have hthere' : fnPresent { s with host := { s.host with resets := tabDel s.host.resets n } } n = true := hthere
      change execResetComplete n s = _
      simp only [execResetComplete, hr, hruns, hbusy, hcold, hup, hearly, modHost, hthere', Bool.not_true, Bool.false_eq_true,
        or_self, if_false]

/-- The dies whose I/O is cut, by membership. -/
theorem extestNote_eq (n : Nat) (ex : List Nat) : (if ex.contains n then ex else ex ++ [n]) = if n ∈ ex then ex else ex ++ [n] :=
  if_congr List.contains_iff_mem rfl rfl

/-- Settles O51: each access takes the branch that its conditions leave; a completion is read by what it brings. -/
theorem hostAccessesComplete : Obligations.HostAccessesComplete := by
  unfold Obligations.HostAccessesComplete
  intro s fn n v k bs x b
  dsimp only
  refine ⟨?read, ?write, ?readTimeout, ?registers, ?moderation, ?unmask, ?completion, ?failure, fun hfail => if_pos hfail, ?ingress,
    ?registerWrite, ?jtag⟩
  case read =>
    intro hhit hlen
    refine ⟨fun hready => ?early, fun hready => ?waits⟩
    case early =>
      change execBar2Read fn v n k s = _
      simp only [execBar2Read, hhit, hready, Nat.not_lt.mpr hlen, Bool.not_true, Bool.not_false, Bool.false_eq_true, or_self, if_false,
        if_true]
    case waits =>
      change execBar2Read fn v n k s = _
      simp only [execBar2Read, hhit, hready, Nat.not_lt.mpr hlen, Bool.not_true, Bool.false_eq_true, or_self, if_false]
  case write =>
    intro hhit hlen
    refine ⟨fun hready => ?dropped, fun hready => ?queued⟩
    case dropped =>
      change execBar2Write fn n bs s = _
      simp only [execBar2Write, hhit, hready, Nat.not_lt.mpr hlen, Bool.not_true, Bool.not_false, Bool.false_eq_true, or_self, if_false,
        if_true]
    case queued =>
      change execBar2Write fn n bs s = _
      simp only [execBar2Write, hhit, hready, Nat.not_lt.mpr hlen, Bool.not_true, Bool.false_eq_true, or_self, if_false]
  case readTimeout =>
    intro tag va len dl sent got hq
    change execBar2ReadTimeout fn s = _
    simp only [execBar2ReadTimeout, hq] <;> rfl
  case registers =>
    intro hfn hthere
    refine ⟨?misaligned, ?wide, ?narrow, fun hroom => ?invalidate⟩
    case misaligned =>
      change execBar0BadAccess fn b s = _
      simp only [execBar0BadAccess, Nat.not_le.mpr hfn, hthere, Bool.not_true, Bool.false_eq_true, or_self, if_false]
    case wide =>
      change execWinBaseWrite fn true v s = _
      simp only [execWinBaseWrite, Nat.not_le.mpr hfn, hthere, Bool.not_true, Bool.false_eq_true, or_self, if_false, if_true]
    case narrow =>
      change execWinBaseWrite fn false v s = _
      simp only [execWinBaseWrite, Nat.not_le.mpr hfn, hthere, Bool.not_true, Bool.false_eq_true, or_self, if_false]
    case invalidate =>
      change execAtsInvalidate fn n k s = _
      simp only [execAtsInvalidate, Nat.not_le.mpr hfn, hthere, Nat.not_le.mpr hroom, Bool.not_true, Bool.false_eq_true, or_self,
        if_false, modHost]
  case moderation =>
    intro t hdue
    change execMsixModerationTimer fn n s = _
    simp only [execMsixModerationTimer, hdue]
    split <;> rfl
  case unmask =>
    intro hthere
    refine ⟨fun hn => ?one, ?all⟩
    case one =>
      change execMsixUnmask fn (some n) s = _
      simp only [execMsixUnmask, hthere, Nat.not_le.mpr hn, Bool.not_true, Bool.false_eq_true, if_false]
    case all =>
      change execMsixUnmask fn none s = _
      simp only [execMsixUnmask, hthere, Bool.not_true, Bool.false_eq_true, if_false]
  case completion =>
    intro hx
    have hgo : ¬ ((!s.host.reads.contains x) = true) := by simpa using hx
    refine ⟨?cmd, ?stream, ?nvme, ?t3⟩
    case cmd =>
      rintro r rfl
      exact if_neg hgo
    case stream =>
      rintro i rfl
      exact if_neg hgo
    case nvme =>
      rintro q c rfl
      exact if_neg hgo
    case t3 =>
      rintro t p rfl
      exact if_neg hgo
  case failure =>
    intro hfail hk
    have hcode : ¬ (5 < k ∨ k = 4) := by omega
    have hbad : k ≠ 0 := by omega
    change execHostCompletion x k n bs s = _
    simp only [execHostCompletion, hcode, hbad, hfail, ne_eq, not_false_eq_true, if_false, if_true]
  case ingress =>
    intro hfn
    refine ⟨fun hbit => ?shadow, fun hbit hgood => ?commits, fun hbit hgood => ?bad⟩
    case shadow =>
      change execHostIngressCommit fn v s = _
      simp only [execHostIngressCommit, Nat.not_lt.mpr hfn, hbit, Bool.not_false, if_false, if_true]
    case commits =>
      change execHostIngressCommit fn v s = _
      simp only [execHostIngressCommit, Nat.not_lt.mpr hfn, hbit, hgood, Bool.not_true, Bool.false_eq_true, if_false, if_true]
    case bad =>
      change execHostIngressCommit fn v s = _
      simp only [execHostIngressCommit, Nat.not_lt.mpr hfn, hbit, hgood, Bool.not_true, Bool.false_eq_true, if_false, modHost]
  case registerWrite =>
    intro hthere hruns
    have hgo : ¬ ((!fnPresent s fn) = true ∨ (!ctlRuns s) = true) := by simp [hthere, hruns]
    refine ⟨fun z hn => ?word, fun z hn => ?double, fun en fm => if_neg hgo, fun hfn => ⟨?ats, ?pasid⟩⟩
    case word =>
      change execRegisterWrite fn (.bar0 n 4 z) s = _
      simp [execRegisterWrite, hthere, hruns, hn]
    case double =>
      change execRegisterWrite fn (.bar0 n 8 z) s = _
      simp [execRegisterWrite, hthere, hruns, hn]
    case ats => exact (if_neg hgo).trans (congrArg Host.Outcome.next (if_neg hfn))
    case pasid => exact (if_neg hgo).trans (congrArg Host.Outcome.next (if_neg hfn))
  case jtag =>
    intro hn hon
    have hgo : ¬ (20 ≤ n ∨ s.ctl.start = .off) := not_or.mpr ⟨Nat.not_le.mpr hn, hon⟩
    refine ⟨if_neg hgo, if_neg hgo, if_neg hgo, fun hshut => ?other, fun hdev => ?port48, fun hlo hhi => ?ports, fun hdev => ?rest⟩
    case other =>
      refine (if_neg hgo).trans (if_neg ?_)
      exact fun hc => Bool.false_ne_true (hshut.symm.trans hc)
    case port48 =>
      change execJtagInstructionLoad n .extest s = _
      rw [← extestNote_eq]
      exact (if_neg hgo).trans (if_pos hdev)
    case ports =>
      have hdev : n ≠ 0 := by omega
      change execJtagInstructionLoad n .extest s = _
      rw [← extestNote_eq]
      exact (if_neg hgo).trans ((if_neg hdev).trans (if_pos hhi))
    case rest =>
      have hdev' : n ≠ 0 := by omega
      have hhi : ¬ n ≤ 6 := by omega
      change execJtagInstructionLoad n .extest s = _
      rw [← extestNote_eq]
      exact (if_neg hgo).trans ((if_neg hdev').trans (if_neg hhi))

end Sys2Proof.Laws
end

section
/-! Settles O52: PF1's admin commands. -/

namespace Sys2Proof.Laws

open Sys2Proof.Machine Sys2Proof.Safety

/-- Settles O52: each command's row runs its body, and the body's checks pass one by one. -/
theorem nvmeAdminComplete : Obligations.NvmeAdminComplete := by
  unfold Obligations.NvmeAdminComplete
  intro s u sq cid entry c
  dsimp only
  refine ⟨?createCq, ?createSq, ?deleteSq, ?deleteCq, ?identify, ?logPage, ?setFeatures, ?getFeatures, ?abort, ?eventRequest,
    ?management, ?attachment, ?format, ?sanitize, ?absent⟩
  case createCq =>
    intro h hlo hhi hnew hsize hpc hvec hoff
    have hq : ¬ (cdw c 10 % 65536 = 0 ∨ 128 < cdw c 10 % 65536 ∨ (ioCqAt u (cdw c 10 % 65536)).isSome = true) := by
      simp only [hnew, Option.isSome_none, Bool.false_eq_true, or_false]
      omega
    have hsize' : ¬ cdw c 10 / 65536 + 1 < 2 := by omega
    have hpc' : cdw c 11 % 2 ≠ 0 := by omega
    change execNvmeCreateIoCq sq cid entry s = _
    refine (nvRow_takes h).trans ?_
    simp only [hq, hsize', hpc', Nat.not_lt.mpr hvec, hoff, ne_eq, not_true_eq_false, if_false, modStore]
  case createSq =>
    intro h hlo hhi hnew hsize hpc hcq0 hcq hoff
    have hq : ¬ (cdw c 10 % 65536 = 0 ∨ 128 < cdw c 10 % 65536 ∨ (ioSqAt u (cdw c 10 % 65536)).isSome = true) := by
      simp only [hnew, Option.isSome_none, Bool.false_eq_true, or_false]
      omega
    have hsize' : ¬ cdw c 10 / 65536 + 1 < 2 := by omega
    have hpc' : cdw c 11 % 2 ≠ 0 := by omega
    have hcq' : ¬ (cdw c 11 / 65536 = 0 ∨ (ioCqAt u (cdw c 11 / 65536)).isNone = true) := by
      obtain ⟨y, hy⟩ := Option.isSome_iff_exists.mp hcq
      simp [hcq0, hy]
    change execNvmeCreateIoSq sq cid entry s = _
    refine (nvRow_takes h).trans ?_
    simp only [hq, hsize', hpc', hcq', hoff, ne_eq, not_true_eq_false, if_false, modStore]
  case deleteSq =>
    intro h hq hthere
    have hgo : ¬ (cdw c 10 % 65536 = 0 ∨ (ioSqAt u (cdw c 10 % 65536)).isNone = true) := by
      obtain ⟨y, hy⟩ := Option.isSome_iff_exists.mp hthere
      simp [hq, hy]
    change execNvmeDeleteIoSq sq cid entry s = _
    refine (nvRow_takes h).trans ?_
    exact congrArg Host.Outcome.next (if_neg hgo)
  case deleteCq =>
    intro h hq hthere hfree
    have hgo : ¬ (cdw c 10 % 65536 = 0 ∨ (ioCqAt u (cdw c 10 % 65536)).isNone = true) := by
      obtain ⟨y, hy⟩ := Option.isSome_iff_exists.mp hthere
      simp [hq, hy]
    have hfree' : (u.store.sqs.any fun x => decide (x.2.cq = cdw c 10 % 65536)) = false :=
      List.any_eq_false.mpr fun x hx => by simpa using hfree x hx
    change execNvmeDeleteIoCq sq cid entry s = _
    refine (nvRow_takes h).trans ?_
    simp only [hgo, hfree', Bool.false_eq_true, if_false, modStore]
  case identify =>
    intro bs h hdata hfits
    change execNvmeIdentify sq cid entry s = _
    refine (nvRow_takes h).trans ?_
    simp only [hdata, nvPut_fits hfits]
  case logPage =>
    intro p h hpage hoff halign hns hfits
    have hgo : ¬ (p.length < fieldAt c.e 48 8 ∨ fieldAt c.e 48 8 % 4 ≠ 0 ∨
        (cdw c 10 % 256 = 2 ∧ nvNsid c ≠ 0 ∧ nvNsid c ≠ 0xFFFFFFFF)) := by
      rintro (hlen | hmod | ⟨hlid, hzero, hall⟩)
      · omega
      · exact hmod halign
      · exact (hns hlid).elim hzero hall
    change execNvmeGetLogPage sq cid entry s = _
    refine (nvRow_takes h).trans ?_
    simp only [hpage, hgo, if_false, nvPut_fits hfits]
  case setFeatures =>
    intro h hsave
    refine ⟨fun hfid hw hps2 => ?power, fun hfid hsel htype hhigh => ?threshold, fun hfid hw => ?recovery, fun hfid hw => ?cache,
      fun hfid hsq hcq => ?queues, fun hfid hvec hw => ?vector, fun d hfid hw hfits hd hes => ?apst, fun d hfid hfits hd => ?stamp,
      fun hfid => ?plain⟩
    case power =>
      have hknown : featKnown 2 = true := rfl
      have hmod : cdw c 11 % 32 = cdw c 11 := Nat.mod_eq_of_lt (by omega)
      have hhigh : cdw c 11 / 32 = 0 := by omega
      have hfree : ¬ (cdw c 11 = 2 ∧ (u.atlas.t4Pool ≠ 0 ∨ dmaNs u = true)) := by
        rintro ⟨htwo, hpool | hcopy⟩
        · exact hpool (hps2 htwo).1
        · exact Bool.false_ne_true ((hps2 htwo).2.symm.trans hcopy)
      change execNvmeSetFeatures sq cid entry s = _
      refine (nvRow_takes h).trans ?_
      simp only [hsave, hfid, hknown, hmod, hhigh, Nat.not_lt.mpr hw, hfree, Bool.not_true, Bool.false_eq_true, ne_eq,
        not_true_eq_false, or_self, if_false, modStore]
    case threshold =>
      have hgo : ¬ ((bitsOf (cdw c 11) 19 16 ≠ 0 ∧ bitsOf (cdw c 11) 19 16 ≠ 15) ∨ 1 < bitsOf (cdw c 11) 21 20 ∨
          cdw c 11 / 2 ^ 22 ≠ 0) := by omega
      change execNvmeSetFeatures sq cid entry s = _
      refine (nvRow_takes h).trans ?_
      simp only [hsave, hfid, Bool.false_eq_true, if_false]
      exact congrArg Host.Outcome.next (if_neg hgo)
    case recovery =>
      have hgo : ¬ (bitOf (cdw c 11) 16 = true ∨ cdw c 11 / 2 ^ 17 ≠ 0) := by
        simp only [bitOf, hw, decide_eq_true_eq]
        omega
      change execNvmeSetFeatures sq cid entry s = _
      refine (nvRow_takes h).trans ?_
      simp only [hsave, hfid, Bool.false_eq_true, if_false]
      exact congrArg Host.Outcome.next (if_neg hgo)
    case cache =>
      change execNvmeSetFeatures sq cid entry s = _
      refine (nvRow_takes h).trans ?_
      simp only [hsave, hfid, Bool.false_eq_true, if_false]
      exact congrArg Host.Outcome.next (if_neg (not_not_intro hw))
    case queues =>
      change execNvmeSetFeatures sq cid entry s = _
      refine (nvRow_takes h).trans ?_
      simp only [hsave, hfid, Bool.false_eq_true, if_false]
      exact congrArg Host.Outcome.next (if_neg (not_or.mpr ⟨hsq, hcq⟩))
    case vector =>
      have hgo : ¬ (128 < cdw c 11 % 65536 ∨ cdw c 11 / 2 ^ 17 ≠ 0) := by omega
      change execNvmeSetFeatures sq cid entry s = _
      refine (nvRow_takes h).trans ?_
      simp only [hsave, hfid, Bool.false_eq_true, if_false]
      exact congrArg Host.Outcome.next (if_neg hgo)
    case apst =>
      change execNvmeSetFeatures sq cid entry s = _
      refine (nvRow_takes h).trans ?_
      simp only [hsave, hfid, Bool.false_eq_true, if_false]
      refine congrArg Host.Outcome.next ((if_neg (not_not_intro hw)).trans ((nvGet_fits hfits hd).trans (if_neg ?_)))
      rintro (hany | ⟨hany, hpool⟩)
      · obtain ⟨e, he, hstate⟩ := List.any_eq_true.mp hany
        exact absurd (of_decide_eq_true hstate) (Nat.not_lt.mpr (hes e he).1)
      · obtain ⟨e, he, hstate⟩ := List.any_eq_true.mp hany
        obtain ⟨htime, htwo⟩ := of_decide_eq_true hstate
        exact (hes e he).2.elim hpool fun hno => hno.elim htime fun hne => hne htwo
    case stamp =>
      change execNvmeSetFeatures sq cid entry s = _
      refine (nvRow_takes h).trans ?_
      simp only [hsave, hfid, Bool.false_eq_true, if_false]
      have hknown : ¬ ((!featKnown 14) = true) := by decide
      exact congrArg Host.Outcome.next ((if_neg hknown).trans (nvGet_fits hfits hd))
    case plain =>
      change execNvmeSetFeatures sq cid entry s = _
      refine (nvRow_takes h).trans ?_
      obtain hfid | hfid | hfid := hfid
      all_goals
        simp only [hsave, hfid, Bool.false_eq_true, if_false]
        rfl
  case getFeatures =>
    intro h hsel
    refine ⟨fun hfid => ?powerOf, fun hfid hsens => ?thresholdOf, fun hfid hvec => ?vectorOf, fun hfid hfits => ?apstOf,
      fun hfid hfits => ?stampOf, fun hfid => ?plainOf⟩
    case powerOf =>
      change execNvmeGetFeatures sq cid entry s = _
      refine (nvRow_takes h).trans ?_
      simp [hsel, hfid, featKnown]
    case thresholdOf =>
      change execNvmeGetFeatures sq cid entry s = _
      refine (nvRow_takes h).trans ?_
      simp [hsel, hfid, hsens, featKnown]
    case vectorOf =>
      change execNvmeGetFeatures sq cid entry s = _
      refine (nvRow_takes h).trans ?_
      simp [hsel, hfid, Nat.not_lt.mpr hvec, featKnown]
    case apstOf =>
      change execNvmeGetFeatures sq cid entry s = _
      refine (nvRow_takes h).trans ?_
      simp [hsel, hfid, nvPut_fits hfits, featKnown]
    case stampOf =>
      change execNvmeGetFeatures sq cid entry s = _
      refine (nvRow_takes h).trans ?_
      simp [hsel, hfid, nvPut_fits hfits, featKnown]
    case plainOf =>
      change execNvmeGetFeatures sq cid entry s = _
      refine (nvRow_takes h).trans ?_
      simp only [List.mem_cons, List.not_mem_nil, or_false] at hfid
      obtain hfid | hfid | hfid | hfid | hfid | hfid := hfid
      all_goals simp [hsel, hfid, featKnown]
  case abort =>
    intro h
    refine ⟨fun x hx hnew hroom hroom' => ?ends, fun x hx hnew hroom => ?marks, fun hx => ?late⟩
    case ends =>
      change execNvmeAbort sq cid entry s = _
      refine (nvRow_takes h).trans ?_
      simp only [hx, hnew, hroom, hroom', Bool.false_eq_true, if_false, if_true]
    case marks =>
      change execNvmeAbort sq cid entry s = _
      refine (nvRow_takes h).trans ?_
      simp only [hx, hnew, hroom, Bool.false_eq_true, if_false]
    case late =>
      change execNvmeAbort sq cid entry s = _
      refine (nvRow_takes h).trans ?_
      obtain hx | ⟨x, hx, hold⟩ := hx
      · simp only [hx]
      · simp only [hx, hold, if_true]
  case eventRequest =>
    intro h hroom
    change execNvmeAsyncEventRequest sq cid entry s = _
    refine (nvRow_takes h).trans ?_
    exact congrArg Host.Outcome.next (if_neg (Nat.not_le.mpr hroom))
  case management =>
    intro h htrial
    refine ⟨fun d i hsel hfits hd hfmt hdps hnmic hsize hcap hroom hgap => ?create, fun hsel hns hlocks => ?delete⟩
    case create =>
      have hfmt1 : ¬ 1 < byteAt (padTo 4096 d) 26 % 16 := by omega
      have hfmt2 : byteAt (padTo 4096 d) 26 / 16 = 0 := by omega
      change execNvmeNamespaceManagement sq cid entry s = _
      refine (nvRow_takes h).trans ?_
      simp only [htrial, hsel, nvGet_fits hfits hd, hfmt1, hfmt2, hdps, hnmic, hsize, hcap, Nat.not_lt.mpr hroom, hgap,
        Bool.false_eq_true, ne_eq, not_true_eq_false, or_self, if_false, modStore]
    case delete =>
      have hns' : ¬ (nvNsid c ≠ 0xFFFFFFFF ∧ (nsAt u (nvNsid c)).isNone = true) := by
        rintro ⟨hall, hnone⟩
        rcases hns with hns | hns
        · exact hall hns
        · simp [Option.isNone_iff_eq_none.mp hnone] at hns
      have hlocks' : ((if nvNsid c = 0xFFFFFFFF then u.store.nss.map (·.1) else [nvNsid c]).any (nsLocked u)) = false :=
        List.any_eq_false.mpr fun i hi => by simp [hlocks i hi]
      change execNvmeNamespaceManagement sq cid entry s = _
      refine (nvRow_takes h).trans ?_
      simp only [htrial, hsel, hns', hlocks', Bool.false_eq_true, if_false]
  case attachment =>
    intro x d h htrial hsel hns hfits hd hone hctrl hatt
    have hno0 : ¬ (cdw c 10 % 16 = 0 ∧ x.attached = true) := by
      rintro ⟨hz, ha⟩
      rw [hatt, hz] at ha
      exact absurd ha (by decide)
    have hno1 : ¬ (cdw c 10 % 16 = 1 ∧ (!x.attached) = true) := by
      rintro ⟨hz, ha⟩
      rw [hatt, hz] at ha
      exact absurd ha (by decide)
    change execNvmeNamespaceAttachment sq cid entry s = _
    refine (nvRow_takes h).trans ?_
    simp only [htrial, Nat.not_lt.mpr hsel, hns, nvGet_fits hfits hd, hone, hctrl, hno0, hno1, Bool.false_eq_true, ne_eq,
      not_true_eq_false, or_self, if_false, modStore]
  case format =>
    intro h htrial hfmt hlow hses hns hspare hfree
    have hbits : ¬ (bitsOf (cdw c 10) 8 4 ≠ 0 ∨ 2 < bitsOf (cdw c 10) 11 9) := by omega
    have hns' : ¬ (nvNsid c ≠ 0xFFFFFFFF ∧ (nsSeen u (nvNsid c)).isNone = true) := by
      rintro ⟨hall, hnone⟩
      rcases hns with hns | hns
      · exact hall hns
      · simp [Option.isNone_iff_eq_none.mp hnone] at hns
    change execNvmeFormatNvm sq cid entry s = _
    refine (nvRow_takes h).trans ?_
    simp only [htrial, Nat.not_lt.mpr hfmt, hbits, hns', hspare, nvStart_free hfree, Bool.false_eq_true, if_false, modStore]
  case sanitize =>
    intro h htrial
    refine ⟨fun hact => ?exit, fun hact hspare hfree => ?erase⟩
    case exit =>
      change execNvmeSanitize sq cid entry s = _
      refine (nvRow_takes h).trans ?_
      simp only [htrial, hact, Bool.false_eq_true, ne_eq, not_true_eq_false, false_and, if_false, if_true]
    case erase =>
      have hknown : ¬ (cdw c 10 % 8 ≠ 1 ∧ cdw c 10 % 8 ≠ 2 ∧ cdw c 10 % 8 ≠ 4) := by omega
      have hnot1 : cdw c 10 % 8 ≠ 1 := by omega
      change execNvmeSanitize sq cid entry s = _
      refine (nvRow_takes h).trans ?_
      simp only [htrial, hknown, hspare, nvStart_free hfree, Bool.false_eq_true, if_false]
      rw [if_neg hnot1]
  case absent =>
    intro htake hroom hop
    change execNvmeAbsentCommand sq cid entry s = _
    unfold execNvmeAbsentCommand
    rw [htake]
    refine if_neg ?_
    rintro (hin | hfull)
    · exact hop (List.contains_iff_mem.mp hin)
    · simp [hroom] at hfull

end Sys2Proof.Laws
end

section
/-! Settles O53: PF1's I/O commands, doorbells, shutdown and timers. -/

namespace Sys2Proof.Laws

open Sys2Proof.Machine Sys2Proof.Safety

/-- A command for an attached namespace that is shown goes on with it. -/
theorem nsChecked_seen {s : State} {c : NvCmd} {ns : Ns} {k : Ns → State} (hlo : 1 ≤ nvNsid c) (hhi : nvNsid c ≤ 32)
    (hns : nsSeen s (nvNsid c) = some ns) (hatt : ns.attached = true) : nsChecked s c k = k ns := by
  have hid : ¬ (nvNsid c = 0 ∨ 32 < nvNsid c) := by omega
  simp only [nsChecked, hid, hns, hatt, Bool.not_true, Bool.false_eq_true, if_false]

/-- A command whose blocks such a namespace holds goes on with it. -/
theorem ioChecked_held {s : State} {c : NvCmd} {nlb : Nat} {ns : Ns} {k : Ns → State} (hlo : 1 ≤ nvNsid c) (hhi : nvNsid c ≤ 32)
    (hns : nsSeen s (nvNsid c) = some ns) (hatt : ns.attached = true) (hlen : ioSlba c + nlb ≤ ns.nsze) :
    ioChecked s c nlb k = k ns :=
  (nsChecked_seen hlo hhi hns hatt).trans (if_neg (Nat.not_lt.mpr hlen))

/-- A command that has begun goes on, whatever locks there are. -/
theorem nvStart_begun {s : State} {c : NvCmd} {rs : List (Nat × Nat × Nat)} {w : Bool} {k : State → NvCmd → State}
    (h : c.started = true) : nvStart s c rs w k = k s c := if_pos h

/-- The even doorbells are the submission queues'. -/
theorem doorbell_number_sq (k : Nat) : (0x1000 + 8 * k - 0x1000) / 4 = 2 * k := by omega

/-- The odd doorbells are the completion queues'. -/
theorem doorbell_number_cq (k : Nat) : (0x1004 + 8 * k - 0x1000) / 4 = 2 * k + 1 := by omega

/-- A doorbell at an aligned offset from 0x1000 on is taken while the controller is up. -/
theorem doorbell_taken {s : State} {off : Nat} (hup : nvUp s = true) (hlo : 0x1000 ≤ off) (hal : off % 4 = 0) :
    ¬ ((!nvUp s) = true ∨ off < 0x1000 ∨ off % 4 ≠ 0) := by
  rintro (hdown | hlow | hodd)
  · simp [hup] at hdown
  · exact absurd hlo (Nat.not_le.mpr hlow)
  · exact hodd hal

/-- Settles O53: each command's row runs its body, and the body's checks pass one by one. -/
theorem nvmeIoComplete : Obligations.NvmeIoComplete := by
  unfold Obligations.NvmeIoComplete
  intro s u sq cid entry c ns
  dsimp only
  refine ⟨?read, ?durable, ?write, ?zeroes, ?flush, ?deallocate, ?doorbell, ?shutdown, ?coalescing, ?idle⟩
  case read =>
    rintro h ⟨⟨hlo, hhi, hns, hatt⟩, hheld⟩ hlen
    have hchk (k : Ns → State) : ioChecked u c (ioNlb c) k = k ns := ioChecked_held hlo hhi hns hatt hheld
    refine ⟨fun hfree => ?begins, fun hon hdone hfail hlost hfits => ?data, fun hon hdone hbad => ?error⟩
    case begins =>
      have hnew : c.started = false := hfree.1
      change execNvmeRead sq cid entry s = _
      refine (nvRow_takes h).trans ?_
      simp only [hchk, Nat.not_lt.mpr hlen, hnew, nvStart_free hfree, Bool.false_eq_true, if_false]
    case data =>
      change execNvmeRead sq cid entry s = _
      refine (nvRow_takes h).trans ?_
      simp only [hchk, Nat.not_lt.mpr hlen, hon, hdone, hfail, hlost, nvPut_fits hfits, Bool.false_eq_true, or_self, if_false, if_true,
        modStore]
    case error =>
      change execNvmeRead sq cid entry s = _
      refine (nvRow_takes h).trans ?_
      simp only [hchk, Nat.not_lt.mpr hlen, hon, hdone, hbad, Bool.false_eq_true, if_false, if_true, modStore]
  case durable =>
    intro k hafter hdur
    have hends : wrWait u c k = nvDone u c 0 0 := if_pos hdur
    refine ⟨fun h => ?writeEnds, fun h => ?zeroesEnd, fun h => ?flushEnds, fun h => ?deallocateEnds⟩
    case writeEnds =>
      change execNvmeWrite sq cid entry s = _
      refine (nvRow_takes h).trans ?_
      simp only [hafter, hends]
    case zeroesEnd =>
      change execNvmeWriteZeroes sq cid entry s = _
      refine (nvRow_takes h).trans ?_
      simp only [hafter, hends]
    case flushEnds =>
      change execNvmeFlush sq cid entry s = _
      refine (nvRow_takes h).trans ?_
      simp only [hafter, hends]
    case deallocateEnds =>
      change execNvmeDatasetManagement sq cid entry s = _
      refine (nvRow_takes h).trans ?_
      simp only [hafter, hends]
  case write =>
    rintro h hafter ⟨⟨hlo, hhi, hns, hatt⟩, hheld⟩ hlen hspare
    have hchk (k : Ns → State) : ioChecked u c (ioNlb c) k = k ns := ioChecked_held hlo hhi hns hatt hheld
    refine ⟨fun hfree hdata hfits => ?asks, fun d hon hdata hfits hroom => ?buffers⟩
    case asks =>
      change execNvmeWrite sq cid entry s = _
      refine (nvRow_takes h).trans ?_
      simp only [hafter, hchk, Nat.not_lt.mpr hlen, hspare, nvStart_free hfree, Bool.false_eq_true, if_false]
      exact congrArg Host.Outcome.next (nvGet_asks hfits hdata)
    case buffers =>
      have hroom' : ¬ 1073741824 < wbUsed u + ioNlb c * lbaBytes ns := Nat.not_lt.mpr hroom
      change execNvmeWrite sq cid entry s = _
      refine (nvRow_takes h).trans ?_
      simp only [hafter, hchk, Nat.not_lt.mpr hlen, hspare, nvStart_begun hon, nvGet_fits hfits hdata, hroom', Bool.false_eq_true, if_false]
  case zeroes =>
    rintro h hafter ⟨⟨hlo, hhi, hns, hatt⟩, hheld⟩ hspare hfree
    have hchk (k : Ns → State) : ioChecked u c (ioNlb c) k = k ns := ioChecked_held hlo hhi hns hatt hheld
    change execNvmeWriteZeroes sq cid entry s = _
    refine (nvRow_takes h).trans ?_
    simp only [hafter, hchk, hspare, nvStart_free hfree, Bool.false_eq_true, if_false]
  case flush =>
    intro h hafter hns hfree
    have hid : ¬ (nvNsid c ≠ 0xFFFFFFFF ∧ (nvNsid c = 0 ∨ 32 < nvNsid c)) := by omega
    have hseen : ¬ (nvNsid c ≠ 0xFFFFFFFF ∧ (!(match nsSeen u (nvNsid c) with | some x => x.attached | none => false)) = true) := by
      rintro ⟨hall, hno⟩
      obtain hns | ⟨hlo, hhi, hns, hatt⟩ := hns
      · exact hall hns
      · simp [hns, hatt] at hno
    have hgo : execNvmeFlush sq cid entry s = .next (if (nvBegun u c).store.wb = [] then nvDone (nvBegun u c) { c with started := true } 0 0
        else modNv (nvBegun u c) { c with started := true } fun y => { y with after := some ((nvBegun u c).store.nextWb - 1) }) := by
      refine (nvRow_takes h).trans ?_
      simp only [hafter]
      exact congrArg Host.Outcome.next ((if_neg hid).trans ((if_neg hseen).trans (nvStart_free hfree)))
    exact ⟨fun hwb => hgo.trans (congrArg Host.Outcome.next (if_pos hwb)), fun hwb => hgo.trans (congrArg Host.Outcome.next (if_neg hwb))⟩
  case deallocate =>
    rintro d h hafter ⟨hlo, hhi, hns, hatt⟩ hfits hd hrange
    have hchk (k : Ns → State) : nsChecked u { c with hdata := some (padTo (16 * (cdw c 10 % 256 + 1)) d) } k = k ns :=
      nsChecked_seen hlo hhi hns hatt
    have hrange' : (nvRanges u { c with hdata := some (padTo (16 * (cdw c 10 % 256 + 1)) d) }).any
        (fun r => decide (ns.nsze < r.2.1 + r.2.2)) = false :=
      List.any_eq_false.mpr fun r hr => by simpa using hrange r hr
    simp only [hafter] at hchk hrange'
    refine ⟨fun had => ?ignored, fun had hspare hfree => ?drops⟩
    case ignored =>
      change execNvmeDatasetManagement sq cid entry s = _
      refine (nvRow_takes h).trans ?_
      simp only [hafter, nvGet_fits hfits hd, hchk, hrange', had, Bool.false_eq_true, if_false, if_true]
    case drops =>
      simp only [hafter] at hfree
      change execNvmeDatasetManagement sq cid entry s = _
      refine (nvRow_takes h).trans ?_
      simp only [hafter, nvGet_fits hfits hd, hchk, hrange', had, hspare, nvStart_free hfree, Bool.false_eq_true, Bool.true_eq_false,
        if_false]
  case doorbell =>
    intro k value hup
    have hsq := doorbell_number_sq k
    have hcq := doorbell_number_cq k
    have hsqGo := doorbell_taken (off := 0x1000 + 8 * k) hup (by omega) (by omega)
    have hcqGo := doorbell_taken (off := 0x1004 + 8 * k) hup (by omega) (by omega)
    have heven : 2 * k % 2 = 0 := by omega
    have hodd : (2 * k + 1) % 2 ≠ 0 := by omega
    have hsqId : 2 * k / 2 = k := by omega
    have hcqId : (2 * k + 1) / 2 = k := by omega
    refine ⟨fun x hx hval => ?tail, fun x hx hval => ?head, fun x hx hval => ?badTail, fun x hx hval => ?badHead, fun hx => ?noSq,
      fun hx => ?noCq⟩
    case tail =>
      change execNvmeDoorbellWrite (0x1000 + 8 * k) value s = _
      simp only [execNvmeDoorbellWrite, hsqGo, hsq, heven, hsqId, hx, Nat.not_le.mpr hval, if_false, if_true, modStore]
    case head =>
      change execNvmeDoorbellWrite (0x1004 + 8 * k) value s = _
      simp only [execNvmeDoorbellWrite, hcqGo, hcq, hodd, hcqId, hx, Nat.not_le.mpr hval, if_false, modStore]
    case badTail =>
      change execNvmeDoorbellWrite (0x1000 + 8 * k) value s = _
      simp only [execNvmeDoorbellWrite, hsqGo, hsq, heven, hsqId, hx, hval, if_false, if_true]
    case badHead =>
      change execNvmeDoorbellWrite (0x1004 + 8 * k) value s = _
      simp only [execNvmeDoorbellWrite, hcqGo, hcq, hodd, hcqId, hx, hval, if_false, if_true]
    case noSq =>
      change execNvmeDoorbellWrite (0x1000 + 8 * k) value s = _
      simp only [execNvmeDoorbellWrite, hsqGo, hsq, heven, hsqId, hx, if_false, if_true]
    case noCq =>
      change execNvmeDoorbellWrite (0x1004 + 8 * k) value s = _
      simp only [execNvmeDoorbellWrite, hcqGo, hcq, hodd, hcqId, hx, if_false]
  case shutdown =>
    intro shn hready
    have hgo : ¬ ((!(funcAt s 64).ready) = true) := by simp [hready]
    exact if_neg hgo
  case coalescing =>
    intro q x hx hheld
    change execInterruptCoalescingTimer q s = _
    simp only [execInterruptCoalescingTimer, hx, hheld, if_false, modStore]
  case idle =>
    intro hon htime hbusy hps2
    have hgo : ¬ (featAt s 0x0C 0 % 2 = 0 ∨ tabGet s.store.apst s.store.psNow 0 / 256 % 2 ^ 24 = 0 ∨ nvBusy s = true) := by
      rintro (hoff | hzero | hb)
      · omega
      · exact htime hzero
      · exact Bool.false_ne_true (hbusy.symm.trans hb)
    have hfree : ¬ (bitsOf (tabGet s.store.apst s.store.psNow 0) 7 3 = 2 ∧ (s.atlas.t4Pool ≠ 0 ∨ dmaNs s = true)) := by
      rintro ⟨htwo, hpool | hcopy⟩
      · exact hpool (hps2 htwo).1
      · exact Bool.false_ne_true ((hps2 htwo).2.symm.trans hcopy)
    exact (if_neg hgo).trans (if_neg hfree)

end Sys2Proof.Laws
end

section
/-! Settles O54: the channels' work, failures of the flash, and lock timers. -/

namespace Sys2Proof.Laws

open Sys2Proof.Machine Sys2Proof.Safety

/-- An enabled channel outside PS2 starts a critical collection, else serves the oldest urgent read, else the weighted classes, else
collects. -/
theorem channelSchedule_runs {s : State} {c : Nat} (hc : c < 40) (hen : s.enChans.getLsbD c = true) (hps : s.store.psNow ≠ 2) :
    execChannelSchedule c s = match (gcPick s c).filter (gcCritical s c) with
      | some b => .next (gcStart s (t4Live s) c b)
      | none =>
        match opOf (chanAt s c) .urgent with
        | some o => .next (serveOp s c o)
        | none =>
          if (List.range 5).any (wrrHas s c (gcPick s c)) then
            .next (wrrServe s c (wrrHas s c (gcPick s c)) (wrrDo (t4Live s) c (gcPick s c)) 12)
          else match gcPick s c with
            | some b => .next (gcStart s (t4Live s) c b)
            | none => .next s := by
  have hgo : ¬ (c ≥ 40 ∨ (!s.enChans.getLsbD c) = true ∨ s.store.psNow = 2) := by
    rintro (hbig | hoff | htwo)
    · exact absurd hc (Nat.not_lt.mpr hbig)
    · simp [hen] at hoff
    · exact hps htwo
  exact if_neg hgo

/-- Settles O54: each event takes the branch that its conditions leave. -/
theorem flashWorkComplete : Obligations.FlashWorkComplete := by
  unfold Obligations.FlashWorkComplete
  intro s c b p high
  dsimp only
  refine ⟨?schedule, ?program, ?copied, ?targetFails, ?openFails, ?erasing, ?readFails, ?locks⟩
  case schedule =>
    intro hc hen hps
    have hruns := channelSchedule_runs hc hen hps
    refine ⟨fun k hk hcrit => ?critical, fun hcalm => ?calm⟩
    case critical =>
      refine hruns.trans ?_
      rw [hk, Option.filter_some_pos hcrit]
    case calm =>
      have hnone : (gcPick s c).filter (gcCritical s c) = none :=
        Option.filter_eq_none_iff.mpr fun k hk => by simp [hcalm k hk]
      refine ⟨fun o ho => ?urgent, fun ho hsome => ?weighted, fun k ho hidle hk => ?collects⟩
      case urgent =>
        refine hruns.trans ?_
        rw [hnone, ho]
      case weighted =>
        obtain ⟨i, hi, hhas⟩ := hsome
        have hany : (List.range 5).any (wrrHas s c (gcPick s c)) = true := List.any_eq_true.mpr ⟨i, List.mem_range.mpr hi, hhas⟩
        refine hruns.trans ?_
        rw [hnone, ho]
        exact if_pos hany
      case collects =>
        have hany : ¬ ((List.range 5).any (wrrHas s c (gcPick s c)) = true) := by
          rw [List.any_eq_true]
          rintro ⟨i, hi, hhas⟩
          exact Bool.false_ne_true ((hidle i (List.mem_range.mp hi)).symm.trans hhas)
        refine hruns.trans ?_
        rw [hnone, ho]
        refine (if_neg hany).trans ?_
        rw [hk]
  case program =>
    intro e rest w hwb hawake hprog
    have hgo : ¬ (s.store.psNow = 2 ∧ s.power.stage = 4) := fun hc => hawake.elim (fun h => h hc.1) fun h => h hc.2
    change execWriteBufferProgram s = _
    simp only [execWriteBufferProgram, hwb, hgo, hprog, if_false, modStore]
  case copied =>
    intro g hg
    refine ⟨fun hhigh => ?abandoned, fun hhigh => ?switched⟩
    case abandoned =>
      have hhigh' : high.contains g.dst = true := List.contains_iff_mem.mpr hhigh
      change execGcCopyVerified c high s = _
      simp only [execGcCopyVerified, hg, hhigh', if_true]
    case switched =>
      have hhigh' : ¬ (high.contains g.dst = true) := fun hc => hhigh (List.contains_iff_mem.mp hc)
      change execGcCopyVerified c high s = _
      unfold execGcCopyVerified
      rw [hg]
      exact if_neg hhigh'
  case targetFails =>
    intro g hg hdst
    change execFlashProgramFail c b s = _
    simp only [execFlashProgramFail, hg, hdst, if_true]
  case openFails =>
    intro hother hopen
    change execFlashProgramFail c b s = _
    cases hg : (chanAt s c).gc with
    | none => simp only [execFlashProgramFail, hg, hopen, if_true]
    | some g => simp only [execFlashProgramFail, hg, hother g hg, hopen, if_false, if_true]
  case erasing =>
    intro hb
    have hb' : (chanAt s c).erasing.contains b = true := List.contains_iff_mem.mpr hb
    exact ⟨if_pos hb', if_pos hb'⟩
  case readFails =>
    intro x k hx hk
    change execFlashReadFail c b p s = _
    simp only [execFlashReadFail, hx, hk, modStore] <;> rfl
  case locks =>
    intro l hl
    refine ⟨fun hpend hbusy => ⟨fun r hr => ?ends, fun hr => ?activates⟩, fun hexp hdma => ?expires⟩
    case ends =>
      change execLockActivate p s = _
      simp only [execLockActivate, hl, hpend, hbusy, hr, Bool.false_eq_true, or_self, if_false, modStore]
    case activates =>
      change execLockActivate p s = _
      simp only [execLockActivate, hl, hpend, hbusy, hr, Bool.false_eq_true, or_self, if_false, modStore]
    case expires =>
      change execLockExpiry p s = _
      simp only [execLockExpiry, hl, hexp, hdma, Option.isSome_none, Bool.false_eq_true, or_self, if_false]

end Sys2Proof.Laws
end

section
/-! Settles O55: the STORE commands. -/

namespace Sys2Proof.Laws

open Sys2Proof.Machine Sys2Proof.Safety

/-- A lock that is released is freed, and a STORE.LOCK that waits for it ends. -/
theorem releaseLock_waited {s : State} {i st : Nat} {l : RLock} {c : CmdRef} (hl : tabFind s.store.locks i = some l) (hc : l.cmd = some c) :
    releaseLock s i st = complete (freeLock s i) c st 0 0 := by
  simp only [releaseLock, hl, hc]

/-- A lock that is released is freed; with no STORE.LOCK waiting nothing else happens. -/
theorem releaseLock_free {s : State} {i st : Nat} {l : RLock} (hl : tabFind s.store.locks i = some l) (hc : l.cmd = none) :
    releaseLock s i st = freeLock s i := by
  simp only [releaseLock, hl, hc]

/-- Settles O55: each command starts, and its body's conditions leave one branch. -/
theorem storeCommandsComplete : Obligations.StoreCommandsComplete := by
  unfold Obligations.StoreCommandsComplete
  intro s r x
  dsimp only
  refine ⟨?split, ?create, ?release, ?list, ?arb, ?health⟩
  case split =>
    intro h htrial
    refine ⟨fun hgrow hfit => ?grows, fun hshrink => ⟨fun hts => ?empty, fun hts hmoves => ?moves⟩⟩
    case grows =>
      change execStoreSplit r s = _
      refine (runCmd_takes h).trans ?_
      simp only [htrial, hgrow, Nat.not_lt.mpr hfit, Bool.false_eq_true, if_false, if_true, modStore]
    case empty =>
      change execStoreSplit r s = _
      refine (runCmd_takes h).trans ?_
      simp only [htrial, Nat.not_le.mpr hshrink, Bool.false_eq_true, if_false, modStore, hts]
    case moves =>
      obtain ⟨q, hq, hmig⟩ := hmoves
      change execStoreSplit r s = _
      refine (runCmd_takes h).trans ?_
      simp only [htrial, Nat.not_le.mpr hshrink, Bool.false_eq_true, if_false, modStore]
      obtain ⟨a, as, ha⟩ := List.exists_cons_of_ne_nil hts
      rw [ha] at hq ⊢
      exact congrArg Host.Outcome.next (if_pos (List.any_eq_true.mpr ⟨q, hq, hmig⟩))
  case create =>
    intro ns i h hop hnew hns hslba hnlb hend hfree
    have hsel : decide (parFld x.entry 0 1 0 = 0 ∨ parFld x.entry 0 1 0 = 3) = true := by simp [hop]
    have hnew' : ((begun s r).store.locks.any fun l => decide (l.2.cmd = some r)) = false :=
      List.any_eq_false.mpr fun l hl => by simpa using hnew l hl
    have hlen : ¬ (par x.entry 16 8 = 0 ∨ ns.nsze < par x.entry 8 8 + par x.entry 16 8) :=
      not_or.mpr ⟨hnlb, Nat.not_lt.mpr hend⟩
    change execStoreLockCreate r s = _
    refine (runCmdIf_takes (checks := fun _ e => lockChecks e) h hsel).trans ?_
    simp only [hnew', hns, Nat.not_le.mpr hslba, hlen, hfree, Bool.false_eq_true, if_false, modStore]
  case release =>
    intro l h hop hl hdma
    have hsel : decide (parFld x.entry 0 1 0 = 1) = true := by simp [hop]
    refine ⟨fun hc => ?frees, fun c hc => ?cancels⟩
    case frees =>
      change execStoreLockRelease r s = _
      refine (runCmdIf_takes (checks := fun _ e => lockChecks e) h hsel).trans ?_
      simp only [hl, hdma, releaseLock_free hl hc, Option.isSome_none, Bool.false_eq_true, if_false]
    case cancels =>
      change execStoreLockRelease r s = _
      refine (runCmdIf_takes (checks := fun _ e => lockChecks e) h hsel).trans ?_
      simp only [hl, hdma, releaseLock_waited hl hc, Option.isSome_none, Bool.false_eq_true, if_false]
  case list =>
    intro h hop
    have hsel : decide (parFld x.entry 0 1 0 = 2) = true := by simp [hop]
    change execStoreLockList r s = _
    exact runCmdIf_takes (checks := fun _ e => lockChecks e) h hsel
  case arb =>
    intro h htrial
    change execStoreArb r s = _
    refine (runCmd_takes h).trans ?_
    simp only [htrial, Bool.false_eq_true, if_false, modStore]
  case health =>
    intro h
    change execStoreHealth r s = _
    exact runCmd_takes h

end Sys2Proof.Laws
end

section
/-! Settles O56: watchdogs, failed starts and the FW commands. -/

namespace Sys2Proof.Laws

open Sys2Proof.Machine Sys2Proof.Safety

/-- A slot that can be activated is VALID and its configuration format is not older than the one in force. -/
theorem canActivate_slot {s : State} {n : Nat} (h : canActivate s n = true) :
    ¬ ((fwSlot s.ctl n).st ≠ slValid ∨ (fwSlot s.ctl n).cfgfmt < s.ctl.cfgFmt) := by
  simp only [canActivate, Bool.and_eq_true, decide_eq_true_eq] at h
  obtain ⟨⟨hvalid, -⟩, hfmt⟩ := h
  exact not_or.mpr ⟨not_not_intro hvalid, Nat.not_lt.mpr hfmt⟩

/-- Settles O56: each event takes the branch that its conditions leave, and each command starts and runs its body. -/
theorem firmwareComplete : Obligations.FirmwareComplete := by
  unfold Obligations.FirmwareComplete
  intro s r x src seq fail
  dsimp only
  refine ⟨fun hruns => if_pos hruns, ?heartbeat, ?startFails, ?trialLapses, ?recovery, ?download, ?commit, ?activate, ?confirm, ?revert,
    ?status⟩
  case heartbeat =>
    intro hup hrec
    have hgo : ¬ (s.ctl.start ≠ .up ∨ s.ctl.recovery = true) := by simp [hup, hrec]
    refine ⟨fun hlo hhi => (if_neg hgo).trans (if_pos ⟨hlo, hhi⟩), fun hsrc => (if_neg hgo).trans ((if_neg ?_).trans (if_pos hsrc))⟩
    simp only [srcSeq] at hsrc
    omega
  case startFails =>
    intro t cold hst
    change execStartFailureTimeout s = _
    simp only [execStartFailureTimeout, hst]
  case trialLapses =>
    intro n ready k hconf hready htrial
    have hgo : ¬ (ready = 0 ∨ (slotIn s.ctl slTrial).isNone = true) := by simp [hready, htrial]
    change execConfirmsTimeout s = _
    simp only [execConfirmsTimeout, hconf, hgo, if_false]
  case recovery =>
    intro t hst hchosen
    change execRecoveryRequest s = _
    simp only [execRecoveryRequest, hst, hchosen, Bool.false_eq_true, if_false, modCtl]
  case download =>
    intro h
    refine ⟨fun hlen => ?empty, fun hlen hbuf => ?asks, fun bs hlen hbuf => ?stages⟩
    case empty =>
      change execFwDownload r s = _
      exact (runCmd_takes h).trans (congrArg Host.Outcome.next (if_pos hlen))
    case asks =>
      have hbuf' : hostBuf { x with started := true } = none := hbuf
      change execFwDownload r s = _
      refine (runCmd_takes h).trans ?_
      simp only [hlen, hbuf', if_false]
    case stages =>
      have hbuf' : hostBuf { x with started := true } = some bs := hbuf
      change execFwDownload r s = _
      refine (runCmd_takes h).trans ?_
      simp only [hlen, hbuf', if_false, modCtl]
  case commit =>
    intro h hact htrial hpend
    have hgo : ¬ ((fwSlot (begun s r).ctl (parFld x.entry 0 0 0)).st = slActive ∨ (fwSlot (begun s r).ctl (parFld x.entry 0 0 0)).st = slTrial ∨
        slotPending (begun s r) (parFld x.entry 0 0 0) = true) := by simp [hact, htrial, hpend]
    change execFwCommit r fail s = _
    refine (runCmd_takes h).trans ((congrArg Host.Outcome.next (if_neg hgo)).trans ?_)
    rcases imageOf (begun s r) (cellReads (begun s r).ctl.staging 0 (begun s r).ctl.staged) with (_ | _) | img
    · rfl
    · rfl
    · rfl
    · cases bootWrite (begun s r) fail <;> rfl
  case activate =>
    intro h hwait hact hcan
    refine ⟨fun ht => ?atOnce, fun ht hrec hsched => ?later⟩
    case atOnce =>
      change execFwActivate r s = _
      refine (runCmd_takes h).trans ?_
      simp only [hwait, hact, canActivate_slot hcan, ht, hcan, Option.isSome_none, Bool.false_eq_true, ne_eq, not_true_eq_false, and_false,
        if_false, if_true]
    case later =>
      change execFwActivate r s = _
      refine (runCmd_takes h).trans ?_
      simp only [hwait, hact, canActivate_slot hcan, ht, hrec, hsched, Option.isSome_none, Bool.false_eq_true, false_and, if_false, modCtl]
  case confirm =>
    intro w h hraise hboot
    have hgo : ¬ ((parFlg x.entry 0 0 && decide ((begun s r).ctl.minSecver < (fwSlot (begun s r).ctl (begun s r).ctl.running).secver)) = true ∧
        64 ≤ (begun s r).ctl.raises) := fun hc => absurd (hraise hc.1) (Nat.not_lt.mpr hc.2)
    refine ⟨fun htrial => ?plain, fun n htrial => ?confirms⟩
    case plain =>
      change execFwConfirm r fail s = _
      refine (runCmd_takes h).trans ((congrArg Host.Outcome.next (if_neg hgo)).trans ?_)
      simp only [hboot, htrial, modCtl]
    case confirms =>
      change execFwConfirm r fail s = _
      refine (runCmd_takes h).trans ((congrArg Host.Outcome.next (if_neg hgo)).trans ?_)
      simp only [hboot, htrial, modCtl] <;> rfl
  case revert =>
    intro w n h htrial hboot
    change execFwRevert r fail s = _
    refine (runCmd_takes h).trans ?_
    simp only [htrial, hboot, Option.isNone_some, Bool.false_eq_true, if_false]
  case status =>
    intro h
    change execFwStatus r s = _
    exact runCmd_takes h

end Sys2Proof.Laws
end

section
/-! Settles O57: the SEC commands. -/

namespace Sys2Proof.Laws

open Sys2Proof.Machine Sys2Proof.Safety

/-- Settles O57: each command starts and its body runs; a life-cycle token is judged by cases of its checks. -/
theorem securityComplete : Obligations.SecurityComplete := by
  unfold Obligations.SecurityComplete
  intro s r x fail
  dsimp only
  refine ⟨?status, ?nonce, ?identity, ?attest, ?lifecycle⟩
  case status =>
    intro h
    change execSecStatus r s = _
    exact runCmd_takes h
  case nonce =>
    intro h
    change execSecNonce r s = _
    exact runCmd_takes h
  case identity =>
    intro h
    change execSecIdentity r s = _
    exact runCmd_takes h
  case attest =>
    intro h
    change execSecAttest r s = _
    exact runCmd_takes h
  case lifecycle =>
    intro h hbusy
    refine ⟨fun hbuf => ?asks, fun raw key may hbuf hbad hfrom hkey => ?judges⟩
    case asks =>
      have hbuf' : hostBuf { x with started := true } = none := hbuf
      change execSecLifecycle r fail s = _
      refine (runCmd_takes h).trans ?_
      simp only [hbusy, hbuf', Bool.false_eq_true, if_false]
    case judges =>
      have hbuf' : hostBuf { x with started := true } = some raw := hbuf
      change execSecLifecycle r fail s = _
      refine (runCmd_takes h).trans ?_
      simp only [hbusy, hbuf', hbad, hfrom, hkey, Bool.false_eq_true, ne_eq, not_true_eq_false, or_self, if_false, modCtl]
      cases hauth : tokenAuth (begun s r).ctl (padTo 5328 raw) key may with
      | false => rfl
      | true =>
        by_cases hfull : byteAt (padTo 5328 raw) 7 = 3 ∧ 8 ≤ (begun s r).ctl.returns
        · simp [hfull]
        · simp only [hfull, Bool.not_true, Bool.false_eq_true, Bool.true_eq_false, if_false] <;> rfl

end Sys2Proof.Laws
end

section
/-! Settles O58: governor periods, sensor samples, publications and hardware errors. -/

namespace Sys2Proof.Laws

open Sys2Proof.Machine Sys2Proof.Safety

/-- A control die that runs is in a module that is on. -/
theorem start_on_of_ctlRuns {s : State} (h : ctlRuns s = true) : s.ctl.start ≠ .off := by
  intro hoff
  simp [ctlRuns, hoff] at h

/-- A sample of a module that is on and whose control die runs. -/
theorem sensorSample_runs {s : State} (hruns : ctlRuns s = true) (inlet outlet : Int) (flow : Nat) (dies : List Int) (temp : Nat) :
    execSensorSample inlet outlet flow dies temp s =
      (let dt := msTicks - s.clk.ticks % msTicks
      let s1 := modPower (advance s dt) fun p => { p with inlet := inlet, outlet := outlet, flow := flow, dies := dies.take 40 }
      let s3 := sinceMarks (clampNote s (critNote s1 (modStore s1 fun v => { v with
        warmTicks := if 348 ≤ v.temp then v.warmTicks + dt else v.warmTicks
        hotTicks := if 358 ≤ v.temp then v.hotTicks + dt else v.hotTicks
        temp := temp })))
      .next (refreshShadow (enterStage s3 (nextStage s3)))) := by
  have hon := start_on_of_ctlRuns hruns
  have hgo : ¬ ((!ctlRuns s) = true) := by simp [hruns]
  unfold execSensorSample
  split
  next hoff => exact absurd hoff hon
  next => exact if_neg hgo

/-- Settles O58: each event takes the branch that its conditions leave. -/
theorem powerEventsComplete : Obligations.PowerEventsComplete := by
  unfold Obligations.PowerEventsComplete
  intro s pmeas work flow temp site unit sub arg b ovr ack inlet outlet dies
  dsimp only
  refine ⟨fun hruns => ⟨?period, ?sample, ?corrected, ?uncorrectable⟩, fun q hq => ⟨?written, fun hnak => ?dropped, fun hnak => ?again⟩,
    fun q hq => ?retry, fun q hq => ?lost⟩
  case period =>
    have hgo : ¬ ((!ctlRuns s) = true) := by simp [hruns]
    exact if_neg hgo
  case sample => exact sensorSample_runs hruns inlet outlet flow dies temp
  case corrected =>
    intro hsite hunit hthere hsub hcp
    have hmod : (unit + 65536 * sub) % 65536 = unit := by omega
    have hdiv : (unit + 65536 * sub) / 65536 = sub := by omega
    have hgo : ¬ ((!ctlRuns s) = true ∨ 10 < site ∨ (!unitExists unit) = true ∨ 5 < sub ∨ (unit ≠ srcCp ∧ sub ≠ 0)) := by
      simp only [hruns, hthere, Bool.not_true, Bool.false_eq_true, false_or]
      omega
    refine ⟨fun hother => ?elsewhere, fun hframe => ?frame⟩
    case elsewhere =>
      change execCorrectedError site (unit + 65536 * sub) arg s = _
      unfold execCorrectedError
      rw [hmod, hdiv]
      exact (if_neg hgo).trans (if_pos hother)
    case frame =>
      change execCorrectedError site (unit + 65536 * sub) arg s = _
      unfold execCorrectedError
      rw [hmod, hdiv]
      exact (if_neg hgo).trans (if_neg (not_not_intro hframe))
  case uncorrectable =>
    intro hsite hnot hthere
    have hgo : ¬ ((!ctlRuns s) = true ∨ 10 < site ∨ site = 7 ∨ (!unitExists unit) = true) := by
      simp only [hruns, hthere, Bool.not_true, Bool.false_eq_true, false_or, or_false]
      omega
    exact if_neg hgo
  case written =>
    change execPlanPublish true s = _
    simp only [execPlanPublish, hq]
    rfl
  case dropped =>
    change execPlanPublish false s = _
    simp only [execPlanPublish, hq, pubWrite, hnak, Bool.false_eq_true, if_false, if_true]
    rfl
  case again =>
    change execPlanPublish false s = _
    simp only [execPlanPublish, hq, pubWrite, Nat.not_le.mpr hnak, Bool.false_eq_true, if_false]
    rfl
  case retry =>
    change execPlanPublishRetry ack s = _
    simp only [execPlanPublishRetry, hq]
  case lost =>
    change execPmbusArbitrationLoss s = _
    simp only [execPmbusArbitrationLoss, hq, modPower]

end Sys2Proof.Laws
end
